-- ==== Sys2Proof/Word.lean ====
section
/-! DEFINITION. The word types of the machine (R86, R99, R102): bytes, halfwords, data words and 64-bit registers, and the
256-byte vector value, whose image (R78) is one bit vector with lane i at bits 32i + 31 : 32i. -/

namespace Sys2Proof

abbrev Byte := BitVec 8
abbrev W16 := BitVec 16
abbrev W32 := BitVec 32
abbrev W64 := BitVec 64

/-- A vector value: 64 lanes of 32 bits, as the 256-byte image of R78. -/
abbrev VReg := BitVec 2048

end Sys2Proof
end

