-- ==== Sys2Proof/Config.lean ====
section
/-! DEFINITION. What an implementation fixes and what the spec leaves open: constants without a body, so that no proof can
use a value of theirs. -/

namespace Sys2Proof.Config

/-- R36, R48: the undefined contents of an accumulator tile; `g` numbers the occasion, `i` the word (0 to 4,095 the
values, from 4,096 the flag bits). -/
opaque freeTile (g i : Nat) : W32

/-- R295: the byte that a line written under key number `written` shows at `addr` to a reader under key number `read`. -/
opaque unrelated (written read addr : Nat) : Byte

/-- R197: byte `addr` of another package's memory, as this module's reset finds it. -/
opaque remoteByte (addr : Nat) : Byte

/-- R145, R159: which entry of a full L1 or translation cache leaves it, when nothing else decides. -/
opaque victim (n : Nat) : Nat

/-- R198: the pseudo-channel of a compute-capable frame, as firmware chose it, modulo 64. -/
opaque frameChannel (frame : Nat) : Nat

/-- R198: BR0 / 128 of a compute-capable frame, as firmware chose it. -/
opaque frameRow (frame : Nat) : Nat

/-- R202: where the seed row and the control row of a subarray lie in it: before this row of its 512. -/
opaque controlPlace (bank subarray : Nat) : Nat

/-- R13: the pseudo-channel at which the rotation of an ordinary page starts. -/
opaque rotation (frame : Nat) : Nat

/-- R301: the code byte at an address of another package, as a gang finds it at its placement (R52). -/
opaque remoteCode (gang addr : Nat) : Byte

/-- R276: the `n`-th word of the hub die's random bit generator. -/
opaque randomWord (n : Nat) : W64

/-- R250: byte `i` of the parts of a context area whose inner layout the spec does not give, as save number `n` writes them. -/
opaque areaByte (n i : Nat) : Byte

/-- R250: what the device reads out of such a part of a context area that the supervisor has changed: its value number `i`. -/
opaque areaField (part : List Byte) (i : Nat) : W64

/-- The device wrapping key, which derives from the device secret and the owner-key digests (R295). -/
opaque wrappingKey (owner : BitVec 384) : BitVec 256

/-- The public halves of the device identity key pair, one Ed25519 and one ML-DSA-65 key, and the maker's certificate of them (R293). -/
opaque identityKeys : List Byte
opaque makerCertificate : List Byte

/-- The attestation public keys that derive from the device secret and the measurements, and their certificate by the identity keys (R293). -/
opaque attestPublic (attest : List Byte) : List Byte
opaque certifyAttest (keys : List Byte) : List Byte

/-- The two attestation signatures over a job record's signed bytes (R297): 3,373 bytes from byte 512 on. `attest` is what the attestation
keys derive from beside the device secret (R293). -/
opaque signRecord (attest message : List Byte) : List Byte

/-- The Ed25519 and ML-DSA-65 attestation signature over the digest of the records that the flash mailbox returns (R298). -/
opaque signMailbox (attest : List Byte) (digest : BitVec 384) : List Byte

end Sys2Proof.Config
end

