-- ==== Sys2Proof/Syntax.lean ====
section
/-! DEFINITION. The steps of the machine as syntax: `Instr` has one constructor per row of
spec/opcode_table.json. The first part are the encoded Sorax instructions (R86 to R93): each carries its stitch
bit `st` (R53) and the bit fields of its encoding, as the word holds them; the cluster that issues it is not part of
the word (R86: each cluster decodes its own map). The second part are the steps that have no encoding (95_what_each_step_holds.md):
each carries what the outside world, or a choice that the spec leaves open, supplies to it. -/

namespace Sys2Proof

/-- The four clusters of a context (R51), in cluster order A, V, M, S. -/
inductive Cluster | A | V | M | S
  deriving DecidableEq, Repr

/-- Supervisor MMIO registers that software writes whole and that have no row of their own (R284). `die` and `quad`
number the per-die and the per-quad copy; `g` the group slot (R252). -/
inductive MmioReg
  | plctl | plint | tiercfg | qtbase | ctxtbase | asidtbase | smpcfg | jrnbase | keyblob
  | arrcfg (quad : Nat) | actcfg (die : Nat) | errring (die : Nat)
  | grpcfg (g : Nat) | grpmem (g j : Nat) | grparea (g : Nat)
  | moddom | lifeest | rststs | leadls | meas (i : Nat)
  | signalPage | podHoop (entry : Nat) | returnCore (core : Nat)
  | accevict (quad : Nat) | leadcmd | rstctl | xinv | qmapcmd | keycmd | wakeFifo | nonce
  | keySlot (id : Nat) | notifySlot (i : Nat) | queueSlot (qid : Nat)
  deriving DecidableEq, Repr

/-- What a JOIN carries besides the header (R253, R269, R306); `entering` tells that its sender is a standby in DARNING, `answer` that it
answers another JOIN (log 81). -/
structure JoinInfo where
  k : Nat
  m : Nat
  rcnt : Nat
  members : List (BitVec 64)
  round : BitVec 32
  commit : Option (BitVec 32)
  ready : Bool
  entering : Bool
  answer : Bool
  pkg : Nat
  deriving DecidableEq, Repr

/-- A group message as it arrives (R265): header fields and payload line. `member` is the member that a LOSS names,
`held` the answer of a QREPLY, `join` what a JOIN carries. -/
structure GroupMsg where
  sender : Nat
  gid : BitVec 16
  round : BitVec 32
  seq : BitVec 32
  stripe : BitVec 32
  row : Nat
  payload : BitVec 512
  member : Nat
  held : Bool
  join : Option JoinInfo
  deriving DecidableEq, Repr

/-- One share of a stripe: the member that gave it and its 64-byte chunk (R267, R270). -/
structure GroupShare where
  member : Nat
  chunk : BitVec 512
  deriving DecidableEq, Repr

/-- Where an uncorrectable error strikes (R272, classes of Table 14.1); for a die cache and a link, whose queued access it was that met it:
context and place. -/
inductive ErrorSite
  | hbm (line : Nat) | dieCache (line : Nat) (met : Option (Nat × Nat)) | dieLine (line : Nat) | scratchpad (cid addr : Nat)
  | operandRow (quad slot row : Nat) | tileRow (quad tile row : Nat) | link (port : Nat) (met : Option (Nat × Nat)) | capacity (page : Nat)
  | l1 (cid idx : Nat) | bobbin (cid addr : Nat) | counter (bank row : Nat)
  deriving DecidableEq, Repr

/-- A request of a UALink peer at this package (R299): `addr` is a local address. A write of the group window is its 128 bytes (R265), with
the configuration that a JOIN carries. `repairRead` and `repairDone` are those of a member's Footside engine that repairs a line: it locks the
stripe and asks for this member's share, and unlocks it (R267, log 82). -/
inductive FabricReq
  | read (addr size : Nat) | write (addr size : Nat) (v : BitVec 2048)
  | atomic (addr size : Nat) (op : BitVec 4) (v : BitVec 64) | cas (addr size : Nat) (expect new : BitVec 64)
  | signal (addr : Nat) (v : BitVec 64)
  | groupWindow (data : BitVec 1024) (join : Option JoinInfo)
  | repairRead (gid : BitVec 16) (stripe : Nat) | repairDone (gid : BitVec 16) (stripe : Nat)
  deriving DecidableEq, Repr

/-- What an accepted Ultra Ethernet packet carries (R288, R301). -/
inductive UetPayload
  | notify (src : BitVec 16) (msg : BitVec 192) | other
  deriving DecidableEq, Repr

/-- One access of a supervisor hart to device memory (R283); `lr`, `sc` and `amo` are those of its A extension, with the operation codes of
AMO. -/
inductive HartAccess
  | load (addr size : Nat) | store (addr size : Nat) (v : BitVec 64) | fence
  | lr (addr size : Nat) | sc (addr size : Nat) (v : BitVec 64) | amo (addr size : Nat) (op : BitVec 4) (v : BitVec 64)
  deriving DecidableEq, Repr

/-- One constructor per row of spec/opcode_table.json, in its order but for the last ten: Lean's compiler numbers no constructor with
fields above 244, and these are built by no definition. -/
inductive Instr
  | accfill (st : Bool) (n : BitVec 4)
  | accspill (st : Bool) (n : BitVec 4)
  | accz (st : Bool) (n : BitVec 4)
  | aclaim (st : Bool) (n : BitVec 4)
  | add (st : Bool) (rd : BitVec 5) (rs1 : BitVec 5) (rs2 : BitVec 5)
  | add16 (st : Bool) (rd : BitVec 5) (rs : BitVec 5)
  | addi (st : Bool) (rd : BitVec 5) (rs1 : BitVec 5) (imm : BitVec 15)
  | addi16 (st : Bool) (rd : BitVec 5) (imm : BitVec 5)
  | adrain (st : Bool) (n : BitVec 4) (ma : BitVec 5) (mb : BitVec 5) (mc : BitVec 5) (scope : BitVec 3) (ty : BitVec 3)
  | afree (st : Bool) (n : BitVec 4)
  | amo (st : Bool) (b : BitVec 4) (ret : Bool) (base : BitVec 5) (rs : BitVec 5) (op : BitVec 4) (w : Bool) (ord : BitVec 2) (scope : BitVec 3)
  | and (st : Bool) (rd : BitVec 5) (rs1 : BitVec 5) (rs2 : BitVec 5)
  | andn (st : Bool) (rd : BitVec 5) (rs1 : BitVec 5) (rs2 : BitVec 5)
  | bgive (st : Bool) (b : BitVec 4) (n1 : BitVec 2)
  | bgive16 (st : Bool) (b : BitVec 4)
  | blk (st : Bool) (len : BitVec 11) (rep : BitVec 8) (rsrc : Bool) (stg : BitVec 3) (pre : Bool)
  | br (st : Bool) (off : BitVec 25)
  | brb (st : Bool) (b : BitVec 4) (off : BitVec 21)
  | brc (st : Bool) (cond : BitVec 3) (reg : BitVec 5) (off : BitVec 17)
  | brk (st : Bool) (imm : BitVec 16)
  | bstat (st : Bool) (b : BitVec 4) (reg : BitVec 6)
  | btake (st : Bool) (b : BitVec 4) (n1 : BitVec 2) (r : Bool) (reg : BitVec 6)
  | btake16 (st : Bool) (b : BitVec 4)
  | cas (st : Bool) (b : BitVec 4) (base : BitVec 5) (new : BitVec 5) (exp : BitVec 5) (w : Bool) (ord : BitVec 2) (scope : BitVec 3)
  | chkerr (st : Bool) (reg : BitVec 6)
  | clz (st : Bool) (rd : BitVec 5) (rs1 : BitVec 5)
  | cmp (st : Bool) (rd : BitVec 5) (rs1 : BitVec 5) (rs2 : BitVec 5) (cond : BitVec 3)
  | darn (st : Bool) (ra : BitVec 5) (rb : BitVec 5) (rc : BitVec 5)
  | div (st : Bool) (rd : BitVec 5) (rs1 : BitVec 5) (rs2 : BitVec 5) (u : Bool)
  | enq (st : Bool) (ra : BitVec 5) (rb : BitVec 5) (rc : BitVec 5)
  | fence (st : Bool) (scope : BitVec 3)
  | flset (st : Bool) (f : BitVec 3) (v : Bool)
  | flsetSet16 (st : Bool) (f : BitVec 3)
  | flsetClear16 (st : Bool) (f : BitVec 3)
  | flwait (st : Bool) (f : BitVec 3) (clr : Bool)
  | flwait16 (st : Bool) (f : BitVec 3)
  | flwaitClr16 (st : Bool) (f : BitVec 3)
  | fwq (st : Bool) (ma : BitVec 5)
  | getsr (st : Bool) (reg : BitVec 6) (num : BitVec 8)
  | halt (st : Bool)
  | halt16 (st : Bool)
  | harrive (st : Bool) (h : BitVec 3) (leave : Bool)
  | hwait (st : Bool) (h : BitVec 3)
  | knot (st : Bool)
  | ld (st : Bool) (rd : BitVec 5) (base : BitVec 5) (sz : BitVec 3) (cls : BitVec 2) (off : BitVec 8)
  | ldb (st : Bool) (b : BitVec 4) (base : BitVec 5) (sp : Bool) (sz : BitVec 3) (cls : BitVec 2) (off : BitVec 8)
  | ldbOrdered (st : Bool) (b : BitVec 4) (base : BitVec 5) (sz : BitVec 3) (cls : BitVec 2) (ord : BitVec 2) (scope : BitVec 3)
  | ldg (st : Bool) (bd : BitVec 4) (bi : BitVec 4) (base : BitVec 5) (cls : BitVec 2) (esz : BitVec 2) (sh : BitVec 3) (sp : Bool)
  | ldlit (st : Bool) (rd : BitVec 5) (off : BitVec 20)
  | lease (st : Bool) (ma : BitVec 5) (f : BitVec 3)
  | lfree (st : Bool)
  | lhint (st : Bool) (ra : BitVec 5) (rb : BitVec 5) (rc : BitVec 5)
  | li (st : Bool) (rd : BitVec 5) (imm : BitVec 20)
  | li16 (st : Bool) (rd : BitVec 5) (imm : BitVec 5)
  | lih (st : Bool) (rd : BitVec 5) (h : BitVec 2) (imm : BitVec 16)
  | lsflag (st : Bool) (ma : BitVec 5) (clr : Bool) (sum : Bool) (n : BitVec 4)
  | max (st : Bool) (rd : BitVec 5) (rs1 : BitVec 5) (rs2 : BitVec 5) (u : Bool)
  | min (st : Bool) (rd : BitVec 5) (rs1 : BitVec 5) (rs2 : BitVec 5) (u : Bool)
  | mma (st : Bool) (n : BitVec 4) (xa : BitVec 6) (xb : BitVec 6) (z : Bool)
  | mov (st : Bool) (rd : BitVec 5) (rs1 : BitVec 5)
  | mov16 (st : Bool) (rd : BitVec 5) (rs : BitVec 5)
  | mul (st : Bool) (rd : BitVec 5) (rs1 : BitVec 5) (rs2 : BitVec 5)
  | mulh (st : Bool) (rd : BitVec 5) (rs1 : BitVec 5) (rs2 : BitVec 5) (u : Bool)
  | nbenter (st : Bool) (ra : BitVec 5) (rc : BitVec 5)
  | nbexit (st : Bool) (ra : BitVec 5) (rc : BitVec 5)
  | nbload (st : Bool) (ra : BitVec 5) (rb : BitVec 5) (rc : BitVec 5)
  | nbmac (st : Bool) (ra : BitVec 5) (rc : BitVec 5) (h : Bool)
  | nbread (st : Bool) (ra : BitVec 5) (rc : BitVec 5) (b : BitVec 4)
  | nop (st : Bool)
  | nop16 (st : Bool)
  | or (st : Bool) (rd : BitVec 5) (rs1 : BitVec 5) (rs2 : BitVec 5)
  | pcnt (st : Bool) (d : BitVec 7) (pa : BitVec 4)
  | pfirst (st : Bool) (d : BitVec 7) (pa : BitVec 4)
  | plog (st : Bool) (pd : BitVec 4) (pa : BitVec 4) (pb : BitVec 4) (op : BitVec 3)
  | popc (st : Bool) (rd : BitVec 5) (rs1 : BitVec 5)
  | ppack (st : Bool) (d : BitVec 7) (g : Bool)
  | probe (st : Bool) (rd : BitVec 5) (ra : BitVec 5) (t : BitVec 4) (off : BitVec 11)
  | probeCfg (st : Bool) (ra : BitVec 5) (t : BitVec 4)
  | prot (st : Bool) (ra : BitVec 5) (rb : BitVec 5) (rc : BitVec 5) (set : Bool)
  | pset (st : Bool) (pd : BitVec 4) (n : BitVec 7)
  | punpk (st : Bool) (a : BitVec 7) (g : Bool)
  | recfl (st : Bool) (ra : BitVec 5)
  | rem (st : Bool) (rd : BitVec 5) (rs1 : BitVec 5) (rs2 : BitVec 5) (u : Bool)
  | rndend (st : Bool) (ra : BitVec 5) (rc : BitVec 5)
  | rowcp (st : Bool) (ra : BitVec 5) (rb : BitVec 5) (rc : BitVec 5) (n1 : BitVec 5)
  | rowfill (st : Bool) (ra : BitVec 5) (rb : BitVec 5) (rc : BitVec 5) (n1 : BitVec 5)
  | rowlog (st : Bool) (ra : BitVec 5) (rb : BitVec 5) (rc : BitVec 5) (op : BitVec 3) (n1 : BitVec 2)
  | sclaim (st : Bool) (n : BitVec 6)
  | sel (st : Bool) (rd : BitVec 5) (rs1 : BitVec 5) (rs2 : BitVec 5) (rc : BitVec 5)
  | setsr (st : Bool) (reg : BitVec 6) (num : BitVec 8)
  | sfree (st : Bool) (n : BitVec 6)
  | shgo (st : Bool) (ra : BitVec 5) (rb : BitVec 5) (rc : BitVec 5) (ch : Bool)
  | shl (st : Bool) (rd : BitVec 5) (rs1 : BitVec 5) (rs2 : BitVec 5)
  | shr (st : Bool) (rd : BitVec 5) (rs1 : BitVec 5) (rs2 : BitVec 5)
  | shwm (st : Bool) (ch : Bool) (rd : BitVec 5)
  | signal (st : Bool) (ra : BitVec 5) (rb : BitVec 5)
  | sra (st : Bool) (rd : BitVec 5) (rs1 : BitVec 5) (rs2 : BitVec 5)
  | st (st : Bool) (rd : BitVec 5) (base : BitVec 5) (sp : Bool) (sz : BitVec 3) (cls : BitVec 2) (off : BitVec 8)
  | stOrdered (st : Bool) (rd : BitVec 5) (base : BitVec 5) (sz : BitVec 3) (cls : BitVec 2) (ord : BitVec 2) (scope : BitVec 3)
  | stb (st : Bool) (b : BitVec 4) (base : BitVec 5) (sp : Bool) (cls : BitVec 2) (off : BitVec 12)
  | stbOrdered (st : Bool) (b : BitVec 4) (base : BitVec 5) (cls : BitVec 2) (ord : BitVec 2) (scope : BitVec 3)
  | stsc (st : Bool) (bd : BitVec 4) (bi : BitVec 4) (base : BitVec 5) (cls : BitVec 2) (esz : BitVec 2) (sh : BitVec 3) (sp : Bool)
  | sub (st : Bool) (rd : BitVec 5) (rs1 : BitVec 5) (rs2 : BitVec 5)
  | sub16 (st : Bool) (rd : BitVec 5) (rs : BitVec 5)
  | trap (st : Bool) (imm : BitVec 16)
  | tret (st : Bool)
  | vadd (st : Bool) (d : BitVec 7) (a : BitVec 7) (b : BitVec 7) (m : Bool)
  | vbcast (st : Bool) (d : BitVec 7) (a : BitVec 7) (n : BitVec 6) (m : Bool)
  | vcmp (st : Bool) (d : BitVec 7) (a : BitVec 7) (b : BitVec 7) (m : Bool) (cond : BitVec 3)
  | vcvt (st : Bool) (d : BitVec 7) (a : BitVec 7) (dty : BitVec 4) (sty : BitVec 4) (part : BitVec 2) (m : Bool)
  | vfabs (st : Bool) (d : BitVec 7) (a : BitVec 7) (m : Bool)
  | vfadd (st : Bool) (d : BitVec 7) (a : BitVec 7) (b : BitVec 7) (m : Bool)
  | vfclass (st : Bool) (d : BitVec 7) (a : BitVec 7) (m : Bool)
  | vfcmp (st : Bool) (d : BitVec 7) (a : BitVec 7) (b : BitVec 7) (m : Bool) (cond : BitVec 3)
  | vfdiv (st : Bool) (d : BitVec 7) (a : BitVec 7) (b : BitVec 7) (m : Bool)
  | vfexp2 (st : Bool) (d : BitVec 7) (a : BitVec 7) (m : Bool)
  | vfill (st : Bool) (r : BitVec 7) (slot : BitVec 11) (p : Bool)
  | vflog2 (st : Bool) (d : BitVec 7) (a : BitVec 7) (m : Bool)
  | vfma (st : Bool) (d : BitVec 7) (a : BitVec 7) (b : BitVec 7) (c : BitVec 4)
  | vfmax (st : Bool) (d : BitVec 7) (a : BitVec 7) (b : BitVec 7) (m : Bool)
  | vfmin (st : Bool) (d : BitVec 7) (a : BitVec 7) (b : BitVec 7) (m : Bool)
  | vfmul (st : Bool) (d : BitVec 7) (a : BitVec 7) (b : BitVec 7) (m : Bool)
  | vfnma (st : Bool) (d : BitVec 7) (a : BitVec 7) (b : BitVec 7) (c : BitVec 4)
  | vfrcp (st : Bool) (d : BitVec 7) (a : BitVec 7) (m : Bool)
  | vfsh (st : Bool) (d : BitVec 7) (a : BitVec 7) (b : BitVec 7) (c : BitVec 4)
  | vfsqrt (st : Bool) (d : BitVec 7) (a : BitVec 7) (m : Bool)
  | vfsub (st : Bool) (d : BitVec 7) (a : BitVec 7) (b : BitVec 7) (m : Bool)
  | vgfma (st : Bool) (d : BitVec 7) (a : BitVec 7) (b : BitVec 7) (c : BitVec 4)
  | vgfmul (st : Bool) (d : BitVec 7) (a : BitVec 7) (b : BitVec 7) (m : Bool)
  | vlog3 (st : Bool) (d : BitVec 6) (a : BitVec 7) (b : BitVec 4) (tt : BitVec 8)
  | vmaxS32 (st : Bool) (d : BitVec 7) (a : BitVec 7) (b : BitVec 7) (m : Bool)
  | vmaxN32 (st : Bool) (d : BitVec 7) (a : BitVec 7) (b : BitVec 7) (m : Bool)
  | vminS32 (st : Bool) (d : BitVec 7) (a : BitVec 7) (b : BitVec 7) (m : Bool)
  | vminN32 (st : Bool) (d : BitVec 7) (a : BitVec 7) (b : BitVec 7) (m : Bool)
  | vmov (st : Bool) (d : BitVec 7) (a : BitVec 7) (m : Bool)
  | vmul (st : Bool) (d : BitVec 7) (a : BitVec 7) (b : BitVec 7) (m : Bool)
  | vpack (st : Bool) (d : BitVec 7) (a : BitVec 7) (b : BitVec 7) (w : BitVec 2) (m : Bool)
  | vperm (st : Bool) (d : BitVec 7) (a : BitVec 7) (b : BitVec 7) (m : Bool)
  | vpopc (st : Bool) (d : BitVec 7) (a : BitVec 7) (m : Bool)
  | vred (st : Bool) (d : BitVec 7) (a : BitVec 7) (m : Bool) (op : BitVec 3)
  | vsel (st : Bool) (d : BitVec 7) (a : BitVec 7) (b : BitVec 7) (c : BitVec 4)
  | vsetl (st : Bool) (n : BitVec 7)
  | vshl (st : Bool) (d : BitVec 7) (a : BitVec 7) (b : BitVec 7) (m : Bool)
  | vshr (st : Bool) (d : BitVec 7) (a : BitVec 7) (b : BitVec 7) (m : Bool)
  | vslideUp (st : Bool) (d : BitVec 7) (a : BitVec 7) (n : BitVec 6) (m : Bool)
  | vslideDown (st : Bool) (d : BitVec 7) (a : BitVec 7) (n : BitVec 6) (m : Bool)
  | vspill (st : Bool) (r : BitVec 7) (slot : BitVec 11) (p : Bool)
  | vsra (st : Bool) (d : BitVec 7) (a : BitVec 7) (b : BitVec 7) (m : Bool)
  | vsub (st : Bool) (d : BitVec 7) (a : BitVec 7) (b : BitVec 7) (m : Bool)
  | vunpk (st : Bool) (d : BitVec 7) (a : BitVec 7) (k : BitVec 7) (w : BitVec 2) (m : Bool)
  | xcall (st : Bool) (off : BitVec 25)
  | xret (st : Bool)
  | xor (st : Bool) (rd : BitVec 5) (rs1 : BitVec 5) (rs2 : BitVec 5)
  | engineWait (cid : Nat)
  | contextSwitch (core : Nat)
  | hoopNotification (cid : Nat) (hoop : Nat)
  | taskRetirement (cid : Nat)
  | gangTermination (gang : Nat)
  | preemptionRequest (gang : Nat)
  | forcedStop (gang : Nat)
  | contextStop (cid : Nat)
  | contextResumption (cid : Nat)
  | engineFaultDelivery (cid : Nat)
  | tileCommandExecution (quad : Nat)
  | shuttleCommandBegin (cid : Nat) (ch : Bool)
  | shuttleCompletion (cid : Nat) (ch : Bool)
  | cutworkExecution (cid : Nat)
  | couchingExecution (cid : Nat)
  | queueEngineExecution (cid : Nat)
  | footsideExecution (cid : Nat)
  | darningStripe (cid : Nat)
  | placementBoundary (interval : Bool)
  | pageMigration (page : Nat) (frame : Nat)
  | evictionStart (stack : Nat)
  | pageEviction (page : Nat) (capPage : Nat)
  | chainDemotion (chain : BitVec 8)
  | launch (slot : Nat)
  | gangPlacement (slot : Nat)
  | gangReserving (slot : Nat)
  | waitsig (slot : Nat)
  | setsig (slot : Nat)
  | mark (slot : Nat)
  | nopPacket (slot : Nat)
  | packetReject (slot : Nat)
  | priorityAging (slot : Nat)
  | faultHoldExpiry (slot : Nat)
  | qnotify (hart : Nat) (v : BitVec 64)
  | remoteNotify (src : BitVec 16) (msg : BitVec 192)
  | nqclr (hart : Nat) (qid : BitVec 16) (peer : BitVec 16)
  | qmapcmdMap (hart : Nat) (v : BitVec 64)
  | qmapcmdUnmap (hart : Nat) (v : BitVec 64)
  | accevict (hart : Nat) (quad : Nat) (v : BitVec 64)
  | xinvPage (hart : Nat) (v : BitVec 64)
  | xinvAsid (hart : Nat) (v : BitVec 64)
  | xinvAll (hart : Nat) (v : BitVec 64)
  | grpcfgForm (hart : Nat) (g : Nat) (v : BitVec 64)
  | grpcfgStby (hart : Nat) (g : Nat) (v : BitVec 64)
  | grpcfgAbrt (hart : Nat) (g : Nat) (v : BitVec 64)
  | grpmemWrite (hart : Nat) (g : Nat) (j : Nat) (v : BitVec 64)
  | heartbeatTimer (g : Nat)
  | memberLoss (g : Nat) (j : Nat)
  | heartbeat (msg : GroupMsg)
  | seal (msg : GroupMsg)
  | delta (msg : GroupMsg)
  | dack (msg : GroupMsg)
  | prepared (msg : GroupMsg)
  | abortreq (msg : GroupMsg)
  | crec (msg : GroupMsg)
  | crecack (msg : GroupMsg)
  | commit (msg : GroupMsg)
  | abort (msg : GroupMsg)
  | loss (msg : GroupMsg)
  | query (msg : GroupMsg)
  | qreply (msg : GroupMsg)
  | shreq (msg : GroupMsg)
  | share (msg : GroupMsg)
  | join (msg : GroupMsg)
  | protectedLineRepair (g : Nat) (line : Nat) (shares : List GroupShare)
  | uncorrectableError (site : ErrorSite)
  | correctableError (stack : Nat) (row : Nat)
  | activationSaturation (bank : Nat) (row : Nat)
  | auditReplayEnd (task : Nat) (sig : BitVec 64) (core : Nat) (clean : Bool)
  | remoteTimeout (cid : Nat) (idx : Nat)
  | ualinkRequest (req : FabricReq)
  | uetPacket (secured : Bool) (reliable : Bool) (payload : UetPayload)
  | leadcmdRenew (die : Nat) (v : BitVec 64)
  | leadcmdTake (die : Nat) (v : BitVec 64)
  | leadcmdResign (die : Nat) (v : BitVec 64)
  | keycmdLoadMemoryKey (hart : Nat) (v : BitVec 64)
  | keycmdZeroiseMemoryKey (hart : Nat) (v : BitVec 64)
  | keycmdLoadNotifyKey (hart : Nat) (v : BitVec 64)
  | keycmdZeroiseNotifyKey (hart : Nat) (v : BitVec 64)
  | measext (hart : Nat) (i : Nat) (digest : BitVec 384)
  | signcmd (hart : Nat) (pa : BitVec 64)
  | flashMailboxRead (hart : Nat)
  | rstctlWarmReset (hart : Nat)
  | rstctlColdReset (hart : Nat)
  | rstctlPtok (hart : Nat)
  | registerWrite (hart : Nat) (reg : MmioReg) (v : BitVec 64)
  | writeLands (cid : Nat)
  | globalAccessPerformed (cid : Nat) (idx : Nat)
  | shuttleElementMove (cid : Nat) (ch : Bool)
  | podHoopArrival (entry : Nat) (leave armed : Bool)
  | periodicRefresh (bank : Nat) (row : Nat)
  | supervisorHartAccess (die : Nat) (acc : HartAccess)
  | powerInputOutOfRange (millivolts : Nat)
  | phyTrainingComplete (full : BitVec 16)
  | linkTrainingComplete (port : Nat)
  | lifeEstimate (est : BitVec 64)
  | thermalSample (watts : Nat) (temps volts : List Nat)
  | leaseLapse
  | powerOnReset
  | powerLoss
  | memoryGateOpen
  | lifetimeMerge
  deriving DecidableEq, Repr

end Sys2Proof
end

