-- ==== Sys2Proof/WellFormed.lean ====
section
/-! DEFINITION. Which instructions a word may hold: the limits that R79 to R95 put on the fields of an encoded
instruction, decided by the instruction and the cluster alone. Each limit has a name of its own. The steps that have no
encoding are no words, so none of them is well formed. A block header (R62) and a hoop number have their limits in their
meanings, since those faults carry another TVAL. -/

namespace Sys2Proof

/-- Why a word with valid opcode bits is no instruction of the cluster (R94). -/
inductive IllFormed
  /-- The cluster's map does not hold the opcode (Tables 4.12 to 4.19). -/
  | wrongCluster
  /-- A register number outside the cluster's file (R79, R87). -/
  | registerRange
  /-- A reserved function, condition or operation value. -/
  | reservedFunction
  /-- A reserved access size or element size. -/
  | reservedSize
  /-- A reserved scope. -/
  | reservedScope
  /-- An ordering that R91 forbids on the instruction. -/
  | ordering
  /-- A V operand value that its position does not admit (R82). -/
  | vectorOperand
  /-- A reserved type code, or a part number beyond the parts of a type (R421, R459). -/
  | typeOrPart
  /-- A field that must be zero beside another field's value. -/
  | mustBeZero
  /-- A lane count outside its range (R384, R452). -/
  | laneCount
  /-- The step has no encoding. -/
  | notEncoded
  deriving DecidableEq, Repr

/-- A 5-bit register field (R79): any value in the A cluster, below 16 in the M and S clusters. -/
def gpr (c : Cluster) (r : BitVec 5) : Bool :=
  match c with
  | .A => true
  | _ => r.toNat < 16

/-- A 6-bit register field of R87: by number in A, M and S, a V operand value 0x00 to 0x37 in V. -/
def reg6 (c : Cluster) (r : BitVec 6) : Bool :=
  match c with
  | .A => r.toNat < 32
  | .V => r.toNat < 56
  | _ => r.toNat < 16

/-- A destination operand (R82): v0 to v47, o0 to o7 or a bobbin slot. -/
def vdst (d : BitVec 7) : Bool := d.toNat < 56 || 64 ≤ d.toNat

/-- A source operand in either position (R82): every value but 0x3E and 0x3F. -/
def vsrc (a : BitVec 7) : Bool := a.toNat ≠ 62 && a.toNat ≠ 63

/-- How many parts of a VCVT type one lane holds (R421); a 32-bit type has one. -/
def parts (ty : Nat) : Nat :=
  match ty with
  | 1 | 2 | 9 | 10 => 2
  | 3 | 4 | 5 | 6 | 7 | 8 => 4
  | _ => 1

/-- R421: PART is 0 between two 32-bit types, and below the part count of every narrower type. -/
def partOk (dty sty part : Nat) : Bool :=
  if parts dty = 1 ∧ parts sty = 1 then part = 0
  else (parts dty = 1 || part < parts dty) && (parts sty = 1 || part < parts sty)

/-- The first error whose test fails. -/
def firstError : List (Bool × IllFormed) → Option IllFormed
  | [] => none
  | (ok, e) :: rest => if ok then firstError rest else some e

/-- The clusters whose map holds a scalar-subset instruction (R88). -/
def inScalar (c : Cluster) : Bool := c != .V

/-- The clusters that decode AMO, FENCE and KNOT (Tables 4.15, 4.16). -/
def inAS (c : Cluster) : Bool := c == .A || c == .S

/-- The limits of an encoded instruction in cluster `c`, in order. -/
def limits (c : Cluster) : Instr → List (Bool × IllFormed)
  | .accfill _ _ => [(c == .M, .wrongCluster)]
  | .accspill _ _ => [(c == .M, .wrongCluster)]
  | .accz _ _ => [(c == .M, .wrongCluster)]
  | .aclaim _ _ => [(c == .M, .wrongCluster)]
  | .add _ rd rs1 rs2 => [(inScalar c, .wrongCluster), (gpr c rd && gpr c rs1 && gpr c rs2, .registerRange)]
  | .add16 _ rd rs => [(inScalar c, .wrongCluster), (gpr c rd && gpr c rs, .registerRange)]
  | .addi _ rd rs1 _ => [(inScalar c, .wrongCluster), (gpr c rd && gpr c rs1, .registerRange)]
  | .addi16 _ rd _ => [(inScalar c, .wrongCluster), (gpr c rd, .registerRange)]
  | .adrain _ _ ma mb mc scope ty =>
      [(c == .M, .wrongCluster),
       (gpr c ma && gpr c mb && gpr c mc, .registerRange),
       (scope.toNat < 5, .reservedScope),
       (ty.toNat < 7, .reservedFunction)]
  | .afree _ _ => [(c == .M, .wrongCluster)]
  | .amo _ b ret base rs op _ ord scope =>
      [(inAS c, .wrongCluster),
       (gpr c base && gpr c rs, .registerRange),
       (op.toNat < 9, .reservedFunction),
       (scope.toNat < 5, .reservedScope),
       (ord.toNat ≠ 0 || scope.toNat = 0, .ordering),
       (c == .A || !ret, .mustBeZero),
       (ret || b.toNat = 0, .mustBeZero)]
  | .and _ rd rs1 rs2 => [(inScalar c, .wrongCluster), (gpr c rd && gpr c rs1 && gpr c rs2, .registerRange)]
  | .andn _ rd rs1 rs2 => [(inScalar c, .wrongCluster), (gpr c rd && gpr c rs1 && gpr c rs2, .registerRange)]
  | .bgive _ _ _ => []
  | .bgive16 _ _ => []
  | .blk _ _ _ _ _ _ => []
  | .br _ _ => []
  | .brb _ _ _ => []
  | .brc _ cond reg _ =>
      [(if c == .V then cond.toNat < 4 else cond.toNat < 6, .reservedFunction),
       (c == .A || reg.toNat < 16, .registerRange)]
  | .brk _ _ => []
  | .bstat _ _ reg => [(reg6 c reg, .registerRange)]
  | .btake _ _ _ r reg =>
      [(!(r && c == .V), .registerRange),
       (r || reg.toNat = 0, .mustBeZero),
       (!r || reg6 c reg, .registerRange)]
  | .btake16 _ _ => []
  | .cas _ _ _ _ _ _ ord scope =>
      [(c == .A, .wrongCluster),
       (scope.toNat < 5, .reservedScope),
       (ord.toNat ≠ 0 || scope.toNat = 0, .ordering)]
  | .chkerr _ reg => [(reg6 c reg, .registerRange)]
  | .clz _ rd rs1 => [(inScalar c, .wrongCluster), (gpr c rd && gpr c rs1, .registerRange)]
  | .cmp _ rd rs1 rs2 cond =>
      [(inScalar c, .wrongCluster),
       (gpr c rd && gpr c rs1 && gpr c rs2, .registerRange),
       (cond.toNat < 6, .reservedFunction)]
  | .darn _ _ _ _ => [(c == .A, .wrongCluster)]
  | .div _ rd rs1 rs2 _ => [(inScalar c, .wrongCluster), (gpr c rd && gpr c rs1 && gpr c rs2, .registerRange)]
  | .enq _ _ _ _ => [(c == .A, .wrongCluster)]
  | .fence _ scope => [(inAS c, .wrongCluster), (scope.toNat < 5, .reservedScope)]
  | .flset _ _ _ => []
  | .flsetSet16 _ _ => []
  | .flsetClear16 _ _ => []
  | .flwait _ _ _ => []
  | .flwait16 _ _ => []
  | .flwaitClr16 _ _ => []
  | .fwq _ ma => [(c == .M, .wrongCluster), (gpr c ma, .registerRange)]
  | .getsr _ reg _ => [(reg6 c reg, .registerRange)]
  | .halt _ => []
  | .halt16 _ => []
  | .harrive _ _ _ => []
  | .hwait _ _ => []
  | .knot _ => [(inAS c, .wrongCluster)]
  | .ld _ _ base sz _ _ => [(c == .A, .wrongCluster), (gpr c base, .registerRange), (sz.toNat < 7, .reservedSize)]
  | .ldb _ _ _ _ _ _ _ => [(c == .A, .wrongCluster)]
  | .ldbOrdered _ _ _ _ _ ord scope =>
      [(c == .A, .wrongCluster),
       (scope.toNat < 5, .reservedScope),
       (ord.toNat = 1 || ord.toNat = 3, .ordering)]
  | .ldg _ _ _ _ _ esz _ _ => [(c == .A, .wrongCluster), (esz.toNat < 3, .reservedSize)]
  | .ldlit _ _ _ => [(c == .A, .wrongCluster)]
  | .lease _ ma _ => [(c == .M, .wrongCluster), (gpr c ma, .registerRange)]
  | .lfree _ => [(c == .M, .wrongCluster)]
  | .lhint _ _ _ _ => [(c == .A, .wrongCluster)]
  | .li _ rd _ => [(inScalar c, .wrongCluster), (gpr c rd, .registerRange)]
  | .li16 _ rd _ => [(inScalar c, .wrongCluster), (gpr c rd, .registerRange)]
  | .lih _ rd _ _ => [(inScalar c, .wrongCluster), (gpr c rd, .registerRange)]
  | .lsflag _ ma _ _ _ => [(c == .M, .wrongCluster), (gpr c ma, .registerRange)]
  | .max _ rd rs1 rs2 _ => [(inScalar c, .wrongCluster), (gpr c rd && gpr c rs1 && gpr c rs2, .registerRange)]
  | .min _ rd rs1 rs2 _ => [(inScalar c, .wrongCluster), (gpr c rd && gpr c rs1 && gpr c rs2, .registerRange)]
  | .mma _ _ _ _ _ => [(c == .M, .wrongCluster)]
  | .mov _ rd rs1 => [(inScalar c, .wrongCluster), (gpr c rd && gpr c rs1, .registerRange)]
  | .mov16 _ rd rs => [(inScalar c, .wrongCluster), (gpr c rd && gpr c rs, .registerRange)]
  | .mul _ rd rs1 rs2 => [(inScalar c, .wrongCluster), (gpr c rd && gpr c rs1 && gpr c rs2, .registerRange)]
  | .mulh _ rd rs1 rs2 _ => [(inScalar c, .wrongCluster), (gpr c rd && gpr c rs1 && gpr c rs2, .registerRange)]
  | .nbenter _ _ _ => [(c == .A, .wrongCluster)]
  | .nbexit _ _ _ => [(c == .A, .wrongCluster)]
  | .nbload _ _ _ _ => [(c == .A, .wrongCluster)]
  | .nbmac _ _ _ _ => [(c == .A, .wrongCluster)]
  | .nbread _ _ _ _ => [(c == .A, .wrongCluster)]
  | .nop _ => []
  | .nop16 _ => []
  | .or _ rd rs1 rs2 => [(inScalar c, .wrongCluster), (gpr c rd && gpr c rs1 && gpr c rs2, .registerRange)]
  | .pcnt _ d _ => [(c == .V, .wrongCluster), (vdst d, .vectorOperand)]
  | .pfirst _ d _ => [(c == .V, .wrongCluster), (vdst d, .vectorOperand)]
  | .plog _ _ _ _ op => [(c == .V, .wrongCluster), (op.toNat < 5, .reservedFunction)]
  | .popc _ rd rs1 => [(inScalar c, .wrongCluster), (gpr c rd && gpr c rs1, .registerRange)]
  | .ppack _ d _ => [(c == .V, .wrongCluster), (vdst d, .vectorOperand)]
  | .probe _ _ _ _ off => [(c == .A, .wrongCluster), (off.toNat ≠ 0, .reservedFunction)]
  | .probeCfg _ _ _ => [(c == .A, .wrongCluster)]
  | .prot _ _ _ _ _ => [(c == .A, .wrongCluster)]
  | .pset _ _ n => [(c == .V, .wrongCluster), (n.toNat ≤ 64, .laneCount)]
  | .punpk _ a _ => [(c == .V, .wrongCluster), (vsrc a, .vectorOperand)]
  | .recfl _ _ => [(c == .A, .wrongCluster)]
  | .rem _ rd rs1 rs2 _ => [(inScalar c, .wrongCluster), (gpr c rd && gpr c rs1 && gpr c rs2, .registerRange)]
  | .rndend _ _ _ => [(c == .A, .wrongCluster)]
  | .rowcp _ _ _ _ _ => [(c == .A, .wrongCluster)]
  | .rowfill _ _ _ _ _ => [(c == .A, .wrongCluster)]
  | .rowlog _ _ _ _ op _ => [(c == .A, .wrongCluster), (op.toNat < 5, .reservedFunction)]
  | .sclaim _ _ => [(c == .M, .wrongCluster)]
  | .sel _ rd rs1 rs2 rc =>
      [(inScalar c, .wrongCluster),
       (gpr c rd && gpr c rs1 && gpr c rs2 && gpr c rc, .registerRange)]
  | .setsr _ reg _ => [(reg6 c reg, .registerRange)]
  | .sfree _ _ => [(c == .M, .wrongCluster)]
  | .shgo _ _ _ _ _ => [(c == .A, .wrongCluster)]
  | .shl _ rd rs1 rs2 => [(inScalar c, .wrongCluster), (gpr c rd && gpr c rs1 && gpr c rs2, .registerRange)]
  | .shr _ rd rs1 rs2 => [(inScalar c, .wrongCluster), (gpr c rd && gpr c rs1 && gpr c rs2, .registerRange)]
  | .shwm _ _ _ => [(c == .A, .wrongCluster)]
  | .signal _ _ _ => [(c == .A, .wrongCluster)]
  | .sra _ rd rs1 rs2 => [(inScalar c, .wrongCluster), (gpr c rd && gpr c rs1 && gpr c rs2, .registerRange)]
  | .st _ _ _ _ sz _ _ => [(c == .A, .wrongCluster), (sz.toNat < 7, .reservedSize)]
  | .stOrdered _ _ _ sz _ ord scope =>
      [(c == .A, .wrongCluster),
       (sz.toNat < 7, .reservedSize),
       (scope.toNat < 5, .reservedScope),
       (ord.toNat = 2, .ordering)]
  | .stb _ _ base _ _ _ => [(c == .S, .wrongCluster), (gpr c base, .registerRange)]
  | .stbOrdered _ _ base _ ord scope =>
      [(c == .S, .wrongCluster),
       (gpr c base, .registerRange),
       (scope.toNat < 5, .reservedScope),
       (ord.toNat = 2, .ordering)]
  | .stsc _ _ _ base _ esz _ _ => [(c == .S, .wrongCluster), (gpr c base, .registerRange), (esz.toNat < 3, .reservedSize)]
  | .sub _ rd rs1 rs2 => [(inScalar c, .wrongCluster), (gpr c rd && gpr c rs1 && gpr c rs2, .registerRange)]
  | .sub16 _ rd rs => [(inScalar c, .wrongCluster), (gpr c rd && gpr c rs, .registerRange)]
  | .trap _ _ => []
  | .tret _ => []
  | .vadd _ d a b _ => [(c == .V, .wrongCluster), (vdst d && vsrc a && vsrc b, .vectorOperand)]
  | .vbcast _ d a _ _ => [(c == .V, .wrongCluster), (vdst d && vsrc a, .vectorOperand)]
  | .vcmp _ d a b _ cond =>
      [(c == .V, .wrongCluster),
       (d.toNat < 16, .vectorOperand),
       (vsrc a && vsrc b, .vectorOperand),
       (cond.toNat < 6, .reservedFunction)]
  | .vcvt _ d a dty sty part _ =>
      [(c == .V, .wrongCluster),
       (vdst d && vsrc a, .vectorOperand),
       (dty.toNat < 13 && sty.toNat < 13 && partOk dty.toNat sty.toNat part.toNat, .typeOrPart)]
  | .vfabs _ d a _ => [(c == .V, .wrongCluster), (vdst d && vsrc a, .vectorOperand)]
  | .vfadd _ d a b _ => [(c == .V, .wrongCluster), (vdst d && vsrc a && vsrc b, .vectorOperand)]
  | .vfclass _ d a _ => [(c == .V, .wrongCluster), (vdst d && vsrc a, .vectorOperand)]
  | .vfcmp _ d a b _ cond =>
      [(c == .V, .wrongCluster),
       (d.toNat < 16, .vectorOperand),
       (vsrc a && vsrc b, .vectorOperand),
       (cond.toNat < 7, .reservedFunction)]
  | .vfdiv _ d a b _ => [(c == .V, .wrongCluster), (vdst d && vsrc a && vsrc b, .vectorOperand)]
  | .vfexp2 _ d a _ => [(c == .V, .wrongCluster), (vdst d && vsrc a, .vectorOperand)]
  | .vfill _ r slot p =>
      [(c == .V, .wrongCluster),
       (r.toNat < 56, .vectorOperand),
       (!p || slot.toNat = 0, .mustBeZero)]
  | .vflog2 _ d a _ => [(c == .V, .wrongCluster), (vdst d && vsrc a, .vectorOperand)]
  | .vfma _ d a b _ => [(c == .V, .wrongCluster), (vdst d && vsrc a && vsrc b, .vectorOperand)]
  | .vfmax _ d a b _ => [(c == .V, .wrongCluster), (vdst d && vsrc a && vsrc b, .vectorOperand)]
  | .vfmin _ d a b _ => [(c == .V, .wrongCluster), (vdst d && vsrc a && vsrc b, .vectorOperand)]
  | .vfmul _ d a b _ => [(c == .V, .wrongCluster), (vdst d && vsrc a && vsrc b, .vectorOperand)]
  | .vfnma _ d a b _ => [(c == .V, .wrongCluster), (vdst d && vsrc a && vsrc b, .vectorOperand)]
  | .vfrcp _ d a _ => [(c == .V, .wrongCluster), (vdst d && vsrc a, .vectorOperand)]
  | .vfsh _ d a b _ => [(c == .V, .wrongCluster), (vdst d && vsrc a && vsrc b, .vectorOperand)]
  | .vfsqrt _ d a _ => [(c == .V, .wrongCluster), (vdst d && vsrc a, .vectorOperand)]
  | .vfsub _ d a b _ => [(c == .V, .wrongCluster), (vdst d && vsrc a && vsrc b, .vectorOperand)]
  | .vgfma _ d a b _ => [(c == .V, .wrongCluster), (vdst d && vsrc a && vsrc b, .vectorOperand)]
  | .vgfmul _ d a b _ => [(c == .V, .wrongCluster), (vdst d && vsrc a && vsrc b, .vectorOperand)]
  | .vlog3 _ d a _ _ => [(c == .V, .wrongCluster), (d.toNat < 56 && vsrc a, .vectorOperand)]
  | .vmaxS32 _ d a b _ => [(c == .V, .wrongCluster), (vdst d && vsrc a && vsrc b, .vectorOperand)]
  | .vmaxN32 _ d a b _ => [(c == .V, .wrongCluster), (vdst d && vsrc a && vsrc b, .vectorOperand)]
  | .vminS32 _ d a b _ => [(c == .V, .wrongCluster), (vdst d && vsrc a && vsrc b, .vectorOperand)]
  | .vminN32 _ d a b _ => [(c == .V, .wrongCluster), (vdst d && vsrc a && vsrc b, .vectorOperand)]
  | .vmov _ d a _ => [(c == .V, .wrongCluster), (vdst d && vsrc a, .vectorOperand)]
  | .vmul _ d a b _ => [(c == .V, .wrongCluster), (vdst d && vsrc a && vsrc b, .vectorOperand)]
  | .vpack _ d a b w _ =>
      [(c == .V, .wrongCluster),
       (vdst d && vsrc a && vsrc b, .vectorOperand),
       (w.toNat < 3, .reservedSize)]
  | .vperm _ d a b _ => [(c == .V, .wrongCluster), (vdst d && vsrc a && vsrc b, .vectorOperand)]
  | .vpopc _ d a _ => [(c == .V, .wrongCluster), (vdst d && vsrc a, .vectorOperand)]
  | .vred _ d a _ _ => [(c == .V, .wrongCluster), (vdst d && vsrc a, .vectorOperand)]
  | .vsel _ d a b _ => [(c == .V, .wrongCluster), (vdst d && vsrc a && vsrc b, .vectorOperand)]
  | .vsetl _ n => [(c == .V, .wrongCluster), (1 ≤ n.toNat && n.toNat ≤ 64, .laneCount)]
  | .vshl _ d a b _ => [(c == .V, .wrongCluster), (vdst d && vsrc a && vsrc b, .vectorOperand)]
  | .vshr _ d a b _ => [(c == .V, .wrongCluster), (vdst d && vsrc a && vsrc b, .vectorOperand)]
  | .vslideUp _ d a _ _ => [(c == .V, .wrongCluster), (vdst d && vsrc a, .vectorOperand)]
  | .vslideDown _ d a _ _ => [(c == .V, .wrongCluster), (vdst d && vsrc a, .vectorOperand)]
  | .vspill _ r slot p =>
      [(c == .V, .wrongCluster),
       (r.toNat < 56, .vectorOperand),
       (!p || slot.toNat = 0, .mustBeZero)]
  | .vsra _ d a b _ => [(c == .V, .wrongCluster), (vdst d && vsrc a && vsrc b, .vectorOperand)]
  | .vsub _ d a b _ => [(c == .V, .wrongCluster), (vdst d && vsrc a && vsrc b, .vectorOperand)]
  | .vunpk _ d a k w _ =>
      [(c == .V, .wrongCluster),
       (vdst d && vsrc a, .vectorOperand),
       (w.toNat < 3, .reservedSize),
       (k.toNat < 8 / 2 ^ w.toNat, .typeOrPart)]
  | .xcall _ _ => []
  | .xret _ => []
  | .xor _ rd rs1 rs2 => [(inScalar c, .wrongCluster), (gpr c rd && gpr c rs1 && gpr c rs2, .registerRange)]
  | .engineWait _ => [(false, .notEncoded)]
  | .contextSwitch _ => [(false, .notEncoded)]
  | .hoopNotification _ _ => [(false, .notEncoded)]
  | .taskRetirement _ => [(false, .notEncoded)]
  | .gangTermination _ => [(false, .notEncoded)]
  | .preemptionRequest _ => [(false, .notEncoded)]
  | .forcedStop _ => [(false, .notEncoded)]
  | .contextStop _ => [(false, .notEncoded)]
  | .contextResumption _ => [(false, .notEncoded)]
  | .engineFaultDelivery _ => [(false, .notEncoded)]
  | .tileCommandExecution _ => [(false, .notEncoded)]
  | .shuttleCommandBegin _ _ => [(false, .notEncoded)]
  | .shuttleCompletion _ _ => [(false, .notEncoded)]
  | .cutworkExecution _ => [(false, .notEncoded)]
  | .couchingExecution _ => [(false, .notEncoded)]
  | .queueEngineExecution _ => [(false, .notEncoded)]
  | .footsideExecution _ => [(false, .notEncoded)]
  | .darningStripe _ => [(false, .notEncoded)]
  | .placementBoundary _ => [(false, .notEncoded)]
  | .pageMigration _ _ => [(false, .notEncoded)]
  | .evictionStart _ => [(false, .notEncoded)]
  | .pageEviction _ _ => [(false, .notEncoded)]
  | .chainDemotion _ => [(false, .notEncoded)]
  | .launch _ => [(false, .notEncoded)]
  | .gangPlacement _ => [(false, .notEncoded)]
  | .gangReserving _ => [(false, .notEncoded)]
  | .waitsig _ => [(false, .notEncoded)]
  | .setsig _ => [(false, .notEncoded)]
  | .mark _ => [(false, .notEncoded)]
  | .nopPacket _ => [(false, .notEncoded)]
  | .packetReject _ => [(false, .notEncoded)]
  | .priorityAging _ => [(false, .notEncoded)]
  | .faultHoldExpiry _ => [(false, .notEncoded)]
  | .qnotify _ _ => [(false, .notEncoded)]
  | .remoteNotify _ _ => [(false, .notEncoded)]
  | .nqclr _ _ _ => [(false, .notEncoded)]
  | .qmapcmdMap _ _ => [(false, .notEncoded)]
  | .qmapcmdUnmap _ _ => [(false, .notEncoded)]
  | .accevict _ _ _ => [(false, .notEncoded)]
  | .xinvPage _ _ => [(false, .notEncoded)]
  | .xinvAsid _ _ => [(false, .notEncoded)]
  | .xinvAll _ _ => [(false, .notEncoded)]
  | .grpcfgForm _ _ _ => [(false, .notEncoded)]
  | .grpcfgStby _ _ _ => [(false, .notEncoded)]
  | .grpcfgAbrt _ _ _ => [(false, .notEncoded)]
  | .grpmemWrite _ _ _ _ => [(false, .notEncoded)]
  | .heartbeatTimer _ => [(false, .notEncoded)]
  | .memberLoss _ _ => [(false, .notEncoded)]
  | .heartbeat _ => [(false, .notEncoded)]
  | .seal _ => [(false, .notEncoded)]
  | .delta _ => [(false, .notEncoded)]
  | .dack _ => [(false, .notEncoded)]
  | .prepared _ => [(false, .notEncoded)]
  | .abortreq _ => [(false, .notEncoded)]
  | .crec _ => [(false, .notEncoded)]
  | .crecack _ => [(false, .notEncoded)]
  | .commit _ => [(false, .notEncoded)]
  | .abort _ => [(false, .notEncoded)]
  | .loss _ => [(false, .notEncoded)]
  | .query _ => [(false, .notEncoded)]
  | .qreply _ => [(false, .notEncoded)]
  | .shreq _ => [(false, .notEncoded)]
  | .share _ => [(false, .notEncoded)]
  | .join _ => [(false, .notEncoded)]
  | .protectedLineRepair _ _ _ => [(false, .notEncoded)]
  | .uncorrectableError _ => [(false, .notEncoded)]
  | .correctableError _ _ => [(false, .notEncoded)]
  | .activationSaturation _ _ => [(false, .notEncoded)]
  | .auditReplayEnd _ _ _ _ => [(false, .notEncoded)]
  | .remoteTimeout _ _ => [(false, .notEncoded)]
  | .ualinkRequest _ => [(false, .notEncoded)]
  | .uetPacket _ _ _ => [(false, .notEncoded)]
  | .leadcmdRenew _ _ => [(false, .notEncoded)]
  | .leadcmdTake _ _ => [(false, .notEncoded)]
  | .leadcmdResign _ _ => [(false, .notEncoded)]
  | .leaseLapse => [(false, .notEncoded)]
  | .keycmdLoadMemoryKey _ _ => [(false, .notEncoded)]
  | .keycmdZeroiseMemoryKey _ _ => [(false, .notEncoded)]
  | .keycmdLoadNotifyKey _ _ => [(false, .notEncoded)]
  | .keycmdZeroiseNotifyKey _ _ => [(false, .notEncoded)]
  | .measext _ _ _ => [(false, .notEncoded)]
  | .signcmd _ _ => [(false, .notEncoded)]
  | .flashMailboxRead _ => [(false, .notEncoded)]
  | .rstctlWarmReset _ => [(false, .notEncoded)]
  | .rstctlColdReset _ => [(false, .notEncoded)]
  | .rstctlPtok _ => [(false, .notEncoded)]
  | .powerOnReset => [(false, .notEncoded)]
  | .powerInputOutOfRange _ => [(false, .notEncoded)]
  | .powerLoss => [(false, .notEncoded)]
  | .memoryGateOpen => [(false, .notEncoded)]
  | .thermalSample _ _ _ => [(false, .notEncoded)]
  | .lifetimeMerge => [(false, .notEncoded)]
  | .lifeEstimate _ => [(false, .notEncoded)]
  | .registerWrite _ _ _ => [(false, .notEncoded)]
  | .writeLands _ => [(false, .notEncoded)]
  | .globalAccessPerformed _ _ => [(false, .notEncoded)]
  | .shuttleElementMove _ _ => [(false, .notEncoded)]
  | .podHoopArrival _ _ _ => [(false, .notEncoded)]
  | .periodicRefresh _ _ => [(false, .notEncoded)]
  | .phyTrainingComplete _ => [(false, .notEncoded)]
  | .linkTrainingComplete _ => [(false, .notEncoded)]
  | .supervisorHartAccess _ _ => [(false, .notEncoded)]

/-- R94: the first limit that an instruction breaks in cluster `c`, if any. -/
def check (c : Cluster) (i : Instr) : Option IllFormed := firstError (limits c i)

/-- An instruction that some word of cluster `c` holds. -/
def wellFormed (c : Cluster) (i : Instr) : Bool := check c i == none

end Sys2Proof
end

