-- ==== Sys2Proof/Decode.lean ====
section
/-! DEFINITION. Instruction words as numbers (R86 to R93): the decoder of each cluster's map, total on any bytes and
refusing by name, and the encoder. A word is a number below 2^32 (or 2^16) whose bit 0 is the least significant bit; the
first halfword of a 32-bit instruction holds bits 31:16. -/

namespace Sys2Proof

/-- Bits lo + n - 1 : lo of a word, as a number. -/
def num (w lo n : Nat) : Nat := w / 2 ^ lo % 2 ^ n

/-- Bits lo + n - 1 : lo of a word, as a field. -/
def fld (w lo n : Nat) : BitVec n := BitVec.ofNat n (w / 2 ^ lo)

/-- Bit lo of a word. -/
def bitAt (w lo : Nat) : Bool := w / 2 ^ lo % 2 == 1

/-- A word from its opcode bits and its fields, each a value and the place of its lowest bit. -/
def pack (opcode : Nat) : List (Nat × Nat) → Nat
  | [] => opcode
  | f :: fs => f.1 * 2 ^ f.2 + pack opcode fs

/-- Why bytes are no instruction of a cluster. -/
inductive DecodeError
  /-- A reserved major, function or form (R94). -/
  | reservedOpcode
  /-- A nonzero bit that the format marks zero or reserved (R94). -/
  | nonzeroReserved
  /-- A field outside the limits of the instruction. -/
  | illFormed (e : IllFormed)
  /-- Fewer bytes than the word has. -/
  | truncated
  deriving DecidableEq, Repr

/-- The system group (Table 4.13). -/
def decodeSystem (w : Nat) : Option Instr :=
  match num w 20 5 with
  | 0 => some (.nop (bitAt w 30))
  | 1 => some (.halt (bitAt w 30))
  | 2 => some (.trap (bitAt w 30) (fld w 0 16))
  | 3 => some (.tret (bitAt w 30))
  | 4 => some (.brk (bitAt w 30) (fld w 0 16))
  | 5 => some (.xret (bitAt w 30))
  | 6 => some (.chkerr (bitAt w 30) (fld w 14 6))
  | 7 => some (.flset (bitAt w 30) (fld w 17 3) (bitAt w 16))
  | 8 => some (.flwait (bitAt w 30) (fld w 17 3) (bitAt w 16))
  | 9 => some (.btake (bitAt w 30) (fld w 16 4) (fld w 14 2) (bitAt w 13) (fld w 7 6))
  | 10 => some (.bgive (bitAt w 30) (fld w 16 4) (fld w 14 2))
  | 11 => some (.bstat (bitAt w 30) (fld w 16 4) (fld w 10 6))
  | 12 => some (.harrive (bitAt w 30) (fld w 17 3) (bitAt w 16))
  | 13 => some (.hwait (bitAt w 30) (fld w 17 3))
  | _ => none

/-- The R format of the scalar clusters (Table 4.14). -/
def decodeR (w : Nat) : Option Instr :=
  match num w 5 5 with
  | 0 => some (.add (bitAt w 30) (fld w 20 5) (fld w 15 5) (fld w 10 5))
  | 1 => some (.sub (bitAt w 30) (fld w 20 5) (fld w 15 5) (fld w 10 5))
  | 2 => some (.mul (bitAt w 30) (fld w 20 5) (fld w 15 5) (fld w 10 5))
  | 3 => some (.mulh (bitAt w 30) (fld w 20 5) (fld w 15 5) (fld w 10 5) (bitAt w 0))
  | 4 => some (.div (bitAt w 30) (fld w 20 5) (fld w 15 5) (fld w 10 5) (bitAt w 0))
  | 5 => some (.rem (bitAt w 30) (fld w 20 5) (fld w 15 5) (fld w 10 5) (bitAt w 0))
  | 6 => some (.and (bitAt w 30) (fld w 20 5) (fld w 15 5) (fld w 10 5))
  | 7 => some (.or (bitAt w 30) (fld w 20 5) (fld w 15 5) (fld w 10 5))
  | 8 => some (.xor (bitAt w 30) (fld w 20 5) (fld w 15 5) (fld w 10 5))
  | 9 => some (.andn (bitAt w 30) (fld w 20 5) (fld w 15 5) (fld w 10 5))
  | 10 => some (.shl (bitAt w 30) (fld w 20 5) (fld w 15 5) (fld w 10 5))
  | 11 => some (.shr (bitAt w 30) (fld w 20 5) (fld w 15 5) (fld w 10 5))
  | 12 => some (.sra (bitAt w 30) (fld w 20 5) (fld w 15 5) (fld w 10 5))
  | 13 => some (.cmp (bitAt w 30) (fld w 20 5) (fld w 15 5) (fld w 10 5) (fld w 0 3))
  | 14 => some (.min (bitAt w 30) (fld w 20 5) (fld w 15 5) (fld w 10 5) (bitAt w 0))
  | 15 => some (.max (bitAt w 30) (fld w 20 5) (fld w 15 5) (fld w 10 5) (bitAt w 0))
  | 16 => some (.mov (bitAt w 30) (fld w 20 5) (fld w 15 5))
  | 17 => some (.sel (bitAt w 30) (fld w 20 5) (fld w 15 5) (fld w 10 5) (fld w 0 5))
  | 18 => some (.clz (bitAt w 30) (fld w 20 5) (fld w 15 5))
  | 19 => some (.popc (bitAt w 30) (fld w 20 5) (fld w 15 5))
  | _ => none

/-- The array group of the M cluster (Table 4.17). -/
def decodeArray (w : Nat) : Option Instr :=
  match num w 20 5 with
  | 0 => some (.lease (bitAt w 30) (fld w 15 5) (fld w 0 3))
  | 1 => some (.lfree (bitAt w 30))
  | 2 => some (.sclaim (bitAt w 30) (fld w 0 6))
  | 3 => some (.sfree (bitAt w 30) (fld w 0 6))
  | 4 => some (.fwq (bitAt w 30) (fld w 15 5))
  | 5 => some (.aclaim (bitAt w 30) (fld w 0 4))
  | 6 => some (.afree (bitAt w 30) (fld w 0 4))
  | 7 => some (.accz (bitAt w 30) (fld w 0 4))
  | 8 => some (.lsflag (bitAt w 30) (fld w 15 5) (bitAt w 6) (bitAt w 5) (fld w 0 4))
  | 9 => some (.accspill (bitAt w 30) (fld w 0 4))
  | 10 => some (.accfill (bitAt w 30) (fld w 0 4))
  | _ => none

/-- The shuttle group (Table 4.15). -/
def decodeShuttle (w : Nat) : Option Instr :=
  match num w 20 5 with
  | 0 => some (.shgo (bitAt w 30) (fld w 15 5) (fld w 10 5) (fld w 5 5) (bitAt w 0))
  | 1 => some (.shwm (bitAt w 30) (bitAt w 10) (fld w 0 5))
  | 2 => some (.recfl (bitAt w 30) (fld w 15 5))
  | _ => none

/-- The Cutwork group (Table 4.15). -/
def decodeCutwork (w : Nat) : Option Instr :=
  match num w 20 5 with
  | 0 => some (.rowcp (bitAt w 30) (fld w 15 5) (fld w 10 5) (fld w 5 5) (fld w 0 5))
  | 1 => some (.rowfill (bitAt w 30) (fld w 15 5) (fld w 10 5) (fld w 5 5) (fld w 0 5))
  | 2 => some (.rowlog (bitAt w 30) (fld w 15 5) (fld w 10 5) (fld w 5 5) (fld w 2 3) (fld w 0 2))
  | _ => none

/-- The Couching group (Table 4.15). -/
def decodeCouching (w : Nat) : Option Instr :=
  match num w 20 5 with
  | 0 => some (.nbenter (bitAt w 30) (fld w 15 5) (fld w 5 5))
  | 1 => some (.nbload (bitAt w 30) (fld w 15 5) (fld w 10 5) (fld w 5 5))
  | 2 => some (.nbmac (bitAt w 30) (fld w 15 5) (fld w 5 5) (bitAt w 0))
  | 3 => some (.nbread (bitAt w 30) (fld w 15 5) (fld w 5 5) (fld w 0 4))
  | 4 => some (.nbexit (bitAt w 30) (fld w 15 5) (fld w 5 5))
  | _ => none

/-- The state group (Table 4.15). -/
def decodeState (w : Nat) : Option Instr :=
  match num w 20 5 with
  | 0 => some (.prot (bitAt w 30) (fld w 15 5) (fld w 10 5) (fld w 5 5) (bitAt w 0))
  | 1 => some (.rndend (bitAt w 30) (fld w 15 5) (fld w 5 5))
  | 2 => some (.darn (bitAt w 30) (fld w 15 5) (fld w 10 5) (fld w 5 5))
  | 3 => some (.lhint (bitAt w 30) (fld w 15 5) (fld w 10 5) (fld w 5 5))
  | _ => none

/-- The queue group (Table 4.15). -/
def decodeQueue (w : Nat) : Option Instr :=
  match num w 20 5 with
  | 0 => some (.signal (bitAt w 30) (fld w 15 5) (fld w 10 5))
  | 1 => some (.enq (bitAt w 30) (fld w 15 5) (fld w 10 5) (fld w 5 5))
  | _ => none

/-- FENCE and KNOT (Table 4.15). -/
def decodeOrder (w : Nat) : Option Instr :=
  match num w 20 5 with
  | 0 => some (.fence (bitAt w 30) (fld w 17 3))
  | 1 => some (.knot (bitAt w 30))
  | _ => none

/-- V major 0 (Table 4.19). -/
def decodeVfp (w : Nat) : Option Instr :=
  match num w 0 3 with
  | 0 => some (.vfadd (bitAt w 30) (fld w 18 7) (fld w 11 7) (fld w 4 7) (bitAt w 3))
  | 1 => some (.vfsub (bitAt w 30) (fld w 18 7) (fld w 11 7) (fld w 4 7) (bitAt w 3))
  | 2 => some (.vfmul (bitAt w 30) (fld w 18 7) (fld w 11 7) (fld w 4 7) (bitAt w 3))
  | 3 => some (.vfmin (bitAt w 30) (fld w 18 7) (fld w 11 7) (fld w 4 7) (bitAt w 3))
  | 4 => some (.vfmax (bitAt w 30) (fld w 18 7) (fld w 11 7) (fld w 4 7) (bitAt w 3))
  | 5 => some (.vfdiv (bitAt w 30) (fld w 18 7) (fld w 11 7) (fld w 4 7) (bitAt w 3))
  | _ => none

/-- V major 1 (Table 4.19). -/
def decodeVu (w : Nat) : Option Instr :=
  match num w 4 7 with
  | 0 => some (.vfsqrt (bitAt w 30) (fld w 18 7) (fld w 11 7) (bitAt w 3))
  | 1 => some (.vfrcp (bitAt w 30) (fld w 18 7) (fld w 11 7) (bitAt w 3))
  | 2 => some (.vfexp2 (bitAt w 30) (fld w 18 7) (fld w 11 7) (bitAt w 3))
  | 3 => some (.vflog2 (bitAt w 30) (fld w 18 7) (fld w 11 7) (bitAt w 3))
  | 4 => some (.vfabs (bitAt w 30) (fld w 18 7) (fld w 11 7) (bitAt w 3))
  | 5 => some (.vfclass (bitAt w 30) (fld w 18 7) (fld w 11 7) (bitAt w 3))
  | 6 => some (.vpopc (bitAt w 30) (fld w 18 7) (fld w 11 7) (bitAt w 3))
  | 7 => some (.vmov (bitAt w 30) (fld w 18 7) (fld w 11 7) (bitAt w 3))
  | _ => none

/-- V major 2 (Table 4.19). -/
def decodeVint (w : Nat) : Option Instr :=
  match num w 0 3 with
  | 0 => some (.vadd (bitAt w 30) (fld w 18 7) (fld w 11 7) (fld w 4 7) (bitAt w 3))
  | 1 => some (.vsub (bitAt w 30) (fld w 18 7) (fld w 11 7) (fld w 4 7) (bitAt w 3))
  | 2 => some (.vmul (bitAt w 30) (fld w 18 7) (fld w 11 7) (fld w 4 7) (bitAt w 3))
  | 3 => some (.vminS32 (bitAt w 30) (fld w 18 7) (fld w 11 7) (fld w 4 7) (bitAt w 3))
  | 4 => some (.vminN32 (bitAt w 30) (fld w 18 7) (fld w 11 7) (fld w 4 7) (bitAt w 3))
  | 5 => some (.vmaxS32 (bitAt w 30) (fld w 18 7) (fld w 11 7) (fld w 4 7) (bitAt w 3))
  | 6 => some (.vmaxN32 (bitAt w 30) (fld w 18 7) (fld w 11 7) (fld w 4 7) (bitAt w 3))
  | _ => none

/-- V major 3 (Table 4.19). -/
def decodeVbit (w : Nat) : Option Instr :=
  match num w 0 3 with
  | 0 => some (.vshl (bitAt w 30) (fld w 18 7) (fld w 11 7) (fld w 4 7) (bitAt w 3))
  | 1 => some (.vshr (bitAt w 30) (fld w 18 7) (fld w 11 7) (fld w 4 7) (bitAt w 3))
  | 2 => some (.vsra (bitAt w 30) (fld w 18 7) (fld w 11 7) (fld w 4 7) (bitAt w 3))
  | 3 => some (.vgfmul (bitAt w 30) (fld w 18 7) (fld w 11 7) (fld w 4 7) (bitAt w 3))
  | 4 => some (.vperm (bitAt w 30) (fld w 18 7) (fld w 11 7) (fld w 4 7) (bitAt w 3))
  | _ => none

/-- The VL format (Table 4.20). -/
def decodeVl (w : Nat) : Option Instr :=
  match num w 3 2 with
  | 0 => some (.vbcast (bitAt w 30) (fld w 18 7) (fld w 11 7) (fld w 5 6) (bitAt w 2))
  | 1 => some (.vslideUp (bitAt w 30) (fld w 18 7) (fld w 11 7) (fld w 5 6) (bitAt w 2))
  | 2 => some (.vslideDown (bitAt w 30) (fld w 18 7) (fld w 11 7) (fld w 5 6) (bitAt w 2))
  | _ => none

/-- The VP format (Table 4.20). -/
def decodeVp (w : Nat) : Option Instr :=
  match num w 21 4 with
  | 0 => some (.plog (bitAt w 30) (fld w 17 4) (fld w 13 4) (fld w 9 4) (fld w 6 3))
  | 1 => some (.pset (bitAt w 30) (fld w 17 4) (fld w 10 7))
  | 2 => some (.ppack (bitAt w 30) (fld w 14 7) (bitAt w 13))
  | 3 => some (.punpk (bitAt w 30) (fld w 14 7) (bitAt w 13))
  | 4 => some (.pcnt (bitAt w 30) (fld w 14 7) (fld w 10 4))
  | 5 => some (.pfirst (bitAt w 30) (fld w 14 7) (fld w 10 4))
  | 6 => some (.vsetl (bitAt w 30) (fld w 14 7))
  | _ => none

/-- The A cluster (Table 4.15). -/
def decodeA (w : Nat) : Option Instr :=
  match num w 25 5 with
  | 0 => decodeR w
  | 1 => some (.addi (bitAt w 30) (fld w 20 5) (fld w 15 5) (fld w 0 15))
  | 2 => some (.li (bitAt w 30) (fld w 20 5) (fld w 0 20))
  | 3 => some (.lih (bitAt w 30) (fld w 20 5) (fld w 18 2) (fld w 0 16))
  | 4 => some (.ld (bitAt w 30) (fld w 20 5) (fld w 15 5) (fld w 11 3) (fld w 9 2) (fld w 0 8))
  | 5 => if bitAt w 8 then some (.stOrdered (bitAt w 30) (fld w 20 5) (fld w 15 5) (fld w 11 3) (fld w 9 2) (fld w 6 2) (fld w 3 3)) else some (.st (bitAt w 30) (fld w 20 5) (fld w 15 5) (bitAt w 14) (fld w 11 3) (fld w 9 2) (fld w 0 8))
  | 6 => if bitAt w 8 then some (.ldbOrdered (bitAt w 30) (fld w 21 4) (fld w 15 5) (fld w 11 3) (fld w 9 2) (fld w 6 2) (fld w 3 3)) else some (.ldb (bitAt w 30) (fld w 21 4) (fld w 15 5) (bitAt w 14) (fld w 11 3) (fld w 9 2) (fld w 0 8))
  | 7 => some (.ldg (bitAt w 30) (fld w 21 4) (fld w 17 4) (fld w 12 5) (fld w 10 2) (fld w 8 2) (fld w 5 3) (bitAt w 4))
  | 8 => some (.ldlit (bitAt w 30) (fld w 20 5) (fld w 0 20))
  | 9 => some (.amo (bitAt w 30) (fld w 21 4) (bitAt w 20) (fld w 15 5) (fld w 10 5) (fld w 6 4) (bitAt w 5) (fld w 3 2) (fld w 0 3))
  | 10 => some (.cas (bitAt w 30) (fld w 21 4) (fld w 16 5) (fld w 11 5) (fld w 6 5) (bitAt w 5) (fld w 3 2) (fld w 0 3))
  | 11 => decodeOrder w
  | 12 => decodeShuttle w
  | 13 => decodeCutwork w
  | 14 => decodeCouching w
  | 15 => decodeState w
  | 16 => decodeQueue w
  | 17 => if num w 0 11 = 0 then some (.probeCfg (bitAt w 30) (fld w 15 5) (fld w 11 4)) else some (.probe (bitAt w 30) (fld w 20 5) (fld w 15 5) (fld w 11 4) (fld w 0 11))
  | _ => none

/-- The S cluster (Table 4.16). -/
def decodeS (w : Nat) : Option Instr :=
  match num w 25 5 with
  | 0 => decodeR w
  | 1 => some (.addi (bitAt w 30) (fld w 20 5) (fld w 15 5) (fld w 0 15))
  | 2 => some (.li (bitAt w 30) (fld w 20 5) (fld w 0 20))
  | 3 => some (.lih (bitAt w 30) (fld w 20 5) (fld w 18 2) (fld w 0 16))
  | 4 => if bitAt w 12 then some (.stbOrdered (bitAt w 30) (fld w 21 4) (fld w 16 5) (fld w 13 2) (fld w 10 2) (fld w 7 3)) else some (.stb (bitAt w 30) (fld w 21 4) (fld w 16 5) (bitAt w 15) (fld w 13 2) (fld w 0 12))
  | 5 => some (.stsc (bitAt w 30) (fld w 21 4) (fld w 17 4) (fld w 12 5) (fld w 10 2) (fld w 8 2) (fld w 5 3) (bitAt w 4))
  | 9 => some (.amo (bitAt w 30) (fld w 21 4) (bitAt w 20) (fld w 15 5) (fld w 10 5) (fld w 6 4) (bitAt w 5) (fld w 3 2) (fld w 0 3))
  | 11 => decodeOrder w
  | _ => none

/-- The M cluster (Table 4.17). -/
def decodeM (w : Nat) : Option Instr :=
  match num w 25 5 with
  | 0 => decodeR w
  | 1 => some (.addi (bitAt w 30) (fld w 20 5) (fld w 15 5) (fld w 0 15))
  | 2 => some (.li (bitAt w 30) (fld w 20 5) (fld w 0 20))
  | 3 => some (.lih (bitAt w 30) (fld w 20 5) (fld w 18 2) (fld w 0 16))
  | 4 => decodeArray w
  | 5 => some (.mma (bitAt w 30) (fld w 21 4) (fld w 15 6) (fld w 9 6) (bitAt w 8))
  | 6 => some (.adrain (bitAt w 30) (fld w 21 4) (fld w 16 5) (fld w 11 5) (fld w 6 5) (fld w 3 3) (fld w 0 3))
  | _ => none

/-- The V cluster (Table 4.19). -/
def decodeV (w : Nat) : Option Instr :=
  match num w 25 5 with
  | 0 => decodeVfp w
  | 1 => decodeVu w
  | 2 => decodeVint w
  | 3 => decodeVbit w
  | 4 => some (.vfcmp (bitAt w 30) (fld w 18 7) (fld w 11 7) (fld w 4 7) (bitAt w 3) (fld w 0 3))
  | 5 => some (.vcmp (bitAt w 30) (fld w 18 7) (fld w 11 7) (fld w 4 7) (bitAt w 3) (fld w 0 3))
  | 6 => some (.vfma (bitAt w 30) (fld w 18 7) (fld w 11 7) (fld w 4 7) (fld w 0 4))
  | 7 => some (.vfnma (bitAt w 30) (fld w 18 7) (fld w 11 7) (fld w 4 7) (fld w 0 4))
  | 8 => some (.vgfma (bitAt w 30) (fld w 18 7) (fld w 11 7) (fld w 4 7) (fld w 0 4))
  | 9 => some (.vsel (bitAt w 30) (fld w 18 7) (fld w 11 7) (fld w 4 7) (fld w 0 4))
  | 10 => some (.vfsh (bitAt w 30) (fld w 18 7) (fld w 11 7) (fld w 4 7) (fld w 0 4))
  | 11 => some (.vlog3 (bitAt w 30) (fld w 19 6) (fld w 12 7) (fld w 8 4) (fld w 0 8))
  | 12 => some (.vcvt (bitAt w 30) (fld w 18 7) (fld w 11 7) (fld w 7 4) (fld w 3 4) (fld w 1 2) (bitAt w 0))
  | 13 => if bitAt w 1 then some (.vunpk (bitAt w 30) (fld w 18 7) (fld w 11 7) (fld w 4 7) (fld w 2 2) (bitAt w 0)) else some (.vpack (bitAt w 30) (fld w 18 7) (fld w 11 7) (fld w 4 7) (fld w 2 2) (bitAt w 0))
  | 14 => some (.vred (bitAt w 30) (fld w 18 7) (fld w 11 7) (bitAt w 3) (fld w 0 3))
  | 15 => decodeVl w
  | 16 => if bitAt w 5 then some (.vfill (bitAt w 30) (fld w 18 7) (fld w 7 11) (bitAt w 6)) else some (.vspill (bitAt w 30) (fld w 18 7) (fld w 7 11) (bitAt w 6))
  | 17 => decodeVp w
  | _ => none

/-- A 32-bit word: the shared majors (Table 4.12), else the cluster's own map. -/
def decode32 (c : Cluster) (w : Nat) : Option Instr :=
  match num w 25 5 with
  | 31 => some (.blk (bitAt w 30) (fld w 14 11) (fld w 6 8) (bitAt w 5) (fld w 2 3) (bitAt w 1))
  | 30 => some (.br (bitAt w 30) (fld w 0 25))
  | 29 => some (.brc (bitAt w 30) (fld w 22 3) (fld w 17 5) (fld w 0 17))
  | 28 => some (.brb (bitAt w 30) (fld w 21 4) (fld w 0 21))
  | 27 => some (.xcall (bitAt w 30) (fld w 0 25))
  | 26 => decodeSystem w
  | 25 => if bitAt w 24 then some (.setsr (bitAt w 30) (fld w 18 6) (fld w 10 8)) else some (.getsr (bitAt w 30) (fld w 18 6) (fld w 10 8))
  | _ =>
    match c with
    | .A => decodeA w
    | .V => decodeV w
    | .M => decodeM w
    | .S => decodeS w

/-- 16-bit major 0b1111 (Table 4.21). -/
def decodeForms16 (w : Nat) : Option Instr :=
  match num w 6 4 with
  | 0 => some (.nop16 (bitAt w 14))
  | 1 => some (.halt16 (bitAt w 14))
  | 2 => some (.btake16 (bitAt w 14) (fld w 2 4))
  | 3 => some (.bgive16 (bitAt w 14) (fld w 2 4))
  | 4 => some (.flsetSet16 (bitAt w 14) (fld w 3 3))
  | 5 => some (.flsetClear16 (bitAt w 14) (fld w 3 3))
  | 6 => some (.flwait16 (bitAt w 14) (fld w 3 3))
  | 7 => some (.flwaitClr16 (bitAt w 14) (fld w 3 3))
  | _ => none

/-- A 16-bit word (Table 4.21); in V only major 0b1111 is assigned. -/
def decode16 (c : Cluster) (w : Nat) : Option Instr :=
  match num w 10 4 with
  | 15 => decodeForms16 w
  | 1 => if c == .V then none else some (.mov16 (bitAt w 14) (fld w 5 5) (fld w 0 5))
  | 2 => if c == .V then none else some (.add16 (bitAt w 14) (fld w 5 5) (fld w 0 5))
  | 3 => if c == .V then none else some (.addi16 (bitAt w 14) (fld w 5 5) (fld w 0 5))
  | 4 => if c == .V then none else some (.sub16 (bitAt w 14) (fld w 5 5) (fld w 0 5))
  | 5 => if c == .V then none else some (.li16 (bitAt w 14) (fld w 5 5) (fld w 0 5))
  | _ => none

/-- The word that holds an instruction, with zero in every bit that its format marks zero; 0 for a step that has no
encoding. -/
def encode : Instr → Nat
  | .accfill st n => pack 0x88A00000 [(st.toNat, 30), (n.toNat, 0)]
  | .accspill st n => pack 0x88900000 [(st.toNat, 30), (n.toNat, 0)]
  | .accz st n => pack 0x88700000 [(st.toNat, 30), (n.toNat, 0)]
  | .aclaim st n => pack 0x88500000 [(st.toNat, 30), (n.toNat, 0)]
  | .add st rd rs1 rs2 => pack 0x80000000 [(st.toNat, 30), (rd.toNat, 20), (rs1.toNat, 15), (rs2.toNat, 10)]
  | .add16 st rd rs => pack 0x0800 [(st.toNat, 14), (rd.toNat, 5), (rs.toNat, 0)]
  | .addi st rd rs1 imm => pack 0x82000000 [(st.toNat, 30), (rd.toNat, 20), (rs1.toNat, 15), (imm.toNat, 0)]
  | .addi16 st rd imm => pack 0x0C00 [(st.toNat, 14), (rd.toNat, 5), (imm.toNat, 0)]
  | .adrain st n ma mb mc scope ty => pack 0x8C000000 [(st.toNat, 30), (n.toNat, 21), (ma.toNat, 16), (mb.toNat, 11), (mc.toNat, 6), (scope.toNat, 3), (ty.toNat, 0)]
  | .afree st n => pack 0x88600000 [(st.toNat, 30), (n.toNat, 0)]
  | .amo st b ret base rs op w ord scope => pack 0x92000000 [(st.toNat, 30), (b.toNat, 21), (ret.toNat, 20), (base.toNat, 15), (rs.toNat, 10), (op.toNat, 6), (w.toNat, 5), (ord.toNat, 3), (scope.toNat, 0)]
  | .and st rd rs1 rs2 => pack 0x800000C0 [(st.toNat, 30), (rd.toNat, 20), (rs1.toNat, 15), (rs2.toNat, 10)]
  | .andn st rd rs1 rs2 => pack 0x80000120 [(st.toNat, 30), (rd.toNat, 20), (rs1.toNat, 15), (rs2.toNat, 10)]
  | .bgive st b n1 => pack 0xB4A00000 [(st.toNat, 30), (b.toNat, 16), (n1.toNat, 14)]
  | .bgive16 st b => pack 0x3CC0 [(st.toNat, 14), (b.toNat, 2)]
  | .blk st len rep rsrc stg pre => pack 0xBE000000 [(st.toNat, 30), (len.toNat, 14), (rep.toNat, 6), (rsrc.toNat, 5), (stg.toNat, 2), (pre.toNat, 1)]
  | .br st off => pack 0xBC000000 [(st.toNat, 30), (off.toNat, 0)]
  | .brb st b off => pack 0xB8000000 [(st.toNat, 30), (b.toNat, 21), (off.toNat, 0)]
  | .brc st cond reg off => pack 0xBA000000 [(st.toNat, 30), (cond.toNat, 22), (reg.toNat, 17), (off.toNat, 0)]
  | .brk st imm => pack 0xB4400000 [(st.toNat, 30), (imm.toNat, 0)]
  | .bstat st b reg => pack 0xB4B00000 [(st.toNat, 30), (b.toNat, 16), (reg.toNat, 10)]
  | .btake st b n1 r reg => pack 0xB4900000 [(st.toNat, 30), (b.toNat, 16), (n1.toNat, 14), (r.toNat, 13), (reg.toNat, 7)]
  | .btake16 st b => pack 0x3C80 [(st.toNat, 14), (b.toNat, 2)]
  | .cas st b base new exp w ord scope => pack 0x94000000 [(st.toNat, 30), (b.toNat, 21), (base.toNat, 16), (new.toNat, 11), (exp.toNat, 6), (w.toNat, 5), (ord.toNat, 3), (scope.toNat, 0)]
  | .chkerr st reg => pack 0xB4600000 [(st.toNat, 30), (reg.toNat, 14)]
  | .clz st rd rs1 => pack 0x80000240 [(st.toNat, 30), (rd.toNat, 20), (rs1.toNat, 15)]
  | .cmp st rd rs1 rs2 cond => pack 0x800001A0 [(st.toNat, 30), (rd.toNat, 20), (rs1.toNat, 15), (rs2.toNat, 10), (cond.toNat, 0)]
  | .darn st ra rb rc => pack 0x9E200000 [(st.toNat, 30), (ra.toNat, 15), (rb.toNat, 10), (rc.toNat, 5)]
  | .div st rd rs1 rs2 u => pack 0x80000080 [(st.toNat, 30), (rd.toNat, 20), (rs1.toNat, 15), (rs2.toNat, 10), (u.toNat, 0)]
  | .enq st ra rb rc => pack 0xA0100000 [(st.toNat, 30), (ra.toNat, 15), (rb.toNat, 10), (rc.toNat, 5)]
  | .fence st scope => pack 0x96000000 [(st.toNat, 30), (scope.toNat, 17)]
  | .flset st f v => pack 0xB4700000 [(st.toNat, 30), (f.toNat, 17), (v.toNat, 16)]
  | .flsetSet16 st f => pack 0x3D00 [(st.toNat, 14), (f.toNat, 3)]
  | .flsetClear16 st f => pack 0x3D40 [(st.toNat, 14), (f.toNat, 3)]
  | .flwait st f clr => pack 0xB4800000 [(st.toNat, 30), (f.toNat, 17), (clr.toNat, 16)]
  | .flwait16 st f => pack 0x3D80 [(st.toNat, 14), (f.toNat, 3)]
  | .flwaitClr16 st f => pack 0x3DC0 [(st.toNat, 14), (f.toNat, 3)]
  | .fwq st ma => pack 0x88400000 [(st.toNat, 30), (ma.toNat, 15)]
  | .getsr st reg num => pack 0xB2000000 [(st.toNat, 30), (reg.toNat, 18), (num.toNat, 10)]
  | .halt st => pack 0xB4100000 [(st.toNat, 30)]
  | .halt16 st => pack 0x3C40 [(st.toNat, 14)]
  | .harrive st h leave => pack 0xB4C00000 [(st.toNat, 30), (h.toNat, 17), (leave.toNat, 16)]
  | .hwait st h => pack 0xB4D00000 [(st.toNat, 30), (h.toNat, 17)]
  | .knot st => pack 0x96100000 [(st.toNat, 30)]
  | .ld st rd base sz cls off => pack 0x88004000 [(st.toNat, 30), (rd.toNat, 20), (base.toNat, 15), (sz.toNat, 11), (cls.toNat, 9), (off.toNat, 0)]
  | .ldb st b base sp sz cls off => pack 0x8C000000 [(st.toNat, 30), (b.toNat, 21), (base.toNat, 15), (sp.toNat, 14), (sz.toNat, 11), (cls.toNat, 9), (off.toNat, 0)]
  | .ldbOrdered st b base sz cls ord scope => pack 0x8C000100 [(st.toNat, 30), (b.toNat, 21), (base.toNat, 15), (sz.toNat, 11), (cls.toNat, 9), (ord.toNat, 6), (scope.toNat, 3)]
  | .ldg st bd bi base cls esz sh sp => pack 0x8E000000 [(st.toNat, 30), (bd.toNat, 21), (bi.toNat, 17), (base.toNat, 12), (cls.toNat, 10), (esz.toNat, 8), (sh.toNat, 5), (sp.toNat, 4)]
  | .ldlit st rd off => pack 0x90000000 [(st.toNat, 30), (rd.toNat, 20), (off.toNat, 0)]
  | .lease st ma f => pack 0x88000000 [(st.toNat, 30), (ma.toNat, 15), (f.toNat, 0)]
  | .lfree st => pack 0x88100000 [(st.toNat, 30)]
  | .lhint st ra rb rc => pack 0x9E300000 [(st.toNat, 30), (ra.toNat, 15), (rb.toNat, 10), (rc.toNat, 5)]
  | .li st rd imm => pack 0x84000000 [(st.toNat, 30), (rd.toNat, 20), (imm.toNat, 0)]
  | .li16 st rd imm => pack 0x1400 [(st.toNat, 14), (rd.toNat, 5), (imm.toNat, 0)]
  | .lih st rd h imm => pack 0x86000000 [(st.toNat, 30), (rd.toNat, 20), (h.toNat, 18), (imm.toNat, 0)]
  | .lsflag st ma clr sum n => pack 0x88800000 [(st.toNat, 30), (ma.toNat, 15), (clr.toNat, 6), (sum.toNat, 5), (n.toNat, 0)]
  | .max st rd rs1 rs2 u => pack 0x800001E0 [(st.toNat, 30), (rd.toNat, 20), (rs1.toNat, 15), (rs2.toNat, 10), (u.toNat, 0)]
  | .min st rd rs1 rs2 u => pack 0x800001C0 [(st.toNat, 30), (rd.toNat, 20), (rs1.toNat, 15), (rs2.toNat, 10), (u.toNat, 0)]
  | .mma st n xa xb z => pack 0x8A000000 [(st.toNat, 30), (n.toNat, 21), (xa.toNat, 15), (xb.toNat, 9), (z.toNat, 8)]
  | .mov st rd rs1 => pack 0x80000200 [(st.toNat, 30), (rd.toNat, 20), (rs1.toNat, 15)]
  | .mov16 st rd rs => pack 0x0400 [(st.toNat, 14), (rd.toNat, 5), (rs.toNat, 0)]
  | .mul st rd rs1 rs2 => pack 0x80000040 [(st.toNat, 30), (rd.toNat, 20), (rs1.toNat, 15), (rs2.toNat, 10)]
  | .mulh st rd rs1 rs2 u => pack 0x80000060 [(st.toNat, 30), (rd.toNat, 20), (rs1.toNat, 15), (rs2.toNat, 10), (u.toNat, 0)]
  | .nbenter st ra rc => pack 0x9C000000 [(st.toNat, 30), (ra.toNat, 15), (rc.toNat, 5)]
  | .nbexit st ra rc => pack 0x9C400000 [(st.toNat, 30), (ra.toNat, 15), (rc.toNat, 5)]
  | .nbload st ra rb rc => pack 0x9C100000 [(st.toNat, 30), (ra.toNat, 15), (rb.toNat, 10), (rc.toNat, 5)]
  | .nbmac st ra rc h => pack 0x9C200000 [(st.toNat, 30), (ra.toNat, 15), (rc.toNat, 5), (h.toNat, 0)]
  | .nbread st ra rc b => pack 0x9C300000 [(st.toNat, 30), (ra.toNat, 15), (rc.toNat, 5), (b.toNat, 0)]
  | .nop st => pack 0xB4000000 [(st.toNat, 30)]
  | .nop16 st => pack 0x3C00 [(st.toNat, 14)]
  | .or st rd rs1 rs2 => pack 0x800000E0 [(st.toNat, 30), (rd.toNat, 20), (rs1.toNat, 15), (rs2.toNat, 10)]
  | .pcnt st d pa => pack 0xA2800000 [(st.toNat, 30), (d.toNat, 14), (pa.toNat, 10)]
  | .pfirst st d pa => pack 0xA2A00000 [(st.toNat, 30), (d.toNat, 14), (pa.toNat, 10)]
  | .plog st pd pa pb op => pack 0xA2000000 [(st.toNat, 30), (pd.toNat, 17), (pa.toNat, 13), (pb.toNat, 9), (op.toNat, 6)]
  | .popc st rd rs1 => pack 0x80000260 [(st.toNat, 30), (rd.toNat, 20), (rs1.toNat, 15)]
  | .ppack st d g => pack 0xA2400000 [(st.toNat, 30), (d.toNat, 14), (g.toNat, 13)]
  | .probe st rd ra t off => pack 0xA2000000 [(st.toNat, 30), (rd.toNat, 20), (ra.toNat, 15), (t.toNat, 11), (off.toNat, 0)]
  | .probeCfg st ra t => pack 0xA2000000 [(st.toNat, 30), (ra.toNat, 15), (t.toNat, 11)]
  | .prot st ra rb rc set => pack 0x9E000000 [(st.toNat, 30), (ra.toNat, 15), (rb.toNat, 10), (rc.toNat, 5), (set.toNat, 0)]
  | .pset st pd n => pack 0xA2200000 [(st.toNat, 30), (pd.toNat, 17), (n.toNat, 10)]
  | .punpk st a g => pack 0xA2600000 [(st.toNat, 30), (a.toNat, 14), (g.toNat, 13)]
  | .recfl st ra => pack 0x98200000 [(st.toNat, 30), (ra.toNat, 15)]
  | .rem st rd rs1 rs2 u => pack 0x800000A0 [(st.toNat, 30), (rd.toNat, 20), (rs1.toNat, 15), (rs2.toNat, 10), (u.toNat, 0)]
  | .rndend st ra rc => pack 0x9E100000 [(st.toNat, 30), (ra.toNat, 15), (rc.toNat, 5)]
  | .rowcp st ra rb rc n1 => pack 0x9A000000 [(st.toNat, 30), (ra.toNat, 15), (rb.toNat, 10), (rc.toNat, 5), (n1.toNat, 0)]
  | .rowfill st ra rb rc n1 => pack 0x9A100000 [(st.toNat, 30), (ra.toNat, 15), (rb.toNat, 10), (rc.toNat, 5), (n1.toNat, 0)]
  | .rowlog st ra rb rc op n1 => pack 0x9A200000 [(st.toNat, 30), (ra.toNat, 15), (rb.toNat, 10), (rc.toNat, 5), (op.toNat, 2), (n1.toNat, 0)]
  | .sclaim st n => pack 0x88200000 [(st.toNat, 30), (n.toNat, 0)]
  | .sel st rd rs1 rs2 rc => pack 0x80000220 [(st.toNat, 30), (rd.toNat, 20), (rs1.toNat, 15), (rs2.toNat, 10), (rc.toNat, 0)]
  | .setsr st reg num => pack 0xB3000000 [(st.toNat, 30), (reg.toNat, 18), (num.toNat, 10)]
  | .sfree st n => pack 0x88300000 [(st.toNat, 30), (n.toNat, 0)]
  | .shgo st ra rb rc ch => pack 0x98000000 [(st.toNat, 30), (ra.toNat, 15), (rb.toNat, 10), (rc.toNat, 5), (ch.toNat, 0)]
  | .shl st rd rs1 rs2 => pack 0x80000140 [(st.toNat, 30), (rd.toNat, 20), (rs1.toNat, 15), (rs2.toNat, 10)]
  | .shr st rd rs1 rs2 => pack 0x80000160 [(st.toNat, 30), (rd.toNat, 20), (rs1.toNat, 15), (rs2.toNat, 10)]
  | .shwm st ch rd => pack 0x98100000 [(st.toNat, 30), (ch.toNat, 10), (rd.toNat, 0)]
  | .signal st ra rb => pack 0xA0000000 [(st.toNat, 30), (ra.toNat, 15), (rb.toNat, 10)]
  | .sra st rd rs1 rs2 => pack 0x80000180 [(st.toNat, 30), (rd.toNat, 20), (rs1.toNat, 15), (rs2.toNat, 10)]
  | .st st rd base sp sz cls off => pack 0x8A000000 [(st.toNat, 30), (rd.toNat, 20), (base.toNat, 15), (sp.toNat, 14), (sz.toNat, 11), (cls.toNat, 9), (off.toNat, 0)]
  | .stOrdered st rd base sz cls ord scope => pack 0x8A000100 [(st.toNat, 30), (rd.toNat, 20), (base.toNat, 15), (sz.toNat, 11), (cls.toNat, 9), (ord.toNat, 6), (scope.toNat, 3)]
  | .stb st b base sp cls off => pack 0x88000000 [(st.toNat, 30), (b.toNat, 21), (base.toNat, 16), (sp.toNat, 15), (cls.toNat, 13), (off.toNat, 0)]
  | .stbOrdered st b base cls ord scope => pack 0x88001000 [(st.toNat, 30), (b.toNat, 21), (base.toNat, 16), (cls.toNat, 13), (ord.toNat, 10), (scope.toNat, 7)]
  | .stsc st bd bi base cls esz sh sp => pack 0x8A000000 [(st.toNat, 30), (bd.toNat, 21), (bi.toNat, 17), (base.toNat, 12), (cls.toNat, 10), (esz.toNat, 8), (sh.toNat, 5), (sp.toNat, 4)]
  | .sub st rd rs1 rs2 => pack 0x80000020 [(st.toNat, 30), (rd.toNat, 20), (rs1.toNat, 15), (rs2.toNat, 10)]
  | .sub16 st rd rs => pack 0x1000 [(st.toNat, 14), (rd.toNat, 5), (rs.toNat, 0)]
  | .trap st imm => pack 0xB4200000 [(st.toNat, 30), (imm.toNat, 0)]
  | .tret st => pack 0xB4300000 [(st.toNat, 30)]
  | .vadd st d a b m => pack 0x84000000 [(st.toNat, 30), (d.toNat, 18), (a.toNat, 11), (b.toNat, 4), (m.toNat, 3)]
  | .vbcast st d a n m => pack 0x9E000000 [(st.toNat, 30), (d.toNat, 18), (a.toNat, 11), (n.toNat, 5), (m.toNat, 2)]
  | .vcmp st d a b m cond => pack 0x8A000000 [(st.toNat, 30), (d.toNat, 18), (a.toNat, 11), (b.toNat, 4), (m.toNat, 3), (cond.toNat, 0)]
  | .vcvt st d a dty sty part m => pack 0x98000000 [(st.toNat, 30), (d.toNat, 18), (a.toNat, 11), (dty.toNat, 7), (sty.toNat, 3), (part.toNat, 1), (m.toNat, 0)]
  | .vfabs st d a m => pack 0x82000040 [(st.toNat, 30), (d.toNat, 18), (a.toNat, 11), (m.toNat, 3)]
  | .vfadd st d a b m => pack 0x80000000 [(st.toNat, 30), (d.toNat, 18), (a.toNat, 11), (b.toNat, 4), (m.toNat, 3)]
  | .vfclass st d a m => pack 0x82000050 [(st.toNat, 30), (d.toNat, 18), (a.toNat, 11), (m.toNat, 3)]
  | .vfcmp st d a b m cond => pack 0x88000000 [(st.toNat, 30), (d.toNat, 18), (a.toNat, 11), (b.toNat, 4), (m.toNat, 3), (cond.toNat, 0)]
  | .vfdiv st d a b m => pack 0x80000005 [(st.toNat, 30), (d.toNat, 18), (a.toNat, 11), (b.toNat, 4), (m.toNat, 3)]
  | .vfexp2 st d a m => pack 0x82000020 [(st.toNat, 30), (d.toNat, 18), (a.toNat, 11), (m.toNat, 3)]
  | .vfill st r slot p => pack 0xA0000020 [(st.toNat, 30), (r.toNat, 18), (slot.toNat, 7), (p.toNat, 6)]
  | .vflog2 st d a m => pack 0x82000030 [(st.toNat, 30), (d.toNat, 18), (a.toNat, 11), (m.toNat, 3)]
  | .vfma st d a b c => pack 0x8C000000 [(st.toNat, 30), (d.toNat, 18), (a.toNat, 11), (b.toNat, 4), (c.toNat, 0)]
  | .vfmax st d a b m => pack 0x80000004 [(st.toNat, 30), (d.toNat, 18), (a.toNat, 11), (b.toNat, 4), (m.toNat, 3)]
  | .vfmin st d a b m => pack 0x80000003 [(st.toNat, 30), (d.toNat, 18), (a.toNat, 11), (b.toNat, 4), (m.toNat, 3)]
  | .vfmul st d a b m => pack 0x80000002 [(st.toNat, 30), (d.toNat, 18), (a.toNat, 11), (b.toNat, 4), (m.toNat, 3)]
  | .vfnma st d a b c => pack 0x8E000000 [(st.toNat, 30), (d.toNat, 18), (a.toNat, 11), (b.toNat, 4), (c.toNat, 0)]
  | .vfrcp st d a m => pack 0x82000010 [(st.toNat, 30), (d.toNat, 18), (a.toNat, 11), (m.toNat, 3)]
  | .vfsh st d a b c => pack 0x94000000 [(st.toNat, 30), (d.toNat, 18), (a.toNat, 11), (b.toNat, 4), (c.toNat, 0)]
  | .vfsqrt st d a m => pack 0x82000000 [(st.toNat, 30), (d.toNat, 18), (a.toNat, 11), (m.toNat, 3)]
  | .vfsub st d a b m => pack 0x80000001 [(st.toNat, 30), (d.toNat, 18), (a.toNat, 11), (b.toNat, 4), (m.toNat, 3)]
  | .vgfma st d a b c => pack 0x90000000 [(st.toNat, 30), (d.toNat, 18), (a.toNat, 11), (b.toNat, 4), (c.toNat, 0)]
  | .vgfmul st d a b m => pack 0x86000003 [(st.toNat, 30), (d.toNat, 18), (a.toNat, 11), (b.toNat, 4), (m.toNat, 3)]
  | .vlog3 st d a b tt => pack 0x96000000 [(st.toNat, 30), (d.toNat, 19), (a.toNat, 12), (b.toNat, 8), (tt.toNat, 0)]
  | .vmaxS32 st d a b m => pack 0x84000005 [(st.toNat, 30), (d.toNat, 18), (a.toNat, 11), (b.toNat, 4), (m.toNat, 3)]
  | .vmaxN32 st d a b m => pack 0x84000006 [(st.toNat, 30), (d.toNat, 18), (a.toNat, 11), (b.toNat, 4), (m.toNat, 3)]
  | .vminS32 st d a b m => pack 0x84000003 [(st.toNat, 30), (d.toNat, 18), (a.toNat, 11), (b.toNat, 4), (m.toNat, 3)]
  | .vminN32 st d a b m => pack 0x84000004 [(st.toNat, 30), (d.toNat, 18), (a.toNat, 11), (b.toNat, 4), (m.toNat, 3)]
  | .vmov st d a m => pack 0x82000070 [(st.toNat, 30), (d.toNat, 18), (a.toNat, 11), (m.toNat, 3)]
  | .vmul st d a b m => pack 0x84000002 [(st.toNat, 30), (d.toNat, 18), (a.toNat, 11), (b.toNat, 4), (m.toNat, 3)]
  | .vpack st d a b w m => pack 0x9A000000 [(st.toNat, 30), (d.toNat, 18), (a.toNat, 11), (b.toNat, 4), (w.toNat, 2), (m.toNat, 0)]
  | .vperm st d a b m => pack 0x86000004 [(st.toNat, 30), (d.toNat, 18), (a.toNat, 11), (b.toNat, 4), (m.toNat, 3)]
  | .vpopc st d a m => pack 0x82000060 [(st.toNat, 30), (d.toNat, 18), (a.toNat, 11), (m.toNat, 3)]
  | .vred st d a m op => pack 0x9C000000 [(st.toNat, 30), (d.toNat, 18), (a.toNat, 11), (m.toNat, 3), (op.toNat, 0)]
  | .vsel st d a b c => pack 0x92000000 [(st.toNat, 30), (d.toNat, 18), (a.toNat, 11), (b.toNat, 4), (c.toNat, 0)]
  | .vsetl st n => pack 0xA2C00000 [(st.toNat, 30), (n.toNat, 14)]
  | .vshl st d a b m => pack 0x86000000 [(st.toNat, 30), (d.toNat, 18), (a.toNat, 11), (b.toNat, 4), (m.toNat, 3)]
  | .vshr st d a b m => pack 0x86000001 [(st.toNat, 30), (d.toNat, 18), (a.toNat, 11), (b.toNat, 4), (m.toNat, 3)]
  | .vslideUp st d a n m => pack 0x9E000008 [(st.toNat, 30), (d.toNat, 18), (a.toNat, 11), (n.toNat, 5), (m.toNat, 2)]
  | .vslideDown st d a n m => pack 0x9E000010 [(st.toNat, 30), (d.toNat, 18), (a.toNat, 11), (n.toNat, 5), (m.toNat, 2)]
  | .vspill st r slot p => pack 0xA0000000 [(st.toNat, 30), (r.toNat, 18), (slot.toNat, 7), (p.toNat, 6)]
  | .vsra st d a b m => pack 0x86000002 [(st.toNat, 30), (d.toNat, 18), (a.toNat, 11), (b.toNat, 4), (m.toNat, 3)]
  | .vsub st d a b m => pack 0x84000001 [(st.toNat, 30), (d.toNat, 18), (a.toNat, 11), (b.toNat, 4), (m.toNat, 3)]
  | .vunpk st d a k w m => pack 0x9A000002 [(st.toNat, 30), (d.toNat, 18), (a.toNat, 11), (k.toNat, 4), (w.toNat, 2), (m.toNat, 0)]
  | .xcall st off => pack 0xB6000000 [(st.toNat, 30), (off.toNat, 0)]
  | .xret st => pack 0xB4500000 [(st.toNat, 30)]
  | .xor st rd rs1 rs2 => pack 0x80000100 [(st.toNat, 30), (rd.toNat, 20), (rs1.toNat, 15), (rs2.toNat, 10)]
  | .engineWait _ => 0
  | .contextSwitch _ => 0
  | .hoopNotification _ _ => 0
  | .taskRetirement _ => 0
  | .gangTermination _ => 0
  | .preemptionRequest _ => 0
  | .forcedStop _ => 0
  | .contextStop _ => 0
  | .contextResumption _ => 0
  | .engineFaultDelivery _ => 0
  | .tileCommandExecution _ => 0
  | .shuttleCommandBegin _ _ => 0
  | .shuttleCompletion _ _ => 0
  | .cutworkExecution _ => 0
  | .couchingExecution _ => 0
  | .queueEngineExecution _ => 0
  | .footsideExecution _ => 0
  | .darningStripe _ => 0
  | .placementBoundary _ => 0
  | .pageMigration _ _ => 0
  | .evictionStart _ => 0
  | .pageEviction _ _ => 0
  | .chainDemotion _ => 0
  | .launch _ => 0
  | .gangPlacement _ => 0
  | .gangReserving _ => 0
  | .waitsig _ => 0
  | .setsig _ => 0
  | .mark _ => 0
  | .nopPacket _ => 0
  | .packetReject _ => 0
  | .priorityAging _ => 0
  | .faultHoldExpiry _ => 0
  | .qnotify _ _ => 0
  | .remoteNotify _ _ => 0
  | .nqclr _ _ _ => 0
  | .qmapcmdMap _ _ => 0
  | .qmapcmdUnmap _ _ => 0
  | .accevict _ _ _ => 0
  | .xinvPage _ _ => 0
  | .xinvAsid _ _ => 0
  | .xinvAll _ _ => 0
  | .grpcfgForm _ _ _ => 0
  | .grpcfgStby _ _ _ => 0
  | .grpcfgAbrt _ _ _ => 0
  | .grpmemWrite _ _ _ _ => 0
  | .heartbeatTimer _ => 0
  | .memberLoss _ _ => 0
  | .heartbeat _ => 0
  | .seal _ => 0
  | .delta _ => 0
  | .dack _ => 0
  | .prepared _ => 0
  | .abortreq _ => 0
  | .crec _ => 0
  | .crecack _ => 0
  | .commit _ => 0
  | .abort _ => 0
  | .loss _ => 0
  | .query _ => 0
  | .qreply _ => 0
  | .shreq _ => 0
  | .share _ => 0
  | .join _ => 0
  | .protectedLineRepair _ _ _ => 0
  | .uncorrectableError _ => 0
  | .correctableError _ _ => 0
  | .activationSaturation _ _ => 0
  | .auditReplayEnd _ _ _ _ => 0
  | .remoteTimeout _ _ => 0
  | .ualinkRequest _ => 0
  | .uetPacket _ _ _ => 0
  | .leadcmdRenew _ _ => 0
  | .leadcmdTake _ _ => 0
  | .leadcmdResign _ _ => 0
  | .leaseLapse => 0
  | .keycmdLoadMemoryKey _ _ => 0
  | .keycmdZeroiseMemoryKey _ _ => 0
  | .keycmdLoadNotifyKey _ _ => 0
  | .keycmdZeroiseNotifyKey _ _ => 0
  | .measext _ _ _ => 0
  | .signcmd _ _ => 0
  | .flashMailboxRead _ => 0
  | .rstctlWarmReset _ => 0
  | .rstctlColdReset _ => 0
  | .rstctlPtok _ => 0
  | .powerOnReset => 0
  | .powerInputOutOfRange _ => 0
  | .powerLoss => 0
  | .memoryGateOpen => 0
  | .thermalSample _ _ _ => 0
  | .lifetimeMerge => 0
  | .lifeEstimate _ => 0
  | .registerWrite _ _ _ => 0
  | .writeLands _ => 0
  | .globalAccessPerformed _ _ => 0
  | .shuttleElementMove _ _ => 0
  | .podHoopArrival _ _ _ => 0
  | .periodicRefresh _ _ => 0
  | .phyTrainingComplete _ => 0
  | .linkTrainingComplete _ => 0
  | .supervisorHartAccess _ _ => 0

/-- How many bytes the word of an instruction has (R86); 0 for a step that has no encoding. -/
def wordBytes : Instr → Nat
  | .accfill _ _ => 4
  | .accspill _ _ => 4
  | .accz _ _ => 4
  | .aclaim _ _ => 4
  | .add _ _ _ _ => 4
  | .add16 _ _ _ => 2
  | .addi _ _ _ _ => 4
  | .addi16 _ _ _ => 2
  | .adrain _ _ _ _ _ _ _ => 4
  | .afree _ _ => 4
  | .amo _ _ _ _ _ _ _ _ _ => 4
  | .and _ _ _ _ => 4
  | .andn _ _ _ _ => 4
  | .bgive _ _ _ => 4
  | .bgive16 _ _ => 2
  | .blk _ _ _ _ _ _ => 4
  | .br _ _ => 4
  | .brb _ _ _ => 4
  | .brc _ _ _ _ => 4
  | .brk _ _ => 4
  | .bstat _ _ _ => 4
  | .btake _ _ _ _ _ => 4
  | .btake16 _ _ => 2
  | .cas _ _ _ _ _ _ _ _ => 4
  | .chkerr _ _ => 4
  | .clz _ _ _ => 4
  | .cmp _ _ _ _ _ => 4
  | .darn _ _ _ _ => 4
  | .div _ _ _ _ _ => 4
  | .enq _ _ _ _ => 4
  | .fence _ _ => 4
  | .flset _ _ _ => 4
  | .flsetSet16 _ _ => 2
  | .flsetClear16 _ _ => 2
  | .flwait _ _ _ => 4
  | .flwait16 _ _ => 2
  | .flwaitClr16 _ _ => 2
  | .fwq _ _ => 4
  | .getsr _ _ _ => 4
  | .halt _ => 4
  | .halt16 _ => 2
  | .harrive _ _ _ => 4
  | .hwait _ _ => 4
  | .knot _ => 4
  | .ld _ _ _ _ _ _ => 4
  | .ldb _ _ _ _ _ _ _ => 4
  | .ldbOrdered _ _ _ _ _ _ _ => 4
  | .ldg _ _ _ _ _ _ _ _ => 4
  | .ldlit _ _ _ => 4
  | .lease _ _ _ => 4
  | .lfree _ => 4
  | .lhint _ _ _ _ => 4
  | .li _ _ _ => 4
  | .li16 _ _ _ => 2
  | .lih _ _ _ _ => 4
  | .lsflag _ _ _ _ _ => 4
  | .max _ _ _ _ _ => 4
  | .min _ _ _ _ _ => 4
  | .mma _ _ _ _ _ => 4
  | .mov _ _ _ => 4
  | .mov16 _ _ _ => 2
  | .mul _ _ _ _ => 4
  | .mulh _ _ _ _ _ => 4
  | .nbenter _ _ _ => 4
  | .nbexit _ _ _ => 4
  | .nbload _ _ _ _ => 4
  | .nbmac _ _ _ _ => 4
  | .nbread _ _ _ _ => 4
  | .nop _ => 4
  | .nop16 _ => 2
  | .or _ _ _ _ => 4
  | .pcnt _ _ _ => 4
  | .pfirst _ _ _ => 4
  | .plog _ _ _ _ _ => 4
  | .popc _ _ _ => 4
  | .ppack _ _ _ => 4
  | .probe _ _ _ _ _ => 4
  | .probeCfg _ _ _ => 4
  | .prot _ _ _ _ _ => 4
  | .pset _ _ _ => 4
  | .punpk _ _ _ => 4
  | .recfl _ _ => 4
  | .rem _ _ _ _ _ => 4
  | .rndend _ _ _ => 4
  | .rowcp _ _ _ _ _ => 4
  | .rowfill _ _ _ _ _ => 4
  | .rowlog _ _ _ _ _ _ => 4
  | .sclaim _ _ => 4
  | .sel _ _ _ _ _ => 4
  | .setsr _ _ _ => 4
  | .sfree _ _ => 4
  | .shgo _ _ _ _ _ => 4
  | .shl _ _ _ _ => 4
  | .shr _ _ _ _ => 4
  | .shwm _ _ _ => 4
  | .signal _ _ _ => 4
  | .sra _ _ _ _ => 4
  | .st _ _ _ _ _ _ _ => 4
  | .stOrdered _ _ _ _ _ _ _ => 4
  | .stb _ _ _ _ _ _ => 4
  | .stbOrdered _ _ _ _ _ _ => 4
  | .stsc _ _ _ _ _ _ _ _ => 4
  | .sub _ _ _ _ => 4
  | .sub16 _ _ _ => 2
  | .trap _ _ => 4
  | .tret _ => 4
  | .vadd _ _ _ _ _ => 4
  | .vbcast _ _ _ _ _ => 4
  | .vcmp _ _ _ _ _ _ => 4
  | .vcvt _ _ _ _ _ _ _ => 4
  | .vfabs _ _ _ _ => 4
  | .vfadd _ _ _ _ _ => 4
  | .vfclass _ _ _ _ => 4
  | .vfcmp _ _ _ _ _ _ => 4
  | .vfdiv _ _ _ _ _ => 4
  | .vfexp2 _ _ _ _ => 4
  | .vfill _ _ _ _ => 4
  | .vflog2 _ _ _ _ => 4
  | .vfma _ _ _ _ _ => 4
  | .vfmax _ _ _ _ _ => 4
  | .vfmin _ _ _ _ _ => 4
  | .vfmul _ _ _ _ _ => 4
  | .vfnma _ _ _ _ _ => 4
  | .vfrcp _ _ _ _ => 4
  | .vfsh _ _ _ _ _ => 4
  | .vfsqrt _ _ _ _ => 4
  | .vfsub _ _ _ _ _ => 4
  | .vgfma _ _ _ _ _ => 4
  | .vgfmul _ _ _ _ _ => 4
  | .vlog3 _ _ _ _ _ => 4
  | .vmaxS32 _ _ _ _ _ => 4
  | .vmaxN32 _ _ _ _ _ => 4
  | .vminS32 _ _ _ _ _ => 4
  | .vminN32 _ _ _ _ _ => 4
  | .vmov _ _ _ _ => 4
  | .vmul _ _ _ _ _ => 4
  | .vpack _ _ _ _ _ _ => 4
  | .vperm _ _ _ _ _ => 4
  | .vpopc _ _ _ _ => 4
  | .vred _ _ _ _ _ => 4
  | .vsel _ _ _ _ _ => 4
  | .vsetl _ _ => 4
  | .vshl _ _ _ _ _ => 4
  | .vshr _ _ _ _ _ => 4
  | .vslideUp _ _ _ _ _ => 4
  | .vslideDown _ _ _ _ _ => 4
  | .vspill _ _ _ _ => 4
  | .vsra _ _ _ _ _ => 4
  | .vsub _ _ _ _ _ => 4
  | .vunpk _ _ _ _ _ _ => 4
  | .xcall _ _ => 4
  | .xret _ => 4
  | .xor _ _ _ _ => 4
  | .engineWait _ => 0
  | .contextSwitch _ => 0
  | .hoopNotification _ _ => 0
  | .taskRetirement _ => 0
  | .gangTermination _ => 0
  | .preemptionRequest _ => 0
  | .forcedStop _ => 0
  | .contextStop _ => 0
  | .contextResumption _ => 0
  | .engineFaultDelivery _ => 0
  | .tileCommandExecution _ => 0
  | .shuttleCommandBegin _ _ => 0
  | .shuttleCompletion _ _ => 0
  | .cutworkExecution _ => 0
  | .couchingExecution _ => 0
  | .queueEngineExecution _ => 0
  | .footsideExecution _ => 0
  | .darningStripe _ => 0
  | .placementBoundary _ => 0
  | .pageMigration _ _ => 0
  | .evictionStart _ => 0
  | .pageEviction _ _ => 0
  | .chainDemotion _ => 0
  | .launch _ => 0
  | .gangPlacement _ => 0
  | .gangReserving _ => 0
  | .waitsig _ => 0
  | .setsig _ => 0
  | .mark _ => 0
  | .nopPacket _ => 0
  | .packetReject _ => 0
  | .priorityAging _ => 0
  | .faultHoldExpiry _ => 0
  | .qnotify _ _ => 0
  | .remoteNotify _ _ => 0
  | .nqclr _ _ _ => 0
  | .qmapcmdMap _ _ => 0
  | .qmapcmdUnmap _ _ => 0
  | .accevict _ _ _ => 0
  | .xinvPage _ _ => 0
  | .xinvAsid _ _ => 0
  | .xinvAll _ _ => 0
  | .grpcfgForm _ _ _ => 0
  | .grpcfgStby _ _ _ => 0
  | .grpcfgAbrt _ _ _ => 0
  | .grpmemWrite _ _ _ _ => 0
  | .heartbeatTimer _ => 0
  | .memberLoss _ _ => 0
  | .heartbeat _ => 0
  | .seal _ => 0
  | .delta _ => 0
  | .dack _ => 0
  | .prepared _ => 0
  | .abortreq _ => 0
  | .crec _ => 0
  | .crecack _ => 0
  | .commit _ => 0
  | .abort _ => 0
  | .loss _ => 0
  | .query _ => 0
  | .qreply _ => 0
  | .shreq _ => 0
  | .share _ => 0
  | .join _ => 0
  | .protectedLineRepair _ _ _ => 0
  | .uncorrectableError _ => 0
  | .correctableError _ _ => 0
  | .activationSaturation _ _ => 0
  | .auditReplayEnd _ _ _ _ => 0
  | .remoteTimeout _ _ => 0
  | .ualinkRequest _ => 0
  | .uetPacket _ _ _ => 0
  | .leadcmdRenew _ _ => 0
  | .leadcmdTake _ _ => 0
  | .leadcmdResign _ _ => 0
  | .leaseLapse => 0
  | .keycmdLoadMemoryKey _ _ => 0
  | .keycmdZeroiseMemoryKey _ _ => 0
  | .keycmdLoadNotifyKey _ _ => 0
  | .keycmdZeroiseNotifyKey _ _ => 0
  | .measext _ _ _ => 0
  | .signcmd _ _ => 0
  | .flashMailboxRead _ => 0
  | .rstctlWarmReset _ => 0
  | .rstctlColdReset _ => 0
  | .rstctlPtok _ => 0
  | .powerOnReset => 0
  | .powerInputOutOfRange _ => 0
  | .powerLoss => 0
  | .memoryGateOpen => 0
  | .thermalSample _ _ _ => 0
  | .lifetimeMerge => 0
  | .lifeEstimate _ => 0
  | .registerWrite _ _ _ => 0
  | .writeLands _ => 0
  | .globalAccessPerformed _ _ => 0
  | .shuttleElementMove _ _ => 0
  | .podHoopArrival _ _ _ => 0
  | .periodicRefresh _ _ => 0
  | .phyTrainingComplete _ => 0
  | .linkTrainingComplete _ => 0
  | .supervisorHartAccess _ _ => 0

/-- A word of cluster `c` (R94): the opcode bits name an instruction, no bit outside its fields is set, and its fields keep
to their limits. `long` tells a 32-bit word. -/
def decodeWord (c : Cluster) (long : Bool) (w : Nat) : Except DecodeError Instr :=
  match (if long then decode32 c w else decode16 c w) with
  | none => .error .reservedOpcode
  | some i =>
    if encode i = w then
      match check c i with
      | none => .ok i
      | some e => .error (.illFormed e)
    else .error .nonzeroReserved

/-- The bytes of a word at rising addresses (R86): each halfword least significant byte first, the first halfword of a
32-bit word being bits 31:16. -/
def wordToBytes (long : Bool) (w : Nat) : List Byte :=
  if long then [fld w 16 8, fld w 24 8, fld w 0 8, fld w 8 8] else [fld w 0 8, fld w 8 8]

/-- The first word of some bytes: whether it is long, its value, and the bytes after it. -/
def firstWord (bytes : List Byte) : Option (Bool × Nat × List Byte) :=
  match bytes with
  | b0 :: b1 :: rest =>
    if b1.toNat < 128 then some (false, b0.toNat + b1.toNat * 2 ^ 8, rest)
    else
      match rest with
      | b2 :: b3 :: rest' =>
        some (true, b0.toNat * 2 ^ 16 + b1.toNat * 2 ^ 24 + b2.toNat + b3.toNat * 2 ^ 8, rest')
      | _ => none
  | _ => none

/-- R86: the instruction that cluster `c` reads from some bytes, and the bytes after it. -/
def decode (c : Cluster) (bytes : List Byte) : Except DecodeError (Instr × List Byte) :=
  match firstWord bytes with
  | none => .error .truncated
  | some (long, w, rest) => (decodeWord c long w).map (fun i => (i, rest))

/-- The bytes of an instruction at rising addresses. -/
def encodeBytes (i : Instr) : List Byte := wordToBytes (wordBytes i == 4) (encode i)

/-- What some bytes are in each cluster that reads an instruction from them, in cluster order. -/
def readings (bytes : List Byte) : List (Cluster × Instr) :=
  [Cluster.A, .V, .M, .S].filterMap (fun c =>
    match decode c bytes with
    | .ok (i, _) => some (c, i)
    | .error _ => none)

/-- How many bits of its word an instruction leaves to fields, the stitch bit among them. -/
def fieldBits : Instr → Nat
  | .accfill _ _ => 5
  | .accspill _ _ => 5
  | .accz _ _ => 5
  | .aclaim _ _ => 5
  | .add _ _ _ _ => 16
  | .add16 _ _ _ => 11
  | .addi _ _ _ _ => 26
  | .addi16 _ _ _ => 11
  | .adrain _ _ _ _ _ _ _ => 26
  | .afree _ _ => 5
  | .amo _ _ _ _ _ _ _ _ _ => 26
  | .and _ _ _ _ => 16
  | .andn _ _ _ _ => 16
  | .bgive _ _ _ => 7
  | .bgive16 _ _ => 5
  | .blk _ _ _ _ _ _ => 25
  | .br _ _ => 26
  | .brb _ _ _ => 26
  | .brc _ _ _ _ => 26
  | .brk _ _ => 17
  | .bstat _ _ _ => 11
  | .btake _ _ _ _ _ => 14
  | .btake16 _ _ => 5
  | .cas _ _ _ _ _ _ _ _ => 26
  | .chkerr _ _ => 7
  | .clz _ _ _ => 11
  | .cmp _ _ _ _ _ => 19
  | .darn _ _ _ _ => 16
  | .div _ _ _ _ _ => 17
  | .enq _ _ _ _ => 16
  | .fence _ _ => 4
  | .flset _ _ _ => 5
  | .flsetSet16 _ _ => 4
  | .flsetClear16 _ _ => 4
  | .flwait _ _ _ => 5
  | .flwait16 _ _ => 4
  | .flwaitClr16 _ _ => 4
  | .fwq _ _ => 6
  | .getsr _ _ _ => 15
  | .halt _ => 1
  | .halt16 _ => 1
  | .harrive _ _ _ => 5
  | .hwait _ _ => 4
  | .knot _ => 1
  | .ld _ _ _ _ _ _ => 24
  | .ldb _ _ _ _ _ _ _ => 24
  | .ldbOrdered _ _ _ _ _ _ _ => 20
  | .ldg _ _ _ _ _ _ _ _ => 22
  | .ldlit _ _ _ => 26
  | .lease _ _ _ => 9
  | .lfree _ => 1
  | .lhint _ _ _ _ => 16
  | .li _ _ _ => 26
  | .li16 _ _ _ => 11
  | .lih _ _ _ _ => 24
  | .lsflag _ _ _ _ _ => 12
  | .max _ _ _ _ _ => 17
  | .min _ _ _ _ _ => 17
  | .mma _ _ _ _ _ => 18
  | .mov _ _ _ => 11
  | .mov16 _ _ _ => 11
  | .mul _ _ _ _ => 16
  | .mulh _ _ _ _ _ => 17
  | .nbenter _ _ _ => 11
  | .nbexit _ _ _ => 11
  | .nbload _ _ _ _ => 16
  | .nbmac _ _ _ _ => 12
  | .nbread _ _ _ _ => 15
  | .nop _ => 1
  | .nop16 _ => 1
  | .or _ _ _ _ => 16
  | .pcnt _ _ _ => 12
  | .pfirst _ _ _ => 12
  | .plog _ _ _ _ _ => 16
  | .popc _ _ _ => 11
  | .ppack _ _ _ => 9
  | .probe _ _ _ _ _ => 26
  | .probeCfg _ _ _ => 10
  | .prot _ _ _ _ _ => 17
  | .pset _ _ _ => 12
  | .punpk _ _ _ => 9
  | .recfl _ _ => 6
  | .rem _ _ _ _ _ => 17
  | .rndend _ _ _ => 11
  | .rowcp _ _ _ _ _ => 21
  | .rowfill _ _ _ _ _ => 21
  | .rowlog _ _ _ _ _ _ => 21
  | .sclaim _ _ => 7
  | .sel _ _ _ _ _ => 21
  | .setsr _ _ _ => 15
  | .sfree _ _ => 7
  | .shgo _ _ _ _ _ => 17
  | .shl _ _ _ _ => 16
  | .shr _ _ _ _ => 16
  | .shwm _ _ _ => 7
  | .signal _ _ _ => 11
  | .sra _ _ _ _ => 16
  | .st _ _ _ _ _ _ _ => 25
  | .stOrdered _ _ _ _ _ _ _ => 21
  | .stb _ _ _ _ _ _ => 25
  | .stbOrdered _ _ _ _ _ _ => 17
  | .stsc _ _ _ _ _ _ _ _ => 22
  | .sub _ _ _ _ => 16
  | .sub16 _ _ _ => 11
  | .trap _ _ => 17
  | .tret _ => 1
  | .vadd _ _ _ _ _ => 23
  | .vbcast _ _ _ _ _ => 22
  | .vcmp _ _ _ _ _ _ => 26
  | .vcvt _ _ _ _ _ _ _ => 26
  | .vfabs _ _ _ _ => 16
  | .vfadd _ _ _ _ _ => 23
  | .vfclass _ _ _ _ => 16
  | .vfcmp _ _ _ _ _ _ => 26
  | .vfdiv _ _ _ _ _ => 23
  | .vfexp2 _ _ _ _ => 16
  | .vfill _ _ _ _ => 20
  | .vflog2 _ _ _ _ => 16
  | .vfma _ _ _ _ _ => 26
  | .vfmax _ _ _ _ _ => 23
  | .vfmin _ _ _ _ _ => 23
  | .vfmul _ _ _ _ _ => 23
  | .vfnma _ _ _ _ _ => 26
  | .vfrcp _ _ _ _ => 16
  | .vfsh _ _ _ _ _ => 26
  | .vfsqrt _ _ _ _ => 16
  | .vfsub _ _ _ _ _ => 23
  | .vgfma _ _ _ _ _ => 26
  | .vgfmul _ _ _ _ _ => 23
  | .vlog3 _ _ _ _ _ => 26
  | .vmaxS32 _ _ _ _ _ => 23
  | .vmaxN32 _ _ _ _ _ => 23
  | .vminS32 _ _ _ _ _ => 23
  | .vminN32 _ _ _ _ _ => 23
  | .vmov _ _ _ _ => 16
  | .vmul _ _ _ _ _ => 23
  | .vpack _ _ _ _ _ _ => 25
  | .vperm _ _ _ _ _ => 23
  | .vpopc _ _ _ _ => 16
  | .vred _ _ _ _ _ => 19
  | .vsel _ _ _ _ _ => 26
  | .vsetl _ _ => 8
  | .vshl _ _ _ _ _ => 23
  | .vshr _ _ _ _ _ => 23
  | .vslideUp _ _ _ _ _ => 22
  | .vslideDown _ _ _ _ _ => 22
  | .vspill _ _ _ _ => 20
  | .vsra _ _ _ _ _ => 23
  | .vsub _ _ _ _ _ => 23
  | .vunpk _ _ _ _ _ _ => 25
  | .xcall _ _ => 26
  | .xret _ => 1
  | .xor _ _ _ _ => 16
  | .engineWait _ => 0
  | .contextSwitch _ => 0
  | .hoopNotification _ _ => 0
  | .taskRetirement _ => 0
  | .gangTermination _ => 0
  | .preemptionRequest _ => 0
  | .forcedStop _ => 0
  | .contextStop _ => 0
  | .contextResumption _ => 0
  | .engineFaultDelivery _ => 0
  | .tileCommandExecution _ => 0
  | .shuttleCommandBegin _ _ => 0
  | .shuttleCompletion _ _ => 0
  | .cutworkExecution _ => 0
  | .couchingExecution _ => 0
  | .queueEngineExecution _ => 0
  | .footsideExecution _ => 0
  | .darningStripe _ => 0
  | .placementBoundary _ => 0
  | .pageMigration _ _ => 0
  | .evictionStart _ => 0
  | .pageEviction _ _ => 0
  | .chainDemotion _ => 0
  | .launch _ => 0
  | .gangPlacement _ => 0
  | .gangReserving _ => 0
  | .waitsig _ => 0
  | .setsig _ => 0
  | .mark _ => 0
  | .nopPacket _ => 0
  | .packetReject _ => 0
  | .priorityAging _ => 0
  | .faultHoldExpiry _ => 0
  | .qnotify _ _ => 0
  | .remoteNotify _ _ => 0
  | .nqclr _ _ _ => 0
  | .qmapcmdMap _ _ => 0
  | .qmapcmdUnmap _ _ => 0
  | .accevict _ _ _ => 0
  | .xinvPage _ _ => 0
  | .xinvAsid _ _ => 0
  | .xinvAll _ _ => 0
  | .grpcfgForm _ _ _ => 0
  | .grpcfgStby _ _ _ => 0
  | .grpcfgAbrt _ _ _ => 0
  | .grpmemWrite _ _ _ _ => 0
  | .heartbeatTimer _ => 0
  | .memberLoss _ _ => 0
  | .heartbeat _ => 0
  | .seal _ => 0
  | .delta _ => 0
  | .dack _ => 0
  | .prepared _ => 0
  | .abortreq _ => 0
  | .crec _ => 0
  | .crecack _ => 0
  | .commit _ => 0
  | .abort _ => 0
  | .loss _ => 0
  | .query _ => 0
  | .qreply _ => 0
  | .shreq _ => 0
  | .share _ => 0
  | .join _ => 0
  | .protectedLineRepair _ _ _ => 0
  | .uncorrectableError _ => 0
  | .correctableError _ _ => 0
  | .activationSaturation _ _ => 0
  | .auditReplayEnd _ _ _ _ => 0
  | .remoteTimeout _ _ => 0
  | .ualinkRequest _ => 0
  | .uetPacket _ _ _ => 0
  | .leadcmdRenew _ _ => 0
  | .leadcmdTake _ _ => 0
  | .leadcmdResign _ _ => 0
  | .leaseLapse => 0
  | .keycmdLoadMemoryKey _ _ => 0
  | .keycmdZeroiseMemoryKey _ _ => 0
  | .keycmdLoadNotifyKey _ _ => 0
  | .keycmdZeroiseNotifyKey _ _ => 0
  | .measext _ _ _ => 0
  | .signcmd _ _ => 0
  | .flashMailboxRead _ => 0
  | .rstctlWarmReset _ => 0
  | .rstctlColdReset _ => 0
  | .rstctlPtok _ => 0
  | .powerOnReset => 0
  | .powerInputOutOfRange _ => 0
  | .powerLoss => 0
  | .memoryGateOpen => 0
  | .thermalSample _ _ _ => 0
  | .lifetimeMerge => 0
  | .lifeEstimate _ => 0
  | .registerWrite _ _ _ => 0
  | .writeLands _ => 0
  | .globalAccessPerformed _ _ => 0
  | .shuttleElementMove _ _ => 0
  | .podHoopArrival _ _ _ => 0
  | .periodicRefresh _ _ => 0
  | .phyTrainingComplete _ => 0
  | .linkTrainingComplete _ => 0
  | .supervisorHartAccess _ _ => 0

/-- Of several readings of one word, the one whose instruction leaves the fewest bits to fields; the first of several
equal ones (log 5). -/
def narrowest : List (Cluster × Instr) → Option (Cluster × Instr)
  | [] => none
  | r :: rest =>
    match narrowest rest with
    | none => some r
    | some q => if fieldBits q.2 < fieldBits r.2 then some q else some r

/-- The bytes of a table word of `nbits` bits, followed by zeros. -/
def tableBytes (nbits w : Nat) : List Byte :=
  (if nbits ≤ 16 then wordToBytes false w else wordToBytes true w) ++ [0, 0]

/-- The cluster and instruction that the decoders read from a word numbered as spec/opcode_table.json numbers it. The
clusters' maps give one word several meanings (R86), so the reading is chosen by `narrowest` (log 5). -/
def tableReading (nbits w : Nat) : Option (Cluster × Instr) := narrowest (readings (tableBytes nbits w))

/-- The instruction that the decoders read from a word numbered as spec/opcode_table.json numbers it. -/
def decodeTableWord (nbits w : Nat) : Option Instr := (tableReading nbits w).map Prod.snd

end Sys2Proof
end

