-- ==== Sys2Proof/Machine/State.lean ====
section
/-! DEFINITION. The state of one HX9 module as plain data: contexts with their four clusters, the Filet arrays, the dies,
the hub die with the Tambour and the supervisor registers, the coding groups, and memory. The context that issues is
held apart (`State.ctx`); every other context is in `State.others`. INVENTORY.md lists every field with its rule. -/

namespace Sys2Proof.Machine

/-- Sparse bytes in canonical form: addresses strictly rising, no entry 0; an unlisted address reads as 0 (log 1). -/
structure Memory where
  cells : List Host.Cell
  deriving DecidableEq, Repr

def Memory.empty : Memory := ⟨[]⟩

/-- An entry of a block stack (R58): `start` to `stop` is the body, `left` the remaining count (R59; for a staged block
the iterations not yet started, R64), `stages` the address and the stage of each body word (R63). -/
structure BlockEntry where
  header : W64
  start : W64
  stop : W64
  left : W32
  staged : Bool
  nstages : Nat
  mask : BitVec 8
  stages : List (W64 × Nat)
  pre : Bool
  deriving DecidableEq, Repr

/-- What a cluster waits for before it issues (R37, R246): for a slot of a bobbin that producer `prod` fills, for room in a
bobbin, for the next slot of an engine's bobbin, and so on. -/
inductive WaitKind
  | none | flag | bobbinCluster (prod : Nat) | bobbinRoom | bobbinEngine | watermark | queueFull | hoop | stitch
  deriving DecidableEq, Repr

/-- One cluster of a context (R51, R53): its program counter, block stack (innermost first) and call floor (R461) of the
present mode, the task-mode copies a handler entry saves (R240), and EPC and ESTAT (R80). `ready` is the first cycle in which it
may issue, `waitFrom` the cycle in which its present wait began (R37), `parked` its graceful stop (R246). -/
structure ClusterState where
  active : Bool
  taskActive : Bool
  pc : W64
  blocks : List BlockEntry
  floor : Nat
  savedBlocks : List BlockEntry
  savedFloor : Nat
  epc : W64
  estat : W64
  ready : Nat
  wait : WaitKind
  waitFrom : Nat
  parked : Bool
  deriving DecidableEq, Repr

structure Clusters where
  a : ClusterState
  v : ClusterState
  m : ClusterState
  s : ClusterState
  deriving DecidableEq, Repr

/-- The register files of Table 4.1. -/
structure Regs where
  a : Vector W64 32
  m : Vector W64 16
  s : Vector W64 16
  n : Vector W32 4
  v : Vector VReg 48
  o : Vector VReg 8
  l : Vector VReg 4
  p : Vector W64 16
  k : Vector W32 8
  deriving DecidableEq, Repr

/-- The special registers of Table 4.2 that are held once per context; EPC and ESTAT are per cluster, n0 to n3 and the
bobbins have homes of their own. `fcsr` holds bits 9:0 of Table 4.8. -/
structure SRegs where
  handler : Bool
  dbgt : Bool
  cause : W64
  tval : W64
  ecmd : W64
  cirAbort : Bool
  cirCount : W16
  taskid : W64
  gangsize : W64
  deleg : W64
  hentry : W64
  lfsr : W32
  vsp : BitVec 20
  vslim : BitVec 20
  vlen : BitVec 7
  fcsr : BitVec 10
  deriving DecidableEq, Repr

/-- A slot reserved by a read into a PROD-4 bobbin (R322): the number of the read, and its data once it is performed. -/
structure Reservation where
  id : Nat
  data : Option VReg
  deriving DecidableEq, Repr

/-- A bobbin: the fields of BCFGn (Table 3.2) and its reservations. -/
structure Bobbin where
  en : Bool
  cons : BitVec 2
  prod : BitVec 4
  sz : Bool
  depth : BitVec 8
  base : BitVec 13
  count : Nat
  fill : Nat
  take : Nat
  resv : List Reservation
  nextId : Nat
  deriving DecidableEq, Repr

/-- Where a vector result goes (R82): a register, or the `size` bytes of bobbin memory from `addr` on that are the slot named at
issue (R68, R99). -/
inductive VDest
  | v (n : Nat) | o (n : Nat) | slot (addr size : Nat)
  deriving DecidableEq, Repr

/-- What lands (R73): the effects that an issued instruction schedules. -/
inductive Effect
  | scalar (c : Cluster) (r : Nat) (v : W64)
  | vector (d : VDest) (mask v : VReg)
  | pred (p : Nat) (v : W64)
  | spStore (addr : Nat) (bytes : List Byte) (dbg : Bool)
  | deliver (b : Nat) (index : Nat) (v : VReg)
  | sreg (c : Cluster) (num : BitVec 8) (v : W64)
  | fcsrOr (flags : BitVec 10)
  | flag (f : Nat) (v : Bool)
  | flagTake (f : Nat)
  | flagGrant (f : Nat)
  | lfsrStep (v : W32)
  | take (b n : Nat)
  | give (b n : Nat)
  | vsp (v : BitVec 20)
  | vlen (v : BitVec 7)
  | deactivate (c : Cluster)
  | cirClear
  | abort
  deriving DecidableEq, Repr

/-- A write in flight (R73): it lands at cycle `at`. -/
structure Write where
  lands : Nat
  eff : Effect
  deriving DecidableEq, Repr

/-- The kinds of queued global access (R182): reads name their bobbin and reservation, an AMO with a return value too; `knot n`
is the n-th KNOT of its cluster (R184). `arrive` and `leave` are the arrival and the leave of a HARRIVE, which follow the accesses that it
releases (R194); a leave carries the armed bit and the generation of the record that it ends (R43). `recfl` is the invalidation of a RECFL, which comes
before every later release of its core (R172). -/
inductive AccKind
  | load (b id : Nat) (sz : BitVec 3)
  | gather (b id : Nat)
  | store
  | scatter
  | amo (ret : Option (Nat × Nat)) (op : BitVec 4)
  | cas (b id : Nat) (expect : W64)
  | signal
  | fence
  | knot (n : Nat)
  | arrive (hoop : Nat)
  | leave (hoop scope group : Nat) (armed : Bool) (gen : W16)
  | recfl (handle : W64)
  deriving DecidableEq, Repr

/-- One element of an access, translated once (R162): virtual and physical address, and the leaf that served it, with the size of
its page. -/
structure Elem where
  va : W64
  pa : Nat
  pte : W64
  page : Nat
  deriving DecidableEq, Repr

/-- A global access in the load or store queue (R182): its place in issue order, its elements of `size` bytes each, the bytes
stored (lane by lane for a scatter), alias class (none for AMO, CAS and SIGNAL), ordering and scope, and whether a read of the context
has been given bytes of it (R189). -/
structure Access where
  num : Nat
  loadQ : Bool
  issuer : Cluster
  kind : AccKind
  elems : List Elem
  size : Nat
  data : VReg
  cls : Option (BitVec 2)
  ord : BitVec 2
  scope : BitVec 3
  seen : Bool
  deriving DecidableEq, Repr

/-- An engine fault that is pending (R243), and the cycle in which it arose. -/
structure EngFault where
  arose : Nat
  cause : BitVec 6
  tval : W64
  clu : Cluster
  eng : Nat
  idx : Nat
  estw : W32
  deriving DecidableEq, Repr

/-- Whether an engine's queue runs, is stopped by a pending fault, or by a fault whose handler runs (R243). -/
inductive QueueRun | run | pending | delivered
  deriving DecidableEq, Repr

/-- The resume cursor of a shuttle command (R179): six loop indices and the run offset. -/
structure Cursor where
  i0 : Nat
  i1 : Nat
  i2 : Nat
  i3 : Nat
  i4 : Nat
  i5 : Nat
  e : Nat
  deriving DecidableEq, Repr

/-- A PROBE fill (R150): table, entry, the table's configuration at issue, scratchpad address and bytes. -/
structure Fill where
  table : Nat
  entry : Nat
  gen : Nat
  dst : Nat
  len : Nat
  deriving DecidableEq, Repr

/-- A shuttle command (R163); `issued` is the cycle of its issue, `after` its place among the context's accesses, all earlier
of which it releases (R192): a copy, or a PROBE fill. `record` is the copy it took when it began (R172), `buf` what it has read
for a bobbin slot that is not complete (R176), `bytes` what BC counts. -/
structure ShCmd where
  issued : Nat
  after : Nat
  fill : Option Fill
  pricking : BitVec 640
  handle : W64
  aw : W64
  idx : Nat
  phys : Option Nat
  begun : Bool
  record : BitVec 1536
  cur : Cursor
  buf : List Byte
  finished : Bool
  bytes : W64
  failed : Bool
  deriving DecidableEq, Repr

/-- A queued command of the Cutwork, Couching, queue, Darning or Footside engine (R204): the instruction word and
its register values at issue; `after` as in ShCmd; `elems` is what it translated at issue (R201, R210); `packet` is the 64-byte
packet of an ENQ (R235), `stripe` the next stripe of a DARN. -/
structure EngCmd where
  after : Nat
  word : W32
  ra : W64
  rb : W64
  rc : W64
  idx : Nat
  elems : List Elem
  packet : BitVec 512
  stripe : Nat
  deriving DecidableEq, Repr

/-- An update of a completion word, or the BC add behind it, that is to be made (R177, R490): with `add` a plain 64-bit add;
else an arrival (if `arrive`), a failure code, the fallback bit, and the command's index. -/
structure Update where
  addr : W64
  add : Option W64
  arrive : Bool
  err : Option (BitVec 6)
  fb : Bool
  idx : Nat
  deriving DecidableEq, Repr

/-- A shuttle channel's queue of one context: its commands, the next command's index (R177), and the declared range and
watermark (R173) with the destination bytes of the present command that are still to be written. -/
structure ShQueue where
  cmds : List ShCmd
  next : Nat
  run : QueueRun
  updates : List Update
  lo : Nat
  hi : Nat
  wm : Nat
  unwritten : List Nat
  deriving DecidableEq, Repr

structure EngQueue where
  cmds : List EngCmd
  next : Nat
  run : QueueRun
  updates : List Update
  deriving DecidableEq, Repr

/-- One way of a PROBE set (R150). -/
structure TagEntry where
  tag : Nat
  filling : Bool
  gen : Nat
  deriving DecidableEq, Repr

/-- A PROBE tag table (R148, Table 7.1): its descriptor, entries by slot number, and set victim pointers. -/
structure ProbeTable where
  en : Bool
  cwaddr : W64
  spbase : Nat
  blklg : Nat
  setlg : Nat
  ways : Nat
  tags : List (Nat × TagEntry)
  ptrs : List (Nat × Nat)
  gen : Nat
  deriving DecidableEq, Repr

/-- A task's record of one hoop (R39): its scope (0 undeclared, 1 quad, 2 die, 3 pkg, 4 pod), its group number or, for a pod
hoop, the id of the registered entry, membership, armed bit and recorded generation; `notified` when the completion of
that generation of a pod hoop has reached the task (R347), and the cycle after that of the arrival that armed it (R346). -/
structure HoopRec where
  scope : Nat
  group : Nat
  member : Bool
  armed : Bool
  gen : W16
  notified : Bool
  armedAt : Nat
  deriving DecidableEq, Repr

/-- A tile command accepted by the array (R129): values read at issue and what it bound; an ADRAIN whose atomic was withheld
keeps its value in `held`, with the error that its read of the tile met (R140, R319). `forget` is what AFREE leaves behind: from there the
tile's contents are undefined (R320). -/
inductive TileOp
  | mma (a b : Nat) (z : Bool) (fmt : Option W64)
  | accz
  | drain (ma mb mc : W64) (ty scope : BitVec 3) (lfsr : W32) (held : Option (W32 × Bool))
  | lsflag (ma : W64) (sum clr : Bool)
  | spill (owner : Option Nat)
  | fill (saved : Bool)
  | forget
  deriving DecidableEq, Repr

/-- `issued` is the acceptance cycle; `retry` marks a command that the array runs again after a fault (R139). -/
structure TileCmd where
  cid : Nat
  num : Nat
  tile : Nat
  cw : W64
  issued : Nat
  after : Nat
  retry : Bool
  op : TileOp
  deriving DecidableEq, Repr

/-- Whether and how a context is scheduled (Table 2.2). -/
inductive Life | none | ready | engineWait | hoopWait | stopping | stopped | saved | retiring | retired
  deriving DecidableEq, Repr

/-- The stop record of the context area (Table 12.5); `save` numbers the writing of the area. -/
structure StopRecord where
  cause : W64
  tval : W64
  ecmd : W64
  epcs : List W64
  estats : List W64
  handler : Bool
  hoopWait : Bool
  unreadable : Bool
  save : Nat
  deriving DecidableEq, Repr

/-- An entry of a drawn task's log (R277): its source (0 to 3 the clusters, 4 and 5 the shuttle channels), its place in the issue order of
the context, the virtual address read (0 for a result that is no read), and the bytes. -/
structure LogEntry where
  source : Nat
  place : Nat
  addr : W64
  bytes : List Byte
  deriving DecidableEq, Repr

/-- The replay of a drawn task (R279): the number of its audit, the log entries that it has still to read, those that a read already issued
will take, by its place in issue order, and whether a read differed. -/
structure Replay where
  task : Nat
  left : List LogEntry
  claims : List (Nat × LogEntry)
  differs : Bool
  deriving DecidableEq, Repr

/-- What a drawn task has logged and signed (R277, R278): the records of its store signature, each with its cluster and its
place in issue order, the log, by place, whether it consumed an abort (R280), and for a replay what it reads. -/
structure Audit where
  drawn : Bool
  aborted : Bool
  replay : Option Replay
  records : List (Nat × Nat × List Byte)
  log : List LogEntry
  deriving DecidableEq, Repr

/-- A physical operand slot (R121, R122): its holder, whether it drains after an SFREE (R398), the issue cycles of the fills not
yet complete (R124), its bytes, and the bytes that an uncorrectable error struck (R140). -/
structure OpSlot where
  holder : Option Nat
  draining : Bool
  fills : List Nat
  bytes : Memory
  bad : List Nat
  deriving DecidableEq, Repr

/-- The engine side of a context: queues, pending faults, lazily saved tiles, slot names (R122, R133, R163, R204). A format word is listed
with the place of the MMA that has bound it (R126); `kept` holds the physical slots that the context held when it stopped (R119). -/
structure Engines where
  sh0 : ShQueue
  sh1 : ShQueue
  cut : EngQueue
  couch : EngQueue
  qeng : EngQueue
  darn : EngQueue
  foot : EngQueue
  faults : List EngFault
  held : List TileCmd
  heldUpdates : List Update
  asaved : W16
  names : List (Nat × Nat)
  formats : List (W64 × Option Nat)
  kept : List (Nat × OpSlot)
  probes : Vector ProbeTable 16
  hold : Option Nat
  xp : Memory
  arrayRun : QueueRun
  deriving DecidableEq, Repr

/-- Whether a context has issued in task mode since its last resumption or its last return from a handler (R243, R411). -/
inductive Entry | issued | resumed | returned
  deriving DecidableEq, Repr

/-- One context (R77): a task in a slot of a core, or saved. `spBad` and `bmBad` list the 4-byte words of the scratchpad and of bobbin memory
that an uncorrectable error struck (R272), `groupReady` tells whether its stitched group could issue in its present cycle (R54, R241), `preempt` is the
time of the pre-emption request (R246, R247). `late` names the queued accesses that one ordered behind them at `.core` or `.quad` has passed (R187), `single` the queued KNOTs that had paired with nothing when the handler was entered (R184, R196), `code` and `codeRemote` hold
the bytes of this package and of others as they stood at placement (R52), and `entry` what R243 and R411 ask of the next cycle. -/
structure Ctx where
  cid : Nat
  gang : Nat
  asid : W16
  die : Nat
  quad : Nat
  core : Nat
  slot : Nat
  cap48 : Bool
  life : Life
  running : Bool
  runSince : Nat
  served : Nat
  regs : Regs
  sr : SRegs
  cl : Clusters
  flags : Vector Bool 8
  bob : Vector Bobbin 16
  bmem : Memory
  sp : Memory
  spBad : List Nat
  bmBad : List Nat
  flight : List Write
  eng : Engines
  gq : List Access
  nextAcc : Nat
  late : List Nat
  single : List (Cluster × Nat)
  knotsA : Nat
  knotsS : Nat
  hoops : Vector HoopRec 8
  code : Memory
  codeRemote : List (Nat × Byte)
  entry : Entry
  groupReady : Bool
  preempt : Option Nat
  stop : Option StopRecord
  audit : Audit
  deriving DecidableEq, Repr

/-- A hoop instance (R39): hoop number, group index, scope code, and the cycle of its last completion (R347). -/
structure HoopInst where
  hoop : Nat
  group : Nat
  scope : Nat
  expect : Nat
  arrived : Nat
  gen : W16
  doneAt : Nat
  deriving DecidableEq, Repr

/-- A gang (R26): the fields of its LAUNCH packet (Table 11.2), the input list as validation read it, what its retirement collects (R222), and
of the Sampler's replay the number of its audit (R279). -/
structure Gang where
  id : Nat
  qslot : Nat
  qid : Nat
  asid : W16
  packet : BitVec 512
  inputs : List (W64 × W64)
  size : Nat
  placed : Bool
  saved : Bool
  hoops : List HoopInst
  frozen : Bool
  preempt : Option Nat
  retired : Nat
  abort : Bool
  naborts : Nat
  terminated : Bool
  done : Bool
  replay : Option Nat
  deriving DecidableEq, Repr

/-- The present lease of an array (R117, R118). -/
structure Lease where
  cid : Nat
  left : Nat
  next : Nat
  cw : W64
  deriving DecidableEq, Repr

structure LeaseReq where
  cid : Nat
  pos : Nat
  flag : Nat
  cw : W64
  deriving DecidableEq, Repr

/-- An accumulator tile (R133): tag, bytes (values row-major, then the flag map, R135); `undef = some g` when the contents
are undefined, and are then the free values number `g` (R36). -/
structure Tile where
  tag : Option Nat
  bytes : Memory
  undef : Option Nat
  bad : List Nat
  deriving DecidableEq, Repr

/-- A quad's Filet array (R117 to R141): ARRCFG.LEASEMAX, the lease and its
requesters, the contexts that give up lease or request in the present cycle (R354), the last holder's place in the cyclic order, operand
memory, tiles, accepted commands, the cycle in which the command at the head began, and the context whose tiles ACCEVICT spills (R136). -/
structure QuadState where
  leaseMax : Nat
  started : Option Nat
  lease : Option Lease
  reqs : List LeaseReq
  freed : List Nat
  last : Nat
  slots : Vector OpSlot 48
  tiles : Vector Tile 16
  queue : List TileCmd
  evict : Option Nat
  deriving DecidableEq, Repr

/-- The L1 of a core (R145): lines present, the valid words with their owned bit, and the key ids of the lines of pages under a key (R295). -/
structure L1 where
  lines : List Nat
  words : List (Nat × W32 × Bool)
  keys : List (Nat × Nat)
  deriving DecidableEq, Repr

/-- A die-cache line (R146, R147): line address, data, dirty and demoted marks, chain id, key id, and the pseudo-channel that serves it
(R13, R198). -/
structure DieLine where
  line : Nat
  data : BitVec 512
  dirty : Bool
  chain : Byte
  demoted : Bool
  key : Byte
  channel : Nat
  deriving DecidableEq, Repr

/-- A pseudo-channel in all-bank mode (R211): key (stack, channel) folded into a number, holder; X and P lie in the
holder's `xp` in the layout of R215. -/
structure PcHold where
  channel : Nat
  cid : Nat
  deriving DecidableEq, Repr

/-- A compute die: ACTCFG, ERRRING, suspects, cached records, the activation counters by bank and row, the rows that each bank's last activation has
opened and no precharge has closed, the counters whose check bit fails, and the rows that the last saturation refreshed (R207). -/
structure DieState where
  actSat : W16
  actNbr : Nat
  errBase : W64
  errSize : Nat
  suspects : List Nat
  records : List (Nat × W64 × BitVec 1536)
  acts : List (Nat × Nat × Nat)
  opened : List (Nat × List Nat)
  failed : List (Nat × Nat)
  refreshed : List (Nat × Nat)
  deriving DecidableEq, Repr

/-- A translation held in a translation cache (R159): the cache (0 to 671 a core's micro-TLB, 672 + q the cache of quad q, 840 + d that of
die d, 846 the hub die's), ASID, page base and size (in bytes), and the leaf. -/
structure TlbEntry where
  cache : Nat
  asid : W16
  base : Nat
  size : Nat
  pte : W64
  deriving DecidableEq, Repr

/-- What a migration, an eviction or a return from the capacity tier in progress holds of a page (R18, R154, R155). -/
inductive PageMove | idle | migrating (toStack : Nat) | evicting | returning (toStack : Nat)
  deriving DecidableEq, Repr

/-- What the device keeps for a mapped page, named by the address of its leaf entry (R15, R152): priority, absolute next-use
round, and the access counters of the six compute dies; `pfn` is the frame, or the page of the capacity tier, for which it keeps them. A page
that is not listed has the values of its allocation. -/
structure PageInfo where
  pteAddr : Nat
  asid : W16
  va : Nat
  size : Nat
  pfn : Nat
  prio : Nat
  next : Option W32
  counts : Vector W16 6
  move : PageMove
  deriving DecidableEq, Repr

/-- A hardware queue slot of the Tambour (R225, R228): what it holds of the descriptor of the queue mapped to it. -/
structure HwSlot where
  qid : Nat
  asid : W16
  ring : W64
  sizelg : Nat
  prio : Nat
  eff : Nat
  widx : W32
  ridx : W32
  seq : W32
  devenq : Bool
  remote : Bool
  key : Nat
  hold : Nat
  waitsig : Option W64
  fault : Option (Bool × Nat)
  aging : Nat
  headWait : Nat
  reserving : Bool
  valid : Option Nat
  deriving DecidableEq, Repr

/-- The Tambour (chapter 11): mapped slots, each level's last winner, gangs, registered signal pages, the wake FIFO, the notify
pairs (R290), the chain ends that wait for their gangs (R28), the cycle after that of the last decision (R229), the queues that
were unmapped while their head waited on a signal (R227), the time that a gang at the head of an unmapped queue has waited (R34), the job-record cuts that wait for their gangs, with queue and job id,
and each queue's first gang since its last cut (R224). -/
structure Tambour where
  slots : List (Nat × HwSlot)
  lastWin : Vector Nat 8
  gangs : List Gang
  nextGang : Nat
  signals : List (W16 × Nat)
  wakeFifo : List Nat
  wakeOvf : Bool
  pairs : List (W16 × W16 × Nat × Bool)
  marks : List (Nat × List Nat)
  decided : Nat
  sleepers : List (Nat × W16 × W64)
  waited : List (Nat × Nat)
  jobs : List (Nat × W64 × List Nat)
  cuts : List (Nat × Nat)
  deriving DecidableEq, Repr

/-- STATE of a group slot (Table 13.1). -/
inductive GrpState | idle | forming | opened | sealing | prepared | recovering | darning | broken
  deriving DecidableEq, Repr

/-- An RNDEND that the group slot holds (R261); once its round is decided, the update that it still owes (R490). -/
structure HeldEnd where
  cid : Nat
  aw : W64
  idx : Nat
  due : Option Update
  deriving DecidableEq, Repr

/-- One group slot (R252 to R271): the registers' fields and the progress of the round, of formation and of recovery:
`silent` the microseconds since each member's last message, `acks` the holders whose DACKs are awaited, one entry for each, `recorders` the members whose
CRECACK is awaited and `recording` how many must still come, `answers` the members whose CRECACK or QREPLY has come, `requested` the stripe that the
Darning engine has asked for and of whom, `served` the regions that other standbys have darned, by member (R483), `attempt` numbers the rounds that the slot has opened
or opened again (R266), `abortDue` tells that an abort waits for a page to have moved (R18), `unsent` holds what no port can carry yet (R300), `regionPte` the address space and leaf entry of each protected region, `beat` the
microsecond of the last heartbeat sent, `early` the messages that wait for an earlier one of their sender, or for the decision of the round before
theirs (R265), with their TYPE, and `peerLocked` the
stripes that other members have locked (R267). -/
structure GroupSlot where
  state : GrpState
  hbto : Nat
  rcnt : Nat
  gid : W16
  self : Nat
  k : Nat
  m : Nat
  mem : Vector W64 16
  live : Vector Bool 16
  area : W64
  silent : Vector Nat 16
  seqIn : Vector W32 16
  seqOut : Vector W32 16
  lossInRound : Bool
  lossesSinceWhole : Nat
  ablock : Bool
  abreq : Bool
  abrt : Bool
  prepared : List Nat
  acks : List Nat
  recording : Option Nat
  epoch : Nat
  joins : List (Nat × JoinInfo)
  readyFrom : List Nat
  viaDarning : List Nat
  held : List HeldEnd
  passed : List (Nat × Access)
  audits : Nat
  darned : List Nat
  shares : List (Nat × GroupShare)
  requested : Option (Nat × List Nat)
  recorders : List Nat
  answers : List Nat
  regionPte : List (Nat × Nat × Nat)
  beat : Nat
  lockedStripe : Option Nat
  out : List (Nat × BitVec 1024 × Option JoinInfo)
  setInRound : List Nat
  setSent : List Nat
  queryRound : Option W32
  served : List (Nat × Nat)
  early : List (Nat × GroupMsg)
  peerLocked : List Nat
  attempt : Nat
  abortDue : Bool
  unsent : List (Nat × BitVec 1024 × Option JoinInfo)
  deriving DecidableEq, Repr

/-- Reset and power state (R303 to R309): `links` holds the trained ports and whether their keys are established (R300),
`swing` the lowest and highest temperature of each die since its last counted swing (Table 14.5), `sampled` the microsecond of
the last sample (R309), `temps` what it found of the six compute dies and the hub die, `estimated` that of the last life estimate (R282), `trained` the temperature
at which each HBM PHY's saved training was taken (R305), `repairs` the repair maps in use (Table 16.4). -/
structure Power where
  on : Bool
  last : BitVec 2
  ptok : Bool
  keys : Bool
  train : Bool
  gate : Bool
  keyz : Bool
  full : W16
  clockSteps : Nat
  recovery : Bool
  links : List (Nat × Bool)
  swing : Vector (Option (Nat × Nat)) 7
  sampled : Nat
  temps : Vector (Option Nat) 7
  estimated : Nat
  trained : Vector (Option Nat) 16
  repairs : List (Nat × Nat)
  deriving DecidableEq, Repr

/-- The lifetime records (Table 14.5), by class, stack, outcome, die and bin; the two histograms count samples of 100 µs
and `powered` counts microseconds; `dropped` counts what R284, R265, R299 and R300 drop. -/
structure Lifetime where
  errors : Vector Nat 11
  corrected : Vector Nat 16
  audits : Vector Nat 6
  thermal : Vector Nat 7
  temps : Vector Nat 112
  volts : Vector Nat 96
  powered : Nat
  overflows : Vector Nat 6
  dropped : Nat
  deriving DecidableEq, Repr

/-- An image slot of flash (R291): the digest of the image's bytes; of its manifest the digest, the version, the security version, the rollback
floor that it asks for, whether both maker signatures verify, and the owner-key digests under which both owner signatures verify. -/
structure FlashImage where
  actual : BitVec 384
  digest : BitVec 384
  version : Nat
  security : Nat
  floor : Nat
  maker : Bool
  owner : BitVec 384
  deriving DecidableEq, Repr

/-- A configuration block (R14, R291): its digest, the power and the coolant domain, the owner-key digests under which it verifies and
the identity digest that it names. -/
structure FlashConfig where
  digest : BitVec 384
  pwrdom : W16
  cooldom : W16
  owner : BitVec 384
  device : BitVec 384
  deriving DecidableEq, Repr

/-- A staged ownership transfer (R294): what the release names, whether its maker signatures verify, the new owner's key digests, and whether
the new owner's signatures of the enrolment verify. -/
structure Release where
  maker : Bool
  enrolled : Bool
  device : BitVec 384
  owner : BitVec 384
  nonce : Nat
  newOwner : BitVec 384
  deriving DecidableEq, Repr

/-- Module flash (R275, R281, R291, R294, R297, R303): what survives every reset. `repairs` are the repair maps: a row and its spare. -/
structure Flash where
  imageA : Option FlashImage
  imageB : Option FlashImage
  loader : BitVec 384
  floor : Nat
  config : Option FlashConfig
  owner : BitVec 384
  release : Option Release
  nonce : Nat
  recordSeq : Nat
  retired : List Nat
  repairs : List (Nat × Nat)
  life : Lifetime
  deriving DecidableEq, Repr

/-- What the supervisor's firmware stages in flash (R291, R294). -/
inductive FlashItem
  | image (b : Bool) (i : Option FlashImage) | config (c : Option FlashConfig) | release (r : Option Release)
  | repairs (m : List (Nat × Nat))
  deriving DecidableEq, Repr

/-- Lifetime increments since the last merge into flash, and its microsecond (R281). -/
structure Pending where
  life : Lifetime
  since : Nat
  deriving DecidableEq, Repr

/-- A memory or notify key slot (R295): loaded, kept across a warm reset, the number of its present key (0: never loaded), and the bytes of a
notify key. The bytes of a page read as unrelated bytes when the slot's key is not the one they were written under. -/
structure KeySlot where
  loaded : Bool
  keep : Bool
  serial : Nat
  value : BitVec 256
  deriving DecidableEq, Repr

/-- What the flash mailbox has returned (R298): the bytes of the records and of the frame retirements, and their signature. -/
structure MailboxReply where
  bytes : List Byte
  signature : List Byte
  deriving DecidableEq, Repr

/-- The supervisor MMIO of the hub die and of the leader (chapters 1, 7, 11 to 16); beside it, what leaves the module: the
interrupts to the harts, the last load of each hart (none: a load access fault, R274), the answers to peers (none: an abort), the
mailbox; the correctable errors of the last hour by stack, row and microsecond (R275); and the number of each key that was
loaded, by its bytes. `xinvWaits` names the accesses that XINV awaits: context, 0 for a queued access, 1 for a Couching and 2 for a Cutwork command, and
number (R162). `plintNow` and `trigNow` hold for the present interval (R23), `qmapDue` and `keyDue` what STS shows when BUSY clears (R225, R295),
`leadAt` the cycle and the die of the last LEADCMD write (R285), `hartMode` the privilege mode of each hart (0 U, 1 S, 3 M) and `resv` its
reservation (R283), `attest` the measurements from which the attestation keys were derived (R293), `attestKeys` and `attestCert` the attestation public keys and
their certificate by the identity keys, `recoveryBox` the recovery mailbox (R291), `keyGen` the resets since which the ids that no command has named have their random keys (R295),
and `peerWaits` the peers' requests that arrived before the gate opened, with the time of their arrival (R305). -/
structure Hub where
  pkg : Nat
  pwrdom : W16
  cooldom : W16
  plctl : W64
  plint : W32
  tiercfg : W64
  xinv : W64
  xinvWaits : List (Nat × Nat × Nat)
  qtbase : W64
  qmapcmd : W64
  ctxtbase : W64
  asidtbase : W64
  smpcfg : W64
  jrnbase : W64
  lifeest : W64
  keyblob : W64
  keycmd : W64
  epoch : W32
  holder : Nat
  remain : Nat
  meas : Vector (BitVec 384) 8
  podHoops : List (Nat × HoopInst)
  memKeys : List (Nat × KeySlot)
  notifyKeys : List (Nat × KeySlot)
  nextKey : Nat
  irqs : List (Nat × W64)
  hartLoads : Vector (Option (List Byte)) 6
  replies : List (Option (List Byte))
  mailbox : Option MailboxReply
  rowErrors : List (Nat × Nat × Nat)
  blobs : List (List Byte × Nat)
  plintNow : W32
  trigNow : Nat
  qmapDue : Option Nat
  keyDue : Option Nat
  leadAt : Nat × Nat
  hartMode : Vector Nat 6
  resv : Vector (Option (Nat × Nat)) 6
  attest : List Byte
  attestKeys : List Byte
  attestCert : List Byte
  recoveryBox : List Byte
  keyGen : Nat
  peerWaits : List (FabricReq × Nat)
  deriving DecidableEq, Repr

/-- A supervisor hart (R283): the registers of an RV64IMAFDC hart beside its mode and its reservation, which the hub's record holds: the program counter,
x0 to x31, f0 to f31, and the CSRs that hold other than their reset values, by number. -/
structure Hart where
  pc : W64
  x : Vector W64 32
  f : Vector W64 32
  csrs : List (Nat × W64)
  deriving DecidableEq, Repr

/-- What remains to be chosen at a cycle boundary (log 3): a step of the table, or an event inside the implementation
that the spec leaves unordered (the eviction of an L1 line, of a die-cache line, of a cached translation), the supervisor's
naming of an address space's root table (R156 gives it no register), its allocation of frames, its return of a page on demand
(R155), a hart's reading of a register (R284), the mode and the program counter that the boot ROM leaves a hart, or a hart's next instruction (R283), what firmware stages in flash (R291, R294), what comes to the recovery mailbox (R291), that another standby has darned a region (R483), a store of another package to its own memory (R197), a miss of a core's
instruction cache (R51), an ordinary access's activation of a row (R207), or the passing of a cycle or a microsecond. -/
inductive Choice
  | row (i : Instr)
  | tick
  | microsecond
  | evictL1 (core line : Nat)
  | dropTlb (n : Nat)
  | setRoot (asid root : Nat)
  | setFree (stack pages : Nat)
  | returnPage (page die : Nat)
  | linkKeys (port : Nat)
  | standbyDarned (slot member region : Nat)
  | remoteStore (pa : Nat) (bytes : List Byte)
  | fetchFill (cid : Nat) (va : W64)
  | activation (bank row : Nat)
  | hartRead (die : Nat) (reg : MmioReg)
  | hartMode (die mode : Nat) (pc : W64)
  | hartStep (die : Nat)
  | recoveryMail (bytes : List Byte)
  | flashWrite (item : FlashItem)
  deriving DecidableEq, Repr

/-- A retired drawn task whose audit is open (R279, R280): its number, the LAUNCH packet, address space, task number, inputs and log of the
original, its core, its store signature, the group slots, and the numbers of their rounds, whose gate waits for it (R266),
the replay whose end is still to be judged, and those that have been: core, signature, whether it may equal another. -/
structure AuditRun where
  task : Nat
  packet : BitVec 512
  asid : W16
  taskid : W64
  inputs : List (W64 × W64)
  log : List LogEntry
  core : Nat
  sig : W64
  slots : List (Nat × Nat)
  ended : Option (Nat × W64 × Bool)
  runs : List (Nat × W64 × Bool)
  deriving DecidableEq, Repr

/-- What the last issue attempt came to (log 3); the planner of a cycle reads it. -/
inductive Verdict | none | issued | waited | trapped
  deriving DecidableEq, Repr

/-- A trap that a cluster has raised in a cycle in which others issue still (R240, R242): cluster, cause code, TVAL, ECMD. -/
structure TrapInfo where
  clu : Cluster
  code : Nat
  tval : W64
  ecmd : W64
  deriving DecidableEq, Repr

/-- The whole module. `heads` holds, for each active cluster of the focused context, the program counter with which it entered
the present cycle and whether that word lies in a valid stage (R54, R244), `trapDue` the trap that is taken when the turns of the cycle are
over (R240, R242). `roots` holds the root table of each address space (R156); `remote` holds the bytes of other packages that have been stored since reset (R197), `returns` the pages of the capacity tier that return once
there is room, with the die that asked (R155), `worn` the failed frames whose pages have still to leave them (R275), `stamps`, for each encrypted line, the serial number
of the key it was written under (R295), `hintErrors` the hint errors of R158, `struck` the die-cache lines that an error has struck and that nothing has read since (R272), `wounds` those that
are gone with their data, and whether that has been reported, `walks` the addresses of the table entries that walks have read and whose lines have still to be
moved up in their die caches (R147, R161), `sent` the requests to other packages that wait for their answers: requester, address, and the time since when
(R301), `shLast` the slot that a core's channel last
served (R163), `freePages` each stack's free capacity in 4 KiB frames, `evictStacks` the stacks whose evictions go on until HIGH
(R153), `ended` the contexts whose tasks have retired, as their slots hold them until another task starts there (R481), `harts` the six supervisor harts, `phase` the time since the present microsecond began, 2,772,000 to the microsecond, `audits` the open audits, `boundary` the microsecond of the last interval boundary and the round commits whose boundary is still due (R16). -/
structure State where
  now : Nat
  us : Nat
  phase : Nat
  ctx : Ctx
  others : List Ctx
  plan : List Cluster
  heads : List (Nat × W64 × Bool)
  schedule : List Choice
  verdict : Verdict
  free : Nat
  trapDue : Option TrapInfo
  roots : List (Nat × Nat)
  mem : Memory
  remote : List (Nat × Byte)
  stamps : List (Nat × Nat)
  hintErrors : Nat
  cap : Memory
  dcache : List DieLine
  owners : List (Nat × Nat)
  l1 : List (Nat × L1)
  tlb : List TlbEntry
  pages : List PageInfo
  returns : List (Nat × Option Nat)
  worn : List Nat
  freePages : Vector Nat 16
  evictStacks : List Nat
  boundary : Nat × Nat
  holds : List PcHold
  lost : List Nat
  struck : List Nat
  wounds : List (Nat × Bool)
  walks : List Nat
  sent : List ((Nat × Nat) × Nat)
  quads : List (Nat × QuadState)
  shLast : List (Nat × Nat)
  dies : Vector DieState 6
  tamb : Tambour
  groups : Vector GroupSlot 4
  localRound : W32
  hub : Hub
  power : Power
  flash : Flash
  pending : Pending
  audits : List AuditRun
  nextAudit : Nat
  ended : List Ctx
  harts : Vector Hart 6
  deriving DecidableEq, Repr

/-- Why the machine stops for good. -/
inductive Fault
  /-- Raised by a supervisor hart access or a peer request to a local address at or above 16 × B, which is backed by no
  stack (R12). Safe: the spec gives such an access no effect. -/
  | noSuchAddress (addr : Nat)
  deriving DecidableEq, Repr

/-- Why a step has no meaning here. -/
inductive Refusal
  /-- Raised by an arm of Dispatch.lean whose instruction has no meaning yet. Safe: the run stops. -/
  | notModelled (mnemonic : String)
  deriving DecidableEq, Repr

/-! ## Reset

Every field at the value the spec states for reset; where it states none, at the value the log names (logs 1, 2, 4). -/

def ClusterState.reset : ClusterState :=
  { active := false, taskActive := false, pc := 0, blocks := [], floor := 0, savedBlocks := [], savedFloor := 0,
    epc := 0, estat := 0, ready := 0, wait := .none, waitFrom := 0, parked := false }

/-- R35: every register zero. -/
def Regs.reset : Regs :=
  { a := Vector.replicate 32 0, m := Vector.replicate 16 0, s := Vector.replicate 16 0, n := Vector.replicate 4 0,
    v := Vector.replicate 48 0, o := Vector.replicate 8 0, l := Vector.replicate 4 0, p := Vector.replicate 16 0,
    k := Vector.replicate 8 0 }

/-- Table 4.2 for task 0 of a cap-32 gang: VLEN 64, LFSR 1, VSP the scratchpad size. -/
def SRegs.reset : SRegs :=
  { handler := false, dbgt := false, cause := 0, tval := 0, ecmd := 0, cirAbort := false, cirCount := 0, taskid := 0,
    gangsize := 1, deleg := 0, hentry := 0, lfsr := 1, vsp := 0x40000, vslim := 0x40000, vlen := 64, fcsr := 0 }

def Bobbin.reset : Bobbin :=
  { en := false, cons := 0, prod := 0, sz := false, depth := 0, base := 0, count := 0, fill := 0, take := 0, resv := [], nextId := 0 }

def ShQueue.reset : ShQueue := { cmds := [], next := 0, run := .run, updates := [], lo := 0, hi := 0, wm := 0, unwritten := [] }
def EngQueue.reset : EngQueue := { cmds := [], next := 0, run := .run, updates := [] }
def ProbeTable.reset : ProbeTable :=
  { en := false, cwaddr := 0, spbase := 0, blklg := 0, setlg := 0, ways := 0, tags := [], ptrs := [], gen := 0 }
def HoopRec.reset : HoopRec :=
  { scope := 0, group := 0, member := false, armed := false, gen := 0, notified := false, armedAt := 0 }
def Audit.reset : Audit := { drawn := false, aborted := false, replay := none, records := [], log := [] }
def Engines.reset : Engines :=
  { sh0 := .reset, sh1 := .reset, cut := .reset, couch := .reset, qeng := .reset, darn := .reset, foot := .reset,
    faults := [], held := [], heldUpdates := [], asaved := 0, names := [], formats := [], kept := [],
    probes := Vector.replicate 16 .reset, hold := none, xp := .empty, arrayRun := .run }

/-- An empty context slot: no task (R32), with the registers a task would start with. -/
def Ctx.reset : Ctx :=
  { cid := 0, gang := 0, asid := 0, die := 0, quad := 0, core := 0, slot := 0, cap48 := false, life := .none,
    running := false, runSince := 0, served := 0, regs := .reset, sr := .reset,
    cl := ⟨.reset, .reset, .reset, .reset⟩, flags := Vector.replicate 8 false, bob := Vector.replicate 16 .reset,
    bmem := .empty, sp := .empty, spBad := [], bmBad := [], flight := [], eng := .reset, gq := [], nextAcc := 0, late := [], single := [], knotsA := 0, knotsS := 0,
    hoops := Vector.replicate 8 .reset, code := .empty, codeRemote := [], entry := .issued, groupReady := true, preempt := none, stop := none,
    audit := .reset }

def OpSlot.reset : OpSlot := { holder := none, draining := false, fills := [], bytes := .empty, bad := [] }
/-- R303: operand memory and accumulators are cleared by every reset; until claimed the contents are undefined (R36). -/
def Tile.reset : Tile := { tag := none, bytes := .empty, undef := some 0, bad := [] }
/-- ARRCFG.LEASEMAX 16 (Table 6.1); core 3 slot 1 counts as the last holder (R118). -/
def QuadState.reset : QuadState :=
  { leaseMax := 16, started := none, lease := none, reqs := [], freed := [], last := 7, slots := Vector.replicate 48 .reset,
    tiles := Vector.replicate 16 .reset, queue := [], evict := none }

/-- ACTCFG 0x1000 and 2 (Table 10.3), ERRRING 0 (Table 14.2). -/
def DieState.reset : DieState :=
  { actSat := 0x1000, actNbr := 2, errBase := 0, errSize := 0, suspects := [],
    records := [], acts := [], opened := [], failed := [], refreshed := [] }

/-- R229: each level counts slot 511 as its last winner. -/
def Tambour.reset : Tambour :=
  { slots := [], lastWin := Vector.replicate 8 511, gangs := [], nextGang := 1, signals := [],
    wakeFifo := [], wakeOvf := false, pairs := [], marks := [], decided := 0, sleepers := [], waited := [], jobs := [], cuts := [] }

/-- Tables 13.1 to 13.3. -/
def GroupSlot.reset : GroupSlot :=
  { state := .idle, hbto := 1000, rcnt := 0, gid := 0, self := 0, k := 0, m := 0, mem := Vector.replicate 16 0,
    live := Vector.replicate 16 false, area := 0, silent := Vector.replicate 16 0, seqIn := Vector.replicate 16 0,
    seqOut := Vector.replicate 16 0, lossInRound := false, lossesSinceWhole := 0, ablock := false, abreq := false, abrt := false,
    prepared := [], acks := [], recording := none, epoch := 0, joins := [], readyFrom := [], viaDarning := [], held := [],
    passed := [], audits := 0, darned := [], shares := [], requested := none, recorders := [],
    answers := [], regionPte := [], beat := 0, lockedStripe := none, out := [], setInRound := [], setSent := [],
    queryRound := none, served := [], early := [], peerLocked := [], attempt := 0, abortDue := false, unsent := [] }

def Lifetime.zero : Lifetime :=
  { errors := Vector.replicate 11 0, corrected := Vector.replicate 16 0, audits := Vector.replicate 6 0,
    thermal := Vector.replicate 7 0, temps := Vector.replicate 112 0, volts := Vector.replicate 96 0, powered := 0,
    overflows := Vector.replicate 6 0, dropped := 0 }

def Pending.reset : Pending := { life := .zero, since := 0 }

/-- Flash as it leaves the factory of this model (log 4): both image slots hold an image that passes, no configuration
block is accepted, the records are zero. -/
def Flash.reset : Flash :=
  { imageA := some ⟨0, 0, 0, 0, 0, true, 0⟩, imageB := some ⟨0, 0, 0, 0, 0, true, 0⟩, loader := 0, floor := 0, config := none, owner := 0, release := none,
    nonce := 0, recordSeq := 0, retired := [], repairs := [], life := .zero }

/-- Tables 16.2 and 16.3: after a power-on reset LAST is 0 and TRAIN, KEYS, PTOK and GATE are clear. -/
def Power.reset : Power :=
  { on := true, last := 0, ptok := false, keys := false, train := false, gate := false, keyz := false, full := 0,
    clockSteps := 0, recovery := false, links := [], swing := Vector.replicate 7 none, sampled := 0, temps := Vector.replicate 7 none,
    estimated := 0, trained := Vector.replicate 16 none, repairs := [] }

/-- The hub registers (Tables 1.3, 1.4, 7.3, 7.5, 11.6, 12.4, 14.3, 14.6, 15.1, R22): MODDOM holds 0xFFFF in both fields,
since no configuration block is accepted (R14). -/
def Hub.reset : Hub :=
  { pkg := 0, pwrdom := 0xFFFF, cooldom := 0xFFFF, plctl := 0x0000080000401009, plint := 10000,
    tiercfg := 0x0000020800040003, xinv := 0, xinvWaits := [], qtbase := 0,
    qmapcmd := 0, ctxtbase := 0, asidtbase := 0, smpcfg := 0x1000, jrnbase := 0, lifeest := 0xFFFFFFFFFFFF0000,
    keyblob := 0, keycmd := 0, epoch := 0, holder := 7, remain := 0, meas := Vector.replicate 8 0,
    podHoops := [], memKeys := [(0, ⟨true, true, 1, 0⟩)], notifyKeys := [], nextKey := 2, irqs := [],
    hartLoads := Vector.replicate 6 none, replies := [], mailbox := none, rowErrors := [], blobs := [],
    plintNow := 10000, trigNow := 2, qmapDue := none, keyDue := none, leadAt := (0, 0), hartMode := Vector.replicate 6 1,
    resv := Vector.replicate 6 none, attest := List.replicate 192 0, attestKeys := [], attestCert := [], recoveryBox := [], keyGen := 0,
    peerWaits := [] }

/-- The spec gives a hart's registers no reset values (log 101). -/
def Hart.reset : Hart := { pc := 0, x := Vector.replicate 32 0, f := Vector.replicate 32 0, csrs := [] }

/-- Every stack's capacity free, 38,146 units of 2 MiB (R12). -/
def State.reset : State :=
  { now := 0, us := 0, phase := 0, ctx := .reset, others := [], plan := [], heads := [], schedule := [], verdict := .none, free := 0,
    trapDue := none, roots := [],
    mem := .empty, remote := [], stamps := [], hintErrors := 0, cap := .empty, dcache := [], owners := [], l1 := [], tlb := [], pages := [],
    returns := [], worn := [],
    freePages := Vector.replicate 16 (38146 * 512), evictStacks := [],
    boundary := (0, 0), holds := [], lost := [], struck := [], wounds := [], walks := [], sent := [], quads := [], shLast := [],
    dies := Vector.replicate 6 .reset, tamb := .reset, groups := Vector.replicate 4 .reset, localRound := 0,
    hub := .reset, power := .reset, flash := .reset, pending := .reset, audits := [], nextAudit := 0, ended := [],
    harts := Vector.replicate 6 .reset }

end Sys2Proof.Machine
end

