-- ==== Sys2Proof/Machine/Ops.lean ====
section
/-! DEFINITION. The named operations over memory, registers, bobbins and streams; landing of writes (R73 to R76); address
translation (R156 to R162); trap entry (R240 to R242) and the return from one (R244); and `issue`, through which every
encoded instruction runs. -/

namespace Sys2Proof.Machine

abbrev Result := Host.Outcome State Fault Refusal

/-! ## Tables: association lists by number -/

def tabGet {α : Type} (k : Nat) : List (Nat × α) → Option α
  | [] => none
  | (j, x) :: t => if j = k then some x else tabGet k t

/-- Sets an entry, keeping the keys rising. -/
def tabSet {α : Type} (k : Nat) (x : α) : List (Nat × α) → List (Nat × α)
  | [] => [(k, x)]
  | (j, y) :: t => if k < j then (k, x) :: (j, y) :: t else if k = j then (k, x) :: t else (j, y) :: tabSet k x t

def tabDel {α : Type} (k : Nat) : List (Nat × α) → List (Nat × α)
  | [] => []
  | (j, y) :: t => if k = j then t else (j, y) :: tabDel k t

def vget {α : Type} {n : Nat} (v : Vector α n) (i : Nat) (d : α) : α := v[i]?.getD d
def vset {α : Type} {n : Nat} (v : Vector α n) (i : Nat) (x : α) : Vector α n := v.setIfInBounds i x

/-- Replaces the element at a place of a list, if there is one. -/
def listSet {α : Type} : List α → Nat → α → List α
  | [], _, _ => []
  | _ :: t, 0, x => x :: t
  | y :: t, n + 1, x => y :: listSet t n x

/-- Bits lo + n - 1 : lo of a 64-bit word as a number. -/
def bits64 (w : W64) (lo n : Nat) : Nat := w.toNat / 2 ^ lo % 2 ^ n

/-! ## Bytes -/

def Memory.get (m : Memory) (a : Nat) : Byte := (tabGet a m.cells).getD 0

/-- Writes one byte and keeps the canonical form: a zero byte is not listed (log 1). -/
def Memory.set (m : Memory) (a : Nat) (b : Byte) : Memory :=
  ⟨if b = 0 then tabDel a m.cells else tabSet a b m.cells⟩

def Memory.read (m : Memory) (a : Nat) : Nat → List Byte
  | 0 => []
  | n + 1 => m.get a :: m.read (a + 1) n

def Memory.write (m : Memory) (a : Nat) : List Byte → Memory
  | [] => m
  | b :: t => (m.set a b).write (a + 1) t

/-- The canonical form: addresses strictly rising and no entry zero. -/
def cellsWf : List Host.Cell → Bool
  | [] => true
  | [c] => c.2 != 0
  | c :: d :: t => c.2 != 0 && decide (c.1 < d.1) && cellsWf (d :: t)

def Memory.wf (m : Memory) : Bool := cellsWf m.cells

/-- Little-endian value of bytes (R102). -/
def leNat : List Byte → Nat
  | [] => 0
  | b :: t => b.toNat + 256 * leNat t

/-- The `n` low bytes of a number, least significant first. -/
def natBytes (v : Nat) : Nat → List Byte
  | 0 => []
  | n + 1 => BitVec.ofNat 8 v :: natBytes (v / 256) n

def Memory.load (m : Memory) (a n : Nat) : Nat := leNat (m.read a n)
def Memory.store (m : Memory) (a n v : Nat) : Memory := m.write a (natBytes v n)

/-! ## Lanes (R78) -/

def lane (v : VReg) (i : Nat) : W32 := BitVec.ofNat 32 (v.toNat / 2 ^ (32 * i))

/-- The number whose 32-bit digits, from digit `i` on, are `f i`, `f (i + 1)`, ...; `n` of them. -/
def packLanes (f : Nat → W32) (i : Nat) : Nat → Nat
  | 0 => 0
  | n + 1 => (f i).toNat + 2 ^ 32 * packLanes f (i + 1) n

def ofLanes (f : Nat → W32) : VReg := BitVec.ofNat 2048 (packLanes f 0 64)

/-- All ones in the lanes for which `p` holds. -/
def laneMask (p : Nat → Bool) : VReg := ofLanes (fun i => if p i then 0xFFFFFFFF else 0)

/-- A vector value from 64 bits (R81): lanes 0 and 1 hold it, every other lane is zero. -/
def ofW64 (v : W64) : VReg := BitVec.ofNat 2048 v.toNat

def toW64 (v : VReg) : W64 := BitVec.ofNat 64 v.toNat

def imageBytes (v : VReg) : List Byte := natBytes v.toNat 256
def ofImage (bs : List Byte) : VReg := BitVec.ofNat 2048 (leNat bs)

/-! ## Clusters and registers -/

/-- The number of a cluster in CAUSE.CLU and in the tables, A first. -/
def cnum : Cluster → Nat
  | .A => 0
  | .V => 1
  | .M => 2
  | .S => 3

def allClusters : List Cluster := [.A, .V, .M, .S]

def Clusters.get (k : Clusters) : Cluster → ClusterState
  | .A => k.a
  | .V => k.v
  | .M => k.m
  | .S => k.s

def Clusters.set (k : Clusters) (c : Cluster) (x : ClusterState) : Clusters :=
  match c with
  | .A => { k with a := x }
  | .V => { k with v := x }
  | .M => { k with m := x }
  | .S => { k with s := x }

def Clusters.map (k : Clusters) (f : Cluster → ClusterState → ClusterState) : Clusters :=
  ⟨f .A k.a, f .V k.v, f .M k.m, f .S k.s⟩

/-- The cluster that issues now. -/
def turn (s : State) : Cluster := s.plan.headD .A

def State.modCtx (s : State) (f : Ctx → Ctx) : State := { s with ctx := f s.ctx }

def Ctx.modCl (x : Ctx) (c : Cluster) (f : ClusterState → ClusterState) : Ctx :=
  { x with cl := x.cl.set c (f (x.cl.get c)) }

def State.modEng (s : State) (f : Engines → Engines) : State :=
  s.modCtx (fun x => { x with eng := f x.eng })

/-- The scratchpad size of a context (R142). -/
def Ctx.spSize (x : Ctx) : Nat := if x.cap48 then 0x80000 else 0x40000

/-- A scalar register (R79); a0 reads as zero. -/
def Regs.gpr (r : Regs) (c : Cluster) (n : Nat) : W64 :=
  match c with
  | .A => if n = 0 then 0 else vget r.a n 0
  | .M => vget r.m n 0
  | .S => vget r.s n 0
  | .V => 0

/-- Writes a scalar register; a write to a0 is discarded (R75). -/
def Regs.setGpr (r : Regs) (c : Cluster) (n : Nat) (v : W64) : Regs :=
  match c with
  | .A => if n = 0 then r else { r with a := vset r.a n v }
  | .M => { r with m := vset r.m n v }
  | .S => { r with s := vset r.s n v }
  | .V => r

/-- The value of a scalar register in the issue cycle. -/
def rd (s : State) (c : Cluster) (r : BitVec 5) : W64 := s.ctx.regs.gpr c r.toNat

/-- The value that GETSR's and SETSR's register field names (R81, R87): in V, lanes 0 and 1 of a v or o register. -/
def rd6 (s : State) (c : Cluster) (r : BitVec 6) : W64 :=
  match c with
  | .V => if r.toNat < 48 then toW64 (vget s.ctx.regs.v r.toNat 0) else toW64 (vget s.ctx.regs.o (r.toNat - 48) 0)
  | _ => s.ctx.regs.gpr c r.toNat

/-- The fixed constants k0 to k55 (Table 4.11). -/
def constants : List W32 :=
  [0x00000000, 0x3F800000, 0x40000000, 0x40400000, 0x40800000, 0x3F000000, 0x3E800000, 0xBF800000,
   0x41000000, 0x41200000, 0x3DCCCCCD, 0x3EAAAAAB, 0x3FB8AA3B, 0x3F317218, 0x40490FDB, 0x3FB504F3,
   0x3F3504F3, 0x7F800000, 0xFF800000, 0x7FC00000, 0x7F7FFFFF, 0x00800000, 0x34000000, 0x43800000,
   0x43E00000, 0x47600000, 0x40C00000, 0x477FE000] ++
  [0x47C35000, 0x358637BD, 0x3FC00000, 0xBF000000, 0x00000001, 0x00000002, 0x00000003, 0x00000004,
   0x00000007, 0x00000008, 0x00000010, 0x0000001F, 0x00000020, 0x00000040, 0x000000FF, 0x0000FFFF,
   0xFFFFFFFF, 0x80000000, 0x7FFFFFFF, 0x007FFFFF, 0x55555555, 0x33333333, 0x0F0F0F0F, 0x01010101,
   0x0000011D, 0x3C003C00, 0x3F803F80, 0x0000003F]

/-- A constant of the second source (R84): k56 to k63 are the context's own. -/
def constant (r : Regs) (k : Nat) : W32 := if k < 56 then constants.getD k 0 else vget r.k (k - 56) 0

/-! ## Bobbins (R66 to R72) -/

def Bobbin.slots (b : Bobbin) : Nat := b.depth.toNat + 1
def Bobbin.slotBytes (b : Bobbin) : Nat := if b.sz then 256 else 8
def Bobbin.lo (b : Bobbin) : Nat := b.base.toNat * 8
def Bobbin.hi (b : Bobbin) : Nat := b.lo + b.slots * b.slotBytes

/-- The first byte of a slot in bobbin memory; slot numbers wrap (R68). -/
def Bobbin.addr (b : Bobbin) (slot : Nat) : Nat := b.lo + slot % b.slots * b.slotBytes

def Ctx.bobbin (x : Ctx) (n : Nat) : Bobbin := vget x.bob n .reset

def Ctx.slotValue (x : Ctx) (n slot : Nat) : VReg :=
  let b := x.bobbin n
  ofImage (x.bmem.read (b.addr slot) b.slotBytes)

/-- Bytes enter bobbin memory; a word written whole has check bits again (R272). -/
def Ctx.bobWrite (x : Ctx) (a : Nat) (bs : List Byte) : Ctx :=
  { x with bmem := x.bmem.write a bs,
           bmBad := x.bmBad.filter (fun w => decide (4 * w < a) || decide (a + bs.length < 4 * w + 4)) }

def Ctx.setSlot (x : Ctx) (n slot : Nat) (v : VReg) : Ctx :=
  let b := x.bobbin n
  x.bobWrite (b.addr slot) (natBytes v.toNat b.slotBytes)

/-- Whether an uncorrectable error withholds bytes of a slot. -/
def Ctx.slotLost (x : Ctx) (n slot : Nat) : Bool :=
  let b := x.bobbin n
  x.bmBad.any (fun w => decide (b.addr slot < 4 * w + 4) && decide (4 * w < b.addr slot + b.slotBytes))

/-- Advances TAKE (R69). -/
def Ctx.takeSlots (x : Ctx) (n k : Nat) : Ctx :=
  let b := x.bobbin n
  { x with bob := vset x.bob n { b with take := (b.take + k) % b.slots, count := b.count - k } }

/-- Advances FILL (R69). -/
def Ctx.giveSlots (x : Ctx) (n k : Nat) : Ctx :=
  let b := x.bobbin n
  { x with bob := vset x.bob n { b with fill := (b.fill + k) % b.slots, count := b.count + k } }

/-- Writes the next slot of a bobbin that its producer fills by itself, and advances FILL (R70). -/
def Ctx.fillNext (x : Ctx) (n : Nat) (v : VReg) : Ctx := (x.setSlot n (x.bobbin n).fill v).giveSlots n 1

/-- Writes reserved slots in reservation order while their data is there (R322). -/
def Ctx.pump (x : Ctx) (n : Nat) : List Reservation → Ctx
  | [] => { x with bob := vset x.bob n { x.bobbin n with resv := [] } }
  | r :: t =>
    match r.data with
    | none => { x with bob := vset x.bob n { x.bobbin n with resv := r :: t } }
    | some v => (x.fillNext n v).pump n t

/-- The data of a reserved read arrives (R322). -/
def Ctx.arrive (x : Ctx) (n id : Nat) (v : VReg) : Ctx :=
  x.pump n ((x.bobbin n).resv.map (fun r => if r.id = id then { r with data := some v } else r))

/-- Reserves one slot of a PROD-4 bobbin; its number is the bobbin's `nextId` (R322). -/
def Ctx.reserve (x : Ctx) (n : Nat) : Ctx :=
  let b := x.bobbin n
  { x with bob := vset x.bob n { b with resv := b.resv ++ [⟨b.nextId, none⟩], nextId := b.nextId + 1 } }

/-- Whether a further slot can be reserved (R322). -/
def Bobbin.room (b : Bobbin) : Bool := b.count + b.resv.length < b.slots

/-- The register image of a bobbin (Table 3.2). -/
def Bobbin.image (b : Bobbin) : W64 :=
  BitVec.ofNat 64 (b.base.toNat + b.depth.toNat * 2 ^ 13 + b.sz.toNat * 2 ^ 21 + b.prod.toNat * 2 ^ 22 +
    b.cons.toNat * 2 ^ 26 + b.en.toNat * 2 ^ 28 + b.take * 2 ^ 32 + b.fill * 2 ^ 40 + b.count * 2 ^ 48)

/-- A bobbin as a write of BCFGn leaves it: empty (R67). -/
def Bobbin.configure (b : Bobbin) (v : W64) : Bobbin :=
  { en := v.getLsbD 28, cons := BitVec.ofNat 2 (bits64 v 26 2), prod := BitVec.ofNat 4 (bits64 v 22 4), sz := v.getLsbD 21,
    depth := BitVec.ofNat 8 (bits64 v 13 8), base := BitVec.ofNat 13 (bits64 v 0 13), count := 0, fill := 0, take := 0,
    resv := [], nextId := b.nextId }

/-! ## Special registers (Table 4.2) -/

def Clusters.activeBits (k : Clusters) : Nat :=
  k.a.active.toNat + 2 * k.v.active.toNat + 4 * k.m.active.toNat + 8 * k.s.active.toNat

/-- STAT (Table 4.3). -/
def Ctx.stat (x : Ctx) : W64 :=
  BitVec.ofNat 64 (x.sr.handler.toNat + 2 * x.sr.dbgt.toNat + 4 * x.cap48.toNat + 256 * x.cl.activeBits)

/-- CIR (Table 4.7). -/
def SRegs.cir (r : SRegs) : W64 := BitVec.ofNat 64 (r.cirAbort.toNat + r.cirCount.toNat * 2 ^ 16)

/-- The value of a special register, as cluster `c` reads it; none for an unlisted number. -/
def Ctx.sreg (x : Ctx) (c : Cluster) (num : Nat) : Option W64 :=
  match num with
  | 0x00 => some x.stat
  | 0x01 => some x.sr.cause
  | 0x02 => some (x.cl.get c).epc
  | 0x03 => some (x.cl.get c).estat
  | 0x04 => some x.sr.tval
  | 0x05 => some x.sr.ecmd
  | 0x06 => some x.sr.cir
  | 0x07 => some x.sr.taskid
  | 0x08 => some x.sr.gangsize
  | 0x09 => some x.sr.deleg
  | 0x0A => some x.sr.hentry
  | 0x0B => some (x.sr.lfsr.setWidth 64)
  | 0x10 => some ((vget x.regs.n 0 0).setWidth 64)
  | 0x11 => some ((vget x.regs.n 1 0).setWidth 64)
  | 0x12 => some ((vget x.regs.n 2 0).setWidth 64)
  | 0x13 => some ((vget x.regs.n 3 0).setWidth 64)
  | 0x14 => some (x.sr.vsp.setWidth 64)
  | 0x15 => some (x.sr.vslim.setWidth 64)
  | 0x16 => some (x.sr.vlen.setWidth 64)
  | 0x17 => some (x.sr.fcsr.setWidth 64)
  | 0x18 => some (BitVec.ofNat 64 x.eng.formats.length)
  | _ => if 0x20 ≤ num ∧ num < 0x30 then some (x.bobbin (num - 0x20)).image else none

/-- Table 4.2: whether cluster `c` may name the number at all. -/
def sregAllowed (c : Cluster) (write : Bool) (num : Nat) : Bool :=
  if 0x10 ≤ num ∧ num < 0x14 then !write || c == .A
  else if 0x14 ≤ num ∧ num < 0x18 then c == .V
  else if num = 0x18 then c == .M
  else num < 0x0C || (0x20 ≤ num && num < 0x30)

/-- R240: scratchpad stores in flight hold no pending bit any more when DBGT is cleared (R144). -/
def Write.noPending (w : Write) : Write :=
  match w.eff with
  | .spStore a bs _ => { w with eff := .spStore a bs false }
  | _ => w

/-- The write of a special register when it takes effect (Table 20.2). -/
def Ctx.setSreg (x : Ctx) (c : Cluster) (num : Nat) (v : W64) : Ctx :=
  match num with
  | 0x00 =>
    { x with sr := { x.sr with dbgt := v.getLsbD 1 },
             flight := if v.getLsbD 1 then x.flight else x.flight.map Write.noPending }
  | 0x01 => { x with sr := { x.sr with cause := v &&& 0xFF } }
  | 0x02 => x.modCl c (fun k => { k with epc := v })
  | 0x03 => x.modCl c (fun k => { k with estat := v })
  | 0x04 => { x with sr := { x.sr with tval := v } }
  | 0x05 => { x with sr := { x.sr with ecmd := v } }
  | 0x06 => { x with sr := { x.sr with cirAbort := v.getLsbD 0, cirCount := BitVec.ofNat 16 (bits64 v 16 16) } }
  | 0x0B => { x with sr := { x.sr with lfsr := if v.setWidth 32 = (0 : W32) then 1 else v.setWidth 32 } }
  | 0x10 => { x with regs := { x.regs with n := vset x.regs.n 0 (v.setWidth 32) } }
  | 0x11 => { x with regs := { x.regs with n := vset x.regs.n 1 (v.setWidth 32) } }
  | 0x12 => { x with regs := { x.regs with n := vset x.regs.n 2 (v.setWidth 32) } }
  | 0x13 => { x with regs := { x.regs with n := vset x.regs.n 3 (v.setWidth 32) } }
  | 0x14 => { x with sr := { x.sr with vsp := v.setWidth 20 } }
  | 0x15 => { x with sr := { x.sr with vslim := v.setWidth 20 } }
  | 0x16 => { x with sr := { x.sr with vlen := v.setWidth 7 } }
  | 0x17 =>
    let f : BitVec 10 := if bits64 v 0 3 < 5 then v.setWidth 10 else (v.setWidth 10 &&& 0x3F8) ||| (x.sr.fcsr &&& 7)
    { x with sr := { x.sr with fcsr := f } }
  | _ =>
    if 0x20 ≤ num ∧ num < 0x30 then
      { x with bob := vset x.bob (num - 0x20) ((x.bobbin (num - 0x20)).configure v) }
    else x

/-- The context consumes an abort (R251); in the cycle of a CHKERR it counts after the clear of that CHKERR. -/
def Ctx.consumeAbort (x : Ctx) : Ctx :=
  match x.flight.find? (fun w => w.eff == .cirClear) with
  | some w => { x with flight := x.flight ++ [⟨w.lands, .abort⟩] }
  | none =>
    { x with sr := { x.sr with cirAbort := true,
                               cirCount := if x.sr.cirCount = 0xFFFF then 0xFFFF else x.sr.cirCount + 1 },
             audit := { x.audit with aborted := true } }

/-! ## Landing (R73 to R76) -/

def merge (mask new old : VReg) : VReg := (old &&& ~~~mask) ||| (new &&& mask)

/-- A vector result enters the last-result registers (R76). -/
def Regs.pushLast (r : Regs) (v : VReg) : Regs :=
  { r with l := #v[v, vget r.l 0 0, vget r.l 1 0, vget r.l 2 0] }

/-- A vector result lands: the unmasked bits keep their values, and the whole destination enters the last results. -/
def Ctx.landVector (x : Ctx) (d : VDest) (mask v : VReg) : Ctx :=
  match d with
  | .v n =>
    let new := merge mask v (vget x.regs.v n 0)
    { x with regs := ({ x.regs with v := vset x.regs.v n new }).pushLast new }
  | .o n =>
    let new := merge mask v (vget x.regs.o n 0)
    { x with regs := ({ x.regs with o := vset x.regs.o n new }).pushLast new }
  | .slot addr size =>
    let new := merge mask v (ofImage (x.bmem.read addr size))
    { x.bobWrite addr (natBytes new.toNat size) with regs := x.regs.pushLast new }

/-- R48: a task all of whose clusters have halted starts retiring. -/
def Ctx.retireIfDone (x : Ctx) : Ctx :=
  if x.cl.activeBits = 0 ∧ !x.sr.handler then { x with life := .retiring } else x

/-- Bytes land in the scratchpad; a word written whole has check bits again (R272). -/
def Ctx.spWrite (x : Ctx) (a : Nat) (bs : List Byte) : Ctx :=
  { x with sp := x.sp.write a bs,
           spBad := x.spBad.filter (fun w => decide (4 * w < a) || decide (a + bs.length < 4 * w + 4)) }

/-- Whether an uncorrectable error withholds a byte of a range. -/
def Ctx.spLost (x : Ctx) (a n : Nat) : Bool := x.spBad.any (fun w => decide (a < 4 * w + 4) && decide (4 * w < a + n))

/-- The bytes of a scratchpad range; all ones when an error withholds them (R251). -/
def Ctx.spRead (x : Ctx) (a n : Nat) : List Byte :=
  if x.spLost a n then List.replicate n 0xFF else x.sp.read a n

def Ctx.spLoad (x : Ctx) (a n : Nat) : Nat := leNat (x.spRead a n)

/-- One effect lands. -/
def Ctx.land (x : Ctx) (e : Effect) : Ctx :=
  match e with
  | .scalar c r v => { x with regs := x.regs.setGpr c r v }
  | .vector d mask v => x.landVector d mask v
  | .pred p v => { x with regs := { x.regs with p := vset x.regs.p p v } }
  | .spStore a bs _ => x.spWrite a bs
  | .deliver b id v => x.arrive b id v
  | .sreg c num v => x.setSreg c num.toNat v
  | .fcsrOr f => { x with sr := { x.sr with fcsr := x.sr.fcsr ||| f } }
  | .flag f v => { x with flags := vset x.flags f v }
  | .flagTake f => { x with flags := vset x.flags f false }
  | .flagGrant f => { x with flags := vset x.flags f true }
  | .lfsrStep v => { x with sr := { x.sr with lfsr := v } }
  | .take b n => x.takeSlots b n
  | .give b n => x.giveSlots b n
  | .vsp v => { x with sr := { x.sr with vsp := v } }
  | .vlen v => { x with sr := { x.sr with vlen := v } }
  | .deactivate c => (x.modCl c (fun k => { k with active := false, taskActive := false, blocks := [], floor := 0 })).retireIfDone
  | .cirClear => { x with sr := { x.sr with cirAbort := false, cirCount := 0 } }
  | .abort => x.consumeAbort

/-- The order of effects that land in one cycle (R56, R109, R116, R341): LFSR steps, bobbin pointers, special registers,
results, lease grants. -/
def Effect.rank : Effect → Nat
  | .lfsrStep _ => 0
  | .take _ _ => 1
  | .give _ _ => 1
  | .cirClear => 1
  | .sreg _ _ _ => 2
  | .vsp _ => 2
  | .vlen _ => 2
  | .flagGrant _ => 4
  | _ => 3

/-- Whether `a` lands before `b`: by cycle, then by rank; issue order decides the rest (R75). -/
def Write.before (a b : Write) : Bool :=
  a.lands < b.lands || (a.lands == b.lands && a.eff.rank < b.eff.rank)

/-- Puts a write into a landing order, behind those that do not come after it. -/
def insertWrite (w : Write) : List Write → List Write
  | [] => [w]
  | y :: t => if w.before y then w :: y :: t else y :: insertWrite w t

/-- The writes in landing order; equal ones stay in issue order. -/
def landingOrder : List Write → List Write
  | [] => []
  | w :: t => (landingOrder t).foldl (fun acc y => insertWrite y acc) [w]

/-- R240 step 2: every write in flight lands now. -/
def Ctx.landAll (x : Ctx) : Ctx :=
  (landingOrder x.flight).foldl (fun y w => y.land w.eff) { x with flight := [] }

/-- The first write due at cycle `now`, and the others in issue order. -/
def pickDue (now : Nat) (flight : List Write) : Option (Write × List Write) :=
  match landingOrder (flight.filter (fun w => w.lands ≤ now)) with
  | [] => none
  | w :: _ => some (w, flight.erase w)

/-- Schedules an effect to land `cycles` after the present cycle (`WriteAt`, R99). -/
def State.writeAt (s : State) (cycles : Nat) (e : Effect) : State :=
  s.modCtx (fun x => { x with flight := x.flight ++ [⟨s.now + cycles, e⟩] })

/-! ## Sync flags and the LFSR within one cycle -/

/-- Whether an earlier cluster consumed the flag in this cycle (R56). -/
def flagTaken (s : State) (f : Nat) : Bool :=
  s.ctx.flight.any (fun w => w.lands == s.now + 1 && w.eff == .flagTake f)

/-- The LFSR after the steps already taken in this cycle (R109). -/
def curLfsr (s : State) : W32 :=
  s.ctx.flight.foldl (fun v w =>
    match w.eff with
    | .lfsrStep u => if w.lands = s.now + 1 then u else v
    | _ => v) s.ctx.sr.lfsr

/-- A bobbin as the SETSRs issued earlier in this cycle leave it (R67). -/
def bobbinAfter (s : State) (n : Nat) : Bobbin :=
  s.ctx.flight.foldl (fun b w =>
    match w.eff with
    | .sreg _ num v => if w.lands = s.now + 1 ∧ num.toNat = 0x20 + n then b.configure v else b
    | _ => b) (s.ctx.bobbin n)

/-! ## Time -/

/-- The units of time of a microsecond: a multiple of every count of cycles that the clock of R309 gives a microsecond. -/
def microsecondUnits : Nat := 2772000

def State.time (s : State) : Nat := s.us * microsecondUnits + s.phase

/-! ## The scratchpad (R142 to R144, R173, R174, R181) -/

/-- R174: bytes of a range that a shuttle channel has declared and not yet written. -/
def ShQueue.holds (q : ShQueue) (a n : Nat) : Bool := max a (max q.lo q.wm) < min (a + n) q.hi

def wmHolds (x : Ctx) (a n : Nat) : Bool := x.eng.sh0.holds a n || x.eng.sh1.holds a n

/-- R144: the pending bit of the word at `4 w`. -/
def pendingWord (x : Ctx) (w : Nat) : Bool :=
  x.flight.any (fun f =>
    match f.eff with
    | .spStore a bs true => a < 4 * w + 4 && 4 * w < a + bs.length
    | _ => false)

/-- R144: the address of the first pending word that a read of `n` bytes at `a` touches, with DBGT set. A store of the same cycle is
pending for the clusters that come after its own in cluster order (log 77: R74 does not say). -/
def earlyWord (x : Ctx) (a n : Nat) : Option Nat :=
  if x.sr.dbgt then
    ((List.range ((a + n + 3) / 4 - a / 4)).map (fun i => a / 4 + i)).find? (pendingWord x) |>.map (4 * ·)
  else none

/-! ## Physical memory (R12, R146, R147) -/

/-- The end of HBM (R12). -/
def stackBytes : Nat := 0x12A0400000
def hbmEnd : Nat := 16 * stackBytes
def stackOf (pa : Nat) : Nat := pa / stackBytes

/-- Table 1.2: the home die of a stack. -/
def homeDie (stack : Nat) : Nat :=
  if stack < 3 then 0 else if stack < 5 then 1 else if stack < 8 then 2
  else if stack < 11 then 3 else if stack < 13 then 4 else 5

def findLine (line : Nat) (ls : List DieLine) : Option DieLine := ls.find? (fun l => l.line == line)

def lineByte (l : DieLine) (a : Nat) : Byte := BitVec.ofNat 8 (l.data.toNat / 2 ^ (8 * (a % 64)))

/-- A byte as its home die cache gives it (R146). -/
def State.physByte (s : State) (a : Nat) : Byte :=
  match findLine (a / 64) s.dcache with
  | some l => lineByte l a
  | none => s.mem.get a

def State.physRead (s : State) (a : Nat) : Nat → List Byte
  | 0 => []
  | n + 1 => s.physByte a :: s.physRead (a + 1) n

def State.physLoad (s : State) (a n : Nat) : Nat := leNat (s.physRead a n)

/-! ## Page tables (R156 to R159) -/

def pteV (e : W64) : Bool := e.getLsbD 0
def pteR (e : W64) : Bool := e.getLsbD 2
def pteW (e : W64) : Bool := e.getLsbD 3
def pteX (e : W64) : Bool := e.getLsbD 4
def pteLF (e : W64) : Bool := e.getLsbD 6
def pteCTG (e : W64) : Bool := e.getLsbD 7
def pteCC (e : W64) : Bool := e.getLsbD 8
def pteCLR (e : W64) : Bool := e.getLsbD 9
def ptePROT (e : W64) : Bool := e.getLsbD 10
def ptePIN (e : W64) : Bool := e.getLsbD 11
def pteT (e : W64) : Bool := e.getLsbD 12
def pteRMT (e : W64) : Bool := e.getLsbD 13
def ptePFN (e : W64) : Nat := bits64 e 14 34
def pteKEY (e : W64) : Nat := bits64 e 48 8
def pteCHAIN (e : W64) : Byte := BitVec.ofNat 8 (bits64 e 56 8)
def ptePkg (e : W64) : Nat := bits64 e 48 10

/-! ## Memory under its keys (R208, R295) -/

/-- The serial number of the present key of a key id; an id that nothing has loaded since the slots were cleared has a key of
its own (log 27). -/
def keyOf (s : State) (id : Nat) : Nat := ((tabGet id s.hub.memKeys).map (·.serial)).getD (2 ^ 40 + 256 * s.hub.keyGen + id)

/-- The serial number of the key under which a leaf's page is read and written; 0 for a clear page. -/
def keySerial (s : State) (e : W64) : Nat := if pteCLR e then 0 else keyOf s (pteKEY e)

/-- A byte of a local frame as a reader under key number `key` sees it. A line written under another key reads as
unrelated bytes; a line that nothing has written since it was cleared carries no key (log 1). -/
def State.keyedByte (s : State) (key a : Nat) : Byte :=
  match tabGet (a / 64) s.stamps with
  | some k => if k = key then s.physByte a else Config.unrelated k key a
  | none => s.physByte a

def State.keyedRead (s : State) (key a : Nat) : Nat → List Byte
  | 0 => []
  | n + 1 => s.keyedByte key a :: s.keyedRead key (a + 1) n

/-- R272: whether an uncorrectable error struck a line that a range touches, in HBM or in a die cache. -/
def hitsLost (s : State) (pa n : Nat) : Bool :=
  let hit := fun (l : Nat) => decide (pa < 64 * l + 64) && decide (64 * l < pa + n)
  s.lost.any hit || s.struck.any hit

/-- Supervisor structures lie under key id 0 (R295): page tables, queue descriptors, context areas, group areas, the error ring. What an
error withholds reads as all ones (R251). -/
def State.supRead (s : State) (a n : Nat) : List Byte :=
  let bs := s.keyedRead (keyOf s 0) a n
  if hitsLost s a n then bs.zipIdx.map (fun p => if hitsLost s (a + p.2) 1 then 0xFF else p.1) else bs
def State.supLoad (s : State) (a n : Nat) : Nat := leNat (s.supRead a n)

/-! ## Walks (R156 to R159) -/

/-- The bits of a non-leaf entry that must be zero: every field but V and PFN (R157). -/
def nonLeafZero (e : W64) : Bool := e &&& 0xFFFF000000003FFE == 0

def badNonLeaf (e : W64) : Bool := !nonLeafZero e || decide (hbmEnd ≤ ptePFN e * 4096)

/-- The size of a page whose leaf stands at a level. -/
def levelSize (level : Nat) : Nat := 4096 * 512 ^ level

/-- R12: whether a frame does not lie whole on one stack. -/
def badFrame (base size : Nat) : Bool := decide (hbmEnd < base + size) || stackOf base != stackOf (base + size - 1)

/-- The malformed leaves of R157; `level` is the level of the entry, `pkg` the module's own package id. A frame that reaches past the end
of HBM or past its stack is malformed whole (log 74). -/
def badLeaf (pkg level : Nat) (e : W64) : Bool :=
  e.getLsbD 1 || e.getLsbD 5 || (pteW e && !pteR e) ||
  (level == 1 && ptePFN e % 2 ^ 9 != 0) || (level == 2 && ptePFN e % 2 ^ 18 != 0) ||
  (pteT e && (pteRMT e || pteCC e || ptePIN e)) ||
  (pteRMT e && (bits64 e 58 6 != 0 || ptePkg e == pkg)) ||
  (!pteRMT e && !pteT e && badFrame (ptePFN e * 4096) (levelSize level))

/-- R158: whether the group of sixteen entries around a level-0 leaf forms one 64 KiB page. -/
def contiguous (s : State) (table index : Nat) : Bool :=
  let first := s.supLoad (table + (index - index % 16) * 8) 8
  (List.range 16).all (fun i =>
    let e := BitVec.ofNat 64 (s.supLoad (table + (index - index % 16 + i) * 8) 8)
    pteCTG e && ptePFN e % 16 == i &&
      ((e ^^^ BitVec.ofNat 64 first) &&& 0xFFFFFFFFFFFC3FFF == 0))

/-- What a walk finds: a leaf with its address, base and size in the virtual space, or a failure. -/
structure Leaf where
  pte : W64
  pteAddr : Nat
  base : Nat
  size : Nat
  deriving DecidableEq, Repr

/-- The walk of R156 from a table at `level`; none when it ends at an invalid or malformed entry. Leaves with T set are
found too. -/
def walk (s : State) (va : Nat) : Nat → Nat → Option Leaf
  | level, table =>
    let index := va / 4096 / 512 ^ level % 512
    let at' := table + 8 * index
    let e := BitVec.ofNat 64 (s.supLoad at' 8)
    if !pteV e then none
    else
      match level with
      | 0 =>
        if badLeaf s.hub.pkg 0 e then none
        else if pteCTG e && contiguous s table index then
          some ⟨e - BitVec.ofNat 64 (index % 16 * 2 ^ 14), at', va - va % 65536, 65536⟩
        else some ⟨e, at', va - va % 4096, 4096⟩
      | l + 1 =>
        if pteLF e then
          if l + 1 < 3 then
            if badLeaf s.hub.pkg (l + 1) e then none
            else some ⟨e, at', va - va % levelSize (l + 1), levelSize (l + 1)⟩
          else none
        else if badNonLeaf e then none
        else walk s va l (ptePFN e * 4096)

/-- R156: bits 63:57 of an address equal bit 56. -/
def canonical (va : W64) : Bool := bits64 va 57 7 == (if va.getLsbD 56 then 127 else 0)

/-- The 57-bit address that a walk uses. -/
def va57 (va : W64) : Nat := va.toNat % 2 ^ 57

/-- The leaf that the page tables hold for an address now; the root table is the address space's (log 6). -/
def pageOf (s : State) (asid : W16) (va : W64) : Option Leaf :=
  if canonical va then
    match tabGet asid.toNat s.roots with
    | some root => walk s (va57 va) 4 root
    | none => none
  else none

/-- R159: the translation caches that a requester looks through, from its first one on: core, quad, die; the hub die has one. -/
def cachePath (c : Nat) : List Nat := if c < 672 then [c, 672 + c / 4, 840 + c / 112] else [c]

/-- The first cache of the hub die's requesters. -/
def hubCache : Nat := 846

/-- A core's number in the package, which is also that of its micro-TLB. -/
def Ctx.coreId (x : Ctx) : Nat := x.die * 112 + x.quad * 4 + x.core

/-- The translation of an address in one cache (R159). -/
def tlbIn (s : State) (asid : W16) (va : W64) (cache : Nat) : Option TlbEntry :=
  s.tlb.find? (fun t => t.cache == cache && t.asid == asid && decide (t.base ≤ va57 va) && decide (va57 va < t.base + t.size))

/-- The cached translation of an address, as a requester finds it. -/
def tlbFind (s : State) (c : Nat) (asid : W16) (va : W64) : Option TlbEntry := (cachePath c).findSome? (tlbIn s asid va)

/-- The valid leaf that serves an access: a cached one, or the one that a walk finds. -/
def lookup (s : State) (c : Nat) (asid : W16) (va : W64) : Option TlbEntry :=
  if canonical va then
    match tlbFind s c asid va with
    | some t => some { t with cache := c }
    | none =>
      match pageOf s asid va with
      | some l => if pteT l.pte then none else some ⟨c, asid, l.base, l.size, l.pte⟩
      | none => none
  else none

/-- The entries of a translation cache (R159). -/
def cacheSize (c : Nat) : Nat := if c < 672 then 32 else if c < 840 then 512 else 16384

/-- A translation enters a cache; of a full one, some entry leaves. -/
def State.cacheEntry (s : State) (t : TlbEntry) : State :=
  if s.tlb.contains t then s
  else
    let mine := s.tlb.filter (fun u => u.cache == t.cache)
    if mine.length < cacheSize t.cache then { s with tlb := t :: s.tlb }
    else
      let out := mine.getD (Config.victim s.free % cacheSize t.cache) t
      { s with tlb := t :: s.tlb.erase out, free := s.free + 1 }

/-- The addresses of the entries that a walk from a table at `level` reads; around a leaf with CTG those of its group, by their first and
their ninth (R158). -/
def walkEntries (s : State) (va : Nat) : Nat → Nat → List Nat
  | level, table =>
    let index := va / 4096 / 512 ^ level % 512
    let a := table + 8 * index
    let e := BitVec.ofNat 64 (s.supLoad a 8)
    match level with
    | 0 => if pteV e && pteCTG e then [a, a - a % 128, a - a % 128 + 64] else [a]
    | l + 1 => if !pteV e || pteLF e || badNonLeaf e then [a] else a :: walkEntries s va l (ptePFN e * 4096)

/-- The entries that the walk of an address reads. -/
def walkOf (s : State) (asid : W16) (va : W64) : List Nat :=
  match tabGet asid.toNat s.roots with
  | some root => if canonical va then walkEntries s (va57 va) 4 root else []
  | none => []

/-- A walk reads its entries through their home die caches (R161). -/
def State.walked (s : State) (asid : W16) (va : W64) : State := { s with walks := s.walks ++ walkOf s asid va }

/-- A walk that finds a contiguity hint without its group counts a hint error, whatever else the entry says (R158). -/
def State.countHint (s : State) (e : W64) (size : Nat) : State :=
  if pteCTG e ∧ size = 4096 then { s with hintErrors := s.hintErrors + 1 } else s

/-- A translation that an access used enters the caches in which it was looked up; a walk that finds a contiguity hint without its group
counts a hint error (R158). -/
def State.remember (s : State) (t : TlbEntry) : State :=
  let path := cachePath t.cache
  let cached := path.any (fun c => s.tlb.contains { t with cache := c })
  let s1 := path.foldl (fun (u : State) c => u.cacheEntry { t with cache := c }) s
  if cached then s1 else (s1.walked t.asid (BitVec.ofNat 64 t.base)).countHint t.pte t.size

/-- The walk behind an access that then faults leaves its translation too, and its hint error, be its leaf one with T = 1 (R158, R159). -/
def State.noteWalk (s : State) (c : Nat) (asid : W16) (va : W64) : State :=
  match lookup s c asid va with
  | some t => s.remember t
  | none =>
    match pageOf s asid va with
    | some l => (s.walked asid va).countHint l.pte l.size
    | none => s.walked asid va

/-- What an access needs (R159). -/
inductive Need | read | write | exec
  deriving DecidableEq, Repr

def permits (e : W64) : Need → Bool
  | .read => pteR e
  | .write => pteW e
  | .exec => pteX e

/-- The physical address of a byte of a page; the package id stands in bits 55:46 (R156). -/
def physOf (s : State) (t : TlbEntry) (va : W64) : Nat :=
  (if pteRMT t.pte then ptePkg t.pte else s.hub.pkg) * 2 ^ 46 + ptePFN t.pte * 4096 + (va57 va - t.base)

/-- Whether a physical address is local, and its local part. -/
def localPart (pa : Nat) : Nat := pa % 2 ^ 46
def isLocal (s : State) (pa : Nat) : Bool := pa / 2 ^ 46 == s.hub.pkg

/-- R159: an access translates to a leaf, or gives the cause of its fault: 0x06 XLATE or 0x07 PERM. -/
def translate (s : State) (c : Nat) (asid : W16) (need : Need) (va : W64) : Except Nat TlbEntry :=
  match lookup s c asid va with
  | none => .error 0x06
  | some t => if permits t.pte need then .ok t else .error 0x07

/-! ## Code (R51, R52, R60, R352) -/

/-- Translates an instruction address: the physical address of its byte, or the cause of the fault. -/
def codeAddr (s : State) (va : W64) : Except Nat (Nat × TlbEntry) :=
  match translate s s.ctx.coreId s.ctx.asid .exec va with
  | .error e => .error e
  | .ok t => .ok (localPart (physOf s t va), t)

/-- One byte of code as it stood at placement (R52); of another package, what was stored there since reset, or as the gang finds it (R301). What an error withholds reads as all
ones (R272). -/
def codeByte (s : State) (va : W64) : Except Nat Byte :=
  match codeAddr s va with
  | .error e => .error e
  | .ok (pa, t) => .ok (if pteRMT t.pte then (tabGet (physOf s t va) s.ctx.codeRemote).getD (Config.remoteCode s.ctx.gang (physOf s t va))
      else if hitsLost s pa 1 then 0xFF else s.ctx.code.get pa)

/-- Whether an error withholds the byte at an address from the instruction path (R272). -/
def codeLost (s : State) (va : W64) : Bool :=
  match codeAddr s va with
  | .error _ => false
  | .ok (pa, t) => !pteRMT t.pte && hitsLost s pa 1

/-- Bytes through the instruction path; on a failure, its cause. -/
def codeRead (s : State) (va : W64) : Nat → Except Nat (List Byte)
  | 0 => .ok []
  | n + 1 =>
    match codeByte s va with
    | .error e => .error e
    | .ok b =>
      match codeRead s (va + 1) n with
      | .error e => .error e
      | .ok t => .ok (b :: t)

/-- The word at an address: whether it is long, and its value (R86). The second halfword is read only of a long word. -/
def codeWord (s : State) (va : W64) : Except Nat (Bool × Nat) :=
  match codeRead s va 2 with
  | .error e => .error e
  | .ok h =>
    if leNat h < 2 ^ 15 then .ok (false, leNat h)
    else
      match codeRead s (va + 2) 2 with
      | .error e => .error e
      | .ok l => .ok (true, leNat h * 2 ^ 16 + leNat l)

/-- Whether a word is a block header (Table 3.1), and whether that header is of a data block (R61). -/
def isHeader (long : Bool) (w : Nat) : Bool := long && num w 25 5 == 31
def isDataHeader (long : Bool) (w : Nat) : Bool := isHeader long w && num w 6 8 == 0 && !bitAt w 5

/-- R60: what a transfer of control to an address raises, if anything. -/
def targetFault (s : State) (va : W64) : Option (Nat × W64) :=
  match codeWord s va with
  | .error e => some (e, va)
  | .ok (long, w) => if isHeader long w && !isDataHeader long w then none else some (0x03, va)

/-- The word at an address for measuring a body; an unreadable word counts as a 16-bit word (log 7). -/
def wordOrZero (s : State) (va : W64) : Bool × Nat :=
  match codeWord s va with
  | .ok r => r
  | .error _ => (false, 0)

/-- The 32-bit words after a word that are no instructions (R57): those of a data block, or the stage-map words of a header (R63). -/
def rawWords (long : Bool) (w : Nat) : Nat :=
  if isDataHeader long w then num w 14 11 else if isHeader long w && num w 2 3 != 0 then (num w 14 11 + 9) / 10 else 0

/-- The addresses of `n` body words from `va` on, and the address after them (R57). `raw` counts the 32-bit words still to come that
are no instructions. -/
def bodyWords (s : State) : Nat → Nat → W64 → List W64 × W64
  | 0, _, va => ([], va)
  | n + 1, raw, va =>
    match raw with
    | d + 1 =>
      let r := bodyWords s n d (va + 4)
      (va :: r.1, r.2)
    | 0 =>
      let (long, w) := wordOrZero s va
      let r := bodyWords s n (rawWords long w) (va + if long then 4 else 2)
      (va :: r.1, r.2)

/-! ## Blocks (R57 to R65, R461) -/

/-- Whether a graceful stop is pending for the running task mode (R246). -/
def stopPending (x : Ctx) : Bool := x.preempt.isSome && !x.sr.handler

/-- The next pass of a staged block (R64): the entry as the pass leaves it, or none when the block ends; and whether the
cluster stops here (R65). -/
def nextPass (pending : Bool) (b : BlockEntry) : Option BlockEntry × Bool :=
  let full : BitVec 8 := BitVec.ofNat 8 (2 ^ b.nstages - 1)
  let mask := (b.mask <<< 1) &&& full
  let refill := decide (0 < b.left.toNat) && !(b.pre && pending)
  let mask' := if refill then mask ||| 1 else mask
  let left' := if refill then b.left - 1 else b.left
  let b' := { b with mask := mask', left := left' }
  if mask' = 0 then
    if left'.toNat = 0 then (none, b.pre && pending) else (some b', true)
  else (some b', false)

/-- The end of one pass of a block (R59, R64, R65). -/
def endPass (pending : Bool) (b : BlockEntry) : Option BlockEntry × Bool :=
  if b.staged then nextPass pending b
  else if 1 < b.left.toNat then (some { b with left := b.left - 1 }, b.pre && pending)
  else (none, b.pre && pending)

/-- Control reaches `next` by sequential flow: blocks above the call floor that end there reach their ends, innermost
first (R59, R461). Gives the block stack, the program counter and whether the cluster stops (R65). -/
def blockEnds (pending : Bool) (floor : Nat) (next : W64) : List BlockEntry → List BlockEntry × W64 × Bool
  | [] => ([], next, false)
  | b :: t =>
    if t.length < floor ∨ b.stop ≠ next then (b :: t, next, false)
    else
      match endPass pending b with
      | (some b', stop) => (b' :: t, b'.start, stop)
      | (none, stop) =>
        let r := blockEnds pending floor next t
        (r.1, r.2.1, stop || r.2.2)

/-- Sequential flow of a cluster to an address. -/
def ClusterState.flow (pending : Bool) (k : ClusterState) (next : W64) : ClusterState :=
  let r := blockEnds pending k.floor next k.blocks
  { k with blocks := r.1, pc := r.2.1, parked := k.parked || r.2.2 }

def State.flowTo (s : State) (c : Cluster) (next : W64) : State :=
  s.modCtx (fun x => x.modCl c (·.flow (stopPending x)  next))

/-- R60: the block stack after a taken branch, without the entries above the call floor whose body does not contain the
target. -/
def popTo (floor : Nat) (target : W64) : List BlockEntry → List BlockEntry
  | [] => []
  | b :: t =>
    if t.length < floor ∨ (b.start.toNat ≤ target.toNat ∧ target.toNat < b.stop.toNat) then b :: t
    else popTo floor target t

/-- A taken branch: the target header is processed in the next cycle (R327). -/
def State.branchTo (s : State) (c : Cluster) (target : W64) : State :=
  s.modCtx (fun x => x.modCl c (fun k => { k with blocks := popTo k.floor target k.blocks, pc := target }))

/-- The innermost entry above the call floor (R62, R461). -/
def ClusterState.enclosing (k : ClusterState) : Option BlockEntry :=
  match k.blocks with
  | b :: t => if t.length < k.floor then none else some b
  | [] => none

/-- R64: whether the word at the program counter lies in an invalid stage. -/
def ClusterState.invalidStage (k : ClusterState) : Bool :=
  match k.blocks with
  | b :: t =>
    if b.staged ∧ ¬ t.length < k.floor then
      match b.stages.find? (fun p => p.1 == k.pc) with
      | some (_, st) => !b.mask.getLsbD st
      | none => false
    else false
  | [] => false

/-- R241: whether an address lies in the body of a staged block of the stack. -/
def inStaged (va : W64) (bs : List BlockEntry) : Bool :=
  bs.any (fun b => b.staged && decide (b.start.toNat ≤ va.toNat) && decide (va.toNat < b.stop.toNat))

/-! ## Traps (R237 to R244) -/

/-- ESTAT of a cluster at a stop (R241). -/
def estatOf (x : Ctx) (stw forced : Bool) (k : ClusterState) : W64 :=
  if k.active then
    BitVec.ofNat 64 (x.sr.handler.toNat + 4 * stw.toNat + 8 * forced.toNat + 16 * (inStaged k.pc k.blocks).toNat +
      32 * k.blocks.length)
  else 0

/-- Whether the word at a cluster's program counter carries the stitch bit; an unreadable word carries none. -/
def stitchedAt (s : State) (k : ClusterState) : Bool :=
  match codeWord s (k.pc &&& ~~~(1 : W64)) with
  | .ok (long, w) => bitAt w (if long then 30 else 14)
  | .error _ => false

/-- STW of a cluster (R241). -/
def stwOf (s : State) (k : ClusterState) : Bool := k.active && !s.ctx.groupReady && stitchedAt s k

/-- What a stop records of every cluster: EPC, and ESTAT with FORCED as given for each. -/
def stopValues (s : State) (forced : ClusterState → Bool) : List W64 × List W64 :=
  let ks := allClusters.map s.ctx.cl.get
  (ks.map (fun k => if k.active then k.pc else 0), ks.map (fun k => estatOf s.ctx (stwOf s k) (forced k) k))

/-- The stop record of the context area (Table 12.5). -/
def stopRecord (s : State) (forced : ClusterState → Bool) (cause tval ecmd : W64) : StopRecord :=
  let v := stopValues s forced
  { cause := cause, tval := tval, ecmd := ecmd, epcs := v.1, estats := v.2, handler := s.ctx.sr.handler,
    hoopWait := false, unreadable := false, save := 0 }

/-- R240 step 3: EPC, ESTAT, CAUSE, TVAL and ECMD of a trap raised in task mode. One that is taken in the cycle in which the clusters would
resume records the EPCs and ESTATs just restored (R411). -/
def recordTrap (s : State) (cause tval ecmd : W64) : State :=
  let mk := fun (k : ClusterState) =>
    if s.ctx.entry = .returned then k
    else { k with epc := if k.active then k.pc else 0, estat := estatOf s.ctx (stwOf s k) true k }
  s.modCtx (fun x =>
    { x with cl := x.cl.map (fun _ k => mk k), sr := { x.sr with cause := cause, tval := tval, ecmd := ecmd } })

/-- The stream addresses of an entry record (Table 4.23), through the instruction path; its fifth value is the
constant-block address. -/
def entryRecord (s : State) (va : W64) : Except Nat (List W64) :=
  match codeRead s va 40 with
  | .error e => .error e
  | .ok bs => .ok ((List.range 5).map (fun i => BitVec.ofNat 64 (leNat ((bs.drop (8 * i)).take 8))))

/-- The translation of an instruction-path access enters the caches (R52, R159). -/
def State.fetched (s : State) (va : W64) : State := s.noteWalk s.ctx.coreId s.ctx.asid va

def knotPartner (c : Cluster) : Cluster := if c = .A then .S else .A

/-- Whether the n-th KNOT of a cluster still waits for its partner (R184): the partner cluster is active, be it only after the handler
returns (R196), and has not issued its n-th. One that has once paired with nothing stays so. -/
def knotOpen (x : Ctx) (c : Cluster) (n : Nat) : Bool :=
  let k := x.cl.get (knotPartner c)
  !x.single.contains (c, n) && (k.active || (x.sr.handler && k.taskActive)) && decide ((if c = .A then x.knotsS else x.knotsA) ≤ n)

/-- The queued KNOTs that pair with nothing (R184). -/
def Ctx.singles (x : Ctx) : List (Cluster × Nat) :=
  x.gq.filterMap (fun a =>
    match a.kind with
    | .knot n => if !knotOpen x a.issuer n ∧ (if a.issuer = .A then x.knotsS else x.knotsA) ≤ n then some (a.issuer, n) else none
    | _ => none)

/-- R240 step 4: handler mode, each cluster with a handler stream at that stream and eight cycles from now. -/
def enterHandler (s : State) (streams : List W64) : State :=
  s.modCtx (fun x =>
    { x with
      sr := { x.sr with handler := true }, single := x.singles, entry := .issued,
      cl := x.cl.map (fun c k =>
        let a := streams.getD (cnum c) 0
        { k with taskActive := k.active, active := a != 0, pc := a, savedBlocks := k.blocks, savedFloor := k.floor,
                 blocks := [], floor := 0, ready := s.now + 8, wait := .none, parked := false }) })

/-- A trap that is not delegated: the context stops for the supervisor (R245); the steps of Table 12.3 follow. One that is taken in the cycle in
which the clusters would resume records the EPCs and ESTATs just restored (R411). -/
def stopForSupervisor (s : State) (cause tval ecmd : W64) (unreadable : Bool) : State :=
  let r := { stopRecord s (fun _ => true) cause tval ecmd with unreadable := unreadable }
  let kept := fun (f : ClusterState → W64) (vs : List W64) => if s.ctx.entry = .returned then allClusters.map (fun c => f (s.ctx.cl.get c)) else vs
  let r := { r with epcs := kept (·.epc) r.epcs, estats := kept (·.estat) r.estats }
  s.modCtx (fun x => { x with life := .stopping, stop := some r })

/-- A trap is taken (R239, R240): CLU of the raising cluster, cause code, TVAL and ECMD. -/
def enterTrap (s : State) (clu : Cluster) (code : Nat) (tval ecmd : W64) : State :=
  let cause : W64 := BitVec.ofNat 64 (code + 64 * cnum clu)
  let s1 := { s.modCtx Ctx.landAll with plan := [], verdict := .trapped, trapDue := none }
  if s1.ctx.sr.handler then stopForSupervisor s1 cause tval ecmd false
  else
    let s2 := recordTrap s1 cause tval ecmd
    if s1.ctx.sr.deleg.getLsbD code ∧ code ≠ 0x0D then
      match entryRecord s1 s1.ctx.sr.hentry with
      | .ok streams => (enterHandler s2 streams).fetched s1.ctx.sr.hentry
      | .error _ => stopForSupervisor s2 cause tval ecmd true
    else stopForSupervisor s2 cause tval ecmd false

/-- The trap that is due is taken. -/
def TrapInfo.enter (t : TrapInfo) (s : State) : State := enterTrap s t.clu t.code t.tval t.ecmd

/-- A trap is raised (R240, R242): it is taken once the instructions that other clusters issue apart in this cycle have issued; of
several traps of a cycle, the first in cluster order is taken. The walk behind an XLATE or a PERM has left what it found (R158). -/
def takeTrap (s : State) (clu : Cluster) (code : Nat) (tval ecmd : W64) : State :=
  let s1 := if code = 0x06 ∨ code = 0x07 then s.fetched tval else s
  let t := s.trapDue.getD ⟨clu, code, tval, ecmd⟩
  if s.plan.tail = [] then t.enter s1 else { s1 with plan := s.plan.tail, verdict := .trapped, trapDue := some t }

/-- The clusters that will resume in task mode and whose ESTAT fails the checks of TRET (R244), as the bits of BADRET's
TVAL. -/
def badRet (x : Ctx) : Nat :=
  (allClusters.filter (fun c =>
    let k := x.cl.get c
    k.taskActive &&
      (bits64 k.estat 8 56 != 0 || k.estat.getLsbD 1 || decide (4 < bits64 k.estat 5 3) ||
        decide (k.savedBlocks.length < bits64 k.estat 5 3) || k.estat.getLsbD 0))).foldl
    (fun n c => n + 2 ^ cnum c) 0

/-- A queue whose fault has been delivered continues, but not while `more` of its faults are pending. -/
def QueueRun.resume (more : Bool) : QueueRun → QueueRun
  | .delivered => if more then .delivered else .run
  | q => q

/-- The MMA at place `p` binds the oldest word that no MMA has bound (R126): the word, and the queue with it marked. -/
def bindFormat (p : Nat) : List (W64 × Option Nat) → Option W64 × List (W64 × Option Nat)
  | [] => (none, [])
  | (w, none) :: t => (some w, (w, some p) :: t)
  | (w, some q) :: t =>
    let (r, t') := bindFormat p t
    (r, (w, some q) :: t')

/-- R139: the held MMA that the array runs again binds the oldest unbound word of this moment. -/
def Engines.rebind (e : Engines) : Engines :=
  match e.held with
  | [] => e
  | c :: t =>
    match c.op with
    | .mma a b z none =>
      if c.retry then
        let (w, fs) := bindFormat c.after e.formats
        { e with formats := fs, held := { c with op := .mma a b z w } :: t }
      else e
    | _ => e

/-- R243, R490: the queues all of whose faults have been delivered continue. -/
def Engines.resume (e : Engines) : Engines :=
  let go := fun (eng : Nat) (r : QueueRun) => r.resume (e.faults.any (fun f => f.eng == eng))
  let e1 := { e with
    sh0 := { e.sh0 with run := go 0 e.sh0.run }, sh1 := { e.sh1 with run := go 1 e.sh1.run },
    cut := { e.cut with run := go 2 e.cut.run }, couch := { e.couch with run := go 3 e.couch.run },
    qeng := { e.qeng with run := go 7 e.qeng.run }, darn := { e.darn with run := go 4 e.darn.run },
    foot := { e.foot with run := go 6 e.foot.run }, arrayRun := go 5 e.arrayRun }
  if e1.arrayRun = .run then e1.rebind else e1

/-- R244: the return to task mode; each cluster that resumes continues at EPC with bit 0 cleared (R411), with as many of
its outermost saved blocks as BDEPTH says. A cluster that had stopped with mask 0 (R65) runs one pass without a valid stage and then
stops again (log 77: R65 does not say). -/
def returnFromTrap (s : State) : State :=
  s.modCtx (fun x =>
    let y := { x with
      sr := { x.sr with handler := false }, entry := .returned,
      eng := x.eng.resume,
      cl := x.cl.map (fun _ k =>
        let depth := bits64 k.estat 5 3
        let bs := k.savedBlocks.drop (k.savedBlocks.length - depth)
        if k.taskActive then
          { k with active := true, pc := k.epc &&& ~~~(1 : W64), blocks := bs, floor := min k.savedFloor bs.length,
                   savedBlocks := [], savedFloor := 0, wait := .none, ready := s.now + 1, parked := false }
        else
          { k with active := false, blocks := [], floor := 0, savedBlocks := [], savedFloor := 0, wait := .none,
                   ready := s.now + 1, parked := false }) }
    y.retireIfDone)

/-! ## Issue (R54, R94, R95) -/

/-- What an instruction comes to in its cycle: it issues and control goes on at the next word; it issues and has set the
program counter itself; it waits before issue; or it raises a trap. -/
inductive Act
  | go (s : State)
  | jump (s : State)
  | wait (k : WaitKind)
  | trap (code : Nat) (tval : W64)
  deriving DecidableEq, Repr

/-- Whether a cluster waits in a way that keeps its context out of the ready set (R37): in a hoop wait. -/
def ClusterState.hoopWaits (k : ClusterState) : Bool := k.active && k.wait == .hoop

/-- R37 item 3, R204: a cluster that has stalled 64 cycles on a watermark, on a bobbin that an engine fills or on a full engine
queue. -/
def ClusterState.engineWaits (now : Nat) (k : ClusterState) : Bool :=
  k.active && (k.wait == .watermark || k.wait == .bobbinEngine || k.wait == .queueFull) && decide (k.waitFrom + 64 ≤ now)

/-- R37: a context out of the ready set stays out while a cluster still waits at a hoop or stalls on an engine. -/
def Ctx.settle (x : Ctx) (now : Nat) : Ctx :=
  let ks := allClusters.map x.cl.get
  if x.life = .hoopWait ∨ x.life = .engineWait then
    { x with life := if ks.any ClusterState.hoopWaits then .hoopWait else if ks.any (·.engineWaits now) then .engineWait else .ready }
  else x

/-- An instruction has issued: the cluster waits for nothing, and its turn in the cycle is over. -/
def finish (s : State) (c : Cluster) : State :=
  { s.modCtx (fun x => (x.modCl c (fun k => { k with wait := .none })).settle s.now) with
    plan := s.plan.tail, verdict := .issued }

/-- A cluster waits; a wait that lasts keeps its first cycle (R37). -/
def ClusterState.waitsFor (now : Nat) (w : WaitKind) (k : ClusterState) : ClusterState :=
  if k.wait = w then k else { k with wait := w, waitFrom := now }

/-- An instruction waits before issue (R54). A hoop wait takes the context out of the ready set (R37). -/
def hold (s : State) (c : Cluster) (stitched : Bool) (w : WaitKind) : State :=
  { s.modCtx (fun x =>
      { x.modCl c (·.waitsFor s.now w) with
        life := if w = .hoop ∧ x.life = .ready then .hoopWait else x.life, groupReady := x.groupReady && !stitched }) with
    plan := s.plan.tail, verdict := .waited }

/-- The stitch bit of an encoded instruction's word. -/
def stitchBit (i : Instr) : Bool := bitAt (encode i) (if wordBytes i = 4 then 30 else 14)

/-- One attempt to issue an instruction in the cluster whose turn it is: ILLEGAL when the word is no instruction of that
cluster (R94), else what its meaning says. -/
def issue (i : Instr) (act : State → Cluster → Act) (s : State) : Result :=
  let c := turn s
  match check c i with
  | some _ => .next (takeTrap s c 0x01 (BitVec.ofNat 64 (encode i)) 0)
  | none =>
    match act s c with
    | .go t => .next (finish (t.flowTo c ((s.ctx.cl.get c).pc + BitVec.ofNat 64 (wordBytes i))) c)
    | .jump t => .next (finish t c)
    | .wait k => .next (hold s c (stitchBit i) k)
    | .trap code tval => .next (takeTrap s c code tval 0)

/-- ILLEGAL with the word as TVAL. -/
def illegalWord (i : Instr) : Act := .trap 0x01 (BitVec.ofNat 64 (encode i))

/-- The first fault of a list of conditions, each with its cause and TVAL. -/
def firstFault : List (Bool × Nat × W64) → Option (Nat × W64)
  | [] => none
  | (bad, code, tval) :: t => if bad then some (code, tval) else firstFault t

/-- Raises the first fault that applies, or else acts. -/
def faultsThen (fs : List (Bool × Nat × W64)) (act : Act) : Act :=
  match firstFault fs with
  | some (code, tval) => .trap code tval
  | none => act

end Sys2Proof.Machine
end

