-- ==== Sys2Proof/Machine/Operands.lean ====
section
/-! DEFINITION. Every operand form: the V operand fields (R82, R83), the bobbin slots that operands name (R68), and the
addresses and access checks of memory instructions (R142, R159, R349 to R351). -/

namespace Sys2Proof.Machine

/-! ## V operands (Table 4.10) -/

/-- A source field below 0x40: v0 to v47, o0 to o7, l0 to l3, the lane index or zero. -/
def plainSource (r : Regs) (n : Nat) : VReg :=
  if n < 48 then vget r.v n 0
  else if n < 56 then vget r.o (n - 48) 0
  else if n < 60 then vget r.l (n - 56) 0
  else if n = 60 then ofLanes (fun i => BitVec.ofNat 32 i)
  else 0

/-- The bobbin and the slot offset of an operand value 0x40 to 0x7F. -/
def slotField (f : BitVec 7) : Nat × Nat := ((f.toNat - 64) / 4, f.toNat % 4)

def namesSlot (f : BitVec 7) : Bool := 64 ≤ f.toNat

/-- A first source (R82): a bobbin slot is TAKE + s. -/
def srcA (s : State) (f : BitVec 7) : VReg :=
  if namesSlot f then
    let (b, o) := slotField f
    s.ctx.slotValue b ((s.ctx.bobbin b).take + o)
  else plainSource s.ctx.regs f.toNat

/-- A second source (R82): values from 0x40 on are constants, in every lane. -/
def srcB (s : State) (f : BitVec 7) : VReg :=
  if namesSlot f then ofLanes (fun _ => constant s.ctx.regs (f.toNat - 64)) else plainSource s.ctx.regs f.toNat

/-- A third source of the V4 and VT formats: v0 to v15. -/
def srcC (s : State) (f : BitVec 4) : VReg := vget s.ctx.regs.v f.toNat 0

/-- A destination (R82): a bobbin slot is FILL + s, fixed at issue (R68). -/
def dstV (s : State) (f : BitVec 7) : VDest :=
  if namesSlot f then
    let (b, o) := slotField f
    .slot ((s.ctx.bobbin b).addr ((s.ctx.bobbin b).fill + o)) (s.ctx.bobbin b).slotBytes
  else if f.toNat < 48 then .v f.toNat else .o (f.toNat - 48)

/-- `Active(i)` (R83): below VLEN, and with M set, the lane's bit of p0. -/
def active (s : State) (m : Bool) (i : Nat) : Bool :=
  decide (i < s.ctx.sr.vlen.toNat) && (!m || (vget s.ctx.regs.p 0 0).getLsbD i)

def predicate (s : State) (f : BitVec 4) : W64 := vget s.ctx.regs.p f.toNat 0

/-- REGCAP of one operand value (R32, R82): v32 to v47 under cap 32. -/
def overCap (s : State) (n : Nat) : Bool := !s.ctx.cap48 && decide (32 ≤ n) && decide (n < 48)

/-- The cause and TVAL of the first operand at or above the cap, in the order of the format. -/
def capFault (s : State) (fs : List (BitVec 7)) : Option (Nat × W64) :=
  (fs.find? (fun f => overCap s f.toNat)).map (fun f => (0x0B, f.setWidth 64))

/-- What kind of wait a bobbin's producer makes (R37, R70). -/
def sourceWait (b : Bobbin) : WaitKind := if 5 ≤ b.prod.toNat then .bobbinEngine else .bobbinCluster b.prod.toNat

/-- R68: whether cluster `c` may read slot offset `o` as an operand of the given width. -/
def slotReadable (b : Bobbin) (c : Cluster) (o : Nat) (wide : Bool) : Bool :=
  b.en && b.cons.toNat == cnum c && decide (o < b.slots) && b.sz == wide

/-- R68: whether cluster `c` may write slot offset `o` as an operand. -/
def slotWritable (b : Bobbin) (c : Cluster) (o : Nat) : Bool :=
  b.en && b.prod.toNat == cnum c && decide (o < b.slots) && b.sz

/-- A read of a bobbin slot that an error withholds gives all ones, and consumes an abort (R251, R272). -/
def State.readsLost (s : State) (bad : Bool) : State := if bad then s.writeAt 1 .abort else s

def Act.readsLost (bad : Bool) : Act → Act
  | .go s => .go (s.readsLost bad)
  | a => a

/-- The slot that a bobbin's consumer takes next is read. -/
def State.readsNext (s : State) (b : Nat) : State := s.readsLost (s.ctx.slotLost b (s.ctx.bobbin b).take)

/-- R68, R95: the faults and then the waits of the bobbin slots that a V instruction names, in operand order. -/
def slotChecks (i : Instr) (s : State) (c : Cluster) (srcs dsts : List (BitVec 7)) (act : Act) : Act :=
  let ss := (srcs.filter namesSlot).map slotField
  let ds := (dsts.filter namesSlot).map slotField
  if ss.any (fun p => !slotReadable (s.ctx.bobbin p.1) c p.2 true) ||
      ds.any (fun p => !slotWritable (s.ctx.bobbin p.1) c p.2) then illegalWord i
  else
    match ss.find? (fun p => decide ((s.ctx.bobbin p.1).count < p.2 + 1)) with
    | some p => .wait (sourceWait (s.ctx.bobbin p.1))
    | none =>
      if ds.any (fun p => decide ((s.ctx.bobbin p.1).slots - (s.ctx.bobbin p.1).count < p.2 + 1)) then .wait .bobbinRoom
      else act.readsLost (ss.any (fun p => s.ctx.slotLost p.1 ((s.ctx.bobbin p.1).take + p.2)))

/-- The checks common to the V instructions (R82, R95): REGCAP of the named operands, then their bobbin slots. `fs` are the
operand fields in the order of the format. -/
def vectorChecks (i : Instr) (s : State) (c : Cluster) (fs srcs dsts : List (BitVec 7)) (act : Act) : Act :=
  match capFault s fs with
  | some (code, tval) => .trap code tval
  | none => slotChecks i s c srcs dsts act

/-- Writes a vector result in the active lanes, `lat` cycles from now (R78, R413). -/
def writeLanes (s : State) (lat : Nat) (d : BitVec 7) (m : Bool) (f : Nat → W32) : State :=
  s.writeAt lat (.vector (dstV s d) (laneMask (active s m)) (ofLanes f))

/-- Writes all of a vector destination. -/
def writeAll (s : State) (lat : Nat) (d : VDest) (v : VReg) : State :=
  s.writeAt lat (.vector d (BitVec.allOnes 2048) v)

/-! ## The registers that GETSR, CHKERR and BSTAT write (R81, R87) -/

/-- REGCAP of a 6-bit register field: in V, v32 to v47 under cap 32. -/
def capFault6 (s : State) (c : Cluster) (r : BitVec 6) : Option (Nat × W64) :=
  if c = .V ∧ overCap s r.toNat then some (0x0B, r.setWidth 64) else none

/-- Writes a 64-bit result to the register that a 6-bit field names. -/
def write6 (s : State) (c : Cluster) (lat : Nat) (r : BitVec 6) (v : W64) : State :=
  match c with
  | .V =>
    writeAll s lat (if r.toNat < 48 then .v r.toNat else .o (r.toNat - 48)) (ofW64 v)
  | _ => s.writeAt lat (.scalar c r.toNat v)

/-! ## Addresses -/

/-- A signed field scaled by a size, as an offset modulo 2^64 (R349). -/
def scaled {w : Nat} (off : BitVec w) (size : Nat) : W64 := BitVec.ofInt 64 (off.toInt * size)

/-- Access sizes of the memory format (R90): SZ 0 to 6. -/
def sizeOf (sz : BitVec 3) : Nat := 2 ^ (sz.toNat / 2)

/-- Extension of a loaded value to 64 bits (R349): SZ 1, 3 and 5 are signed. -/
def extend (sz : BitVec 3) (v : Nat) : W64 :=
  let n := sizeOf sz
  if sz.toNat % 2 = 1 then BitVec.ofInt 64 ((BitVec.ofNat (8 * n) v).toInt) else BitVec.ofNat 64 v

/-- R142: an access of `n` bytes that leaves the scratchpad. -/
def spOut (x : Ctx) (a n : Nat) : Bool := decide (x.spSize < a + n)

/-- EARLYREAD, as a condition with its cause and TVAL (R144). -/
def earlyFault (x : Ctx) (a n : Nat) : Bool × Nat × W64 :=
  match earlyWord x a n with
  | some w => (true, 0x0A, BitVec.ofNat 64 w)
  | none => (false, 0, 0)

/-- Whether an A, V or M read of the scratchpad waits for a watermark (R174), then its faults, then the read. -/
def spReadChecks (s : State) (a : W64) (n : Nat) (act : Act) : Act :=
  if wmHolds s.ctx a.toNat n then .wait .watermark
  else
    faultsThen
      [(a.toNat % n ≠ 0, 0x05, a), (spOut s.ctx a.toNat n, 0x08, a), earlyFault s.ctx a.toNat n] act

/-- A global access of the context (R159, R160): its translation, or the fault with the address as TVAL. -/
def globalAccess (s : State) (need : Need) (va : W64) : Except (Nat × W64) TlbEntry :=
  match translate s s.ctx.coreId s.ctx.asid need va with
  | .error c => .error (c, va)
  | .ok t => .ok t

/-- The translations of several addresses in order; the first fault. -/
def globalAccesses (s : State) (need : Need) : List W64 → Except (Nat × W64) (List TlbEntry)
  | [] => .ok []
  | va :: t =>
    match globalAccess s need va with
    | .error e => .error e
    | .ok x =>
      match globalAccesses s need t with
      | .error e => .error e
      | .ok xs => .ok (x :: xs)

/-- The translations that an access leaves in the translation caches. -/
def State.rememberAll (s : State) (ts : List TlbEntry) : State := ts.foldl State.remember s

/-- A gather or scatter address (R351): the base plus the signed index, shifted. -/
def elementAddr (base : W64) (index : VReg) (sh : BitVec 3) (i : Nat) : W64 :=
  base + BitVec.ofInt 64 ((lane index i).toInt * 2 ^ sh.toNat)

end Sys2Proof.Machine
end

