-- ==== Sys2Proof/Machine/Cache.lean ====
section
/-! DEFINITION. Contexts by id, the layout of the coding groups' areas (R254 to R256), the die caches with their write-back and their
victims (R146, R147, R260), and the writes of bytes at their home under their keys (R295). -/

namespace Sys2Proof.Machine

/-! ## Contexts by id -/

/-- Exchanges the focused context with one of the others. -/
def State.swapAt (s : State) (i : Nat) : State :=
  match s.others[i]? with
  | some x => { s with ctx := x, others := listSet s.others i s.ctx }
  | none => s

/-- Whether a slot or an area holds this context. -/
def Ctx.isId (x : Ctx) (cid : Nat) : Bool := x.life != .none && x.cid == cid

/-- The context with an id, wherever it is held. -/
def State.ctxOf (s : State) (cid : Nat) : Option Ctx :=
  if s.ctx.isId cid then some s.ctx else s.others.find? (·.isId cid)

/-- Acts with the context in focus, then gives the focus back. -/
def State.onCtx (s : State) (cid : Nat) (f : State → State) : State :=
  if s.ctx.isId cid then f s
  else
    match s.others.findIdx? (·.isId cid) with
    | some i => (f (s.swapAt i)).swapAt i
    | none => s

/-- Whether a context occupies a slot of a core. -/
def Ctx.resident (x : Ctx) : Bool := x.life != .none && x.life != .saved && x.life != .retired

/-- Every context, the focused one first. -/
def allCtxs (s : State) : List Ctx := s.ctx :: s.others

def State.mapCtxs (s : State) (f : Ctx → Ctx) : State := { s with ctx := f s.ctx, others := s.others.map f }

/-! ## Local physical words -/

/-- A supervisor structure in local memory. -/
def State.getLocal (s : State) (a n : Nat) : Nat := s.supLoad (localPart a) n

/-! ## The coding group's areas (R254 to R256) -/

def GroupSlot.n (g : GroupSlot) : Nat := g.k + g.m
def GroupSlot.base (g : GroupSlot) : Nat := bits64 g.area 21 35 * 2 ^ 21

def regionAddr (g : GroupSlot) (r : Nat) : Nat := g.base + 0x1000 + 16 * r
def bitmapAddr (g : GroupSlot) (line : Nat) : Nat := g.base + 0x2000 + line / 8
def logAddr (g : GroupSlot) (line : Nat) : Nat := g.base + 0x200000 + 64 * line

/-- R256: the number of blocks, ceil(RCNT x 32,768 / k). -/
def GroupSlot.blocks (g : GroupSlot) : Nat := (g.rcnt * 32768 + g.k - 1) / g.k
def parityBase (g : GroupSlot) : Nat := g.base + 0x200000 + g.rcnt * 2 ^ 21

/-- The size of the parity store, rounded up to 2 MiB. -/
def GroupSlot.storeSize (g : GroupSlot) : Nat := (g.m * g.blocks * 64 + 2 ^ 21 - 1) / 2 ^ 21 * 2 ^ 21
def stagingBase (g : GroupSlot) : Nat := parityBase g + g.storeSize

/-- Where a block's chunk of a parity row lies, and where its staged delta. -/
def parityAddr (g : GroupSlot) (q r : Nat) : Nat := parityBase g + (q * g.m + r) * 64
def stagingAddr (g : GroupSlot) (q r : Nat) : Nat := stagingBase g + (q * g.m + r) * 64

/-- R254: whether a member's slot of stripe `o` holds data; else its parity row. -/
def slotKind (g : GroupSlot) (member o : Nat) : Option Nat :=
  let p := (o % g.n + member) % g.n
  if p < g.k then none else some (p - g.k)

/-- R254: the holder of a parity row of a stripe. -/
def holderOf (g : GroupSlot) (o row : Nat) : Nat := (g.k + row + (g.n - o % g.n)) % g.n

/-- The data slots of a member in one block, in ascending t. -/
def dataSlots (g : GroupSlot) (member : Nat) : List Nat := (List.range g.n).filter (fun t => (slotKind g member t).isNone)

/-- R255: the stripe that holds a member's logical line. -/
def stripeOf (g : GroupSlot) (member line : Nat) : Nat :=
  line / g.k * g.n + (dataSlots g member).getD (line % g.k) 0

/-- R255: the logical line of a member's data slot of a stripe. -/
def lineOfStripe (g : GroupSlot) (member o : Nat) : Nat :=
  o / g.n * g.k + (dataSlots g member).findIdx (· == o % g.n)

def State.group (s : State) (i : Nat) : GroupSlot := vget s.groups i .reset
def State.setGroup (s : State) (i : Nat) (g : GroupSlot) : State := { s with groups := vset s.groups i g }

/-- A region-table entry's first word (R256). -/
def regionEntry (s : State) (g : GroupSlot) (r : Nat) : W64 := BitVec.ofNat 64 (s.getLocal (regionAddr g r) 8)

def regionFrame (e : W64) : Nat := bits64 e 21 35 * 2 ^ 21

/-- R255, R256: the group slot and the logical line of a protected physical line. -/
def protLine (s : State) (pa : Nat) : Option (Nat × Nat) :=
  (List.range 4).findSome? (fun i =>
    let g := s.group i
    if g.state = .idle then none
    else
      ((List.range g.rcnt).find? (fun r =>
        let e := regionEntry s g r
        e.getLsbD 0 && regionFrame e == localPart pa / 2 ^ 21 * 2 ^ 21)).map
        (fun r => (i, r * 32768 + localPart pa % 2 ^ 21 / 64)))

/-- R256: the round counter in a slot's header. -/
def headerRound (s : State) (g : GroupSlot) : W32 := BitVec.ofNat 32 (s.getLocal g.base 4)

def lineLogged (s : State) (g : GroupSlot) (line : Nat) : Bool :=
  (s.getLocal (bitmapAddr g line) 1) / 2 ^ (line % 8) % 2 == 1

/-- A group message of this member; it is numbered when it is sent. -/
def groupMsg (s : State) (i : Nat) : GroupMsg :=
  let g := s.group i
  { sender := g.self, gid := g.gid, round := headerRound s g, seq := 0, stripe := 0, row := 0, payload := 0,
    member := 0, held := false, join := none }

/-- The 128 bytes of a message (R265). What a LOSS names and what a QREPLY answers lie in the first payload byte (log 81). -/
def messageBits (type : Nat) (m : GroupMsg) : BitVec 1024 :=
  let ready := (m.join.map (·.ready)).getD false
  let payload := if type = 11 then m.member else if type = 13 then m.held.toNat else m.payload.toNat
  BitVec.ofNat 1024 (type + m.sender % 16 * 2 ^ 8 + ready.toNat * 2 ^ 16 + m.gid.toNat * 2 ^ 32 + m.round.toNat * 2 ^ 64 +
    m.seq.toNat * 2 ^ 96 + m.stripe.toNat * 2 ^ 128 + m.row % 256 * 2 ^ 160 + payload * 2 ^ 512)

/-- A port carries traffic: it is trained and its keys are established (R300). -/
def portOpen (s : State) (first n : Nat) : Bool :=
  s.power.links.any (fun p => decide (first ≤ p.1) && decide (p.1 < first + n) && p.2)

/-- R300: whether a UALink port carries traffic. -/
def linkUp (s : State) : Bool := portOpen s 0 18

/-- What a slot has to send leaves the module, once a port carries it (R300). -/
def State.flushGroup (s : State) (i : Nat) : State :=
  let g := s.group i
  if linkUp s then s.setGroup i { g with out := g.out ++ g.unsent, unsent := [] } else s

/-- Sends a message of a TYPE to a member: it leaves the module by the slot's list, under the next number of the stream to that member
(log 81); without a port that carries it, it waits (R300). -/
def State.send (s : State) (i dest type : Nat) (m : GroupMsg) : State :=
  let g := s.group i
  let n := vget g.seqOut dest 0
  (s.setGroup i { g with unsent := g.unsent ++ [(dest, messageBits type { m with seq := n }, m.join)], seqOut := vset g.seqOut dest (n + 1) }).flushGroup i

def liveMembers (g : GroupSlot) : List Nat := (List.range g.n).filter (fun j => vget g.live j false)

/-- The other live members of a group. -/
def otherLive (g : GroupSlot) : List Nat := (liveMembers g).filter (· != g.self)

def State.sendAll (s : State) (i type : Nat) (m : GroupMsg) (dests : List Nat) : State :=
  dests.foldl (fun t d => t.send i d type m) s

/-! ## Write-back of the die caches (R146, R260) -/

/-- R260: the Δ of a modified protected line leaves for each live holder of its stripe. -/
def State.sendDelta (s : State) (i line : Nat) (old new : BitVec 512) : State :=
  let g := s.group i
  let o := stripeOf g g.self line
  let dests := (List.range g.m).filter (fun r => vget g.live (holderOf g o r) false)
  let s1 := dests.foldl (fun t r =>
    t.send i (holderOf g o r) 3
      { groupMsg t i with stripe := BitVec.ofNat 32 o, row := r, payload := new ^^^ old }) s
  let g1 := s1.group i
  let sent := if g1.setInRound.contains (line / 32768) ∧ !g1.setSent.contains line then line :: g1.setSent
    else g1.setSent
  s1.setGroup i { g1 with acks := g1.acks ++ dests.map (holderOf g o), setSent := sent }

/-- R258, R260: the value that the last Δ of a line stands for. -/
def deltaBase (s : State) (g : GroupSlot) (line pa : Nat) : BitVec 512 :=
  if g.setInRound.contains (line / 32768) ∧ !g.setSent.contains line then 0
  else BitVec.ofNat 512 (s.mem.load (localPart pa / 64 * 64) 64)

/-- Whether writebacks of a stripe wait for a repair, of this member's or of another's line (R267). -/
def stripeLocked (g : GroupSlot) (line : Nat) : Bool :=
  let o := stripeOf g g.self line
  g.lockedStripe == some o || g.peerLocked.contains o

def State.putLine (s : State) (l : DieLine) : State :=
  { s with dcache := s.dcache.map (fun m => if m.line = l.line then l else m) }

/-- Whether the writeback of a line waits for the repair of its stripe (R267). -/
def lineWaits (s : State) (line : Nat) : Bool :=
  match protLine s (64 * line) with
  | none => false
  | some (i, ll) => stripeLocked (s.group i) ll

/-- A line leaves its die cache with the error that struck it: a modified value is lost (R272). -/
def State.dropStruck (s : State) (l : DieLine) : State :=
  { s with dcache := s.dcache.filter (fun m => m.line != l.line), struck := s.struck.filter (· != l.line),
           lost := if l.dirty ∧ !s.lost.contains l.line then l.line :: s.lost else s.lost }

/-- What a struck line leaves to be done: its report, if nobody has met it, and of a modified line the abort of its round. -/
def State.wound (s : State) (l : DieLine) (reported : Bool) : State :=
  if l.dirty ∨ !reported then { s with wounds := s.wounds ++ [(l.line, reported)] } else s

/-- Writes a dirty line back to HBM and cleans it (R146); a protected line modified in the round sends its Δ first. A writeback that finds an
error writes nothing (R272). -/
def State.writeBack (s : State) (line : Nat) : State :=
  match findLine line s.dcache with
  | none => s
  | some l =>
    if !l.dirty then s
    else if s.struck.contains line then (s.dropStruck l).wound l false
    else
      let put := fun (t : State) =>
        ({ t with mem := t.mem.write (64 * line) (natBytes l.data.toNat 64) }).putLine { l with dirty := false }
      match protLine s (64 * line) with
      | none => put s
      | some (i, ll) =>
        let g := s.group i
        if lineLogged s g ll || g.setInRound.contains (ll / 32768) then
          put (s.sendDelta i ll (deltaBase s g ll (64 * line)) l.data)
        else put s

/-- Writes a dirty line back, unless a repair of its stripe keeps it. -/
def State.cleanLine (s : State) (line : Nat) : State := if lineWaits s line then s else s.writeBack line

/-- A line without anything to write back leaves its die cache. -/
def State.dropClean (s : State) (line : Nat) : State :=
  { s with dcache := s.dcache.filter (fun l => l.line != line || l.dirty),
           struck := if s.dcache.any (fun l => l.line == line && l.dirty) then s.struck else s.struck.filter (· != line) }

/-- Writes a line back and invalidates it. -/
def State.evictLine (s : State) (line : Nat) : State := (s.cleanLine line).dropClean line

/-- A line leaves its set for a fill: it is written back and invalidated in any case (log 90). -/
def State.pushOut (s : State) (line : Nat) : State := (s.writeBack line).dropClean line

/-! ## Lines (R13, R146, R147) -/

/-- R13, R198: the pseudo-channel that serves a local address, numbered across the stacks. Within an ordinary page the 256-byte blocks
rotate; a 2 MiB page with CC = 1 lies in one. -/
def pageChannel (e : W64) (page pa : Nat) : Nat :=
  stackOf pa * 64 + (if pteCC e && page == 2 ^ 21 then Config.frameChannel (pa / 2 ^ 21)
    else Config.rotation (pa - pa % page) + pa % page / 256) % 64

/-- The sets of a die cache: 128 MiB of 64-byte lines in 16 ways. A line's set is its number modulo the sets (log 78). -/
def cacheSets : Nat := 131072

def sameSet (a b : Nat) : Bool := a % cacheSets == b % cacheSets && homeDie (stackOf (64 * a)) == homeDie (stackOf (64 * b))

/-- R147: the line of a full set that leaves it: the least recently used demoted line, or the least recently used one. The list holds the lines
most recent first. -/
def leastUsed (mine : List DieLine) : Option DieLine :=
  match mine.reverse.find? (·.demoted) with
  | some l => some l
  | none => mine.getLast?

/-- R147: the line that leaves the set of a line that is filled: none while a way is free. A modified line whose writeback waits for the repair of
its stripe is passed over while the set holds another (log 90: R147 and R267 do not say). -/
def victimOf (s : State) (line : Nat) : Option DieLine :=
  if s.dcache.length < 16 then none
  else
    let mine := s.dcache.filter (fun l => sameSet l.line line)
    if mine.length < 16 then none
    else
      match leastUsed (mine.filter (fun l => !(l.dirty && lineWaits s l.line))) with
      | some l => some l
      | none => leastUsed mine

/-- What a die-cache access brings with it (R147, R156): chain id, key id, pseudo-channel. -/
structure LineTag where
  chain : Byte
  key : Byte
  channel : Nat
  deriving DecidableEq, Repr

/-- What the leaf of a page brings; a clear page is under no key, as id 0 stands for here (R295). -/
def tagOf (e : W64) (page pa : Nat) : LineTag :=
  { chain := pteCHAIN e, key := if pteCLR e then 0 else BitVec.ofNat 8 (pteKEY e), channel := pageChannel e page (localPart pa) }

/-- The die-cache line of an address, filled from HBM if it is absent; it becomes the most recently used (R146, R147). An access
clears a demoted mark. -/
def State.touchLine (s : State) (line : Nat) (g : LineTag) : State × DieLine :=
  match findLine line s.dcache with
  | some l =>
    let l' := { l with demoted := false }
    ({ s with dcache := l' :: s.dcache.filter (fun m => m.line != line) }, l')
  | none =>
    let s1 := match victimOf s line with
      | some v => s.pushOut v.line
      | none => s
    let l : DieLine :=
      { line := line, data := BitVec.ofNat 512 (s1.mem.load (64 * line) 64), dirty := false, chain := g.chain,
        demoted := false, key := g.key, channel := g.channel }
    ({ s1 with dcache := l :: s1.dcache }, l)

def setLineByte (l : DieLine) (a : Nat) (b : Byte) : DieLine :=
  let sh := 8 * (a % 64)
  { l with dirty := true,
           data := (l.data &&& ~~~(BitVec.ofNat 512 (255 * 2 ^ sh))) ||| BitVec.ofNat 512 (b.toNat * 2 ^ sh) }

/-- A byte is performed at its home die cache. -/
def State.physSet (s : State) (g : LineTag) (a : Nat) (b : Byte) : State :=
  let (s1, l) := s.touchLine (a / 64) g
  s1.putLine { setLineByte l a b with key := g.key }

def State.physWrite (s : State) (g : LineTag) (a : Nat) : List Byte → State
  | [] => s
  | b :: t => (s.physSet g a b).physWrite g (a + 1) t

/-! ## Writes under keys (R295) -/

/-- Stores a byte of a page under its key: the line's other bytes are first read as the writer sees them, then the line carries the
writer's key. -/
def State.keyedSet (s : State) (e : W64) (page a : Nat) (b : Byte) : State :=
  let key := keySerial s e
  let g := tagOf e page a
  let fix := match tabGet (a / 64) s.stamps with
    | some k => k != key
    | none => false
  let s1 := if fix = true then s.physWrite g (64 * (a / 64)) (s.keyedRead key (64 * (a / 64)) 64) else s
  let s2 := if key = 0 then { s1 with stamps := tabDel (a / 64) s1.stamps }
    else { s1 with stamps := tabSet (a / 64) key s1.stamps }
  s2.physSet g a b

def State.keyedBytes (s : State) (e : W64) (page a : Nat) : List Byte → State
  | [] => s
  | b :: t => (s.keyedSet e page a b).keyedBytes e page (a + 1) t

/-- A write to bytes that a supervisor hart has reserved ends the reservation (R283). -/
def State.dropResv (s : State) (a n : Nat) : State :=
  { s with hub := { s.hub with resv := s.hub.resv.map (fun r => r.filter (fun p => !(decide (a < p.1 + p.2) && decide (p.1 < a + n)))) } }

def State.keyedWrite (s : State) (e : W64) (page a : Nat) (bs : List Byte) : State := (s.dropResv a bs.length).keyedBytes e page a bs

/-- The bytes of supervisor structures, in 4 KiB pages under key id 0. -/
def State.supWrite (s : State) (a : Nat) (bs : List Byte) : State := s.keyedWrite (0 : W64) 4096 a bs

/-- Writes a number into a supervisor structure. One that the supervisor has placed at or above 16 × B lies on no stack; it is read and written
there as backed memory is (log 91: the spec does not say). -/
def State.putLocal (s : State) (a n v : Nat) : State := s.supWrite (localPart a) (natBytes v n)

/-- R259: the first write of the round to a protected line copies its value into the log. A line of a region set in the
round is not logged (R258). -/
def State.logLine (s : State) (i line pa : Nat) : State :=
  let g := s.group i
  if g.setInRound.contains (line / 32768) || lineLogged s g line then s
  else
    let old := s.physRead (localPart pa / 64 * 64) 64
    let s1 := s.supWrite (logAddr g line) old
    s1.putLocal (bitmapAddr g line) 1 (s1.getLocal (bitmapAddr g line) 1 + 2 ^ (line % 8))

/-- The lines of the table entries that walks have read become the most recently used of their sets (R147, R161). -/
def State.touchWalked (s : State) : State :=
  s.walks.foldl (fun t a => (t.touchLine (a / 64) (tagOf 0 4096 a)).1) { s with walks := [] }

def linesIn (s : State) (a n : Nat) : List Nat :=
  (s.dcache.filter (fun l => decide (a < 64 * l.line + 64) && decide (64 * l.line < a + n))).map (·.line)

/-- Writes back the dirty lines of a range. -/
def State.cleanRange (s : State) (a n : Nat) : State := (linesIn s a n).foldl State.cleanLine s

/-- Writes back and invalidates the lines of a range. -/
def State.evictRange (s : State) (a n : Nat) : State := (linesIn s a n).foldl State.evictLine s

end Sys2Proof.Machine
end

