-- ==== Sys2Proof/Machine/Report.lean ====
section
/-! DEFINITION. What the device reports: interrupts to the harts, error records (R272, R273), and the abort of a read that meets a line
with an uncorrectable error. -/

namespace Sys2Proof.Machine

/-- The number under which the hub die is written (Table 14.1). -/
def hubDie : Nat := 6

/-- A supervisor hart is interrupted; the list holds the die and what the interrupt tells (R272, R285, log 19). -/
def State.irq (s : State) (die : Nat) (info : W64) : State := { s with hub := { s.hub with irqs := s.hub.irqs ++ [(die, info)] } }

/-- The leader hart is interrupted, if there is one. -/
def State.irqLeader (s : State) (info : W64) : State := if s.hub.holder < 6 then s.irq s.hub.holder info else s

/-- What an interrupt tells in this model (log 19). -/
def irqGroup : W64 := 1
def irqQueue : W64 := 2
def irqFault : W64 := 3
def irqWake : W64 := 4
def irqContext : W64 := 5
def irqLease : W64 := 6
def irqError : W64 := 7
def irqAudit : W64 := 8
def irqThermal : W64 := 9
def irqQuarantine : W64 := 10

/-! ## Error records (R272, R273) -/

/-- What an error record tells (Table 14.1). -/
structure ErrorInfo where
  cls : Nat
  die : Nat
  ctx : Nat
  asid : Nat
  key : Nat
  stack : Nat
  pa : Nat
  va : Nat
  deriving DecidableEq, Repr

/-- An event of a class that names no requester and no memory. -/
def plainError (cls die pa : Nat) : ErrorInfo :=
  { cls := cls, die := die, ctx := 0xFFFF, asid := 0xFFFF, key := 0xFF, stack := 0xFF, pa := pa, va := 0 }

def State.modLife (s : State) (f : Lifetime → Lifetime) : State :=
  { s with pending := { s.pending with life := f s.pending.life } }

/-- The die in whose ring an event is recorded: of the hub die, the leader's (log 23). -/
def ringDie (s : State) (die : Nat) : Nat := if die = hubDie then s.hub.holder else die

/-- ERROR_RECORD (R273): the record enters the ring of its die at the producer index of the ring's first 8 bytes, and a record
that overwrites the oldest is counted. -/
def State.recordError (s : State) (e : ErrorInfo) : State :=
  let s0 := s.modLife (fun l => { l with errors := vset l.errors e.cls (vget l.errors e.cls 0 + 1) })
  let r := ringDie s e.die
  let d := vget s.dies r .reset
  if 6 ≤ r ∨ d.errBase = 0 then s0
  else
    let base := d.errBase.toNat
    let n := 2 ^ (d.errSize + 7)
    let i := s0.getLocal base 8
    let head := e.cls * 2 ^ 56 + e.die * 2 ^ 48 + e.ctx * 2 ^ 32 + e.asid * 2 ^ 16 + e.key * 2 ^ 8 + e.stack
    let a := base + 32 + 32 * (i % n)
    let s1 := ((s0.putLocal a 8 head).putLocal (a + 8) 8 e.pa).putLocal (a + 16) 8 e.va
    let s2 := (s1.putLocal (a + 24) 8 s.us).putLocal base 8 (i + 1)
    if i < n then s2
    else s2.modLife (fun l => { l with overflows := vset l.overflows r (vget l.overflows r 0 + 1) })

/-- R272: the error interrupt of the detecting die, and the record. -/
def State.reportError (s : State) (e : ErrorInfo) : State :=
  let s1 := s.recordError e
  if e.die = hubDie then s1.irqLeader irqError else s1.irq e.die irqError

/-- Who reads: context, ASID and virtual address; all ones where the requester is no context (Table 14.1). -/
structure Requester where
  ctx : Nat
  asid : Nat
  deriving DecidableEq, Repr

def Requester.nobody : Requester := ⟨0xFFFF, 0xFFFF⟩
def Ctx.requester (x : Ctx) : Requester := ⟨x.cid, x.asid.toNat⟩

/-- The key id that a record names (Table 14.1). -/
def recordKey (e : W64) : Nat := if pteCLR e then 0xFF else pteKEY e

/-- The first line that a range touches and an error withholds. -/
def lostLine (s : State) (a n : Nat) : Nat :=
  (((List.range ((a + n + 63) / 64 - a / 64)).map (fun i => a / 64 + i)).find? (fun l => s.lost.contains l || s.struck.contains l)).getD (a / 64)

/-- R272, R273: a read of `n` bytes of an element at `pa` meets a line whose data an error withholds, in HBM or in its die cache: the die that
homes the line records the line for its requester and interrupts its hart. -/
def State.meetLost (s : State) (r : Requester) (e : Elem) (pa n : Nat) : State :=
  let line := lostLine s (localPart pa) n
  let info := fun (cls : Nat) => ({ cls := cls, die := homeDie (stackOf (64 * line)), ctx := r.ctx, asid := r.asid, key := recordKey e.pte,
                                    stack := stackOf (64 * line), pa := s.hub.pkg * 2 ^ 46 + 64 * line, va := e.va.toNat } : ErrorInfo)
  match findLine line s.dcache with
  | some l => if s.struck.contains line then ((s.dropStruck l).wound l true).reportError { info 2 with stack := 0xFF } else s.reportError (info 1)
  | none => s.reportError (info 1)

end Sys2Proof.Machine
end

