-- ==== Sys2Proof/Machine/Hoops.lean ====
section
/-! DEFINITION. Hoop instances and the tasks' records of them (R39 to R43, R347). -/

namespace Sys2Proof.Machine

def State.gangOf (s : State) (id : Nat) : Option Gang := s.tamb.gangs.find? (·.id == id)

def State.setGang (s : State) (g : Gang) : State :=
  { s with tamb := { s.tamb with gangs := s.tamb.gangs.map (fun h => if h.id = g.id then g else h) } }

/-- The instance of a hoop that a task's record names; none once the supervisor has taken a pod hoop's entry out, and HARRIVE and HWAIT then
raise ILLEGAL (log 79: R44 does not say). -/
def hoopOf (s : State) (gang h : Nat) (r : HoopRec) : Option HoopInst :=
  if r.scope = 4 then tabGet r.group s.hub.podHoops
  else (s.gangOf gang).bind (fun g => g.hoops.find? (fun i => i.hoop == h && i.group == r.group))

def State.putHoop (s : State) (gang h : Nat) (r : HoopRec) (i : HoopInst) : State :=
  if r.scope = 4 then { s with hub := { s.hub with podHoops := tabSet r.group i s.hub.podHoops } }
  else
    match s.gangOf gang with
    | some g => s.setGang { g with hoops := g.hoops.map (fun j => if j.hoop = h ∧ j.group = r.group then i else j) }
    | none => s

/-- R40: the present generation completes when every member still in the instance has arrived. -/
def HoopInst.settle (i : HoopInst) (now : Nat) : HoopInst :=
  if i.arrived = i.expect ∧ i.expect ≠ 0 then { i with gen := i.gen + 1, arrived := 0, doneAt := now } else i

/-- The notification delay of a scope (Table 18.1); a pod's is not bounded. -/
def hoopDelay (scope : Nat) : Nat := if scope = 1 then 4 else if scope = 2 then 16 else 48

/-- R42, R347: whether the completion of the recorded generation has reached the task. -/
def hoopReached (now : Nat) (r : HoopRec) (i : HoopInst) : Bool :=
  i.gen != r.gen && (if r.scope = 4 then r.notified else decide (i.doneAt + hoopDelay r.scope ≤ now))

def hoopRec (x : Ctx) (h : Nat) : HoopRec := vget x.hoops h .reset
def Ctx.setHoop (x : Ctx) (h : Nat) (r : HoopRec) : Ctx := { x with hoops := vset x.hoops h r }

/-- R43: the leave of a task whose record was `r` counts in the instance, in one step. -/
def countLeave (s : State) (h : Nat) (r : HoopRec) : State :=
  match hoopOf s s.ctx.gang h r with
  | some i =>
    let back := if r.armed ∧ i.gen = r.gen then 1 else 0
    s.putHoop s.ctx.gang h r (({ i with expect := i.expect - 1, arrived := i.arrived - back } : HoopInst).settle s.now)
  | none => s

/-- R43: a task's record after it has left. -/
def HoopRec.left (r : HoopRec) : HoopRec := { r with member := false, armed := false, notified := false }

/-- R43: a task leaves an instance. One that retires after its gang was frozen leaves at once, and the generation may complete by it
(log 53: R46 does not say). -/
def leaveHoop (s : State) (h : Nat) : State :=
  let r := hoopRec s.ctx h
  (countLeave s h r).modCtx (·.setHoop h r.left)

/-- R41: an arrival counts. -/
def countArrival (s : State) (h : Nat) : State :=
  let r := hoopRec s.ctx h
  match hoopOf s s.ctx.gang h r with
  | some i => s.putHoop s.ctx.gang h r (({ i with arrived := i.arrived + 1 } : HoopInst).settle s.now)
  | none => s

/-- R41: a task's record after its arrival in the present generation. -/
def HoopRec.arrives (r : HoopRec) (i : HoopInst) (now : Nat) : HoopRec :=
  { r with armed := true, gen := i.gen, notified := false, armedAt := now + 1 }

end Sys2Proof.Machine
end

