-- ==== Sys2Proof/Machine/Memory.lean ====
section
/-! DEFINITION. Global memory as accesses perform it: pages and their counters (R15), the L1 (R145), reads and writes of elements, and the
performance of queued accesses under the ordering rules (R182 to R191). -/

namespace Sys2Proof.Machine

/-- The consumption of a scratchpad read that meets an uncorrectable error (R251): it counts from the cycle after the read's
landing. -/
def State.abortAt (s : State) (lat : Nat) (bad : Bool) : State := if bad then s.writeAt (lat + 1) .abort else s

/-! ## Pages -/

/-- What a leaf entry names: a frame, or a page of the capacity tier. -/
def leafId (e : W64) : Nat := ptePFN e + if pteT e then 2 ^ 40 else 0

/-- The values of a page at its allocation (R152). -/
def PageInfo.fresh (asid : W16) (l : Leaf) : PageInfo :=
  { pteAddr := l.pteAddr, asid := asid, va := l.base, size := l.size, pfn := leafId l.pte, prio := 4, next := none,
    counts := Vector.replicate 6 0, move := .idle }

/-- The leaf entry that names a page: of a 64 KiB page the first of its sixteen (R152). -/
def leafHome (l : Leaf) : Nat := if l.size = 65536 then l.pteAddr - l.pteAddr % 128 else l.pteAddr

/-- What the device keeps for a page; an entry that names another frame than before holds a new page. -/
def pageInfo (s : State) (asid : W16) (l : Leaf) : PageInfo :=
  (s.pages.find? (fun p => p.pteAddr == leafHome l && p.pfn == leafId l.pte)).getD { PageInfo.fresh asid l with pteAddr := leafHome l }

def State.putPage (s : State) (p : PageInfo) : State :=
  { s with pages := p :: s.pages.filter (fun q => q.pteAddr != p.pteAddr) }

/-- Whether what the device keeps for a page is of a page that is still mapped: its entry names the same frame. -/
def PageInfo.mapped (s : State) (p : PageInfo) : Bool :=
  (pageOf s p.asid ((BitVec.ofNat 57 p.va).signExtend 64)).any (fun l => leafHome l == p.pteAddr && leafId l.pte == p.pfn)

/-- What the device keeps for pages that the supervisor has unmapped goes: a page mapped there later is a new one (R152). -/
def State.prunePages (s : State) : State := { s with pages := s.pages.filter (·.mapped s) }

/-- R15: `n` die-cache accesses of a core, or of a shuttle of a core, of die `die` count toward the page. An access is one 64-byte line of a
load or store, one atomic, or one page piece of a shuttle position (log 80: R15 does not say what one access is). -/
def State.countAccess (s : State) (die : Nat) (asid : W16) (va : W64) (n : Nat) : State :=
  match pageOf s asid va with
  | none => s
  | some l =>
    if pteT l.pte || pteRMT l.pte then s
    else
      let p := pageInfo s asid l
      let c := (vget p.counts die 0).toNat + n
      s.putPage { p with counts := vset p.counts die (BitVec.ofNat 16 (min c 65535)) }

/-- The frame that a page's entry names now. -/
def PageInfo.frame (s : State) (p : PageInfo) : Nat := ptePFN (BitVec.ofNat 64 (s.supLoad p.pteAddr 8)) * 4096

/-- Whether a page's frame holds a local address. -/
def PageInfo.covers (s : State) (p : PageInfo) (a : Nat) : Bool :=
  decide (p.frame s ≤ a) && decide (a < p.frame s + p.size)

/-- R154: a write to a page that is being evicted cancels the eviction. -/
def State.cancelEviction (s : State) (pa : Nat) : State :=
  { s with pages := s.pages.map (fun p =>
      if p.move = .evicting ∧ p.covers s (localPart pa) then { p with move := .idle } else p) }

/-- R18: whether a page that holds a local address is migrating; writes to it wait. -/
def migrating (s : State) (pa : Nat) : Bool :=
  s.pages.any (fun p => (match p.move with
    | .migrating _ => true
    | _ => false) && p.covers s (localPart pa))

/-! ## The L1 (R145) -/

def l1Of (s : State) (core : Nat) : L1 := (tabGet core s.l1).getD ⟨[], [], []⟩
def State.setL1 (s : State) (core : Nat) (l : L1) : State := { s with l1 := tabSet core l s.l1 }

/-- The 32-bit words that a byte range touches. -/
def wordsOf (pa n : Nat) : List Nat := (List.range ((pa + n + 3) / 4 - pa / 4)).map (fun i => pa / 4 + i)

def dropWord (s : State) (core word : Nat) : State :=
  let l := l1Of s core
  s.setL1 core { l with words := tabDel word l.words }

/-- An acquire of a context invalidates every valid word of its core's L1 that is not owned. -/
def State.selfInvalidate (s : State) : State :=
  match tabGet s.ctx.coreId s.l1 with
  | none => s
  | some l => s.setL1 s.ctx.coreId { l with words := l.words.filter (fun w => w.2.2) }

/-- A line leaves a core's L1; its registrations at the home stay (R145). -/
def evictL1Line (s : State) (core line : Nat) : State :=
  let l := l1Of s core
  s.setL1 core { lines := l.lines.filter (· != line), words := l.words.filter (fun w => w.1 / 16 != line), keys := tabDel line l.keys }

/-- R301: whether a request of the focused context to an address of another package has had no answer for 2 ms. -/
def unanswered (s : State) (pa : Nat) : Bool :=
  s.sent.any (fun x => x.1 == (s.ctx.cid, pa) && decide (x.2 + 2000 * microsecondUnits ≤ s.time))

/-- A byte of another package's memory: as this module or, by the schedule, another agent last stored it (R197). -/
def State.remoteByte (s : State) (a : Nat) : Byte := (tabGet a s.remote).getD (Config.remoteByte a)

/-- The bytes of a range at their home. -/
def State.homeBytes (s : State) (e : Elem) (pa n : Nat) : List Byte :=
  if pteRMT e.pte then (List.range n).map (fun i => s.remoteByte (pa + i)) else s.keyedRead (keySerial s e.pte) (localPart pa) n

/-- The 64-byte lines that a range touches. -/
def linesOf (pa n : Nat) : List Nat := (List.range ((pa + n + 63) / 64 - pa / 64)).map (fun i => pa / 64 + i)

/-- The bytes of a range as its home gives them, or none on an abort: an error is reported for the requester (R272), and another package that no port
reaches does not answer (R300, R301). Every line of the range is
accessed in its die cache (R146, R147). -/
def State.homeRead (s : State) (r : Requester) (e : Elem) (pa n : Nat) : State × Option (List Byte) :=
  if pteRMT e.pte then (s, if linkUp s then some (s.homeBytes e pa n) else none)
  else if hitsLost s (localPart pa) n then (s.meetLost r e pa n, none)
  else
    let s1 := (linesOf (localPart pa) n).foldl (fun (t : State) l => (t.touchLine l (tagOf e.pte e.page (64 * l))).1) s
    (s1, some (s1.homeBytes e pa n))

/-- The lines that a 64 KiB L1 holds (R2, R145). -/
def l1Lines : Nat := 1024

/-- A full L1 gives up a line before a fill (R145). -/
def makeRoomL1 (s : State) (core : Nat) : State :=
  let l := l1Of s core
  if l.lines.length < l1Lines then s
  else evictL1Line { s with free := s.free + 1 } core (l.lines.getD (Config.victim s.free % l1Lines) 0)

/-- Whether a word is valid and not owned: it may be stale. -/
def mayBeStale (l : L1) (word : Nat) : Bool := (tabGet word l.words).any (fun w => !w.2)

/-- The other word of an aligned 8 bytes. -/
def pairOf (word : Nat) : Nat := if word % 2 = 0 then word + 1 else word - 1

/-- R189: whether a fill of a line would put a fresh word beside a word of the same 8 bytes that may be stale. -/
def tornFill (l : L1) (line : Nat) : Bool :=
  (List.range 16).any (fun i => mayBeStale l (16 * line + i) && (tabGet (pairOf (16 * line + i)) l.words).isNone)

/-- A fill of one 64-byte line: words that are not valid take the home's value (R145); false on an abort. A line that would hold 8 bytes of
different times is evicted first (log 11, R189). -/
def State.fillL1 (s : State) (e : Elem) (line : Nat) : State × Bool :=
  let core := s.ctx.coreId
  match (s.countAccess s.ctx.die s.ctx.asid e.va 1).homeRead s.ctx.requester e (64 * line) 64 with
  | (s1, none) => (s1, false)
  | (s1, some bs) =>
    let s2 := if tornFill (l1Of s1 core) line then evictL1Line s1 core line else s1
    let s3 := if (l1Of s2 core).lines.contains line then s2 else makeRoomL1 s2 core
    let l := l1Of s3 core
    let add := fun (ws : List (Nat × W32 × Bool)) (i : Nat) =>
      match tabGet (16 * line + i) ws with
      | some _ => ws
      | none => tabSet (16 * line + i) (BitVec.ofNat 32 (leNat ((bs.drop (4 * i)).take 4)), false) ws
    (s3.setL1 core
      { lines := if l.lines.contains line then l.lines else line :: l.lines, words := (List.range 16).foldl add l.words,
        keys := if pteCLR e.pte || pteRMT e.pte then tabDel line l.keys else tabSet line (pteKEY e.pte) l.keys }, true)

/-- The bytes of a range in the L1, whose words are valid. -/
def l1Bytes (l : L1) (pa n : Nat) : List Byte :=
  (List.range n).map (fun i =>
    match tabGet ((pa + i) / 4) l.words with
    | some (w, _) => BitVec.ofNat 8 (w.toNat / 2 ^ (8 * ((pa + i) % 4)))
    | none => 0)

/-- Fills the lines of a range of which some word is not valid; false when one of the fills aborts. -/
def State.fillLines (s : State) (e : Elem) (pa n : Nat) : List Nat → State × Bool
  | [] => (s, true)
  | line :: t =>
    let need := (wordsOf pa n).any (fun w => w / 16 == line && (tabGet w (l1Of s s.ctx.coreId).words).isNone)
    let (s1, ok) := if need then s.fillL1 e line else (s, true)
    let (s2, rest) := s1.fillLines e pa n t
    (s2, ok && rest)

/-- A read of the focused context through its core's L1; none on an abort. -/
def State.l1Read (s : State) (e : Elem) (n : Nat) : State × Option (List Byte) :=
  let lines := (List.range ((e.pa + n + 63) / 64 - e.pa / 64)).map (fun i => e.pa / 64 + i)
  match s.fillLines e e.pa n lines with
  | (s1, false) => (s1, none)
  | (s1, true) => (s1, some (l1Bytes (l1Of s1 s.ctx.coreId) e.pa n))

/-- R189: whether a store into a line of the L1 would put a current word beside a word of the same 8 bytes that may be stale. -/
def tornStore (l : L1) (words : List Nat) (line : Nat) : Bool :=
  words.any (fun w => w / 16 == line && !words.contains (pairOf w) && mayBeStale l (pairOf w))

/-- The home registers a stored word to the core; the previous owner's word is invalidated, and the core's own L1 takes the word, as
its home now holds it, if the line is present (R145). -/
def ownWord (core : Nat) (e : Elem) (s : State) (word : Nat) : State :=
  let s1 := match tabGet word s.owners with
    | some c => if c = core then s else dropWord s c word
    | none => s
  let s2 := { s1 with owners := tabSet word core s1.owners }
  let l := l1Of s2 core
  if l.lines.contains (word / 16) then
    s2.setL1 core { l with words := tabSet word (BitVec.ofNat 32 (leNat (s2.homeBytes e (4 * word) 4)), true) l.words }
  else s2

/-! ## Reads and writes of elements -/

/-- R211: whether a die-cache line is absent and its fill waits: its pseudo-channel, or that of the modified line that it drives out, is in
all-bank mode. -/
def missHeld (s : State) (channel line : Nat) : Bool :=
  let held := fun (c : Nat) => s.holds.any (fun h => h.channel == c)
  !s.holds.isEmpty && (findLine line s.dcache).isNone &&
    (held channel || (victimOf s line).any (fun v => v.dirty && held v.channel))

/-- Whether an access to a range waits: it misses the die cache on a pseudo-channel in all-bank mode (R211), or no port reaches its package, until
its 2 ms are over (R300, R301). -/
def heldAway (s : State) (e : Elem) (n : Nat) : Bool :=
  if pteRMT e.pte then !linkUp s && !unanswered s e.pa
  else (linesOf (localPart e.pa) n).any (fun l => missHeld s (pageChannel e.pte e.page (64 * l)) l)

/-- Whether an access of the device to a supervisor structure waits (R211). -/
def supHeld (s : State) (a n : Nat) : Bool :=
  !s.holds.isEmpty && (linesOf a n).any (fun l => missHeld s (pageChannel 0 4096 (64 * l)) l)

/-- The lines of a supervisor structure that an error withholds are met by a reader (R272). -/
def State.meetSup (s : State) (r : Requester) (a n : Nat) : State :=
  (linesOf a n).foldl (fun t l =>
    if hitsLost t (64 * l) 64 then
      t.meetLost r { va := 0, pa := t.hub.pkg * 2 ^ 46 + 64 * l, pte := 0, page := 4096 } (64 * l) 64
    else t) s

/-- R161, R211: whether the translation of an address needs a walk that a pseudo-channel in all-bank mode holds up. -/
def walkHeld (s : State) (c : Nat) (asid : W16) (va : W64) : Bool :=
  !s.holds.isEmpty && (tlbFind s c asid va).isNone &&
    (walkOf s asid va).any (fun a => missHeld s (pageChannel 0 4096 a) (a / 64))

/-- Whether a core's read finds every word of an element in its L1. -/
def inL1 (s : State) (e : Elem) (n : Nat) : Bool :=
  (wordsOf e.pa n).all (fun w => (tabGet w (l1Of s s.ctx.coreId).words).isSome)

/-- R18, R19, R259, R489 (Table 13.7): whether a write to an element waits: its page is migrating, or it is protected when the
write would be performed, and its group decides, recovers or is broken, or the placement boundary of a commit or a passed write is still to
come. -/
def heldWrite (s : State) (e : Elem) : Bool :=
  !pteRMT e.pte &&
    (migrating s e.pa ||
     (match protLine s e.pa with
      | none => false
      | some (i, _) =>
        decide (0 < s.boundary.2) || !(s.group i).passed.isEmpty ||
        match (s.group i).state with
        | .sealing | .prepared | .recovering | .darning | .broken => true
        | _ => false))

/-- R211: whether the round-log copy that the first write of the round to a protected line makes (R259) misses on a pseudo-channel in all-bank
mode. -/
def logHeld (s : State) (e : Elem) (n : Nat) : Bool :=
  !s.holds.isEmpty && !pteRMT e.pte && (linesOf e.pa n).any (fun ln =>
    match protLine s (64 * ln) with
    | some (i, line) =>
      let g := s.group i
      g.state == .opened && !lineLogged s g line && (supHeld s (logAddr g line) 64 || supHeld s (bitmapAddr g line) 1)
    | none => false)

/-- Whether a write of `n` bytes to an element waits (R18, R211, Table 13.7). -/
def writeWaits (s : State) (e : Elem) (n : Nat) : Bool := heldWrite s e || heldAway s e n || logHeld s e n

/-- R259: before a write to protected lines of an open round performs, their values are logged. -/
def State.logLines (s : State) (pa n : Nat) : State :=
  (linesOf pa n).foldl (fun t ln =>
    match protLine t (64 * ln) with
    | some (i, line) => if (t.group i).state = .opened then t.logLine i line (64 * ln) else t
    | none => t) s

/-- Bytes of another package's memory are stored there (R197). -/
def State.remoteSet (s : State) (a : Nat) : List Byte → State
  | [] => s
  | b :: t => ({ s with remote := tabSet a b s.remote }).remoteSet (a + 1) t

/-- Bytes are performed at their home; a package that no port reaches takes none. -/
def State.homeWrite (s : State) (e : Elem) (bs : List Byte) : State :=
  if pteRMT e.pte then (if linkUp s then s.remoteSet e.pa bs else s)
  else ((s.cancelEviction e.pa).logLines e.pa bs.length).keyedWrite e.pte e.page (localPart e.pa) bs

/-- A write of another agent than a core's store invalidates the word in the L1 that owns it and ends its registration
(log 11). -/
def disownWord (s : State) (word : Nat) : State :=
  match tabGet word s.owners with
  | some c => { dropWord s c word with owners := tabDel word s.owners }
  | none => s

/-- A write of an engine, of an atomic, of a peer or of a supervisor hart. -/
def State.agentWrite (s : State) (e : Elem) (bs : List Byte) : State :=
  (wordsOf e.pa bs.length).foldl disownWord (s.homeWrite e bs)

/-- A store of the focused context: it writes through, and its core owns the words (R145). A replay's store is not performed (R279). -/
def State.coreWrite (s : State) (e : Elem) (bs : List Byte) : State :=
  if s.ctx.audit.replay.isSome || (pteRMT e.pte && !linkUp s) then s
  else
  let core := s.ctx.coreId
  let words := wordsOf e.pa bs.length
  let lines := linesOf e.pa bs.length
  let s1 := (s.homeWrite e bs).countAccess s.ctx.die s.ctx.asid e.va lines.length
  let s2 := lines.foldl (fun t l => if tornStore (l1Of t core) words l then evictL1Line t core l else t) s1
  words.foldl (ownWord core e) s2

/-- One step of the coherence order (R190): reads the word and writes what `f` makes of it, if anything; gives the old
value, or none on an abort. It invalidates the word in the issuing core's L1. -/
def State.atomic (s : State) (r : Requester) (core : Option Nat) (e : Elem) (n : Nat) (f : Nat → Option Nat) :
    State × Option Nat :=
  match s.homeRead r e e.pa n with
  | (s1, none) => (s1, none)
  | (s1, some bs) =>
    let old := leNat bs
    let s2 := match core with
      | some c => (wordsOf e.pa n).foldl (fun t w => dropWord t c w) s1
      | none => s1
    let s3 := match f old with
      | some v => s2.agentWrite e (natBytes v n)
      | none => s2
    (s3, some old)

/-! ## The order of a context's accesses (R182 to R186) -/

def Access.isMem (a : Access) : Bool :=
  match a.kind with
  | .fence => false
  | .knot _ => false
  | .arrive _ => false
  | .leave _ _ _ _ _ => false
  | _ => true

/-- The arrival or the leave of a hoop. -/
def Access.ofHoop (a : Access) : Bool :=
  match a.kind with
  | .arrive _ => true
  | .leave _ _ _ _ _ => true
  | _ => false

/-- A store or scatter: what a read may be given from the store queue. -/
def Access.plainStore (a : Access) : Bool :=
  match a.kind with
  | .store => true
  | .scatter => true
  | _ => false

/-- Whether an access writes memory. -/
def Access.writes (a : Access) : Bool :=
  match a.kind with
  | .load _ _ _ => false
  | .gather _ _ => false
  | .fence => false
  | .knot _ => false
  | .arrive _ => false
  | .leave _ _ _ _ _ => false
  | .recfl _ => false
  | _ => true

/-- A read that the L1 and the store queue serve. -/
def Access.plainRead (a : Access) : Bool :=
  match a.kind with
  | .load _ _ _ => true
  | .gather _ _ => true
  | _ => false

def overlapsBy (f : Elem → Nat) (a b : Access) : Bool :=
  a.elems.any (fun x => b.elems.any (fun y => decide (f x < f y + b.size) && decide (f y < f x + a.size)))

/-- R183: overlapping accesses of one class, or of which one carries no class. -/
def classOrdered (a b : Access) : Bool :=
  (a.cls.isNone || b.cls.isNone || a.cls == b.cls) && overlapsBy (fun e => e.va.toNat) a b

def acquires (a : Access) : Bool := a.ord == 1 || a.ord == 3
def releases (a : Access) : Bool := a.ord == 2 || a.ord == 3

/-- The place of the n-th KNOT of a cluster in the queues, if it is still there. -/
def knotAt (q : List Access) (c : Cluster) (n : Nat) : Option Nat :=
  (q.find? (fun a => a.issuer == c && a.kind == .knot n)).map (·.num)

/-- Whether the KNOT number `n` of the issuer of `y` orders `a` before `y`: `a` comes before its own cluster's KNOT of the
pair; a KNOT that pairs with nothing orders every access issued before it (R184). -/
def knotOrders (x : Ctx) (a y : Access) (n k : Nat) : Bool :=
  let other := knotPartner y.issuer
  decide (k < y.num) &&
    (if a.issuer = y.issuer then decide (a.num < k)
     else match knotAt x.gq other n with
       | some k' => decide (a.num < k')
       | none => decide ((if y.issuer = .A then x.knotsS else x.knotsA) ≤ n))

/-- The KNOTs still queued, with their numbers. -/
def knotsOf (x : Ctx) (c : Cluster) : List (Nat × Nat) :=
  x.gq.filterMap (fun a =>
    match a.kind with
    | .knot n => if a.issuer = c then some (n, a.num) else none
    | _ => none)

def knotted (x : Ctx) (a y : Access) : Bool := (knotsOf x y.issuer).any (fun p => knotOrders x a y p.1 p.2)

/-- Whether the access `a`, still queued, keeps the later access `y` from being performed; `alone` tells whether nobody else lies in a
scope of the context, for `a`. At such a scope an order shows to nobody (R187): only accesses of the same bytes keep it. In a core that another
context shares, the stores of a queue are performed in issue order, and those before a KNOT before what follows it (R182, R184). -/
def blocksAccess (alone : Access → Nat → Bool) (x : Ctx) (a y : Access) : Bool :=
  match a.kind with
  | .fence => true
  | .knot n => a.issuer == y.issuer && y.isMem && knotOpen x a.issuer n
  | .recfl _ => releases y || y.ofHoop
  | _ =>
    acquires a || y.ofHoop || y.kind == .fence || a.ofHoop && !y.isMem ||
    (releases y && (!alone a y.scope.toNat || overlapsBy (·.pa) a y)) ||
    (a.seen && y.writes && overlapsBy (·.pa) a y) ||
    (a.loadQ && y.loadQ) ||
    (!a.loadQ && !y.loadQ && (!alone a 0 || overlapsBy (·.pa) a y)) ||
    (if a.plainStore then (y.writes && classOrdered a y) || (knotted x a y && (!alone a 0 || (y.writes && overlapsBy (·.pa) a y)))
     else classOrdered a y || knotted x a y)

/-- A KNOT leaves its queue once it is paired and no earlier access that it orders is left. -/
def knotDone (x : Ctx) (y : Access) (n : Nat) : Bool :=
  !knotOpen x y.issuer n &&
  x.gq.all (fun a => !a.isMem ||
    (if a.issuer = y.issuer then decide (y.num < a.num)
     else match knotAt x.gq (knotPartner y.issuer) n with
       | some k => decide (k < a.num)
       | none => decide (y.num < a.num)))

/-- Where the bytes of a read stand in the store queue: the youngest earlier store of its class, before its KNOT, or already read by the
context (R189), that writes the byte, by number, and the byte. `i` counts the bytes of the element. -/
def forwarded (x : Ctx) (y : Access) (e : Elem) (i : Nat) : Option (Nat × Byte) :=
  (x.gq.filter (fun a => a.plainStore && decide (a.num < y.num))).foldl (fun acc a =>
    let byBytes := a.seen || knotted x a y
    if (a.cls == y.cls || byBytes) then
      (List.range a.elems.length).foldl (fun acc j =>
        match a.elems[j]? with
        | none => acc
        | some w =>
          let hit := fun (p q : Nat) => decide (p ≤ q) && decide (q < p + a.size)
          let off := if a.cls = y.cls ∧ hit w.va.toNat (e.va.toNat + i) then some (e.va.toNat + i - w.va.toNat)
            else if byBytes ∧ hit w.pa (e.pa + i) then some (e.pa + i - w.pa) else none
          match off with
          | some o =>
            let base := if a.kind = .scatter then (lane a.data j).toNat else a.data.toNat
            some (a.num, BitVec.ofNat 8 (base / 2 ^ (8 * o)))
          | none => acc) acc
    else acc) none

/-- R189: whether some aligned 8 bytes of a read would come from more than one place: from several stores of the queue, or in part from
one. The read waits until they have been performed. -/
def tornRead (s : State) (y : Access) : Bool :=
  let unit := min 8 y.size
  s.ctx.gq.any (·.plainStore) && y.plainRead && y.elems.any (fun e =>
    (List.range (y.size / unit)).any (fun g =>
      let from' := (List.range unit).map (fun i => (forwarded s.ctx y e (g * unit + i)).map (·.1))
      !from'.all (· == from'.headD none)))

/-- R187: whether no other context lies in the context's core (scope 0) or quad (scope 1); wider scopes hold the supervisor's harts. An access to a
protected line, which its group may hold back for long (R489), keeps its place all the same. -/
def loneScope (s : State) (a : Access) (scope : Nat) : Bool :=
  let x := s.ctx
  decide (scope < 2) && !s.others.any (fun y => y.resident &&
    (if scope = 0 then y.coreId == x.coreId else y.die == x.die && y.quad == x.quad)) &&
    !a.elems.any (fun e => !pteRMT e.pte && (protLine s e.pa).isSome)

/-- R182 to R189, R259: whether the access at place `i` of the queues has nothing to wait for but its home. -/
def orderedNow (s : State) (i : Nat) : Bool :=
  match s.ctx.gq[i]? with
  | none => false
  | some y =>
    s.power.gate &&
    (match y.kind with
     | .knot n => knotDone s.ctx y n
     | _ => !(s.ctx.gq.take i).any (fun a => blocksAccess (loneScope s) s.ctx a y)) &&
    !(y.writes && s.ctx.audit.replay.isNone && y.elems.any (fun e => heldWrite s e || logHeld s e y.size)) && !tornRead s y

/-- Whether an access finds what it needs of an element without its home. -/
def Access.served (s : State) (y : Access) (e : Elem) : Bool := !y.writes && inL1 s e y.size

/-- R184 to R186, R211, R259: whether the access at place `i` of the queues can be performed now. -/
def performable (s : State) (i : Nat) : Bool :=
  match s.ctx.gq[i]? with
  | none => false
  | some y => orderedNow s i && !y.elems.any (fun e => heldAway s e y.size && !y.served s e)

/-! ## Writes that a context has passed on (R489) -/

/-- AMO (R321): what the operation makes of an old value; `n` bytes. -/
def amoValue (op : BitVec 4) (n old v : Nat) : Nat :=
  let w := 8 * n
  let sx := fun (k : Nat) => (BitVec.ofNat w k).toInt
  match op.toNat with
  | 0 => (old + v) % 2 ^ w
  | 1 => old &&& v
  | 2 => old ||| v
  | 3 => old ^^^ v
  | 4 => if sx old ≤ sx v then old else v
  | 5 => if sx old < sx v then v else old
  | 6 => min old v
  | 7 => max old v
  | _ => v

/-- What a write makes of the old value of its element number `j`; none where a CAS writes nothing. -/
def Access.makes (y : Access) (j old : Nat) : Option Nat :=
  let v := y.data.toNat % 2 ^ (8 * y.size)
  match y.kind with
  | .amo _ op => some (amoValue op y.size old v)
  | .cas _ _ expect => if old = expect.toNat % 2 ^ (8 * y.size) then some v else none
  | .signal => some ((old + y.data.toNat) % 2 ^ 64)
  | .scatter => some (lane y.data j).toNat
  | _ => some y.data.toNat

/-- The bytes of memory once a passed write is performed. -/
def Access.over (y : Access) (f : Nat → Byte) : Nat → Byte :=
  y.elems.zipIdx.foldl (fun g p =>
    match y.makes p.2 (leNat ((List.range y.size).map (fun i => g (p.1.pa + i)))) with
    | some v => fun a => if p.1.pa ≤ a ∧ a < p.1.pa + y.size then BitVec.ofNat 8 (v / 2 ^ (8 * (a - p.1.pa))) else g a
    | none => g) f

/-- The bytes of an element once every passed write is performed: those at home, and over them what the writes leave, in their order. -/
def State.passedBytes (s : State) (e : Elem) (n : Nat) : List Byte :=
  let f := (s.groups.toList.flatMap (·.passed)).foldl (fun g p => p.2.over g) (fun a => s.keyedByte (keySerial s e.pte) (localPart a))
  (List.range n).map (fun i => f (e.pa + i))

/-- Whether the focused context has passed on a write to bytes of an element. -/
def State.passedOn (s : State) (e : Elem) (n : Nat) : Bool :=
  s.groups.any (fun g => g.passed.any (fun p => p.1 == s.ctx.cid &&
    p.2.elems.any (fun w => decide (w.pa < e.pa + n) && decide (e.pa < w.pa + p.2.size))))

/-- A read of the focused context: through its core's L1, or, after a write that it has passed on, of the bytes that the write leaves (R489). -/
def State.ctxRead (s : State) (e : Elem) (n : Nat) : State × Option (List Byte) :=
  if s.passedOn e n then
    let (s1, r) := s.homeRead s.ctx.requester e e.pa n
    (s1, r.map (fun _ => s.passedBytes e n))
  else s.l1Read e n

/-! ## The log of a drawn task and its replay (R277 to R279) -/

/-- An entry enters a log behind those of an earlier or the same place. -/
def insertLog (e : LogEntry) : List LogEntry → List LogEntry
  | [] => [e]
  | x :: t => if e.place < x.place then e :: x :: t else x :: insertLog e t

/-- A drawn task logs the bytes that a source delivered, at their place in issue order. -/
def Ctx.logRead (x : Ctx) (source place : Nat) (addr : W64) (bs : List Byte) : Ctx :=
  if x.audit.drawn ∧ x.audit.replay.isNone then
    { x with audit := { x.audit with log := insertLog ⟨source, place, addr, bs⟩ x.audit.log } }
  else x

/-- Whether a context is a replay. -/
def Ctx.replays (x : Ctx) : Bool := x.audit.replay.isSome

def Ctx.modReplay (x : Ctx) (f : Replay → Replay) : Ctx := { x with audit := { x.audit with replay := x.audit.replay.map f } }

/-- A replay's read at a place in issue order, when it issues, is to take the next `n` entries of its source. -/
def Replay.claim (source place : Nat) : Nat → Replay → Replay
  | 0, r => r
  | n + 1, r =>
    match r.left.find? (·.source == source) with
    | some e => Replay.claim source place n { r with left := r.left.erase e, claims := r.claims ++ [(place, e)] }
    | none => { r with differs := true }

/-- A replay's read takes the first entry that its place has claimed; an address or size that differs ends the replay as a mismatch. -/
def Ctx.takeClaim (x : Ctx) (place : Nat) (addr : W64) (n : Nat) : Ctx × List Byte :=
  match x.audit.replay.bind (fun r => r.claims.find? (·.1 == place)) with
  | some (_, e) =>
    if e.addr = addr ∧ e.bytes.length = n then (x.modReplay (fun r => { r with claims := r.claims.erase (place, e) }), e.bytes)
    else (x.modReplay (fun r => { r with differs := true }), List.replicate n 0xFF)
  | none => (x.modReplay (fun r => { r with differs := true }), List.replicate n 0xFF)

/-- A replay's read takes the next entry of its source at once. -/
def Ctx.takeLogged (x : Ctx) (source : Nat) (addr : W64) (n : Nat) : Ctx × List Byte :=
  (x.modReplay (Replay.claim source x.nextAcc 1)).takeClaim x.nextAcc addr n

/-- What a read of the focused context finds for one element; none on an abort. The stores that it is given bytes of have been seen. A replay
finds the bytes of the log (R279). -/
def State.readElem (s : State) (y : Access) (e : Elem) : State × Option (List Byte) :=
  if s.ctx.replays then
    let (x, bs) := s.ctx.takeClaim y.num e.va y.size
    ({ s with ctx := x }, some bs)
  else
  let from' := (List.range y.size).map (forwarded s.ctx y e)
  let see := fun (x : Ctx) => { x with gq := x.gq.map (fun a =>
    if from'.any (fun f => f.any (·.1 == a.num)) then { a with seen := true } else a) }
  match s.ctxRead e y.size with
  | (s1, none) => (s1, none)
  | (s1, some bs) => (s1.modCtx see, some ((bs.zip from').map (fun p => (p.2.map (·.2)).getD p.1)))

/-! ## Audit records (R277, R278) -/

/-- The entries of a read of several elements, each of `n` bytes. -/
def Ctx.logElems (x : Ctx) (source place n : Nat) (es : List Elem) (bs : List Byte) : Ctx :=
  es.zipIdx.foldl (fun y p => y.logRead source place p.1.va ((bs.drop (n * p.2)).take n)) x

/-- A drawn task signs a record at its place in its cluster's issue order. -/
def Ctx.sign (x : Ctx) (c : Cluster) (place : Nat) (bs : List Byte) : Ctx :=
  if x.audit.drawn then { x with audit := { x.audit with records := x.audit.records ++ [(cnum c, place, bs)] } } else x

/-! ## Performance -/

/-- The local address of a queue's descriptor (R216). -/
def descAddr (s : State) (qid : Nat) : Nat := bits64 s.hub.qtbase 12 44 * 4096 + 64 * qid

/-- R227: a wake of a queue that is not mapped sets PWAKE and posts the queue to the wake FIFO of 4,096 entries (R287). -/
def State.postWake (s : State) (qid : Nat) : State :=
  let a := descAddr s qid + 24
  let s1 := s.putLocal a 1 (s.getLocal a 1 ||| 2)
  { s1 with tamb :=
      if s1.tamb.wakeFifo.length < 4096 then { s1.tamb with wakeFifo := s1.tamb.wakeFifo ++ [qid] }
      else { s1.tamb with wakeOvf := true } }

/-- R230: a signal update wakes every queue whose head WAITSIG names a word on the page. -/
def State.wakePage (s : State) (asid : W16) (va : W64) : State :=
  let onPage := fun (a : W16) (w : W64) => a == asid && w.toNat / 4096 == va.toNat / 4096
  let slots := s.tamb.slots.map (fun (p : Nat × HwSlot) =>
    if p.2.waitsig.any (onPage p.2.asid) then (p.1, { p.2 with waitsig := none }) else p)
  (s.tamb.sleepers.filter (fun (q : Nat × W16 × W64) => onPage q.2.1 q.2.2)).foldl (fun t q => t.postWake q.1)
    { s with tamb := { s.tamb with slots := slots } }

/-- The bytes that all ones stand for on an abort (R251). -/
def abortBytes (n : Nat) : List Byte := List.replicate n 0xFF

/-- The slot value of a loaded value (R350): extended, or for SZ 7 the bytes as they are. -/
def slotOf (sz : BitVec 3) (bs : List Byte) : VReg :=
  if sz = 7 then ofImage bs else ofW64 (extend sz (leNat bs))

/-- Delivers the data of a read into its reserved slot; on an abort every byte of the slot is 0xFF (R251). -/
def Ctx.deliverRead (x : Ctx) (b id : Nat) (sz : BitVec 3) (y : Access) (r : Option (List Byte)) : Ctx :=
  let z := x.logElems (cnum y.issuer) y.num y.size (y.elems.take 1) (r.getD (abortBytes y.size))
  match r with
  | some bs => z.arrive b id (slotOf sz bs)
  | none => z.consumeAbort.arrive b id (BitVec.allOnes 2048)

def leBytes (v : W64) : List Byte := natBytes v.toNat 8

/-- A gather (R351): the elements are read in ascending lane order, and an abort of some of them is one consumption. -/
def gatherRead (s : State) (y : Access) : List Elem → State × List W32 × Bool × List Byte
  | [] => (s, [], false, [])
  | e :: t =>
    let (s1, r) := s.readElem y e
    let (s2, ws, ab, log) := gatherRead s1 y t
    match r with
    | some bs => (s2, BitVec.ofNat 32 (leNat bs) :: ws, ab, bs ++ log)
    | none => (s2, 0xFFFFFFFF :: ws, true, abortBytes y.size ++ log)

/-- The stores of a scatter, in ascending lane order (R408). -/
def scatterWrite (s : State) (y : Access) : Nat → List Elem → State
  | _, [] => s
  | i, e :: t =>
    let bs := natBytes (lane y.data i).toNat y.size
    scatterWrite ((s.coreWrite e bs).modCtx (·.sign y.issuer y.num (leBytes e.va ++ bs))) y (i + 1) t

/-- Whether the read of an access is logged (R277): that of a SIGNAL is not. -/
def Access.logs (y : Access) : Bool :=
  match y.kind with
  | .amo _ _ => true
  | .cas _ _ _ => true
  | k => (match k with
    | .load _ _ _ => true
    | .gather _ _ => true
    | _ => false)

/-- The number of entries that an access adds to the log. -/
def Access.entries (y : Access) : Nat :=
  if y.logs then (match y.kind with
    | .gather _ _ => y.elems.length
    | _ => 1) else 0

/-- The atomic of an AMO, a CAS or a SIGNAL: a drawn task logs what was read and signs what was written; an abort is
consumed (R251). A replay takes the old value from the log and performs nothing (R279). -/
def atomicAccess (s : State) (y : Access) (e : Elem) (f : Nat → Option Nat) : State × Option Nat :=
  let log := fun (x : Ctx) (bs : List Byte) => if y.logs then x.logRead (cnum y.issuer) y.num e.va bs else x
  let r := if s.ctx.replays then
      let (x, bs) := if y.logs then s.ctx.takeClaim y.num e.va y.size else (s.ctx, [])
      ({ s with ctx := x }, some (leNat bs))
    else (s.countAccess s.ctx.die s.ctx.asid e.va 1).atomic s.ctx.requester (some s.ctx.coreId) e y.size f
  match r with
  | (s1, none) => (s1.modCtx (fun x => (log x (abortBytes y.size)).consumeAbort), none)
  | (s1, some old) =>
    let s3 := s1.modCtx (log · (natBytes old y.size))
    (match f old with
     | some v => s3.modCtx (·.sign y.issuer y.num (leBytes e.va ++ natBytes v y.size))
     | none => s3, some old)

/-- The old value of an AMO or CAS is delivered zero-extended, or as 0xFF in all eight bytes (R321). -/
def deliverOld (s : State) (b id : Nat) (old : Option Nat) : State :=
  s.modCtx (·.arrive b id (match old with
    | some v => BitVec.ofNat 2048 v
    | none => ofW64 (BitVec.allOnes 64)))

/-- R172: the copies of a record leave every record cache of the package. -/
def State.dropRecords (s : State) (asid : W16) (h : W64) : State :=
  { s with dies := s.dies.map (fun d => { d with records := d.records.filter (fun r => r.1 != asid.toNat || r.2.1 != h) }) }

/-- The effect of an access of the focused context when it is performed. -/
def performAccess (s : State) (y : Access) : State :=
  match y.kind with
  | .load b id sz =>
    match y.elems with
    | e :: _ =>
      let (s1, r) := s.readElem y e
      s1.modCtx (·.deliverRead b id sz y r)
    | [] => s
  | .gather b id =>
    let (s1, ws, ab, log) := gatherRead s y y.elems
    s1.modCtx (fun x =>
      let x1 := x.logElems (cnum y.issuer) y.num y.size y.elems log
      (if ab then x1.consumeAbort else x1).arrive b id (ofLanes (fun i => ws.getD i 0)))
  | .store =>
    match y.elems with
    | e :: _ =>
      let bs := natBytes y.data.toNat y.size
      (s.coreWrite e bs).modCtx (·.sign y.issuer y.num (leBytes e.va ++ bs))
    | [] => s
  | .scatter => scatterWrite s y 0 y.elems
  | .amo ret _ =>
    match y.elems with
    | e :: _ =>
      let (s1, old) := atomicAccess s y e (y.makes 0)
      match ret with
      | some (b, id) => deliverOld s1 b id old
      | none => s1
    | [] => s
  | .cas b id _ =>
    match y.elems with
    | e :: _ =>
      let (s1, old) := atomicAccess s y e (y.makes 0)
      deliverOld s1 b id old
    | [] => s
  | .signal =>
    match y.elems with
    | e :: _ =>
      let (s1, old) := atomicAccess s y e (y.makes 0)
      if old.isSome ∧ !pteRMT e.pte ∧ !s.ctx.replays then s1.wakePage s.ctx.asid e.va else s1
    | [] => s
  | .fence => s
  | .knot _ => s
  | .arrive h => countArrival s h
  | .recfl h => s.dropRecords s.ctx.asid h
  | .leave h scope group armed gen =>
    countLeave s h { scope := scope, group := group, member := false, armed := armed, gen := gen, notified := false, armedAt := 0 }

/-- The access numbered `n` leaves the queues. -/
def Ctx.dropAccess (x : Ctx) (n : Nat) : Ctx := { x with gq := x.gq.filter (fun a => a.num != n), late := x.late.filter (· != n) }

/-- Whether an access is still queued that one ordered behind it has passed (R187). -/
def Ctx.hasLate (x : Ctx) : Bool := x.gq.any (fun a => x.late.contains a.num)

/-- Performs the access at place `i` of the focused context's queues; an acquire then invalidates the L1 words that are
not owned (R186). The earlier accesses that would have kept it back, had another context lain in the core or the quad, are late. -/
def State.performAt (s : State) (i : Nat) : State :=
  match s.ctx.gq[i]? with
  | none => s
  | some y =>
    let passed := ((s.ctx.gq.take i).filter (fun a => blocksAccess (fun _ _ => false) s.ctx a y)).map (·.num)
    let s1 := performAccess s y
    let s2 := s1.modCtx (fun x => { x.dropAccess y.num with late := passed ++ (x.dropAccess y.num).late })
    if acquires y || y.kind == .fence then s2.selfInvalidate else s2

/-- The first place that can be performed. -/
def firstPerformable (s : State) : Option Nat := (List.range s.ctx.gq.length).find? (performable s)

/-- Performs what can be performed, `n` accesses at most. -/
def State.drain (s : State) : Nat → State
  | 0 => s
  | n + 1 =>
    match firstPerformable s with
    | some i => (s.performAt i).drain n
    | none => s

/-- R194, R196: every access that can be performed now is performed. -/
def State.drainAll (s : State) : State := s.drain s.ctx.gq.length

/-- R192: whether every access of the focused context issued before place `after` has been performed. -/
def Ctx.releasedTo (x : Ctx) (after : Nat) : Bool := x.gq.all (fun a => !a.isMem || decide (after ≤ a.num))

end Sys2Proof.Machine
end

