-- ==== Sys2Proof/Machine/LoadStore.lean ====
section
/-! DEFINITION. Loads, stores, atomics, FENCE and KNOT (R321, R333, R340, R348 to R352, R406 to R408). Scratchpad accesses are made
at issue and land 6 cycles later; global accesses enter their queue (R182). -/

namespace Sys2Proof.Machine

/-- The next place in the context's issue order (R180). -/
def Ctx.tick (x : Ctx) : Ctx := { x with nextAcc := x.nextAcc + 1 }

/-- An access enters its queue, at the next place in issue order. A replay's takes its entries of the log (R279). -/
def State.enqueue (s : State) (a : Access) : State :=
  s.modCtx (fun x =>
    { (x.modReplay (Replay.claim (cnum a.issuer) x.nextAcc a.entries)).tick with gq := x.gq ++ [{ a with num := x.nextAcc }] })

/-- One translated element (R162). -/
def elemOf (s : State) (va : W64) (t : TlbEntry) : Elem := 
  { va := va, pa := physOf s t va, pte := t.pte, page := t.size }

/-- Translates the elements of an access, then acts with them, or raises the first fault (R160). While a walk is held up, the
instruction waits (R161, R211). -/
def withElems (s : State) (need : Need) (vas : List W64) (act : State → List Elem → Act) : Act :=
  match globalAccesses s need vas with
  | .error (code, tval) => if walkHeld s s.ctx.coreId s.ctx.asid tval then .wait .none else .trap code tval
  | .ok ts =>
    if vas.any (walkHeld s s.ctx.coreId s.ctx.asid) then .wait .none
    else act (s.rememberAll ts) ((vas.zip ts).map (fun p => elemOf s p.1 p.2))

/-- The offset of a memory instruction in bytes (R90): scaled by the access size, by 8 for SZ 7. -/
def memOffset (sz : BitVec 3) (off : BitVec 8) : W64 := scaled off (if sz = 7 then 8 else sizeOf sz)

/-- LD (R349). -/
def execLd (st : Bool) (dst base : BitVec 5) (sz : BitVec 3) (cls : BitVec 2) (off : BitVec 8) (s : State) : Result :=
  issue (.ld st dst base sz cls off) (fun s c =>
    let a := rd s c base + memOffset sz off
    let n := sizeOf sz
    let bad := s.ctx.spLost a.toNat n
    let v := if bad then BitVec.allOnes 64 else extend sz (s.ctx.spLoad a.toNat n)
    spReadChecks s a n (.go ((s.writeAt 6 (.scalar c dst.toNat v)).abortAt 6 bad))) s

/-- R322, R350: whether a bobbin can take reads of the given slot kind. -/
def readTarget (b : Bobbin) (wide : Option Bool) : Bool :=
  b.en && b.prod == 4 && (match wide with
    | some w => b.sz == w
    | none => true)

/-- The requirement of LDB on its bobbin's slot size: 8 bytes but for SZ 7. -/
def ldbWide (sz : BitVec 3) : Option Bool := if sz = 7 then none else some false

/-- LDB (R350), in either form: the bobbin's checks, the room for a slot, then the access. -/
def ldbAct (i : Instr) (b : BitVec 4) (a : W64) (sp : Bool) (sz : BitVec 3) (cls : BitVec 2) (ord : BitVec 2)
    (scope : BitVec 3) (s : State) (c : Cluster) : Act :=
  let bb := s.ctx.bobbin b.toNat
  let n := if sz = 7 then bb.slotBytes else sizeOf sz
  if !readTarget bb (ldbWide sz) then illegalWord i
  else if !bb.room then .wait .bobbinRoom
  else if sp then
    let bad := s.ctx.spLost a.toNat n
    let v := if bad then BitVec.allOnes 2048 else slotOf sz (s.ctx.spRead a.toNat n)
    spReadChecks s a n
      (.go (((s.modCtx (·.reserve b.toNat)).writeAt 6 (.deliver b.toNat bb.nextId v)).abortAt 6 bad))
  else if a.toNat % n ≠ 0 then .trap 0x05 a
  else
    withElems s .read [a] (fun s1 es =>
      .go ((s1.modCtx (·.reserve b.toNat)).enqueue
        { num := 0, loadQ := true, issuer := c, kind := .load b.toNat bb.nextId sz, elems := es, size := n, data := 0,
          cls := some cls, ord := ord, scope := scope, seen := false }))

/-- LDB (R350). -/
def execLdb (st : Bool) (b : BitVec 4) (base : BitVec 5) (sp : Bool) (sz : BitVec 3) (cls : BitVec 2) (off : BitVec 8)
    (s : State) : Result :=
  issue (.ldb st b base sp sz cls off) (fun s c =>
    ldbAct (.ldb st b base sp sz cls off) b (rd s c base + memOffset sz off) sp sz cls 0 0 s c) s

/-- LDB with an ordering (R350, R186). -/
def execLdbOrdered (st : Bool) (b : BitVec 4) (base : BitVec 5) (sz : BitVec 3) (cls : BitVec 2) (ord : BitVec 2)
    (scope : BitVec 3) (s : State) : Result :=
  issue (.ldbOrdered st b base sz cls ord scope) (fun s c =>
    ldbAct (.ldbOrdered st b base sz cls ord scope) b (rd s c base) false sz cls ord scope s c) s

/-- The element addresses of a gather or scatter (R351). -/
def elementAddrs (base : W64) (index : VReg) (sh : BitVec 3) : List W64 :=
  (List.range 64).map (fun i => elementAddr base index sh i)

/-- The slot a bobbin's consumer takes next. -/
def nextSlot (s : State) (b : BitVec 4) : VReg := s.ctx.slotValue b.toNat (s.ctx.bobbin b.toNat).take

/-- The faults of the 64 elements of a scratchpad gather or scatter, in order: ALIGN, SPRANGE. -/
def elementFaults (s : State) (vas : List W64) (e : Nat) (space : Bool) : List (Bool × Nat × W64) :=
  [((vas.find? (fun a => a.toNat % e ≠ 0)).isSome, 0x05, (vas.find? (fun a => a.toNat % e ≠ 0)).getD 0)] ++
  (if space then
    [((vas.find? (fun a => spOut s.ctx a.toNat e)).isSome, 0x08, (vas.find? (fun a => spOut s.ctx a.toNat e)).getD 0)]
   else [])

/-- The first EARLYREAD of the elements of a gather (R144). -/
def firstEarly (s : State) (vas : List W64) (e : Nat) : Bool × Nat × W64 :=
  match vas.findSome? (fun a => earlyWord s.ctx a.toNat e) with
  | some w => (true, 0x0A, BitVec.ofNat 64 w)
  | none => (false, 0, 0)

/-- LDG (R351). -/
def execLdg (st : Bool) (bd bi : BitVec 4) (base : BitVec 5) (cls : BitVec 2) (esz : BitVec 2) (sh : BitVec 3) (sp : Bool)
    (s : State) : Result :=
  issue (.ldg st bd bi base cls esz sh sp) (fun s c =>
    let d := s.ctx.bobbin bd.toNat
    let x := s.ctx.bobbin bi.toNat
    let e := 2 ^ esz.toNat
    let vas := elementAddrs (rd s c base) (nextSlot s bi) sh
    let taken := fun (t : State) => ((t.readsNext bi.toNat).modCtx (·.reserve bd.toNat)).writeAt 1 (.take bi.toNat 1)
    if !x.en || x.cons.toNat != cnum c || !x.sz || !readTarget d (some true) then
      illegalWord (.ldg st bd bi base cls esz sh sp)
    else if x.count = 0 then .wait (sourceWait x)
    else if !d.room then .wait .bobbinRoom
    else if sp && vas.any (fun a => wmHolds s.ctx a.toNat e) then .wait .watermark
    else
      faultsThen (elementFaults s vas e sp ++ (if sp then [firstEarly s vas e] else []))
        (if sp then
          let bad := vas.any (fun a => s.ctx.spLost a.toNat e)
          let v := ofLanes (fun i =>
            let a := (vas.getD i 0).toNat
            if s.ctx.spLost a e then 0xFFFFFFFF else BitVec.ofNat 32 (s.ctx.spLoad a e))
          .go (((taken s).writeAt 6 (.deliver bd.toNat d.nextId v)).abortAt 6 bad)
        else
          withElems s .read vas (fun s1 es =>
            .go ((taken s1).enqueue
              { num := 0, loadQ := true, issuer := c, kind := .gather bd.toNat d.nextId, elems := es, size := e, data := 0,
                cls := some cls, ord := 0, scope := 0, seen := false })))) s

/-- The instruction path meets a line whose data an error withholds: the error is reported (R272). -/
def State.fetchError (s : State) (va : W64) : State :=
  match codeAddr s va with
  | .error _ => s
  | .ok (_, t) => if codeLost s va then s.meetLost s.ctx.requester (elemOf s va t) (physOf s t va) 1 else s

/-- LDLIT (R352): eight bytes through the instruction path. -/
def execLdlit (st : Bool) (dst : BitVec 5) (off : BitVec 20) (s : State) : Result :=
  issue (.ldlit st dst off) (fun s c =>
    let a := (s.ctx.cl.get c).pc + scaled off 4
    if a.toNat % 4 ≠ 0 then .trap 0x05 a
    else
      match codeRead s a 8 with
      | .error e => .trap e a
      | .ok bs =>
        let bad := codeLost s a || codeLost s (a + 4)
        let v := if bad then BitVec.allOnes 64 else BitVec.ofNat 64 (leNat bs)
        let s1 := if bad then (s.fetched a).fetchError (if codeLost s a then a else a + 4) else s.fetched a
        .go ((s1.writeAt 6 (.scalar c dst.toNat v)).abortAt 6 bad)) s

/-- AMO (R321): the bobbin's checks and room when a value returns, ALIGN, then the translation for writing. -/
def execAmo (st : Bool) (b : BitVec 4) (ret : Bool) (base rs : BitVec 5) (op : BitVec 4) (w : Bool) (ord : BitVec 2)
    (scope : BitVec 3) (s : State) : Result :=
  issue (.amo st b ret base rs op w ord scope) (fun s c =>
    let bb := s.ctx.bobbin b.toNat
    let a := rd s c base
    let n := if w then 8 else 4
    if ret && !readTarget bb (some false) then illegalWord (.amo st b ret base rs op w ord scope)
    else if ret && !bb.room then .wait .bobbinRoom
    else if a.toNat % n ≠ 0 then .trap 0x05 a
    else
      withElems s .write [a] (fun s1 es =>
        .go ((if ret then s1.modCtx (·.reserve b.toNat) else s1).enqueue
          { num := 0, loadQ := c == .A, issuer := c, kind := .amo (if ret then some (b.toNat, bb.nextId) else none) op,
            elems := es, size := n, data := ofW64 (rd s c rs), cls := none, ord := ord, scope := scope, seen := false }))) s

/-- CAS (R333). -/
def execCas (st : Bool) (b : BitVec 4) (base new expect : BitVec 5) (w : Bool) (ord : BitVec 2) (scope : BitVec 3)
    (s : State) : Result :=
  issue (.cas st b base new expect w ord scope) (fun s c =>
    let bb := s.ctx.bobbin b.toNat
    let a := rd s c base
    let n := if w then 8 else 4
    if !readTarget bb (some false) then illegalWord (.cas st b base new expect w ord scope)
    else if !bb.room then .wait .bobbinRoom
    else if a.toNat % n ≠ 0 then .trap 0x05 a
    else
      withElems s .write [a] (fun s1 es =>
        .go ((s1.modCtx (·.reserve b.toNat)).enqueue
          { num := 0, loadQ := true, issuer := c, kind := .cas b.toNat bb.nextId (rd s c expect), elems := es, size := n,
            data := ofW64 (rd s c new), cls := none, ord := ord, scope := scope, seen := false }))) s

/-- FENCE (R185, R340). -/
def execFence (st : Bool) (scope : BitVec 3) (s : State) : Result :=
  issue (.fence st scope) (fun s c =>
    .go (s.enqueue
      { num := 0, loadQ := false, issuer := c, kind := .fence, elems := [], size := 0, data := 0, cls := none, ord := 3,
        scope := scope, seen := false })) s

/-- KNOT (R184, R348). -/
def execKnot (st : Bool) (s : State) : Result :=
  issue (.knot st) (fun s c =>
    let n := if c = .A then s.ctx.knotsA else s.ctx.knotsS
    let s1 := s.enqueue
      { num := 0, loadQ := c == .A, issuer := c, kind := .knot n, elems := [], size := 0, data := 0, cls := none, ord := 0,
        scope := 0, seen := false }
    .go (s1.modCtx (fun x => if c = .A then { x with knotsA := n + 1 } else { x with knotsS := n + 1 }))) s

/-- A store of `bytes` at `a` (R406): scratchpad bytes land 6 cycles later, a global store enters the store queue. `pre` is what
the instruction does besides. -/
def storeAct (s : State) (c : Cluster) (a : W64) (n : Nat) (data : VReg) (sp : Bool) (cls ord : BitVec 2)
    (scope : BitVec 3) (pre : State → State) : Act :=
  faultsThen [(a.toNat % n ≠ 0, 0x05, a), (sp && spOut s.ctx a.toNat n, 0x08, a)]
    (if sp then .go ((pre s).writeAt 6 (.spStore a.toNat (natBytes data.toNat n) s.ctx.sr.dbgt))
     else
      withElems s .write [a] (fun s1 es =>
        .go ((pre s1).enqueue
          { num := 0, loadQ := false, issuer := c, kind := .store, elems := es, size := n, data := data, cls := some cls,
            ord := ord, scope := scope, seen := false })))

/-- ST (R406). -/
def execSt (st : Bool) (dst base : BitVec 5) (sp : Bool) (sz : BitVec 3) (cls : BitVec 2) (off : BitVec 8) (s : State) :
    Result :=
  issue (.st st dst base sp sz cls off) (fun s c =>
    storeAct s c (rd s c base + memOffset sz off) (sizeOf sz) (ofW64 (rd s c dst)) sp cls 0 0 id) s

/-- ST with a release (R406, R186). -/
def execStOrdered (st : Bool) (dst base : BitVec 5) (sz : BitVec 3) (cls ord : BitVec 2) (scope : BitVec 3) (s : State) :
    Result :=
  issue (.stOrdered st dst base sz cls ord scope) (fun s c =>
    storeAct s c (rd s c base) (sizeOf sz) (ofW64 (rd s c dst)) false cls ord scope id) s

/-- STB (R407): the bobbin's checks, the wait for its slot, then the store; a faulting STB takes no slot. -/
def stbAct (i : Instr) (b : BitVec 4) (a : W64) (sp : Bool) (cls ord : BitVec 2) (scope : BitVec 3) (s : State)
    (c : Cluster) : Act :=
  let bb := s.ctx.bobbin b.toNat
  if !bb.en || bb.cons.toNat != cnum c then illegalWord i
  else if bb.count = 0 then .wait (sourceWait bb)
  else storeAct s c a bb.slotBytes (nextSlot s b) sp cls ord scope (fun t => (t.readsNext b.toNat).writeAt 1 (.take b.toNat 1))

/-- STB (R407). -/
def execStb (st : Bool) (b : BitVec 4) (base : BitVec 5) (sp : Bool) (cls : BitVec 2) (off : BitVec 12) (s : State) :
    Result :=
  issue (.stb st b base sp cls off) (fun s c =>
    stbAct (.stb st b base sp cls off) b (rd s c base + scaled off 8) sp cls 0 0 s c) s

/-- STB with a release (R407, R186). -/
def execStbOrdered (st : Bool) (b : BitVec 4) (base : BitVec 5) (cls ord : BitVec 2) (scope : BitVec 3) (s : State) :
    Result :=
  issue (.stbOrdered st b base cls ord scope) (fun s c =>
    stbAct (.stbOrdered st b base cls ord scope) b (rd s c base) false cls ord scope s c) s

/-- STSC (R408): both slots are slot TAKE of their bobbins; one bobbin named twice must hold two (log 13). -/
def execStsc (st : Bool) (bd bi : BitVec 4) (base : BitVec 5) (cls : BitVec 2) (esz : BitVec 2) (sh : BitVec 3) (sp : Bool)
    (s : State) : Result :=
  issue (.stsc st bd bi base cls esz sh sp) (fun s c =>
    let d := s.ctx.bobbin bd.toNat
    let x := s.ctx.bobbin bi.toNat
    let e := 2 ^ esz.toNat
    let needed := if bd = bi then 2 else 1
    let data := nextSlot s bd
    let vas := elementAddrs (rd s c base) (nextSlot s bi) sh
    let taken := fun (t : State) =>
      (((t.readsNext bd.toNat).readsNext bi.toNat).writeAt 1 (.take bd.toNat 1)).writeAt 1 (.take bi.toNat 1)
    let usable := fun (b : Bobbin) => b.en && b.cons.toNat == cnum c && b.sz
    if !usable d || !usable x then illegalWord (.stsc st bd bi base cls esz sh sp)
    else if d.count < needed then .wait (sourceWait d)
    else if x.count < needed then .wait (sourceWait x)
    else
      faultsThen (elementFaults s vas e sp)
        (if sp then
          .go ((List.range 64).foldl (fun t i =>
            t.writeAt 6 (.spStore (vas.getD i 0).toNat (natBytes (lane data i).toNat e) s.ctx.sr.dbgt)) (taken s))
         else
          withElems s .write vas (fun s1 es =>
            .go ((taken s1).enqueue
              { num := 0, loadQ := false, issuer := c, kind := .scatter, elems := es, size := e, data := data,
                cls := some cls, ord := 0, scope := 0, seen := false })))) s

end Sys2Proof.Machine
end

