-- ==== Sys2Proof/Machine/Engine.lean ====
section
/-! DEFINITION. What the engines share: engine-reported faults (R238, R243), completion words (R177, R490), queue places (R204),
quads and context areas (R249, R250). -/

namespace Sys2Proof.Machine

/-! ## Faults -/

/-- ECMD (Table 4.6): engine, command index, status word. -/
def EngFault.ecmd (f : EngFault) : W64 := BitVec.ofNat 64 (f.eng * 2 ^ 56 + f.idx % 2 ^ 24 * 2 ^ 32 + f.estw.toNat)

/-- A fault enters the pending ones: in the order in which they arose, those of one cycle by ENG (R242, R243). -/
def insertFault (f : EngFault) : List EngFault → List EngFault
  | [] => [f]
  | x :: t => if f.arose = x.arose ∧ f.eng < x.eng then f :: x :: t else x :: insertFault f t

/-- An engine fault becomes pending (R243). -/
def Ctx.raise (x : Ctx) (f : EngFault) : Ctx :=
  { x with eng := { x.eng with faults := insertFault f x.eng.faults },
           life := if x.life = .hoopWait ∨ x.life = .engineWait then .ready else x.life }

/-- ESTW: the cause code in bits 5:0 and a sub-status in bits 15:8 (R179). -/
def estw (code sub : Nat) : W32 := BitVec.ofNat 32 (code + sub * 2 ^ 8)

def QueueRun.deliver : QueueRun → QueueRun
  | .pending => .delivered
  | q => q

/-- The queue of the engine whose fault is delivered. -/
def Engines.markDelivered (e : Engines) (eng : Nat) : Engines :=
  match eng with
  | 0 => { e with sh0 := { e.sh0 with run := e.sh0.run.deliver } }
  | 1 => { e with sh1 := { e.sh1 with run := e.sh1.run.deliver } }
  | 2 => { e with cut := { e.cut with run := e.cut.run.deliver } }
  | 3 => { e with couch := { e.couch with run := e.couch.run.deliver } }
  | 4 => { e with darn := { e.darn with run := e.darn.run.deliver } }
  | 5 => { e with arrayRun := e.arrayRun.deliver }
  | 6 => { e with foot := { e.foot with run := e.foot.run.deliver } }
  | _ => { e with qeng := { e.qeng with run := e.qeng.run.deliver } }

/-! ## Completion words -/

/-- Table 8.6: a completion word after an update. -/
def wordAfter (u : Update) (old : Nat) : Nat :=
  let count := (old % 2 ^ 32 + (if u.arrive then 1 else 0)) % 2 ^ 32
  let fb := max (old / 2 ^ 62 % 2) u.fb.toNat
  let was := old / 2 ^ 63 % 2
  match u.err with
  | some code =>
    if was = 1 then count + old / 2 ^ 32 % 2 ^ 30 * 2 ^ 32 + fb * 2 ^ 62 + 2 ^ 63
    else count + u.idx % 2 ^ 24 * 2 ^ 32 + code.toNat * 2 ^ 56 + fb * 2 ^ 62 + 2 ^ 63
  | none => count + old / 2 ^ 32 % 2 ^ 30 * 2 ^ 32 + fb * 2 ^ 62 + was * 2 ^ 63

/-- Whether the focused context's gang has been terminated (R49). -/
def State.terminatedTask (s : State) : Bool := ((s.gangOf s.ctx.gang).map (·.terminated)).getD false

/-- One update under the focused context's address space, or the cause of its fault (R490); 0 while the word's line takes no
writes (R18, Table 13.7). A replay performs none (R279); what a terminated task could not write is dropped (log 24). -/
def updateOnce (s : State) (u : Update) : Except Nat State :=
  if s.ctx.replays then .ok s
  else match translate s s.ctx.coreId s.ctx.asid .write u.addr with
  | .error e => if s.terminatedTask then .ok s else .error e
  | .ok t =>
    let f := fun (old : Nat) => match u.add with
      | some v => (old + v.toNat) % 2 ^ 64
      | none => wordAfter u old
    let e := elemOf s u.addr t
    if writeWaits s e 8 || walkHeld s s.ctx.coreId s.ctx.asid u.addr then .error 0
    else .ok ((s.remember t).atomic s.ctx.requester none e 8 (fun o => some (f o))).1

/-- The updates of a command in order; what remains when one faults, with the cause. -/
def applyUpdates (s : State) : List Update → State × List Update × Nat
  | [] => (s, [], 0)
  | u :: t =>
    match updateOnce s u with
    | .error e => (if e = 0 then s else s.noteWalk s.ctx.coreId s.ctx.asid u.addr, u :: t, e)
    | .ok s1 => applyUpdates s1 t

/-- Whether the first of some updates can be made, or faults, now. -/
def updatesMove (s : State) : List Update → Bool
  | [] => true
  | u :: _ => match updateOnce s u with
    | .error e => e != 0
    | .ok _ => true

/-- The updates that the completion of a command makes: none when it names no word. -/
def completionUpdates (aw : W64) (err : Option (BitVec 6)) (fb : Bool) (idx : Nat) (bc : Option W64) : List Update :=
  if aw = 0 then []
  else { addr := aw, add := none, arrive := true, err := err, fb := fb, idx := idx } ::
    (match bc with
     | some v => [{ addr := aw + 8, add := some v, arrive := false, err := none, fb := false, idx := idx }]
     | none => [])

/-- R490: the fault of an update that cannot be made. -/
def updateFault (now : Nat) (u : Update) (code : Nat) (clu : Cluster) (eng : Nat) : EngFault :=
  { arose := now, cause := BitVec.ofNat 6 code, tval := u.addr, clu := clu, eng := eng, idx := u.idx, estw := estw code 2 }

/-! ## Queues of the engines of R204 -/

/-- The queues hold eight commands. -/
def EngQueue.full (q : EngQueue) : Bool := decide (8 ≤ q.cmds.length)

def EngQueue.push (q : EngQueue) (c : EngCmd) : EngQueue :=
  { q with cmds := q.cmds ++ [{ c with idx := q.next % 2 ^ 24 }], next := q.next + 1 }

/-- The command that an engine instruction makes of its word and registers; it takes a place in issue order, all earlier
accesses before which it releases (R192). -/
def engCmd (s : State) (w : Nat) (a b c : W64) : EngCmd :=
  { after := s.ctx.nextAcc, word := BitVec.ofNat 32 w, ra := a, rb := b, rc := c, idx := 0, elems := [], packet := 0, stripe := 0 }

/-- R278: a drawn task signs an engine command's word and register values. -/
def signCommand (s : State) (c : Cluster) (w : Nat) (regs : List W64) : State :=
  s.modCtx (fun x => (x.sign c x.nextAcc (natBytes w 4 ++ regs.flatMap leBytes)).tick)

/-- Queue fields by engine number. -/
def Engines.queue (e : Engines) (eng : Nat) : EngQueue :=
  match eng with
  | 2 => e.cut
  | 3 => e.couch
  | 4 => e.darn
  | 6 => e.foot
  | _ => e.qeng

def Engines.setQueue (e : Engines) (eng : Nat) (q : EngQueue) : Engines :=
  match eng with
  | 2 => { e with cut := q }
  | 3 => { e with couch := q }
  | 4 => { e with darn := q }
  | 6 => { e with foot := q }
  | _ => { e with qeng := q }

/-- R204: an instruction waits before issue while its engine's queue is full. -/
def whenRoom (s : State) (eng : Nat) (act : Act) : Act := if (s.ctx.eng.queue eng).full then .wait .queueFull else act

/-- Puts a command into an engine's queue (R204); a replay only signs it (R279). -/
def enterQueue (s : State) (c : Cluster) (eng w : Nat) (regs : List W64) (cmd : EngCmd) : State :=
  let s1 := signCommand s c w regs
  if s.ctx.replays then s1 else s1.modEng (fun e => e.setQueue eng ((e.queue eng).push cmd))

/-- The head of a queue leaves it. -/
def popQueue (s : State) (eng : Nat) : State :=
  s.modEng (fun e => let q := e.queue eng; e.setQueue eng { q with cmds := q.cmds.tail })

/-- An engine's queue stops with a fault. -/
def stopQueue (s : State) (eng : Nat) (f : EngFault) : State :=
  (s.modEng (fun e => e.setQueue eng { e.queue eng with run := .pending })).modCtx (·.raise f)

/-- Makes the updates of a queue; what cannot be made stays with the queue, and a fault stops it (R490). -/
def queueUpdates (s : State) (eng : Nat) (clu : Cluster) (ups : List Update) : State :=
  let (s1, rest, code) := applyUpdates s ups
  let s2 := s1.modEng (fun e => e.setQueue eng { e.queue eng with updates := rest })
  match rest with
  | [] => s2
  | u :: _ => if code = 0 then s2 else stopQueue s2 eng (updateFault s.now u code clu eng)

/-- The head command of a queue has done its work: it leaves the queue and updates its completion word. -/
def completeHead (s : State) (eng : Nat) (clu : Cluster) (ups : List Update) : State :=
  queueUpdates (popQueue s eng) eng clu ups

/-- R490: a queue that continues first makes the updates it still owes. -/
def retryUpdates (s : State) (eng : Nat) (clu : Cluster) : State := queueUpdates s eng clu (s.ctx.eng.queue eng).updates

/-- What an event comes to: it happens, or it is not due and leaves the machine as it is. -/
def happens (s : State) : Result := .next { s with verdict := .issued }
def notNow (s : State) : Result := .next { s with verdict := .waited }
/-- An event of a context; `f` says whether it has happened. -/
def eventOn (s : State) (cid : Nat) (f : State → State × Bool) : Result :=
  if (s.ctxOf cid).isNone then notNow s
  else .next (s.onCtx cid (fun t => let (u, b) := f t; { u with verdict := if b then .issued else .waited }))
def eventIf (b : Bool) (s t : State) : Result := if b then happens t else notNow s

/-! ## Quads and context areas -/

def Ctx.quadId (x : Ctx) : Nat := x.die * 28 + x.quad

def State.quad (s : State) (q : Nat) : QuadState := (tabGet q s.quads).getD .reset
def State.setQuad (s : State) (q : Nat) (v : QuadState) : State := { s with quads := tabSet q v s.quads }

/-- R249: the local address of a context's area. -/
def areaOf (s : State) (cid : Nat) : Nat :=
  bits64 (BitVec.ofNat 64 (s.getLocal (bits64 s.hub.ctxtbase 12 44 * 4096 + 8 * cid) 8)) 21 35 * 2 ^ 21

def tileOffset (n : Nat) : Nat := 0x90000 + 16896 * n

end Sys2Proof.Machine
end

