-- ==== Sys2Proof/Machine/Numbers.lean ====
section
/-! DEFINITION. Number formats (R100 to R106), exact values, and rounding (R107 to R115). A value is exact: a dyadic number,
or a number strictly between two neighbouring dyadic numbers (`sticky`), as roots, quotients and logarithms are. -/

namespace Sys2Proof.Machine

/-- An exact value: a NaN, an infinity, or a finite number of magnitude n x 2^e; with `sticky` the magnitude lies strictly
between n x 2^e and (n + 1) x 2^e. Zero has n = 0 and a sign. -/
inductive FpVal
  | nan (signaling : Bool)
  | inf (neg : Bool)
  | fin (neg : Bool) (n : Nat) (e : Int) (sticky : Bool)
  deriving DecidableEq, Repr

/-- What a conversion takes from the instruction (R115): rounding mode, flushing, the L8 overflow choice, and the 16-bit
draw of stochastic rounding (R108). -/
structure RoundEnv where
  rm : Nat
  ftz : Bool
  l8nar : Bool
  draw : Nat
  deriving DecidableEq, Repr

/-! ## Flags (Table 4.8) -/

def flagNV : BitVec 10 := 0x80
def flagDZ : BitVec 10 := 0x40
def flagOF : BitVec 10 := 0x20
def flagUF : BitVec 10 := 0x10
def flagNX : BitVec 10 := 0x08

def flagIf (b : Bool) (f : BitVec 10) : BitVec 10 := if b then f else 0

/-! ## Formats (Table 5.1), by the type codes of R92 -/

/-- Layout of a floating-point format: exponent and fraction widths, bias, and whether an all-ones exponent is special. -/
structure FpFormat where
  ebits : Nat
  fbits : Nat
  bias : Nat
  ieee : Bool
  deriving DecidableEq, Repr

def fpFormat (ty : Nat) : FpFormat :=
  match ty with
  | 0 => ⟨8, 23, 127, true⟩
  | 1 => ⟨8, 7, 127, true⟩
  | 2 => ⟨5, 10, 15, true⟩
  | 3 => ⟨4, 3, 7, false⟩
  | 4 => ⟨5, 2, 15, true⟩
  | _ => ⟨2, 1, 1, false⟩

/-- The width of a type in bits. -/
def typeBits (ty : Nat) : Nat :=
  match ty with
  | 0 | 11 | 12 => 32
  | 1 | 2 | 9 | 10 => 16
  | 5 => 4
  | _ => 8

def isFloat (ty : Nat) : Bool := ty < 7

/-- Whether a type is a signed integer. -/
def isSigned (ty : Nat) : Bool := ty == 7 || ty == 9 || ty == 11

/-- The canonical NaN of a format; E2M1 has none, and a NaN gives 0 there (Table 5.5). -/
def canonicalNaN (ty : Nat) : Nat :=
  match ty with
  | 0 => 0x7FC00000
  | 1 => 0x7FC0
  | 2 => 0x7E00
  | 3 => 0x7F
  | 4 => 0x7E
  | 5 => 0
  | _ => 0x7F

/-- The code of the largest finite magnitude. -/
def maxCode (ty : Nat) : Nat :=
  match ty with
  | 0 => 0x7F7FFFFF
  | 1 => 0x7F7F
  | 2 => 0x7BFF
  | 3 => 0x7E
  | 4 => 0x7B
  | 5 => 0x7
  | _ => 0x7E

/-- The code of positive infinity, for the formats that have one. -/
def infCode (ty : Nat) : Option Nat :=
  match ty with
  | 0 => some 0x7F800000
  | 1 => some 0x7F80
  | 2 => some 0x7C00
  | 4 => some 0x7C
  | _ => none

/-- Table 5.3: the expansions of L8 codes 0x00 to 0x7E, as FP32 words. -/
def l8Words : List Nat :=
  [0x00000000, 0x35863000, 0x3727C000, 0x3866B000, 0x38D1B000, 0x39AA6000, 0x3A103000, 0x3A4B3000,
   0x3A831000, 0x3B0B4000, 0x3B550000, 0x3B8F6000, 0x3BB44000, 0x3BD91000, 0x3BFDF000, 0x3C117000,
   0x3C23D000, 0x3C800000, 0x3CAE1000, 0x3CDC3000, 0x3D052000, 0x3D1C3000, 0x3D333000, 0x3D4A4000,
   0x3D614000, 0x3D785000, 0x3D87B000, 0x3D933000, 0x3D9EC000, 0x3DAA4000, 0x3DB5C000, 0x3DC14000] ++
  [0x3DCCD000, 0x3E033000, 0x3E200000, 0x3E3CD000, 0x3E59A000, 0x3E766000, 0x3E89A000, 0x3E980000,
   0x3EA66000, 0x3EB4D000, 0x3EC33000, 0x3ED1A000, 0x3EE00000, 0x3EEE6000, 0x3EFCD000, 0x3F05A000,
   0x3F0CD000, 0x3F140000, 0x3F1B3000, 0x3F226000, 0x3F29A000, 0x3F30D000, 0x3F380000, 0x3F3F3000,
   0x3F466000, 0x3F4DA000, 0x3F54D000, 0x3F5C0000, 0x3F633000, 0x3F6A6000, 0x3F71A000, 0x3F78D000] ++
  [0x3F800000, 0x3FA40000, 0x3FC80000, 0x3FEC0000, 0x40080000, 0x401A0000, 0x402C0000, 0x403E0000,
   0x40500000, 0x40620000, 0x40740000, 0x40830000, 0x408C0000, 0x40950000, 0x409E0000, 0x40A70000,
   0x40B00000, 0x40B90000, 0x40C20000, 0x40CB0000, 0x40D40000, 0x40DD0000, 0x40E60000, 0x40EF0000,
   0x40F80000, 0x41008000, 0x41050000, 0x41098000, 0x410E0000, 0x41128000, 0x41170000, 0x411B8000] ++
  [0x41200000, 0x417A0000, 0x41AA0000, 0x41D70000, 0x42020000, 0x42188000, 0x422F0000, 0x42458000,
   0x425C0000, 0x42728000, 0x42848000, 0x428FC000, 0x429B0000, 0x42A64000, 0x42B18000, 0x42BCC000,
   0x42C80000, 0x43548000, 0x43A28000, 0x43DAC000, 0x44098000, 0x4425A000, 0x4441C000, 0x445DE000,
   0x447A0000, 0x454B2000, 0x45ABE000, 0x45F23000, 0x461C4000, 0x4756E000, 0x47C35000]

/-- The value of a code of a format other than L8 and the integers (R100, R101). -/
def unpackFloat (f : FpFormat) (code : Nat) : FpVal :=
  let frac := code % 2 ^ f.fbits
  let ex := code / 2 ^ f.fbits % 2 ^ f.ebits
  let neg := code / 2 ^ (f.fbits + f.ebits) % 2 == 1
  if f.ieee ∧ ex = 2 ^ f.ebits - 1 then
    if frac = 0 then .inf neg else .nan (frac < 2 ^ (f.fbits - 1))
  else if f.fbits = 3 ∧ ex = 15 ∧ frac = 7 then .nan false
  else if ex = 0 then .fin neg frac (1 - (f.bias : Int) - f.fbits) false
  else .fin neg (frac + 2 ^ f.fbits) ((ex : Int) - f.bias - f.fbits) false

/-- The FP32 word of an L8 code (R105). -/
def expandL8 (code : Nat) : Nat :=
  let p := code % 128
  if p = 127 then 0x7FC00000 else l8Words.getD p 0 + (if 128 ≤ code % 256 then 2 ^ 31 else 0)

/-- R111: a subnormal input of FP32, BF16 or FP16 reads as zero of its sign under FTZ. -/
def flushes (ty : Nat) : Bool := ty < 3

/-- The exact value of a code of any type (R99 `Expand`, R101 to R105); with `ftz`, subnormal inputs are flushed (R111). -/
def unpack (ftz : Bool) (ty code : Nat) : FpVal :=
  if isFloat ty then
    if ty = 6 then unpackFloat (fpFormat 0) (expandL8 code)
    else
      let f := fpFormat ty
      let c := code % 2 ^ typeBits ty
      if ftz ∧ flushes ty ∧ c / 2 ^ f.fbits % 2 ^ f.ebits = 0 then
        .fin (c / 2 ^ (f.fbits + f.ebits) % 2 == 1) 0 0 false
      else unpackFloat f c
  else
    let c := code % 2 ^ typeBits ty
    if isSigned ty ∧ 2 ^ (typeBits ty - 1) ≤ c then .fin true (2 ^ typeBits ty - c) 0 false
    else .fin false c 0 false

/-! ## Rounding (R107, R108) -/

/-- The magnitude n x 2^e (with `sticky`) as a multiple of 2^q, rounded in the mode; and whether it was inexact. A sticky
value has q well above e. -/
def roundAt (env : RoundEnv) (neg : Bool) (n : Nat) (e : Int) (sticky : Bool) (q : Int) : Nat × Bool :=
  if q ≤ e then (n * 2 ^ (e - q).toNat, sticky)
  else
    let s := (q - e).toNat
    let lo := n / 2 ^ s
    let rem := n % 2 ^ s
    if rem = 0 ∧ !sticky then (lo, false)
    else
      let up :=
        match env.rm with
        | 0 => decide (2 ^ s < 2 * rem) || (2 * rem == 2 ^ s && (sticky || lo % 2 == 1))
        | 1 => false
        | 2 => !neg
        | 3 => neg
        | _ => decide (env.draw < rem * 65536 / 2 ^ s)
      (if up then lo + 1 else lo, true)

/-- The place of the highest bit of a nonzero magnitude. -/
def topBit (n : Nat) (e : Int) : Int := (Nat.log2 n : Int) + e

/-- The code of a magnitude m x 2^q that the format represents, without its sign. -/
def encodeMag (f : FpFormat) (m : Nat) (q : Int) : Nat :=
  if m = 0 then 0
  else
    let sh := Nat.log2 m - f.fbits
    let m' := m / 2 ^ sh
    let q' := q + sh
    if m' < 2 ^ f.fbits then m'
    else (q' + f.fbits + f.bias).toNat * 2 ^ f.fbits + (m' - 2 ^ f.fbits)

/-- The magnitude of a finite code as m x 2^q. -/
def codeMag (f : FpFormat) (code : Nat) : Nat × Int :=
  match unpackFloat f code with
  | .fin _ n e _ => (n, e)
  | _ => (0, 0)

/-- Whether m x 2^p > n x 2^q. -/
def magGt (m : Nat) (p : Int) (n : Nat) (q : Int) : Bool :=
  let z := min p q
  decide (n * 2 ^ (q - z).toNat < m * 2 ^ (p - z).toNat)

def signBit (ty : Nat) (neg : Bool) : Nat := if neg then 2 ^ (typeBits ty - 1) else 0

/-- Table 5.4. -/
def overflowCode (env : RoundEnv) (ty : Nat) (neg : Bool) : Nat :=
  signBit ty neg +
    (match infCode ty with
     | none => maxCode ty
     | some c => if env.rm = 1 ∨ (env.rm = 2 ∧ neg = true) ∨ (env.rm = 3 ∧ neg = false) then maxCode ty else c)

/-- `RoundTo` into a floating-point format other than L8 (R107, R110, R111, R113): the code, and the flags. Tininess is
detected after rounding, of the rounded result (log 8). -/
def roundFloat (env : RoundEnv) (ty : Nat) (x : FpVal) : Nat × BitVec 10 :=
  let f := fpFormat ty
  match x with
  | .nan sig => (canonicalNaN ty, flagIf (sig || ty == 5) flagNV)
  | .inf neg =>
    match infCode ty with
    | some c => (signBit ty neg + c, 0)
    | none => (signBit ty neg + maxCode ty, flagOF ||| flagNX)
  | .fin neg n e sticky =>
    if n = 0 then (signBit ty neg, 0)
    else
      let emin : Int := 1 - f.bias
      let top := topBit n e
      let q := max top emin - f.fbits
      let (m, inexact) := roundAt env neg n e sticky q
      let tiny := decide (top < emin) && decide (m < 2 ^ f.fbits)
      let (mm, mq) := codeMag f (maxCode ty)
      if magGt m q mm mq then (overflowCode env ty neg, flagOF ||| flagNX)
      else if tiny && env.ftz && flushes ty then (signBit ty neg, flagUF ||| flagNX)
      else (signBit ty neg + encodeMag f m q, flagIf inexact flagNX ||| flagIf (inexact && tiny) flagUF)

/-- The expansion of an L8 code as m x 2^q. -/
def l8Mag (code : Nat) : Nat × Int := codeMag (fpFormat 0) (l8Words.getD code 0)

/-- The greatest code in `lo`.. below `lo + n` whose expansion does not exceed the magnitude. -/
def l8Floor (n : Nat) (e : Int) : Nat → Nat
  | 0 => 0
  | c + 1 => let (m, q) := l8Mag (c + 1); if magGt m q n e then l8Floor n e c else c + 1

/-- A conversion to L8 (R112). -/
def roundL8 (env : RoundEnv) (x : FpVal) : Nat × BitVec 10 :=
  match x with
  | .nan sig => (0x7F, flagIf sig flagNV)
  | .inf neg => (if env.l8nar then 0x7F else signBit 6 neg + 0x7E, flagOF ||| flagNX)
  | .fin neg n e _ =>
    if n = 0 then (signBit 6 neg, 0)
    else
      let (mm, mq) := l8Mag 0x7E
      if magGt n e mm mq then (if env.l8nar then 0x7F else signBit 6 neg + 0x7E, flagOF ||| flagNX)
      else
        let lo := l8Floor n e 0x7E
        let (lm, lq) := l8Mag lo
        let (hm, hq) := l8Mag (lo + 1)
        let z := min e (min lq hq)
        let v := n * 2 ^ (e - z).toNat
        let a := lm * 2 ^ (lq - z).toNat
        let b := hm * 2 ^ (hq - z).toNat
        if v = a then (signBit 6 neg + lo, 0)
        else
          let up :=
            match env.rm with
            | 0 => decide (b - v < v - a) || (b - v == v - a && lo % 2 == 1)
            | 1 => false
            | 2 => !neg
            | 3 => neg
            | _ => decide (env.draw < (v - a) * 65536 / (b - a))
          (signBit 6 neg + (if up then lo + 1 else lo), flagNX ||| flagIf (lo == 0) flagUF)

/-- Clamps an integer to the range of an integer type, as a code (R110 `Sat`). -/
def satInt (ty : Nat) (neg : Bool) (n : Nat) : Nat × Bool :=
  let w := typeBits ty
  if isSigned ty then
    if neg then (if n ≤ 2 ^ (w - 1) then ((2 ^ w - n) % 2 ^ w, false) else (2 ^ (w - 1), true))
    else (if n < 2 ^ (w - 1) then (n, false) else (2 ^ (w - 1) - 1, true))
  else if neg ∧ 0 < n then (0, true)
  else (if n < 2 ^ w then (n, false) else (2 ^ w - 1, true))

/-- Float to integer (Table 5.5): out of range gives `Sat` and NV without NX; a NaN gives 0 and NV. -/
def roundInt (env : RoundEnv) (ty : Nat) (x : FpVal) : Nat × BitVec 10 :=
  match x with
  | .nan _ => (0, flagNV)
  | .inf neg => ((satInt ty neg (2 ^ 64)).1, flagNV)
  | .fin neg n e sticky =>
    let (m, inexact) := roundAt env neg n e sticky 0
    let (c, out) := satInt ty neg m
    (c, if out then flagNV else flagIf inexact flagNX)

/-- Table 21.3: how a pair of formats converts. -/
inductive ConvClass | same | exact | toFloat | toL8 | toInt | intToInt
  deriving DecidableEq, Repr

/-- Table 5.6. -/
def exactTargets (sty : Nat) : List Nat :=
  match sty with
  | 5 => [3, 4, 2, 1, 0]
  | 3 => [2, 1, 0]
  | 4 => [2, 1, 0]
  | 2 => [0]
  | 1 => [0]
  | 6 => [0]
  | 7 => [9, 11, 2, 1, 0]
  | 8 => [10, 12, 9, 11, 2, 1, 0]
  | 9 => [11, 0]
  | 10 => [12, 11, 0]
  | _ => []

/-- The class of a conversion (R422). Integer widenings of Table 5.6 convert by either rule alike. -/
def convClass (dty sty : Nat) : ConvClass :=
  if dty = sty then .same
  else if !isFloat sty && !isFloat dty then .intToInt
  else if (exactTargets sty).contains dty then .exact
  else if dty = 6 then .toL8
  else if isFloat dty then .toFloat
  else .toInt

/-- Whether a conversion names a rounding, and so steps the LFSR under stochastic rounding (R109, R414). -/
def convRounds (dty sty : Nat) : Bool :=
  match convClass dty sty with
  | .same => false
  | .exact => false
  | .intToInt => false
  | _ => true

/-- A conversion of one element (R113, R114, R422): the destination code and the flags. -/
def convert (env : RoundEnv) (dty sty code : Nat) : Nat × BitVec 10 :=
  match convClass dty sty with
  | .same => (code % 2 ^ typeBits sty, 0)
  | .exact => ((roundFloat { env with rm := 0, ftz := false } dty (unpack false sty code)).1, 0)
  | .toFloat => roundFloat env dty (unpack env.ftz sty code)
  | .toL8 => roundL8 env (unpack env.ftz sty code)
  | .toInt => roundInt env dty (unpack env.ftz sty code)
  | .intToInt =>
    match unpack false sty code with
    | .fin neg n _ _ => ((satInt dty neg n).1, 0)
    | _ => (0, 0)

/-! ## Exact arithmetic -/

/-- The sum of two finite dyadic values; a zero sum of values of opposite sign takes the sign `zneg` (R414). -/
def addFin (zneg : Bool) (an : Bool) (a : Nat) (ae : Int) (bn : Bool) (b : Nat) (be : Int) : FpVal :=
  let z := min ae be
  let x := a * 2 ^ (ae - z).toNat
  let y := b * 2 ^ (be - z).toNat
  if an = bn then .fin an (x + y) z false
  else if x = y then .fin zneg 0 0 false
  else if x < y then .fin bn (y - x) z false
  else .fin an (x - y) z false

def FpVal.isNan : FpVal → Bool
  | .nan _ => true
  | _ => false

def FpVal.isSnan : FpVal → Bool
  | .nan s => s
  | _ => false

def FpVal.negate : FpVal → FpVal
  | .inf n => .inf (!n)
  | .fin n m e s => .fin (!n) m e s
  | x => x

/-- x + y, with the flags of an invalid operation or a signaling input (R103, R424). -/
def addVal (zneg : Bool) (x y : FpVal) : FpVal × BitVec 10 :=
  let nv := flagIf (x.isSnan || y.isSnan) flagNV
  match x, y with
  | .nan _, _ => (.nan false, nv)
  | _, .nan _ => (.nan false, nv)
  | .inf a, .inf b => if a = b then (.inf a, 0) else (.nan false, flagNV)
  | .inf a, _ => (.inf a, 0)
  | _, .inf b => (.inf b, 0)
  | .fin an a ae _, .fin bn b be _ => (addFin zneg an a ae bn b be, 0)

/-- x times y (R434). -/
def mulVal (x y : FpVal) : FpVal × BitVec 10 :=
  let nv := flagIf (x.isSnan || y.isSnan) flagNV
  match x, y with
  | .nan _, _ => (.nan false, nv)
  | _, .nan _ => (.nan false, nv)
  | .inf a, .inf b => (.inf (a != b), 0)
  | .inf a, .fin bn b _ _ => if b = 0 then (.nan false, flagNV) else (.inf (a != bn), 0)
  | .fin an a _ _, .inf b => if a = 0 then (.nan false, flagNV) else (.inf (an != b), 0)
  | .fin an a ae _, .fin bn b be _ => (.fin (an != bn) (a * b) (ae + be) false, 0)

/-- x times y + z with one rounding to come (R431). -/
def fmaVal (zneg : Bool) (x y z : FpVal) : FpVal × BitVec 10 :=
  let (p, f) := mulVal x y
  match p, z with
  | .nan _, _ => (.nan false, f ||| flagIf z.isSnan flagNV)
  | _, _ =>
    let (r, g) := addVal zneg p z
    (r, f ||| g)

/-- x / y (R427): 96 quotient bits beyond the divisor's, the rest sticky. -/
def divVal (x y : FpVal) : FpVal × BitVec 10 :=
  let nv := flagIf (x.isSnan || y.isSnan) flagNV
  match x, y with
  | .nan _, _ => (.nan false, nv)
  | _, .nan _ => (.nan false, nv)
  | .inf _, .inf _ => (.nan false, flagNV)
  | .inf a, .fin bn _ _ _ => (.inf (a != bn), 0)
  | .fin an _ _ _, .inf b => (.fin (an != b) 0 0 false, 0)
  | .fin an a ae _, .fin bn b be _ =>
    if b = 0 then (if a = 0 then (.nan false, flagNV) else (.inf (an != bn), flagDZ))
    else if a = 0 then (.fin (an != bn) 0 0 false, 0)
    else (.fin (an != bn) (a * 2 ^ 96 / b) (ae - be - 96) (a * 2 ^ 96 % b != 0), 0)

/-- The integer square root, by `k` binary digits from the highest: the greatest r with r x r at most n. -/
def isqrt (n : Nat) : Nat → Nat
  | 0 => 0
  | k + 1 =>
    let r := isqrt (n / 4) k
    if (2 * r + 1) * (2 * r + 1) ≤ n then 2 * r + 1 else 2 * r

/-- The square root (R438, Table 21.1). -/
def sqrtVal (x : FpVal) : FpVal × BitVec 10 :=
  match x with
  | .nan s => (.nan false, flagIf s flagNV)
  | .inf neg => if neg then (.nan false, flagNV) else (.inf false, 0)
  | .fin neg n e _ =>
    if n = 0 then (.fin neg 0 0 false, 0)
    else if neg then (.nan false, flagNV)
    else
      let odd := e % 2 != 0
      let m := (if odd then 2 * n else n) * 2 ^ 80
      let e' := (if odd then e - 1 else e) - 80
      let r := isqrt m 64
      (.fin false r (e' / 2) (r * r != m), 0)

/-- 1 / x (R436, Table 21.1). -/
def rcpVal (x : FpVal) : FpVal × BitVec 10 := divVal (.fin false 1 0 false) x

/-! ## Powers and logarithms to base two (R428, R430), by series in fixed point with 320 fraction bits (log 9) -/

def fixBits : Nat := 320

/-- The floor of ln 2 x 2^320. -/
def ln2Fix : Nat :=
  0xB17217F7D1CF79ABC9E3B39803F2F6AF40F343267298B62D8A0D175B8BAAFA2BE7B876206DEBAC98

/-- The sum of y^k / k! for k from `i` on, `n` terms; `t` is the term before. -/
def expSeries (y t i : Nat) : Nat → Nat
  | 0 => 0
  | n + 1 =>
    let u := t * y / 2 ^ fixBits / i
    u + expSeries y u (i + 1) n

/-- 2^f for a fraction f in fixed point. -/
def exp2Fix (f : Nat) : Nat := 2 ^ fixBits + expSeries (f * ln2Fix / 2 ^ fixBits) (2 ^ fixBits) 1 80

/-- The sum of z^k / k over odd k from `i` on, `n` terms; `p` is the next odd power of z. -/
def atanhSeries (z2 p i : Nat) : Nat → Nat
  | 0 => 0
  | n + 1 => p / i + atanhSeries z2 (p * z2 / 2 ^ fixBits) (i + 2) n

/-- log2 of a significand m / 2^k in [1, 2), in fixed point. -/
def log2Fix (m k : Nat) : Nat :=
  let z := (m - 2 ^ k) * 2 ^ fixBits / (m + 2 ^ k)
  2 * atanhSeries (z * z / 2 ^ fixBits) z 1 110 * 2 ^ fixBits / ln2Fix

/-- 2^x (R428, Table 21.1): exact at integers. -/
def exp2Val (x : FpVal) : FpVal × BitVec 10 :=
  match x with
  | .nan s => (.nan false, flagIf s flagNV)
  | .inf neg => (if neg then .fin false 0 0 false else .inf false, 0)
  | .fin neg n e _ =>
    if n = 0 then (.fin false 1 0 false, 0)
    else if 12 < topBit n e then (if neg then .fin false 1 (-5000) true else .fin false 1 5000 false, 0)
    else if 0 ≤ e then
      (.fin false 1 (if neg then -((n * 2 ^ e.toNat : Nat) : Int) else ((n * 2 ^ e.toNat : Nat) : Int)) false, 0)
    else
      let s := (-e).toNat
      let whole := n / 2 ^ s
      let frac := n % 2 ^ s
      if frac = 0 then (.fin false 1 (if neg then -(whole : Int) else whole) false, 0)
      else if neg then
        (.fin false (exp2Fix ((2 ^ s - frac) * 2 ^ fixBits / 2 ^ s)) (-(whole : Int) - 1 - fixBits) true, 0)
      else (.fin false (exp2Fix (frac * 2 ^ fixBits / 2 ^ s)) ((whole : Int) - fixBits) true, 0)

/-- log2 x (R430, Table 21.1): exact at powers of two. -/
def log2Val (x : FpVal) : FpVal × BitVec 10 :=
  match x with
  | .nan s => (.nan false, flagIf s flagNV)
  | .inf neg => if neg then (.nan false, flagNV) else (.inf false, 0)
  | .fin neg n e _ =>
    if n = 0 then (.inf true, flagDZ)
    else if neg then (.nan false, flagNV)
    else
      let k := Nat.log2 n
      let top := (k : Int) + e
      if n = 2 ^ k then (.fin (top < 0) top.natAbs 0 false, 0)
      else
        let f := log2Fix n k
        if 0 ≤ top then (.fin false (top.toNat * 2 ^ fixBits + f) (-fixBits) true, 0)
        else (.fin true ((-top).toNat * 2 ^ fixBits - f - 1) (-fixBits) true, 0)

/-! ## Comparison -/

/-- x < y on values that are no NaN; the zeros are equal. -/
def ltVal (x y : FpVal) : Bool :=
  match x, y with
  | .inf a, .inf b => a && !b
  | .inf a, .fin _ _ _ _ => a
  | .fin _ _ _ _, .inf b => !b
  | .fin an a ae _, .fin bn b be _ =>
    if a = 0 ∧ b = 0 then false
    else if an = true ∧ a ≠ 0 ∧ (bn = false ∨ b = 0) then true
    else if (an = false ∨ a = 0) ∧ bn = true ∧ b ≠ 0 then false
    else if an = true ∧ bn = true ∧ a ≠ 0 ∧ b ≠ 0 then magGt a ae b be
    else magGt b be a ae
  | _, _ => false

def eqVal (x y : FpVal) : Bool := !x.isNan && !y.isNan && !ltVal x y && !ltVal y x

/-! ## The LFSR (R108) -/

def lfsrNext (v : W32) : W32 := if v.getLsbD 0 then (v >>> 1) ^^^ 0x80200003 else v >>> 1

/-! ## Galois field and check words -/

/-- The product of two bytes in GF(2^8) modulo 0x11D (R99), by the low `k` bits of `b`. -/
def gfMulBits (a b : Nat) : Nat → Nat
  | 0 => 0
  | k + 1 =>
    let a2 := if 128 ≤ a then (2 * a) ^^^ 0x11D else 2 * a
    (if b % 2 = 1 then a else 0) ^^^ gfMulBits a2 (b / 2) k

def gfMul (a b : Byte) : Byte := BitVec.ofNat 8 (gfMulBits a.toNat b.toNat 8)

/-- One byte of the reflected CRC-32C, bit by bit (R171). -/
def crc32cBits (crc : Nat) : Nat → Nat
  | 0 => crc
  | k + 1 => crc32cBits (if crc % 2 = 1 then (crc / 2) ^^^ 0x82F63B78 else crc / 2) k

def crc32cStep (crc : Nat) (b : Byte) : Nat := crc32cBits (crc ^^^ b.toNat) 8

/-- CRC-32C of bytes: initial value all ones, final inversion (R171). -/
def crc32c (bs : List Byte) : W32 := ~~~(BitVec.ofNat 32 (bs.foldl crc32cStep 0xFFFFFFFF))

end Sys2Proof.Machine
end

