-- ==== Sys2Proof/Machine/Flags.lean ====
section
/-! DEFINITION. How V instructions compute lanes that round (R83, R108, R109, R116, R414): the rounding environment of the
context, the LFSR steps in lane order, and the flags of all active lanes as one value. -/

namespace Sys2Proof.Machine

/-- FCSR's mode and choices at the issue cycle (R115). -/
def roundEnv (s : State) : RoundEnv :=
  { rm := s.ctx.sr.fcsr.toNat % 8, ftz := s.ctx.sr.fcsr.getLsbD 8, l8nar := s.ctx.sr.fcsr.getLsbD 9, draw := 0 }

/-- What the lanes of an instruction have come to: results of the lanes done, lowest first, flags, and the LFSR. -/
structure LaneAcc where
  out : List W32
  flags : BitVec 10
  lfsr : W32
  deriving DecidableEq, Repr

/-- One element: under stochastic rounding an active lane that rounds steps the LFSR and draws its low 16 bits (R108,
R109). -/
def laneStep (env : RoundEnv) (steps : Bool) (on : Nat → Bool) (f : RoundEnv → Nat → W32 × BitVec 10)
    (acc : LaneAcc) (i : Nat) : LaneAcc :=
  if on i then
    let l := if steps ∧ env.rm = 4 then lfsrNext acc.lfsr else acc.lfsr
    let (v, g) := f { env with draw := l.toNat % 65536 } i
    { out := acc.out ++ [v], flags := acc.flags ||| g, lfsr := l }
  else { acc with out := acc.out ++ [0] }

/-- All 64 lanes in ascending order (R109). -/
def lanes64 (env : RoundEnv) (steps : Bool) (on : Nat → Bool) (lfsr : W32) (f : RoundEnv → Nat → W32 × BitVec 10) :
    LaneAcc :=
  (List.range 64).foldl (laneStep env steps on f) { out := [], flags := 0, lfsr := lfsr }

/-- The flags land as one OR (R116), the LFSR with the next cycle (R109). -/
def landFlags (s : State) (lat : Nat) (flags : BitVec 10) (lfsr : W32) : State :=
  let t := if flags = 0 then s else s.writeAt lat (.fcsrOr flags)
  if lfsr = curLfsr s then t else t.writeAt 1 (.lfsrStep lfsr)

/-- Computes the lanes of a floating-point instruction and schedules its flags and LFSR steps. -/
def fpLanes (s : State) (m steps : Bool) (f : RoundEnv → Nat → W32 × BitVec 10) : LaneAcc :=
  lanes64 (roundEnv s) steps (active s m) (curLfsr s) f

/-- Writes the lanes of a floating-point result with its flags (R414). -/
def writeFp (s : State) (lat : Nat) (d : BitVec 7) (m steps : Bool) (f : RoundEnv → Nat → W32 × BitVec 10) : State :=
  let r := fpLanes s m steps f
  landFlags (writeLanes s lat d m (fun i => r.out.getD i 0)) lat r.flags r.lfsr

/-- An FP32 input after flushing (R111). -/
def fpIn (env : RoundEnv) (w : W32) : FpVal := unpack env.ftz 0 w.toNat

/-- A result rounded to FP32 with the flags of its computation. -/
def fpOut (env : RoundEnv) (r : FpVal × BitVec 10) : W32 × BitVec 10 :=
  let (c, g) := roundFloat env 0 r.1
  (BitVec.ofNat 32 c, r.2 ||| g)

/-- The sign of an exact zero sum of values of opposite sign (R414): negative only when rounding down. -/
def zeroNeg (env : RoundEnv) : Bool := env.rm == 3

def fpAdd (env : RoundEnv) (x y : W32) : W32 × BitVec 10 := fpOut env (addVal (zeroNeg env) (fpIn env x) (fpIn env y))
def fpSub (env : RoundEnv) (x y : W32) : W32 × BitVec 10 :=
  fpOut env (addVal (zeroNeg env) (fpIn env x) (fpIn env y).negate)
def fpMul (env : RoundEnv) (x y : W32) : W32 × BitVec 10 := fpOut env (mulVal (fpIn env x) (fpIn env y))
def fpDiv (env : RoundEnv) (x y : W32) : W32 × BitVec 10 := fpOut env (divVal (fpIn env x) (fpIn env y))
def fpFma (env : RoundEnv) (x y z : W32) : W32 × BitVec 10 :=
  fpOut env (fmaVal (zeroNeg env) (fpIn env x) (fpIn env y) (fpIn env z))
def fpFnma (env : RoundEnv) (x y z : W32) : W32 × BitVec 10 :=
  fpOut env (fmaVal (zeroNeg env) (fpIn env x).negate (fpIn env y) (fpIn env z))

/-- The input of a function that copies it, after FTZ. -/
def flushed (env : RoundEnv) (w : W32) : W32 :=
  if env.ftz ∧ w.toNat / 2 ^ 23 % 256 = 0 then w &&& 0x80000000 else w

/-- VFMAX and VFMIN (R432, R433): `greater` picks the greater operand; among zeros +0 is the greater. -/
def fpPick (greater : Bool) (env : RoundEnv) (x y : W32) : W32 × BitVec 10 :=
  let a := fpIn env x
  let b := fpIn env y
  let nv := flagIf (a.isSnan || b.isSnan) flagNV
  if a.isNan then (if b.isNan then (0x7FC00000, nv) else (flushed env y, nv))
  else if b.isNan then (flushed env x, nv)
  else
    let less := ltVal a b || (!ltVal b a && x.getLsbD 31 && !y.getLsbD 31)
    (if less == greater then flushed env y else flushed env x, nv)

/-- VFABS (R423). -/
def fpAbs (env : RoundEnv) (x : W32) : W32 × BitVec 10 :=
  let a := fpIn env x
  if a.isNan then (0x7FC00000, flagIf a.isSnan flagNV) else (flushed env x &&& 0x7FFFFFFF, 0)

/-- VFCLASS (R425), of the word as stored. -/
def fpClass (x : W32) : W32 :=
  let e := x.toNat / 2 ^ 23 % 256
  let f := x.toNat % 2 ^ 23
  let neg := x.getLsbD 31
  if e = 255 then (if f = 0 then (if neg then 1 else 128) else if f < 2 ^ 22 then 256 else 512)
  else if e = 0 then (if f = 0 then (if neg then 8 else 16) else if neg then 4 else 32)
  else if neg then 2 else 64

/-- VFCMP (R426): the result and NV. -/
def fpCompare (env : RoundEnv) (cond : Nat) (x y : W32) : Bool × BitVec 10 :=
  let a := fpIn env x
  let b := fpIn env y
  let un := a.isNan || b.isNan
  let sn := a.isSnan || b.isSnan
  match cond with
  | 0 => (eqVal a b, flagIf sn flagNV)
  | 1 => (!eqVal a b, flagIf sn flagNV)
  | 2 => (!un && ltVal a b, flagIf un flagNV)
  | 3 => (!un && !ltVal b a, flagIf un flagNV)
  | 4 => (!un && ltVal b a, flagIf un flagNV)
  | 5 => (!un && !ltVal a b, flagIf un flagNV)
  | _ => (un, flagIf sn flagNV)

end Sys2Proof.Machine
end

