-- ==== Sys2Proof/Machine/Array.lean ====
section
/-! DEFINITION. The Filet array: leases (R117 to R120), operand slots (R121 to R125), format words (R126 to R128), tile commands at
issue and at execution (R129 to R141, R311 to R320, R343, R353, R354, R358, R363, R364, R394, R398). -/

namespace Sys2Proof.Machine

/-! ## The quad of the focused context -/

def myQuad (s : State) : QuadState := s.quad s.ctx.quadId
def State.setMyQuad (s : State) (q : QuadState) : State := s.setQuad s.ctx.quadId q

/-- A context's place in the cyclic order of R118. -/
def Ctx.place (x : Ctx) : Nat := x.core * 2 + x.slot

/-! ## Leases -/

/-- The pending request that comes first in cyclic order after the last holder. -/
def nextRequest (q : QuadState) : Option LeaseReq :=
  ((List.range 8).map (fun i => (q.last + 1 + i) % 8)).findSome? (fun p => q.reqs.find? (fun r => r.pos == p))

/-- Grants a request (R117): the context's flag is set in the grant cycle, behind every cluster operation (R341). -/
def State.grant (s : State) (quad : Nat) (r : LeaseReq) : State :=
  let q := s.quad quad
  let l : Lease := { cid := r.cid, left := q.leaseMax, next := 0, cw := r.cw }
  let q1 := { q with lease := some l, last := r.pos, reqs := q.reqs.filter (fun t => t.cid != r.cid) }
  (s.setQuad quad q1).onCtx r.cid (fun t => t.writeAt 1 (.flagGrant r.flag))

/-- What the end of a cycle decides of a quad's lease (R117, R118, R354): one whose run is used up, or that its holder gives up, ends; a free
array grants the first request in cyclic order, also one that its context withdraws in this cycle, and such a lease ends at once. `n` bounds
the grants. -/
def settleLease (quad : Nat) : Nat → State → State
  | 0, s => s
  | n + 1, s =>
    let q := s.quad quad
    match q.lease with
    | some l =>
      if l.left = 0 ∨ q.freed.contains l.cid then settleLease quad n (s.setQuad quad { q with lease := none }) else s
    | none =>
      match nextRequest q with
      | some r => settleLease quad n (s.grant quad r)
      | none => s

/-- The end of a cycle for a quad's lease; a request that is withdrawn and was not granted is gone. -/
def State.settleQuad (s : State) (quad : Nat) : State :=
  let q0 := s.quad quad
  if q0.freed.isEmpty && q0.reqs.isEmpty && !q0.lease.any (fun l => l.left == 0) then s
  else
    let t := settleLease quad (2 * q0.reqs.length + 3) s
    let q := t.quad quad
    t.setQuad quad { q with reqs := q.reqs.filter (fun r => !q.freed.contains r.cid), freed := [] }

/-- R119, R354: a context gives up its lease or its request in this cycle. -/
def State.giveUpLease (s : State) (quad cid : Nat) : State :=
  let q := s.quad quad
  if q.lease.any (fun l => l.cid == cid) || q.reqs.any (fun r => r.cid == cid) then s.setQuad quad { q with freed := cid :: q.freed } else s

/-- The lease that the focused context holds. -/
def myLease (s : State) : Option Lease := (myQuad s).lease.filter (fun l => l.cid == s.ctx.cid)

/-- LEASE (R353): the request; the array grants at the end of the cycle. -/
def execLease (st : Bool) (ma : BitVec 5) (f : BitVec 3) (s : State) : Result :=
  issue (.lease st ma f) (fun s c =>
    let w := rd s c ma
    let q := myQuad s
    if (myLease s).isSome || q.reqs.any (fun r => r.cid == s.ctx.cid) then illegalWord (.lease st ma f)
    else if w.toNat % 8 ≠ 0 then .trap 0x05 w
    else
      let r : LeaseReq := { cid := s.ctx.cid, pos := s.ctx.place, flag := f.toNat, cw := w }
      .go (s.setMyQuad { q with reqs := q.reqs ++ [r] })) s

/-- LFREE (R117, R354). -/
def execLfree (st : Bool) (s : State) : Result :=
  issue (.lfree st) (fun s _ => .go (s.giveUpLease s.ctx.quadId s.ctx.cid)) s

/-! ## Operand slots -/

/-- The physical slot that a name maps to (R122). -/
def slotOfName (e : Engines) (n : Nat) : Option Nat := tabGet n e.names

/-- Whether a slot is FREE. -/
def OpSlot.free (o : OpSlot) : Bool := o.holder.isNone && !o.draining

/-- The bytes of a slot as SCLAIM leaves them (R123): the 64 scale bytes are 0x7F. -/
def claimedBytes : Memory := Memory.empty.write 6144 (List.replicate 64 0x7F)

/-- SCLAIM (R123, R394). -/
def execSclaim (st : Bool) (n : BitVec 6) (s : State) : Result :=
  issue (.sclaim st n) (fun s _ =>
    let q := myQuad s
    match (List.range 48).find? (fun p => (vget q.slots p .reset).free) with
    | none => .trap 0x12 (n.setWidth 64)
    | some p =>
      if 48 ≤ n.toNat || (slotOfName s.ctx.eng n.toNat).isSome then .trap 0x12 (n.setWidth 64)
      else
        let o : OpSlot := { OpSlot.reset with holder := some s.ctx.cid, bytes := claimedBytes }
        .go ((s.setMyQuad { q with slots := vset q.slots p o }).modEng
          (fun e => { e with names := tabSet n.toNat p e.names }))) s

/-- The physical slots that a tile command names. -/
def TileOp.slots : TileOp → List Nat
  | .mma a b _ _ => [a, b]
  | _ => []

/-- Whether a context's held tile commands or unfinished shuttle commands name a physical slot. -/
def Engines.namesPhys (e : Engines) (p : Nat) : Bool :=
  e.held.any (fun c => c.op.slots.contains p) || (e.sh0.cmds ++ e.sh1.cmds).any (fun c => c.phys == some p && !c.finished)

/-- Whether some tile command still to execute, or a fill, names a physical slot. A saved context's names lie in its area (R248). -/
def slotNamed (s : State) (quad p : Nat) : Bool :=
  (s.quad quad).queue.any (fun c => c.op.slots.contains p) ||
    (allCtxs s).any (fun x => x.resident && x.quadId == quad && x.eng.namesPhys p)

/-- R398: slots that are being released become FREE once nothing names them and their fills are complete. -/
def State.settleSlots (s : State) (quad : Nat) : State :=
  let q := s.quad quad
  let slots := (List.range 48).foldl (fun v p =>
    let o := vget v p .reset
    if o.draining && o.fills.isEmpty && !slotNamed s quad p then vset v p .reset else v) q.slots
  s.setQuad quad { q with slots := slots }

/-- SFREE (R123, R398). -/
def execSfree (st : Bool) (n : BitVec 6) (s : State) : Result :=
  issue (.sfree st n) (fun s _ =>
    match slotOfName s.ctx.eng n.toNat with
    | none => .trap 0x12 (n.setWidth 64)
    | some p =>
      let q := myQuad s
      let o := vget q.slots p .reset
      let s1 := (s.setMyQuad { q with slots := vset q.slots p { o with draining := true } }).modEng
        (fun e => { e with names := tabDel n.toNat e.names })
      .go (s1.settleSlots s.ctx.quadId)) s

/-! ## Format words -/

/-- Elements per row of an operand type (Table 6.3). -/
def rowElems (ty : Nat) : Nat :=
  match ty with
  | 1 | 2 => 48
  | 5 => 192
  | _ => 96

/-- R128. -/
def badFormat (w : W64) : Bool :=
  let a := bits64 w 16 4
  let b := bits64 w 20 4
  bits64 w 40 24 != 0 || bits64 w 24 8 != 0 || bits64 w 14 2 != 0 || bits64 w 0 10 != 0 ||
  a == 0 || decide (8 < a) || b == 0 || decide (8 < b) || typeBits a != typeBits b || isFloat a != isFloat b ||
  decide (rowElems a < bits64 w 32 8)

/-- FWQ (R126, R343). -/
def execFwq (st : Bool) (ma : BitVec 5) (s : State) : Result :=
  issue (.fwq st ma) (fun s c =>
    let w := rd s c ma
    if decide (16 ≤ s.ctx.eng.formats.length) || badFormat w then .trap 0x01 w
    else .go (s.modEng (fun e => { e with formats := e.formats ++ [(w, none)] }))) s

/-- The word that the MMA at place `p` has bound leaves the queue. -/
def popFormat (p : Nat) (fs : List (W64 × Option Nat)) : List (W64 × Option Nat) :=
  match fs.find? (fun f => f.2 == some p) with
  | some f => fs.erase f
  | none => fs

/-! ## Acceptance (R311, R129, R134) -/

/-- ACCOWNED (R134): its TVAL when the tile is another context's or the issuer's values are saved. -/
def ownedTval (s : State) (n : Nat) : Option W64 :=
  let other := match (vget (myQuad s).tiles n .reset).tag with
    | some c => c != s.ctx.cid
    | none => false
  let saved := s.ctx.eng.asaved.getLsbD n
  if other || saved then some (BitVec.ofNat 64 (n + 256 * other.toNat + 512 * saved.toNat)) else none

/-- Tags a tile to the focused context. -/
def State.tagTile (s : State) (n : Nat) (tag : Option Nat) : State :=
  let q := myQuad s
  s.setMyQuad { q with tiles := vset q.tiles n { vget q.tiles n .reset with tag := tag } }

/-- Whether commands of the focused context wait behind those that the array holds for it (R139). -/
def behindHeld (s : State) : Bool := s.ctx.eng.arrayRun != .run || !s.ctx.eng.held.isEmpty

/-- A command of the focused context enters the queue, or the held ones. -/
def State.queueTile (s : State) (cmd : TileCmd) : State :=
  if behindHeld s then s.modEng (fun e => { e with held := e.held ++ [cmd] })
  else
    let q := myQuad s
    s.setMyQuad { q with queue := q.queue ++ [cmd] }

/-- R129: a command is accepted under the lease `l`: it takes the next number, and a counted command brings the run
nearer its end, which comes at the end of the cycle (R118). -/
def State.accept (s : State) (l : Lease) (counted : Bool) (tile : Nat) (op : TileOp) : State :=
  let cmd : TileCmd :=
    { cid := s.ctx.cid, num := l.next, tile := tile, cw := l.cw, issued := s.now, after := s.ctx.nextAcc, retry := false,
      op := op }
  let left := if counted then l.left - 1 else l.left
  let q := myQuad s
  ((s.setMyQuad { q with lease := some { l with left := left, next := l.next + 1 } }).modCtx Ctx.tick).queueTile cmd

/-- R278: a tile command is a command of engine 5 (Table 12.2). -/
def signTile (s : State) (c : Cluster) (i : Instr) (regs : List W64) : State := signCommand s c (encode i) regs

/-- A tile command that needs the lease: NOLEASE, its other faults, then acceptance. -/
def tileCommand (i : Instr) (s : State) (act : Lease → Act) : Act :=
  match myLease s with
  | none => .trap 0x13 (BitVec.ofNat 64 (encode i))
  | some l => act l

/-- MMA (R130, R363). -/
def execMma (st : Bool) (n : BitVec 4) (xa xb : BitVec 6) (z : Bool) (s : State) : Result :=
  issue (.mma st n xa xb z) (fun s c =>
    tileCommand (.mma st n xa xb z) s (fun l =>
      match slotOfName s.ctx.eng xa.toNat, slotOfName s.ctx.eng xb.toNat with
      | none, _ => .trap 0x12 (xa.setWidth 64)
      | _, none => .trap 0x12 (xb.setWidth 64)
      | some a, some b =>
        match ownedTval s n.toNat with
        | some v => .trap 0x11 v
        | none =>
          let s0 := signTile s c (.mma st n xa xb z) []
          let (f, fs) := bindFormat s0.ctx.nextAcc s0.ctx.eng.formats
          let s1 := s0.modEng (fun e => { e with formats := fs })
          .go ((s1.tagTile n.toNat (some s.ctx.cid)).accept l true n.toNat (.mma a b z f)))) s

/-- ACCZ (R314). -/
def execAccz (st : Bool) (n : BitVec 4) (s : State) : Result :=
  issue (.accz st n) (fun s c =>
    tileCommand (.accz st n) s (fun l =>
      match ownedTval s n.toNat with
      | some v => .trap 0x11 v
      | none =>
        .go (((signTile s c (.accz st n) []).tagTile n.toNat (some s.ctx.cid)).accept l true n.toNat .accz))) s

/-- The fields of a drain control word (Table 6.5). -/
def drainStride (w : W64) : Nat := bits64 w 16 16
def drainMode (w : W64) : Nat := bits64 w 12 3

/-- Output type codes of ADRAIN (Table 4.17) as the type codes of R92. -/
def drainType (ty : BitVec 3) : Nat :=
  match ty.toNat with
  | 5 => 6
  | 6 => 5
  | n => n

/-- The bytes of one output row. -/
def drainRow (ty : BitVec 3) : Nat := 64 * typeBits (drainType ty) / 8

/-- `n` steps of the LFSR. -/
def lfsrAfter (v : W32) : Nat → W32
  | 0 => v
  | n + 1 => lfsrAfter (lfsrNext v) n

/-- ADRAIN (R137, R318). -/
def execAdrain (st : Bool) (n : BitVec 4) (ma mb mc : BitVec 5) (scope ty : BitVec 3) (s : State) : Result :=
  issue (.adrain st n ma mb mc scope ty) (fun s c =>
    let a := rd s c ma
    let b := rd s c mb
    let w := rd s c mc
    let lfsr := curLfsr s
    if bits64 w 32 32 ≠ 0 ∨ bits64 w 8 3 ≠ 0 ∨ 4 < drainMode w then .trap 0x01 w
    else
      tileCommand (.adrain st n ma mb mc scope ty) s (fun l =>
        match ownedTval s n.toNat with
        | some v => .trap 0x11 v
        | none =>
          faultsThen
            [(a.toNat % 4 ≠ 0, 0x05, a), (drainStride w % 4 ≠ 0, 0x05, w), (w.getLsbD 15 && b.toNat % 4 ≠ 0, 0x05, b),
             (spOut s.ctx a.toNat (63 * drainStride w + drainRow ty), 0x08, a)]
            (let s0 := signTile s c (.adrain st n ma mb mc scope ty) [a, b, w]
             let s1 := if drainMode w = 4 then s0.writeAt 1 (.lfsrStep (lfsrAfter lfsr 4096)) else s0
             .go (s1.accept l true n.toNat (.drain a b w ty scope lfsr none))))) s

/-- LSFLAG (R138, R358). -/
def execLsflag (st : Bool) (ma : BitVec 5) (clr sum : Bool) (n : BitVec 4) (s : State) : Result :=
  issue (.lsflag st ma clr sum n) (fun s c =>
    let a := rd s c ma
    tileCommand (.lsflag st ma clr sum n) s (fun l =>
      match ownedTval s n.toNat with
      | some v => .trap 0x11 v
      | none =>
        faultsThen [(a.toNat % 8 ≠ 0, 0x05, a), (spOut s.ctx a.toNat (if sum then 8 else 512), 0x08, a)]
          (.go ((signTile s c (.lsflag st ma clr sum n) [a]).accept l true n.toNat (.lsflag a sum clr))))) s

/-- A context's values of a tile count as saved (R133, R135); the area of one that has been written holds the mask as well. -/
def markSaved (s : State) (cid n : Nat) : State :=
  let s1 := match s.ctxOf cid with
    | some x =>
      if x.life = Life.stopped ∨ x.life = Life.saved then
        let word := areaOf s cid + 0x1D8
        s.putLocal word 2 (s.getLocal word 2 ||| 2 ^ n)
      else s
    | none => s
  s1.onCtx cid (·.modEng (fun e => { e with asaved := e.asaved ||| BitVec.ofNat 16 (2 ^ n) }))

/-- ACCSPILL (R313): at acceptance the tile is the issuer's, and the owner's values count as saved. -/
def execAccspill (st : Bool) (n : BitVec 4) (s : State) : Result :=
  issue (.accspill st n) (fun s c =>
    tileCommand (.accspill st n) s (fun l =>
      let owner := (vget (myQuad s).tiles n.toNat .reset).tag.filter (· != s.ctx.cid)
      let s1 := match owner with
        | some o => markSaved s o n.toNat
        | none => s
      .go (((signTile s1 c (.accspill st n) []).tagTile n.toNat (some s.ctx.cid)).accept l false n.toNat
        (.spill owner)))) s

/-- ACCFILL (R312). -/
def execAccfill (st : Bool) (n : BitVec 4) (s : State) : Result :=
  issue (.accfill st n) (fun s c =>
    tileCommand (.accfill st n) s (fun l =>
      let tag := (vget (myQuad s).tiles n.toNat .reset).tag
      if tag.isSome && tag != some s.ctx.cid then .trap 0x01 (n.setWidth 64)
      else
        let saved := s.ctx.eng.asaved.getLsbD n.toNat
        let s1 := signTile s c (.accfill st n) []
        let s2 := if saved then
            (s1.tagTile n.toNat (some s.ctx.cid)).modEng
              (fun e => { e with asaved := e.asaved &&& ~~~(BitVec.ofNat 16 (2 ^ n.toNat)) })
          else s1
        .go (s2.accept l false n.toNat (.fill saved)))) s

/-- ACLAIM (R315). -/
def execAclaim (st : Bool) (n : BitVec 4) (s : State) : Result :=
  issue (.aclaim st n) (fun s _ =>
    match ownedTval s n.toNat with
    | some v => .trap 0x11 v
    | none => .go (s.tagTile n.toNat (some s.ctx.cid))) s

/-- AFREE (R320): the tag is emptied at acceptance; the contents are undefined for every later command, and as they stand for the
commands before it, held ones too. -/
def execAfree (st : Bool) (n : BitVec 4) (s : State) : Result :=
  issue (.afree st n) (fun s _ =>
    let s1 := s.modEng (fun e => { e with asaved := e.asaved &&& ~~~(BitVec.ofNat 16 (2 ^ n.toNat)) })
    if (vget (myQuad s).tiles n.toNat .reset).tag = some s.ctx.cid then
      let cmd : TileCmd :=
        { cid := s.ctx.cid, num := 0, tile := n.toNat, cw := 0, issued := s.now, after := 0, retry := false, op := .forget }
      .go ((s1.tagTile n.toNat none).queueTile cmd)
    else .go s1) s

/-! ## Tiles -/

/-- The contents of a tile as bytes: defined ones, or the free values of its occasion (R36). -/
def Tile.image (t : Tile) : Memory :=
  match t.undef with
  | none => t.bytes
  | some g => Memory.empty.write 0 ((List.range 4224).flatMap (fun i => natBytes (Config.freeTile g i).toNat 4))

/-- Element (i, j) of a tile image; a row that an error struck reads as NaN (R140). -/
def tileWord (t : Memory) (bad : List Nat) (i j : Nat) : Nat :=
  if bad.contains i then 0x7FC00000 else t.load (4 * (64 * i + j)) 4

/-- The flags of a row. -/
def flagRow (t : Memory) (i : Nat) : Nat := t.load (16384 + 8 * i) 8

/-- A tile from its words and flag rows. -/
def tileOf (f : Nat → Nat → Nat) (g : Nat → Nat) : Memory :=
  (Memory.empty.write 0 ((List.range 64).flatMap (fun i => (List.range 64).flatMap (fun j => natBytes (f i j) 4)))).write
    16384 ((List.range 64).flatMap (fun i => natBytes (g i) 8))

/-- The code of element k of a row of 96 bytes (R121, R101). -/
def rowCode (row : List Byte) (ty k : Nat) : Nat :=
  if typeBits ty = 16 then (row.getD (2 * k) 0).toNat + 256 * (row.getD (2 * k + 1) 0).toNat
  else if ty = 5 then (row.getD (k / 2) 0).toNat / 16 ^ (k % 2) % 16
  else (row.getD k 0).toNat

/-- The values of a row's first `n` elements, and its scale byte (none when it is a NaN scale). -/
structure OpRow where
  vals : List FpVal
  scale : Option Int
  deriving DecidableEq, Repr

/-- The bytes of a row in which element `k` lies (R121). -/
def elemSpan (ty k : Nat) : List Nat :=
  if typeBits ty = 16 then [2 * k, 2 * k + 1] else if ty = 5 then [k / 2] else [k]

/-- Whether an uncorrectable error struck one of the first `n` elements of a row, or the scale byte that they are read with (R140). -/
def rowFails (o : OpSlot) (ty n : Nat) (scaled : Bool) (r : Nat) : Bool :=
  !o.bad.isEmpty && ((List.range n).any (fun k => (elemSpan ty k).any (fun b => o.bad.contains (96 * r + b))) ||
    (scaled && decide (0 < n) && o.bad.contains (6144 + r)))

/-- A row as an operand; what reads a failed byte is a NaN (R140). -/
def opRow (o : OpSlot) (ty n : Nat) (scaled : Bool) (r : Nat) : OpRow :=
  let row := o.bytes.read (96 * r) 96
  let sc := (o.bytes.get (6144 + r)).toNat
  let fails := fun (k : Nat) => !o.bad.isEmpty && (elemSpan ty k).any (fun b => o.bad.contains (96 * r + b))
  { vals := (List.range n).map (fun k => if fails k then FpVal.nan false else unpack false ty (rowCode row ty k)),
    scale := if scaled then (if sc = 255 ∨ o.bad.contains (6144 + r) then none else some ((sc : Int) - 127)) else some 0 }

def scaleVal (z : Int) : FpVal → FpVal
  | .fin s n e st => .fin s n (e + z) st
  | x => x

/-- The products of one element (R131). -/
def products (a b : OpRow) : List FpVal :=
  match a.scale, b.scale with
  | some x, some y => (a.vals.zip b.vals).map (fun p => scaleVal (x + y) (mulVal p.1 p.2).1)
  | _, _ => (a.vals.zip b.vals).map (fun _ => .nan false)

def isInf (neg : Bool) : FpVal → Bool
  | .inf s => s == neg
  | _ => false

/-- A term discarded toward zero to a multiple of 2^q: the signed multiple, and whether bits were lost. -/
def discard (q : Int) : FpVal → Int × Bool
  | .fin neg n e _ =>
    let (m, lost) := if q ≤ e then (n * 2 ^ (e - q).toNat, false)
      else (n / 2 ^ (q - e).toNat, n % 2 ^ (q - e).toNat != 0)
    (if neg then -(m : Int) else m, lost)
  | _ => (0, false)

/-- The exponent of a nonzero finite term. -/
def termTop : FpVal → Option Int
  | .fin _ n e _ => if n = 0 then none else some (topBit n e)
  | _ => none

def isNegZero : FpVal → Bool
  | .fin s n _ _ => s && n == 0
  | _ => false

/-- The sum of R131 over the terms T in a window of `w` bits (none: no bits are discarded): the FP32 word and whether a
term lost bits. -/
def dotSum (w : Option Nat) (ts : List FpVal) : Nat × Bool :=
  if ts.any FpVal.isNan || (ts.any (isInf false) && ts.any (isInf true)) then (0x7FC00000, false)
  else if ts.any (isInf false) then (0x7F800000, false)
  else if ts.any (isInf true) then (0xFF800000, false)
  else
    match (ts.filterMap termTop).max? with
    | none => (if ts.all isNegZero then 0x80000000 else 0, false)
    | some top =>
      let q : Int := match w with
        | some k => top - k + 1
        | none => (ts.filterMap (fun t => match t with
            | .fin _ _ e _ => some e
            | _ => none)).min?.getD 0
      let ds := ts.map (discard q)
      let sum := ds.foldl (fun (a : Int) d => a + d.1) 0
      let env : RoundEnv := { rm := 0, ftz := false, l8nar := false, draw := 0 }
      ((roundFloat env 0 (.fin (decide (sum < 0)) sum.natAbs q false)).1, ds.any (·.2))

/-- Whether an FP32 word is a NaN or an infinity. -/
def isSpecial (w : Nat) : Bool := w / 2 ^ 23 % 256 == 255

/-- WIN (Table 6.2). -/
def window (w : W64) : Nat := ([16, 24, 32, 48] : List Nat).getD (bits64 w 12 2) 16

/-- The elements of a row that a format word uses (R127). -/
def formatLen (w : W64) : Nat := if bits64 w 32 8 = 0 then rowElems (bits64 w 16 4) else bits64 w 32 8

/-- Whether an MMA reads a failed byte of its operands (R140). -/
def operandsFail (a b : OpSlot) (w : W64) : Bool :=
  (List.range 64).any (fun r =>
    rowFails a (bits64 w 16 4) (formatLen w) (w.getLsbD 10) r || rowFails b (bits64 w 20 4) (formatLen w) (w.getLsbD 11) r)

/-- MMA at execution (R131). -/
def mmaTile (t : Tile) (a b : OpSlot) (z : Bool) (w : W64) : Memory :=
  let at' := bits64 w 16 4
  let bt := bits64 w 20 4
  let kn := formatLen w
  let ra := (List.range 64).map (opRow a at' kn (w.getLsbD 10))
  let rb := (List.range 64).map (opRow b bt kn (w.getLsbD 11))
  let old := t.image
  let cells := ra.zipIdx.map (fun (x, i) => rb.zipIdx.map (fun (y, j) =>
    let ts := products x y
    let (v, lost) := dotSum (some (window w)) (if z then ts else unpack false 0 (tileWord old t.bad i j) :: ts)
    (v, lost && !isSpecial v)))
  tileOf (fun i j => ((cells.getD i []).getD j (0, false)).1)
    (fun i => (if z then 0 else flagRow old i) ||| (((cells.getD i []).zipIdx.map (fun (c, j) =>
      if c.2 then 2 ^ j else 0)).foldl (· + ·) 0))

/-! ## Execution (R129, R139, R140) -/

/-- The cycles a command occupies (R129). -/
def TileOp.cycles : TileOp → Nat
  | .mma _ _ _ _ => 4
  | .accz => 4
  | .lsflag _ _ _ => 4
  | .forget => 0
  | _ => 16

/-- One output element of a drain: its code and |y| as an FP32 word (R137). -/
def drainElem (w : W64) (ty : Nat) (draw : Nat) (acc : Nat) : Nat × Nat :=
  let sc := bits64 w 0 8
  let x := if sc = 255 then FpVal.nan false else scaleVal ((sc : Int) - 127) (unpack false 0 acc)
  let env : RoundEnv := { rm := drainMode w, ftz := false, l8nar := w.getLsbD 11, draw := draw }
  let code := if ty = 6 then (roundL8 env x).1 else (roundFloat env ty x).1
  let wide := if ty = 6 then expandL8 code else (roundFloat { env with rm := 0 } 0 (unpack false ty code)).1
  (code, wide % 2 ^ 31)

/-- A drain's rows of codes and its absolute maximum; the LFSR steps once per element from its value at issue (R109). -/
def drainCells (t : Tile) (w : W64) (ty : Nat) (lfsr : W32) : List Nat × Nat :=
  let img := t.image
  let r := (List.range 4096).foldl (fun (acc : List Nat × Nat × W32) k =>
    let l := lfsrNext acc.2.2
    let (c, m) := drainElem w ty (l.toNat % 65536) (tileWord img t.bad (k / 64) (k % 64))
    (c :: acc.1, max acc.2.1 m, l)) ([], 0, lfsr)
  (r.1.reverse, r.2.1)

/-- The bytes of a row of codes of a type. -/
def codeBytes (ty : Nat) (cs : List Nat) : List Byte :=
  if ty = 5 then
    (List.range (cs.length / 2)).map (fun j => BitVec.ofNat 8 (cs.getD (2 * j) 0 + 16 * cs.getD (2 * j + 1) 0))
  else cs.flatMap (fun c => natBytes c (typeBits ty / 8))

/-- The stores of a drain, rows in ascending order. -/
def drainStores (x : Ctx) (a : Nat) (w : W64) (ty : Nat) (cs : List Nat) : Ctx :=
  (List.range 64).foldl (fun y i =>
    y.spWrite (a + i * drainStride w) (codeBytes ty ((cs.drop (64 * i)).take 64))) x

def State.setTile (s : State) (quad n : Nat) (t : Tile) : State :=
  let q := s.quad quad
  s.setQuad quad { q with tiles := vset q.tiles n t }

/-- A tile with defined contents. -/
def Tile.fill (t : Tile) (m : Memory) (bad : List Nat) : Tile := { t with bytes := m, undef := none, bad := bad }

/-- The focused context's array commands stop: the head and those behind it are held (R139), each to run again. -/
def State.holdCommands (s : State) (quad : Nat) : State :=
  let q := s.quad quad
  let mine := q.queue.filter (fun c => c.cid == s.ctx.cid)
  let s1 := s.setQuad quad { q with queue := q.queue.filter (fun c => c.cid != s.ctx.cid), started := none }
  s1.modEng (fun e => { e with held := mine ++ e.held, arrayRun := .pending })

/-- An array fault of the focused context (R139, R319, R490). -/
def arrayFault (s : State) (cause num : Nat) (tval : W64) (status : W32) : State :=
  s.modCtx (·.raise
    { arose := s.now, cause := BitVec.ofNat 6 cause, tval := tval, clu := .M, eng := 5, idx := num, estw := status })

/-- The updates of a tile command's completion word: with no arrival for FMTEMPTY (R139). -/
def tileUpdates (c : TileCmd) (arrive : Bool) (err : Option (BitVec 6)) : List Update :=
  if c.cw = 0 then []
  else [{ addr := c.cw, add := none, arrive := arrive, err := err, fb := false, idx := c.num }]

/-- Makes updates; one that faults is kept, and the commands behind it are held (R490). -/
def arrayUpdates (s : State) (quad : Nat) (ups : List Update) : State :=
  let (s1, rest, code) := applyUpdates s ups
  match rest with
  | [] => s1.modEng (fun e => { e with heldUpdates := [] })
  | u :: _ =>
    let s2 := (s1.holdCommands quad).modEng (fun e => { e with heldUpdates := rest })
    if code = 0 then s2.modEng (fun e => { e with arrayRun := .run })
    else s2.modCtx (·.raise (updateFault s.now u code .M 5))

/-- The command at the head leaves the queue; it ran in the focused context. -/
def State.popTile (s : State) (quad : Nat) : State :=
  let q := s.quad quad
  s.setQuad quad { q with queue := q.queue.tail, started := none }

/-- A command has executed: its slots may be free now, it leaves the queue, and its arrival counts. -/
def tileDone (s : State) (quad : Nat) (c : TileCmd) (abort : Bool) : State :=
  let s1 := (s.popTile quad).settleSlots quad
  let s2 := if abort then s1.modCtx Ctx.consumeAbort else s1
  arrayUpdates s2 quad (tileUpdates c true (if abort then some 0x3E else none))

/-- Whether a drain's atomic has to wait (R18, R211, Table 13.7). -/
def atomicWaits (s : State) (mb : W64) : Bool :=
  walkHeld s s.ctx.coreId s.ctx.asid mb ||
    match translate s s.ctx.coreId s.ctx.asid .write mb with
    | .error _ => false
    | .ok t => writeWaits s (elemOf s mb t) 4

/-- The atomic maximum of a drain (R137, R319): it is translated at execution; on a fault the command stays held with its
value. -/
def drainAtomic (s : State) (quad : Nat) (c : TileCmd) (mb : W64) (m : Nat) (abort : Bool) (again : TileOp) : State :=
  match translate s s.ctx.coreId s.ctx.asid .write mb with
  | .error e =>
    let q := s.quad quad
    let s1 := (s.noteWalk s.ctx.coreId s.ctx.asid mb).setQuad quad { q with queue := { c with op := again, retry := true } :: q.queue.tail }
    arrayFault (s1.holdCommands quad) e c.num mb (BitVec.ofNat 32 (e + c.tile * 2 ^ 6))
  | .ok t =>
    let (s1, old) := if s.ctx.replays then (s, some 0)
      else (s.remember t).atomic s.ctx.requester none (elemOf s mb t) 4 (fun o => some (max o m))
    let s2 := if old.isSome then s1.modCtx (·.sign .M c.after (leBytes mb ++ natBytes m 4)) else s1
    tileDone s2 quad c (abort || old.isNone)

/-- The contents of a tile become undefined (R36). -/
def State.forgetTile (s : State) (quad n : Nat) : State :=
  let s1 := { s with free := s.free + 1 }
  s1.setTile quad n { vget (s.quad quad).tiles n .reset with bytes := .empty, undef := some s.free, bad := [] }

/-- Whether a held command of another context on the tile of `c` was accepted before `c`. -/
def heldBefore (c : TileCmd) (x : Ctx) (k : TileCmd) : Bool := x.life != .none && x.cid != c.cid && k.tile == c.tile && decide (k.issued ≤ c.issued)

/-- The AFREEs of other contexts that are held behind an array fault have taken effect for the commands that come after them (R320): the tile's
contents are undefined before the first of these. -/
def State.settleForgets (s : State) (quad : Nat) (c : TileCmd) : State :=
  let mine := fun (x : Ctx) (k : TileCmd) => x.quadId == quad && heldBefore c x k && k.op == .forget
  if (allCtxs s).any (fun x => x.eng.held.any (mine x)) then
    (s.mapCtxs (fun x => { x with eng := { x.eng with held := x.eng.held.filter (fun k => !mine x k) } })).forgetTile quad c.tile
  else s

/-- R313: whether an ACCSPILL has still to wait: commands of the owner on the tile, accepted before it, are held behind an array fault. -/
def spillWaits (s : State) (quad : Nat) (c : TileCmd) : Bool :=
  match c.op with
  | .spill (some o) => (allCtxs s).any (fun x => x.cid == o && x.quadId == quad && x.eng.held.any (heldBefore c x))
  | _ => false

/-- A tile command takes effect, in the focused context (R129). -/
def runTile (s : State) (quad : Nat) (c : TileCmd) : State :=
  let q := s.quad quad
  let t := vget q.tiles c.tile .reset
  match c.op with
  | .mma a b z f =>
    let sa := vget q.slots a .reset
    let sb := vget q.slots b .reset
    let bad := operandsFail sa sb (f.getD 0) || (!z && !t.bad.isEmpty)
    let s1 := s.setTile quad c.tile (t.fill (mmaTile t sa sb z (f.getD 0)) [])
    tileDone (s1.modEng (fun e => { e with formats := popFormat c.after e.formats })) quad c bad
  | .accz => tileDone (s.setTile quad c.tile (t.fill Memory.empty [])) quad c false
  | .drain ma mb w ty scope lfsr held =>
    match held with
    | some (m, bad) => drainAtomic s quad c mb m.toNat bad c.op
    | none =>
      let ty' := drainType ty
      let (cs, m) := drainCells t w ty' lfsr
      let s1 := s.modCtx (fun x => drainStores x ma.toNat w ty' cs)
      let bad := !t.bad.isEmpty
      if w.getLsbD 15 then
        drainAtomic s1 quad c mb m bad (.drain ma mb w ty scope lfsr (some (BitVec.ofNat 32 m, bad)))
      else tileDone s1 quad c bad
  | .lsflag ma sum clr =>
    let img := t.image
    let rows := (List.range 64).map (flagRow img)
    let bytes := if sum then natBytes (rows.zipIdx.foldl (fun n (r, i) => if r ≠ 0 then n + 2 ^ i else n) 0) 8
      else rows.flatMap (fun r => natBytes r 8)
    let s1 := s.modCtx (·.spWrite ma.toNat bytes)
    let cleared := tileOf (fun i j => img.load (4 * (64 * i + j)) 4) (fun _ => 0)
    let s2 := if clr then s1.setTile quad c.tile { t with bytes := cleared, undef := none } else s1
    tileDone s2 quad c false
  | .spill owner =>
    match owner with
    | some o =>
      let img := t.image
      let out := tileOf (fun i j => tileWord img t.bad i j) (flagRow img)
      let s1 := s.supWrite (areaOf s o + tileOffset c.tile) (out.read 0 16896)
      let s2 := { s1 with free := s1.free + 1 }
      tileDone (s2.setTile quad c.tile { t with bytes := .empty, undef := some s1.free, bad := [] }) quad c
        (!t.bad.isEmpty)
    | none => tileDone s quad c false
  | .fill saved =>
    if saved then
      let base := areaOf s s.ctx.cid + tileOffset c.tile
      let lostRow := fun (i : Nat) => hitsLost s (base + 256 * i) 256 || hitsLost s (base + 16384 + 8 * i) 8
      let m := tileOf (fun i j => if lostRow i then 0x7FC00000 else s.supLoad (base + 4 * (64 * i + j)) 4)
        (fun i => if lostRow i then 2 ^ 64 - 1 else s.supLoad (base + 16384 + 8 * i) 8)
      let s1 := s.meetSup s.ctx.requester base 16896
      tileDone (s1.setTile quad c.tile (t.fill m [])) quad c ((List.range 64).any lostRow)
    else tileDone s quad c false
  | .forget =>
    (s.forgetTile quad c.tile).popTile quad

/-- R124: whether a slot that a command names is being filled by a command issued before it. -/
def slotFilling (q : QuadState) (c : TileCmd) : Bool :=
  c.op.slots.any (fun p => (vget q.slots p .reset).fills.any (fun k => decide (k < c.issued)))

/-- The head command reaches execution. An MMA bound to no word faults FMTEMPTY (R139, R364). An ACCSPILL that has to wait for held commands of
the tile's owner is held with what its context has behind it; other contexts' commands continue (R313). -/
def beginTile (s : State) (quad : Nat) (c : TileCmd) : State :=
  let q := s.quad quad
  if spillWaits s quad c then
    (s.holdCommands quad).modEng (fun e => { e with arrayRun := .run })
  else
  match c.op with
  | .mma _ _ _ none =>
    let s1 := s.setQuad quad { q with queue := { c with retry := true } :: q.queue.tail }
    let (s2, rest, code) := applyUpdates s1 (tileUpdates c false (some 0x10))
    let s3 := arrayFault (s2.holdCommands quad) 0x10 c.num 0 (BitVec.ofNat 32 (0x10 + c.tile * 2 ^ 6))
    match rest with
    | [] => s3
    | u :: _ =>
      let s4 := s3.modEng (fun e => { e with heldUpdates := rest })
      if code = 0 then s4 else s4.modCtx (·.raise (updateFault s.now u code .M 5))
  | _ =>
    let s1 := s.settleForgets quad c
    s1.setQuad quad { s1.quad quad with started := some s.now }

/-- A context whose array fault has been served goes on: what it still owes, then its held commands, ahead of its later
ones (R119). -/
def resumeArray (s : State) (quad : Nat) : State :=
  let s1 := arrayUpdates s quad s.ctx.eng.heldUpdates
  if s1.ctx.eng.arrayRun = .run then
    let q := s1.quad quad
    (s1.setQuad quad { q with queue := q.queue ++ s1.ctx.eng.held }).modEng (fun e => { e with held := [] })
  else s1

/-- A context of the quad whose held commands can go on. -/
def resumable (s : State) (quad : Nat) : Option Nat :=
  ((s.ctx :: s.others).find? (fun x => x.life != .none && (x.life != .saved || x.stop.isNone) && x.life != .stopped && x.quadId == quad &&
    x.eng.arrayRun == .run && (!x.eng.held.isEmpty || !x.eng.heldUpdates.isEmpty) &&
    !x.eng.held.head?.any (spillWaits s quad))).map (·.cid)

/-! ## ACCEVICT (R136, Table 6.4) -/

/-- One tile of a context is spilled as ACCSPILL would. -/
def evictTile (s : State) (quad cid n : Nat) : State :=
  let t := vget (s.quad quad).tiles n .reset
  if t.tag ≠ some cid then s
  else
    let img := t.image
    let out := tileOf (fun i j => tileWord img t.bad i j) (flagRow img)
    let s1 := markSaved (s.supWrite (areaOf s cid + tileOffset n) (out.read 0 16896)) cid n
    { s1.setTile quad n { t with tag := none, bytes := .empty, undef := some s1.free, bad := [] } with free := s1.free + 1 }

/-- Whether a command that the quad's array has accepted names a tile of a context: one of its queue, or one that is held behind an array
fault (R139). -/
def tilesBusy (s : State) (quad cid : Nat) : Bool :=
  let q := s.quad quad
  let on := fun (c : TileCmd) => (vget q.tiles c.tile .reset).tag == some cid
  q.queue.any on || (allCtxs s).any (fun x => x.life != .none && x.quadId == quad && x.eng.held.any on)

/-- The spill of ACCEVICT, once every command accepted on the context's tiles has executed: BUSY clears. -/
def evictTiles (s : State) (quad cid : Nat) : State :=
  let t := (List.range 16).foldl (fun t n => evictTile t quad cid n) s
  t.setQuad quad { t.quad quad with evict := none }

/-- A write of ACCEVICT: ignored while BUSY is set. Tags and ASAVED change when the spill is made, and a command that the array accepts on those
tiles in the meantime is one more that the spill follows (log 93: R136 does not say). -/
def accevictWrite (s : State) (quad cid : Nat) : State :=
  let q := s.quad quad
  if q.evict.isSome then s
  else if tilesBusy s quad cid || supHeld s (areaOf s cid + tileOffset 0) (16 * 16896) then s.setQuad quad { q with evict := some cid }
  else evictTiles s quad cid

/-- Whether the spill of an ACCEVICT can be made now. -/
def evictDue (s : State) (quad : Nat) : Option Nat :=
  (s.quad quad).evict.filter (fun cid => !tilesBusy s quad cid && !supHeld s (areaOf s cid + tileOffset 0) (16 * 16896))

/-- Whether the head of a quad's queue has to wait although its cycles are over: a drain whose atomic cannot be made, a spill or a reload whose
context area lies in part on a pseudo-channel in all-bank mode (R211). -/
def headWaits (s : State) (c : TileCmd) : Bool :=
  match c.op with
  | .drain _ mb w _ _ _ _ => w.getLsbD 15 && (s.ctxOf c.cid).any (fun x => atomicWaits { s with ctx := x } mb)
  | .spill (some o) => supHeld s (areaOf s o + tileOffset c.tile) 16896
  | .fill true => supHeld s (areaOf s c.cid + tileOffset c.tile) 16896
  | _ => false

/-- TILE_COMMAND_EXECUTION (R129): the spill of ACCEVICT is made, or held commands that can go on enter the queue; else the head command
reaches execution, or takes effect at the end of its cycles. -/
def execTileCommandExecution (quad : Nat) (s : State) : Result :=
  match evictDue s quad, resumable s quad with
  | some cid, _ => happens (evictTiles s quad cid)
  | none, some cid => eventOn s cid (fun t =>
      if updatesMove t t.ctx.eng.heldUpdates then (resumeArray t quad, true) else (t, false))
  | none, none =>
    let q := s.quad quad
    match q.queue, q.started with
    | [], _ => notNow s
    | c :: _, none =>
      if slotFilling q c || !((s.ctxOf c.cid).map (·.releasedTo c.after)).getD true then notNow s
      else happens (s.onCtx c.cid (beginTile · quad c))
    | c :: _, some k =>
      if s.now < k + c.op.cycles ∨ headWaits s c then notNow s else happens (s.onCtx c.cid (runTile · quad c))

end Sys2Proof.Machine
end

