-- ==== Sys2Proof/Machine/Scalar.lean ====
section
/-! DEFINITION. The scalar subset of the A, M and S clusters (R310, R359, Table 4.14) and its 16-bit forms (Table 4.21). -/

namespace Sys2Proof.Machine

/-- An instruction that only writes one scalar register, `lat` cycles after issue. -/
def scalarResult (i : Instr) (lat : Nat) (dst : BitVec 5) (v : State → Cluster → W64) (s : State) : Result :=
  issue i (fun s c => .go (s.writeAt lat (.scalar c dst.toNat (v s c)))) s

/-- DIV (R338): truncated quotient, with fixed results for division by zero and for signed overflow. -/
def divide (unsigned : Bool) (a b : W64) : W64 :=
  if b = 0 then BitVec.allOnes 64
  else if unsigned then BitVec.ofNat 64 (a.toNat / b.toNat)
  else if a = 0x8000000000000000 ∧ b = BitVec.allOnes 64 then 0x8000000000000000
  else BitVec.ofInt 64 (a.toInt.tdiv b.toInt)

/-- REM (R387). -/
def remainder (unsigned : Bool) (a b : W64) : W64 :=
  if b = 0 then a
  else if unsigned then BitVec.ofNat 64 (a.toNat % b.toNat)
  else if a = 0x8000000000000000 ∧ b = BitVec.allOnes 64 then 0
  else BitVec.ofInt 64 (a.toInt.tmod b.toInt)

/-- MULH (R367): bits 127:64 of the exact product. -/
def mulHigh (unsigned : Bool) (a b : W64) : W64 :=
  if unsigned then BitVec.ofNat 64 (a.toNat * b.toNat / 2 ^ 64)
  else BitVec.ofInt 64 ((a.toInt * b.toInt).fdiv (2 ^ 64))

/-- The condition codes of CMP (R336). -/
def compare64 (cond : Nat) (a b : W64) : Bool :=
  match cond with
  | 0 => a == b
  | 1 => a != b
  | 2 => decide (a.toInt < b.toInt)
  | 3 => decide (b.toInt ≤ a.toInt)
  | 4 => decide (a.toNat < b.toNat)
  | _ => decide (b.toNat ≤ a.toNat)

/-- The place of the highest set bit plus one, among the low `k` bits; 0 when none is set. -/
def bitLength (v : W64) : Nat → Nat
  | 0 => 0
  | k + 1 => if v.getLsbD k then k + 1 else bitLength v k

/-- How many of the low `k` bits are set. -/
def countOnes {w : Nat} (v : BitVec w) : Nat → Nat
  | 0 => 0
  | k + 1 => countOnes v k + (v.getLsbD k).toNat

/-- LIH (R357): replaces halfword `h`. -/
def insertHalf (v : W64) (h : BitVec 2) (imm : BitVec 16) : W64 :=
  (v &&& ~~~((0xFFFF : W64) <<< (16 * h.toNat))) ||| (imm.setWidth 64 <<< (16 * h.toNat))

/-- ADD (R316). -/
def execAdd (st : Bool) (dst rs1 rs2 : BitVec 5) (s : State) : Result :=
  scalarResult (.add st dst rs1 rs2) 1 dst (fun s c => rd s c rs1 + rd s c rs2) s

/-- ADD, 16-bit form (R316, Table 4.21). -/
def execAdd16 (st : Bool) (dst rs : BitVec 5) (s : State) : Result :=
  scalarResult (.add16 st dst rs) 1 dst (fun s c => rd s c dst + rd s c rs) s

/-- ADDI (R317). -/
def execAddi (st : Bool) (dst rs1 : BitVec 5) (imm : BitVec 15) (s : State) : Result :=
  scalarResult (.addi st dst rs1 imm) 1 dst (fun s c => rd s c rs1 + imm.signExtend 64) s

/-- ADDI, 16-bit form (R317, Table 4.21). -/
def execAddi16 (st : Bool) (dst imm : BitVec 5) (s : State) : Result :=
  scalarResult (.addi16 st dst imm) 1 dst (fun s c => rd s c dst + imm.signExtend 64) s

/-- SUB (R409). -/
def execSub (st : Bool) (dst rs1 rs2 : BitVec 5) (s : State) : Result :=
  scalarResult (.sub st dst rs1 rs2) 1 dst (fun s c => rd s c rs1 - rd s c rs2) s

/-- SUB, 16-bit form (R409, Table 4.21). -/
def execSub16 (st : Bool) (dst rs : BitVec 5) (s : State) : Result :=
  scalarResult (.sub16 st dst rs) 1 dst (fun s c => rd s c dst - rd s c rs) s

/-- MUL (R366). -/
def execMul (st : Bool) (dst rs1 rs2 : BitVec 5) (s : State) : Result :=
  scalarResult (.mul st dst rs1 rs2) 3 dst (fun s c => rd s c rs1 * rd s c rs2) s

/-- MULH (R367). -/
def execMulh (st : Bool) (dst rs1 rs2 : BitVec 5) (u : Bool) (s : State) : Result :=
  scalarResult (.mulh st dst rs1 rs2 u) 3 dst (fun s c => mulHigh u (rd s c rs1) (rd s c rs2)) s

/-- DIV (R338). -/
def execDiv (st : Bool) (dst rs1 rs2 : BitVec 5) (u : Bool) (s : State) : Result :=
  scalarResult (.div st dst rs1 rs2 u) 16 dst (fun s c => divide u (rd s c rs1) (rd s c rs2)) s

/-- REM (R387). -/
def execRem (st : Bool) (dst rs1 rs2 : BitVec 5) (u : Bool) (s : State) : Result :=
  scalarResult (.rem st dst rs1 rs2 u) 16 dst (fun s c => remainder u (rd s c rs1) (rd s c rs2)) s

/-- AND (R323). -/
def execAnd (st : Bool) (dst rs1 rs2 : BitVec 5) (s : State) : Result :=
  scalarResult (.and st dst rs1 rs2) 1 dst (fun s c => rd s c rs1 &&& rd s c rs2) s

/-- OR (R375). -/
def execOr (st : Bool) (dst rs1 rs2 : BitVec 5) (s : State) : Result :=
  scalarResult (.or st dst rs1 rs2) 1 dst (fun s c => rd s c rs1 ||| rd s c rs2) s

/-- XOR (R463). -/
def execXor (st : Bool) (dst rs1 rs2 : BitVec 5) (s : State) : Result :=
  scalarResult (.xor st dst rs1 rs2) 1 dst (fun s c => rd s c rs1 ^^^ rd s c rs2) s

/-- ANDN (R324). -/
def execAndn (st : Bool) (dst rs1 rs2 : BitVec 5) (s : State) : Result :=
  scalarResult (.andn st dst rs1 rs2) 1 dst (fun s c => rd s c rs1 &&& ~~~(rd s c rs2)) s

/-- SHL (R401). -/
def execShl (st : Bool) (dst rs1 rs2 : BitVec 5) (s : State) : Result :=
  scalarResult (.shl st dst rs1 rs2) 1 dst (fun s c => rd s c rs1 <<< ((rd s c rs2).toNat % 64)) s

/-- SHR (R402). -/
def execShr (st : Bool) (dst rs1 rs2 : BitVec 5) (s : State) : Result :=
  scalarResult (.shr st dst rs1 rs2) 1 dst (fun s c => rd s c rs1 >>> ((rd s c rs2).toNat % 64)) s

/-- SRA (R405). -/
def execSra (st : Bool) (dst rs1 rs2 : BitVec 5) (s : State) : Result :=
  scalarResult (.sra st dst rs1 rs2) 1 dst (fun s c => (rd s c rs1).sshiftRight ((rd s c rs2).toNat % 64)) s

/-- CMP (R336). -/
def execCmp (st : Bool) (dst rs1 rs2 : BitVec 5) (cond : BitVec 3) (s : State) : Result :=
  scalarResult (.cmp st dst rs1 rs2 cond) 1 dst
    (fun s c => if compare64 cond.toNat (rd s c rs1) (rd s c rs2) then 1 else 0) s

/-- MIN (R362). -/
def execMin (st : Bool) (dst rs1 rs2 : BitVec 5) (u : Bool) (s : State) : Result :=
  scalarResult (.min st dst rs1 rs2 u) 1 dst
    (fun s c => if compare64 (if u then 4 else 2) (rd s c rs1) (rd s c rs2) then rd s c rs1 else rd s c rs2) s

/-- MAX (R361). -/
def execMax (st : Bool) (dst rs1 rs2 : BitVec 5) (u : Bool) (s : State) : Result :=
  scalarResult (.max st dst rs1 rs2 u) 1 dst
    (fun s c => if compare64 (if u then 4 else 2) (rd s c rs1) (rd s c rs2) then rd s c rs2 else rd s c rs1) s

/-- MOV (R365). -/
def execMov (st : Bool) (dst rs1 : BitVec 5) (s : State) : Result :=
  scalarResult (.mov st dst rs1) 1 dst (fun s c => rd s c rs1) s

/-- MOV, 16-bit form (R365, Table 4.21). -/
def execMov16 (st : Bool) (dst rs : BitVec 5) (s : State) : Result :=
  scalarResult (.mov16 st dst rs) 1 dst (fun s c => rd s c rs) s

/-- SEL (R395). -/
def execSel (st : Bool) (dst rs1 rs2 rc : BitVec 5) (s : State) : Result :=
  scalarResult (.sel st dst rs1 rs2 rc) 1 dst (fun s c => if rd s c rc ≠ 0 then rd s c rs1 else rd s c rs2) s

/-- CLZ (R335). -/
def execClz (st : Bool) (dst rs1 : BitVec 5) (s : State) : Result :=
  scalarResult (.clz st dst rs1) 1 dst (fun s c => BitVec.ofNat 64 (64 - bitLength (rd s c rs1) 64)) s

/-- POPC (R379). -/
def execPopc (st : Bool) (dst rs1 : BitVec 5) (s : State) : Result :=
  scalarResult (.popc st dst rs1) 1 dst (fun s c => BitVec.ofNat 64 (countOnes (rd s c rs1) 64)) s

/-- LI (R356). -/
def execLi (st : Bool) (dst : BitVec 5) (imm : BitVec 20) (s : State) : Result :=
  scalarResult (.li st dst imm) 1 dst (fun _ _ => imm.signExtend 64) s

/-- LI, 16-bit form (R356, Table 4.21). -/
def execLi16 (st : Bool) (dst imm : BitVec 5) (s : State) : Result :=
  scalarResult (.li16 st dst imm) 1 dst (fun _ _ => imm.signExtend 64) s

/-- LIH (R357). -/
def execLih (st : Bool) (dst : BitVec 5) (h : BitVec 2) (imm : BitVec 16) (s : State) : Result :=
  scalarResult (.lih st dst h imm) 1 dst (fun s c => insertHalf (rd s c dst) h imm) s

end Sys2Proof.Machine
end

