-- ==== Sys2Proof/Machine/Control.lean ====
section
/-! DEFINITION. Control flow: block headers (R57 to R65, R326), branches (R60, R327 to R329), the calls of four-stream functions
(R460 to R462), traps and the return from a handler (R244, R330, R410, R411), HALT and NOP. -/

namespace Sys2Proof.Machine

/-! ## Block headers -/

/-- The addresses and stages of body words (R63), from body word `j` on; `maps` holds the stage-map words. -/
def stageList (maps : List Nat) : Nat → List W64 → List (W64 × Nat)
  | _, [] => []
  | j, a :: t => (a, num (maps.getD (j / 10) 0) (3 * (j % 10)) 3) :: stageList maps (j + 1) t

/-- The value of a 32-bit instruction-path word from its four bytes: the halfword at the lower address is the high one
(R86). -/
def wordOfBytes (bs : List Byte) : Nat := leNat (bs.take 2) * 2 ^ 16 + leNat (bs.drop 2)

/-- The stage-map words of a header, read through the instruction path; or the fault of the first that cannot be read. -/
def readMaps (s : State) (va : W64) : Nat → Except (Nat × W64) (List Nat)
  | 0 => .ok []
  | n + 1 =>
    match codeRead s va 4 with
    | .error e => .error (e, va)
    | .ok bs =>
      match readMaps s (va + 4) n with
      | .error e => .error e
      | .ok t => .ok (wordOfBytes bs :: t)

/-- R63: whether the stage-map words of a body of `len` words with `stages` stages are well formed. -/
def mapsOk (maps : List Nat) (len stages : Nat) : Bool :=
  maps.all (fun w => num w 30 2 == 2) &&
  (List.range (10 * maps.length)).all (fun j =>
    let n := num (maps.getD (j / 10) 0) (3 * (j % 10)) 3
    if j < len then decide (n < stages) else n == 0)

/-- R62: a body that ends beyond the enclosing block's body, or a header inside a staged body. -/
def badNesting (k : ClusterState) (stop : W64) : Bool :=
  match k.enclosing with
  | none => false
  | some b => b.staged || decide (b.stop.toNat < stop.toNat)

/-- R62: the ILLEGALs that a header's own fields raise. -/
def badHeader (len : BitVec 11) (rep : BitVec 8) (rsrc : Bool) (stg : BitVec 3) (pre : Bool) : Bool :=
  len == 0 || (rsrc && rep.toNat / 4 != 0) || (rep == 0 && !rsrc && (stg != 0 || pre))

/-- The repeat count that a header samples (R58). -/
def repeatCount (s : State) (rep : BitVec 8) (rsrc : Bool) : W32 :=
  if rsrc then vget s.ctx.regs.n (rep.toNat % 4) 0 else rep.setWidth 32

/-- Control after a header: past the body, or into it with a new entry (R58, R61). -/
def enterBlock (s : State) (c : Cluster) (skip : Bool) (stop : W64) (e : BlockEntry) : Act :=
  if skip then .jump (s.flowTo c stop)
  else .jump (s.modCtx (fun x => x.modCl c (fun k => { k with blocks := e :: k.blocks, pc := e.start })))

/-- BLK (R326): a header is processed. Log 35: the order of its faults, and that a fifth nested header whose sampled count is 0, which enters
no block, raises no BLKDEPTH. -/
def execBlk (st : Bool) (len : BitVec 11) (rep : BitVec 8) (rsrc : Bool) (stg : BitVec 3) (pre : Bool) (s : State) :
    Result :=
  issue (.blk st len rep rsrc stg pre) (fun s c =>
    let k := s.ctx.cl.get c
    let data := rep == 0 && !rsrc
    let left := repeatCount s rep rsrc
    let nmaps := if stg = 0 then 0 else (len.toNat + 9) / 10
    let start := k.pc + BitVec.ofNat 64 (4 + 4 * nmaps)
    let body := if data then ([], start + BitVec.ofNat 64 (4 * len.toNat)) else bodyWords s len.toNat 0 start
    if badHeader len rep rsrc stg pre then .trap 0x01 k.pc
    else if !data && left != 0 && k.blocks.length == 4 then .trap 0x04 k.pc
    else if badNesting k body.2 then .trap 0x01 k.pc
    else
      match readMaps s (k.pc + 4) nmaps with
      | .error (code, va) => .trap code va
      | .ok maps =>
        if stg ≠ 0 ∧ !mapsOk maps len.toNat (stg.toNat + 1) then .trap 0x01 k.pc
        else
          enterBlock s c (data || left == 0) body.2
            { header := k.pc, start := start, stop := body.2, left := if stg = 0 then left else left - 1, staged := stg != 0,
              nstages := stg.toNat + 1, mask := 1, stages := if stg = 0 then [] else stageList maps 0 body.1, pre := pre }) s

/-! ## Branches -/

/-- The target of a signed halfword offset, counted from the instruction's first halfword. -/
def target {w : Nat} (s : State) (c : Cluster) (off : BitVec w) : W64 := (s.ctx.cl.get c).pc + scaled off 2

/-- A taken branch, or the fault of its target (R60, R327); `pre` is what the branch does besides. -/
def takeBranch (s : State) (c : Cluster) (va : W64) (pre : State → State) : Act :=
  match targetFault s va with
  | some (code, tval) => .trap code tval
  | none => .jump ((pre s).branchTo c va)

/-- BR (R327). -/
def execBr (st : Bool) (off : BitVec 25) (s : State) : Result :=
  issue (.br st off) (fun s c => takeBranch s c (target s c off) id) s

/-- BRB (R72, R328). -/
def execBrb (st : Bool) (b : BitVec 4) (off : BitVec 21) (s : State) : Result :=
  issue (.brb st b off) (fun s c =>
    let bb := s.ctx.bobbin b.toNat
    if !bb.en || bb.cons.toNat != cnum c || bb.sz then illegalWord (.brb st b off)
    else if bb.count = 0 then .wait (sourceWait bb)
    else
      let takeOne := fun (t : State) => (t.readsNext b.toNat).writeAt 1 (.take b.toNat 1)
      if toW64 (s.ctx.slotValue b.toNat bb.take) = 0 then .go (takeOne s) else takeBranch s c (target s c off) takeOne) s

/-- The condition of BRC (R329). -/
def branchCond (s : State) (c : Cluster) (cond : BitVec 3) (reg : BitVec 5) : Bool :=
  match c with
  | .V =>
    let n := s.ctx.sr.vlen.toNat
    let k := countOnes (vget s.ctx.regs.p reg.toNat 0) n
    match cond.toNat with
    | 0 => k != 0
    | 1 => k == 0
    | 2 => k == n
    | _ => k != n
  | _ =>
    let v := rd s c reg
    match cond.toNat with
    | 0 => v != 0
    | 1 => v == 0
    | 2 => v.getLsbD 63
    | 3 => !v.getLsbD 63
    | 4 => decide (0 < v.toInt)
    | _ => decide (v.toInt ≤ 0)

/-- BRC (R329). -/
def execBrc (st : Bool) (cond : BitVec 3) (reg : BitVec 5) (off : BitVec 17) (s : State) : Result :=
  issue (.brc st cond reg off) (fun s c =>
    if branchCond s c cond reg then takeBranch s c (target s c off) id else .go s) s

/-! ## Traps, HALT and NOP -/

/-- BRK (R330). -/
def execBrk (st : Bool) (imm : BitVec 16) (s : State) : Result :=
  issue (.brk st imm) (fun _ _ => .trap 0x21 (imm.setWidth 64)) s

/-- TRAP (R410). -/
def execTrap (st : Bool) (imm : BitVec 16) (s : State) : Result :=
  issue (.trap st imm) (fun _ _ => .trap 0x20 (imm.setWidth 64)) s

/-- HALT in either form (R345): its cluster is inactive from the next cycle; ILLEGAL in handler mode. -/
def haltAct (i : Instr) (s : State) (c : Cluster) : Act :=
  if s.ctx.sr.handler then illegalWord i else .go (s.writeAt 1 (.deactivate c))

/-- HALT (R345). -/
def execHalt (st : Bool) (s : State) : Result := issue (.halt st) (haltAct (.halt st)) s

/-- HALT, 16-bit form (R345, Table 4.21). -/
def execHalt16 (st : Bool) (s : State) : Result := issue (.halt16 st) (haltAct (.halt16 st)) s

/-- NOP (R374). -/
def execNop (st : Bool) (s : State) : Result := issue (.nop st) (fun s _ => .go s) s

/-- NOP, 16-bit form (R374, Table 4.21). -/
def execNop16 (st : Bool) (s : State) : Result := issue (.nop16 st) (fun s _ => .go s) s

/-! ## Instructions that every active cluster issues together -/

/-- The program counter with which a cluster entered this cycle, and whether its word lies in a valid stage. -/
def headOf (s : State) (c : Cluster) : W64 × Bool :=
  match tabGet (cnum c) s.heads with
  | some h => h
  | none => ((s.ctx.cl.get c).pc, !(s.ctx.cl.get c).invalidStage)

def activeClusters (s : State) : List Cluster := allClusters.filter (fun c => (s.ctx.cl.get c).active)

/-- The word of a cluster in this cycle, if it is long, stitched and in a valid stage. -/
def stitchedHead (s : State) (c : Cluster) : Option Nat :=
  match codeWord s (headOf s c).1 with
  | .ok (true, w) => if (headOf s c).2 ∧ bitAt w 30 then some w else none
  | _ => none

/-- R244, R460, R462: the instruction is stitched and every other active cluster's word is one of its kind; with one active
cluster the stitch bit has no effect (R54, log 10). -/
def inGroup (s : State) (c : Cluster) (st : Bool) (kind : Nat → Bool) : Bool :=
  activeClusters s == [c] ||
    (st && (activeClusters s).all (fun d => d == c || (stitchedHead s d).any kind))

/-- The last member of a group, in cluster order, carries out the effect of all; the others only take their turn. -/
def groupAct (s : State) (effect : State → State) : Act :=
  if s.plan.tail = [] then .jump (effect s) else .jump s

/-- TRET (R244, R411). -/
def execTret (st : Bool) (s : State) : Result :=
  issue (.tret st) (fun s c =>
    if !s.ctx.sr.handler || !inGroup s c st (· == 0xF4300000) then illegalWord (.tret st)
    else if badRet s.ctx ≠ 0 then .trap 0x0D (BitVec.ofNat 64 (badRet s.ctx))
    else groupAct s returnFromTrap) s

/-- Whether a word is an XCALL, and its offset (R460). -/
def isXcall (w : Nat) : Bool := num w 25 5 == 27

/-- The record address that a cluster's XCALL names. -/
def xcallRecord (s : State) (c : Cluster) : W64 :=
  (headOf s c).1 + scaled (BitVec.ofNat 25 ((stitchedHead s c).getD 0)) 2

/-- A fault of a group: the first cluster to which a condition applies raises it; that cluster traps and the others take their
turns without effect. -/
def groupFaults (s : State) (c : Cluster) (fs : List (Option Cluster × Nat × W64)) (act : Act) : Act :=
  match fs.find? (fun f => f.1.isSome) with
  | some (d, code, tval) => if d = some c then .trap code tval else .jump s
  | none => act

/-- R460: an XCALL that ends a block's body or lies in a staged body. -/
def badXcallPlace (k : ClusterState) : Bool :=
  match k.enclosing with
  | none => false
  | some b => b.staged || b.stop == k.pc + 4

/-- The return entry of a cluster (R460): return address, block-stack depth, call floor. -/
def callEntry (s : State) (c : Cluster) : W64 :=
  let k := s.ctx.cl.get c
  if k.active then
    BitVec.ofNat 64 (((k.pc + 4).toNat % 2 ^ 57) + k.blocks.length * 2 ^ 57 + k.floor * 2 ^ 60)
  else 0

/-- The scratchpad store and register writes of XCALL, and the entry of each active cluster into its stream. -/
def callEffect (t : W64) (streams : List W64) (s : State) : State :=
  let rec' := (allClusters.map (callEntry s)).flatMap (fun e => natBytes e.toNat 8)
  let s1 := s.writeAt 6 (.spStore t.toNat rec' s.ctx.sr.dbgt)
  let s2 := (s1.writeAt 1 (.scalar .A 31 t)).writeAt 1 (.scalar .A 30 t)
  s2.modCtx (fun x =>
    { x with cl := x.cl.map (fun c k =>
        if k.active then { k with floor := k.blocks.length, pc := streams.getD (cnum c) 0 } else k) })

/-- The first active cluster for which a condition holds. -/
def firstWith (s : State) (p : Cluster → Bool) : Option Cluster := (activeClusters s).find? p

/-- XCALL (R460). -/
def execXcall (st : Bool) (off : BitVec 25) (s : State) : Result :=
  issue (.xcall st off) (fun s c =>
    let r := target s c off
    let t := s.ctx.regs.gpr .A 31 - 32
    let word := BitVec.ofNat 64 (encode (.xcall st off))
    let all := firstWith s (fun _ => true)
    let streams := (entryRecord s r).toOption.getD []
    let stream := fun (d : Cluster) => streams.getD (cnum d) 0
    let readFault := match entryRecord s r with
      | .error e => some e
      | .ok _ => none
    let bad := fun (d : Cluster) => targetFault s (stream d)
    let badAt := firstWith s (fun d => ((bad d).map (·.1)).any (· != 0x03))
    let noHeader := firstWith s (fun d => ((bad d).map (·.1)).any (· == 0x03))
    let tvalAt := fun (d : Option Cluster) => (d.map stream).getD 0
    if !inGroup s c st isXcall then illegalWord (.xcall st off)
    else
      groupFaults s c
        [(if (activeClusters s).any (fun d => d != c && xcallRecord s d != r) then all else none, 0x01, word),
         (firstWith s (fun d => badXcallPlace (s.ctx.cl.get d)), 0x01, word),
         (if r.toNat % 8 ≠ 0 then all else none, 0x05, r),
         (if t.toNat % 8 ≠ 0 then all else none, 0x05, t),
         (if spOut s.ctx t.toNat 32 then all else none, 0x08, t),
         (if readFault.isSome then all else none, readFault.getD 0, r),
         (firstWith s (fun d => stream d == 0), 0x01, word),
         (badAt, ((badAt.bind bad).map (·.1)).getD 0, tvalAt badAt),
         (noHeader, 0x03, tvalAt noHeader)]
        (groupAct s (callEffect t streams))) s

/-- A cluster's entry of a return record (R462). -/
def returnEntry (s : State) (t : Nat) (c : Cluster) : W64 := BitVec.ofNat 64 (s.ctx.spLoad (t + 8 * cnum c) 8)

/-- R462 item 5. -/
def badReturn (k : ClusterState) (e : W64) : Bool :=
  e == 0 || e.getLsbD 63 || decide (k.blocks.length < bits64 e 57 3) || decide (bits64 e 57 3 < bits64 e 60 3)

def returnEffect (t : W64) (s : State) : State :=
  let s1 := (s.writeAt 1 (.scalar .A 31 (t + 32))).writeAt 1 (.scalar .A 30 (t + 32))
  s1.modCtx (fun x =>
    { x with cl := x.cl.map (fun c k =>
        let e := returnEntry s t.toNat c
        if k.active then
          { k with blocks := k.blocks.drop (k.blocks.length - bits64 e 57 3), floor := bits64 e 60 3,
                   pc := (BitVec.ofNat 57 e.toNat).signExtend 64 }
        else k) })

/-- XRET (R462). -/
def execXret (st : Bool) (s : State) : Result :=
  issue (.xret st) (fun s c =>
    let t := s.ctx.regs.gpr .A 30
    let word := BitVec.ofNat 64 (encode (.xret st))
    let all := firstWith s (fun _ => true)
    let early := earlyFault s.ctx t.toNat 32
    if !inGroup s c st (· == 0xF4500000) then illegalWord (.xret st)
    else if wmHolds s.ctx t.toNat 32 then .wait .watermark
    else
      groupFaults s c
        [(if t.toNat % 8 ≠ 0 then all else none, 0x05, t),
         (if spOut s.ctx t.toNat 32 then all else none, 0x08, t),
         (if early.1 then all else none, early.2),
         (firstWith s (fun d => badReturn (s.ctx.cl.get d) (returnEntry s t.toNat d)), 0x01, word)]
        (groupAct s (returnEffect t))) s

end Sys2Proof.Machine
end

