-- ==== Sys2Proof/Machine/Special.lean ====
section
/-! DEFINITION. GETSR and SETSR (R80, R344, R396, R397), CHKERR (R334) and BSTAT (R331). -/

namespace Sys2Proof.Machine

/-- R277: a drawn task logs a result that depends on timing; a replay's is the one of the log (R279). -/
def State.logResult (s : State) (c : Cluster) (v : W64) : State × W64 :=
  if s.ctx.replays then
    let (x, bs) := s.ctx.takeLogged (cnum c) 0 8
    ({ s with ctx := x.tick }, BitVec.ofNat 64 (leNat bs))
  else if s.ctx.audit.drawn then (s.modCtx (fun x => (x.logRead (cnum c) x.nextAcc 0 (leBytes v)).tick), v)
  else (s, v)

/-- GETSR (R344). -/
def execGetsr (st : Bool) (reg : BitVec 6) (n : BitVec 8) (s : State) : Result :=
  issue (.getsr st reg n) (fun s c =>
    match s.ctx.sreg c n.toNat with
    | none => .trap 0x01 (n.setWidth 64)
    | some v =>
      if !sregAllowed c false n.toNat then .trap 0x01 (n.setWidth 64)
      else
        match capFault6 s c reg with
        | some (code, tval) => .trap code tval
        | none =>
          let (s1, w) := if n = 0x06 ∨ n = 0x18 then s.logResult c v else (s, v)
          .go (write6 s1 c 2 reg w)) s

/-- Table 20.2: the registers that SETSR writes in handler mode only. -/
def privileged (n : Nat) : Bool := (1 ≤ n && n ≤ 6)

/-- Two byte ranges that share a byte. -/
def rangesMeet (a b : Bobbin) : Bool := decide (a.lo < b.hi) && decide (b.lo < a.hi)

/-- R67: why a write of BCFGn with EN = 1 is refused, judged against the bobbins as the earlier SETSRs of this cycle leave
them. -/
def badBobbin (s : State) (n : Nat) (v : W64) : Bool :=
  let b := (bobbinAfter s n).configure v
  b.en &&
    ((bobbinAfter s n).en || (b.sz && b.base.toNat % 32 != 0) || decide (65536 < b.hi) || decide (8 ≤ b.prod.toNat) ||
      (List.range 16).any (fun m => m != n && (bobbinAfter s m).en && rangesMeet (bobbinAfter s m) b))

/-- The value faults of Table 20.2: the cause of the fault that a value raises. -/
def valueFault (s : State) (n : Nat) (v : W64) : Option Nat :=
  if n = 0x14 ∨ n = 0x15 then (if bits64 v 0 8 ≠ 0 then some 0x05 else none)
  else if n = 0x16 then (if v = 0 ∨ 64 < v.toNat then some 0x01 else none)
  else if 0x20 ≤ n ∧ n < 0x30 then (if badBobbin s (n - 0x20) v then some 0x01 else none)
  else none

/-- SETSR (R396, R397): the write takes effect from the next cycle. -/
def execSetsr (st : Bool) (reg : BitVec 6) (n : BitVec 8) (s : State) : Result :=
  issue (.setsr st reg n) (fun s c =>
    let v := rd6 s c reg
    if (s.ctx.sreg c n.toNat).isNone || !sregAllowed c true n.toNat then .trap 0x01 (n.setWidth 64)
    else if privileged n.toNat && !s.ctx.sr.handler then .trap 0x02 (n.setWidth 64)
    else
      match capFault6 s c reg with
      | some (code, tval) => .trap code tval
      | none =>
        match valueFault s n.toNat v with
        | some code => .trap code v
        | none => .go (s.writeAt 1 (.sreg c n v))) s

/-- Whether an earlier cluster has issued CHKERR in this cycle (R334). -/
def cirTaken (s : State) : Bool := s.ctx.flight.any (fun w => w.lands == s.now + 1 && w.eff == .cirClear)

/-- CHKERR (R334): the first in the cycle reads CIR; all clear it. -/
def execChkerr (st : Bool) (reg : BitVec 6) (s : State) : Result :=
  issue (.chkerr st reg) (fun s c =>
    match capFault6 s c reg with
    | some (code, tval) => .trap code tval
    | none =>
      let v : W64 := if cirTaken s then 0 else s.ctx.sr.cir
      .go ((write6 s c 2 reg v).writeAt 1 .cirClear)) s

/-- BSTAT (R331). -/
def execBstat (st : Bool) (b : BitVec 4) (reg : BitVec 6) (s : State) : Result :=
  issue (.bstat st b reg) (fun s c =>
    match capFault6 s c reg with
    | some (code, tval) => .trap code tval
    | none =>
      let v := BitVec.ofNat 64 (s.ctx.bobbin b.toNat).count
      let (s1, w) := s.logResult c v
      .go (write6 s1 c 1 reg w)) s

end Sys2Proof.Machine
end

