-- ==== Sys2Proof/Machine/Sync.lean ====
section
/-! DEFINITION. Sync flags (R56, R341, R342), hoops (R39 to R44, R346, R347), and the bobbin instructions (R69, R71, BTAKE, BGIVE,
BSTAT). -/

namespace Sys2Proof.Machine

/-! ## Flags -/

/-- FLSET (R341). -/
def flagSetAct (f : BitVec 3) (v : Bool) (s : State) (_ : Cluster) : Act := .go (s.writeAt 1 (.flag f.toNat v))

/-- FLWAIT (R342): a consuming wait completes only for the first cluster in the cycle (R56). -/
def flagWaitAct (f : BitVec 3) (clr : Bool) (s : State) (_ : Cluster) : Act :=
  if !vget s.ctx.flags f.toNat false || (clr && flagTaken s f.toNat) then .wait .flag
  else if clr then .go (s.writeAt 1 (.flagTake f.toNat)) else .go s

/-- FLSET (R341). -/
def execFlset (st : Bool) (f : BitVec 3) (v : Bool) (s : State) : Result := issue (.flset st f v) (flagSetAct f v) s

/-- FLSET fN, 1, 16-bit form (R341, Table 4.21). -/
def execFlsetSet16 (st : Bool) (f : BitVec 3) (s : State) : Result := issue (.flsetSet16 st f) (flagSetAct f true) s

/-- FLSET fN, 0, 16-bit form (R341, Table 4.21). -/
def execFlsetClear16 (st : Bool) (f : BitVec 3) (s : State) : Result :=
  issue (.flsetClear16 st f) (flagSetAct f false) s

/-- FLWAIT (R342). -/
def execFlwait (st : Bool) (f : BitVec 3) (clr : Bool) (s : State) : Result :=
  issue (.flwait st f clr) (flagWaitAct f clr) s

/-- FLWAIT, 16-bit form (R342, Table 4.21). -/
def execFlwait16 (st : Bool) (f : BitVec 3) (s : State) : Result := issue (.flwait16 st f) (flagWaitAct f false) s

/-- FLWAIT.clr, 16-bit form (R342, Table 4.21). -/
def execFlwaitClr16 (st : Bool) (f : BitVec 3) (s : State) : Result := issue (.flwaitClr16 st f) (flagWaitAct f true) s

/-! ## Hoops -/

/-- R46: the instances of a gang that is being saved count no further arrival. -/
def hoopFrozen (s : State) (r : HoopRec) : Bool := r.scope ≠ 4 && ((s.gangOf s.ctx.gang).map (·.frozen)).getD false

/-- R41, R42, R347: whether an armed task's HARRIVE or HWAIT waits. One that has waited goes on when the completion reaches the task; one
that comes after the completion does not wait. -/
def hoopHolds (s : State) (c : Cluster) (r : HoopRec) (i : HoopInst) : Bool :=
  r.armed && (i.gen == r.gen || ((s.ctx.cl.get c).wait == .hoop && !hoopReached s.now r i))

/-- R279: a replay's HARRIVE and HWAIT complete at once. -/
def unlessReplay (s : State) (act : Act) : Act := if s.ctx.replays then .go s else act

/-- R194: an arrival or a leave follows every access that it releases. It counts at once when none of them is outstanding (log 12). -/
def releaseHoop (s : State) (c : Cluster) (h : Nat) (r : HoopRec) (k : AccKind) : State :=
  let s1 := (s.modCtx (·.setHoop h r)).enqueue
    { num := 0, loadQ := false, issuer := c, kind := k, elems := [], size := 0, data := 0, cls := none, ord := 0, scope := 0,
      seen := false }
  if s.ctx.gq.isEmpty then s1.performAt 0 else s1

/-- HARRIVE (R41 to R44, R346). One that comes after another of its task in the same cycle waits, whatever the first has completed (R346). One of an
unarmed task that comes after the freeze waits at the hoop, and its cluster stops there (log 92: R46 does not say). The arrival of a HARRIVE that
waited is an acquire (R194). -/
def execHarrive (st : Bool) (h : BitVec 3) (leave : Bool) (s : State) : Result :=
  issue (.harrive st h leave) (fun s c =>
    unlessReplay s <|
    let r := hoopRec s.ctx h.toNat
    match hoopOf s s.ctx.gang h.toNat r with
    | none => .trap 0x01 (h.setWidth 64)
    | some i =>
      if r.scope = 0 || !r.member then .trap 0x01 (h.setWidth 64)
      else if hoopFrozen s r then .wait .hoop
      else if leave then .go (releaseHoop s c h.toNat r.left (.leave h.toNat r.scope r.group r.armed r.gen))
      else if hoopHolds s c r i || (r.armed && r.armedAt == s.now + 1) then .wait .hoop
      else
        let s1 := releaseHoop s c h.toNat (r.arrives i s.now) (.arrive h.toNat)
        .go (if r.armed then s1.selfInvalidate else s1)) s

/-- HWAIT (R41, R44, R347). Its completion is an acquire (R194); a task that a completion of this cycle has let through lets
its other clusters through as well. -/
def execHwait (st : Bool) (h : BitVec 3) (s : State) : Result :=
  issue (.hwait st h) (fun s c =>
    unlessReplay s <|
    let r := hoopRec s.ctx h.toNat
    match hoopOf s s.ctx.gang h.toNat r with
    | none => .trap 0x01 (h.setWidth 64)
    | some i =>
      if r.scope = 0 || !r.member then .trap 0x01 (h.setWidth 64)
      else if hoopHolds s c r i then .wait .hoop
      else .go (s.modCtx (·.setHoop h.toNat { r with armed := false, notified := false })).selfInvalidate) s

/-! ## Bobbin instructions -/

/-- BTAKE (R69, R332): ILLEGAL, the wait, then the take. -/
def takeAct (i : Instr) (b : BitVec 4) (n : Nat) (reg : Option (BitVec 6)) (s : State) (c : Cluster) : Act :=
  let bb := s.ctx.bobbin b.toNat
  if !bb.en || bb.cons.toNat != cnum c || decide (bb.slots < n) || (reg.isSome && bb.sz) then illegalWord i
  else if bb.count < n then .wait (sourceWait bb)
  else
    let s1 := s.writeAt 1 (.take b.toNat n)
    match reg with
    | some r => .go ((s1.readsNext b.toNat).writeAt 1 (.scalar c r.toNat (toW64 (s.ctx.slotValue b.toNat bb.take))))
    | none => .go s1

/-- BTAKE (R332). -/
def execBtake (st : Bool) (b : BitVec 4) (n1 : BitVec 2) (r : Bool) (reg : BitVec 6) (s : State) : Result :=
  issue (.btake st b n1 r reg) (takeAct (.btake st b n1 r reg) b (n1.toNat + 1) (if r then some reg else none)) s

/-- BTAKE, 16-bit form: one slot (Table 4.21). -/
def execBtake16 (st : Bool) (b : BitVec 4) (s : State) : Result :=
  issue (.btake16 st b) (takeAct (.btake16 st b) b 1 none) s

/-- BGIVE (R69, R325): ILLEGAL, the wait, then the give. -/
def giveAct (i : Instr) (b : BitVec 4) (n : Nat) (s : State) (c : Cluster) : Act :=
  let bb := s.ctx.bobbin b.toNat
  if !bb.en || bb.prod.toNat != cnum c || decide (bb.slots < n) then illegalWord i
  else if bb.slots - bb.count < n then .wait .bobbinRoom
  else .go (s.writeAt 1 (.give b.toNat n))

/-- BGIVE (R325). -/
def execBgive (st : Bool) (b : BitVec 4) (n1 : BitVec 2) (s : State) : Result :=
  issue (.bgive st b n1) (giveAct (.bgive st b n1) b (n1.toNat + 1)) s

/-- BGIVE, 16-bit form: one slot (Table 4.21). -/
def execBgive16 (st : Bool) (b : BitVec 4) (s : State) : Result := issue (.bgive16 st b) (giveAct (.bgive16 st b) b 1) s

end Sys2Proof.Machine
end

