-- ==== Sys2Proof/Machine/Shuttle.lean ====
section
/-! DEFINITION. The shuttle (R163 to R179, R399, R403, R386): SHGO, SHWM, RECFL, the begin, the moves and the completion of a
command; and PROBE with its fills (R148 to R151, R381, R382). -/

namespace Sys2Proof.Machine

/-! ## The pricking (Table 8.2) -/

def pw (p : BitVec 640) (k : Nat) : W64 := BitVec.ofNat 64 (p.toNat / 2 ^ (64 * k))
def prickScope (p : BitVec 640) : Nat := bits64 (pw p 0) 57 3
def prickBC (p : BitVec 640) : Bool := (pw p 0).getLsbD 56
def prickKind (p : BitVec 640) : Nat := bits64 (pw p 0) 54 2
def prickUnp (p : BitVec 640) : Bool := (pw p 0).getLsbD 53
def prickRdim (p : BitVec 640) : Nat := bits64 (pw p 0) 50 3
def prickRun (p : BitVec 640) : Nat := bits64 (pw p 0) 41 9 + 1
def prickBase (p : BitVec 640) : Nat := bits64 (pw p 0) 20 20
def prickIdx (p : BitVec 640) : Nat := bits64 (pw p 0) 14 6
def prickCount (p : BitVec 640) (l : Nat) : Nat := bits64 (pw p (l + 1)) 48 16
def prickDim (p : BitVec 640) (l : Nat) : Nat := bits64 (pw p (l + 1)) 45 3
def prickRstep (p : BitVec 640) (l : Nat) : Int := (BitVec.ofNat 21 (bits64 (pw p (l + 1)) 24 21)).toInt
def prickLstep (p : BitVec 640) (l : Nat) : Int := (BitVec.ofNat 24 (bits64 (pw p (l + 1)) 0 24)).toInt
def prickOrg (p : BitVec 640) (d : Nat) : Int := (BitVec.ofNat 32 (p.toNat / 2 ^ (448 + 32 * d))).toInt

/-- The first word of a pricking that breaks a rule of Table 8.2. -/
def badPrick (p : BitVec 640) : Option Nat :=
  let w := pw p 0
  let kind := prickKind p
  let idxBad := if kind = 1 then decide (48 ≤ prickIdx p) else if kind = 2 then decide (16 ≤ prickIdx p)
    else prickIdx p != 0
  if bits64 w 60 4 != 0 || w.getLsbD 40 || bits64 w 0 14 != 0 || decide (5 ≤ prickScope p) || (prickUnp p && kind == 3) ||
      idxBad || (kind == 2 && prickBase p != 0) then some 0
  else ((List.range 6).find? (fun l => prickCount p l == 0 || decide (6 ≤ prickDim p l))).map (· + 1)

/-! ## The layout record (Table 8.3) -/

def recByte (r : BitVec 1536) (i : Nat) : Nat := r.toNat / 2 ^ (8 * i) % 256
def recWord (r : BitVec 1536) (i : Nat) : W64 := BitVec.ofNat 64 (r.toNat / 2 ^ (8 * i))
def recFmt (r : BitVec 1536) : Nat := recByte r 8
def recRank (r : BitVec 1536) : Nat := recByte r 9
def recExtent (r : BitVec 1536) (d : Nat) : W64 := recWord r (16 + 8 * d)
def recStride (r : BitVec 1536) (d : Nat) : Int := (recWord r (64 + 8 * d)).toInt
def recClip (r : BitVec 1536) (d : Nat) : W64 := recWord r (112 + 8 * d)
def recPeriod (r : BitVec 1536) : Nat := recByte r 168
def recNf (r : BitVec 1536) : Nat := recByte r 169
def recSfmt (r : BitVec 1536) : Nat := recByte r 170
def recDfmt (r : BitVec 1536) : Nat := recByte r 171

/-- The size of an element of a format in the local image (R169). DESIGN CHOICE (log 95): R170's size(DFMT) of e2m1 is not
stated; each unpacked code takes a byte of its own, in bits 3:0. -/
def elemBytes (fmt : Nat) : Nat := max 1 (typeBits fmt / 8)

/-- R170: whether the unpack pattern is well formed. -/
def unpackOk (r : BitVec 1536) : Bool :=
  let p := recPeriod r
  decide (8 ≤ p) && decide (p ≤ 128) && p % 8 == 0 && decide (1 ≤ recNf r) && decide (recNf r ≤ 16) &&
  (recSfmt r == recDfmt r || (exactTargets (recSfmt r)).contains (recDfmt r)) &&
  (List.range 16).all (fun f =>
    let b := recByte r (172 + f)
    if f < recNf r then decide (b < 128) && decide (b + typeBits (recSfmt r) ≤ p) else b == 0)

/-- R171: the sub-status of the RECORD fault of a command: 1 the check word, 2 a field. -/
def badRecord (p : BitVec 640) (r : BitVec 1536) : Option Nat :=
  let rank := recRank r
  if crc32c (natBytes r.toNat 188) ≠ BitVec.ofNat 32 (r.toNat / 2 ^ 1504) then some 1
  else if decide (13 ≤ recFmt r) || decide (13 ≤ recSfmt r) || decide (13 ≤ recDfmt r) || rank == 0 || decide (6 < rank) ||
      bits64 (recWord r 8) 16 48 != 0 ||
      (List.range 6).any (fun d =>
        if d < rank then recExtent r d == 0 || decide (2 ^ 32 ≤ (recExtent r d).toNat)
        else recExtent r d != 0 || recWord r (64 + 8 * d) != 0 || recClip r d != 0) ||
      decide (rank ≤ prickRdim p) || (List.range 6).any (fun l => decide (rank ≤ prickDim p l)) ||
      (prickUnp p && !unpackOk r) then some 2
  else none

/-- The local size of one position (R169, R170). -/
def localBytes (p : BitVec 640) (r : BitVec 1536) : Nat :=
  if prickUnp p then recNf r * elemBytes (recDfmt r) else elemBytes (recFmt r)

/-- The global size of one position. -/
def globalBytes (p : BitVec 640) (r : BitVec 1536) : Nat :=
  if prickUnp p then recPeriod r / 8 else elemBytes (recFmt r)

/-- The local bytes of a padded position. -/
def padBytes (p : BitVec 640) (r : BitVec 1536) : List Byte :=
  let pad := (recWord r 160).toNat
  if prickUnp p then (List.replicate (recNf r) (natBytes pad (elemBytes (recDfmt r)))).flatten
  else natBytes pad (elemBytes (recFmt r))

/-- R170: the local bytes that one period unpacks to. -/
def unpackBytes (r : BitVec 1536) (bs : List Byte) : List Byte :=
  let n := leNat bs
  (List.range (recNf r)).flatMap (fun f =>
    let code := n / 2 ^ recByte r (172 + f) % 2 ^ typeBits (recSfmt r)
    natBytes (convert { rm := 0, ftz := false, l8nar := false, draw := 0 } (recDfmt r) (recSfmt r) code).1
      (elemBytes (recDfmt r)))

/-! ## Positions (R167) -/

def Cursor.get (k : Cursor) (l : Nat) : Nat :=
  match l with
  | 0 => k.i0
  | 1 => k.i1
  | 2 => k.i2
  | 3 => k.i3
  | 4 => k.i4
  | _ => k.i5

def Cursor.zero : Cursor := { i0 := 0, i1 := 0, i2 := 0, i3 := 0, i4 := 0, i5 := 0, e := 0 }

/-- Steps the loop indices from level `l` outward; none when the outermost loop ends. -/
def stepLevels (p : BitVec 640) (k : List Nat) : Nat → Nat → Option (List Nat)
  | 0, _ => none
  | n + 1, l =>
    if k.getD l 0 + 1 < prickCount p l then some (listSet k l (k.getD l 0 + 1))
    else stepLevels p (listSet k l 0) n (l + 1)

/-- The position after a cursor, and none at the end of the command. -/
def Cursor.next (p : BitVec 640) (k : Cursor) : Option Cursor :=
  if k.e + 1 < prickRun p then some { k with e := k.e + 1 }
  else
    (stepLevels p ((List.range 6).map k.get) 6 0).map (fun js =>
      { i0 := js.getD 0 0, i1 := js.getD 1 0, i2 := js.getD 2 0, i3 := js.getD 3 0, i4 := js.getD 4 0, i5 := js.getD 5 0,
        e := 0 })

def sumInt (f : Nat → Int) (n : Nat) : Int := (List.range n).foldl (fun a i => a + f i) 0

/-- A record coordinate of a position. -/
def coordinate (p : BitVec 640) (k : Cursor) (d : Nat) : Int :=
  prickOrg p d + sumInt (fun l => if prickDim p l = d then (k.get l : Int) * prickRstep p l else 0) 6 +
    (if prickRdim p = d then (k.e : Int) else 0)

/-- The local address of a position. -/
def localAddr (p : BitVec 640) (r : BitVec 1536) (k : Cursor) : Int :=
  (prickBase p : Int) + sumInt (fun l => (k.get l : Int) * prickLstep p l) 6 + (k.e * localBytes p r : Nat)

def inClip (p : BitVec 640) (r : BitVec 1536) (k : Cursor) : Bool :=
  (List.range (recRank r)).all (fun d =>
    let x := coordinate p k d
    let lo := (BitVec.ofNat 32 (bits64 (recClip r d) 0 32)).toInt
    let hi := (BitVec.ofNat 32 (bits64 (recClip r d) 32 32)).toInt
    decide (max 0 lo ≤ x) && decide (x < min ((recExtent r d).toNat : Int) hi))

/-- The global address of a position. -/
def globalAddr (p : BitVec 640) (r : BitVec 1536) (k : Cursor) : W64 :=
  recWord r 0 + BitVec.ofInt 64 (sumInt (fun d => coordinate p k d * recStride r d) (recRank r))

/-- The local addresses of every position of a command. -/
def localSpan (p : BitVec 640) (r : BitVec 1536) : List Int :=
  (List.range 6).foldl (fun (acc : List Int) l =>
      (List.range (prickCount p l)).flatMap (fun (i : Nat) => acc.map (fun a => a + (i : Int) * prickLstep p l)))
    ((List.range (prickRun p)).map (fun e => ((prickBase p + e * localBytes p r : Nat) : Int)))

/-! ## Channels -/

def Engines.channel (e : Engines) (ch : Bool) : ShQueue := if ch then e.sh1 else e.sh0
def Engines.setChannel (e : Engines) (ch : Bool) (q : ShQueue) : Engines :=
  if ch then { e with sh1 := q } else { e with sh0 := q }

def State.modChannel (s : State) (ch : Bool) (f : ShQueue → ShQueue) : State :=
  s.modEng (fun e => e.setChannel ch (f (e.channel ch)))

/-- Replaces the command at the head of a channel's queue. -/
def State.setHead (s : State) (ch : Bool) (c : ShCmd) : State :=
  s.modChannel ch (fun q => { q with cmds := c :: q.cmds.tail })

/-- A command takes its place in a channel's queue, with the next index (R177). -/
def State.pushShuttle (s : State) (ch : Bool) (c : ShCmd) : State :=
  s.modChannel ch (fun q => { q with cmds := q.cmds ++ [{ c with idx := q.next % 2 ^ 24 }], next := q.next + 1 })

def emptyShCmd : ShCmd :=
  { issued := 0, after := 0, fill := none, pricking := 0, handle := 0, aw := 0, idx := 0, phys := none, begun := false,
    record := 0, cur := Cursor.zero, buf := [], finished := false, bytes := 0, failed := false }

/-- A slot counts a fill from the shuttle command's issue until its last byte (R124). -/
def State.markFill (s : State) (p issued : Nat) (on : Bool) : State :=
  let q := myQuad s
  let o := vget q.slots p .reset
  let fills := if on then o.fills ++ [issued] else o.fills.erase issued
  s.setMyQuad { q with slots := vset q.slots p { o with fills := fills } }

/-- Whether a context's engines work (R38, R48, Table 12.3); of a saved one only once it is terminated, for what it still owes (R49). -/
def Ctx.enginesRun (x : Ctx) : Bool :=
  match x.life with
  | .ready => true
  | .engineWait => true
  | .hoopWait => true
  | .stopping => true
  | .retiring => true
  | .saved => x.stop.isNone
  | _ => false

/-- Whether a channel serves a context now: its queue runs, and it owes no update. -/
def ShQueue.serves (q : ShQueue) : Bool := q.run == .run && q.updates.isEmpty && !q.cmds.isEmpty

def channelKey (x : Ctx) (ch : Bool) : Nat := x.coreId * 2 + ch.toNat

/-- R163: a channel serves its two queues one command at a time and alternates while both wait: whether it can begin, or go on with, the head
of the focused context's queue. Of two that have begun, it is in the middle of the one that began last. -/
def channelFree (s : State) (ch : Bool) : Bool :=
  let x := s.ctx
  let mine := ((x.eng.channel ch).cmds.head?.map (·.begun)).getD false
  match s.others.find? (fun y => y.life != .none && y.coreId == x.coreId && y.slot != x.slot && y.enginesRun) with
  | none => true
  | some y =>
    let q := y.eng.channel ch
    if !q.serves then true
    else if (q.cmds.head?.map (·.begun)).getD false then mine && tabGet (channelKey x ch) s.shLast == some x.slot
    else mine || tabGet (channelKey x ch) s.shLast != some x.slot

/-- A fault stops a channel's queue of the focused context (R179). -/
def stopChannel (s : State) (ch : Bool) (idx cause sub : Nat) (tval : W64) : State :=
  (s.modChannel ch (fun q => { q with run := .pending })).modCtx (·.raise
    { arose := s.now, cause := BitVec.ofNat 6 cause, tval := tval, clu := .A, eng := ch.toNat, idx := idx, estw := estw cause sub })

/-! ## SHGO, SHWM, RECFL -/

/-- SHGO (R165, R399). A command whose pricking an error withholds fails as one whose source does, and names a word and nothing else (log 94). -/
def execShgo (st : Bool) (ra rb rc : BitVec 5) (ch : Bool) (s : State) : Result :=
  issue (.shgo st ra rb rc ch) (fun s c =>
    let ap := rd s c ra
    let ah := rd s c rb
    let aw := rd s c rc
    let p : BitVec 640 := BitVec.ofNat 640 (s.ctx.spLoad ap.toNat 80)
    let lost := s.ctx.spLost ap.toNat 80
    if 8 ≤ (s.ctx.eng.channel ch).cmds.length then .wait .queueFull
    else if wmHolds s.ctx ap.toNat 80 then .wait .watermark
    else
      faultsThen
        [(ap.toNat % 16 ≠ 0, 0x05, ap), (ah.toNat % 64 ≠ 0, 0x05, ah), (aw.toNat % 8 ≠ 0, 0x05, aw),
         (spOut s.ctx ap.toNat 80, 0x08, ap), earlyFault s.ctx ap.toNat 80,
         (!lost && prickBC p && aw.toNat % 16 != 0, 0x05, aw),
         (!lost && (badPrick p).isSome, 0x01, ap + BitVec.ofNat 64 (8 * (badPrick p).getD 0))]
        (if lost then
           .go ((signCommand s c (encode (.shgo st ra rb rc ch)) [ap, ah, aw]).pushShuttle ch
             { emptyShCmd with issued := s.now, after := s.ctx.nextAcc, handle := ah, aw := aw, begun := true, finished := true, failed := true })
         else
         let phys := if prickKind p = 1 then slotOfName s.ctx.eng (prickIdx p) else none
         let cmd := { emptyShCmd with
           issued := s.now, after := s.ctx.nextAcc, pricking := p, handle := ah, aw := aw, phys := phys }
         let s1 := if prickKind p = 3 then s.modCtx Ctx.tick
           else signCommand s c (encode (.shgo st ra rb rc ch)) [ap, ah, aw]
         let s2 := match phys with
           | some q => s1.markFill q s.now true
           | none => s1
         .go (s2.pushShuttle ch cmd))) s

/-- Table 8.4. -/
def watermarkImage (q : ShQueue) : W64 :=
  let act := match q.cmds.head? with
    | some c => c.begun && c.fill.isNone && prickKind c.pricking == 0
    | none => false
  BitVec.ofNat 64 (q.wm % 2 ^ 20 + q.lo % 2 ^ 20 * 2 ^ 32 + act.toNat * 2 ^ 63)

/-- SHWM (R175, R403). -/
def execShwm (st : Bool) (ch : Bool) (dst : BitVec 5) (s : State) : Result :=
  issue (.shwm st ch dst) (fun s c =>
    let v := watermarkImage (s.ctx.eng.channel ch)
    let (s1, w) := s.logResult c v
    .go (s1.writeAt 2 (.scalar c dst.toNat w))) s

/-- RECFL (R172, R386): the copies go at once, and again when every earlier access has been performed: a command that began in between may
have taken the old bytes. -/
def execRecfl (st : Bool) (ra : BitVec 5) (s : State) : Result :=
  issue (.recfl st ra) (fun s c =>
    let h := rd s c ra
    if h.toNat % 64 ≠ 0 then .trap 0x05 h
    else
      .go ((s.dropRecords s.ctx.asid h).enqueue
        { num := 0, loadQ := false, issuer := c, kind := .recfl h, elems := [], size := 0, data := 0, cls := none, ord := 2,
          scope := 4, seen := false })) s

/-! ## Reads and writes of an engine -/

/-- The pieces of a byte range that lie on one page each, translated for an engine of the focused context, or the fault. -/
def enginePieces (s : State) (need : Need) : Nat → W64 → Nat → Except (Nat × W64) (List (Elem × Nat))
  | 0, _, _ => .ok []
  | f + 1, va, n =>
    if n = 0 then .ok []
    else
      match translate s s.ctx.coreId s.ctx.asid need va with
      | .error e => .error (e, va)
      | .ok t =>
        let k := min n (t.base + t.size - va57 va)
        match enginePieces s need f (va + BitVec.ofNat 64 k) (n - k) with
        | .error e => .error e
        | .ok ps => .ok ((elemOf s va t, k) :: ps)

/-- The translations of an engine's pieces enter the caches (R158, R159). -/
def State.notePieces (s : State) (ps : List (Elem × Nat)) : State := ps.foldl (fun t p => t.fetched p.1.va) s

/-- Reads the pieces; none when an uncorrectable error withholds a byte. Each counts toward its page (R15). -/
def readPieces (s : State) : List (Elem × Nat) → State × Option (List Byte)
  | [] => (s, some [])
  | (e, n) :: t =>
    let (s1, r) := (s.countAccess s.ctx.die s.ctx.asid e.va 1).homeRead s.ctx.requester e e.pa n
    let (s2, r2) := readPieces s1 t
    (s2, match r, r2 with
      | some a, some b => some (a ++ b)
      | _, _ => none)

/-- Writes bytes over the pieces. -/
def writePieces (s : State) (bs : List Byte) : List (Elem × Nat) → State
  | [] => s
  | (e, n) :: t =>
    writePieces ((s.countAccess s.ctx.die s.ctx.asid e.va 1).agentWrite e (bs.take n)) (bs.drop n) t

/-- R277: whether a read of a drawn task lies in no range of its input list. -/
def undeclared (s : State) (va : W64) (n : Nat) : Bool :=
  s.ctx.audit.drawn &&
    match s.gangOf s.ctx.gang with
    | none => false
    | some g => !g.inputs.any (fun r =>
        decide (r.1.toNat ≤ va.toNat) && decide (va.toNat + n ≤ r.1.toNat + r.2.toNat))

/-! ## Begin (R171 to R173, R176) -/

/-- The die's record cache holds 256 entries; the oldest leaves (log 14). -/
def State.cacheRecord (s : State) (handle : W64) (r : BitVec 1536) : State :=
  let d := vget s.dies s.ctx.die .reset
  let key := s.ctx.asid.toNat
  let rest := d.records.filter (fun x => x.1 != key || x.2.1 != handle)
  { s with dies := vset s.dies s.ctx.die { d with records := ((key, handle, r) :: rest).take 256 } }

/-- The record of a handle: the entry of the die's record cache, or the 192 bytes in memory. -/
def takeRecord (s : State) (handle : W64) : Except (Nat × W64) (State × BitVec 1536) :=
  let d := vget s.dies s.ctx.die .reset
  match d.records.find? (fun x => x.1 == s.ctx.asid.toNat && x.2.1 == handle) with
  | some x => .ok (s, x.2.2)
  | none =>
    match enginePieces s .read 3 handle 192 with
    | .error e => .error e
    | .ok ps =>
      let (s1, bs) := readPieces (s.notePieces ps) ps
      let r : BitVec 1536 := BitVec.ofNat 1536 (leNat (bs.getD (abortBytes 192)))
      .ok (s1.cacheRecord handle r, r)

/-- The declared range and the bytes to be written (R173). -/
def declare (q : ShQueue) (p : BitVec 640) (r : BitVec 1536) : ShQueue :=
  let starts := localSpan p r
  let bytes := starts.flatMap (fun a => (List.range (localBytes p r)).map (fun (i : Nat) => (a + (i : Int)).toNat))
  let lo := bytes.min?.getD 0
  { q with lo := lo, wm := lo, hi := (bytes.max?.map (· + 1)).getD 0, unwritten := bytes }

/-- The number of positions of a command. -/
def positions (p : BitVec 640) : Nat := (List.range 6).foldl (fun n l => n * prickCount p l) (prickRun p)

/-- The destination's checks and what the begin declares; a command that a stop has cut keeps its range (R163, R172). A fault gives sub-status and TVAL. -/
def beginLocal (s : State) (ch : Bool) (c : ShCmd) (r : BitVec 1536) : Except (Nat × W64) State :=
  let p := c.pricking
  let begun := { c with begun := true, record := r }
  let idx := BitVec.ofNat 64 (prickIdx p)
  match prickKind p with
  | 0 => .ok ((s.setHead ch begun).modChannel ch (fun q => if c.cur = Cursor.zero then declare q p r else q))
  | 1 =>
    match c.phys with
    | some _ => .ok (s.setHead ch begun)
    | none =>
      match slotOfName s.ctx.eng (prickIdx p) with
      | none => .error (2, idx)
      | some n => .ok ((s.markFill n c.issued true).setHead ch { begun with phys := some n })
  | 2 =>
    let b := s.ctx.bobbin (prickIdx p)
    if !b.en || b.prod.toNat != 5 + ch.toNat then .error (1, idx)
    else if positions p * localBytes p r % b.slotBytes ≠ 0 then .error (4, idx)
    else .ok (s.setHead ch begun)
  | _ => .ok (s.setHead ch begun)

/-- A command of the focused context begins: its record, the record's checks, the local side. -/
def beginShuttle (s : State) (ch : Bool) (c : ShCmd) : State :=
  let s0 := { s with shLast := tabSet (channelKey s.ctx ch) s.ctx.slot s.shLast }
  match c.fill with
  | some _ => s0.setHead ch { c with begun := true }
  | none =>
    match takeRecord s0 c.handle with
    | .error (e, va) => stopChannel (s0.fetched va) ch c.idx e 1 va
    | .ok (s1, r) =>
      match badRecord c.pricking r with
      | some sub =>
        let key := s.ctx.asid.toNat
        let d := vget s0.dies s.ctx.die .reset
        let d1 := { d with records := d.records.filter (fun x => x.1 != key || x.2.1 != c.handle) }
        let s2 := { s0 with dies := vset s0.dies s.ctx.die d1 }
        stopChannel s2 ch c.idx 0x17 sub c.handle
      | none =>
        match beginLocal s1 ch c r with
        | .error (sub, tval) => stopChannel s1 ch c.idx 0x30 sub tval
        | .ok s2 => s2

/-- The addresses in other packages of a command's position, of a fill's line, or, before it begins, of its record. -/
def remotePieces (s : State) (c : ShCmd) : List Elem :=
  let (va, n) := match c.fill with
    | some _ => (c.handle + BitVec.ofNat 64 (64 * c.cur.e), 64)
    | none => if c.begun then (globalAddr c.pricking c.record c.cur, globalBytes c.pricking c.record) else (c.handle, 192)
  if c.fill.isSome || !c.begun || inClip c.pricking c.record c.cur then
    match enginePieces s .read n va n with
    | .ok ps => (ps.map (·.1)).filter (fun e => pteRMT e.pte)
    | .error _ => []
  else []

/-- Whether a channel waits for another package that no port reaches (R300), and whether it has waited for 2 ms (R301). -/
def linkStops (s : State) (c : ShCmd) : Bool := (remotePieces s c).any (fun e => heldAway s e 1)
def linkDead (s : State) (c : ShCmd) : Bool := !linkUp s && !(remotePieces s c).isEmpty

/-- SHUTTLE_COMMAND_BEGIN (R163, R171): the head command of a queue begins once all that its issue released has been
performed (R192) and the channel is free. -/
def execShuttleCommandBegin (cid : Nat) (ch : Bool) (s : State) : Result :=
  match s.ctxOf cid with
  | none => notNow s
  | some x =>
    let q := x.eng.channel ch
    match q.cmds with
    | [] => notNow s
    | c :: _ =>
      if !x.enginesRun || !q.serves || c.begun || !s.power.gate || !x.releasedTo c.after then notNow s
      else
        eventOn s cid (fun t =>
          if channelFree t ch && !(c.fill.isNone && linkStops t c) then (beginShuttle t ch c, true) else (t, false))

/-! ## Moves (R167, R174, R176, R178) -/

/-- What a move comes to. -/
inductive Moved
  | on (s : State)
  | stays
  | stopped (s : State)
  deriving DecidableEq, Repr

/-- The watermark after bytes have been written (R173). -/
def ShQueue.wrote (q : ShQueue) (a n : Nat) : ShQueue :=
  let left := q.unwritten.filter (fun b => decide (b < a) || decide (a + n ≤ b))
  { q with unwritten := left, wm := left.min?.getD q.hi }

/-- R124: whether some tile command that names a slot, accepted before the shuttle command issued, has not executed. -/
def tileBefore (s : State) (p issued : Nat) : Bool :=
  let blocks := fun (c : TileCmd) => c.op.slots.contains p && decide (c.issued ≤ issued)
  (myQuad s).queue.any blocks ||
    (allCtxs s).any (fun x => x.resident && x.quadId == s.ctx.quadId && x.eng.held.any blocks)

/-- The head command with its position moved on; after the last one it is finished, and its slot's fill is complete. -/
def advance (s : State) (ch : Bool) (c : ShCmd) : State :=
  match c.cur.next c.pricking with
  | some k => s.setHead ch { c with cur := k }
  | none =>
    let k := { c.cur with e := prickRun c.pricking }
    let s1 := s.setHead ch { c with finished := c.buf.isEmpty, cur := k }
    match c.phys with
    | some p => (s1.markFill p c.issued false).settleSlots s.ctx.quadId
    | none => s1

/-- Whether the walk to some byte of a range waits for a pseudo-channel in all-bank mode. -/
def rangeWalkHeld (s : State) (va : W64) (n : Nat) : Bool :=
  walkHeld s s.ctx.coreId s.ctx.asid va || walkHeld s s.ctx.coreId s.ctx.asid (va + BitVec.ofNat 64 (n - 1))

/-- R211: whether the read of a position waits for a pseudo-channel in all-bank mode. -/
def readHeld (s : State) (va : W64) (n : Nat) : Bool :=
  !s.holds.isEmpty && (rangeWalkHeld s va n ||
    match enginePieces s .read n va n with
    | .ok ps => ps.any (fun x => heldAway s x.1 x.2)
    | .error _ => false)

def positionHeld (s : State) (c : ShCmd) : Bool :=
  !s.holds.isEmpty && inClip c.pricking c.record c.cur &&
    readHeld s (globalAddr c.pricking c.record c.cur) (globalBytes c.pricking c.record)

/-- The bytes that a channel reads: from the log in a replay (R279), none when another package does not answer. -/
def readLogged (s : State) (ch dead : Bool) (va : W64) (n : Nat) (ps : List (Elem × Nat)) : State × Option (List Byte) :=
  if s.ctx.replays then
    let (x, bs) := s.ctx.takeLogged (4 + ch.toNat) va n
    ({ s with ctx := x }, some bs)
  else if dead then (s, none)
  else readPieces (s.notePieces ps) ps

/-- The local bytes of a position that is read: read, unpacked, or padded; on an uncorrectable error, and when another package
does not answer (`dead`, R301), all ones (R178). -/
def fetchPosition (s : State) (ch : Bool) (c : ShCmd) (dead : Bool) : Except (Nat × Nat × W64) (State × ShCmd × List Byte) :=
  let p := c.pricking
  let r := c.record
  if !inClip p r c.cur then .ok (s, c, padBytes p r)
  else
    let va := globalAddr p r c.cur
    let n := globalBytes p r
    if undeclared s va n then .error (0x18, 0, va)
    else
      match enginePieces s .read n va n with
      | .error (e, v) => .error (e, 0, v)
      | .ok ps =>
        let (s1, bs) := readLogged s ch dead va n ps
        match bs with
        | some b =>
          let s2 := s1.modCtx (fun x => x.logRead (4 + ch.toNat) x.nextAcc va b)
          .ok (s2, { c with bytes := c.bytes + BitVec.ofNat 64 n }, if prickUnp p then unpackBytes r b else b)
        | none =>
          let s2 := s1.modCtx (fun x => x.logRead (4 + ch.toNat) x.nextAcc va (abortBytes n))
          .ok (s2, { c with failed := true }, abortBytes (localBytes p r))

/-- Whole slots of what has been read enter the bobbin while it has room (R70, R176). -/
def publish (s : State) (b : Nat) (buf : List Byte) : Nat → State × List Byte
  | 0 => (s, buf)
  | f + 1 =>
    let bb := s.ctx.bobbin b
    if buf.length < bb.slotBytes ∨ ¬ bb.count < bb.slots then (s, buf)
    else publish (s.modCtx (·.fillNext b (ofImage (buf.take bb.slotBytes)))) b (buf.drop bb.slotBytes) f

/-- A position of a command into a bobbin. -/
def moveBobbin (s : State) (ch : Bool) (c : ShCmd) (dead : Bool) : Moved :=
  let b := prickIdx c.pricking
  let bb := s.ctx.bobbin b
  if !bb.en || bb.prod.toNat != 5 + ch.toNat then
    .stopped (stopChannel s ch c.idx 0x30 1 (BitVec.ofNat 64 b))
  else if bb.slotBytes ≤ c.buf.length then
    let (s1, rest) := publish s b c.buf c.buf.length
    if rest.length = c.buf.length then .stays
    else
      let ended := decide (prickRun c.pricking ≤ c.cur.e)
      .on (s1.setHead ch { c with buf := rest, finished := ended && rest.isEmpty })
  else
    match fetchPosition s ch c dead with
    | .error (e, sub, va) => .stopped (stopChannel (s.fetched va) ch c.idx e sub va)
    | .ok (s1, c1, bs) =>
      let (s2, rest) := publish s1 b (c1.buf ++ bs) (c1.buf.length + bs.length)
      .on (advance s2 ch { c1 with buf := rest })

/-- Bytes are written into a slot; those that an error had struck have good check bits again (R140). -/
def OpSlot.fill (o : OpSlot) (a : Nat) (bs : List Byte) : OpSlot :=
  { o with bytes := o.bytes.write a bs, bad := o.bad.filter (fun b => decide (b < a) || decide (a + bs.length ≤ b)) }

/-- One position of a command (R167). A replay writes nothing to global memory (R279). -/
def moveOne (s : State) (ch : Bool) (c : ShCmd) (dead : Bool) : Moved :=
  let p := c.pricking
  let r := c.record
  let a := localAddr p r c.cur
  let n := localBytes p r
  let outside := fun (size : Nat) => decide (a < 0) || decide ((size : Int) < a + (n : Int))
  let badLocal := Moved.stopped (stopChannel s ch c.idx 0x30 3 (BitVec.ofInt 64 a))
  if prickKind p ≠ 3 && positionHeld s c then .stays
  else match prickKind p with
  | 0 =>
    if outside s.ctx.spSize then badLocal
    else
      match fetchPosition s ch c dead with
      | .error (e, sub, va) => .stopped (stopChannel (s.fetched va) ch c.idx e sub va)
      | .ok (s1, c1, bs) =>
        let s2 := (s1.modCtx (·.spWrite a.toNat bs)).modChannel ch (·.wrote a.toNat n)
        .on (advance s2 ch c1)
  | 1 =>
    match c.phys with
    | none => .stays
    | some q =>
      if tileBefore s q c.issued then .stays
      else if outside 6208 then badLocal
      else
        match fetchPosition s ch c dead with
        | .error (e, sub, va) => .stopped (stopChannel (s.fetched va) ch c.idx e sub va)
        | .ok (s1, c1, bs) =>
          let qs := myQuad s1
          let o := vget qs.slots q .reset
          let o1 := o.fill a.toNat bs
          .on (advance (s1.setMyQuad { qs with slots := vset qs.slots q o1 }) ch c1)
  | 2 => moveBobbin s ch c dead
  | _ =>
    if !inClip p r c.cur then .on (advance s ch c)
    else if outside s.ctx.spSize then badLocal
    else
      let va := globalAddr p r c.cur
      match enginePieces s .write n va n with
      | .error (e, v) => if rangeWalkHeld s va n then .stays else .stopped (stopChannel (s.fetched v) ch c.idx e 0 v)
      | .ok ps =>
        if rangeWalkHeld s va n || ps.any (fun x => writeWaits s x.1 x.2) then .stays
        else
          let lost := s.ctx.spLost a.toNat n
          let bs := s.ctx.spRead a.toNat n
          let s1 := if dead then s
            else (if s.ctx.replays then s else writePieces (s.notePieces ps) bs ps).modCtx (·.sign .A c.after (leBytes va ++ bs))
          let c1 := if lost || dead then { c with failed := true } else { c with bytes := c.bytes + BitVec.ofNat 64 n }
          .on (advance s1 ch c1)

/-- One 64-byte line of a PROBE fill (R150, R381). -/
def moveFill (s : State) (ch : Bool) (c : ShCmd) (f : Fill) (dead : Bool) : Moved :=
  let off := 64 * c.cur.e
  let va := c.handle + BitVec.ofNat 64 off
  if readHeld s va 64 then .stays
  else if undeclared s va 64 then .stopped (stopChannel s ch c.idx 0x18 0 va)
  else
    match enginePieces s .read 1 va 64 with
    | .error (e, _) => .stopped (stopChannel (s.fetched va) ch c.idx e 0 c.handle)
    | .ok ps =>
      let (s1, bs) := readLogged s ch dead va 64 ps
      let data := bs.getD (abortBytes 64)
      let s2 := s1.modCtx (fun x => (x.logRead (4 + ch.toNat) x.nextAcc va data).spWrite (f.dst + off) data)
      let k := { c.cur with e := c.cur.e + 1 }
      let c1 := { c with cur := k, finished := decide (f.len ≤ off + 64), failed := c.failed || bs.isNone }
      .on (s2.setHead ch c1)

/-- Moves positions of the head command of the focused context, `n` at most; gives whether any moved. -/
def moveRun (s : State) (ch : Bool) : Nat → State × Bool
  | 0 => (s, false)
  | n + 1 =>
    match (s.ctx.eng.channel ch).cmds with
    | [] => (s, false)
    | c :: _ =>
      if c.finished || linkStops s c then (s, false)
      else
        match (match c.fill with
          | some f => moveFill s ch c f (linkDead s c)
          | none => moveOne s ch c (linkDead s c)) with
        | .stays => (s, false)
        | .stopped t => (t, true)
        | .on t => ((moveRun t ch n).1, true)


/-- R301: a request of the channel to another package has no answer. -/
def abortPosition (s : State) (ch : Bool) : State × Bool :=
  let q := s.ctx.eng.channel ch
  match q.cmds with
  | [] => (s, false)
  | c :: _ =>
    if !q.serves || !c.begun || c.finished || !channelFree s ch || (remotePieces s c).isEmpty then (s, false)
    else
      match (match c.fill with
        | some f => moveFill s ch c f true
        | none => moveOne s ch c true) with
      | .stays => (s, false)
      | .stopped t => (t, true)
      | .on t => (t, true)

/-- SHUTTLE_ELEMENT_MOVE (R167): the rest of the present run, as far as it goes. -/
def execShuttleElementMove (cid : Nat) (ch : Bool) (s : State) : Result :=
  match s.ctxOf cid with
  | none => notNow s
  | some x =>
    let q := x.eng.channel ch
    match q.cmds with
    | [] => notNow s
    | c :: _ =>
      if !x.enginesRun || !q.serves || !c.begun || c.finished || !s.power.gate then notNow s
      else
        let n := if c.fill.isSome then 1 else max 1 (prickRun c.pricking - c.cur.e)
        eventOn s cid (fun t => if channelFree t ch then moveRun { t with shLast := tabSet (channelKey t.ctx ch) t.ctx.slot t.shLast } ch n else (t, false))

/-! ## Completion (R177, R178, R490) -/

/-- A completed fill validates its entry, or leaves it invalid after an abort (R150, R381). -/
def settleFill (x : Ctx) (c : ShCmd) : Ctx :=
  match c.fill with
  | none => x
  | some f =>
    let t := vget x.eng.probes f.table .reset
    match tabGet f.entry t.tags with
    | some g =>
      if t.gen = f.gen ∧ g.gen = f.gen then
        let tags := if c.failed then tabDel f.entry t.tags else tabSet f.entry { g with filling := false } t.tags
        { x with eng := { x.eng with probes := vset x.eng.probes f.table { t with tags := tags } } }
      else x
    | none => x

/-- Makes what a channel owes of updates; one that faults stops the queue. -/
def channelUpdates (s : State) (ch : Bool) (ups : List Update) : State :=
  let (s1, rest, code) := applyUpdates s ups
  let s2 := s1.modChannel ch (fun q => { q with updates := rest })
  match rest with
  | [] => s2
  | u :: _ =>
    if code = 0 then s2
    else (s2.modChannel ch (fun q => { q with run := .pending })).modCtx (·.raise (updateFault s.now u code .A ch.toNat))

/-- The head command of a channel completes. -/
def completeShuttle (s : State) (ch : Bool) (c : ShCmd) : State :=
  let s1 := (s.modCtx (settleFill · c)).modChannel ch (fun q => { q with cmds := q.cmds.tail })
  let s2 := if c.failed then s1.modCtx Ctx.consumeAbort else s1
  let bc := if c.fill.isNone && prickBC c.pricking then some c.bytes else none
  channelUpdates s2 ch (completionUpdates c.aw (if c.failed then some 0x3E else none) false c.idx bc)

/-- SHUTTLE_COMPLETION (R177): the updates that a queue still owes, or the completion of its finished head. -/
def execShuttleCompletion (cid : Nat) (ch : Bool) (s : State) : Result :=
  match s.ctxOf cid with
  | none => notNow s
  | some x =>
    let q := x.eng.channel ch
    if !x.enginesRun || q.run != .run || !s.power.gate then notNow s
    else if !q.updates.isEmpty then eventOn s cid (fun t =>
        if updatesMove t q.updates then (channelUpdates t ch q.updates, true) else (t, false))
    else
      match q.cmds with
      | [] => notNow s
      | c :: _ => if c.finished then happens (s.onCtx cid (completeShuttle · ch c)) else notNow s

/-! ## PROBE (R148 to R151, R381, R382) -/

def State.setProbe (s : State) (t : Nat) (p : ProbeTable) : State :=
  s.modEng (fun e => { e with probes := vset e.probes t p })

/-- R149 item 5. -/
def badTable (w cw : W64) (d2 d3 : W64) : Bool :=
  let blk := bits64 w 12 4
  let set := bits64 w 8 4
  let ways := bits64 w 6 2
  let base := bits64 w 20 20
  bits64 w 40 24 != 0 || bits64 w 16 4 != 0 || bits64 w 1 5 != 0 || d2 != 0 || d3 != 0 || decide (blk < 6) ||
    decide (12 < blk) || ways == 3 || decide (1024 < 2 ^ set * 2 ^ ways) || cw.toNat % 8 != 0 ||
    (w.getLsbD 0 && base % 2 ^ blk != 0)

/-- PROBE, configuration form (R149, R382). A descriptor that an error withholds leaves the table as it is, and the context consumes an abort (log 94). -/
def execProbeCfg (st : Bool) (ra : BitVec 5) (t : BitVec 4) (s : State) : Result :=
  issue (.probeCfg st ra t) (fun s c =>
    let a := rd s c ra
    let word := fun (i : Nat) => BitVec.ofNat 64 (s.ctx.spLoad (a.toNat + 8 * i) 8)
    let cw := word 0
    let w := word 1
    let base := bits64 w 20 20
    let blk := bits64 w 12 4
    let region := 2 ^ (blk + bits64 w 8 4) * 2 ^ bits64 w 6 2
    let lost := s.ctx.spLost a.toNat 32
    if wmHolds s.ctx a.toNat 32 then .wait .watermark
    else
      faultsThen
        [(a.toNat % 32 ≠ 0, 0x05, a), (spOut s.ctx a.toNat 32, 0x08, a), earlyFault s.ctx a.toNat 32,
         (!lost && badTable w cw (word 2) (word 3), 0x01, w),
         (!lost && w.getLsbD 0 && spOut s.ctx base region, 0x08, BitVec.ofNat 64 base)]
        (if lost then .go (s.abortAt 0 true) else
         let p := vget s.ctx.eng.probes t.toNat .reset
         let q : ProbeTable :=
           { en := w.getLsbD 0, cwaddr := cw, spbase := base, blklg := blk, setlg := bits64 w 8 4,
             ways := 2 ^ bits64 w 6 2, tags := [], ptrs := [], gen := p.gen + 1 }
         .go (s.setProbe t.toNat q))) s

/-- The way that a miss takes, if one can be taken: the lowest invalid one, else the first at or after the pointer that is
not filling. Gives the way and whether the pointer moves. -/
def victim (p : ProbeTable) (set : Nat) : Option (Nat × Bool) :=
  let sets := 2 ^ p.setlg
  match (List.range p.ways).find? (fun w => (tabGet (w * sets + set) p.tags).isNone) with
  | some w => some (w, false)
  | none =>
    let ptr := (tabGet set p.ptrs).getD 0
    (((List.range p.ways).map (fun i => (ptr + i) % p.ways)).find? (fun w =>
      !((tabGet (w * sets + set) p.tags).map (·.filling)).getD false)).map (fun w => (w, true))

/-- What a lookup comes to: the value of ad, whether it branches, and the fill with the table after it (R150). -/
structure Lookup where
  value : Nat
  outcome : Nat
  table : ProbeTable
  fill : Option Fill
  deriving DecidableEq, Repr

/-- Outcome 0 is a hit, 1 filling, 2 a miss. -/
def lookupTable (p : ProbeTable) (t : Nat) (a : W64) : Lookup :=
  let blk := 2 ^ p.blklg
  let sets := 2 ^ p.setlg
  let set := a.toNat / blk % sets
  let tag := a.toNat / blk / sets
  let slot := fun (w : Nat) => p.spbase + (w * sets + set) * blk
  let hit := (List.range p.ways).find? (fun w => ((tabGet (w * sets + set) p.tags).map (·.tag)) == some tag)
  match hit with
  | some w =>
    let filling := ((tabGet (w * sets + set) p.tags).map (·.filling)).getD false
    { value := slot w + a.toNat % blk, outcome := if filling then 1 else 0, table := p, fill := none }
  | none =>
    match victim p set with
    | none => { value := 0, outcome := 2, table := p, fill := none }
    | some (w, moves) =>
      let q := { p with
        tags := tabSet (w * sets + set) { tag := tag, filling := true, gen := p.gen } p.tags,
        ptrs := if moves then tabSet set ((w + 1) % p.ways) p.ptrs else p.ptrs }
      { value := slot w + a.toNat % blk, outcome := 2, table := q,
        fill := some { table := t, entry := w * sets + set, gen := p.gen, dst := slot w, len := blk } }

/-- PROBE, lookup form (R150, R381). -/
def execProbe (st : Bool) (dst ra : BitVec 5) (t : BitVec 4) (off : BitVec 11) (s : State) : Result :=
  issue (.probe st dst ra t off) (fun s c =>
    let a := rd s c ra
    let p := vget s.ctx.eng.probes t.toNat .reset
    let r := lookupTable p t.toNat a
    let va := target s c off
    if 8 ≤ s.ctx.eng.sh1.cmds.length then .wait .queueFull
    else if !p.en then .trap 0x01 (t.setWidth 64)
    else
      let (s0, seen) := s.logResult c (BitVec.ofNat 64 r.outcome)
      match (if seen = 0 then none else targetFault s va) with
      | some (code, tval) => .trap code tval
      | none =>
        let s1 := s0.writeAt 4 (.scalar c dst.toNat (BitVec.ofNat 64 r.value))
        let s2 := match r.fill with
          | none => s1
          | some f =>
            let cmd := { emptyShCmd with
              issued := s.now, after := s.ctx.nextAcc, fill := some f, aw := p.cwaddr,
              handle := BitVec.ofNat 64 (a.toNat / f.len * f.len) }
            ((signCommand s1 c (encode (.probe st dst ra t off)) [a]).setProbe t.toNat r.table).pushShuttle true cmd
        if seen = 0 then .go s2 else .jump (s2.branchTo c va)) s

end Sys2Proof.Machine
end

