-- ==== Sys2Proof/Machine/Cutwork.lean ====
section
/-! DEFINITION. Cutwork (R198 to R208, R390 to R393) and Couching (R209 to R215, R368 to R373): the commands at issue and at
execution, and the activation counters of DRAM rows (R207). -/

namespace Sys2Proof.Machine

/-! ## Compute-capable pages -/

/-- R296: NOCLR of an address space. -/
def noClear (s : State) (asid : W16) : Bool :=
  (BitVec.ofNat 64 (s.getLocal (bits64 s.hub.asidtbase 12 44 * 4096 + 8 * asid.toNat) 8)).getLsbD 8

/-- Table 10.1: whether a leaf meets what a command requires. -/
def computePage (s : State) (t : TlbEntry) (clear : Bool) : Bool :=
  pteCC t.pte && t.size == 2 ^ 21 && !pteRMT t.pte && (!clear || (pteCLR t.pte && !noClear s s.ctx.asid))

/-- A row's translation: each need in turn. -/
def translateRow (s : State) (needs : List Need) (va : W64) : Except (Nat × W64) TlbEntry :=
  match needs.find? (fun n => match translate s s.ctx.coreId s.ctx.asid n va with
    | .ok _ => false
    | .error _ => true) with
  | some n =>
    match translate s s.ctx.coreId s.ctx.asid n va with
    | .error e => .error (e, va)
    | .ok t => .ok t
  | none =>
    match translate s s.ctx.coreId s.ctx.asid (needs.headD .read) va with
    | .error e => .error (e, va)
    | .ok t => .ok t

/-- The translations of rows in order; the first fault. -/
def translateRows (s : State) : List (W64 × List Need) → Except (Nat × W64) (List (W64 × TlbEntry))
  | [] => .ok []
  | (va, needs) :: t =>
    match translateRow s needs va with
    | .error e => .error e
    | .ok x =>
      match translateRows s t with
      | .error e => .error e
      | .ok xs => .ok ((va, x) :: xs)

/-- Translates the rows of a command, then acts with them, or raises the first fault (R201, R210). While a walk is held up, the instruction
waits (R161, R211). -/
def withRows (s : State) (rows : List (W64 × List Need)) (act : List (W64 × TlbEntry) → Act) : Act :=
  let held := walkHeld s s.ctx.coreId s.ctx.asid
  match translateRows s rows with
  | .error (e, va) => if held va then .wait .none else .trap e va
  | .ok ts => if rows.any (fun r => held r.1) then .wait .none else act ts

/-! ## Cutwork at issue -/

/-- The addresses of n rows. -/
def rowsAt (a : W64) (n : Nat) : List W64 := (List.range n).map (fun k => a + BitVec.ofNat 64 (1024 * k))

/-- The faults of R201 from CUTATTR on, over the rows in order: `k` destination rows first. -/
def rowFaults (s : State) (rows : List (W64 × TlbEntry)) (k : Nat) (clear share : Bool) : List (Bool × Nat × W64) :=
  let first := fun (p : W64 × TlbEntry → Bool) (xs : List (W64 × TlbEntry)) => (xs.find? p).map (·.1)
  let attr := first (fun r => !computePage s r.2 clear) rows
  let prot := first (fun r => ptePROT r.2.pte) (rows.take k)
  let base := (rows.head?.map (·.2.base)).getD 0
  let span := first (fun r => r.2.base != base) rows
  let d := (rows.head?.map (·.1)).getD 0
  let apart := share && ((rows.drop k).head?.map (fun r => r.1.toNat % 16384 != d.toNat % 16384)).getD false
  [(attr.isSome, 0x16, attr.getD 0), (prot.isSome, 0x19, prot.getD 0),
   (span.isSome, 0x15, span.getD 0), (apart, 0x15, d)]

/-- A Cutwork command at issue (R201, R204, R390). -/
def cutCommand (i : Instr) (s : State) (c : Cluster) (regs : W64 × W64 × W64) (n : Nat) (source log : Bool) : Act :=
  let (a, b, aw) := regs
  whenRoom s 2
    (faultsThen
      [(aw.toNat % 8 ≠ 0, 0x05, aw), (a.toNat % 1024 ≠ 0, 0x14, a), (source && b.toNat % 1024 != 0, 0x14, b)]
      (let dst := (rowsAt a n).map (fun v => (v, if log then [Need.read, Need.write] else [Need.write]))
       let src := if source then (rowsAt b n).map (fun v => (v, [Need.read])) else []
       withRows s (dst ++ src) (fun rows =>
         faultsThen (rowFaults s rows n log log)
           (let s1 := s.rememberAll (rows.map (·.2))
            let cmd := { engCmd s (encode i) a b aw with elems := rows.map (fun r => elemOf s r.1 r.2) }
            .go (enterQueue s1 c 2 (encode i) [a, b, aw] cmd)))))

/-- ROWCP (R391). -/
def execRowcp (st : Bool) (ra rb rc n1 : BitVec 5) (s : State) : Result :=
  issue (.rowcp st ra rb rc n1) (fun s c =>
    cutCommand (.rowcp st ra rb rc n1) s c (rd s c ra, rd s c rb, rd s c rc) (n1.toNat + 1) true false) s

/-- ROWFILL (R392). -/
def execRowfill (st : Bool) (ra rb rc n1 : BitVec 5) (s : State) : Result :=
  issue (.rowfill st ra rb rc n1) (fun s c =>
    cutCommand (.rowfill st ra rb rc n1) s c (rd s c ra, rd s c rb, rd s c rc) (n1.toNat + 1) false false) s

/-- ROWLOG (R393). -/
def execRowlog (st : Bool) (ra rb rc : BitVec 5) (op : BitVec 3) (n1 : BitVec 2) (s : State) : Result :=
  issue (.rowlog st ra rb rc op n1) (fun s c =>
    cutCommand (.rowlog st ra rb rc op n1) s c (rd s c ra, rd s c rb, rd s c rc) (n1.toNat + 1) true true) s

/-! ## Rows -/

/-- The pseudo-channel of a compute-capable frame (R198). -/
def frameChannelOf (pa : Nat) : Nat := stackOf pa * 64 + Config.frameChannel (pa / 2 ^ 21) % 64

/-- The bank, numbered across the pseudo-channels, and the bank row of a page row (R198). -/
def dramRow (pa : Nat) : Nat × Nat :=
  let r := pa % 2 ^ 21 / 1024
  (frameChannelOf pa * 16 + r % 16, 128 * Config.frameRow (pa / 2 ^ 21) + r / 16)

/-- The model's numbers of the seed row (0) and of the control row (1) of the subarray of a bank row: they lie outside every page (R202,
log 47). -/
def controlRow (row kind : Nat) : Nat := 2 ^ 32 + 2 * (row / 512) + kind

/-- The count of a row's activations. -/
def activations (d : DieState) (b r : Nat) : Nat := ((d.acts.find? (fun x => x.1 == b && x.2.1 == r)).map (·.2.2)).getD 0

def DieState.setActs (d : DieState) (b r n : Nat) : DieState :=
  { d with acts := (if n = 0 then [] else [(b, r, n)]) ++ d.acts.filter (fun x => x.1 != b || x.2.1 != r) }

/-- The die of a bank number. -/
def bankDie (bank : Nat) : Nat := homeDie (bank / 16 / 64)

/-- The `n` nearest rows on each side of a row, within its subarray (R207). -/
def neighbours (bank row n : Nat) : List Nat :=
  if row < 2 ^ 32 then
    (List.range (2 * n + 1)).filterMap (fun i =>
      if n ≤ row + i ∧ i ≠ n ∧ (row + i - n) / 512 = row / 512 then some (row + i - n) else none)
  else
    let sub := (row - 2 ^ 32) / 2
    let p := Config.controlPlace bank sub % 513
    (List.range (2 * n)).filterMap (fun i => if n ≤ p + i ∧ p + i - n < 512 then some (512 * sub + p + i - n) else none)

/-- The rows that a bank's last activation has opened. -/
def openedRows (d : DieState) (bank : Nat) : List Nat := (tabGet bank d.opened).getD []

/-- Of the rows that the activation opened, those whose counters have reached ACTCFG.SAT or fail their check, ascending. -/
def saturated (d : DieState) (bank : Nat) : List Nat :=
  ((openedRows d bank).eraseDups.filter (fun r => decide (d.actSat.toNat ≤ activations d bank r) || d.failed.contains (bank, r))).mergeSort
    (· ≤ ·)

/-- A counter is reset, with a good check bit. -/
def DieState.resetCounter (d : DieState) (b r : Nat) : DieState := { d.setActs b r 0 with failed := d.failed.filter (· != (b, r)) }

/-- R207: the precharge of a bank tests the counters of the rows that were opened: those that have reached ACTCFG.SAT or fail their check are reset,
and the rows next to theirs are refreshed, each once; a targeted refresh counts no activation. A failed check is recorded and counted (class 7). -/
def State.precharge (s : State) (bank : Nat) : State :=
  let die := bankDie bank
  let d := vget s.dies die .reset
  let closed := { d with opened := tabDel bank d.opened }
  match saturated d bank with
  | [] => { s with dies := vset s.dies die closed }
  | rows =>
    let near := (rows.flatMap (fun r => neighbours bank r d.actNbr)).eraseDups
    let d1 := rows.foldl (fun e r => e.resetCounter bank r) closed
    let bad := rows.filter (fun r => d.failed.contains (bank, r))
    bad.foldl (fun t _ => t.recordError (plainError 7 die 0))
      { s with dies := vset s.dies die { d1 with refreshed := near.map (fun r => (bank, r)) } }

/-- R207: rows of one bank are activated together; the bank has first been precharged, and what that asks for refreshed. -/
def State.activateRows (s : State) (bank : Nat) (rows : List Nat) : State :=
  let s1 := s.precharge bank
  let die := bankDie bank
  let d := rows.foldl (fun e r => e.setActs bank r (activations e bank r + 1)) (vget s1.dies die .reset)
  { s1 with dies := vset s1.dies die { d with opened := tabSet bank rows d.opened } }

/-- A row of a page is activated, with further rows of its bank that `more` makes of its number. -/
def State.activate (s : State) (pa : Nat) (more : Nat → List Nat) : State :=
  let (b, r) := dramRow pa
  s.activateRows b (r :: more r)

/-- Whether a row lies on a pseudo-channel in all-bank mode (R211). -/
def rowHeld (s : State) (pa : Nat) : Bool := s.holds.any (fun h => h.channel == frameChannelOf pa)

/-- The lines of a row that an uncorrectable error struck; a row written whole has good check bits. -/
def State.markRow (s : State) (pa : Nat) (bad : List Nat) : State :=
  let rest := s.lost.filter (fun l => decide (64 * l + 64 ≤ pa) || decide (pa + 1024 ≤ 64 * l))
  { s with lost := bad.map (fun i => pa / 64 + i) ++ rest }

def lostLines (s : State) (pa : Nat) : List Nat := (List.range 16).filter (fun i => s.lost.contains (pa / 64 + i))

/-- A row in the DRAM: its bytes, the key numbers of its lines and the lines that fail their check. -/
structure DramRow where
  bytes : List Byte
  keys : List (Option Nat)
  bad : List Nat
  deriving DecidableEq, Repr

def getRow (s : State) (pa : Nat) : DramRow :=
  { bytes := s.physRead pa 1024, keys := (List.range 16).map (fun i => tabGet (pa / 64 + i) s.stamps),
    bad := lostLines s pa }

/-- Writes a row in the DRAM, whose lines leave the die cache; no core owns its words any more. -/
def State.putRow (s : State) (pa : Nat) (r : DramRow) : State :=
  let inside := fun (line : Nat) => decide (pa ≤ 64 * line) && decide (64 * line < pa + 1024)
  let s0 := s.dropResv pa 1024
  let s1 := { s0 with dcache := s0.dcache.filter (fun l => !inside l.line), struck := s0.struck.filter (fun l => !inside l),
                      mem := s0.mem.write pa r.bytes }
  let stamps := (List.range 16).foldl (fun m i =>
    match r.keys.getD i none with
    | some k => tabSet (pa / 64 + i) k m
    | none => tabDel (pa / 64 + i) m) s1.stamps
  (wordsOf (s.hub.pkg * 2 ^ 46 + pa) 1024).foldl disownWord ({ s1 with stamps := stamps }.markRow pa r.bad)

/-- A command meets the lines of a row that an error withholds: each is reported (R206, R212, R272). -/
def State.meetRow (s : State) (e : Elem) : State :=
  (lostLines s (localPart e.pa)).foldl (fun t i => t.meetLost t.ctx.requester e (e.pa + 64 * i) 64) s

/-- A row of bytes as a writer of the page stores it. -/
def freshRow (s : State) (pte : W64) (bs : List Byte) : DramRow :=
  let key := keySerial s pte
  { bytes := bs, keys := List.replicate 16 (if key = 0 then none else some key), bad := [] }

/-- A byte of ROWLOG (R202). -/
def rowOp (op : Nat) (d x : Byte) : Byte :=
  match op with
  | 0 => d &&& x
  | 1 => d ||| x
  | 2 => d ^^^ x
  | 3 => d &&& ~~~x
  | _ => ~~~x

/-! ## Cutwork at execution -/

/-- ROWCP: every source row is read first (R391). Rows of one subarray are activated together, others one by one (R203, R207). -/
def runRowcp (s : State) (dst src : List Elem) : State :=
  let rows := src.map (fun e => getRow s (localPart e.pa))
  let s1 := (dst.zip rows).foldl (fun t p => t.putRow (localPart p.1.pa) p.2) s
  (dst.zip src).foldl (fun t p =>
    let (b, r) := dramRow (localPart p.1.pa)
    let (b', r') := dramRow (localPart p.2.pa)
    if b = b' ∧ r / 512 = r' / 512 then t.activateRows b [r, r'] else (t.activateRows b' [r']).activateRows b [r]) s1

/-- ROWFILL (R392): each row is activated together with the seed row of its subarray (log 47). -/
def runRowfill (s : State) (dst : List Elem) (pattern : W64) : State :=
  let bs := (List.replicate 128 (leBytes pattern)).flatten
  dst.foldl (fun t e =>
    (t.putRow (localPart e.pa) (freshRow t e.pte bs)).activate (localPart e.pa) (fun r => [controlRow r 0])) s

/-- ROWLOG (R393, R206): the results, and whether a row's read failed; such a row keeps its bytes, and its lines leave the die cache as well
(R205). Both operand rows and the control row are activated together. -/
def runRowlog (s : State) (op : Nat) (dst src : List Elem) : State × Bool :=
  let rows := (dst.zip src).map (fun p =>
    let a := localPart p.1.pa
    let b := localPart p.2.pa
    let x := s.keyedRead (keySerial s p.1.pte) a 1024
    let y := s.keyedRead (keySerial s p.2.pte) b 1024
    (p.1, (x.zip y).map (fun q => rowOp op q.1 q.2), !(lostLines s a).isEmpty || !(lostLines s b).isEmpty))
  let met := (dst ++ src).foldl (fun t e => t.meetRow e) s
  let s1 := rows.foldl (fun t r =>
    if r.2.2 then t.evictRange (localPart r.1.pa) 1024
    else t.putRow (localPart r.1.pa) (freshRow t r.1.pte r.2.1)) met
  ((dst.zip src).foldl (fun t p =>
    t.activate (localPart p.1.pa) (fun r => [(dramRow (localPart p.2.pa)).2, controlRow r 1])) s1, rows.any (·.2.2))

/-- A Cutwork command takes effect in the focused context, and completes (R204). -/
def runCutwork (s : State) (c : EngCmd) : State :=
  let w := c.word.toNat
  let func := w / 2 ^ 20 % 32
  let n := if func = 2 then w % 4 + 1 else w % 32 + 1
  let dst := c.elems.take n
  let src := c.elems.drop n
  let clean := fun (t : State) (es : List Elem) => es.foldl (fun u e => u.cleanRange (localPart e.pa) 1024) t
  let s0 := clean s src
  let (s1, failed, fb) := match func with
    | 0 => (runRowcp s0 dst src, false, c.ra.toNat % 16384 != c.rb.toNat % 16384)
    | 1 => (runRowfill s0 dst c.rb, false, false)
    | _ =>
      let r := runRowlog (clean s0 dst) (w / 4 % 8) dst src
      (r.1, r.2, false)
  let s2 := if failed then s1.modCtx Ctx.consumeAbort else s1
  completeHead s2 2 .A (completionUpdates c.rc (if failed then some 0x3E else none) fb c.idx none)

/-- What the queues of R204 share: the updates that a queue still owes, or its head command once all that its issue released
has been performed. -/
def queueEvent (cid eng : Nat) (clu : Cluster) (s : State) (run : State → EngCmd → State × Bool) : Result :=
  match s.ctxOf cid with
  | none => notNow s
  | some x =>
    let q := x.eng.queue eng
    if !x.enginesRun || q.run != .run || !s.power.gate then notNow s
    else if !q.updates.isEmpty then eventOn s cid (fun t =>
        if updatesMove t q.updates then (retryUpdates t eng clu, true) else (t, false))
    else
      match q.cmds with
      | [] => notNow s
      | c :: _ => eventOn s cid (fun t => run t c)

/-- CUTWORK_EXECUTION (R202, R204); rows on a pseudo-channel in all-bank mode wait (R211). -/
def execCutworkExecution (cid : Nat) (s : State) : Result :=
  queueEvent cid 2 .A s (fun t c =>
    if !t.ctx.releasedTo c.after || c.elems.any (fun e => rowHeld t (localPart e.pa)) then (t, false)
    else (runCutwork t c, true))

/-! ## Couching at issue -/

/-- How a Couching command enters its queue. -/
def enterCouch (s : State) (c : Cluster) (w : Nat) (regs : List W64) (cmd : EngCmd) : State := enterQueue s c 3 w regs cmd

/-- How an NBREAD enters its queue: a replay's is to take its sixteen slots from the log (R279). -/
def enterNbread (s : State) (c : Cluster) (w : Nat) (regs : List W64) (cmd : EngCmd) : State :=
  if s.ctx.replays then
    (enterQueue s c 3 w regs cmd).modCtx (fun x =>
      { x.modReplay (Replay.claim 0 cmd.after 16) with eng := { x.eng with couch := x.eng.couch.push cmd } })
  else enterQueue s c 3 w regs cmd

/-- A Couching command at issue (R210, R368): `vec` is the vector address of NBLOAD. -/
def couchCommand (i : Instr) (s : State) (c : Cluster) (a aw : W64) (vec : Option W64) (align : Nat) (regs : List W64)
    (enter : State → Cluster → Nat → List W64 → EngCmd → State) : Act :=
  whenRoom s 3
    (faultsThen
      [(aw.toNat % 8 ≠ 0, 0x05, aw), ((vec.map (fun v => v.toNat % 64 != 0)).getD false, 0x05, vec.getD 0),
       (a.toNat % align ≠ 0, 0x14, a)]
      (let lines := match vec with
         | some v => (List.range 8).map (fun k => (v + BitVec.ofNat 64 (64 * k), [Need.read]))
         | none => []
       withRows s ((a, [Need.read]) :: lines) (fun rows =>
         match rows with
         | [] => illegalWord i
         | page :: _ =>
           if !computePage s page.2 true then .trap 0x16 a
           else
             let s1 := s.rememberAll (rows.map (·.2))
             let cmd := { engCmd s (encode i) a (vec.getD 0) aw with elems := rows.map (fun r => elemOf s r.1 r.2) }
             .go (enter s1 c (encode i) regs cmd))))

/-- NBENTER (R369). -/
def execNbenter (st : Bool) (ra rc : BitVec 5) (s : State) : Result :=
  issue (.nbenter st ra rc) (fun s c =>
    couchCommand (.nbenter st ra rc) s c (rd s c ra) (rd s c rc) none 1 [rd s c ra, rd s c rc] enterCouch) s

/-- NBLOAD (R371). -/
def execNbload (st : Bool) (ra rb rc : BitVec 5) (s : State) : Result :=
  issue (.nbload st ra rb rc) (fun s c =>
    couchCommand (.nbload st ra rb rc) s c (rd s c ra) (rd s c rc) (some (rd s c rb)) 1
      [rd s c ra, rd s c rb, rd s c rc] enterCouch) s

/-- NBMAC (R372). -/
def execNbmac (st : Bool) (ra rc : BitVec 5) (h : Bool) (s : State) : Result :=
  issue (.nbmac st ra rc h) (fun s c =>
    couchCommand (.nbmac st ra rc h) s c (rd s c ra) (rd s c rc) none 16384 [rd s c ra, rd s c rc] enterCouch) s

/-- NBREAD (R373). -/
def execNbread (st : Bool) (ra rc : BitVec 5) (b : BitVec 4) (s : State) : Result :=
  issue (.nbread st ra rc b) (fun s c =>
    couchCommand (.nbread st ra rc b) s c (rd s c ra) (rd s c rc) none 1 [rd s c ra, rd s c rc] enterNbread) s

/-- NBEXIT (R370). -/
def execNbexit (st : Bool) (ra rc : BitVec 5) (s : State) : Result :=
  issue (.nbexit st ra rc) (fun s c =>
    couchCommand (.nbexit st ra rc) s c (rd s c ra) (rd s c rc) none 1 [rd s c ra, rd s c rc] enterCouch) s

/-! ## Couching at execution -/

/-- Where X element e and partial a of unit b lie in the saved image (R215, log 17). -/
def xAddr (b e : Nat) : Nat := 768 * b + 2 * e
def pAddr (b a : Nat) : Nat := 768 * b + 512 + 4 * a

def State.release (s : State) (cid : Nat) : State := { s with holds := s.holds.filter (fun h => h.cid != cid) }

/-- The hold of the focused context ends; X and P are discarded (R370). -/
def dropHold (s : State) : State := (s.release s.ctx.cid).modEng (fun e => { e with hold := none, xp := .empty })

/-- A Couching fault (R214). -/
def couchFault (s : State) (c : EngCmd) (sub : Nat) (tval : W64) : State :=
  stopQueue s 3 { arose := s.now, cause := 0x30, tval := tval, clu := .A, eng := 3, idx := c.idx, estw := estw 0x30 sub }

/-- The pseudo-channel of a command's page. -/
def couchChannel (c : EngCmd) : Nat := frameChannelOf (localPart ((c.elems.head?.map (·.pa)).getD 0))

/-- A Couching command has done its work (R368). -/
def couchDone (s : State) (c : EngCmd) (failed : Bool) : State :=
  let s1 := if failed then s.modCtx Ctx.consumeAbort else s
  completeHead s1 3 .A (completionUpdates c.rc (if failed then some 0x3E else none) false c.idx none)

/-- NBENTER at execution (R369): it waits while another context holds the pseudo-channel; of several contexts the lowest id
goes first (R368). -/
def runNbenter (s : State) (c : EngCmd) : State × Bool :=
  let ch := couchChannel c
  let rival := s.others.any (fun y => decide (y.cid < s.ctx.cid) && y.enginesRun && y.eng.couch.run == .run &&
    y.eng.hold.isNone && (match y.eng.couch.cmds.head? with
      | some d => d.word.toNat / 2 ^ 20 % 32 == 0 && couchChannel d == ch && y.releasedTo d.after
      | none => false))
  if s.ctx.eng.hold.isSome then (couchFault s c 2 c.ra, true)
  else if s.holds.any (fun h => h.channel == ch) || rival then (s, false)
  else
    let base := localPart ((c.elems.head?.map (·.pa)).getD 0) / 2 ^ 21 * 2 ^ 21
    let s1 := s.cleanRange base (2 ^ 21)
    let s2 := { s1 with holds := { channel := ch, cid := s.ctx.cid } :: s1.holds }
    (couchDone (s2.modEng (fun e => { e with hold := some ch, xp := .empty })) c false, true)

/-- NBLOAD at execution (R371): the lines in order; a line that is withheld gives NaNs. -/
def loadVector (s : State) (k : Nat) (m : Memory) (bad : Bool) : List Elem → State × Memory × Bool
  | [] => (s, m, bad)
  | e :: t =>
    let (s1, r) := (s.countAccess s.ctx.die s.ctx.asid e.va 1).homeRead s.ctx.requester e e.pa 64
    let bs := r.getD ((List.replicate 32 (natBytes 0x7E00 2)).flatten)
    let m1 := (List.range 16).foldl (fun u b => u.write (xAddr b (32 * k)) bs) m
    loadVector s1 (k + 1) m1 (bad || r.isNone) t

def runNbload (s : State) (c : EngCmd) : State :=
  let (s1, m, bad) := loadVector s 0 s.ctx.eng.xp false (c.elems.drop 1)
  couchDone (s1.modEng (fun e => { e with xp := m })) c bad

/-- One bank's partials of an NBMAC (R212). -/
def bankPartials (xp : Memory) (h b : Nat) (row : List Byte) : List Nat :=
  (List.range 32).map (fun sg =>
    let term := fun (j : Nat) =>
      let w := (row.getD (32 * sg + 2 * j) 0).toNat + 256 * (row.getD (32 * sg + 2 * j + 1) 0).toNat
      (mulVal (unpack false 2 w) (unpack false 2 (xp.load (xAddr b (16 * b + j)) 2))).1
    (dotSum none (unpack false 0 (xp.load (pAddr b (32 * h + sg)) 4) :: (List.range 16).map term)).1)

/-- NBMAC at execution (R372). -/
def runNbmac (s : State) (c : EngCmd) : State :=
  let h := c.word.toNat % 2
  let e := c.elems.headD { va := 0, pa := 0, pte := 0, page := 0 }
  let base := localPart e.pa
  let s1 := s.cleanRange base 16384
  let rowOf := fun (b : Nat) => base + 1024 * b
  let bad := fun (b : Nat) => !(lostLines s1 (rowOf b)).isEmpty
  let m := (List.range 16).foldl (fun (u : Memory) b =>
    let ps := if bad b then List.replicate 32 0x7FC00000
      else bankPartials s1.ctx.eng.xp h b (s1.keyedRead (keySerial s1 e.pte) (rowOf b) 1024)
    u.write (pAddr b (32 * h)) (ps.flatMap (fun v => natBytes v 4))) s1.ctx.eng.xp
  let row := fun (b : Nat) => { e with va := e.va + BitVec.ofNat 64 (1024 * b), pa := e.pa + 1024 * b }
  let s2 := (List.range 16).foldl (fun t b => (t.meetRow (row b)).activate (rowOf b) (fun _ => [])) s1
  couchDone (s2.modEng (fun g => { g with xp := m })) c ((List.range 16).any bad)

/-- A slot of NBREAD: the partials of a bank, or in a replay what the log holds (R279). -/
def nbreadSlot (s : State) (c : EngCmd) (k : Nat) : State × VReg :=
  if s.ctx.replays then
    let (x, bs) := s.ctx.takeClaim c.after 0 256
    ({ s with ctx := x }, ofImage bs)
  else
    let bs := s.ctx.eng.xp.read (pAddr k 0) 256
    (s.modCtx (·.logRead 0 c.after 0 bs), ofImage bs)

/-- NBREAD at execution (R373). -/
def runNbread (s : State) (c : EngCmd) : State × Bool :=
  let n := c.word.toNat % 16
  let b := s.ctx.bobbin n
  if !b.en || b.prod != 7 || !b.sz || decide (b.slots < 16) then (couchFault s c 3 (BitVec.ofNat 64 n), true)
  else if b.slots - b.count < 16 then (s, false)
  else
    let s1 := (List.range 16).foldl (fun (t : State) k =>
      let (u, v) := nbreadSlot t c k
      u.modCtx (·.fillNext n v)) s
    (couchDone s1 c false, true)

/-- R211, R371: whether a line of NBLOAD waits for a pseudo-channel that another context holds; on the held one of its own it is served. -/
def nbloadHeld (s : State) (e : Elem) : Bool := heldAway { s with holds := s.holds.filter (fun h => h.cid != s.ctx.cid) } e 64

/-- A Couching command of the focused context at execution: ENGINE 1 unless it holds the page's pseudo-channel. -/
def runCouching (s : State) (c : EngCmd) : State × Bool :=
  let func := c.word.toNat / 2 ^ 20 % 32
  if func = 0 then runNbenter s c
  else if s.ctx.replays then runNbread s c
  else if s.ctx.eng.hold ≠ some (couchChannel c) then (couchFault s c 1 c.ra, true)
  else
    match func with
    | 1 => if (c.elems.drop 1).any (nbloadHeld s) then (s, false) else (runNbload s c, true)
    | 2 => (runNbmac s c, true)
    | 3 => runNbread s c
    | _ => (couchDone (dropHold s) c false, true)

/-- Whether an access touches a pseudo-channel. -/
def Access.onChannel (a : Access) (channel : Nat) : Bool :=
  a.elems.any (fun e => !pteRMT e.pte && (linesOf (localPart e.pa) a.size).any (fun l => pageChannel e.pte e.page (64 * l) == channel))

/-- R211: the release of NBEXIT leaves out the accesses to the held pseudo-channel. -/
def couchReleased (s : State) (c : EngCmd) : Bool :=
  if c.word.toNat / 2 ^ 20 % 32 = 4 then
    s.ctx.gq.all (fun a => !a.isMem || decide (c.after ≤ a.num) || a.onChannel (couchChannel c))
  else s.ctx.releasedTo c.after

/-- COUCHING_EXECUTION (R210). -/
def execCouchingExecution (cid : Nat) (s : State) : Result :=
  queueEvent cid 3 .A s (fun t c => if couchReleased t c then runCouching t c else (t, false))

/-! ## Activation counting (R207) -/

/-- ACTIVATION_SATURATION (R207): the precharge after an activation that has brought the counter of a row to ACTCFG.SAT, or whose counter's
check bit fails; it comes before the bank's next activation at the latest. -/
def execActivationSaturation (bank row : Nat) (s : State) : Result :=
  eventIf ((saturated (vget s.dies (bankDie bank) .reset) bank).contains row) s (s.precharge bank)

/-- PERIODIC_REFRESH (R207): the counter of the row is reset. -/
def execPeriodicRefresh (bank row : Nat) (s : State) : Result :=
  let die := bankDie bank
  let d := vget s.dies die .reset
  happens { s with dies := vset s.dies die (d.setActs bank row 0) }

end Sys2Proof.Machine
end

