-- ==== Sys2Proof/Machine/Tiers.lean ====
section
/-! DEFINITION. Pages and where they lie: lifetime hints (R152, R355), device-decided placement (R15 to R23), eviction and return
(R153 to R155), chain demotion (R28, R147). -/

namespace Sys2Proof.Machine

/-! ## The pages of an address space -/

/-- The leaves that entry `index` of a table at `level` gives: itself, or what `below` gives for the table that it names. The sixteen
entries of a 64 KiB page give one leaf (R158). -/
def entryLeaves (s : State) (level table base : Nat) (below : Nat → Nat → List Leaf) (index : Nat) : List Leaf :=
  let at' := table + 8 * index
  let e := BitVec.ofNat 64 (s.supLoad at' 8)
  let va := base + index * levelSize level
  if !pteV e then []
  else if level = 0 then
    (if badLeaf s.hub.pkg 0 e then []
     else if pteCTG e && contiguous s table index then
       (if index % 16 = 0 then [⟨e, at', va, 65536⟩] else [])
     else [⟨e, at', va, 4096⟩])
  else if pteLF e then
    (if level < 3 && !badLeaf s.hub.pkg level e then [⟨e, at', va, levelSize level⟩] else [])
  else if badNonLeaf e then []
  else below (ptePFN e * 4096) va

/-- The leaves of a table at a level and of the tables below it, of the entries `is` of each; the last argument is the address that the
table's first entry maps. -/
def leavesIn (s : State) (is : List Nat) : Nat → Nat → Nat → List Leaf
  | 0, table, base => is.flatMap (entryLeaves s 0 table base (fun _ _ => []))
  | l + 1, table, base => is.flatMap (entryLeaves s (l + 1) table base (leavesIn s is l))

/-- The leaves of a table at `level`, ascending; `base` is the address that its first entry maps. -/
def leavesFrom (s : State) (level table base : Nat) : List Leaf := leavesIn s (List.range 512) level table base

/-- The mapped pages of an address space. -/
def leavesOf (s : State) (asid : Nat) : List Leaf :=
  match tabGet asid s.roots with
  | some root => leavesFrom s 4 root 0
  | none => []

/-- Every mapped page of the module with its address space, and what the device keeps of it. -/
def allPages (s : State) : List (W16 × Leaf × PageInfo) :=
  s.roots.flatMap (fun r =>
    (leavesOf s r.1).map (fun l => (BitVec.ofNat 16 r.1, l, pageInfo s (BitVec.ofNat 16 r.1) l)))

/-- The page that an entry's address names. -/
def pageAt (s : State) (pteAddr : Nat) : Option (W16 × Leaf × PageInfo) :=
  (allPages s).find? (fun p => p.2.1.pteAddr == pteAddr)

/-- The addresses of a page's entries: sixteen for a 64 KiB page. -/
def entriesOf (l : Leaf) : List Nat :=
  if l.size = 65536 then (List.range 16).map (fun i => l.pteAddr + 8 * i) else [l.pteAddr]

/-- Rewrites each entry of a page, and drops its translations from every cache (R18, R154). -/
def State.editLeaf (s : State) (asid : W16) (l : Leaf) (f : W64 → W64) : State :=
  let s1 := (entriesOf l).foldl (fun t a => t.putLocal a 8 (f (BitVec.ofNat 64 (t.getLocal a 8))).toNat) s
  let frame := fun (t : TlbEntry) => ptePFN t.pte == ptePFN l.pte && t.size == l.size
  { s1 with tlb := s1.tlb.filter (fun t =>
      !frame t && (t.asid != asid || decide (t.base + t.size ≤ l.base) || decide (l.base + l.size ≤ t.base))) }

/-! ## Rounds -/

/-- R152: the present round: the counter of the lowest group slot in use, or else the local one. -/
def presentRound (s : State) : W32 :=
  match (List.range 4).find? (fun g => (s.group g).state != .idle) with
  | some g => headerRound s (s.group g)
  | none => s.localRound

/-- A page's distance: none is greater than every other. -/
def distance (s : State) (p : PageInfo) : Option Int := p.next.map (fun n => (n - presentRound s).toInt)

/-! ## LHINT -/

/-- One page takes a hint (Table 7.2). -/
def hintPage (s : State) (asid : W16) (l : Leaf) (w : W64) : State :=
  let n := bits64 w 16 16
  let p := pageInfo s asid l
  let next := if n = 0xFFFF then none else some (presentRound s + BitVec.ofNat 32 n)
  let chain := fun (e : W64) => (e &&& 0x00FFFFFFFFFFFFFF) ||| BitVec.ofNat 64 (bits64 w 32 8 * 2 ^ 56)
  let s1 := (entriesOf l).foldl (fun t a => t.putLocal a 8 (chain (BitVec.ofNat 64 (t.getLocal a 8))).toNat) s
  s1.putPage { p with prio := bits64 w 8 3, next := next }

/-- LHINT (R152, R355): every mapped page of the range, but remote ones. A range whose base is not canonical lies outside the 57-bit space and raises
ALIGN (log 99: R355 does not say). -/
def execLhint (st : Bool) (ra rb rc : BitVec 5) (s : State) : Result :=
  issue (.lhint st ra rb rc) (fun s c =>
    let a := rd s c ra
    let n := (rd s c rb).toNat
    let w := rd s c rc
    if bits64 w 40 24 ≠ 0 ∨ bits64 w 11 5 ≠ 0 ∨ bits64 w 0 8 ≠ 0 then .trap 0x01 w
    else if (0 < n ∧ !canonical a) ∨ 2 ^ 57 < va57 a + n then .trap 0x05 a
    else
      let hit := (leavesOf s s.ctx.asid.toNat).filter (fun l =>
        decide (0 < n) && decide (l.base < va57 a + n) && decide (va57 a < l.base + l.size) && !pteRMT l.pte)
      .go (hit.foldl (fun t l => hintPage t s.ctx.asid l w) s)) s

/-! ## Frames -/

def frameOf (l : Leaf) : Nat := ptePFN l.pte * 4096
def isMoving (p : PageInfo) : Bool := p.move != .idle

/-- A page's size in 4 KiB frames. -/
def framesOf (l : Leaf) : Nat := l.size / 4096

def State.addFree (s : State) (stack : Nat) (n : Nat) : State :=
  { s with freePages := vset s.freePages stack (vget s.freePages stack 0 + n) }
def State.takeFree (s : State) (stack : Nat) (n : Nat) : State :=
  { s with freePages := vset s.freePages stack (vget s.freePages stack 0 - n) }

/-- The stack with most free capacity among some; ties go to the lowest (R16, R155). -/
def roomiest (s : State) (among : List Nat) : Option Nat :=
  among.foldl (fun best k =>
    match best with
    | none => some k
    | some b => if vget s.freePages b 0 < vget s.freePages k 0 then some k else some b) none

/-- The bytes of a range move to another place of the same store; the range they leave is empty. -/
def Memory.moveRange (m : Memory) (a b n : Nat) : Memory :=
  let inside := fun (x : Nat) (k : Nat) => decide (k ≤ x) && decide (x < k + n)
  let moved := m.cells.filter (fun c => inside c.1 a)
  let rest := m.cells.filter (fun c => !inside c.1 a && !inside c.1 b)
  moved.foldl (fun (u : Memory) c => u.set (b + (c.1 - a)) c.2) ⟨rest⟩

/-- Copies a range of one store into another. -/
def copyBetween (src dst : Memory) (a b n : Nat) : Memory :=
  let moved := src.cells.filter (fun c => decide (a ≤ c.1) && decide (c.1 < a + n))
  let rest := dst.cells.filter (fun c => decide (c.1 < b) || decide (b + n ≤ c.1))
  moved.foldl (fun (u : Memory) c => u.set (b + (c.1 - a)) c.2) ⟨rest⟩

/-- The key stamps of a range of lines follow its bytes. A capacity-tier line has its own numbers (log 18). -/
def moveStamps (m : List (Nat × Nat)) (a b n : Nat) : List (Nat × Nat) :=
  let rest := m.filter (fun x => (decide (x.1 < a) || decide (a + n ≤ x.1)) && (decide (x.1 < b) || decide (b + n ≤ x.1)))
  (m.filter (fun x => decide (a ≤ x.1) && decide (x.1 < a + n))).foldl (fun u x => tabSet (b + (x.1 - a)) x.2 u) rest

def capLine (capPage : Nat) : Nat := 2 ^ 50 + capPage * 64

/-- The L1 words of a frame and their registrations are gone: another page comes to lie there, or none (R18, R21). -/
def State.forgetFrame (s : State) (a n : Nat) : State :=
  let inside := fun (word : Nat) =>
    isLocal s (4 * word) && decide (a ≤ localPart (4 * word)) && decide (localPart (4 * word) < a + n)
  { s with
    owners := s.owners.filter (fun o => !inside o.1),
    l1 := s.l1.map (fun p => (p.1, { lines := p.2.lines.filter (fun x => !inside (16 * x)),
                                     words := p.2.words.filter (fun w => !inside w.1), keys := p.2.keys.filter (fun x => !inside (16 * x.1)) })) }

/-- Code that contexts fetch moves with its page (R21, R52). -/
def State.moveCode (s : State) (a b n : Nat) : State := s.mapCtxs (fun x => { x with code := x.code.moveRange a b n })

/-- Accesses that were translated to the old frame of a page perform at the new one (R18). -/
def redirectElem (a b n : Nat) (e : Elem) : Elem :=
  let l := localPart e.pa
  if a ≤ l ∧ l < a + n ∧ !pteRMT e.pte then { e with pa := e.pa - l + (b + (l - a)) } else e

def redirectAccess (a b n : Nat) (y : Access) : Access := { y with elems := y.elems.map (redirectElem a b n) }

def redirectQueue (a b n : Nat) (q : EngQueue) : EngQueue :=
  { q with cmds := q.cmds.map (fun c => { c with elems := c.elems.map (redirectElem a b n) }) }

def redirectCtx (a b n : Nat) (x : Ctx) : Ctx :=
  { x with gq := x.gq.map (redirectAccess a b n), eng := { x.eng with couch := redirectQueue a b n x.eng.couch, cut := redirectQueue a b n x.eng.cut } }

def State.redirect (s : State) (a b n : Nat) : State :=
  let gs := s.groups.map (fun g => { g with passed := g.passed.map (fun p => (p.1, redirectAccess a b n p.2)) })
  { s with ctx := redirectCtx a b n s.ctx, others := s.others.map (redirectCtx a b n), groups := gs }

/-- Whether an uncorrectable error struck a frame. -/
def lostIn (s : State) (a n : Nat) : Bool := s.lost.any (fun l => decide (a ≤ 64 * l) && decide (64 * l < a + n))

/-- A leaf with another frame. -/
def withFrame (e : W64) (frame : Nat) : W64 :=
  (e &&& ~~~(0x0000FFFFFFFFC000 : W64)) ||| BitVec.ofNat 64 (frame / 4096 % 2 ^ 34 * 2 ^ 14)

/-- The entry's index within its 64 KiB page, whose frames follow each other (R158). -/
def entryFrame (l : Leaf) (frame a : Nat) : Nat := if l.size = 65536 then frame + (a - l.pteAddr) / 8 * 4096 else frame

def State.setFrame (s : State) (asid : W16) (l : Leaf) (frame : Nat) (t : Bool) : State :=
  let tbit := fun (e : W64) => if t then e ||| 0x1000 else e &&& ~~~(0x1000 : W64)
  let s1 := (entriesOf l).foldl (fun u a =>
    u.putLocal a 8 (tbit (withFrame (BitVec.ofNat 64 (u.getLocal a 8)) (entryFrame l frame a))).toNat) s
  s1.editLeaf asid l id

/-- R256: a migration of a protected page rewrites its region-table entry. -/
def State.moveRegion (s : State) (old new : Nat) : State :=
  (List.range 4).foldl (fun t i =>
    let g := t.group i
    if g.state = .idle then t
    else
      (List.range g.rcnt).foldl (fun u r =>
        let e := regionEntry u g r
        if e.getLsbD 0 && regionFrame e == old then
          u.putLocal (regionAddr g r) 8 (new % 2 ^ 56 + e.toNat % 4)
        else u) t) s

/-! ## Placement (R16 to R23) -/

/-- Pages that no engine moves: pinned, compute-capable, in the capacity tier or of another package (R17, R275). And those that the placement engine
never moves (R17). -/
def boundPage (l : Leaf) : Bool := ptePIN l.pte || (pteCC l.pte && l.size == 2 ^ 21) || pteT l.pte || pteRMT l.pte

def fixedPage (l : Leaf) : Bool := l.size == 2 ^ 30 || boundPage l

def countOf (p : PageInfo) (d : Nat) : Nat := (vget p.counts d 0).toNat

/-- The die with the highest count; the home die where it is among the tied (R16). -/
def busiest (p : PageInfo) (home : Nat) : Nat :=
  let top := ((List.range 6).map (countOf p)).max?.getD 0
  if countOf p home = top then home else ((List.range 6).find? (fun d => countOf p d == top)).getD home

/-- A candidate of the boundary: the page, its destination die and its rank. A protected page moves at a round commit only (R19). -/
def candidate (s : State) (interval : Bool) (p : W16 × Leaf × PageInfo) : Option (W16 × Leaf × PageInfo × Nat × Nat) :=
  let l := p.2.1
  let info := p.2.2
  let home := homeDie (stackOf (frameOf l))
  let d := busiest info home
  if fixedPage l || (interval && ptePROT l.pte) || isMoving info || d == home || decide (countOf info d < bits64 s.hub.plctl 16 16) ||
      decide (countOf info d * 8 < countOf info home * bits64 s.hub.plctl 8 8) then none
  else some (p.1, l, info, d, countOf info d - countOf info home)

/-- Puts a candidate into rank order: larger first, ties to the lower virtual address; of two address spaces, the one whose root table is
listed first (log 48: R16 does not say). -/
def insertRank (c : W16 × Leaf × PageInfo × Nat × Nat) :
    List (W16 × Leaf × PageInfo × Nat × Nat) → List (W16 × Leaf × PageInfo × Nat × Nat)
  | [] => [c]
  | x :: t =>
    if x.2.2.2.2 < c.2.2.2.2 ∨ (x.2.2.2.2 = c.2.2.2.2 ∧ c.2.1.base < x.2.1.base) then c :: x :: t
    else x :: insertRank c t

/-- Starts the migrations of the ranked candidates within the budget of each destination die. A candidate that the roomiest stack of its
destination cannot take is passed over, and nothing is charged for it (log 48: R16 does not say). -/
def startMoves (s : State) (moves : Nat → Nat) : List (W16 × Leaf × PageInfo × Nat × Nat) → State
  | [] => s
  | (_, l, info, d, _) :: t =>
    match roomiest s ((List.range 16).filter (fun k => homeDie k == d)) with
    | none => startMoves s moves t
    | some k =>
      if bits64 s.hub.plctl 32 16 ≤ moves d ∨ vget s.freePages k 0 < framesOf l then startMoves s moves t
      else
        startMoves ((s.takeFree k (framesOf l)).putPage { info with move := .migrating k })
          (fun x => if x = d then moves d + 1 else moves x) t

/-- R23: PLINT and PLCTL.TRIG as the last boundary left them decide when the next one falls. -/
def State.takeTrigger (s : State) : State :=
  { s with hub := { s.hub with plintNow := s.hub.plint, trigNow := bits64 s.hub.plctl 2 2 } }

/-- Where no boundary can come under the values of the present interval, a write takes effect at once (log 48: R23 does not say). -/
def settleTrigger (s : State) : State :=
  let h := s.hub
  let intervals := h.trigNow != 0 && h.plintNow != 0
  let commits := h.trigNow != 1 && s.groups.toList.any (fun g => g.state != .idle)
  if intervals || commits then s else { s.takeTrigger with boundary := (s.us, s.boundary.2) }

/-- PLACEMENT_BOUNDARY (R16, R22, R23): `interval` for one of PLINT, else one of a round commit. The engines of the six dies share the budget
of a destination die in one ranking of all candidates (log 48: R16 does not say how they share it). -/
def execPlacementBoundary (interval : Bool) (s : State) : Result :=
  let due := if interval then
      s.hub.trigNow != 0 && s.hub.plintNow != 0 && decide (s.boundary.1 + s.hub.plintNow.toNat ≤ s.us)
    else decide (0 < s.boundary.2)
  if !due then notNow s
  else
    let s1 := { s.takeTrigger with boundary := if interval then (s.us, s.boundary.2) else (s.boundary.1, s.boundary.2 - 1) }
    if !s.hub.plctl.getLsbD 0 then happens s1
    else
      let cands := ((allPages s1).filterMap (candidate s1 interval)).foldl (fun acc c => insertRank c acc) []
      let s2 := if s.hub.plctl.getLsbD 1 then s1 else startMoves s1 (fun _ => 0) cands
      happens { s2 with pages := s2.pages.map (fun p => { p with counts := p.counts.map (fun c => c / 2) }) }

/-- Whether a frame that the allocator offers can take a page on a stack. -/
def frameFits (s : State) (l : Leaf) (stack frame : Nat) : Bool :=
  !s.flash.retired.any (fun f => decide (frame ≤ 4096 * f) && decide (4096 * f < frame + l.size)) &&
  frame % l.size == 0 && stackOf frame == stack && decide (frame + l.size ≤ (stack + 1) * stackBytes) &&
    decide (stack < 16) &&
    !(allPages s).any (fun q => !pteT q.2.1.pte && !pteRMT q.2.1.pte &&
      decide (frameOf q.2.1 < frame + l.size) && decide (frame < frameOf q.2.1 + q.2.1.size))

/-- R211: whether a page at a frame lies in part on a pseudo-channel in all-bank mode; copies of it wait. -/
def frameHeld (s : State) (l : Leaf) (frame : Nat) : Bool :=
  !s.holds.isEmpty &&
    (List.range (min 64 (l.size / 256))).any (fun i => s.holds.any (fun h => h.channel == pageChannel l.pte l.size (frame + 256 * i)))

/-- Whether a page has a modified line whose write-back waits for the repair of its stripe (R267). -/
def pageLocked (s : State) (a n : Nat) : Bool :=
  s.dcache.any (fun d => d.dirty && decide (a ≤ 64 * d.line) && decide (64 * d.line < a + n) &&
    (match protLine s (64 * d.line) with
     | some (i, ll) => stripeLocked (s.group i) ll
     | none => false))

/-- The frames of a range that are not retired (R275). -/
def goodFrames (s : State) (a n : Nat) : Nat :=
  n / 4096 - (s.flash.retired.filter (fun f => decide (a ≤ 4096 * f) && decide (4096 * f < a + n))).length

/-- The end of a migration: steps 2 to 5 of R18; an uncorrectable error cancels it (R20), unless the page leaves a retired
frame: then the lines that failed stay withheld (R275). -/
def finishMigration (s : State) (asid : W16) (l : Leaf) (p : PageInfo) (stack frame : Nat) : State :=
  let old := frameOf l
  let s1 := (s.evictRange old l.size).evictRange frame l.size
  let worn := decide (goodFrames s old l.size < framesOf l)
  if lostIn s1 old l.size && !worn then (s1.addFree stack (framesOf l)).putPage { p with move := .idle }
  else
    let shift := fun (x : Nat) => if old ≤ 64 * x ∧ 64 * x < old + l.size then x - old / 64 + frame / 64 else x
    let s2 := { s1 with
      lost := s1.lost.map shift,
      mem := s1.mem.moveRange old frame l.size, stamps := moveStamps s1.stamps (old / 64) (frame / 64) (l.size / 64) }
    let s3 := if ptePROT l.pte then s2.moveRegion old frame else s2
    let s4 := ((s3.moveCode old frame l.size).forgetFrame old l.size).forgetFrame frame l.size
    (((s4.setFrame asid l frame false).redirect old frame l.size).addFree (stackOf old) (goodFrames s old l.size)).putPage
      { p with move := .idle, pfn := frame / 4096 }

/-- The first 4 KiB page of a range of the capacity tier that an error struck. -/
def lostCap (s : State) (cap n : Nat) : Nat :=
  (((List.range (n / 4096)).map (cap + ·)).find? (fun c => lostIn s (capLine c * 64) 4096)).getD cap

/-- The end of a return from the capacity tier (R155); an uncorrectable error that it meets is reported and leaves the page there (R272, R302). -/
def finishReturn (s : State) (asid : W16) (l : Leaf) (p : PageInfo) (stack frame : Nat) : State :=
  let cap := ptePFN l.pte
  if lostIn s (capLine cap * 64) l.size then
    ((s.addFree stack (framesOf l)).putPage { p with move := .idle }).reportError
      { plainError 6 hubDie (lostCap s cap l.size * 4096) with key := recordKey l.pte }
  else
    let s0 := s.evictRange frame l.size
    let s1 := { s0 with
      mem := copyBetween s0.cap s0.mem (cap * 4096) frame l.size,
      cap := copyBetween Memory.empty s0.cap 0 (cap * 4096) l.size,
      stamps := moveStamps s0.stamps (capLine cap) (frame / 64) (l.size / 64) }
    let s2 := (s1.moveCode (capLine cap * 64) frame l.size).forgetFrame frame l.size
    (s2.setFrame asid l frame false).putPage { p with move := .idle, pfn := frame / 4096 }

/-- PAGE_MIGRATION (R18, R155): the copy of a page to the frame that the allocator gave it is complete. -/
def execPageMigration (page frame : Nat) (s : State) : Result :=
  match pageAt s page with
  | none => notNow s
  | some (asid, l, p) =>
    match p.move with
    | .migrating k =>
      if frameFits s l k frame && !frameHeld s l frame && !frameHeld s l (frameOf l) && !pageLocked s (frameOf l) l.size then
        happens (finishMigration s asid l p k frame)
      else notNow s
    | .returning k =>
      if frameFits s l k frame && !frameHeld s l frame then happens (finishReturn s asid l p k frame) else notNow s
    | _ => notNow s

/-! ## Eviction (R153, R154) -/

def tierLow (s : State) : Nat := bits64 s.hub.tiercfg 8 16 * 512
def tierHigh (s : State) : Nat := bits64 s.hub.tiercfg 24 16 * 512

/-- The evictable pages of a stack (R153). -/
def evictable (s : State) (stack : Nat) : List (W16 × Leaf × PageInfo) :=
  (allPages s).filter (fun p => !fixedPage p.2.1 && !ptePROT p.2.1.pte && stackOf (frameOf p.2.1) == stack &&
    p.2.2.move != .evicting)

/-- Whether `a` is picked before `b`: lower priority, then greater distance, then the lower virtual address. Of pages of two address spaces that
agree in all three, the one whose root table is listed first is picked (log 98: R153 does not say). -/
def evictBefore (s : State) (a b : W16 × Leaf × PageInfo) : Bool :=
  let far := fun (p : W16 × Leaf × PageInfo) => distance s p.2.2
  if a.2.2.prio ≠ b.2.2.prio then decide (a.2.2.prio < b.2.2.prio)
  else
    match far a, far b with
    | none, none => decide (a.2.1.base < b.2.1.base)
    | none, some _ => true
    | some _, none => false
    | some x, some y => if x ≠ y then decide (y < x) else decide (a.2.1.base < b.2.1.base)

/-- The page that the eviction engine picks among some (R153, log 98). -/
def pickEviction (s : State) : List (W16 × Leaf × PageInfo) → Option (W16 × Leaf × PageInfo)
  | [] => none
  | p :: t =>
    match pickEviction s t with
    | none => some p
    | some q => if evictBefore s q p then some q else some p

/-- EVICTION_START (R153): below LOW, and then until HIGH, the engine picks the next page of a stack. A page picked while it
migrates is evicted (R20). -/
def execEvictionStart (stack : Nat) (s : State) : Result :=
  let free := vget s.freePages stack 0
  let on := s.evictStacks.contains stack || decide (free < tierLow s)
  let busy := s.pages.any (fun p => p.move == .evicting && stackOf (p.frame s) == stack)
  if !s.hub.tiercfg.getLsbD 0 || !on || busy || decide (16 ≤ stack) then notNow s
  else if tierHigh s ≤ free then happens { s with evictStacks := s.evictStacks.erase stack }
  else
    match pickEviction s (evictable s stack) with
    | none => notNow s
    | some (_, l, p) =>
      let s1 := { s with evictStacks := if s.evictStacks.contains stack then s.evictStacks else stack :: s.evictStacks }
      let s2 := match p.move with
        | .migrating k => s1.addFree k (framesOf l)
        | _ => s1
      happens (s2.putPage { p with move := .evicting })

/-- The pages of 4 KiB that the capacity tier holds (R1). -/
def capPages : Nat := 2 ^ 31

/-- Whether pages of the capacity tier are there, aligned to the page, and free. -/
def capFits (s : State) (l : Leaf) (capPage : Nat) : Bool :=
  decide (capPage + framesOf l ≤ capPages) && capPage % framesOf l == 0 &&
    !(allPages s).any (fun q => pteT q.2.1.pte &&
      decide (ptePFN q.2.1.pte < capPage + framesOf l) && decide (capPage < ptePFN q.2.1.pte + framesOf q.2.1))

/-- Whether an element lies in a frame of this module. -/
def Elem.inFrame (e : Elem) (a n : Nat) : Bool := !pteRMT e.pte && decide (a ≤ localPart e.pa) && decide (localPart e.pa < a + n)

/-- Accesses that have been translated to a frame and are still to be performed: of some kind of access, or any. -/
def queuedAt (s : State) (a n : Nat) (writes : Bool) : Bool :=
  (allCtxs s).any (fun x =>
    x.gq.any (fun y => (!writes || y.writes) && y.elems.any (·.inFrame a n)) ||
    (!writes && (x.eng.couch.cmds.any (fun c => c.elems.any (·.inFrame a n)))))

/-- PAGE_EVICTION (R154): the copy to the capacity tier is complete; nothing is left of it when a write has cancelled it, or is queued to
come, or an uncorrectable error struck the page. Reads that were translated to the frame come first. -/
def execPageEviction (page capPage : Nat) (s : State) : Result :=
  match pageAt s page with
  | none => notNow s
  | some (asid, l, p) =>
    let old := frameOf l
    if p.move ≠ .evicting ∨ !capFits s l capPage ∨ frameHeld s l old then notNow s
    else if queuedAt s old l.size true then happens (s.putPage { p with move := .idle })
    else if queuedAt s old l.size false then notNow s
    else
      let s1 := s.evictRange old l.size
      if lostIn s1 old l.size then happens (s1.putPage { p with move := .idle })
      else
        let fresh := fun (x : Nat) => decide (x < capLine capPage) || decide (capLine capPage + l.size / 64 ≤ x)
        let s2 := { s1 with
          lost := s1.lost.filter fresh,
          cap := copyBetween s1.mem s1.cap old (capPage * 4096) l.size,
          mem := copyBetween Memory.empty s1.mem 0 old l.size,
          stamps := moveStamps s1.stamps (old / 64) (capLine capPage) (l.size / 64) }
        let s3 := (s2.moveCode old (capLine capPage * 64) l.size).forgetFrame old l.size
        happens (((s3.setFrame asid l (capPage * 4096) true).addFree (stackOf old) (goodFrames s old l.size)).putPage
          { p with move := .idle, pfn := capPage + 2 ^ 40 })

/-! ## Return (R155) -/

/-- The stacks to which a page returns: those of the die that asked for it, or all. -/
def stacksFor (die : Option Nat) : List Nat :=
  match die with
  | some d => (List.range 16).filter (fun k => homeDie k == d)
  | none => List.range 16

/-- A page of the capacity tier starts its return to a stack; without room it waits for it (R155). -/
def startReturn (s : State) (die : Option Nat) (l : Leaf) (p : PageInfo) : State :=
  let waits := s.returns.filter (·.1 != l.pteAddr)
  match roomiest s (stacksFor die) with
  | none => s
  | some k =>
    if vget s.freePages k 0 < framesOf l then { s with returns := waits ++ [(l.pteAddr, die)] }
    else (({ s with returns := waits }.takeFree k (framesOf l)).putPage { p with move := .returning k })

/-- The returns that wait for room are tried again, in their order. -/
def State.retryReturns (s : State) : State :=
  s.returns.foldl (fun t r =>
    match pageAt t r.1 with
    | some (_, l, p) =>
      if pteT l.pte ∧ p.move = .idle then startReturn t r.2 l p
      else { t with returns := t.returns.filter (·.1 != r.1) }
    | none => { t with returns := t.returns.filter (·.1 != r.1) }) s

/-- Puts a page into the order of its return: nearer first, ties to the lower virtual address; of two address spaces, the one whose root table is
listed first (log 98: R155 does not say). -/
def insertNear (c : Int × Leaf × PageInfo) : List (Int × Leaf × PageInfo) → List (Int × Leaf × PageInfo)
  | [] => [c]
  | x :: t => if c.1 < x.1 ∨ (c.1 = x.1 ∧ c.2.1.base < x.2.1.base) then c :: x :: t else x :: insertNear c t

/-- At each advance of the present round, the pages within the prefetch window return. -/
def prefetch (s : State) : State :=
  if !s.hub.tiercfg.getLsbD 1 then s
  else
    let near := (allPages s).filterMap (fun p =>
      match distance s p.2.2 with
      | some d => if pteT p.2.1.pte ∧ p.2.2.move = .idle ∧ 0 ≤ d ∧ d ≤ (bits64 s.hub.tiercfg 40 8 : Int) then
          some (d, p.2.1, p.2.2) else none
      | none => none)
    (near.foldl (fun acc c => insertNear c acc) []).foldl (fun t c => startReturn t none c.2.1 c.2.2) s

/-- The supervisor returns a page on demand, to the die of the faulting core (R155). -/
def returnOnDemand (s : State) (page die : Nat) : State :=
  match pageAt s page with
  | some (_, l, p) =>
    if pteT l.pte ∧ p.move = .idle then startReturn s (some die) l p else s
  | none => s

/-! ## Chains -/

/-- CHAIN_DEMOTION (R28, R147): once every gang that the chain-end MARK waits for has retired, every line of the chain is
marked; nothing is written back. -/
def execChainDemotion (chain : BitVec 8) (s : State) : Result :=
  let waits := fun (g : Nat) => s.tamb.gangs.any (fun h => h.id == g && !h.done)
  let due := fun (m : Nat × List Nat) => m.1 == chain.toNat && !m.2.any waits
  if s.tamb.marks.any due then
    happens { s with
      dcache := s.dcache.map (fun l => if l.chain = chain then { l with demoted := true } else l),
      tamb := { s.tamb with marks := s.tamb.marks.filter (fun m => !due m) } }
  else notNow s

end Sys2Proof.Machine
end

