-- ==== Sys2Proof/Machine/Hub.lean ====
section
/-! DEFINITION. What every supervisor step shares: the write restrictions of R284 and the counting of what is dropped. -/

namespace Sys2Proof.Machine

/-- A write or a message that is dropped is counted (R281, R284). -/
def State.countDropped (s : State) : State :=
  s.modLife (fun l => { l with dropped := l.dropped + 1 })

/-- R305: no access to HBM is accepted until the gate is open; what needs one is held. -/
def gated (s : State) (r : Result) : Result := if s.power.gate then r else notNow s

/-- R284: a register that only the leader hart writes, while its lease has not run out (R285); any other write is ignored and counted. -/
def leaderWrite (s : State) (hart : Nat) (f : State → State) : Result :=
  if hart = s.hub.holder ∧ hart < 6 ∧ s.hub.remain ≠ 0 then happens (f s) else happens s.countDropped

/-- R284: a register that only the hart of its die writes. -/
def dieWrite (s : State) (hart die : Nat) (f : State → State) : Result :=
  if hart = die ∧ die < 6 then happens (f s) else happens s.countDropped

end Sys2Proof.Machine
end

