-- ==== Sys2Proof/Machine/Groups.lean ====
section
/-! DEFINITION. Coding groups: the register writes that form and repair a group (R252, R253, R268, R269), the state-group instructions and
their engines (R257 to R261, R270, R383, R388, R389), rounds and their messages (R261 to R266), repair and darning (R267, R270,
R271). -/

namespace Sys2Proof.Machine

/-! ## Bytes of chunks -/

/-- The i-th power of 0x02 (R254). -/
def gfPow2 : Nat → Byte
  | 0 => 1
  | n + 1 => gfMul 2 (gfPow2 n)

/-- The n-th power of a byte. -/
def gfPow (x : Byte) : Nat → Byte
  | 0 => 1
  | n + 1 => gfMul x (gfPow x n)

def gfInv (x : Byte) : Byte := gfPow x 254

def xorChunk (a b : List Byte) : List Byte := (a.zip b).map (fun p => p.1 ^^^ p.2)
def scaleChunk (c : Byte) (a : List Byte) : List Byte := a.map (gfMul c)
def zeroChunk : List Byte := List.replicate 64 0
def lineBytes (v : BitVec 512) : List Byte := natBytes v.toNat 64
def ofChunk (bs : List Byte) : BitVec 512 := BitVec.ofNat 512 (leNat bs)

/-! ## The round-state header (Table 13.5) -/

def State.setRound (s : State) (g : GroupSlot) (n : W32) : State := s.putLocal g.base 4 n.toNat

/-- Whether the header holds COMMIT(N). -/
def hasCommit (s : State) (g : GroupSlot) (n : W32) : Bool :=
  s.getLocal (g.base + 12) 1 % 2 == 1 && s.getLocal (g.base + 8) 4 == n.toNat

def State.recordCommit (s : State) (g : GroupSlot) (n : W32) : State :=
  let s1 := s.putLocal (g.base + 8) 4 n.toNat
  s1.putLocal (g.base + 12) 1 (s1.getLocal (g.base + 12) 1 / 2 * 2 + 1)

/-- The code of STATE (Table 13.1). -/
def GrpState.code : GrpState → Nat
  | .idle => 0
  | .forming => 1
  | .opened => 2
  | .sealing => 3
  | .prepared => 4
  | .recovering => 5
  | .darning => 6
  | .broken => 7

/-- Changes a slot's state; the phase byte of the header follows it (log 20). -/
def State.enterState (s : State) (i : Nat) (st : GrpState) : State :=
  let g := s.group i
  (s.setGroup i { g with state := st }).putLocal (g.base + 4) 1 st.code

def State.modGroup (s : State) (i : Nat) (f : GroupSlot → GroupSlot) : State := s.setGroup i (f (s.group i))

/-! ## Membership -/

def memPkg (w : W64) : Nat := bits64 w 48 10
def memCool (w : W64) : Nat := bits64 w 32 16
def memPwr (w : W64) : Nat := bits64 w 16 16

/-- The lowest-indexed live member (R262). -/
def coordinator (g : GroupSlot) : Nat := (liveMembers g).head?.getD g.self

/-- Whether a domain id appears in more than m of some entries, or is unassigned (R253, R269). -/
def badDomains (g : GroupSlot) : Bool :=
  let es := (List.range g.n).map (fun j => vget g.mem j 0)
  let crowd := fun (f : W64 → Nat) => es.any (fun e => decide (g.m < (es.filter (fun x => f x == f e)).length))
  es.any (fun e => memPwr e == 0xFFFF || memCool e == 0xFFFF) || crowd memPwr || crowd memCool

/-- R253: the checks of FORM and STBY. -/
def badConfig (s : State) (g : GroupSlot) : Bool :=
  let own := vget g.mem g.self 0
  decide (g.k < 2) || decide (14 < g.k) || decide (g.m < 1) || decide (2 < g.m) || decide (g.rcnt < 1) ||
    decide (64 < g.rcnt) || decide (16 < g.n) || decide (g.n ≤ g.self) || memPkg own != s.hub.pkg ||
    memPwr own != s.hub.pwrdom.toNat || memCool own != s.hub.cooldom.toNat ||
    (List.range 16).any (fun j => decide (g.n ≤ j) && vget g.mem j 0 != 0) || badDomains g

/-- What this member's JOIN carries (R265, R269, R306). -/
def joinOf (s : State) (g : GroupSlot) (ready : Bool) : JoinInfo :=
  { k := g.k, m := g.m, rcnt := g.rcnt, members := g.mem.toList, round := headerRound s g,
    commit := if s.getLocal (g.base + 12) 1 % 2 = 1 then some (BitVec.ofNat 32 (s.getLocal (g.base + 8) 4)) else none,
    ready := ready, entering := g.state == .darning, answer := false, pkg := s.hub.pkg }

/-- Sends JOIN to members. -/
def State.sendJoin (s : State) (i : Nat) (ready : Bool) (dests : List Nat) : State :=
  s.sendAll i 16 { groupMsg s i with join := some (joinOf s (s.group i) ready) } dests

/-- Answers a member's JOIN with the own one (R269). -/
def State.answerJoin (s : State) (i member : Nat) : State :=
  let g := s.group i
  s.send i member 16 { groupMsg s i with join := some { joinOf s g (g.readyFrom.contains g.self) with answer := true } }

def everyOther (g : GroupSlot) : List Nat := (List.range g.n).filter (· != g.self)

/-- The RW fields of GRPCFG (Table 13.1). -/
def GroupSlot.configure (g : GroupSlot) (v : W64) : GroupSlot :=
  { g with hbto := max 200 (bits64 v 40 16), rcnt := bits64 v 32 8, gid := BitVec.ofNat 16 (bits64 v 16 16),
           self := bits64 v 8 4, k := bits64 v 4 4, m := bits64 v 0 2 }

/-- A slot with no round in progress. -/
def GroupSlot.fresh (g : GroupSlot) : GroupSlot :=
  { g with live := Vector.replicate 16 false, silent := Vector.replicate 16 0, seqIn := Vector.replicate 16 0,
           seqOut := Vector.replicate 16 0, early := [], peerLocked := [],
           lossInRound := false, lossesSinceWhole := 0, ablock := false, abreq := false, abrt := false, prepared := [],
           acks := [], recording := none, joins := [], readyFrom := [], viaDarning := [], audits := 0, darned := [],
           shares := [], requested := none, recorders := [], answers := [], queryRound := none, served := [], attempt := g.attempt + 1,
           abortDue := false, unsent := [] }

/-! ## The instructions of the state group (R257) -/

/-- ROUNDSTATE's TVAL (R257). -/
def roundTval (s : State) (g : Nat) : W64 := BitVec.ofNat 64 (g + (s.group g).state.code * 2 ^ 8)

/-- R258 item 4, on the leaf that serves the region's page. -/
def badRegion (s : State) (g : GroupSlot) (t : TlbEntry) (ar : Nat) (set : Bool) : Bool :=
  let e := regionEntry s g ar
  t.size != 2 ^ 21 || pteCC t.pte || pteRMT t.pte || pteT t.pte || decide (g.rcnt ≤ ar) ||
    (if set then e.getLsbD 0 || ptePROT t.pte
     else !e.getLsbD 0 || e.getLsbD 1 || regionFrame e != ptePFN t.pte * 4096)

/-- PROT (R258, R383). -/
def execProt (st : Bool) (ra rb rc : BitVec 5) (set : Bool) (s : State) : Result :=
  issue (.prot st ra rb rc set) (fun s c =>
    let a := rd s c ra
    let ag := rd s c rb
    let ar := rd s c rc
    let i := .prot st ra rb rc set
    whenRoom s 6
      (if 3 < ag.toNat then .trap 0x01 ag
       else if a.toNat % 2 ^ 21 ≠ 0 then .trap 0x05 a
       else
         match translate s s.ctx.coreId s.ctx.asid .write a with
         | .error e => if walkHeld s s.ctx.coreId s.ctx.asid a then .wait .none else .trap e a
         | .ok t =>
           if walkHeld s s.ctx.coreId s.ctx.asid a then .wait .none
           else if badRegion s (s.group ag.toNat) t ar.toNat set then .trap 0x19 a
           else if (s.group ag.toNat).state ≠ .opened then .trap 0x1A (roundTval s ag.toNat)
           else .go (enterQueue (s.remember t) c 6 (encode i) [a, ag, ar] (engCmd s (encode i) a ag ar)))) s

/-- R388, R389: whether every group slot is IDLE. -/
def allIdle (s : State) : Bool := (List.range 4).all (fun g => (s.group g).state == .idle)

/-- RNDEND (R388, R389). -/
def execRndend (st : Bool) (ra rc : BitVec 5) (s : State) : Result :=
  issue (.rndend st ra rc) (fun s c =>
    let ag := rd s c ra
    let aw := rd s c rc
    let i := .rndend st ra rc
    let state := (s.group ag.toNat).state
    whenRoom s 6
      (if 3 < ag.toNat then .trap 0x01 ag
       else if aw.toNat % 8 ≠ 0 then .trap 0x05 aw
       else if state ≠ .opened ∧ state ≠ .sealing ∧ state ≠ .prepared ∧ !allIdle s then .trap 0x1A (roundTval s ag.toNat)
       else .go (enterQueue s c 6 (encode i) [ag, aw] (engCmd s (encode i) ag 0 aw)))) s

/-- DARN (R270, R337). -/
def execDarn (st : Bool) (ra rb rc : BitVec 5) (s : State) : Result :=
  issue (.darn st ra rb rc) (fun s c =>
    let ar := rd s c ra
    let ag := rd s c rb
    let aw := rd s c rc
    let i := .darn st ra rb rc
    whenRoom s 4
      (if 3 < ag.toNat then .trap 0x01 ag
       else if aw.toNat % 8 ≠ 0 then .trap 0x05 aw
       else if (s.group ag.toNat).rcnt ≤ ar.toNat then .trap 0x19 ar
       else if (s.group ag.toNat).state ≠ .darning then .trap 0x1A (roundTval s ag.toNat)
       else .go (enterQueue s c 4 (encode i) [ar, ag, aw] (engCmd s (encode i) ar ag aw)))) s

/-! ## Held RNDENDs (R261, R490) -/

/-- The Footside queue of the focused context stops with a fault of an update. -/
def footUpdateFault (s : State) (u : Update) (code : Nat) : State := stopQueue s 6 (updateFault s.now u code .A 6)

/-- Makes the update that a held RNDEND owes; gives whether it is made. -/
def settleHeld (s : State) (u : Update) : State × Bool :=
  let (s1, rest, code) := applyUpdates s [u]
  match rest with
  | [] => (s1, true)
  | _ :: _ => if code = 0 then (s1, false) else (footUpdateFault s1 u code, false)

/-- A held RNDEND completes in its context, which is in focus; one whose update cannot be made stays with the slot. -/
def releaseHeld (s : State) (i : Nat) (h : HeldEnd) (err : Option (BitVec 6)) : State :=
  let u : Update := { addr := h.aw, add := none, arrive := true, err := err, fb := false, idx := h.idx }
  let (s1, made) := settleHeld s u
  if made then s1 else s1.modGroup i (fun g => { g with held := g.held ++ [{ h with due := some u }] })

/-- The held RNDENDs of a slot complete (R261); one that names no completion word makes no update (R177). -/
def completeHeld (s : State) (i : Nat) (err : Option (BitVec 6)) : State :=
  let held := (s.group i).held
  let s0 := s.modGroup i (fun g => { g with held := g.held.filter (·.due.isSome) })
  held.foldl (fun t h =>
    if h.due.isSome ∨ h.aw = 0 then t else t.onCtx h.cid (fun v => releaseHeld v i h err)) s0

/-! ## Protected regions -/

/-- Sets or clears PROT in the leaf entry of a region, and drops its translations (R258). -/
def State.setProt (s : State) (pteAddr : Nat) (asid : W16) (va : Nat) (on : Bool) : State :=
  let e := BitVec.ofNat 64 (s.getLocal pteAddr 8)
  let e' := if on then e ||| 0x400 else e &&& ~~~(0x400 : W64)
  let s1 := s.putLocal pteAddr 8 e'.toNat
  { s1 with tlb := s1.tlb.filter (fun t =>
      ptePFN t.pte != ptePFN e && (t.asid != asid || decide (t.base + t.size ≤ va) || decide (va + 2 ^ 21 ≤ t.base))) }

/-- The region of an entry becomes unprotected, and the entry invalid. -/
def State.unprotect (s : State) (i r : Nat) : State :=
  let g := s.group i
  let va := s.getLocal (regionAddr g r + 8) 8
  let s1 := match g.regionPte.find? (fun x => x.1 == r) with
    | some (_, asid, a) => s.setProt a (BitVec.ofNat 16 asid) va false
    | none => s
  (s1.putLocal (regionAddr g r) 8 0).modGroup i (fun h => { h with regionPte := h.regionPte.filter (fun x => x.1 != r) })

def validRegions (s : State) (g : GroupSlot) : List Nat := (List.range g.rcnt).filter (fun r => (regionEntry s g r).getLsbD 0)
def clrPending (s : State) (g : GroupSlot) : List Nat :=
  (validRegions s g).filter (fun r => (regionEntry s g r).getLsbD 1)

/-- The local address of a logical line. -/
def lineAddr (s : State) (g : GroupSlot) (line : Nat) : Nat :=
  regionFrame (regionEntry s g (line / 32768)) + line % 32768 * 64

/-! ## Decisions (R261 to R263) -/

/-- Writes back and drops the lines of a range, then clears it. -/
def State.clearRange (s : State) (a n : Nat) : State :=
  let s1 := s.evictRange a n
  { s1 with mem := ⟨s1.mem.cells.filter (fun c => decide (c.1 < a) || decide (a + n ≤ c.1))⟩,
            stamps := s1.stamps.filter (fun p => decide (64 * p.1 + 64 ≤ a) || decide (a + n ≤ 64 * p.1)),
            lost := s1.lost.filter (fun l => decide (64 * l + 64 ≤ a) || decide (a + n ≤ 64 * l)) }

/-- The staging store folds into parity (R262). With a staging chunk that an error withholds, the parity chunk is withheld too (R267). -/
def foldStaging (s : State) (g : GroupSlot) : State :=
  (List.range (g.m * g.blocks)).foldl (fun t c =>
    let d := t.supRead (stagingBase g + 64 * c) 64
    if hitsLost t (stagingBase g + 64 * c) 64 then { t with lost := (parityBase g / 64 + c) :: t.lost.erase (parityBase g / 64 + c) }
    else if d.all (· == 0) then t
    else t.supWrite (parityBase g + 64 * c) (xorChunk (t.supRead (parityBase g + 64 * c) 64) d)) s

/-- A logged line takes its round-start value, in the die cache's stead and in HBM, and no L1 holds it as owned any more (R260, R261, R263). Where an error withholds that value in the
log, the line is withheld, and it is to be repaired (R267). -/
def restoreLine (s : State) (g : GroupSlot) (line : Nat) : State :=
  let a := lineAddr s g line
  let rest := s.lost.filter (· != a / 64)
  let gone := hitsLost s (logAddr g line) 64
  let s1 := { s with dcache := s.dcache.filter (fun l => l.line != a / 64),
                     mem := if gone then s.mem else s.mem.write a (s.supRead (logAddr g line) 64),
                     lost := if gone then a / 64 :: rest else rest }
  (wordsOf (s.hub.pkg * 2 ^ 46 + a) 64).foldl disownWord s1

/-- The first stripe of a slot with a line that an error struck (R267). -/
def lostStripe (s : State) (i : Nat) : Option Nat :=
  s.lost.findSome? (fun l =>
    match protLine s (64 * l) with
    | some (j, ll) => if j = i then some (stripeOf (s.group i) (s.group i).self ll) else none
    | none => none)

def loggedLines (s : State) (g : GroupSlot) : List Nat :=
  (List.range (g.rcnt * 32768)).filter (fun l => lineLogged s g l)

/-- The requester of a passed write. -/
def whoPassed (s : State) (cid : Nat) : Requester := ((s.ctxOf cid).map Ctx.requester).getD .nobody

/-- A write that a stopped context passed to its group slot is performed (R489). -/
def passWrite (s : State) (cid : Nat) (y : Access) : State :=
  y.elems.zipIdx.foldl (fun t p =>
    let (e, j) := p
    if y.plainStore then t.agentWrite e (natBytes ((y.makes j 0).getD 0) y.size)
    else
      let (u, old) := t.atomic (whoPassed t cid) none e y.size (y.makes j)
      match t.ctxOf cid with
      | some x => if y.kind = .signal ∧ old.isSome then u.wakePage x.asid e.va else u
      | none => u) s

/-- The writes that stopped contexts passed to a slot perform as the first of the next round (R489), in order: once the round is open and the
placement boundary of its commit has come (R19), each as soon as its page is not migrating (R18). -/
def performPassed (s : State) (i : Nat) : Nat → State
  | 0 => s
  | n + 1 =>
    match (s.group i).passed with
    | (cid, y) :: t =>
      if (s.group i).state = .opened ∧ s.boundary.2 = 0 ∧ !y.elems.any (fun e => migrating s e.pa || heldAway s e y.size) then
        performPassed (passWrite (s.modGroup i (fun g => { g with passed := t })) cid y) i n
      else s
    | [] => s

def settlePassed (s : State) (i : Nat) : State := performPassed s i (s.group i).passed.length

/-- A slot without a round in progress goes on: OPEN, or RECOVERING after a loss (Table 13.7). A line that an error withholds is repaired
from now on. -/
def afterDecision (s : State) (i : Nat) : State :=
  let g := { s.group i with lockedStripe := if (s.group i).lockedStripe.isSome then (s.group i).lockedStripe else lostStripe s i }
  let s1 := s.setGroup i { g with
    lossInRound := false, ablock := false, abreq := false, abrt := false, prepared := [], acks := [], recording := none,
    recorders := [], answers := [], queryRound := none, audits := 0, setInRound := [], setSent := [], attempt := g.attempt + 1, abortDue := false }
  if (List.range g.n).all (fun j => vget g.live j false) then s1.enterState i .opened
  else s1.enterState i .recovering

/-- COMMIT is applied (R262): parity, the log, the counter, and the regions that PROT.clr ends. A placement boundary comes (R16), and, where the
present round is this slot's, pages are prefetched (R155). -/
def applyCommit (s : State) (i : Nat) : State :=
  let g := s.group i
  let s1 := (foldStaging s g).clearRange (stagingBase g) g.storeSize
  let s2 := s1.clearRange (g.base + 0x2000) 0x40000
  let s3 := s2.setRound g (headerRound s2 g + 1)
  let s4 := (clrPending s3 g).foldl (fun t r => t.unprotect i r) s3
  let lowest := (List.range 4).find? (fun j => (s.group j).state != .idle) == some i
  let s5 := if s4.hub.trigNow = 1 then s4 else { s4 with boundary := (s4.boundary.1, s4.boundary.2 + 1) }
  let s6 := completeHeld (afterDecision s5 i) i none
  if lowest then prefetch s6 else s6

/-- ABORT takes effect (R258, R263). -/
def restoreRound (s : State) (i : Nat) : State :=
  let g := s.group i
  let s1 := (loggedLines s g).foldl (fun t l => restoreLine t g l) s
  let s2 := (s1.clearRange (stagingBase g) g.storeSize).clearRange (g.base + 0x2000) 0x40000
  let s3 := g.setInRound.foldl (fun t r => t.unprotect i r) s2
  let s4 := (clrPending s3 g).foldl (fun t r =>
    t.putLocal (regionAddr g r) 8 ((regionEntry t g r) &&& ~~~(2 : W64)).toNat) s3
  completeHeld (afterDecision s4 i) i (some 0x1A)

/-- R18: whether the log's write-back waits for a page to have moved. -/
def restoreWaits (s : State) (i : Nat) : Bool :=
  let g := s.group i
  s.pages.any isMoving && (loggedLines s g).any (fun l => migrating s (s.hub.pkg * 2 ^ 46 + lineAddr s g l))

/-- ABORT is applied (R258, R263), as soon as no page that it restores is moving (R18). -/
def applyAbort (s : State) (i : Nat) : State :=
  if restoreWaits s i then s.modGroup i (fun g => { g with abortDue := true }) else restoreRound s i

/-- An abort that waited for a page is applied. -/
def settleAbort (s : State) (i : Nat) : State :=
  if (s.group i).abortDue && !restoreWaits s i then restoreRound s i else s

/-- The coordinator announces its decision and applies it. -/
def decide' (s : State) (i : Nat) (commit : Bool) : State :=
  let g := s.group i
  let s1 := s.sendAll i (if commit then 9 else 10) (groupMsg s i) (otherLive g)
  if commit then applyCommit s1 i else applyAbort s1 i

/-- R262, R263: what the coordinator does once it may decide. After a loss it aborts without waiting for the survivors (Table 13.8, R484). -/
def settleDecide (s : State) (i : Nat) : State :=
  let g := s.group i
  let n := headerRound s g
  let waiting := g.state == .opened || g.state == .sealing || g.state == .prepared
  if coordinator g ≠ g.self ∨ !waiting ∨ g.abortDue ∨ g.recording.isSome ∨ g.queryRound.isSome ∨ hasCommit s g n then s
  else if !g.ablock && !g.lossInRound && !(liveMembers g).all g.prepared.contains then s
  else if g.ablock || g.lossInRound || g.abrt then decide' s i false
  else
    let dests := (otherLive g).take g.m
    let s1 := s.recordCommit g n
    let s2 := s1.sendAll i 7 (groupMsg s1 i) dests
    if dests.isEmpty then decide' s2 i true
    else s2.modGroup i (fun h => { h with recording := some dests.length, recorders := dests, answers := [] })

/-- The modified protected lines of a slot in the die caches. -/
def dirtyLines (s : State) (i : Nat) : List Nat :=
  (s.dcache.filter (fun l => l.dirty && (match protLine s (64 * l.line) with
    | some (j, _) => j == i
    | none => false))).map (·.line)

/-- Whether a line of a region set in the round has still to send its Δ, since its stripe is locked for a repair (R258, R267). -/
def setWaits (g : GroupSlot) : Bool :=
  (g.lockedStripe.toList ++ g.peerLocked).any (fun o =>
    (slotKind g g.self o).isNone && g.setInRound.contains (lineOfStripe g g.self o / 32768) && !g.setSent.contains (lineOfStripe g g.self o))

/-- A member in SEALING sends PREPARED once every modified line has been written back, every DACK has come and every audit of the round has
passed, or ABORTREQ (Table 13.7, R266, R267). -/
def settleSeal (s : State) (i : Nat) : State :=
  let g := s.group i
  if g.state ≠ .sealing ∨ g.abortDue then s
  else if g.abreq ∨ (g.acks = [] ∧ g.audits = 0 ∧ g.lockedStripe.isNone ∧ !setWaits g ∧ dirtyLines s i = []) then
    let c := coordinator g
    let s1 := s.enterState i .prepared
    if c = g.self then
      settleDecide (s1.modGroup i (fun h =>
        if g.abreq then { h with ablock := true } else { h with prepared := g.self :: h.prepared })) i
    else s1.send i c (if g.abreq then 6 else 5) (groupMsg s1 i)
  else s

/-- The lines of a region. -/
def regionLines (r : Nat) : List Nat := (List.range 32768).map (fun x => r * 32768 + x)

/-- The content of a protected line. -/
def lineContent (s : State) (i line : Nat) : BitVec 512 := BitVec.ofNat 512 (s.physLoad (lineAddr s (s.group i) line) 64)

/-- The lines of the regions set in the round send their content, but for those that have sent a Δ and those whose stripe is locked (R258,
R267). -/
def sendSet (s : State) (i : Nat) : State :=
  ((s.group i).setInRound.flatMap regionLines).foldl (fun t ln =>
    if (t.group i).setSent.contains ln || stripeLocked (t.group i) ln then t else t.sendDelta i ln 0 (lineContent t i ln)) s

/-- A member enters SEALING: every modified line is written back; a region set in the round sends its content, a region to be
cleared likewise (R258, R260, R261). -/
def enterSealing (s : State) (i : Nat) : State :=
  let s1 := s.enterState i .sealing
  let g := s1.group i
  let s2 := (dirtyLines s1 i).foldl State.cleanLine s1
  let s3 := sendSet s2 i
  let s4 := ((clrPending s3 g).flatMap regionLines).foldl (fun t ln => t.sendDelta i ln 0 (lineContent t i ln)) s3
  settleSeal s4 i

/-- A repair has ended: a member in SEALING writes back what waited for it (R261, R267). -/
def afterRepair (s : State) (i : Nat) : State :=
  if (s.group i).state = .sealing then settleSeal (sendSet ((dirtyLines s i).foldl State.cleanLine s) i) i else s

/-- A slot is BROKEN (R263): its supervisor is interrupted, and held RNDENDs complete with ERR. -/
def breakSlot (s : State) (i : Nat) : State :=
  completeHeld (((s.enterState i .broken).modGroup i (fun g => { g with abortDue := false })).irqLeader irqGroup) i (some 0x1A)

/-- A recorder is lost before it answered: the next live member is asked, and where there is none its answer is no longer
awaited (R262). -/
def replaceRecorder (s : State) (i j : Nat) : State :=
  let g := s.group i
  match (otherLive g).find? (fun q => !g.recorders.contains q && !g.answers.contains q) with
  | some q => (s.send i q 7 (groupMsg s i)).modGroup i (fun h => { h with recorders := q :: h.recorders.filter (· != j) })
  | none =>
    let n := g.recording.getD 0 - 1
    let s1 := s.modGroup i (fun h => { h with recorders := h.recorders.filter (· != j), recording := some n })
    if n = 0 then decide' s1 i true else s1

/-- R271, R483: whether the shares asked for no longer come: a member that has not answered is lost. An answer that came before the loss is
used. -/
def askedLost (g : GroupSlot) (j : Nat) : Bool :=
  g.requested.any (fun r => r.2.contains j && !g.shares.any (fun x => x.1 == r.1 && x.2.member == j))

/-- R262 to R264, R271: a member is lost. Its DACKs are no longer awaited; the coordinator of a round that has no record yet
decides to abort (Table 13.8). A survivor that is OPEN has not prepared, so no decision but the abort can follow, and it aborts at once
(log 100). -/
def loseMember (s : State) (i j : Nat) : State :=
  let g := s.group i
  if !vget g.live j false then s
  else
    let was := coordinator g
    let inRound := g.state == .opened || g.state == .sealing || g.state == .prepared
    let g1 := { g with
      live := vset g.live j false, lossInRound := g.lossInRound || inRound, lossesSinceWhole := g.lossesSinceWhole + 1,
      acks := g.acks.filter (· != j),
      requested := if askedLost g j then none else g.requested, early := g.early.filter (fun x => x.2.sender != j),
      viaDarning := g.viaDarning.filter (· != j), served := g.served.filter (·.1 != j), readyFrom := g.readyFrom.filter (· != j) }
    let s1 := s.setGroup i g1
    let n := headerRound s1 g1
    if (inRound || g.state == .recovering || g.state == .darning) && decide (g.m < g1.lossesSinceWhole) then breakSlot s1 i
    else if !inRound || g.abortDue then s1
    else if coordinator g1 ≠ g.self then (if g.state = .opened then applyAbort s1 i else settleSeal s1 i)
    else if was = j then
      let e := (s1.getLocal (g.base + 16) 4 + 1) % 2 ^ 32
      let s2 := (s1.putLocal (g.base + 16) 4 e).modGroup i (fun h => { h with epoch := e })
      if hasCommit s2 g1 n then decide' s2 i true
      else if (otherLive g1).isEmpty then decide' s2 i false
      else (s2.sendAll i 12 (groupMsg s2 i) (otherLive g1)).modGroup i (fun h =>
        { h with queryRound := some n, answers := [] })
    else if g1.queryRound.isSome then
      if (otherLive g1).all g1.answers.contains then decide' s1 i false else s1
    else if hasCommit s1 g1 n then (if g1.recorders.contains j then replaceRecorder s1 i j else s1)
    else settleDecide s1 i

/-! ## Messages (R265) -/

/-- The slot that a message is for. -/
def groupSlotOf (s : State) (m : GroupMsg) : Option Nat :=
  (List.range 4).find? (fun i => (s.group i).state != .idle && (s.group i).gid == m.gid)

/-- Whether a message belongs to the round that this member's header numbers. -/
def thisRound (s : State) (i : Nat) (m : GroupMsg) : Bool := m.round == headerRound s (s.group i)

/-- SEAL (R261). -/
def onSeal (t : State) (i : Nat) (m : GroupMsg) : State :=
  if (t.group i).state = .opened ∧ !(t.group i).abortDue ∧ thisRound t i m then enterSealing t i else t

/-- DELTA (R260): the holder scales it into the staging slot and answers DACK. -/
def onDelta (t : State) (i : Nat) (m : GroupMsg) : State :=
  let g := t.group i
  let o := m.stripe.toNat
  let c := if m.row = 0 then 1 else gfPow2 m.sender
  let a := stagingAddr g (o / g.n) m.row
  let t1 := t.supWrite a (xorChunk (t.supRead a 64) (scaleChunk c (lineBytes m.payload)))
  t1.send i m.sender 4 { groupMsg t1 i with stripe := m.stripe, row := m.row }

/-- DACK (R260, Table 13.7). -/
def onDack (t : State) (i : Nat) (m : GroupMsg) : State :=
  settleSeal (t.modGroup i (fun g => { g with acks := g.acks.erase m.sender })) i

/-- PREPARED (R262). -/
def onPrepared (t : State) (i : Nat) (m : GroupMsg) : State :=
  if thisRound t i m then
    settleDecide (t.modGroup i (fun g =>
      { g with prepared := if g.prepared.contains m.sender then g.prepared else m.sender :: g.prepared })) i
  else t

/-- ABORTREQ (R262). -/
def onAbortreq (t : State) (i : Nat) (m : GroupMsg) : State :=
  if thisRound t i m then settleDecide (t.modGroup i (fun g => { g with ablock := true })) i else t

/-- CREC (R262): the recorder writes COMMIT(N) before it answers. -/
def onCrec (t : State) (i : Nat) (m : GroupMsg) : State :=
  let t1 := t.recordCommit (t.group i) m.round
  t1.send i m.sender 8 { groupMsg t1 i with round := m.round }

/-- CRECACK (R262): once m have come, the decision is COMMIT. -/
def onCrecack (t : State) (i : Nat) (m : GroupMsg) : State :=
  match (t.group i).recording with
  | some (n + 1) =>
    if thisRound t i m ∧ (t.group i).recorders.contains m.sender then
      let t1 := t.modGroup i (fun g => { g with
        recording := some n, recorders := g.recorders.erase m.sender, answers := m.sender :: g.answers })
      if n = 0 then decide' t1 i true else t1
    else t
  | _ => t

/-- Whether a decision of this round can still be applied. -/
def undecided (s : State) (i : Nat) (m : GroupMsg) : Bool :=
  let st := (s.group i).state
  thisRound s i m && !(s.group i).abortDue && (st == .opened || st == .sealing || st == .prepared)

/-- COMMIT (R262). -/
def onCommit (t : State) (i : Nat) (m : GroupMsg) : State := if undecided t i m then applyCommit t i else t

/-- ABORT (R263). -/
def onAbort (t : State) (i : Nat) (m : GroupMsg) : State := if undecided t i m then applyAbort t i else t

/-- LOSS (R264): a module named by it is BROKEN in the slot. -/
def onLoss (t : State) (i : Nat) (m : GroupMsg) : State :=
  if m.member = (t.group i).self then breakSlot t i else loseMember t i m.member

/-- QUERY (R263). -/
def onQuery (t : State) (i : Nat) (m : GroupMsg) : State :=
  t.send i m.sender 13 { groupMsg t i with round := m.round, held := hasCommit t (t.group i) m.round }

/-- QREPLY (R263): the new coordinator commits if any live member holds COMMIT(N), and aborts otherwise. -/
def onQreply (t : State) (i : Nat) (m : GroupMsg) : State :=
  let g := t.group i
  if g.queryRound ≠ some m.round then t
  else if m.held then decide' t i true
  else
    let t1 := t.setGroup i { g with answers := m.sender :: g.answers }
    if (otherLive g).all (fun j => j == m.sender || g.answers.contains j) then decide' t1 i false else t1

/-! ## Shares (R254, R270, R483) -/

/-- The region that the slot of a stripe at member `j` belongs to: of its logical line, or of the block's first line. -/
def regionAt (g : GroupSlot) (j o : Nat) : Nat :=
  match slotKind g j o with
  | none => lineOfStripe g j o / 32768
  | some _ => o / g.n * g.k / 32768

/-- The region that this member's slot of a stripe belongs to. -/
def regionOfSlot (g : GroupSlot) (o : Nat) : Nat := regionAt g g.self o

/-- This member's chunk of a stripe. -/
def ownChunk (s : State) (g : GroupSlot) (o : Nat) : List Byte :=
  match slotKind g g.self o with
  | none =>
    let line := lineOfStripe g g.self o
    if line / 32768 < g.rcnt ∧ (regionEntry s g (line / 32768)).getLsbD 0 then s.physRead (lineAddr s g line) 64
    else zeroChunk
  | some r => s.supRead (parityAddr g (o / g.n) r) 64

/-- SHREQ (R270): served in RECOVERING, and by a standby for a region whose DARN has completed (R483, R485). -/
def onShreq (t : State) (i : Nat) (m : GroupMsg) : State :=
  let g := t.group i
  let o := m.stripe.toNat
  if g.state = .recovering ∨ (g.state = .darning ∧ g.darned.contains (regionOfSlot g o)) then
    t.send i m.sender 15 { groupMsg t i with stripe := m.stripe, payload := ofChunk (ownChunk t g o) }
  else t

/-- SHARE (R270). -/
def onShare (t : State) (i : Nat) (m : GroupMsg) : State :=
  t.modGroup i (fun g =>
    { g with shares := g.shares ++ [(m.stripe.toNat, { member := m.sender, chunk := m.payload })] })

/-- The data members of a stripe. -/
def dataMembers (g : GroupSlot) (o : Nat) : List Nat := (List.range g.n).filter (fun j => (slotKind g j o).isNone)

/-- The data chunks of a stripe from shares (R270). -/
def decodeStripe (g : GroupSlot) (o : Nat) (shares : List (Nat × List Byte)) (i : Nat) : List Byte :=
  let share := fun (j : Nat) => (shares.find? (fun x => x.1 == j)).map (·.2)
  match share i with
  | some c => c
  | none =>
    let ds := dataMembers g o
    let present := ds.filterMap (fun j => (share j).map (fun c => (j, c)))
    let missing := ds.filter (fun j => (share j).isNone)
    let s0 := (share (holderOf g o 0)).map (fun p => present.foldl (fun a x => xorChunk a x.2) p)
    let s1 := (share (holderOf g o 1)).map (fun p =>
      present.foldl (fun a x => xorChunk a (scaleChunk (gfPow2 x.1) x.2)) p)
    match missing, s0, s1 with
    | [_], some c, _ => c
    | [j], none, some c => scaleChunk (gfInv (gfPow2 j)) c
    | [a, b], some c0, some c1 =>
      let da := scaleChunk (gfInv (gfPow2 a ^^^ gfPow2 b)) (xorChunk c1 (scaleChunk (gfPow2 b) c0))
      if i = a then da else xorChunk c0 da
    | _, _, _ => zeroChunk

/-- A parity row from the data chunks (R254). -/
def parityRow (g : GroupSlot) (o r : Nat) (d : Nat → List Byte) : List Byte :=
  (dataMembers g o).foldl (fun a j => xorChunk a (if r = 0 then d j else scaleChunk (gfPow2 j) (d j))) zeroChunk

/-! ## Formation and recovery (R253, R269, R306) -/

/-- Whether a JOIN carries this member's configuration. -/
def joinMatches (g : GroupSlot) (j : JoinInfo) : Bool :=
  j.k == g.k && j.m == g.m && j.rcnt == g.rcnt && j.members == g.mem.toList

/-- Every entry is live from now on. -/
def GroupSlot.allLive (g : GroupSlot) : GroupSlot :=
  { g with live := Vector.ofFn (fun (j : Fin 16) => decide (j.val < g.n)), silent := Vector.replicate 16 0,
           lossInRound := false, lossesSinceWhole := 0, joins := [], readyFrom := [], viaDarning := [], darned := [], shares := [],
           requested := none, served := [], abreq := false, attempt := g.attempt + 1 }

/-- R306: before a forming slot is OPEN, the round that its header numbers is resolved. -/
def openFormed (s : State) (i : Nat) : State :=
  let g := s.group i
  let n := headerRound s g
  let commit := hasCommit s g n || g.joins.any (fun j => j.2.commit == some n)
  let s1 := s.setGroup i g.allLive
  if commit then applyCommit s1 i else applyAbort s1 i

/-- R269: a slot in RECOVERING or DARNING is OPEN once every entry is live and every standby is ready. -/
def openRecovered (s : State) (i : Nat) : State :=
  let g := s.group i
  let waits := g.state == .recovering || g.state == .darning
  let self := g.state == .recovering || g.readyFrom.contains g.self
  if waits && self && (List.range g.n).all (fun j => vget g.live j false) && g.viaDarning.all g.readyFrom.contains then
    (s.setGroup i g.allLive).enterState i .opened
  else s

/-- A JOIN that a forming slot receives (R253). -/
def joinForming (s : State) (i : Nat) (m : GroupMsg) (j : JoinInfo) : State :=
  let g := s.group i
  if !joinMatches g j then s.enterState i .idle
  else
    let s1 := s.setGroup i { g with joins := tabSet m.sender j g.joins }
    if (everyOther g).all (fun q => (tabGet q (s1.group i).joins).isSome) then openFormed s1 i else s1

/-- A JOIN that a recovering slot receives (R269): that of a standby, or the answer to the own one. One of a module that forms the group anew is
dropped: it may rejoin only as a standby (R264, R306). -/
def joinRecovering (s : State) (i : Nat) (m : GroupMsg) (j : JoinInfo) : State :=
  let g := s.group i
  if !joinMatches g j || memPkg (vget g.mem m.sender 0) != j.pkg || !(j.entering || (j.answer && g.state == .darning)) then s
  else
    let known := vget g.live m.sender false
    let s1 := s.setGroup i { g with
      live := vset g.live m.sender true,
      viaDarning := if j.entering && !g.viaDarning.contains m.sender then m.sender :: g.viaDarning else g.viaDarning,
      readyFrom := if j.ready && !g.readyFrom.contains m.sender then m.sender :: g.readyFrom else g.readyFrom }
    let s2 := if g.state = .darning ∧ !j.entering then s1.setRound g j.round else s1
    let s3 := if j.answer || (j.ready && known) then s2 else s2.answerJoin i m.sender
    openRecovered s3 i

/-- JOIN (R253, R269). -/
def onJoin (t : State) (i : Nat) (m : GroupMsg) : State :=
  match m.join with
  | none => t
  | some j =>
    match (t.group i).state with
    | .forming => joinForming t i m j
    | .recovering => joinRecovering t i m j
    | .darning => joinRecovering t i m j
    | _ => t

/-! ## Messages in their order (R264, R265) -/

/-- A message of a TYPE is handled. -/
def handleMessage (t : State) (i type : Nat) (m : GroupMsg) : State :=
  match type with
  | 2 => onSeal t i m
  | 3 => onDelta t i m
  | 4 => onDack t i m
  | 5 => onPrepared t i m
  | 6 => onAbortreq t i m
  | 7 => onCrec t i m
  | 8 => onCrecack t i m
  | 9 => onCommit t i m
  | 10 => onAbort t i m
  | 11 => onLoss t i m
  | 12 => onQuery t i m
  | 13 => onQreply t i m
  | 14 => onShreq t i m
  | 15 => onShare t i m
  | 16 => onJoin t i m
  | _ => t

/-- Whether a message belongs to the round after the one that this member has still to decide, or to the round that it still has to open again
after an abort; it waits for that (log 81). -/
def nextRound (s : State) (i type : Nat) (m : GroupMsg) : Bool :=
  let st := (s.group i).state
  (st == .opened || st == .sealing || st == .prepared) && (type == 2 || type == 3 || type == 5 || type == 6 || type == 7) &&
    (m.round == headerRound s (s.group i) + 1 || (s.group i).abortDue)

/-- The first waiting message of a slot whose turn has come. -/
def nextEarly (s : State) (i : Nat) : Option (Nat × GroupMsg) :=
  (s.group i).early.find? (fun x => x.2.seq == vget (s.group i).seqIn x.2.sender 0 && !nextRound s i x.1 x.2)

/-- Handles the waiting messages whose turn has come, `n` at most. -/
def drainEarly (i : Nat) : Nat → State → State
  | 0, s => s
  | n + 1, s =>
    match nextEarly s i with
    | none => s
    | some (type, m) =>
      let s1 := s.modGroup i (fun g =>
        { g with early := g.early.erase (type, m), seqIn := vset g.seqIn m.sender (m.seq + 1) })
      drainEarly i n (handleMessage s1 i type m)

/-- The waiting messages of every slot. -/
def State.drainGroups (s : State) : State :=
  (List.range 4).foldl (fun t i => drainEarly i (t.group i).early.length t) s

/-- Receives a message that a port carries (R300): dropped and counted when its group is unknown, dropped from a sender that is not live, when its slot
is BROKEN, and as a duplicate; else it is handled in its sender's sequence (R264, R265). The sequence of a sender that is not live goes on
behind what is dropped. -/
def receive (s : State) (type : Nat) (m : GroupMsg) : Result :=
  if !s.power.gate ∨ !linkUp s then notNow s
  else
  match groupSlotOf s m with
  | none => happens s.countDropped
  | some i =>
    let g := s.group i
    let live := vget g.live m.sender false
    let now := vget g.seqIn m.sender 0
    if g.state = .broken ∨ g.n ≤ m.sender ∨ m.sender = g.self then happens s
    else if !live && type != 16 then happens (s.setGroup i { g with seqIn := vset g.seqIn m.sender (m.seq + 1) })
    else if live && decide ((m.seq - now).toInt < 0) then happens s
    else
      let early := if live then g.early else g.early.filter (fun x => x.2.sender != m.sender)
      let known := early.any (fun x => x.2.sender == m.sender && x.2.seq == m.seq)
      let s1 := s.setGroup i { g with
        seqIn := if live then g.seqIn else vset g.seqIn m.sender m.seq, silent := vset g.silent m.sender 0,
        early := if known then early else early ++ [(type, m)] }
      happens (drainEarly i (early.length + 1) s1)

/-- HEARTBEAT (R264): that it came is what it tells. -/
def execHeartbeat (m : GroupMsg) (s : State) : Result := receive s 1 m

/-- SEAL (R261). -/
def execSeal (m : GroupMsg) (s : State) : Result := receive s 2 m

/-- DELTA (R260). -/
def execDelta (m : GroupMsg) (s : State) : Result := receive s 3 m

/-- DACK (R260). -/
def execDack (m : GroupMsg) (s : State) : Result := receive s 4 m

/-- PREPARED (R262). -/
def execPrepared (m : GroupMsg) (s : State) : Result := receive s 5 m

/-- ABORTREQ (R262). -/
def execAbortreq (m : GroupMsg) (s : State) : Result := receive s 6 m

/-- CREC (R262). -/
def execCrec (m : GroupMsg) (s : State) : Result := receive s 7 m

/-- CRECACK (R262). -/
def execCrecack (m : GroupMsg) (s : State) : Result := receive s 8 m

/-- COMMIT (R262). -/
def execCommit (m : GroupMsg) (s : State) : Result := receive s 9 m

/-- ABORT (R263). -/
def execAbort (m : GroupMsg) (s : State) : Result := receive s 10 m

/-- LOSS (R264). -/
def execLoss (m : GroupMsg) (s : State) : Result := receive s 11 m

/-- QUERY (R263). -/
def execQuery (m : GroupMsg) (s : State) : Result := receive s 12 m

/-- QREPLY (R263). -/
def execQreply (m : GroupMsg) (s : State) : Result := receive s 13 m

/-- SHREQ (R270). -/
def execShreq (m : GroupMsg) (s : State) : Result := receive s 14 m

/-- SHARE (R270). -/
def execShare (m : GroupMsg) (s : State) : Result := receive s 15 m

/-- JOIN (R253, R269). -/
def execJoin (m : GroupMsg) (s : State) : Result := receive s 16 m

/-- The message that 128 bytes of the group window hold; none for an unknown TYPE (R265). What a JOIN carries comes beside them (log 81). -/
def messageOf (w : BitVec 1024) (join : Option JoinInfo) : Option (Nat × GroupMsg) :=
  let field := fun (lo n : Nat) => w.toNat / 2 ^ lo % 2 ^ n
  let type := field 0 8
  if type = 0 ∨ 16 < type then none
  else
    some (type,
      { sender := field 8 4, gid := BitVec.ofNat 16 (field 32 16), round := BitVec.ofNat 32 (field 64 32),
        seq := BitVec.ofNat 32 (field 96 32), stripe := BitVec.ofNat 32 (field 128 32), row := field 160 8,
        payload := BitVec.ofNat 512 (field 512 512), member := field 512 8, held := field 512 1 == 1,
        join := if type = 16 then join.map (fun j => { j with ready := field 16 1 == 1 }) else none })

/-- A write of the group window (R265). -/
def groupWindow (s : State) (w : BitVec 1024) (join : Option JoinInfo) : Result :=
  match messageOf w join with
  | some (type, m) => receive s type m
  | none => happens s.countDropped

/-- GRPCFG with FORM (R253, R269). In IDLE the same write sets the RW fields. -/
def execGrpcfgForm (hart g : Nat) (v : W64) (s : State) : Result :=
  if !s.power.gate then notNow s
  else leaderWrite s hart (fun s =>
    let x := s.group g
    match x.state with
    | .idle =>
      let y := (x.configure v).fresh
      let s1 := s.setGroup g y
      if badConfig s y then s1.irqLeader irqGroup
      else (s1.enterState g .forming).sendJoin g false (everyOther y)
    | .darning =>
      if (validRegions s x).all x.darned.contains then
        let s1 := s.setGroup g { x with readyFrom := x.self :: x.readyFrom }
        openRecovered (s1.sendJoin g true (everyOther x)) g
      else s
    | _ => s)

/-- GRPCFG with STBY (R269). -/
def execGrpcfgStby (hart g : Nat) (v : W64) (s : State) : Result :=
  if !s.power.gate then notNow s
  else leaderWrite s hart (fun s =>
    let x := s.group g
    if x.state ≠ .idle then s
    else
      let y := (x.configure v).fresh
      let s1 := s.setGroup g { y with live := vset y.live y.self true }
      if badConfig s y then s1.irqLeader irqGroup
      else (s1.enterState g .darning).sendJoin g false (everyOther y))

/-- GRPCFG with ABRT (R262): the coordinator aborts the round being decided; another member asks for it before it is prepared
(log 21). In IDLE the same write sets the RW fields. -/
def execGrpcfgAbrt (hart g : Nat) (v : W64) (s : State) : Result :=
  if !s.power.gate then notNow s
  else leaderWrite s hart (fun s =>
    let x := s.group g
    if x.state = .idle ∧ !v.getLsbD 58 ∧ !v.getLsbD 57 then s.setGroup g (x.configure v)
    else if x.state ≠ .sealing ∧ x.state ≠ .prepared then s
    else if coordinator x = x.self then
      (if hasCommit s x (headerRound s x) then s else settleDecide (s.setGroup g { x with abrt := true }) g)
    else settleSeal (s.setGroup g { x with abreq := true }) g)

/-- A write of GRPMEMg.j (R252, R269). -/
def execGrpmemWrite (hart g j : Nat) (v : W64) (s : State) : Result :=
  leaderWrite s hart (fun s =>
    let x := s.group g
    let w := v &&& 0x03FFFFFFFFFF0000
    let y := { x with mem := vset x.mem j w }
    match x.state with
    | .idle => s.setGroup g y
    | .recovering | .darning =>
      if vget x.live j false then s
      else if badDomains y ∨ memPwr w = 0xFFFF ∨ memCool w = 0xFFFF then s.irqLeader irqGroup
      else s.setGroup g y
    | _ => s)

/-! ## Heartbeats (R264) -/

/-- HEARTBEAT_TIMER: every 100 µs. -/
def execHeartbeatTimer (g : Nat) (s : State) : Result :=
  let x := s.group g
  let on := x.state != .idle && x.state != .forming && x.state != .broken
  if !on || decide (s.us < x.beat + 100) then notNow s
  else happens ((s.setGroup g { x with beat := s.us }).sendAll g 1 (groupMsg s g) (everyOther x))

/-- MEMBER_LOSS: no message for HBTO µs. The LOSS goes to the lost member too, which is BROKEN by it (R264). -/
def execMemberLoss (g j : Nat) (s : State) : Result :=
  let x := s.group g
  if j = x.self ∨ !vget x.live j false ∨ vget x.silent j 0 < x.hbto ∨ x.state = .broken ∨ x.state = .idle then notNow s
  else
    happens (loseMember (s.sendAll g 11 { groupMsg s g with member := j } (otherLive x)) g j)

/-! ## The Footside engine (R258, R261, R383, R388, R389) -/

/-- A PROT that fails its checks at execution is dropped, and its queue stops (R383). -/
def protFault (s : State) (c : EngCmd) (code : Nat) (tval : W64) : State :=
  stopQueue (popQueue s 6) 6
    { arose := s.now, cause := BitVec.ofNat 6 code, tval := tval, clu := .A, eng := 6, idx := c.idx, estw := estw code 0 }

/-- PROT takes effect (R258). -/
def runProt (s : State) (c : EngCmd) : State :=
  let i := c.rb.toNat
  let g := s.group i
  let r := c.rc.toNat
  let set := c.word.getLsbD 0
  if g.state ≠ .opened then protFault s c 0x1A (roundTval s i)
  else
    match pageOf s s.ctx.asid c.ra with
    | none => protFault s c 0x19 c.ra
    | some l =>
      if badRegion s g ⟨s.ctx.coreId, s.ctx.asid, l.base, l.size, l.pte⟩ r set then protFault s c 0x19 c.ra
      else
        let note := fun (t : State) => t.modGroup i (fun h =>
          { h with regionPte := (r, s.ctx.asid.toNat, l.pteAddr) :: h.regionPte.filter (fun x => x.1 != r) })
        let s1 := note (popQueue s 6)
        if set then
          let s2 := s1.setProt l.pteAddr s.ctx.asid l.base true
          let s3 := (s2.putLocal (regionAddr g r) 8 (ptePFN l.pte * 4096 % 2 ^ 56 + 1)).putLocal (regionAddr g r + 8) 8
            c.ra.toNat
          s3.modGroup i (fun h => { h with setInRound := r :: h.setInRound })
        else s1.putLocal (regionAddr g r) 8 ((regionEntry s g r) ||| 2).toNat

/-- RNDEND takes effect (R261, R388, R389). -/
def runRndend (s : State) (c : EngCmd) : State :=
  let i := c.ra.toNat
  let done := fun (t : State) (err : Option (BitVec 6)) =>
    completeHead t 6 .A (completionUpdates c.rc err false c.idx none)
  let heldBy := fun (t : State) => (popQueue t 6).modGroup i (fun h =>
    { h with held := h.held ++ [{ cid := s.ctx.cid, aw := c.rc, idx := c.idx, due := none }] })
  if allIdle s then done (prefetch { s with localRound := s.localRound + 1 }) none
  else
    match (s.group i).state with
    | .opened =>
      let s1 := heldBy s
      enterSealing (s1.sendAll i 2 (groupMsg s1 i) (otherLive (s1.group i))) i
    | .sealing => heldBy s
    | .prepared => heldBy s
    | _ => done s (some 0x1A)

/-- The first slot that holds an update which a context still owes (R490). -/
def owedBy (s : State) (cid : Nat) : Option (Nat × HeldEnd) :=
  (List.range 4).findSome? (fun i =>
    ((s.group i).held.find? (fun h => h.cid == cid && h.due.isSome)).map (fun h => (i, h)))

/-- FOOTSIDE_EXECUTION (R383): an update that a decided RNDEND still owes, or the next command of the queue. -/
def execFootsideExecution (cid : Nat) (s : State) : Result :=
  match s.ctxOf cid, owedBy s cid with
  | some x, some (i, h) =>
    if x.eng.foot.run != .run || !s.power.gate then notNow s
    else
      match h.due with
      | none => notNow s
      | some u =>
        eventOn s cid (fun t =>
          if updatesMove t [u] then
            let (t1, made) := settleHeld t u
            (if made then t1.modGroup i (fun g => { g with held := g.held.erase h }) else t1, true)
          else (t, false))
  | _, _ =>
    queueEvent cid 6 .A s (fun t c =>
      if !t.ctx.releasedTo c.after then (t, false)
      else if c.word.toNat / 2 ^ 20 % 32 = 0 then (runProt t c, true) else (runRndend t c, true))

/-! ## Darning (R270, R271, R337) -/

/-- The stripes of a region that the standby rebuilds, ascending from a cursor; the first of them. -/
def nextStripe (g : GroupSlot) (ar from' : Nat) : Option Nat :=
  let q0 := ar * 32768 / g.k
  let q1 := (ar * 32768 + 32767) / g.k
  let mine := fun (o : Nat) => decide (from' ≤ o) && regionOfSlot g o == ar
  ((List.range ((q1 - q0 + 1) * g.n)).map (fun x => q0 * g.n + x)).find? mine

/-- R483: whether a member serves a stripe: a standby does only after its DARN of the region. -/
def servesStripe (g : GroupSlot) (o j : Nat) : Bool :=
  !g.viaDarning.contains j || g.readyFrom.contains j || g.served.contains (j, regionAt g j o)

/-- The members that have answered for a stripe; one of them may have been lost since (R483). -/
def answered (g : GroupSlot) (o : Nat) : List Nat := ((g.shares.filter (fun x => x.1 == o)).map (·.2.member)).eraseDups

/-- The members whose shares a stripe takes (R270, R483): those that have answered, then data, then P0, then P1, each in ascending index. -/
def chosenShares (g : GroupSlot) (o : Nat) : List Nat :=
  let order := fun (ms : List Nat) =>
    ms.filter (fun j => slotKind g j o == none) ++ ms.filter (fun j => slotKind g j o == some 0) ++
      ms.filter (fun j => slotKind g j o == some 1)
  (answered g o ++ order ((otherLive g).filter (fun j => servesStripe g o j && !(answered g o).contains j))).take g.k

/-- A line of a protected page, of 2 MiB (R258), takes its bytes as its page's readers are to see them; no L1 holds it as owned any more (R270). -/
def State.plainWrite (s : State) (a : Nat) (bs : List Byte) : State :=
  let t := (s.dropResv a bs.length).physWrite (tagOf 0 (2 ^ 21) a) a bs
  (wordsOf (s.hub.pkg * 2 ^ 46 + a) bs.length).foldl disownWord { t with stamps := tabDel (a / 64) t.stamps }

/-- Rebuilds one stripe from the shares that have come. -/
def darnStripe (s : State) (g : GroupSlot) (o : Nat) (shares : List (Nat × List Byte)) : State :=
  let d := decodeStripe g o shares
  match slotKind g g.self o with
  | none => s.plainWrite (lineAddr s g (lineOfStripe g g.self o)) (d g.self)
  | some r => s.supWrite (parityAddr g (o / g.n) r) (parityRow g o r d)

/-- The Darning engine asks for the shares of a stripe that have not come. Where fewer than k members can give one, the slot is BROKEN once a
member has been lost and fewer than k remain (R271); else the engine waits (log 22). -/
def askShares (s : State) (i o : Nat) : State × Bool :=
  let g := s.group i
  let members := chosenShares g o
  if g.k ≤ members.length then
    let dests := members.filter (fun j => !(answered g o).contains j)
    ((s.sendAll i 14 { groupMsg s i with stripe := BitVec.ofNat 32 o } dests).modGroup i (fun h =>
      { h with requested := some (o, members), shares := h.shares.filter (fun x => x.1 == o) }), true)
  else if (otherLive g).length + (answered g o).length < g.k ∧ 0 < g.lossesSinceWhole then (breakSlot s i, true)
  else (s, false)

/-- Another standby's DARN of a region has completed with ERR clear: from now on it serves the region's shares (R483). -/
def standbyDarned (s : State) (i j r : Nat) : State × Bool :=
  let g := s.group i
  if g.state = .darning ∧ g.viaDarning.contains j ∧ !g.served.contains (j, r) then
    (s.modGroup i (fun h => { h with served := (j, r) :: h.served }), true)
  else (s, false)

/-- One step of a DARN (R270): the region's completion, a fault, the request of a stripe's shares, or the stripe. -/
def runDarn (s : State) (c : EngCmd) : State × Bool :=
  let i := c.rb.toNat
  let g := s.group i
  let ar := c.ra.toNat
  let finish := fun (t : State) (err : Option (BitVec 6)) =>
    completeHead t 4 .A (completionUpdates c.rc err false c.idx none)
  if g.state ≠ .darning then (finish s (some 0x1A), true)
  else if !(regionEntry s g ar).getLsbD 0 then
    (stopQueue s 4 { arose := s.now, cause := 0x30, tval := c.ra, clu := .A, eng := 4, idx := c.idx, estw := estw 0x30 1 }, true)
  else
    match nextStripe g ar c.stripe with
    | none =>
      (finish (s.modGroup i (fun h => { h with darned := if h.darned.contains ar then h.darned else ar :: h.darned })) none,
        true)
    | some o =>
      match g.requested with
      | none => askShares s i o
      | some (o', asked) =>
        if o' ≠ o then askShares s i o
        else
          let got := (g.shares.filter (fun x => x.1 == o)).map (fun x => (x.2.member, lineBytes x.2.chunk))
          if asked.all (fun j => got.any (fun x => x.1 == j)) then
            let s1 := (darnStripe s g o got).modGroup i (fun h => { h with requested := none, shares := [] })
            (s1.modEng (fun e =>
              { e with darn := { e.darn with cmds := { c with stripe := o + 1 } :: e.darn.cmds.tail } }), true)
          else (s, false)

/-- DARNING_STRIPE (R270). -/
def execDarningStripe (cid : Nat) (s : State) : Result :=
  queueEvent cid 4 .A s (fun t c => if t.ctx.releasedTo c.after then runDarn t c else (t, false))

/-! ## Repair (R267) -/

/-- A parity chunk that an error struck is recomputed from the data members' values (R267); `c` numbers the chunks of the store. -/
def repairChunk (s : State) (g : GroupSlot) (c : Nat) (members : List Nat) (got : List (Nat × List Byte)) : Result :=
  let a := parityBase g + 64 * c
  match (List.range g.n).find? (fun t => slotKind g g.self t == some (c % g.m)) with
  | none => notNow s
  | some t =>
    let o := c / g.m * g.n + t
    if !s.lost.contains (a / 64) ∨ g.abreq ∨ g.abortDue ∨ members.length < g.k then notNow s
    else
      let s1 := { s with lost := s.lost.filter (· != a / 64) }
      happens (s1.supWrite a (parityRow g o (c % g.m) (decodeStripe g o got)))

/-- PROTECTED_LINE_REPAIR: with the row-0 (or row-1) parity as staged and the other data members' HBM values, the failed
line's HBM value is reconstructed and written back, and the stripe is unlocked. A number from the group's lines on names a chunk of the parity store. -/
def execProtectedLineRepair (gi line : Nat) (shares : List GroupShare) (s : State) : Result :=
  let g := s.group gi
  let o := stripeOf g g.self line
  let got := (shares.filter (fun x => x.member != g.self && decide (x.member < g.n))).map
    (fun x => (x.member, lineBytes x.chunk))
  let members := (List.range g.n).filter (fun j => got.any (fun x => x.1 == j))
  if g.rcnt * 32768 ≤ line then
    (if g.state = .idle ∨ g.m = 0 then notNow s else repairChunk s g (line - g.rcnt * 32768) members got)
  else if g.lockedStripe ≠ some o ∨ members.length < g.k then notNow s
  else
    let a := lineAddr s g line
    let s1 := { s with mem := s.mem.write a (decodeStripe g o got g.self), lost := s.lost.filter (· != a / 64) }
    happens (afterRepair (s1.modGroup gi (fun h => { h with lockedStripe := lostStripe s1 gi })) gi)

/-- R267: another member's Footside engine locks a stripe and asks for this member's share: its parity XORed with its staging slot, or its
data line's HBM value, which is the value that its Δs stand for (R258, R260). -/
def repairRead (s : State) (gid : W16) (o : Nat) : State × Option (List Byte) :=
  match (List.range 4).find? (fun i => (s.group i).state != .idle && (s.group i).gid == gid) with
  | none => (s, none)
  | some i =>
    let g := s.group i
    let chunk := match slotKind g g.self o with
      | none =>
        let line := lineOfStripe g g.self o
        if line / 32768 < g.rcnt ∧ (regionEntry s g (line / 32768)).getLsbD 0 then
          (if hitsLost s (lineAddr s g line) 64 then none else some (lineBytes (deltaBase s g line (lineAddr s g line))))
        else some zeroChunk
      | some r =>
        if hitsLost s (parityAddr g (o / g.n) r) 64 ∨ hitsLost s (stagingAddr g (o / g.n) r) 64 then none
        else some (xorChunk (s.supRead (parityAddr g (o / g.n) r) 64) (s.supRead (stagingAddr g (o / g.n) r) 64))
    (s.setGroup i { g with peerLocked := if g.peerLocked.contains o then g.peerLocked else o :: g.peerLocked }, chunk)

/-- R267: the repair of another member's line has ended; the stripe is unlocked. -/
def repairDone (s : State) (gid : W16) (o : Nat) : State :=
  match (List.range 4).find? (fun i => (s.group i).state != .idle && (s.group i).gid == gid) with
  | none => s
  | some i => afterRepair (s.modGroup i (fun g => { g with peerLocked := g.peerLocked.filter (· != o) })) i

end Sys2Proof.Machine
end

