-- ==== Sys2Proof/Machine/Gangs.lean ====
section
/-! DEFINITION. Gangs: the LAUNCH packet's fields (Table 11.2), error records (R273), gang status words (R222), the Sampler's store
signatures and outcomes (R278 to R280, R266), the end of a task and of a gang (R48, R49), and pre-emption requests (R246). -/

namespace Sys2Proof.Machine

/-! ## The LAUNCH packet (Table 11.2) -/

def pkWord (p : BitVec 512) (i : Nat) : W64 := BitVec.ofNat 64 (p.toNat / 2 ^ (64 * i))
def pkType (p : BitVec 512) : Nat := bits64 (pkWord p 0) 0 8
def pkBar (p : BitVec 512) : Bool := (pkWord p 0).getLsbD 8
def pkChain (p : BitVec 512) : Nat := bits64 (pkWord p 0) 16 8
def pkCap48 (p : BitVec 512) : Bool := (pkWord p 0).getLsbD 24
def pkAud (p : BitVec 512) : Bool := (pkWord p 0).getLsbD 25
def pkAudq (p : BitVec 512) : Nat := bits64 (pkWord p 0) 26 5
def pkQG (p : BitVec 512) : Nat := 2 ^ bits64 (pkWord p 0) 31 2
def pkDG (p : BitVec 512) : Nat := bits64 (pkWord p 0) 33 8
def pkGang (p : BitVec 512) : Nat := bits64 (pkWord p 0) 41 11 + 1
def pkInlen (p : BitVec 512) : Nat := bits64 (pkWord p 0) 52 4
def pkPodh (p : BitVec 512) : Nat := bits64 (pkWord p 0) 56 8
def pkEntry (p : BitVec 512) : W64 := pkWord p 1
def pkArg (p : BitVec 512) : W64 := pkWord p 2
def pkScope (p : BitVec 512) (h : Nat) : Nat := bits64 (pkWord p 3) (40 + 3 * h) 3
def pkVstk (p : BitVec 512) : Nat := bits64 (pkWord p 3) 20 11
def pkSp (p : BitVec 512) : Nat := bits64 (pkWord p 3) 0 20
def pkDeleg (p : BitVec 512) : W64 := pkWord p 4
def pkHentry (p : BitVec 512) : W64 := pkWord p 5
def pkStatus (p : BitVec 512) : W64 := pkWord p 6
def pkInlist (p : BitVec 512) : W64 := pkWord p 7

/-! ## Gang status words (R222) -/

/-- Table 11.4. -/
def statusWord (rej : Option Nat) (term abort : Bool) (n : Nat) : Nat :=
  2 ^ 63 + rej.isSome.toNat * 2 ^ 62 + term.toNat * 2 ^ 61 + abort.toNat * 2 ^ 60 + rej.getD 0 * 2 ^ 48 + min n (2 ^ 32 - 1)

/-- The status word is written under the queue's address space; a word that does not translate is not written (log 24). -/
def writeStatus (s : State) (asid : W16) (addr : W64) (v : Nat) : State :=
  if addr = 0 then s
  else
    match translate s hubCache asid .write addr with
    | .error _ => s.noteWalk hubCache asid addr
    | .ok t => (s.remember t).agentWrite (elemOf s addr t) (natBytes v 8)

/-- The requests of the hub die are told apart from those of contexts by a number that no context has (R301). -/
def hubCid : Nat := 2 ^ 20
def asHub (s : State) : State := { s with ctx := { s.ctx with cid := hubCid } }

/-- Whether a status word's line takes no writes now (R18, R211, R301, Table 13.7). -/
def statusHeld (s : State) (asid : W16) (addr : W64) : Bool :=
  if addr = 0 then false
  else if walkHeld s hubCache asid addr then true
  else
    match translate s hubCache asid .write addr with
    | .error _ => false
    | .ok t => writeWaits (asHub s) (elemOf s addr t) 8

/-- R224: the supervisor is told of each job-record cut whose gangs have all retired. -/
def settleJobs (s : State) : State :=
  let open' := fun (g : Nat) => s.tamb.gangs.any (fun h => h.id == g && !h.done)
  let ready := s.tamb.jobs.filter (fun j => !j.2.2.any open')
  ready.foldl (fun t _ => t.irqLeader irqQueue)
    { s with tamb := { s.tamb with jobs := s.tamb.jobs.filter (fun j => j.2.2.any open') } }

/-- A gang whose last task has retired retires (R49, R222); a replay writes no status (R279). -/
def retireGang (s : State) (g : Gang) : State :=
  let s1 := s.setGang { g with done := true }
  if g.replay.isSome then s1
  else settleJobs (writeStatus s1 g.asid (pkStatus g.packet) (statusWord none g.terminated g.abort g.naborts))

/-! ## The Sampler (R276 to R280) -/

/-- One bit of the CRC of R278, ECMA-182, most significant bit first. -/
def crc64Bit (c : W64) (b : Bool) : W64 :=
  let c1 := c <<< 1
  if c.getLsbD 63 != b then c1 ^^^ 0x42F0E1EBA9EA3693 else c1

def crc64Byte (c : W64) (b : Byte) : W64 :=
  (List.range 8).foldl (fun c i => crc64Bit c (b.getLsbD (7 - i))) c

def crc64 (bs : List Byte) : W64 := ~~~(bs.foldl crc64Byte (BitVec.allOnes 64))

/-- Puts a record behind every record of an earlier or the same place. -/
def insertPlace (r : Nat × List Byte) : List (Nat × List Byte) → List (Nat × List Byte)
  | [] => [r]
  | x :: t => if r.1 < x.1 then r :: x :: t else x :: insertPlace r t

/-- The final value of a cluster's stream, its records in issue order. -/
def signStream (a : Audit) (c : Nat) : W64 :=
  let rs := (a.records.filter (fun r => r.1 == c)).map (fun r => (r.2.1, r.2.2))
  crc64 ((rs.foldl (fun acc r => insertPlace r acc) []).flatMap (·.2))

/-- R278: the store signature. -/
def storeSignature (a : Audit) : W64 := crc64 ((List.range 4).flatMap (fun c => leBytes (signStream a c)))

/-- The bytes of some log entries. -/
def logBytes (log : List LogEntry) : Nat := (log.map (·.bytes.length)).foldl (· + ·) 0

/-- What the audit log of a die holds: the logs of its drawn tasks, and of those whose audits are open. -/
def dieLog (s : State) (die : Nat) : Nat :=
  (((allCtxs s).filter (fun x => x.die == die && x.audit.replay.isNone)).map (fun x => logBytes x.audit.log)).foldl (· + ·) 0 +
    ((s.audits.filter (fun a => a.core / 112 == die)).map (fun a => logBytes a.log)).foldl (· + ·) 0

/-- R280 (log 25): whether the audit log of a die cannot hold what its tasks have logged. -/
def logFull (s : State) (die : Nat) : Bool := decide (2 ^ (bits64 s.hub.smpcfg 16 5 + 21) < dieLog s die)

def State.countAudit (s : State) (outcome : Nat) : State :=
  s.modLife (fun l => { l with audits := vset l.audits outcome (vget l.audits outcome 0 + 1) })

/-- The slots whose open round an audit belongs to (R266), with the number of that round among those that the slot has opened. -/
def auditSlots (s : State) : List (Nat × Nat) :=
  ((List.range 4).filter (fun i => (s.group i).state == .opened || (s.group i).state == .sealing)).map
    (fun i => (i, (s.group i).attempt))

/-- Whether a slot still has the round that an audit belongs to; a round that an abort has opened again is another one. -/
def sameRound (s : State) (p : Nat × Nat) : Bool :=
  ((s.group p.1).state == .opened || (s.group p.1).state == .sealing) && (s.group p.1).attempt == p.2

/-- The gates of an audit open (R266). -/
def passAudit (s : State) (slots : List (Nat × Nat)) : State :=
  slots.foldl (fun t p =>
    if sameRound t p then settleSeal (t.modGroup p.1 (fun g => { g with audits := g.audits - 1 })) p.1 else t) s

/-- A mismatch: the rounds that its audit belongs to abort (R266, R280). -/
def mismatch (s : State) (slots : List (Nat × Nat)) : State :=
  slots.foldl (fun t p =>
    if sameRound t p then settleSeal (t.modGroup p.1 (fun g => { g with abreq := true })) p.1 else t) s

/-- A replay is over: core, signature, and whether that may equal another's, which one that consumed an abort, faulted to the supervisor,
or read what the log does not hold may not (R279, R280). -/
def replayEnd (x : Ctx) (ended : Bool) (r : Replay) : Nat × W64 × Bool :=
  (x.coreId, storeSignature x.audit, ended && !r.differs && !x.audit.aborted)

def State.modAudit (s : State) (task : Nat) (f : AuditRun → AuditRun) : State :=
  { s with audits := s.audits.map (fun a => if a.task = task then f a else a) }

/-- A drawn task has retired: its audit opens, or is void or skipped (R279, R280); a replay's end is kept for its audit. -/
def openAudit (s : State) (x : Ctx) (g : Gang) : State :=
  match x.audit.replay with
  | some r => s.modAudit r.task (fun a => { a with ended := some (replayEnd x (!g.terminated) r) })
  | none =>
  if !x.audit.drawn then s
  else
    let slots := auditSlots s
    if x.audit.aborted || g.terminated then mismatch (s.countAudit 4) slots
    else if logFull s x.die then s.countAudit 5
    else
      let run : AuditRun :=
        { task := s.nextAudit, packet := g.packet, asid := x.asid, taskid := x.sr.taskid, inputs := g.inputs, log := x.audit.log,
          core := x.coreId, sig := storeSignature x.audit, slots := slots, ended := none, runs := [] }
      let s1 := slots.foldl (fun t p => t.modGroup p.1 (fun g => { g with audits := g.audits + 1 })) s
      { s1 with audits := s1.audits ++ [run], nextAudit := s1.nextAudit + 1 }

/-! ## Pre-emption requests (R45, R46, R246) -/

/-- Whether a context's slot is taken: a saved task's is released when every task of its gang is saved (R45). -/
def Ctx.seated (s : State) (x : Ctx) : Bool :=
  x.resident || (x.life == .saved && !((s.gangOf x.gang).map (·.saved)).getD true)

/-- The physical operand slots that a context holds become free (R122). -/
def State.freeSlots (s : State) (x : Ctx) : State :=
  let q := s.quad x.quadId
  s.setQuad x.quadId { q with slots := q.slots.map (fun o => if o.holder = some x.cid then .reset else o) }

/-- A gang all of whose remaining tasks are saved is saved. -/
def settleSaved (s : State) (gang : Nat) : State :=
  match s.gangOf gang with
  | none => s
  | some g =>
    let mine := (allCtxs s).filter (fun x => x.gang == gang && x.life != .none)
    if g.preempt.isSome && !mine.isEmpty && mine.all (fun x => x.life == .saved) then
      s.setGang { g with saved := true, placed := false, preempt := none }
    else s

/-- A pre-emption request reaches every task of a gang; its hoops are frozen. A context that a trap has stopped is saved
already, and gives up its slot (Table 12.3). -/
def requestPreemption (s : State) (g : Gang) : State :=
  let stopped := (allCtxs s).filter (fun x => x.gang == g.id && x.life == .stopped)
  let s1 := stopped.foldl State.freeSlots (s.setGang { g with preempt := some s.time, frozen := true })
  settleSaved (s1.mapCtxs (fun x =>
    if x.gang = g.id ∧ x.resident then
      { x with preempt := some s.time, life := if x.life = .stopped then .saved else x.life,
               running := x.running && x.life != .stopped }
    else x)) g.id

/-- PREEMPTION_REQUEST (R246). -/
def execPreemptionRequest (gang : Nat) (s : State) : Result :=
  match s.gangOf gang with
  | none => notNow s
  | some g => eventIf (g.placed && !g.done && g.preempt.isNone) s (requestPreemption s g)

/-! ## Suspect cores (R280) -/

/-- A core accepts no new placement, and the gangs of its contexts are pre-empted. -/
def withdrawCore (s : State) (core : Nat) : State :=
  let die := core / 112
  let d := vget s.dies die .reset
  let d1 := { d with suspects := if d.suspects.contains core then d.suspects else core :: d.suspects }
  let gangs := ((allCtxs s).filter (fun x => x.resident && x.coreId == core)).map (·.gang)
  gangs.foldl (fun t i =>
    match t.gangOf i with
    | some g => if g.placed && !g.done && g.preempt.isNone then requestPreemption t g else t
    | none => t) { s with dies := vset s.dies die d1 }

def suspect (s : State) (core cls : Nat) : State := withdrawCore (s.recordError (plainError cls hubDie core)) core

/-- An audit is over: it leaves the list, and its gates open. -/
def closeAudit (s : State) (a : AuditRun) (outcome : Nat) : State :=
  passAudit ({ s with audits := s.audits.filter (fun b => b.task != a.task) }.countAudit outcome) a.slots

/-! ## The end of a task (R48, R49) -/

/-- Whether nothing that the task issued is outstanding: steps 1 and 2 of R48. -/
def taskQuiet (s : State) (x : Ctx) : Bool :=
  let e := x.eng
  let idle := fun (q : EngQueue) => q.cmds.isEmpty && q.updates.isEmpty
  x.flight.isEmpty && x.gq.isEmpty && e.sh0.cmds.isEmpty && e.sh0.updates.isEmpty && e.sh1.cmds.isEmpty &&
    e.sh1.updates.isEmpty && idle e.cut && idle e.couch && idle e.qeng && idle e.darn && idle e.foot && e.faults.isEmpty &&
    e.held.isEmpty && e.heldUpdates.isEmpty && !(s.quad x.quadId).queue.any (fun c => c.cid == x.cid) &&
    (List.range 4).all (fun i => !(s.group i).held.any (fun h => h.cid == x.cid) &&
      !(s.group i).passed.any (fun p => p.1 == x.cid))

/-- The focused context leaves every hoop instance of which it is a member (R43). -/
def leaveHoops (s : State) : State :=
  (List.range 8).foldl (fun t h => if (hoopRec t.ctx h).member then leaveHoop t h else t) s

/-- The lease, a request for it, and the tags of the focused context's tiles go; the tiles' contents are undefined (R48
step 4). -/
def dropArray (s : State) (tiles : Bool) : State :=
  let quad := s.ctx.quadId
  let cid := s.ctx.cid
  let s2 := s.giveUpLease quad cid
  if !tiles then s2
  else
    (List.range 16).foldl (fun t n =>
      let tile := vget (t.quad quad).tiles n .reset
      if tile.tag = some cid then
        { t.setTile quad n { tile with tag := none, bytes := .empty, undef := some t.free, bad := [] } with free := t.free + 1 }
      else t) s2

/-- The context of a task that has retired, as its slot holds it until another task starts there (R481). -/
def State.keepEnded (s : State) (x : Ctx) : State :=
  if x.life = .saved then s
  else { s with ended := { x with life := .retired, running := false } :: s.ended.filter (fun y => y.coreId != x.coreId || y.slot != x.slot) }

/-- A context is gone. -/
def State.dropCtx (s : State) (cid : Nat) : State :=
  if s.ctx.isId cid then { s with ctx := .reset } else { s with others := s.others.filter (fun x => !x.isId cid) }

/-- Steps 3 to 6 of R48 for the focused context; then its audit opens, and its gang retires with the last task. -/
def finishTask (s : State) : State :=
  let cid := s.ctx.cid
  let s1 := dropArray (leaveHoops (dropHold s)) true
  let x := s1.ctx
  let s2 := (s1.freeSlots x).keepEnded x
  match s2.gangOf x.gang with
  | none => s2.dropCtx cid
  | some g =>
    let g1 := { g with retired := g.retired + 1, abort := g.abort || x.sr.cirAbort,
                       naborts := min (2 ^ 32 - 1) (g.naborts + x.sr.cirCount.toNat) }
    let s3 := (openAudit (s2.setGang g1) x g).dropCtx cid
    if g1.retired = g1.size then retireGang s3 g1 else settleSaved s3 g.id

/-- Whether the last retirement of a gang must wait to write its status word. -/
def statusWaits (s : State) (x : Ctx) : Bool :=
  match s.gangOf x.gang with
  | some g => g.retired + 1 == g.size && statusHeld s g.asid (pkStatus g.packet)
  | none => false

/-- Whether a task is on its way to retirement: its clusters have halted, or it was terminated, be it while it was saved (R48, R49). -/
def Ctx.retires (x : Ctx) : Bool := x.life == .retiring || (x.life == .saved && x.stop.isNone)

/-- TASK_RETIREMENT (R48). A pseudo-channel is left first, since stores may wait for that (R211, R215). -/
def execTaskRetirement (cid : Nat) (s : State) : Result :=
  match s.ctxOf cid with
  | none => notNow s
  | some x =>
    if x.retires ∧ s.holds.any (fun h => h.cid == cid) ∧ x.eng.couch.cmds.isEmpty then happens (s.onCtx cid dropHold)
    else if !x.retires ∨ !taskQuiet s x ∨ statusWaits s x then notNow s
    else happens (s.onCtx cid finishTask)

/-! ## Termination (R49, R178) -/

/-- Updates of cancelled commands: what waits for its line stays. -/
def cancelUpdates (s : State) : List Update → State × List Update
  | [] => (s, [])
  | u :: t =>
    match updateOnce s u with
    | .ok s1 => cancelUpdates s1 t
    | .error 0 =>
      let r := cancelUpdates s t
      (r.1, u :: r.2)
    | .error _ => cancelUpdates s t

/-- The completion of a cancelled command: ERR with CAUSE 0x3F. -/
def cancelled (aw : W64) (idx : Nat) : List Update := completionUpdates aw (some 0x3F) false idx none

def cancelChannel (s : State) (ch : Bool) : State :=
  let q := s.ctx.eng.channel ch
  let (s1, rest) := cancelUpdates s (q.updates ++ q.cmds.flatMap (fun c => cancelled c.aw c.idx))
  s1.modChannel ch (fun q => { q with cmds := [], updates := rest, run := .run, unwritten := [], wm := q.hi })

/-- The completion word of a queued command: PROT names none. -/
def EngCmd.aw (c : EngCmd) (eng : Nat) : W64 := if eng = 6 ∧ c.word.toNat / 2 ^ 20 % 32 = 0 then 0 else c.rc

def cancelQueue (s : State) (eng : Nat) : State :=
  let q := s.ctx.eng.queue eng
  let (s1, rest) := cancelUpdates s (q.updates ++ q.cmds.flatMap (fun c => cancelled (c.aw eng) c.idx))
  s1.modEng (fun e => e.setQueue eng { e.queue eng with cmds := [], updates := rest, run := .run })

/-- The tile commands of the focused context that have not executed, and those held. A queued AFREE still acts. -/
def cancelTiles (s : State) : State :=
  let quad := s.ctx.quadId
  let q := s.quad quad
  let cid := s.ctx.cid
  let mine := fun (c : TileCmd) => c.cid == cid && c.op != .forget
  let cmds := s.ctx.eng.held ++ q.queue.filter mine
  let started := if (q.queue.head?.map mine).getD false then none else q.started
  let s1 := s.setQuad quad { q with queue := q.queue.filter (fun c => !mine c), started := started }
  let ups := s.ctx.eng.heldUpdates ++ cmds.flatMap (fun c => tileUpdates c true (some 0x3F))
  let (s2, rest) := cancelUpdates s1 ups
  s2.modEng (fun e => { e with held := [], heldUpdates := rest, arrayRun := .run })

/-- The RNDENDs that the group slots hold for the focused context. -/
def cancelHeld (s : State) : State :=
  (List.range 4).foldl (fun t i =>
    let g := t.group i
    let mine := g.held.filter (fun h => h.cid == t.ctx.cid)
    let ups := mine.flatMap (fun h => match h.due with
      | some u => [u]
      | none => cancelled h.aw h.idx)
    let (t1, rest) := cancelUpdates (t.modGroup i (fun g => { g with held := g.held.filter (fun h => h.cid != t.ctx.cid) })) ups
    t1.modEng (fun e => { e with foot := { e.foot with updates := e.foot.updates ++ rest } })) s

/-- The focused context is terminated: what is in flight lands, its engine commands are cancelled, and it retires without
step 1 of R48; a saved one needs no slot for that. -/
def terminate (s : State) : State :=
  let s1 := s.modCtx Ctx.landAll
  let s2 := cancelChannel (cancelChannel s1 false) true
  let s3 := [2, 3, 4, 6, 7].foldl cancelQueue s2
  let s4 := (cancelHeld (cancelTiles s3)).modEng (fun e => { e with faults := [] })
  s4.modCtx (fun x =>
    { x with life := if x.life = .saved then .saved else .retiring, stop := none, sr := { x.sr with handler := false },
             cl := x.cl.map (fun _ k => { k with active := false, taskActive := false, blocks := [], floor := 0 }) })

/-- GANG_TERMINATION (R49): the supervisor retires every task of a gang. -/
def execGangTermination (gang : Nat) (s : State) : Result :=
  match s.gangOf gang with
  | none => notNow s
  | some g =>
    if g.done || !(g.placed || g.saved) then notNow s
    else
      let ids := ((allCtxs s).filter (fun x => x.gang == gang && x.life != .none)).map (·.cid)
      let s0 := s.setGang { g with terminated := true, preempt := none, frozen := false }
      happens (ids.foldl (fun t cid => t.onCtx cid terminate) s0)

/-! ## The end of a replay (R279, R280) -/

/-- What the running replay of an audit has come to: its end, or that it stopped for the supervisor or read what the log does not hold. -/
def replayOutcome (s : State) (a : AuditRun) : Option (Nat × W64 × Bool) :=
  match a.ended with
  | some r => some r
  | none =>
    (allCtxs s).findSome? (fun x => x.audit.replay.bind (fun r =>
      if r.task = a.task ∧ (x.stop.any (·.cause != 0) ∨ r.differs) then some (replayEnd x false r) else none))

/-- The replay of an audit, if it still stands, is taken off its core. -/
def endReplay (s : State) (task : Nat) : State :=
  let mine := (allCtxs s).filter (fun x => x.life != .none && (x.audit.replay.map (·.task)) == some task)
  (mine.map (·.cid)).foldl (fun t cid => t.onCtx cid (fun u => finishTask (terminate u))) s

/-- AUDIT_REPLAY_END (R279, R280): the first replay decides PASS or asks for a third run, the third run decides the rest. The step happens with
the signature, the core and the outcome of the replay that has run. -/
def execAuditReplayEnd (task : Nat) (sig : BitVec 64) (core : Nat) (clean : Bool) (s : State) : Result :=
  match s.audits.find? (fun a => a.task == task) with
  | none => notNow s
  | some a =>
    if replayOutcome s a ≠ some (core, sig, clean) then notNow s
    else
      let s0 := (endReplay s task).modAudit task (fun b => { b with ended := none, runs := b.runs ++ [(core, sig, clean)] })
      let same := clean && sig == a.sig
      match a.runs with
      | [] => if same then happens (closeAudit s0 a 0) else happens (mismatch s0 a.slots)
      | (core1, sig1, clean1) :: _ =>
        if same then happens (suspect (closeAudit s0 a 1) core1 8)
        else if clean && clean1 && sig == sig1 then happens (suspect (closeAudit s0 a 2) a.core 8)
        else
          let s1 := [a.core, core1, core].foldl (fun t k => suspect t k 9) (closeAudit s0 a 3)
          happens (s1.irqLeader irqAudit)

end Sys2Proof.Machine
end

