-- ==== Sys2Proof/Machine/Placement.lean ====
section
/-! DEFINITION. The placement of gangs on cores (R30 to R32, R47, R125, R136, R233), the start of their tasks (R35, R39, R276), and of replays
(R279). -/

namespace Sys2Proof.Machine

/-- A placement in progress: seats taken (core, slot, cap 48), physical operand slots promised per quad, the quads and
dies of the hoop instances in use, the `.pkg` instances in use, and the seats given, by task. -/
structure Seating where
  occ : List (Nat × Nat × Bool)
  ops : List (Nat × Nat)
  quadHoops : List Nat
  dieHoops : List Nat
  pkgHoops : Nat
  seats : List (Nat × Nat × Nat)
  deriving DecidableEq, Repr

/-- What a gang asks for: its size and groups, its cap class, its hoop instances per group, each task's operand slots, the quad to
which a task is anchored and the tasks that have retired; and the cores that take no placement. -/
structure Demand where
  size : Nat
  qg : Nat
  dg : Nat
  cap48 : Bool
  quadHoops : Nat
  dieHoops : Nat
  pkgHoops : Nat
  weights : List Nat
  slots : List (Nat × Nat)
  anchors : List (Nat × Nat)
  absent : List Nat
  barred : List Nat
  freeOps : List Nat
  deriving DecidableEq, Repr

/-- The free context slots of a core for a cap class (R32, R233). -/
def coreFree (p : Seating) (d : Demand) (core : Nat) : Nat :=
  let here := p.occ.filter (fun o => o.1 == core)
  if d.barred.contains core then 0
  else if d.cap48 then (if here.isEmpty then 1 else 0)
  else if here.any (·.2.2) then 0
  else 2 - here.length

def quadFree (p : Seating) (d : Demand) (quad : Nat) : Nat :=
  ((List.range 4).map (fun k => coreFree p d (quad * 4 + k))).foldl (· + ·) 0

def dieFree (p : Seating) (d : Demand) (die : Nat) : Nat :=
  ((List.range 28).map (fun q => quadFree p d (die * 28 + q))).foldl (· + ·) 0

/-- The first of some numbers with the greatest value, among those that pass. -/
def bestOf (ok : Nat → Bool) (f : Nat → Nat) (among : List Nat) : Option Nat :=
  among.foldl (fun best k =>
    if !ok k then best
    else
      match best with
      | none => some k
      | some b => if f b < f k then some k else some b) none

/-- Step 4 of R233: a task goes to the core with the most free slots, slot 0 before slot 1. -/
def seatTask (d : Demand) (quad : Nat) (p : Seating) (task : Nat) : Seating :=
  match bestOf (fun c => decide (0 < coreFree p d c)) (coreFree p d) ((List.range 4).map (quad * 4 + ·)) with
  | none => p
  | some c =>
    let slot := if p.occ.any (fun o => o.1 == c && o.2.1 == 0) then 1 else 0
    { p with occ := (c, slot, d.cap48) :: p.occ, seats := p.seats ++ [(task, c, slot)] }

/-- The operand slots that tasks ask for. -/
def slotsAsked (d : Demand) (tasks : List Nat) : Nat :=
  (tasks.map (fun t => (tabGet t d.slots).getD 0)).foldl (· + ·) 0

def promised (p : Seating) (quad : Nat) : Nat := ((p.ops.filter (fun o => o.1 == quad)).map (·.2)).foldl (· + ·) 0

/-- Whether a quad fits a whole quad group (R30, R31, R125, R136). -/
def quadFits (p : Seating) (d : Demand) (tasks : List Nat) (quad : Nat) : Bool :=
  decide (tasks.length ≤ quadFree p d quad) && decide (p.quadHoops.count quad + d.quadHoops ≤ 16) &&
    decide (promised p quad + slotsAsked d tasks ≤ d.freeOps.getD quad 0) &&
    tasks.all (fun t => match tabGet t d.anchors with
      | some q => q == quad
      | none => true)

/-- Step 3 of R233, for the quad groups of a die group in order. -/
def seatQuads (d : Demand) (die : Nat) : Seating → List (List Nat) → Option Seating
  | p, [] => some p
  | p, g :: t =>
    let live := g.filter (fun k => !d.absent.contains k)
    if live.isEmpty then seatQuads d die p t
    else
      match bestOf (quadFits p d live) (quadFree p d) ((List.range 28).map (die * 28 + ·)) with
      | none => none
      | some q =>
        let p1 := live.foldl (seatTask d q) p
        seatQuads d die { p1 with
          quadHoops := List.replicate d.quadHoops q ++ p1.quadHoops, ops := (q, slotsAsked d live) :: p1.ops } t

/-- Chunks of at most `n` tasks, in order. -/
def chunks (n : Nat) : Nat → List Nat → List (List Nat)
  | 0, _ => []
  | _, [] => []
  | f + 1, l => l.take n :: chunks n f (l.drop n)

/-- A die group on one die. -/
def seatDie (d : Demand) (p : Seating) (tasks : List Nat) (die : Nat) : Option Seating :=
  if 32 < p.dieHoops.count die + d.dieHoops then none
  else
    (seatQuads d die p (chunks d.qg tasks.length tasks)).map
      (fun q => { q with dieHoops := List.replicate d.dieHoops die ++ q.dieHoops })

/-- Whether a die comes before another for a die group: greater weight, more free slots, lower number (step 2). -/
def dieBefore (p : Seating) (d : Demand) (w : List Nat) (a b : Nat) : Bool :=
  if w.getD a 0 ≠ w.getD b 0 then decide (w.getD b 0 < w.getD a 0)
  else if dieFree p d a ≠ dieFree p d b then decide (dieFree p d b < dieFree p d a)
  else decide (a < b)

def bestDie (d : Demand) (p : Seating) (w : List Nat) (tasks : List Nat) : Option (Nat × Seating) :=
  (List.range 6).foldl (fun best k =>
    match seatDie d p tasks k with
    | none => best
    | some q =>
      match best with
      | none => some (k, q)
      | some (b, r) => if dieBefore p d w k b then some (k, q) else some (b, r)) none

/-- Step 2 of R233, for the die groups in order. -/
def seatDies (d : Demand) : Seating → List Nat → List (List Nat) → Option Seating
  | p, _, [] => some p
  | p, w, g :: t =>
    if g.all d.absent.contains then seatDies d p w t
    else
      match bestDie d p w g with
      | none => none
      | some (k, q) => seatDies d q (listSet w k (w.getD k 0 / 2)) t

/-- R233: the whole assignment, or none when the gang does not fit. -/
def seatGang (d : Demand) (p : Seating) : Option Seating :=
  if 64 < p.pkgHoops + d.pkgHoops then none
  else seatDies d p d.weights (chunks d.dg d.size (List.range d.size))

/-! ## The present occupation -/

def countScope (p : BitVec 512) (sc : Nat) : Nat := ((List.range 8).filter (fun h => pkScope p h == sc)).length

/-- The hoop instances of a placed gang: the quad of each quad instance and the die of each die instance that has a
resident task. When an instance stops counting as in use, R31 does not say (log 83). -/
def gangHoops (s : State) (g : Gang) (sc : Nat) : List Nat :=
  let mine := (allCtxs s).filter (fun x => x.resident && x.gang == g.id)
  (g.hoops.filter (fun i => i.scope == sc)).filterMap (fun i =>
    (mine.find? (fun x =>
      x.sr.taskid.toNat / (if sc = 1 then pkQG g.packet else pkDG g.packet) == i.group)).map
      (fun x => if sc = 1 then x.quadId else x.die))

def seatingNow (s : State) : Seating :=
  let gs := s.tamb.gangs.filter (fun g => g.placed && !g.done)
  { occ := ((allCtxs s).filter (Ctx.seated s)).map (fun x => (x.coreId, x.slot, x.cap48)), ops := [],
    quadHoops := gs.flatMap (fun g => gangHoops s g 1), dieHoops := gs.flatMap (fun g => gangHoops s g 2),
    pkgHoops := (gs.map (fun g => countScope g.packet 3)).foldl (· + ·) 0, seats := [] }

def emptySeating : Seating := { occ := [], ops := [], quadHoops := [], dieHoops := [], pkgHoops := 0, seats := [] }

/-- The FREE operand slots of each quad. -/
def freeOpsOf (s : State) : List Nat :=
  (List.range 168).map (fun q => ((s.quad q).slots.toList.filter OpSlot.free).length)

/-- Step 1 of R233: the weights of the dies. -/
def rangeWeight (s : State) (asid : W16) (w : List Nat) (r : W64 × W64) : List Nat :=
  let first := r.1.toNat / 2 ^ 21
  (List.range 64).foldl (fun acc k =>
    let u := (first + k) * 2 ^ 21
    if r.1.toNat + r.2.toNat ≤ u ∨ r.2.toNat = 0 then acc
    else
      let va : W64 := BitVec.ofNat 64 (max r.1.toNat u)
      match pageOf s asid va with
      | none => acc
      | some l =>
        if pteT l.pte || pteRMT l.pte then acc
        else
          let die := homeDie (stackOf (ptePFN l.pte * 4096 + (va57 va - l.base)))
          listSet acc die (acc.getD die 0 + 1)) w

def gangWeights (s : State) (g : Gang) : List Nat := g.inputs.foldl (rangeWeight s g.asid) (List.replicate 6 0)

/-- The cores of the dies on which the earlier runs of a replay's task ran (R279, R280). -/
def usedCores (s : State) (g : Gang) : List Nat :=
  match g.replay.bind (fun t => s.audits.find? (·.task == t)) with
  | none => []
  | some a => ((a.core :: a.runs.map (·.1)).map (· / 112)).flatMap (fun d => (List.range 112).map (d * 112 + ·))

/-- What a new gang asks for. -/
def demandOf (s : State) (g : Gang) : Demand :=
  { size := g.size, qg := pkQG g.packet, dg := pkDG g.packet, cap48 := pkCap48 g.packet,
    quadHoops := countScope g.packet 1, dieHoops := countScope g.packet 2, pkgHoops := countScope g.packet 3,
    weights := gangWeights s g, slots := [], anchors := [], absent := [], barred := s.dies.toList.flatMap (·.suspects) ++ usedCores s g,
    freeOps := List.replicate 168 48 }

/-- R31: whether a gang fits an empty package. -/
def fitsEmpty (p : BitVec 512) : Bool :=
  (seatGang { size := pkGang p, qg := pkQG p, dg := pkDG p, cap48 := pkCap48 p, quadHoops := countScope p 1,
              dieHoops := countScope p 2, pkgHoops := countScope p 3, weights := List.replicate 6 0, slots := [],
              anchors := [], absent := [], barred := [], freeOps := List.replicate 168 48 } emptySeating).isSome

/-- The lowest `n` context ids from `i` on that no context has and to which an area is assigned (R249, log 26). -/
def freeIds (s : State) : Nat → Nat → Nat → List Nat
  | 0, _, _ => []
  | f + 1, i, n =>
    if n = 0 then []
    else if (s.ctxOf i).isNone && areaOf s i != 0 then i :: freeIds s f (i + 1) (n - 1)
    else freeIds s f (i + 1) n

/-! ## Code and entry records -/

/-- Code as it stands now (R52): HBM under the die caches, and the capacity tier at the addresses of its lines, from where a return brings it
(R155); a line whose key is gone reads as unrelated bytes (R295), one that an error
withholds as all ones (R272). -/
def codeNow (s : State) : Memory :=
  let held : Memory := ⟨s.mem.cells ++ s.cap.cells.map (fun c => (64 * capLine 0 + c.1, c.2))⟩
  let m := s.dcache.foldl (fun (u : Memory) l => u.write (64 * l.line) (natBytes l.data.toNat 64)) held
  let gone := s.stamps.filter (fun p => !s.hub.memKeys.any (fun k => k.2.serial == p.2))
  let m1 := gone.foldl (fun (u : Memory) p =>
    u.write (64 * p.1) ((List.range 64).map (fun i => Config.unrelated p.2 0 (64 * p.1 + i)))) m
  s.lost.foldl (fun (u : Memory) l => u.write (64 * l) (List.replicate 64 0xFF)) m1

/-- The module with the Tambour's reader of code in focus, for an address space: its translations lie in the cache of the hub die, number 846
as die 6, quad 43, core 2. -/
def codeReader (s : State) (gang : Nat) (asid : W16) : State :=
  { s with ctx := { Ctx.reset with gang := gang, die := 6, quad := 43, core := 2, asid := asid, code := codeNow s, codeRemote := s.remote } }

/-- Whether an error withholds some of `n` 8-byte words of code (R272). -/
def codeWordsLost (r : State) (va : W64) (n : Nat) : Bool := (List.range n).any (fun i => codeLost r (va + BitVec.ofNat 64 (8 * i)))

/-- The streams of an entry record and the words k56 to k63 of the constant block it names (R35, R84); a record or block that an error
withholds cannot be read. -/
def readEntry (s : State) (gang : Nat) (asid : W16) (va : W64) : Option (List W64 × List W32) :=
  let r := codeReader s gang asid
  match entryRecord r va with
  | .error _ => none
  | .ok ws =>
    let block := ws.getD 4 0
    if codeWordsLost r va 5 || (block != 0 && codeWordsLost r block 4) then none
    else if block = 0 then some (ws.take 4, List.replicate 8 0)
    else
      match codeRead r block 32 with
      | .error _ => none
      | .ok bs => some (ws.take 4, (List.range 8).map (fun i => BitVec.ofNat 32 (leNat ((bs.drop (4 * i)).take 4))))

/-! ## Task start (R35, R39, R276) -/

/-- The hoop record of a task. -/
def hoopRecOf (p : BitVec 512) (task h : Nat) : HoopRec :=
  let sc := pkScope p h
  { scope := sc,
    group := match sc with
      | 1 => task / pkQG p
      | 2 => task / pkDG p
      | 4 => (pkPodh p + h) % 256
      | _ => 0,
    member := sc != 0, armed := false, gen := 0, notified := false, armedAt := 0 }

/-- The hoop instances of a gang, but for those of the pod. -/
def hoopInstances (p : BitVec 512) : List HoopInst :=
  (List.range 8).flatMap (fun h =>
    let size := match pkScope p h with
      | 1 => pkQG p
      | 2 => pkDG p
      | 3 => pkGang p
      | _ => 0
    if size = 0 then []
    else
      (chunks size (pkGang p) (List.range (pkGang p))).zipIdx.map (fun c =>
        { hoop := h, group := c.2, scope := pkScope p h, expect := c.1.length, arrived := 0, gen := 0, doneAt := 0 }))

/-- Where a task starts. -/
structure Seat where
  cid : Nat
  task : Nat
  core : Nat
  slot : Nat
  deriving DecidableEq, Repr

/-- The seats of an assignment, with context ids. -/
def seatsOf (p : Seating) (ids : List Nat) : List Seat :=
  (p.seats.zip ids).map (fun x => { cid := x.2, task := x.1.1, core := x.1.2.1, slot := x.1.2.2 })

/-- The state of a starting task (R35). -/
def startCtx (s : State) (g : Gang) (code : Memory) (streams : List W64) (ks : List W32) (drawn : Bool) (w : Seat) :
    Ctx :=
  let p := g.packet
  let size : Nat := if pkCap48 p then 0x80000 else 0x40000
  let regs0 := Regs.reset
  let regs := { regs0 with
    a := vset (vset regs0.a 1 (pkArg p)) 31 (BitVec.ofNat 64 (pkSp p)),
    k := Vector.ofFn (fun (i : Fin 8) => ks.getD i.val 0) }
  let sr := { SRegs.reset with
    taskid := BitVec.ofNat 64 w.task, gangsize := BitVec.ofNat 64 (pkGang p), deleg := pkDeleg p, hentry := pkHentry p,
    lfsr := BitVec.ofNat 32 (w.task + 1), vsp := BitVec.ofNat 20 size, vslim := BitVec.ofNat 20 (size - 256 * pkVstk p) }
  let cl := ClusterState.reset
  let mk := fun (c : Nat) =>
    let a := streams.getD c 0
    { cl with active := a != 0, taskActive := a != 0, pc := a, ready := s.now + 1 }
  { Ctx.reset with
    cid := w.cid, gang := g.id, asid := g.asid, die := w.core / 112, quad := w.core / 4 % 28, core := w.core % 4,
    slot := w.slot, cap48 := pkCap48 p, life := .ready, regs := regs, sr := sr, cl := ⟨mk 0, mk 1, mk 2, mk 3⟩,
    hoops := Vector.ofFn (fun (h : Fin 8) => hoopRecOf p w.task h.val), code := code, codeRemote := s.remote,
    audit := { Audit.reset with drawn := drawn } }

/-- AUDIT_DRAW (R276): AUDQ bits of the random bit generator, all zero. -/
def drawTask (s : State) (g : Gang) : State × Bool :=
  if !pkAud g.packet || !s.hub.smpcfg.getLsbD 0 then (s, false)
  else ({ s with free := s.free + 1 }, (Config.randomWord s.free).toNat % 2 ^ pkAudq g.packet == 0)

/-- R187: whether a context in one of some quads has an access ahead of which one ordered behind it, at `.core` or `.quad`, has been performed; a
context that comes to such a quad must find it performed. -/
def lateIn (s : State) (quads : List Nat) : Bool := (allCtxs s).any (fun x => x.hasLate && quads.contains x.quadId)

/-- What such contexts can perform is performed. -/
def settleLate (s : State) (quads : List Nat) : State :=
  (((allCtxs s).filter (fun x => x.hasLate && quads.contains x.quadId)).map (·.cid)).foldl (fun t cid => t.onCtx cid State.drainAll) s

/-- A task starts in its slot; that is an acquire (R195). -/
def State.startTask (s : State) (x : Ctx) : State :=
  { (({ s with ctx := x } : State).selfInvalidate) with
    ctx := s.ctx, others := s.others ++ [x], ended := s.ended.filter (fun y => y.coreId != x.coreId || y.slot != x.slot) }

/-- Every task of a gang starts (R31, R35). -/
def startGang (s : State) (g : Gang) (streams : List W64) (ks : List W32) (seats : List Seat) : State :=
  let code := codeNow s
  let s1 := s.setGang { g with placed := true, hoops := hoopInstances g.packet }
  seats.foldl (fun t w =>
    let (t1, drawn) := drawTask t g
    t1.startTask (startCtx t1 g code streams ks drawn w)) s1

/-! ## Replays (R279) -/

/-- The LAUNCH packet of a replay: that of its task's gang, for one task in groups of one, without a status word and without hoops. -/
def replayPacket (p : BitVec 512) : BitVec 512 :=
  let w0 := (pkWord p 0 &&& 0x00F0000001FFFFFF) ||| 0x0000000200000000
  let w3 := pkWord p 3 &&& 0x000000007FFFFFFF
  BitVec.ofNat 512 (w0.toNat + ((List.range 7).map (fun i =>
    (if i = 2 then w3 else if i = 5 then 0 else pkWord p (i + 1)).toNat * 2 ^ (64 * (i + 1)))).foldl (· + ·) 0)

/-- The context of a replay: the start of R35 with the task number and the gang size of the original, whose log it reads. -/
def replayCtx (s : State) (g : Gang) (a : AuditRun) (streams : List W64) (ks : List W32) (w : Seat) : Ctx :=
  let x := startCtx s g (codeNow s) streams ks true w
  { x with
    sr := { x.sr with taskid := a.taskid, gangsize := BitVec.ofNat 64 (pkGang a.packet), lfsr := a.taskid.setWidth 32 + 1 },
    audit := { x.audit with replay := some { task := a.task, left := a.log, claims := [], differs := false } } }

/-- The gang of a replay, under its audit's number. -/
def replayGang (s : State) (a : AuditRun) : Gang :=
  { id := s.tamb.nextGang, qslot := 512, qid := 0x10000, asid := a.asid, packet := replayPacket a.packet, inputs := a.inputs, size := 1,
    placed := true, saved := false, hoops := [], frozen := false, preempt := none, retired := 0, abort := false, naborts := 0,
    terminated := false, done := false, replay := some a.task }

/-- Whether an audit waits for a replay to be placed. -/
def wantsReplay (s : State) (a : AuditRun) : Bool :=
  a.ended.isNone && decide (a.runs.length < 2) && !s.tamb.gangs.any (fun g => g.replay == some a.task && !g.done)

/-- The replay of an audit is placed at effective priority 7 (R279): when it fits, no gang of that priority reserves (R34), and its entry record
can be read. -/
def startReplay (s : State) (a : AuditRun) : State :=
  let g := replayGang s a
  if !wantsReplay s a || s.tamb.slots.any (fun p => p.2.reserving && decide (7 ≤ p.2.eff)) then s
  else
    match seatGang (demandOf s g) (seatingNow s), freeIds s 0xFFFF 0 1, readEntry s g.id a.asid (pkEntry a.packet) with
    | some p, id :: _, some (streams, ks) =>
      match seatsOf p [id] with
      | w :: _ =>
        let t := settleLate s [w.core / 4]
        if lateIn t [w.core / 4] then t
        else { t with tamb := { t.tamb with gangs := t.tamb.gangs ++ [g], nextGang := g.id + 1 } }.startTask (replayCtx t g a streams ks w)
      | [] => s
    | _, _, _ => s

end Sys2Proof.Machine
end

