-- ==== Sys2Proof/Machine/Contexts.lean ====
section
/-! DEFINITION. Contexts as the cores and the Tambour schedule them: waits and switches (R37, R38, R347), writes that land (R73),
accesses that are performed (R182, R301), engine faults (R243), stops and resumptions (R245 to R250), and the supervisor's spill
of a context's tiles (R136). -/

namespace Sys2Proof.Machine

/-! ## Queue descriptors (Table 11.1) -/

def descWord (s : State) (qid i : Nat) : W64 := BitVec.ofNat 64 (s.getLocal (descAddr s qid + 8 * i) 8)

/-- What the supervisor wrote into a descriptor. -/
structure Desc where
  ring : W64
  asid : W16
  hold : Nat
  key : Nat
  sizelg : Nat
  prio : Nat
  remote : Bool
  devenq : Bool
  en : Bool
  bad : Bool
  deriving DecidableEq, Repr

/-- R216: a reserved field that is nonzero, or a SIZELG outside 4 to 15, keeps a queue from being mapped. -/
def readDesc (s : State) (qid : Nat) : Desc :=
  let w := descWord s qid 1
  { ring := descWord s qid 0, asid := BitVec.ofNat 16 (bits64 w 48 16), hold := bits64 w 32 16, key := bits64 w 24 8,
    sizelg := bits64 w 20 4, prio := bits64 w 16 3, remote := w.getLsbD 2, devenq := w.getLsbD 1, en := w.getLsbD 0,
    bad := w.getLsbD 19 || bits64 w 3 13 != 0 || decide (bits64 w 20 4 < 4) || bits64 (descWord s qid 3) 3 13 != 0 ||
      (List.range 4).any (fun i => descWord s qid (4 + i) != 0) }

/-- The hardware slot to which a queue is mapped. -/
def slotOfQueue (s : State) (qid : Nat) : Option (Nat × HwSlot) := s.tamb.slots.find? (fun p => p.2.qid == qid)

/-- WIDX and RIDX, where they are held: the slot of a mapped queue, else the descriptor. -/
def queueIndices (s : State) (qid : Nat) : W32 × W32 :=
  match slotOfQueue s qid with
  | some (_, h) => (h.widx, h.ridx)
  | none => (BitVec.ofNat 32 (s.getLocal (descAddr s qid + 20) 4), BitVec.ofNat 32 (s.getLocal (descAddr s qid + 16) 4))

/-! ## The ready set (R37, R38) -/

/-- Whether a context can issue when its core selects it. -/
def Ctx.runnable (x : Ctx) : Bool := x.life == .ready || x.life == .engineWait || x.life == .hoopWait

/-- R211: whether the focused context's NBENTER waits in the engine for another context's hold. -/
def couchWaits (s : State) : Bool :=
  match s.ctx.eng.couch.cmds with
  | c :: _ =>
    c.word.toNat / 2 ^ 20 % 32 == 0 && s.ctx.eng.couch.run == .run && s.ctx.eng.hold.isNone && couchReleased s c &&
      s.holds.any (fun h => h.channel == couchChannel c && h.cid != s.ctx.cid)
  | [] => false

/-- R235: whether the focused context's ENQ waits in the engine for room in the ring. -/
def ringWaits (s : State) : Bool :=
  match s.ctx.eng.qeng.cmds with
  | c :: _ =>
    let d := readDesc s (bits64 c.ra 0 16)
    let w := queueIndices s (bits64 c.ra 0 16)
    s.ctx.eng.qeng.run == .run && s.ctx.releasedTo c.after && d.en && d.devenq && d.asid == s.ctx.asid &&
      decide (2 ^ d.sizelg ≤ (w.1 - w.2).toNat)
  | [] => false

/-- Whether a command of the focused context waits in its engine in a way that counts as an engine wait (R211, R235). -/
def engineHeld (s : State) : Bool := couchWaits s || ringWaits s

/-- ENGINE_WAIT (R37, R211, R235): a cluster has stalled 64 cycles on an engine, or a command waits in its engine. -/
def execEngineWait (cid : Nat) (s : State) : Result :=
  eventOn s cid (fun t =>
    let waits := allClusters.any (fun c => (t.ctx.cl.get c).engineWaits t.now) || engineHeld t
    if t.ctx.life = .ready ∧ waits ∧ t.ctx.eng.faults.isEmpty then (t.modCtx (fun x => { x with life := .engineWait }), true)
    else (t, false))

/-- The contexts of a core. -/
def coreCtxs (s : State) (core : Nat) : List Ctx := (allCtxs s).filter (fun x => x.resident && x.coreId == core)

/-- Whether the core switches from its running context to another (R38). -/
def switches (now : Nat) (r y : Ctx) : Bool :=
  y.life == .ready && !y.running && (r.life != .ready || decide (r.runSince + 1024 ≤ now))

/-- CONTEXT_SWITCH (R38): the core selects a ready context when none runs, when the running one has left the ready set, and every
1,024 cycles while both are ready. The core's issue of the present cycle counts for either. -/
def execContextSwitch (core : Nat) (s : State) : Result :=
  let cs := coreCtxs s core
  let select := fun (y : Ctx) (served : Nat) => s.mapCtxs (fun x =>
    if x.resident ∧ x.coreId = core then
      { x with running := x.cid == y.cid, runSince := if x.cid = y.cid then s.now else x.runSince,
               served := if x.cid = y.cid then max served x.served else x.served }
    else x)
  match cs.find? (·.running) with
  | some r =>
    if !r.runnable then happens (s.onCtx r.cid (fun t => t.modCtx (fun x => { x with running := false })))
    else
      match cs.find? (switches s.now r) with
      | some y => happens (select y r.served)
      | none => notNow s
  | none =>
    match cs.find? (fun y => y.life == .ready) with
    | some y => happens (select y 0)
    | none => notNow s

/-- Whether the cluster waits at an HWAIT or HARRIVE of this hoop. -/
def waitsAtHoop (s : State) (c : Cluster) (h : Nat) : Bool :=
  let k := s.ctx.cl.get c
  k.hoopWaits &&
    match codeWord s (k.pc &&& ~~~(1 : W64)) with
    | .error _ => false
    | .ok (long, w) =>
      match decodeWord c long w with
      | .ok (.hwait _ g) => g.toNat == h
      | .ok (.harrive _ g _) => g.toNat == h
      | _ => false

/-- HOOP_NOTIFICATION (R42, R347): the completion of the recorded generation reaches a task, which re-enters the ready set; for a
hoop of the pod, whose delay is not bounded, the event itself is the arrival of the notification. A context that is stopped or saved in its wait takes
note of it, and goes on when it has been resumed (R46). -/
def execHoopNotification (cid : Nat) (hoop : Nat) (s : State) : Result :=
  eventOn s cid (fun t =>
    let x := t.ctx
    let r := hoopRec x hoop
    match hoopOf t x.gang hoop r with
    | none => (t, false)
    | some i =>
      let waits := allClusters.any (fun c => waitsAtHoop t c hoop)
      let done := fun (c : Cluster) (k : ClusterState) => if waitsAtHoop t c hoop then { k with wait := .none } else k
      let wake := fun (u : State) =>
        if u.ctx.runnable then u.modCtx (fun y => ({ y with cl := y.cl.map done } : Ctx).settle u.now) else u
      if hoopFrozen t r || !r.member || !r.armed then (t, false)
      else if r.scope = 4 ∧ !r.notified ∧ i.gen ≠ r.gen then
        (wake (t.modCtx (·.setHoop hoop { r with notified := true })), true)
      else if hoopReached t.now r i && waits && x.runnable then (wake t, true)
      else (t, false))

/-- POD_HOOP_ARRIVAL (R46): a task in another package arrives at an entry, or leaves it (R43). -/
def execPodHoopArrival (entry : Nat) (leave armed : Bool) (s : State) : Result :=
  match tabGet entry s.hub.podHoops with
  | none => notNow s
  | some i =>
    let i' : HoopInst := if leave then { i with expect := i.expect - 1, arrived := i.arrived - armed.toNat }
      else { i with arrived := i.arrived + 1 }
    if i.expect = 0 then notNow s
    else happens { s with hub := { s.hub with podHoops := tabSet entry (i'.settle s.now) s.hub.podHoops } }

/-! ## Landing and performance -/

/-- WRITE_LANDS (R73, R75): the first write of a context that is due lands. -/
def execWriteLands (cid : Nat) (s : State) : Result :=
  eventOn s cid (fun t =>
    match pickDue t.now t.ctx.flight with
    | none => (t, false)
    | some (w, rest) => (t.modCtx (fun x => ({ x with flight := rest } : Ctx).land w.eff), true))

/-- GLOBAL_ACCESS_PERFORMED (R182): the access at place `idx` of a context's queues. -/
def execGlobalAccessPerformed (cid : Nat) (idx : Nat) (s : State) : Result :=
  eventOn s cid (fun t => if performable t idx then (t.performAt idx, true) else (t, false))

/-- The effect of an access that completes as an abort (R251). -/
def abortEffect (s : State) (y : Access) : State :=
  let aborted := fun (x : Ctx) => (x.logElems (cnum y.issuer) y.num y.size (y.elems.take 1) (abortBytes y.size)).consumeAbort
  match y.kind with
  | .load b id sz => s.modCtx (·.deliverRead b id sz y none)
  | .gather b id =>
    s.modCtx (fun x =>
      ((x.logElems (cnum y.issuer) y.num y.size y.elems (abortBytes (y.size * y.elems.length))).consumeAbort).arrive b id
        (BitVec.allOnes 2048))
  | .amo (some (b, id)) _ => deliverOld (s.modCtx aborted) b id none
  | .amo none _ => s.modCtx aborted
  | .cas b id _ => deliverOld (s.modCtx aborted) b id none
  | .signal => s.modCtx Ctx.consumeAbort
  | _ => s

/-- An access to another package that has no answer completes as an abort (R251, R301); an acquire it stays (R186). -/
def abortAccess (s : State) (y : Access) : State :=
  let s1 := abortEffect (s.modCtx (·.dropAccess y.num)) y
  if acquires y then s1.selfInvalidate else s1

/-- REMOTE_TIMEOUT (R301): of the access at place `idx` of a context's queues, or, for the two places after the last, of the
command that a shuttle channel moves; 2 ms after the request has left. -/
def execRemoteTimeout (cid : Nat) (idx : Nat) (s : State) : Result :=
  eventOn s cid (fun t =>
    match t.ctx.gq[idx]? with
    | some y =>
      if orderedNow t idx && y.elems.any (fun e => pteRMT e.pte && unanswered t e.pa) && !t.ctx.replays then (abortAccess t y, true)
      else (t, false)
    | none =>
      let k := idx - t.ctx.gq.length
      let late := ((t.ctx.eng.channel (k == 1)).cmds.head?.map (fun c => (remotePieces t c).any (fun e => unanswered t e.pa))).getD false
      if k < 2 ∧ t.ctx.enginesRun ∧ late then abortPosition t (k == 1) else (t, false))

/-! ## Engine faults (R243) -/

/-- Whether a context's pending fault can be delivered. -/
def deliverable (x : Ctx) : Bool :=
  !x.sr.handler && ((x.running && x.runnable) || x.life == .retiring) && !x.eng.faults.isEmpty

/-- ENGINE_FAULT_DELIVERY (R243): the first pending fault is taken. -/
def execEngineFaultDelivery (cid : Nat) (s : State) : Result :=
  eventOn s cid (fun t =>
    match t.ctx.eng.faults with
    | [] => (t, false)
    | f :: rest =>
      if !deliverable t.ctx then (t, false)
      else
        let t1 := t.modEng (fun e => { e.markDelivered f.eng with faults := rest })
        let t2 := t1.modCtx (fun x => { x with life := .ready })
        (enterTrap t2 f.clu f.cause.toNat f.tval f.ecmd, true))

/-! ## Graceful stops (R65, R246, R247) -/

/-- Whether a pre-emption request can stop this context's clusters now: R246 gives handler mode no graceful point. -/
def stopsGracefully (x : Ctx) : Bool := x.preempt.isSome && !x.sr.handler && x.runnable

/-- A wait that R246 stops at once. -/
def WaitKind.stopsAtOnce : WaitKind → Bool
  | .hoop => true
  | .watermark => true
  | .queueFull => true
  | .bobbinEngine => true
  | _ => false

/-- A wait that other clusters end (R246). -/
def WaitKind.onClusters : WaitKind → Bool
  | .stitch => true
  | .flag => true
  | .bobbinCluster _ => true
  | _ => false

/-- R246: whether cluster `d`, which has not stopped, could end the wait of cluster `c`: a stitched wait by reaching a stitched
instruction, a bobbin wait as the bobbin's producer (A fills PROD 4, R66), a flag wait by setting the flag. -/
def couldEnd (x : Ctx) (c d : Cluster) : Bool :=
  let e := x.cl.get d
  c != d && e.active && !e.parked &&
    match (x.cl.get c).wait with
    | .stitch => e.wait != .stitch
    | .bobbinCluster p => (if p = 4 then 0 else p) == cnum d
    | _ => true

/-- R246: the waits of the focused context's clusters at which they stop. A wait for other clusters stops when every cluster that
could end it has stopped before, and nothing that is on its way could end it; clusters that wait for each other do not stop (R55,
R474). -/
def parkWaits (s : State) : State :=
  if !stopsGracefully s.ctx then s
  else
    let quiet := s.ctx.flight.isEmpty && (firstPerformable s).isNone
    let parks := fun (c : Cluster) (k : ClusterState) =>
      k.active && (k.wait.stopsAtOnce || (k.wait.onClusters && quiet && !allClusters.any (couldEnd s.ctx c)))
    s.modCtx (fun x => { x with cl := x.cl.map (fun c k => { k with parked := k.parked || parks c k }) })

/-- The focused context is out of execution: its stop record, and the steps of Table 12.3 to come. R241 writes EPC and ESTAT at
every stop; a stop in handler mode leaves them to the trap that the handler serves (R240). -/
def beginStop (s : State) (forced : ClusterState → Bool) : State :=
  let hoop := allClusters.any (fun c => (s.ctx.cl.get c).hoopWaits)
  let r := { stopRecord s forced 0 0 0 with hoopWait := hoop }
  let record := fun (x : Ctx) =>
    if x.sr.handler then x
    else { x with cl := x.cl.map (fun c k => { k with epc := r.epcs.getD (cnum c) 0, estat := r.estats.getD (cnum c) 0 }) }
  let s1 := s.modCtx (fun x => record x.landAll)
  s1.modCtx (fun x => { x with life := .stopping, running := false, stop := some r })

/-- A graceful stop is complete once every active cluster has stopped. -/
def stopIfParked (s : State) : State :=
  if stopsGracefully s.ctx && allClusters.all (fun c => let k := s.ctx.cl.get c; !k.active || k.parked) then
    beginStop s (fun _ => false)
  else s

/-- FORCED_STOP (R247): 20 µs after the request, every context of the gang that still executes stops where it stands. -/
def execForcedStop (gang : Nat) (s : State) : Result :=
  match (s.gangOf gang).bind (·.preempt) with
  | none => notNow s
  | some u =>
    let ids := ((allCtxs s).filter (fun x => x.gang == gang && x.runnable)).map (·.cid)
    if s.time < u + 20 * microsecondUnits ∨ ids.isEmpty then notNow s
    else happens (ids.foldl (fun t cid => t.onCtx cid (fun v => beginStop v (fun k => !k.parked))) s)

/-! ## The context area (R249, R250, Table 12.5) -/

def regBytes {n : Nat} (v : Vector W64 n) : List Byte := v.toList.flatMap leBytes
def vregBytes (vs : List VReg) : List Byte := vs.flatMap imageBytes

/-- Whether a tile of the quad carries the context's tag (R136). -/
def anchored (s : State) (x : Ctx) : Bool := (s.quad x.quadId).tiles.toList.any (fun t => t.tag == some x.cid)

/-- The header. -/
def areaHeader (s : State) (x : Ctx) (r : StopRecord) : List Byte :=
  natBytes x.cid 2 ++ natBytes x.asid.toNat 2 ++
    natBytes (r.handler.toNat + 2 * r.hoopWait.toNat + 4 * (anchored s x).toNat + 8 * r.unreadable.toNat) 1 ++
    natBytes (min 8 x.eng.faults.length) 1 ++ List.replicate 58 0

/-- Special registers 0x00 to 0x1F. -/
def areaSregs (x : Ctx) : List Byte :=
  (List.range 32).flatMap (fun n => leBytes (if n = 2 ∨ n = 3 then 0 else (x.sreg .A n).getD 0))

def perCluster (x : Ctx) (f : ClusterState → W64) : List Byte := allClusters.flatMap (fun c => leBytes (f (x.cl.get c)))

def areaRecord (r : StopRecord) : List Byte := ([r.cause, r.tval, r.ecmd] ++ r.epcs ++ r.estats).flatMap leBytes

/-- The sync flags as bits. -/
def flagBits (x : Ctx) : Nat := ((List.range 8).map (fun f => (vget x.flags f false).toNat * 2 ^ f)).foldl (· + ·) 0

def areaRegs (x : Ctx) : List Byte :=
  regBytes x.regs.a ++ regBytes x.regs.m ++ regBytes x.regs.s ++ regBytes x.regs.p ++
    x.regs.k.toList.flatMap (fun k => natBytes k.toNat 4)

def areaHoops (x : Ctx) : List Byte :=
  x.hoops.toList.flatMap (fun h => natBytes (h.gen.toNat + h.armed.toNat * 2 ^ 16) 8)

/-- The task-mode and handler-mode call floors (R461). -/
def areaFloors (x : Ctx) : List Byte :=
  let ks := allClusters.map x.cl.get
  ks.flatMap (fun k => natBytes (if x.sr.handler then k.savedFloor else k.floor) 1) ++
    ks.flatMap (fun k => natBytes (if x.sr.handler then k.floor else 0) 1)

def areaSlotMap (x : Ctx) : List Byte :=
  (List.range 48).map (fun n => BitVec.ofNat 8 ((slotOfName x.eng n).getD 0xFF)) ++ List.replicate 16 0

def areaFormats (x : Ctx) : List Byte :=
  natBytes x.eng.formats.length 8 ++
    x.eng.formats.flatMap (fun f => natBytes (f.1.toNat + f.2.isSome.toNat * 2 ^ 40) 8)

/-- The Darning or the Footside queue. -/
def areaQueue (q : EngQueue) (stripe : Nat) : List Byte :=
  natBytes (q.cmds.length + stripe * 2 ^ 32) 8 ++
    q.cmds.flatMap (fun c => natBytes c.word.toNat 8 ++ leBytes c.ra ++ leBytes c.rb ++ leBytes c.rc)

/-- The bytes that save number `save` writes into a part whose inner layout the spec does not give (log 54). -/
def areaPart (save off n : Nat) : List Byte := (List.range n).map (fun i => Config.areaByte save (off + i))

/-- A shuttle queue: its count word, and 128 bytes per command, of which the cursor has the last 32 (log 54). -/
def areaShuttle (save off : Nat) (q : ShQueue) : List Byte :=
  natBytes q.cmds.length 8 ++
    q.cmds.zipIdx.flatMap (fun c => natBytes c.1.pricking.toNat 80 ++ leBytes c.1.handle ++ leBytes c.1.aw ++
      areaPart save (off + 8 + 128 * c.2 + 96) 32)

/-- Where the second shuttle queue of the engine queues begins, and where what follows it. -/
def shuttle1At (x : Ctx) : Nat := 0x1008 + 128 * x.eng.sh0.cmds.length
def enginesAt (x : Ctx) : Nat := shuttle1At x + 8 + 128 * x.eng.sh1.cmds.length

/-- The engine queues. -/
def areaEngines (save : Nat) (x : Ctx) : List Byte :=
  areaShuttle save 0x1000 x.eng.sh0 ++ areaShuttle save (shuttle1At x) x.eng.sh1 ++ areaPart save (enginesAt x) (0x2000 - enginesAt x)

/-- The rows of Table 12.5 that a stop writes, as bytes at their offsets. -/
def areaRows (s : State) (x : Ctx) (r : StopRecord) : List (Nat × List Byte) :=
  let free := fun (off n : Nat) => (off, areaPart s.free off n)
  [(0x0, areaHeader s x r), (0x40, areaSregs x), (0x140, perCluster x (·.epc) ++ perCluster x (·.estat)),
   (0x180, areaRecord r), (0x1D8, natBytes (x.eng.asaved.toNat + flagBits x * 2 ^ 16) 8 ++ List.replicate 32 0),
   (0x200, areaRegs x), (0x500, areaHoops x), (0x540, areaSlotMap x), (0x580, areaFloors x), free 0x800 0x400,
   (0xC00, x.bob.toList.flatMap (fun b => leBytes b.image)), (0xC80, areaFormats x), (0x1000, areaEngines s.free x),
   (0x2000, vregBytes (x.regs.v.toList.take (if x.cap48 then 48 else 32))),
   (0x5000, vregBytes x.regs.o.toList ++ vregBytes x.regs.l.toList), free 0x5C00 0x400, free 0x20000 0x20000,
   (0x160000, areaQueue x.eng.darn ((x.eng.darn.cmds.head?.map (·.stripe)).getD 0)),
   (0x160200, areaQueue x.eng.foot 0)]

def slotOffset (n : Nat) : Nat := 0x40000 + 6208 * n

/-- The mapped operand slots: name and physical slot. -/
def mappedSlots (x : Ctx) : List (Nat × Nat) := x.eng.names

/-- The lines of a range that hold anything carry a key (log 1). -/
def State.stampRange (s : State) (a n key : Nat) : State :=
  let lines := (s.mem.cells.filter (fun c => decide (a ≤ c.1) && decide (c.1 < a + n))).map (fun c => c.1 / 64)
  let rest := s.stamps.filter (fun p => decide (64 * p.1 + 64 ≤ a) || decide (a + n ≤ 64 * p.1))
  { s with stamps := lines.foldl (fun u l => tabSet l key u) rest }

/-- Step 6 of Table 12.3: the area of the focused context is written. -/
def writeArea (s : State) (r : StopRecord) : State :=
  let x := s.ctx
  let base := areaOf s x.cid
  let s1 := s.evictRange base (2 ^ 21)
  let q := s.quad x.quadId
  let m1 := (areaRows s x r).foldl (fun (m : Memory) w => m.write (base + w.1) w.2) s1.mem
  let m2 := copyBetween x.bmem m1 0 (base + 0x10000) 0x10000
  let m3 := copyBetween x.sp m2 0 (base + 0xE0000) x.spSize
  let m4 := if x.eng.hold.isSome then copyBetween x.eng.xp m3 0 (base + 0x6000) 0x3000 else m3
  let m5 := (mappedSlots x).foldl (fun (m : Memory) p =>
    copyBetween (vget q.slots p.2 .reset).bytes m 0 (base + slotOffset p.1) 6208) m4
  ({ s1 with mem := m5, free := s1.free + 1 }).stampRange base (2 ^ 21) (keyOf s 0)

/-! ## Stop (R245, Table 12.3) -/

/-- R196: every pending knot pairing completes as if the missing knot issued now. -/
def closeKnots (x : Ctx) : Ctx :=
  let missing := fun (c : Cluster) (have' want : Nat) =>
    if (x.cl.get c).active || (x.sr.handler && (x.cl.get c).taskActive) then want - have' else 0
  let add := fun (c : Cluster) (first n : Nat) (y : Ctx) => (List.range n).foldl (fun (z : Ctx) i =>
    { z with gq := z.gq ++ [{ num := z.nextAcc, loadQ := false, issuer := c, kind := .knot (first + i), elems := [], size := 0,
                              data := 0, cls := none, ord := 0, scope := 0, seen := false }], nextAcc := z.nextAcc + 1 }) y
  let na := missing .A x.knotsA x.knotsS
  let ns := missing .S x.knotsS x.knotsA
  let y := add .S x.knotsS ns (add .A x.knotsA na x)
  { y with knotsA := x.knotsA + na, knotsS := x.knotsS + ns }

/-- Whether a knot of the context waits for its partner. -/
def knotsPending (x : Ctx) : Bool := decide ((closeKnots x).nextAcc ≠ x.nextAcc)

/-- The group slot that holds back a write. -/
def holder (s : State) (y : Access) : Option Nat :=
  y.elems.findSome? (fun e => if !pteRMT e.pte && !migrating s e.pa then (protLine s e.pa).map (·.1) else none)

/-- What the stop takes a passed write to have done (R489): the old value of an atomic is delivered and logged, and its writes are signed. -/
def passedEffect (s : State) (y : Access) (e : Elem) (j : Nat) : State :=
  let old := leNat (s.passedBytes e y.size)
  let s1 := if y.logs then s.modCtx (·.logRead (cnum y.issuer) y.num e.va (natBytes old y.size)) else s
  let s2 := match y.makes j old with
    | some v => s1.modCtx (·.sign y.issuer y.num (leBytes e.va ++ natBytes v y.size))
    | none => s1
  match y.kind with
  | .amo (some (b, id)) _ => deliverOld s2 b id (some old)
  | .cas b id _ => deliverOld s2 b id (some old)
  | _ => s2

/-- R489: the first write that waits for its group, with nothing earlier that keeps it back, passes to the group slot. The stop treats it as
performed: its reservations are filled (R250, R322), and what the context reads after it is what it leaves. An atomic whose line an error withholds
completes as an abort. -/
def passOne (s : State) : Option State :=
  match s.ctx.gq.zipIdx.find? (fun p => p.1.writes && p.1.elems.any (heldWrite s) && (holder s p.1).isSome &&
      !(s.ctx.gq.take p.2).any (fun a => blocksAccess (fun _ _ => false) s.ctx a p.1)) with
  | none => none
  | some (y, _) =>
    if !y.plainStore && y.elems.any (fun e => hitsLost s (localPart e.pa) y.size) then some (abortAccess s y)
    else
      let s1 := y.elems.zipIdx.foldl (fun t p => passedEffect t y p.1 p.2) s
      let s2 := s1.modGroup ((holder s y).getD 0) (fun g => { g with passed := g.passed ++ [(s.ctx.cid, y)] })
      let s3 := s2.modCtx (·.dropAccess y.num)
      some (if acquires y then s3.selfInvalidate else s3)

/-- Step 4 of Table 12.3: every access is performed or passed on, as far as it goes. -/
def drainForStop (s : State) : Nat → State
  | 0 => s.drainAll
  | n + 1 =>
    let s1 := s.drainAll
    match passOne s1 with
    | some s2 => drainForStop s2 n
    | none => s1

/-- R172: a command that is cut gives up its copy of the record, and begins again where it stands. -/
def ShQueue.cut (q : ShQueue) : ShQueue :=
  { q with cmds := q.cmds.map (fun c => if c.finished then c else { c with begun := false }) }

/-- Steps 3 and 5: the shuttle commands of the focused context, and the fills of its slots that were in progress, are cut. -/
def cutFills (s : State) : State :=
  let q := myQuad s
  let slots := (List.range 48).foldl (fun v p =>
    let o := vget v p .reset
    if o.holder = some s.ctx.cid then vset v p { o with fills := [] } else v) q.slots
  (s.setMyQuad { q with slots := slots }).modEng (fun e => { e with sh0 := e.sh0.cut, sh1 := e.sh1.cut })

/-- Whether the focused context's Couching queue has executed as far as a stop awaits: its head is an NBREAD that waits for room (R373), or
comes after accesses that wait for the end of the context's own hold (R211, R215). -/
def couchStill (s : State) : Bool :=
  let q := s.ctx.eng.couch
  match q.cmds with
  | [] => true
  | c :: _ =>
    q.run != .run || (!couchReleased s c && s.ctx.eng.hold.isSome && (firstPerformable s).isNone) ||
      (c.word.toNat / 2 ^ 20 % 32 == 3 && s.ctx.eng.hold == some (couchChannel c) &&
        (let b := s.ctx.bobbin (c.word.toNat % 16)
         b.en && b.prod == 7 && b.sz && decide (16 ≤ b.slots) && decide (b.slots - b.count < 16)))

/-- R211: whether a context's area, whose blocks rotate over the pseudo-channels of its stack (R13), lies in part on one that another context
holds. -/
def areaHeld (s : State) (x : Ctx) : Bool := s.holds.any (fun h => h.cid != x.cid && h.channel / 64 == stackOf (areaOf s x.cid))

/-- Whether the array and the Couching queue have done what a stop awaits (step 2 of Table 12.3), and the area can be written. -/
def stopReady (s : State) : Bool :=
  !(myQuad s).queue.any (fun c => c.cid == s.ctx.cid) && couchStill s && s.power.gate && areaOf s s.ctx.cid != 0 &&
    !areaHeld s s.ctx

/-- The physical operand slots that the focused context holds, with what they hold. -/
def heldSlots (s : State) : List (Nat × OpSlot) :=
  ((List.range 48).map (fun p => (p, vget (myQuad s).slots p .reset))).filter (fun o => o.2.holder == some s.ctx.cid)

/-- Steps 5 to 7 of Table 12.3, once every access is performed. -/
def finishStop (s : State) (r : StopRecord) : State :=
  let s1 := cutFills (dropArray s false)
  let s2 := writeArea (s1.modEng (fun e => { e with kept := heldSlots s1 })) r
  let x := s2.ctx
  let s3 := s2.modCtx (fun y => { y with stop := some { r with save := s1.free }, running := false })
  if x.preempt.isSome then settleSaved ((s3.freeSlots x).modCtx (fun y => { y with life := .saved })) x.gang
  else (s3.modCtx (fun y => { y with life := .stopped })).irq x.die irqContext

/-- CONTEXT_STOP (R245): the next of the steps of Table 12.3. Pending knots pair; then, with the array's and the Couching commands done, the
pseudo-channel is left, since accesses may wait for that (R211, R215); then what is left completes. -/
def execContextStop (cid : Nat) (s : State) : Result :=
  eventOn s cid (fun t =>
    if t.ctx.life ≠ .stopping then (t, false)
    else if knotsPending t.ctx then (t.modCtx closeKnots, true)
    else if !stopReady t then (t, false)
    else if t.holds.any (fun h => h.cid == t.ctx.cid) then (t.release t.ctx.cid, true)
    else
      let t2 := drainForStop t t.ctx.gq.length
      match t2.ctx.stop with
      | some r => if t2.ctx.gq.isEmpty then (finishStop t2 r, true) else (t, false)
      | none => (t, false))

/-! ## Resumption (R47, R248) -/

/-- A word of the focused context's area. -/
def areaWord (s : State) (x : Ctx) (off n : Nat) : Nat := s.getLocal (areaOf s x.cid + off) n
def areaW64 (s : State) (x : Ctx) (off : Nat) : W64 := BitVec.ofNat 64 (areaWord s x off 8)

/-- The stop record as the area holds it. -/
def areaStop (s : State) (x : Ctx) (r : StopRecord) : StopRecord :=
  { r with cause := areaW64 s x 0x180, tval := areaW64 s x 0x188, ecmd := areaW64 s x 0x190,
           epcs := (List.range 4).map (fun c => areaW64 s x (0x198 + 8 * c)),
           estats := (List.range 4).map (fun c => areaW64 s x (0x1B8 + 8 * c)) }

/-- The mode in which a context resumes: PMODE of its active clusters. -/
def resumeMode (x : Ctx) (r : StopRecord) : Bool :=
  match allClusters.find? (fun c => (x.cl.get c).active) with
  | some c => (r.estats.getD (cnum c) 0).getLsbD 0
  | none => false

/-- The task-mode and the handler-mode block stack of a cluster that stopped, innermost first. -/
def ClusterState.stackPair (k : ClusterState) (wasHandler : Bool) : List BlockEntry × List BlockEntry :=
  if wasHandler then (k.savedBlocks, k.blocks) else (k.blocks, [])

/-- The block stack of the mode in which a context resumes. -/
def ClusterState.stackOf (k : ClusterState) (wasHandler mode : Bool) : List BlockEntry :=
  if mode then (k.stackPair wasHandler).2 else (k.stackPair wasHandler).1

/-- R248: whether the ESTAT values of a stop record pass the checks of R244 other than PMODE; BDEPTH is held against the stack of the mode in
which the context will run. -/
def stopRecordOk (x : Ctx) (r : StopRecord) : Bool :=
  allClusters.all (fun c =>
    let k := x.cl.get c
    let e := r.estats.getD (cnum c) 0
    !k.active || (bits64 e 8 56 == 0 && !e.getLsbD 1 && decide (bits64 e 5 3 ≤ 4) &&
      decide (bits64 e 5 3 ≤ (k.stackOf r.handler (resumeMode x r)).length)))

/-- R64, R65: a staged block that stopped with an empty mask starts its next iteration. -/
def unparkBlocks : List BlockEntry → List BlockEntry
  | b :: t => if b.staged ∧ b.mask = 0 ∧ b.left ≠ 0 then { b with mask := 1, left := b.left - 1 } :: t else b :: t
  | [] => []

/-- The outermost entries of a block stack, as many as BDEPTH of an ESTAT value says. -/
def outermost (e : W64) (bs : List BlockEntry) : List BlockEntry := bs.drop (bs.length - bits64 e 5 3)

/-- A cluster that resumes (R248) in the mode that the stop record gives, with the block stacks of both modes and its task-mode and handler-mode
call floors. One that was active goes on at the record's EPC; a return to task mode that the supervisor has written into the record of a stop in
handler mode brings the others back at their own EPC, as TRET would (R244). -/
def resumeCluster (now : Nat) (mode : Bool) (r : StopRecord) (epcs estats : List W64) (floors : Nat × Nat)
    (bothStacks : List BlockEntry × List BlockEntry) (c : Cluster) (k : ClusterState) : ClusterState :=
  let epc := epcs.getD (cnum c) 0
  let estat := estats.getD (cnum c) 0
  let back := r.handler && !mode
  let e := if k.active then r.estats.getD (cnum c) 0 else estat
  let at' := if k.active then r.epcs.getD (cnum c) 0 else epc
  let runs := if back then k.taskActive else k.active
  let bs := unparkBlocks (outermost e (if mode then bothStacks.2 else bothStacks.1))
  { k with
    active := runs, taskActive := k.taskActive && (mode || runs), epc := epc, estat := estat, ready := now + 1, waitFrom := now,
    parked := false, wait := if k.wait = .hoop then .hoop else .none,
    pc := if runs then at' &&& ~~~(1 : W64) else k.pc,
    blocks := if runs then bs else [],
    floor := if runs then min (if mode then floors.2 else floors.1) bs.length else 0,
    savedBlocks := if mode then bothStacks.1 else [], savedFloor := if mode then floors.1 else 0 }

/-- The registers that a resumption reads from the area. -/
def readRegs (s : State) (x : Ctx) : Regs :=
  let w := fun (off i : Nat) => areaW64 s x (off + 8 * i)
  let vec := fun (off i : Nat) => BitVec.ofNat 2048 (areaWord s x (off + 256 * i) 256)
  let cap := if x.cap48 then 48 else 32
  { a := Vector.ofFn (fun (i : Fin 32) => w 0x200 i.val), m := Vector.ofFn (fun (i : Fin 16) => w 0x300 i.val),
    s := Vector.ofFn (fun (i : Fin 16) => w 0x380 i.val), p := Vector.ofFn (fun (i : Fin 16) => w 0x400 i.val),
    n := Vector.ofFn (fun (i : Fin 4) => BitVec.ofNat 32 (areaWord s x (0x40 + 8 * (0x10 + i.val)) 4)),
    k := Vector.ofFn (fun (i : Fin 8) => BitVec.ofNat 32 (areaWord s x (0x480 + 4 * i.val) 4)),
    v := Vector.ofFn (fun (i : Fin 48) => if i.val < cap then vec 0x2000 i.val else vget x.regs.v i.val 0),
    o := Vector.ofFn (fun (i : Fin 8) => vec 0x5000 i.val), l := Vector.ofFn (fun (i : Fin 4) => vec 0x5800 i.val) }

/-- The special registers that a resumption reads from the area. A word that the supervisor has changed to an LFSR of zero or an RM of 5 to 7 is
taken as a SETSR takes it (log 97: R108 and R116 do not say). -/
def readSregs (s : State) (x : Ctx) (mode : Bool) : SRegs :=
  let w := fun (n : Nat) => areaW64 s x (0x40 + 8 * n)
  { x.sr with
    handler := mode, dbgt := (w 0).getLsbD 1, cause := w 1 &&& 0xFF, tval := w 4, ecmd := w 5, cirAbort := (w 6).getLsbD 0,
    cirCount := BitVec.ofNat 16 (bits64 (w 6) 16 16), taskid := w 7, gangsize := w 8, deleg := w 9, hentry := w 0xA,
    lfsr := if (w 0xB).setWidth 32 = (0 : W32) then 1 else (w 0xB).setWidth 32, vsp := (w 0x14).setWidth 20, vslim := (w 0x15).setWidth 20, vlen := (w 0x16).setWidth 7,
    fcsr := if bits64 (w 0x17) 0 3 < 5 then (w 0x17).setWidth 10 else ((w 0x17).setWidth 10 &&& 0x3F8) ||| (x.sr.fcsr &&& 7) }

def readBobbin (s : State) (x : Ctx) (n : Nat) : Bobbin :=
  let v := areaW64 s x (0xC00 + 8 * n)
  { (x.bobbin n).configure v with take := bits64 v 32 8, fill := bits64 v 40 8, count := bits64 v 48 16, resv := (x.bobbin n).resv }

def readHoop (s : State) (x : Ctx) (h : Nat) : HoopRec :=
  let v := areaW64 s x (0x500 + 8 * h)
  { hoopRec x h with armed := v.getLsbD 16, gen := BitVec.ofNat 16 (bits64 v 0 16) }

/-- The format queue; a bound word stays that of the MMA that had bound the word in its place. -/
def readFormats (s : State) (x : Ctx) : List (W64 × Option Nat) :=
  (List.range (min 16 (areaWord s x 0xC80 1))).map (fun i =>
    let v := areaW64 s x (0xC88 + 8 * i)
    (v &&& ~~~(BitVec.ofNat 64 (2 ^ 40)), if v.getLsbD 40 then some (((x.eng.formats[i]?).bind (·.2)).getD x.nextAcc) else none))

/-! ### The parts of the area whose inner layout the spec does not give (log 54) -/

/-- The bytes of such a part, if they are no longer those that the stop wrote. -/
def editedPart (s : State) (x : Ctx) (save off n : Nat) : Option (List Byte) :=
  let bs := s.supRead (areaOf s x.cid + off) n
  if bs = areaPart save off n then none else some bs

/-- One entry of a block stack. -/
def readBlock (s : State) (x : Ctx) (save off : Nat) (b : BlockEntry) : BlockEntry :=
  match editedPart s x save off 32 with
  | none => b
  | some bs =>
    let f := Config.areaField bs
    { b with header := f 0, start := f 1, stop := f 2, left := (f 3).setWidth 32, staged := (f 4).getLsbD 0,
             nstages := bits64 (f 5) 0 3 + 1, mask := (f 6).setWidth 8, pre := (f 7).getLsbD 0 }

/-- A block stack, innermost first; the area holds its outermost entry first. -/
def readStack (s : State) (x : Ctx) (save off : Nat) (bs : List BlockEntry) : List BlockEntry :=
  (bs.reverse.zipIdx.map (fun p => readBlock s x save (off + 32 * p.2) p.1)).reverse

/-- The values of `n` words from number `i` on. -/
def fieldBits (f : Nat → W64) (i n : Nat) : Nat := leNat ((List.range n).flatMap (fun k => leBytes (f (i + k))))

/-- A shuttle command of which the area alone tells. -/
def newShuttle (s : State) (i : Nat) : ShCmd :=
  { issued := s.now, after := 0, fill := none, pricking := 0, handle := 0, aw := 0, idx := i, phys := none, begun := false, record := 0,
    cur := Cursor.zero, buf := [], finished := false, bytes := 0, failed := false }

/-- A shuttle queue, whose first word counts its commands. -/
def readShuttle (s : State) (x : Ctx) (save off : Nat) (q : ShQueue) : ShQueue :=
  { q with
    cmds := (List.range (min 8 (areaWord s x off 8))).map (fun i =>
      let c := (q.cmds[i]?).getD (newShuttle s i)
      let a := off + 8 + 128 * i
      { c with pricking := BitVec.ofNat 640 (areaWord s x a 80), handle := areaW64 s x (a + 80), aw := areaW64 s x (a + 88),
               cur := match editedPart s x save (a + 96) 32 with
                 | none => c.cur
                 | some bs =>
                   let d := fun (i : Nat) => bits64 (Config.areaField bs i) 0 16
                   ⟨d 0, d 1, d 2, d 3, d 4, d 5, d 6⟩ }) }

/-- A declared range (R173). -/
def readRange (f : Nat → W64) (q : ShQueue) : ShQueue :=
  { q with lo := bits64 (f 0) 0 20, hi := bits64 (f 1) 0 20, wm := bits64 (f 2) 0 20 }

def readCommands (f : Nat → W64) (q : EngQueue) : EngQueue :=
  { q with cmds := q.cmds.zipIdx.map (fun c =>
      let g := fun (i : Nat) => f (16 * c.2 + i)
      { c.1 with word := (g 0).setWidth 32, ra := g 1, rb := g 2, rc := g 3, packet := BitVec.ofNat 512 (fieldBits g 4 8) }) }

def readHeldCmd (f : Nat → W64) (c : TileCmd) : TileCmd :=
  { c with num := bits64 (f 0) 0 24, cw := f 1,
           op := match c.op with
             | .mma a b z w => .mma a b z (w.map (fun _ => f 2))
             | .drain _ _ _ ty scope lfsr held => .drain (f 3) (f 4) (f 5) ty scope lfsr (held.map (fun h => ((f 6).setWidth 32, h.2)))
             | op => op }

/-- The engine queues. -/
def readEngines (s : State) (x : Ctx) (save : Nat) : Engines :=
  let e := { x.eng with sh0 := readShuttle s x save 0x1000 x.eng.sh0, sh1 := readShuttle s x save (shuttle1At x) x.eng.sh1 }
  match editedPart s x save (enginesAt x) (0x2000 - enginesAt x) with
  | none => e
  | some bs =>
    let f := fun (k i : Nat) => Config.areaField bs (1024 * k + i)
    { e with
      sh0 := readRange (f 0) e.sh0, sh1 := readRange (f 1) e.sh1, cut := readCommands (f 2) e.cut,
      couch := readCommands (f 3) e.couch, qeng := readCommands (f 4) e.qeng,
      held := e.held.zipIdx.map (fun c => readHeldCmd (fun i => f 5 (16 * c.2 + i)) c.1),
      faults := e.faults.zipIdx.map (fun p =>
        { p.1 with cause := (f 6 (4 * p.2)).setWidth 6, tval := f 6 (4 * p.2 + 1), estw := (f 6 (4 * p.2 + 2)).setWidth 32 }),
      heldUpdates := e.heldUpdates.zipIdx.map (fun p => { p.1 with addr := f 7 p.2 }) }

/-- The tag entries of a PROBE table, and its descriptor and set pointers. -/
def readProbe (s : State) (x : Ctx) (save t : Nat) (p : ProbeTable) : ProbeTable :=
  let tag := fun (e : Nat) =>
    match editedPart s x save (0x20000 + 8192 * t + 8 * e) 8 with
    | none => tabGet e p.tags
    | some bs =>
      let f := Config.areaField bs
      if (f 0).getLsbD 0 then some { tag := (f 1).toNat, filling := (f 2).getLsbD 0, gen := p.gen } else none
  let q := { p with tags := (List.range (2 ^ p.setlg * p.ways)).filterMap (fun e => (tag e).map (fun g => (e, g))) }
  match editedPart s x save (0x5C00 + 64 * t) 64 with
  | none => q
  | some bs =>
    let f := Config.areaField bs
    { q with en := (f 0).getLsbD 0, cwaddr := f 1, spbase := bits64 (f 2) 0 20,
             ptrs := q.ptrs.map (fun r => (r.1, bits64 (f (3 + r.1)) 0 2)) }

/-- The Darning or the Footside queue, whose first word counts its commands: the words and register values of the area. -/
def readQueue (s : State) (x : Ctx) (off : Nat) (q : EngQueue) (stripe : Bool) : EngQueue :=
  { q with cmds := (List.range (min 8 (areaWord s x off 4))).map (fun i =>
      let c := (q.cmds[i]?).getD { after := 0, word := 0, ra := 0, rb := 0, rc := 0, idx := i, elems := [], packet := 0, stripe := 0 }
      let a := off + 8 + 32 * i
      { c with word := BitVec.ofNat 32 (areaWord s x a 4), ra := areaW64 s x (a + 8), rb := areaW64 s x (a + 16),
               rc := areaW64 s x (a + 24),
               stripe := if stripe ∧ i = 0 then areaWord s x (off + 4) 4 else c.stripe }) }

/-- The slot map: the names of the physical slots that the context held when it stopped. -/
def readNames (s : State) (x : Ctx) : List (Nat × Nat) :=
  (List.range 48).filterMap (fun n =>
    let p := areaWord s x (0x540 + n) 1
    if x.eng.kept.any (fun k => k.1 == p) then some (n, p) else none)

/-- Step 3 of R248: the focused context as its area gives it. -/
def readArea (s : State) (r : StopRecord) : State :=
  let x := s.ctx
  let base := areaOf s x.cid
  let s1 := s.cleanRange base (2 ^ 21)
  let mode := resumeMode x r
  let epcs := (List.range 4).map (fun c => areaW64 s x (0x140 + 8 * c))
  let estats := (List.range 4).map (fun c => areaW64 s x (0x160 + 8 * c))
  let word := areaWord s x 0x1D8 8
  let fl := fun (c : Cluster) => (areaWord s x (0x580 + cnum c) 1, areaWord s x (0x584 + cnum c) 1)
  let bothStacks := fun (c : Cluster) (k : ClusterState) =>
    let t := k.stackPair r.handler
    (readStack s x r.save (0x800 + 128 * cnum c) t.1, readStack s x r.save (0xA00 + 128 * cnum c) t.2)
  let probes := Vector.ofFn (fun (t : Fin 16) => readProbe s x r.save t.val (vget x.eng.probes t.val .reset))
  let eng := { readEngines s x r.save with
    probes := probes, asaved := BitVec.ofNat 16 word, formats := readFormats s x, darn := readQueue s x 0x160000 x.eng.darn true,
    foot := readQueue s x 0x160200 x.eng.foot false,
    xp := if x.eng.hold.isSome then copyBetween s1.mem .empty (base + 0x6000) 0 0x3000 else x.eng.xp }
  s.modCtx (fun y =>
    { y with
      regs := readRegs s x, sr := readSregs s x mode,
      cl := y.cl.map (fun c k => resumeCluster s.now mode r epcs estats (fl c) (bothStacks c k) c k),
      flags := Vector.ofFn (fun (f : Fin 8) => decide (word / 2 ^ (16 + f.val) % 2 = 1)),
      bob := Vector.ofFn (fun (n : Fin 16) => readBobbin s x n.val),
      hoops := Vector.ofFn (fun (h : Fin 8) => readHoop s x h.val),
      bmem := copyBetween s1.mem .empty (base + 0x10000) 0 0x10000,
      sp := copyBetween s1.mem .empty (base + 0xE0000) 0 x.spSize, eng := eng })

/-- Replaces the physical slots that commands name. -/
def remapTile (f : Nat → Nat) (c : TileCmd) : TileCmd :=
  match c.op with
  | .mma a b z w => { c with op := .mma (f a) (f b) z w }
  | _ => c

def remapChannel (f : Nat → Nat) (q : ShQueue) : ShQueue :=
  { q with cmds := q.cmds.map (fun c => { c with phys := c.phys.map f }) }

/-- Step 2 of R248: the slots that the focused context held take the physical slots that `m` gives for its old ones. A name's bytes come from the
area, those of a slot that drains from what was kept (log 54); a fill in progress counts again. -/
def restoreSlots (s : State) (m : List (Nat × Nat)) : State :=
  let x := s.ctx
  let base := areaOf s x.cid
  let s1 := s.cleanRange base (2 ^ 21)
  let f := fun (p : Nat) => (tabGet p m).getD 48
  let sh0 := remapChannel f x.eng.sh0
  let sh1 := remapChannel f x.eng.sh1
  let fills := fun (p : Nat) => ((sh0.cmds ++ sh1.cmds).filter (fun c => c.phys == some p && !c.finished)).map (·.issued)
  let q := s.quad x.quadId
  let names := readNames s1 x
  let slots := x.eng.kept.foldl (fun v (p, o) =>
    let named := names.find? (fun n => n.2 == p)
    vset v (f p) { o with
      holder := some x.cid, fills := fills (f p),
      bytes := match named with
        | some (n, _) => copyBetween s1.mem .empty (base + slotOffset n) 0 6208
        | none => o.bytes }) q.slots
  (s.setQuad x.quadId { q with slots := slots }).modEng (fun e =>
    { e with names := names.map (fun n => (n.1, f n.2)), sh0 := sh0, sh1 := sh1, held := e.held.map (remapTile f),
             kept := e.kept.map (fun o => (f o.1, o.2)) })

/-- The FREE physical slots that take the place of those that the focused context held. -/
def newSlots (s : State) : List (Nat × Nat) :=
  let q := myQuad s
  let free := (List.range 48).filter (fun p => (vget q.slots p .reset).free)
  (s.ctx.eng.kept.map (·.1)).zip free

/-- The slots of a context that resumes in place. -/
def sameSlots (s : State) : List (Nat × Nat) := s.ctx.eng.kept.map (fun o => (o.1, o.1))

/-- R215: the focused context takes its pseudo-channel again. -/
def retakeHold (s : State) : State :=
  match s.ctx.eng.hold with
  | none => s
  | some ch => { s with holds := { channel := ch, cid := s.ctx.cid } :: s.holds }

/-- What keeps a context from resuming: writes that it passed on (R489), a pseudo-channel that another holds (R215), or one on which its area lies
(R211). -/
def resumeWaits (s : State) (x : Ctx) : Bool :=
  (List.range 4).any (fun i => (s.group i).passed.any (fun p => p.1 == x.cid)) ||
    (match x.eng.hold with
     | some ch => s.holds.any (fun h => h.channel == ch)
     | none => false) || areaHeld s x || !s.power.gate

/-- R248: the focused context, in its slot, is ready again; the acquire of R196 comes last. A context saved in a hoop wait
stays out of the ready set, unless a HARRIVE of it waited only for the freeze of R46 to end. -/
def resumeHere (s : State) (slots : List (Nat × Nat)) : State :=
  match s.ctx.stop with
  | none => s
  | some r =>
    let r1 := areaStop s s.ctx r
    let s1 := retakeHold (readArea (restoreSlots s slots) r1)
    let s2 := s1.modEng (fun e => { e.resume with kept := [] })
    let blocked := !allClusters.any (fun c => (List.range 8).any (fun h => waitsAtHoop s2 c h && !(hoopRec s2.ctx h).armed))
    let life := fun (x : Ctx) =>
      if x.cl.activeBits = 0 ∧ !x.sr.handler then Life.retiring
      else if r.hoopWait ∧ blocked then .hoopWait else .ready
    (s2.modCtx (fun x => { x with life := life x, preempt := none, stop := none, entry := .resumed })).selfInvalidate

/-- What a saved gang asks for (R47, R125, R136). -/
def resumeDemand (s : State) (g : Gang) (xs : List Ctx) : Demand :=
  let t := fun (x : Ctx) => x.sr.taskid.toNat
  { demandOf s g with
    slots := xs.map (fun x => (t x, x.eng.kept.length)), freeOps := freeOpsOf s,
    anchors := (xs.filter (anchored s)).map (fun x => (t x, x.quadId)),
    absent := (List.range g.size).filter (fun k => !xs.any (fun x => t x == k)) }

/-- Moves a saved context to the seat that its task takes. -/
def reseat (p : Seating) (x : Ctx) : Ctx :=
  match p.seats.find? (fun w => w.1 == x.sr.taskid.toNat) with
  | some (_, core, slot) =>
    { x with die := core / 112, quad := core / 4 % 28, core := core % 4, slot := slot, running := false, served := 0 }
  | none => x

/-- R215: a context whose pseudo-channel another task of its gang has just taken again waits in its slot for the end of that hold. -/
def resumeSeated (s : State) : State :=
  if resumeWaits s s.ctx then (restoreSlots s (newSlots s)).modCtx (fun x => { x with life := .stopped, preempt := none })
  else resumeHere s (newSlots s)

/-- A saved gang is placed again, all or nothing (R47), and its hoops count arrivals again. Retired tasks take no seat. Its tasks fetch the code
bytes of their first placement (log 96: R52 does not say). -/
def resumeGang (s : State) (g : Gang) (xs : List Ctx) (p : Seating) : State :=
  let s1 := s.setGang { g with placed := true, saved := false, frozen := false }
  let s2 := { s1.mapCtxs (fun x => if x.gang = g.id ∧ x.life = .saved then reseat p x else x) with
    ended := s.ended.filter (fun y => !p.seats.any (fun w => w.2.1 == y.coreId && w.2.2 == y.slot)) }
  (xs.map (·.cid)).foldl (fun t cid => t.onCtx cid resumeSeated) s2

/-- The effective priority of a gang: that of its queue, and 7 of a replay (R279). -/
def gangPriority (s : State) (g : Gang) : Nat :=
  if g.replay.isSome then 7 else ((slotOfQueue s g.qid).map (·.2.eff)).getD (readDesc s g.qid).prio

/-- R34: whether a reserving gang of at least a priority bars a placement. -/
def barsPlacement (s : State) (prio : Nat) : Bool := s.tamb.slots.any (fun p => p.2.reserving && decide (prio ≤ p.2.eff))

/-- CONTEXT_RESUMPTION (R248): of a stopped context in place, or of the saved gang of a context, unless a reserving gang bars it (R34). -/
def execContextResumption (cid : Nat) (s : State) : Result :=
  match s.ctxOf cid with
  | none => notNow s
  | some x =>
    let bad := fun (y : Ctx) => match y.stop with
      | some r => !stopRecordOk y (areaStop s y r)
      | none => false
    if x.life = .stopped then
      if resumeWaits s x then notNow s
      else if bad x then happens (s.irqLeader irqContext)
      else happens (s.onCtx cid (fun u => resumeHere u (sameSlots u)))
    else
      match s.gangOf x.gang with
      | none => notNow s
      | some g =>
        let xs := (allCtxs s).filter (fun y => y.gang == g.id && y.life == .saved)
        if !g.saved || g.terminated || xs.any (resumeWaits s) || barsPlacement s (gangPriority s g) then notNow s
        else if xs.any bad then happens (s.irqLeader irqContext)
        else
          match seatGang (resumeDemand s g xs) (seatingNow s) with
          | none => notNow s
          | some p =>
            let quads := p.seats.map (fun w => w.2.1 / 4)
            let t := settleLate s quads
            if lateIn t quads then notNow s else happens (resumeGang t g xs p)

/-- ACCEVICT (R136): the spill starts at once, or once every command accepted on the context's tiles has executed. -/
def execAccevict (hart : Nat) (quad : Nat) (v : BitVec 64) (s : State) : Result :=
  dieWrite s hart (quad / 28) (fun s => accevictWrite s quad (bits64 v 0 16))

end Sys2Proof.Machine
end

