-- ==== Sys2Proof/Machine/Crypto.lean ====
section
/-! DEFINITION. The published functions that the spec names: SHA-384 (R291, R292, R297, R298), AES-256 with its CMAC of one block (R288,
RFC 4493) and its key unwrapping (R295, AES-KW). -/

namespace Sys2Proof.Machine

/-! ## SHA-384 -/

/-- The number whose big-endian bytes are given. -/
def beNat (bs : List Byte) : Nat := bs.foldl (fun n b => 256 * n + b.toNat) 0

/-- The `n` big-endian bytes of a number. -/
def beBytes (v n : Nat) : List Byte := (natBytes v n).reverse

/-- The eight working words. -/
structure Sha where
  a : W64
  b : W64
  c : W64
  d : W64
  e : W64
  f : W64
  g : W64
  h : W64
  deriving DecidableEq, Repr

def shaStart : Sha :=
  ⟨0xCBBB9D5DC1059ED8, 0x629A292A367CD507, 0x9159015A3070DD17, 0x152FECD8F70E5939,
   0x67332667FFC00B31, 0x8EB44A8768581511, 0xDB0C2E0D64F98FA7, 0x47B5481DBEFA4FA4⟩

def shaConstants : List W64 :=
  [0x428A2F98D728AE22, 0x7137449123EF65CD, 0xB5C0FBCFEC4D3B2F, 0xE9B5DBA58189DBBC,
   0x3956C25BF348B538, 0x59F111F1B605D019, 0x923F82A4AF194F9B, 0xAB1C5ED5DA6D8118,
   0xD807AA98A3030242, 0x12835B0145706FBE, 0x243185BE4EE4B28C, 0x550C7DC3D5FFB4E2,
   0x72BE5D74F27B896F, 0x80DEB1FE3B1696B1, 0x9BDC06A725C71235, 0xC19BF174CF692694,
   0xE49B69C19EF14AD2, 0xEFBE4786384F25E3, 0x0FC19DC68B8CD5B5, 0x240CA1CC77AC9C65] ++
  [0x2DE92C6F592B0275, 0x4A7484AA6EA6E483, 0x5CB0A9DCBD41FBD4, 0x76F988DA831153B5,
   0x983E5152EE66DFAB, 0xA831C66D2DB43210, 0xB00327C898FB213F, 0xBF597FC7BEEF0EE4,
   0xC6E00BF33DA88FC2, 0xD5A79147930AA725, 0x06CA6351E003826F, 0x142929670A0E6E70,
   0x27B70A8546D22FFC, 0x2E1B21385C26C926, 0x4D2C6DFC5AC42AED, 0x53380D139D95B3DF,
   0x650A73548BAF63DE, 0x766A0ABB3C77B2A8, 0x81C2C92E47EDAEE6, 0x92722C851482353B] ++
  [0xA2BFE8A14CF10364, 0xA81A664BBC423001, 0xC24B8B70D0F89791, 0xC76C51A30654BE30,
   0xD192E819D6EF5218, 0xD69906245565A910, 0xF40E35855771202A, 0x106AA07032BBD1B8,
   0x19A4C116B8D2D0C8, 0x1E376C085141AB53, 0x2748774CDF8EEB99, 0x34B0BCB5E19B48A8,
   0x391C0CB3C5C95A63, 0x4ED8AA4AE3418ACB, 0x5B9CCA4F7763E373, 0x682E6FF3D6B2B8A3,
   0x748F82EE5DEFB2FC, 0x78A5636F43172F60, 0x84C87814A1F0AB72, 0x8CC702081A6439EC] ++
  [0x90BEFFFA23631E28, 0xA4506CEBDE82BDE9, 0xBEF9A3F7B2C67915, 0xC67178F2E372532B,
   0xCA273ECEEA26619C, 0xD186B8C721C0C207, 0xEADA7DD6CDE0EB1E, 0xF57D4F7FEE6ED178,
   0x06F067AA72176FBA, 0x0A637DC5A2C898A6, 0x113F9804BEF90DAE, 0x1B710B35131C471B,
   0x28DB77F523047D84, 0x32CAAB7B40C72493, 0x3C9EBE0A15C9BEBC, 0x431D67C49C100D4C,
   0x4CC5D4BECB3E42B6, 0x597F299CFC657E2A, 0x5FCB6FAB3AD6FAEC, 0x6C44198C4A475817]

def ror (x : W64) (n : Nat) : W64 := (x >>> n) ||| (x <<< (64 - n))

/-- The rounds over the constants that are left; `win` holds the next sixteen words of the schedule. -/
def shaRounds : List W64 → List W64 → Sha → Sha
  | [], _, s => s
  | k :: ks, win, s =>
    let w := win.getD 0 0
    let x := win.getD 1 0
    let y := win.getD 14 0
    let next := (ror y 19 ^^^ ror y 61 ^^^ (y >>> 6)) + win.getD 9 0 + (ror x 1 ^^^ ror x 8 ^^^ (x >>> 7)) + w
    let t1 := s.h + (ror s.e 14 ^^^ ror s.e 18 ^^^ ror s.e 41) + ((s.e &&& s.f) ^^^ (~~~s.e &&& s.g)) + k + w
    let t2 := (ror s.a 28 ^^^ ror s.a 34 ^^^ ror s.a 39) + ((s.a &&& s.b) ^^^ (s.a &&& s.c) ^^^ (s.b &&& s.c))
    shaRounds ks (win.tail ++ [next]) ⟨t1 + t2, s.a, s.b, s.c, s.d + t1, s.e, s.f, s.g⟩

/-- The words of a 128-byte block. -/
def shaWords (bs : List Byte) : List W64 := (List.range 16).map (fun i => BitVec.ofNat 64 (beNat ((bs.drop (8 * i)).take 8)))

def shaBlock (s : Sha) (bs : List Byte) : Sha :=
  let t := shaRounds shaConstants (shaWords bs) s
  ⟨s.a + t.a, s.b + t.b, s.c + t.c, s.d + t.d, s.e + t.e, s.f + t.f, s.g + t.g, s.h + t.h⟩

/-- The first `n` blocks of some bytes. -/
def shaBlocks (s : Sha) : Nat → List Byte → Sha
  | 0, _ => s
  | n + 1, bs => shaBlocks (shaBlock s (bs.take 128)) n (bs.drop 128)

/-- The digest of a message, its first byte in the lowest bits. -/
def sha384 (message : List Byte) : BitVec 384 :=
  let n := message.length
  let blocks := (n + 17 + 127) / 128
  let padded := message ++ [0x80] ++ List.replicate (blocks * 128 - n - 17) 0 ++ beBytes (8 * n) 16
  let s := shaBlocks shaStart blocks padded
  BitVec.ofNat 384 (leNat ([s.a, s.b, s.c, s.d, s.e, s.f].flatMap (fun w => beBytes w.toNat 8)))

/-- The identity digest of the device: the SHA-384 digest of its identity public keys (R293, Table 15.6). -/
def identityDigest : BitVec 384 := sha384 Config.identityKeys

/-! ## AES-256 -/

/-- The product in GF(2^8) modulo 0x11B. -/
def aesMul (a b : Byte) : Byte :=
  ((List.range 8).foldl (fun (acc : Byte × Byte) i =>
    (if b.getLsbD i then acc.1 ^^^ acc.2 else acc.1, (acc.2 <<< 1) ^^^ (if acc.2.getLsbD 7 then 0x1B else 0))) (0, a)).1

/-- The inverse: the 254th power. -/
def aesInv (a : Byte) : Byte :=
  ((List.range 7).foldl (fun (acc : Byte × Byte) _ =>
    let q := aesMul acc.2 acc.2
    (aesMul acc.1 q, q)) (1, a)).1

def aesSub (a : Byte) : Byte :=
  let i := aesInv a
  i ^^^ i.rotateLeft 1 ^^^ i.rotateLeft 2 ^^^ i.rotateLeft 3 ^^^ i.rotateLeft 4 ^^^ 0x63

def aesUnsub (a : Byte) : Byte := aesInv (a.rotateLeft 1 ^^^ a.rotateLeft 3 ^^^ a.rotateLeft 6 ^^^ 0x05)

def xorBytes (a b : List Byte) : List Byte := (a.zip b).map (fun p => p.1 ^^^ p.2)

/-- A block whose byte `r + 4 c` comes from row `r` of column `c + step * r`. -/
def aesShift (step : Nat) (x : List Byte) : List Byte :=
  (List.range 16).map (fun i => x.getD (i % 4 + 4 * ((i / 4 + step * (i % 4)) % 4)) 0)

/-- Each column times a circulant matrix. -/
def aesMix (m : List Byte) (x : List Byte) : List Byte :=
  (List.range 16).map (fun i =>
    (List.range 4).foldl (fun acc k => acc ^^^ aesMul (m.getD ((k + 4 - i % 4) % 4) 0) (x.getD (i / 4 * 4 + k) 0)) 0)

/-- The key schedule: word `i` from the words before it, which are listed last first. -/
def aesExpand (ws : List (List Byte)) (rcon : Byte) (i : Nat) : Nat → List (List Byte)
  | 0 => ws
  | n + 1 =>
    let p := ws.getD 0 []
    let t := if i % 8 = 0 then xorBytes ((p.drop 1 ++ p.take 1).map aesSub) [rcon, 0, 0, 0]
      else if i % 8 = 4 then p.map aesSub else p
    aesExpand (xorBytes (ws.getD 7 []) t :: ws) (if i % 8 = 0 then aesMul 2 rcon else rcon) (i + 1) n

/-- The fifteen round keys of a 32-byte key. -/
def aesKeys (key : List Byte) : List (List Byte) :=
  let ws := aesExpand ((List.range 8).map (fun i => (key.drop (4 * i)).take 4)).reverse 1 8 52
  (List.range 15).map (fun r => ((ws.reverse.drop (4 * r)).take 4).flatten)

def aesEncrypt (key x : List Byte) : List Byte :=
  match aesKeys key with
  | k0 :: ks =>
    let last := ks.getLast?.getD []
    let y := ks.dropLast.foldl (fun b k => xorBytes (aesMix [2, 3, 1, 1] (aesShift 1 (b.map aesSub))) k) (xorBytes x k0)
    xorBytes (aesShift 1 (y.map aesSub)) last
  | [] => x

def aesDecrypt (key x : List Byte) : List Byte :=
  match (aesKeys key).reverse with
  | k0 :: ks =>
    let last := ks.getLast?.getD []
    let y := ks.dropLast.foldl (fun b k => aesMix [14, 11, 13, 9] (xorBytes ((aesShift 3 b).map aesUnsub) k)) (xorBytes x k0)
    xorBytes ((aesShift 3 y).map aesUnsub) last
  | [] => x

/-- R288: the first 8 bytes, as a little-endian number, of the CMAC of a 16-byte message. -/
def cmac (key : BitVec 256) (message : List Byte) : W64 :=
  let k := natBytes key.toNat 32
  let l := beNat (aesEncrypt k (List.replicate 16 0))
  let k1 := BitVec.ofNat 128 (2 * l) ^^^ (if 2 ^ 127 ≤ l then 0x87 else 0)
  BitVec.ofNat 64 (leNat ((aesEncrypt k (xorBytes message (beBytes k1.toNat 16))).take 8))

/-- The steps of AES-KW unwrapping, from step `t` down, over `n` blocks of 8 bytes. -/
def unwrapSteps (key : List Byte) (n : Nat) : Nat → List Byte × List (List Byte) → List Byte × List (List Byte)
  | 0, r => r
  | t + 1, (a, rs) =>
    let i := t % n
    let b := aesDecrypt key (xorBytes a (beBytes (t + 1) 8) ++ rs.getD i [])
    unwrapSteps key n t (b.take 8, listSet rs i (b.drop 8))

/-- R295: the key bytes of a wrapped blob, if it unwraps. -/
def unwrapKey (key : BitVec 256) (blob : List Byte) : Option (List Byte) :=
  let n := blob.length / 8 - 1
  let blocks := (List.range n).map (fun i => (blob.drop (8 * (i + 1))).take 8)
  let (a, rs) := unwrapSteps (natBytes key.toNat 32) n (6 * n) (blob.take 8, blocks)
  if a = List.replicate 8 0xA6 then some rs.flatten else none

end Sys2Proof.Machine
end

