-- ==== Sys2Proof/Machine/Tambour.lean ====
section
/-! DEFINITION. Software queues and the Tambour (chapter 11): SIGNAL and ENQ with the queue engine (R234, R235, R339, R404), notifies
(R218, R288 to R290), mapping (R225, R227), decisions (R228, R229), and the packets (R217 to R224, R230 to R233). -/

namespace Sys2Proof.Machine

/-! ## Queue descriptors (Table 11.1) -/

def State.setHwSlot (s : State) (k : Nat) (h : HwSlot) : State :=
  { s with tamb := { s.tamb with slots := tabSet k h s.tamb.slots } }

/-- ERRCNT counts, saturating. -/
def State.countQueueError (s : State) (qid : Nat) : State :=
  let a := descAddr s qid + 26
  s.putLocal a 1 (min 0xFF (s.getLocal a 1 + 1))

/-- WIDX takes a value, and the queue wakes (R218, R227). -/
def State.wakeQueue (s : State) (qid : Nat) (w : W32) : State :=
  match slotOfQueue s qid with
  | some (k, h) => s.setHwSlot k { h with widx := w }
  | none => (s.putLocal (descAddr s qid + 20) 4 w.toNat).postWake qid

/-- R218: a notify of write index `w`. -/
def notify (s : State) (qid : Nat) (w : W32) : State :=
  let d := readDesc s qid
  let (widx, ridx) := queueIndices s qid
  if !d.en || d.devenq then s.countQueueError qid
  else if decide (0 < (w - widx).toInt) && decide ((w - ridx).toNat ≤ 2 ^ d.sizelg) then s.wakeQueue qid w
  else s.countQueueError qid

/-- QNOTIFY (R218). -/
def execQnotify (hart : Nat) (v : BitVec 64) (s : State) : Result :=
  gated s (leaderWrite s hart (fun s => notify s (bits64 v 32 16) (v.setWidth 32)))

/-! ## Remote notifies (R288 to R290) -/

/-- The entry of a pair: its counter and whether it is quarantined. -/
def notifyPair (s : State) (q p : W16) : Option (Nat × Bool) :=
  (s.tamb.pairs.find? (fun x => x.1 == q && x.2.1 == p)).map (fun x => x.2.2)

/-- Puts a pair's entry at the front, as the most recently used; of 1,024 entries the least recently used that is not
quarantined makes room. A pair that finds all quarantined is remembered beside them (log 59). -/
def State.setPair (s : State) (q p : W16) (n : Nat) (quar : Bool) : State :=
  let rest := s.tamb.pairs.filter (fun x => x.1 != q || x.2.1 != p)
  let room := if rest.length < 1024 then rest
    else match rest.reverse.find? (fun x => !x.2.2.2) with
      | some y => rest.erase y
      | none => rest
  { s with tamb := { s.tamb with pairs := (q, p, n, quar) :: room } }

/-- A bad notify counts (R289); the eighth in a row quarantines the pair and interrupts the leader (R290). -/
def badNotify (s : State) (q p : W16) : State :=
  let n := ((notifyPair s q p).map (·.1)).getD 0 + 1
  let s1 := (s.countQueueError q.toNat).setPair q p n (decide (8 ≤ n))
  if 8 ≤ n then s1.irqLeader irqQuarantine else s1

/-- SEQ of a queue (R289). -/
def queueSeq (s : State) (qid : Nat) : W32 :=
  match slotOfQueue s qid with
  | some (_, h) => h.seq
  | none => BitVec.ofNat 32 (s.getLocal (descAddr s qid + 28) 4)

def State.setQueueSeq (s : State) (qid : Nat) (v : W32) : State :=
  match slotOfQueue s qid with
  | some (k, h) => s.setHwSlot k { h with seq := v }
  | none => s.putLocal (descAddr s qid + 28) 4 v.toNat

/-- A remote notify (Tables 15.3 and 15.4) from a fabric source. -/
def remoteNotify (s : State) (src : W16) (msg : BitVec 192) : State :=
  let q : W16 := msg.setWidth 16
  let p : W16 := BitVec.ofNat 16 (msg.toNat / 2 ^ 16)
  let w : W32 := BitVec.ofNat 32 (msg.toNat / 2 ^ 32)
  let seq : W32 := BitVec.ofNat 32 (msg.toNat / 2 ^ 64)
  let tag : W64 := BitVec.ofNat 64 (msg.toNat / 2 ^ 128)
  let d := readDesc s q.toNat
  let key := tabGet d.key s.hub.notifyKeys
  let entry := notifyPair s q p
  let full := decide (1024 ≤ s.tamb.pairs.length) && s.tamb.pairs.all (fun x => x.2.2.2)
  if (entry.map (·.2)).getD false then s.countQueueError q.toNat
  else if entry.isNone && full then ((s.countQueueError q.toNat).setPair q p 0 true).irqLeader irqQuarantine
  else if !d.en || !d.remote || !((key.map (·.loaded)).getD false) then s.countQueueError q.toNat
  else if msg.toNat / 2 ^ 96 % 2 ^ 32 != 0 || p != src then badNotify s q p
  else if tag != cmac ((key.map (·.value)).getD 0) (natBytes (msg.toNat % 2 ^ 128) 16) then badNotify s q p
  else if decide ((seq - queueSeq s q.toNat).toInt ≤ 0) then badNotify s q p
  else
    let s1 := if entry.isSome then s.setPair q p 0 false else s
    notify (s1.setQueueSeq q.toNat seq) q.toNat w

/-- REMOTE_NOTIFY (R289); it travels over a UALink or Ultra Ethernet port whose keys are established (R300). -/
def execRemoteNotify (src : BitVec 16) (msg : BitVec 192) (s : State) : Result :=
  if portOpen s 0 22 then gated s (happens (remoteNotify s src msg)) else notNow s

/-- NQCLR (R290): the leader clears a pair's quarantine and counter. -/
def execNqclr (hart : Nat) (qid peer : BitVec 16) (s : State) : Result :=
  leaderWrite s hart (fun s =>
    { s with tamb := { s.tamb with pairs := s.tamb.pairs.map (fun x =>
        if x.1 = qid ∧ x.2.1 = peer then (x.1, x.2.1, 0, false) else x) } })

/-! ## Mapping (R225, R227, Table 11.6) -/

/-- A command is accepted: its fields, and BUSY; STS shows its result once BUSY clears (R225). -/
def qmapResult (s : State) (v : W64) (sts : Nat) : State :=
  { s with hub := { s.hub with
      qmapcmd := (v &&& 0x0C0001FF0000FFFF) ||| (s.hub.qmapcmd &&& 0x7000000000000000) ||| 0x8000000000000000,
      qmapDue := some sts } }

/-- BUSY of QMAPCMD clears, and STS shows the result. -/
def settleQmap (s : State) : State :=
  match s.hub.qmapDue with
  | some sts => { s with hub := { s.hub with
      qmapcmd := (s.hub.qmapcmd &&& 0x0C0001FF0000FFFF) ||| BitVec.ofNat 64 (sts * 2 ^ 60), qmapDue := none } }
  | none => s

/-- Maps a queue to a slot. The time that a gang has waited at its head goes on (R34). -/
def mapQueue (s : State) (k qid : Nat) (d : Desc) : State :=
  let a := descAddr s qid
  let h : HwSlot :=
    { qid := qid, asid := d.asid, ring := d.ring, sizelg := d.sizelg, prio := d.prio, eff := d.prio,
      widx := BitVec.ofNat 32 (s.getLocal (a + 20) 4), ridx := BitVec.ofNat 32 (s.getLocal (a + 16) 4),
      seq := BitVec.ofNat 32 (s.getLocal (a + 28) 4), devenq := d.devenq, remote := d.remote, key := d.key,
      hold := d.hold, waitsig := none, fault := none, aging := 0, headWait := (tabGet qid s.tamb.waited).getD 0,
      reserving := false, valid := none }
  let s1 := s.putLocal (a + 24) 1 (s.getLocal (a + 24) 1 / 8 * 8 + 1)
  let s2 := s1.setHwSlot k h
  { s2 with tamb := { s2.tamb with sleepers := s2.tamb.sleepers.filter (fun x => x.1 != qid), waited := tabDel qid s2.tamb.waited } }

/-! ## SIGNAL and ENQ (R234, R235, R339, R404) -/

/-- SIGNAL (R234, R404). -/
def execSignal (st : Bool) (ra rb : BitVec 5) (s : State) : Result :=
  issue (.signal st ra rb) (fun s c =>
    let a := rd s c ra
    let v := rd s c rb
    if a.toNat % 8 ≠ 0 then .trap 0x05 a
    else
      withElems s .write [a] (fun s1 es =>
        if !s.tamb.signals.any (fun p => p.1 == s.ctx.asid && p.2 == va57 a / 4096) then .trap 0x07 a
        else
          .go (s1.enqueue
            { num := 0, loadQ := true, issuer := c, kind := .signal, elems := es, size := 8, data := ofW64 v, cls := none,
              ord := 2, scope := 4, seen := false }))) s

/-- ENQ (R235, R339). -/
def execEnq (st : Bool) (ra rb rc : BitVec 5) (s : State) : Result :=
  issue (.enq st ra rb rc) (fun s c =>
    let aq := rd s c ra
    let ap := rd s c rb
    let aw := rd s c rc
    whenRoom s 7
      (if wmHolds s.ctx ap.toNat 64 then .wait .watermark
       else
         faultsThen
           [(bits64 aq 16 48 != 0, 0x01, aq), (ap.toNat % 64 ≠ 0, 0x05, ap), (aw.toNat % 8 ≠ 0, 0x05, aw),
            (spOut s.ctx ap.toNat 64, 0x08, ap), earlyFault s.ctx ap.toNat 64]
           (let w := encode (.enq st ra rb rc)
            let cmd := { engCmd s w aq ap aw with packet := BitVec.ofNat 512 (s.ctx.spLoad ap.toNat 64) }
            .go (enterQueue s c 7 w [aq, ap, aw] cmd)))) s

/-- An ENQ takes effect in the focused context (R235); it waits while its queue is full. -/
def runEnq (s : State) (c : EngCmd) : State × Bool :=
  let qid := bits64 c.ra 0 16
  let d := readDesc s qid
  let (widx, ridx) := queueIndices s qid
  let done := fun (t : State) (err : Option (BitVec 6)) =>
    completeHead t 7 .A (completionUpdates c.rc err false c.idx none)
  if !d.en || !d.devenq || d.asid != s.ctx.asid then (done s (some 0x07), true)
  else if 2 ^ d.sizelg ≤ (widx - ridx).toNat then (s, false)
  else
    let va := d.ring + BitVec.ofNat 64 (widx.toNat % 2 ^ d.sizelg * 64)
    if walkHeld s s.ctx.coreId d.asid va then (s, false)
    else
    match translate s s.ctx.coreId d.asid .write va with
    | .error e =>
      (stopQueue (s.noteWalk s.ctx.coreId d.asid va) 7
        { arose := s.now, cause := BitVec.ofNat 6 e, tval := va, clu := .A, eng := 7, idx := c.idx, estw := estw e 0 }, true)
    | .ok t =>
      let e := elemOf s va t
      if writeWaits s e 64 then (s, false)
      else
        let s1 := (s.remember t).agentWrite e (natBytes c.packet.toNat 64)
        (done (s1.wakeQueue qid (widx + 1)) none, true)

/-- QUEUE_ENGINE_EXECUTION (R235). -/
def execQueueEngineExecution (cid : Nat) (s : State) : Result :=
  queueEvent cid 7 .A s (fun t c => if t.ctx.releasedTo c.after then runEnq t c else (t, false))

/-! ## The head of a queue (R217, R223, R226, R232) -/

/-- Whether the Tambour serves queues (R291, R304, R305). -/
def tambourRuns (s : State) : Bool := s.power.on && s.power.gate && !s.power.recovery

/-- Whether an access of the hub die under an address space faults in translation; while its walk waits, it does not yet. -/
def hubFaults (s : State) (asid : W16) (need : Need) (va : W64) : Bool :=
  !walkHeld s hubCache asid va &&
    match translate s hubCache asid need va with
    | .error _ => true
    | .ok _ => false

/-- The element of an access of the hub die, once its walk and its die-cache lines are to be had (R161, R211). -/
def hubElem (s : State) (asid : W16) (need : Need) (va : W64) (n : Nat) : Option (Elem × TlbEntry) :=
  if walkHeld s hubCache asid va then none
  else
    match translate s hubCache asid need va with
    | .error _ => none
    | .ok t => if heldAway (asHub s) (elemOf s va t) n then none else some (elemOf s va t, t)

/-- A read of the hub die under an address space: the bytes, an abort giving ones, and what the read leaves behind; none when it faults or
waits. -/
def hubRead (s : State) (asid : W16) (va : W64) (n : Nat) : Option (State × List Byte) :=
  (hubElem s asid .read va n).map (fun p =>
    let (s1, bs) := (s.remember p.2).homeRead { Requester.nobody with asid := asid.toNat } p.1 p.1.pa n
    (s1, bs.getD (abortBytes n)))

def headVa (h : HwSlot) : W64 := h.ring + BitVec.ofNat 64 (h.ridx.toNat % 2 ^ h.sizelg * 64)

/-- The packet at the head of a mapped queue; none when its read faults in translation or waits. -/
def headPacket (s : State) (h : HwSlot) : Option (BitVec 512) :=
  (hubRead s h.asid (headVa h) 64).map (fun r => BitVec.ofNat 512 (leNat r.2))

/-- R223, R224: the code with which a packet other than a LAUNCH is rejected. -/
def badPacket (p : BitVec 512) : Option Nat :=
  let w := pkWord p 0
  let zeros := fun (from' : Nat) => (List.range 8).any (fun i => decide (from' ≤ i) && pkWord p i != 0)
  match pkType p with
  | 0 => if bits64 w 9 55 != 0 || zeros 1 then some 2 else none
  | 1 => none
  | 2 =>
    if bits64 w 11 53 != 0 || zeros 3 || bits64 w 9 2 == 3 then some 2
    else if (pkWord p 1).toNat % 8 ≠ 0 then some 5 else none
  | 3 => if bits64 w 10 54 != 0 || zeros 3 then some 2 else if (pkWord p 1).toNat % 8 ≠ 0 then some 5 else none
  | 4 => if bits64 w 11 5 != 0 || bits64 w 24 40 != 0 || zeros 2 || bits64 w 9 2 == 0 then some 2 else none
  | _ => some 1

/-- Whether a read of the 8 bytes at an address aborts: an error withholds them, or their package does not answer (R272, R301). -/
def lostAt (s : State) (asid : W16) (need : Need) (va : W64) : Bool :=
  match translate s hubCache asid need va with
  | .error _ => false
  | .ok t => if pteRMT t.pte then !linkUp s else hitsLost s (localPart (physOf s t va)) 8

/-- The input list of a LAUNCH (Table 11.2), as validation reads it; a read that aborts cannot be read. -/
def readInputs (s : State) (asid : W16) (a : W64) : Nat → Option (List (W64 × W64))
  | 0 => some []
  | n + 1 =>
    if lostAt s asid .read a || lostAt s asid .read (a + 8) then none
    else
      match hubRead s asid a 8, hubRead s asid (a + 8) 8, readInputs s asid (a + 16) n with
      | some (_, x), some (_, y), some rest => some ((BitVec.ofNat 64 (leNat x), BitVec.ofNat 64 (leNat y)) :: rest)
      | _, _, _ => none

/-- R221: the first code of Table 11.3 that applies to a LAUNCH, or its input list. -/
def checkLaunch (s : State) (asid : W16) (p : BitVec 512) : Except Nat (List (W64 × W64)) :=
  let cap := pkCap48 p
  let size : Nat := if cap then 0x80000 else 0x40000
  let used := (List.range 8).map (pkScope p)
  if bits64 (pkWord p 0) 9 7 ≠ 0 ∨ bits64 (pkWord p 3) 31 9 ≠ 0 then .error 2
  else if (if cap then 672 else 1344) < pkGang p ∨ (cap = true ∧ pkQG p = 8) ∨ pkDG p < pkQG p ∨ pkDG p % pkQG p ≠ 0 ∨
      (if cap then 112 else 224) < pkDG p then .error 3
  else if used.any (fun x => decide (4 < x)) || decide (20 < pkAudq p) || decide (size < 256 * pkVstk p) ||
      decide (size < pkSp p) then .error 4
  else if pkEntry p == 0 || (pkEntry p).toNat % 8 != 0 || (pkHentry p == 0 && pkDeleg p != 0) ||
      (pkStatus p).toNat % 8 != 0 || (pkInlen p != 0 && (pkInlist p).toNat % 8 != 0) then .error 5
  else
    match readEntry s 0 asid (pkEntry p), readInputs s asid (pkInlist p) (pkInlen p) with
    | some (streams, _), some inputs =>
      if streams.all (· == 0) then .error 6
      else if (List.range 8).any (fun h => pkScope p h == 4 && (tabGet ((pkPodh p + h) % 256) s.hub.podHoops).isNone) then
        .error 7
      else if fitsEmpty p then .ok inputs else .error 8
    | _, _ => .error 6

/-- The words that the validation of a LAUNCH reads, but for the constant block. -/
def launchReads (p : BitVec 512) : List (Need × W64) :=
  (List.range 5).map (fun i => (Need.exec, pkEntry p + BitVec.ofNat 64 (8 * i))) ++
    (List.range (2 * pkInlen p)).map (fun i => (Need.read, pkInlist p + BitVec.ofNat 64 (8 * i)))

/-- Whether validation waits for pseudo-channels in all-bank mode (R211), or for another package (R301). -/
def launchWaits (s : State) (asid : W16) (p : BitVec 512) : Bool :=
  (!s.holds.isEmpty || !linkUp s) && (launchReads p).any (fun r => walkHeld s hubCache asid r.2 ||
    match translate s hubCache asid r.1 r.2 with
    | .error _ => false
    | .ok t => r.1 == .read && heldAway (asHub s) (elemOf s r.2 t) 8)

/-- The report of the first line that an error withholds from validation (R272). -/
def reportLaunch (s : State) (asid : W16) (p : BitVec 512) : State :=
  match (launchReads p).find? (fun r => lostAt s asid r.1 r.2) with
  | none => s
  | some r =>
    match translate s hubCache asid r.1 r.2 with
    | .error _ => s
    | .ok t => if pteRMT t.pte then s else s.meetLost { Requester.nobody with asid := asid.toNat } (elemOf s r.2 t) (elemOf s r.2 t).pa 8

/-- R224: a packet with BAR waits until every gang launched earlier from its queue has retired. -/
def barWaits (s : State) (h : HwSlot) (p : BitVec 512) : Bool :=
  pkBar p && s.tamb.gangs.any (fun g => g.qid == h.qid && (g.placed || g.saved) && !g.done)

/-- The fault-hold interval in microseconds. -/
def holdTime (h : HwSlot) : Nat := if h.hold = 0 then 50 else h.hold

/-- R231: the test of a WAITSIG. -/
def signalTest (p : BitVec 512) (v : Nat) : Bool :=
  let want := (pkWord p 2).toNat
  match bits64 (pkWord p 0) 9 2 with
  | 0 => decide (want ≤ v)
  | 1 => v == want
  | _ => v != want

/-- The value of a signal word; none when its read faults in translation or waits. -/
def signalRead (s : State) (asid : W16) (va : W64) : Option Nat := (hubRead s asid va 8).map (fun r => leNat r.2)

/-- R232: whether the access of a head packet of this kind, if it has one, translates. -/
def accessOk (s : State) (h : HwSlot) (p : BitVec 512) : Bool :=
  (badPacket p).isSome ||
    match pkType p with
    | 2 => !hubFaults s h.asid .read (pkWord p 1)
    | 3 => !hubFaults s h.asid .write (pkWord p 1)
    | _ => true

/-- Whether the access that a queue's fault is about, the packet's own or the read of the packet, succeeds now (R232). -/
def faultResolved (s : State) (h : HwSlot) : Bool :=
  match headPacket s h with
  | some p => !h.fault.any (·.1) || accessOk s h p
  | none => false

/-- The head packet of a queue that is ready (R226): it does not wait on BAR or on a signal, and it is not in fault hold (R232). -/
def headReady (s : State) (h : HwSlot) : Option (BitVec 512) :=
  if h.widx = h.ridx ∨ h.waitsig.isSome ∨ !tambourRuns s then none
  else
    match headPacket s h with
    | some p => if barWaits s h p || (h.fault.isSome && !faultResolved s h) then none else some p
    | none => none

/-! ## Unmapping (R227, Table 11.6) -/

/-- The signal word that the WAITSIG at the head of a queue that is being unmapped names (R227, R230): an update of its page wakes the queue,
also where the head was in fault hold, on BAR or about to pass. -/
def sleepsOn (s : State) (h : HwSlot) : Option W64 :=
  if h.waitsig.isSome then h.waitsig
  else if h.widx = h.ridx then none
  else
    (headPacket s h).bind (fun p => if pkType p = 2 ∧ (badPacket p).isNone then some (pkWord p 1) else none)

/-- R227: freeze, drain, save and release, in one step (log 84). The slot's indices go back to the descriptor, and the slot is free. A gang
that waited at the head for its placement is validated again when the queue is mapped again; the time that it has waited is kept (R34), its
reservation lapses (log 84). -/
def unmapQueue (s : State) (k : Nat) (h : HwSlot) (fhold : Bool) : State :=
  let a := descAddr s h.qid
  let s1 := ((s.putLocal (a + 16) 4 h.ridx.toNat).putLocal (a + 20) 4 h.widx.toNat).putLocal (a + 28) 4 h.seq.toNat
  let s2 := s1.putLocal (a + 24) 1 (s1.getLocal (a + 24) 1 / 8 * 8 + 4 * fhold.toNat + s1.getLocal (a + 24) 1 / 2 % 2 * 2)
  let t := s2.tamb
  { s2 with tamb := { t with
      slots := tabDel k t.slots, gangs := t.gangs.filter (fun g => some g.id != h.valid),
      waited := if h.headWait = 0 then tabDel h.qid t.waited else tabSet h.qid h.headWait t.waited,
      sleepers := match sleepsOn s h with
        | some w => (h.qid, h.asid, w) :: t.sleepers
        | none => t.sleepers } }

/-- What the two commands of QMAPCMD share: only the leader writes, and a write with BUSY set is ignored (R225). -/
def qmapWrite (s : State) (hart : Nat) (f : State → State) : Result :=
  leaderWrite s hart (fun s => if s.hub.qmapcmd.getLsbD 63 then s else f s)

/-- QMAPCMD, map (R225). Codes 2 and 3 of OP are ignored. -/
def execQmapcmdMap (hart : Nat) (v : BitVec 64) (s : State) : Result :=
  if bits64 v 58 2 = 1 ∨ !s.power.gate then notNow s
  else
    qmapWrite s hart (fun s =>
      let qid := bits64 v 0 16
      let k := bits64 v 32 9
      let d := readDesc s qid
      if bits64 v 58 2 ≠ 0 then s
      else if (slotOfQueue s qid).isSome then qmapResult s v 1
      else if (tabGet k s.tamb.slots).isSome then qmapResult s v 2
      else if d.bad || !d.en then qmapResult s v 3
      else qmapResult (mapQueue s k qid d) v 0)

/-- QMAPCMD, unmap (R227). -/
def execQmapcmdUnmap (hart : Nat) (v : BitVec 64) (s : State) : Result :=
  if bits64 v 58 2 = 0 ∨ !s.power.gate then notNow s
  else
    qmapWrite s hart (fun s =>
      if bits64 v 58 2 ≠ 1 then s
      else
        match slotOfQueue s (bits64 v 0 16) with
        | some (k, h) => qmapResult (unmapQueue s k h false) v 0
        | none => qmapResult s v 1)

/-! ## Decisions (R34, R228, R229) -/

/-- The gang that waits at a head for its placement. -/
def waitingGang (s : State) (h : HwSlot) : Option Gang := h.valid.bind s.gangOf

/-- R34: whether a reserving gang of at least this priority bars a placement. -/
def barredByReserve (s : State) (k : Nat) (h : HwSlot) : Bool :=
  s.tamb.slots.any (fun p => p.1 != k && p.2.reserving && decide (h.eff ≤ p.2.eff))

/-- The gang that a LAUNCH at the head of a queue describes. -/
def launchGang (s : State) (slot : Nat) (h : HwSlot) (p : BitVec 512) (inputs : List (W64 × W64)) : Gang :=
  { id := s.tamb.nextGang, qslot := slot, qid := h.qid, asid := h.asid, packet := p, inputs := inputs, size := pkGang p,
    placed := false, saved := false, hoops := [], frozen := false, preempt := none, retired := 0, abort := false,
    naborts := 0, terminated := false, done := false, replay := none }

/-- R233: the seats of a gang at a head, if it fits and no reserving gang bars it. -/
def placementFor (s : State) (k : Nat) (h : HwSlot) (g : Gang) : Option (List Seat) :=
  if barredByReserve s k h then none
  else
    match seatGang (demandOf s g) (seatingNow s) with
    | none => none
    | some p =>
      let ids := freeIds s 0xFFFF 0 g.size
      if ids.length < g.size then none else some (seatsOf p ids)

def placementOf (s : State) (k : Nat) (h : HwSlot) : Option (Gang × List Seat) :=
  (waitingGang s h).bind (fun g => (placementFor s k h g).map (fun seats => (g, seats)))

/-- The quads of some seats. -/
def seatQuadIds (seats : List Seat) : List Nat := seats.map (fun w => w.core / 4)

/-- Whether a gang that fits can start now: where its entry record is gone, its status word must be free for the rejection (R35); else the contexts
in its quads must have performed what others may look for (R187). -/
def startable (s : State) (h : HwSlot) (p : BitVec 512) (g : Gang) (seats : List Seat) : Bool :=
  if ((readEntry s g.id g.asid (pkEntry p)).map (fun e => e.1.any (· != 0))).getD false then
    !lateIn (settleLate s (seatQuadIds seats)) (seatQuadIds seats)
  else !statusHeld s h.asid (pkStatus p)

/-- Whether the head of a queue can proceed in this cycle: a LAUNCH that is not yet validated, when it would be rejected or would fit. -/
def proceeds (s : State) (k : Nat) (h : HwSlot) : Bool :=
  match headReady s h with
  | none => false
  | some p =>
    if (badPacket p).isSome then true
    else
      match pkType p with
      | 1 =>
        if h.valid.isSome then (placementOf s k h).any (fun x => startable s h p x.1 x.2)
        else if launchWaits s h.asid p then false
        else
          match checkLaunch s h.asid p with
          | .error _ => !statusHeld s h.asid (pkStatus p)
          | .ok inputs => (placementFor s k h (launchGang s k h p inputs)).isSome
      | 2 => ((signalRead s h.asid (pkWord p 1)).map (signalTest p)).getD false
      | 3 =>
        (match hubElem s h.asid .write (pkWord p 1) 8 with
         | none => false
         | some (e, _) => !heldWrite s e)
      | _ => true

/-- The place of a slot in the cyclic order after a level's last winner (R229). -/
def afterWinner (s : State) (e k : Nat) : Nat := (k + 1023 - vget s.tamb.lastWin e 511) % 512

/-- R229: whether a queue wins the decision of this cycle. -/
def wins (s : State) (k : Nat) (h : HwSlot) : Bool :=
  decide (s.tamb.decided ≤ s.now) && proceeds s k h &&
    !s.tamb.slots.any (fun p => p.1 != k && proceeds s p.1 p.2 &&
      (decide (h.eff < p.2.eff) || (p.2.eff == h.eff && decide (afterWinner s h.eff p.1 < afterWinner s h.eff k))))

/-- The read of the head packet that a decision consumes: its translation is cached, and a line that an error withholds is reported (R272). -/
def noteHead (s : State) (h : HwSlot) : State := ((hubRead s h.asid (headVa h) 64).map (·.1)).getD s

/-- The decision is taken (R228, R229): the head is consumed, and the queue's priority returns to PRIO. -/
def State.consume (s0 : State) (k : Nat) (h : HwSlot) : State :=
  let s := noteHead s0 h
  let s1 := s.setHwSlot k { h with
    ridx := h.ridx + 1, eff := h.prio, aging := 0, headWait := 0, reserving := false, valid := none, waitsig := none,
    fault := none }
  { s1 with tamb := { s1.tamb with lastWin := vset s1.tamb.lastWin h.eff k, decided := s.now + 1 } }

/-- R219: the packet is rejected. -/
def reject (s : State) (k : Nat) (h : HwSlot) (p : BitVec 512) (code : Nat) : State :=
  let a := descAddr s h.qid
  let s1 := (s.putLocal (a + 27) 1 code).countQueueError h.qid
  let s2 := if pkType p = 1 ∧ (pkStatus p).toNat % 8 = 0 then
      writeStatus s1 h.asid (pkStatus p) (statusWord (some code) false false 0) else s1
  (s2.consume k h).irqLeader irqQueue

/-- R232: an access of the Tambour has faulted in translation, the packet's own or the read of the packet: the supervisor is told once for
each, and each has its own hold. -/
def tambourFault (s : State) (k : Nat) (h : HwSlot) (own : Bool) : Result :=
  if h.fault.any (fun f => f.1 || !own) then notNow s
  else happens ((s.setHwSlot k { h with fault := some (own, s.us) }).irqLeader irqFault)

/-- What an event of a queue's head packet shares: the slot is mapped, its head is read and is of this TYPE. -/
def atHead (s : State) (k type : Nat) (f : HwSlot → BitVec 512 → Result) : Result :=
  match tabGet k s.tamb.slots with
  | none => notNow s
  | some h =>
    match headReady s h with
    | some p => if pkType p = type ∧ (badPacket p).isNone then f h p else notNow s
    | none =>
      if h.widx != h.ridx && h.waitsig.isNone && tambourRuns s && hubFaults s h.asid .read (headVa h) then tambourFault s k h false
      else notNow s

/-- LAUNCH (R221): validation at the head; a packet that passes waits for its placement. -/
def execLaunch (slot : Nat) (s : State) : Result :=
  atHead s slot 1 (fun h p =>
    if h.valid.isSome || launchWaits s h.asid p then notNow s
    else
      match checkLaunch s h.asid p with
      | .error code => eventIf (wins s slot h) s (reject (if code = 6 then reportLaunch s h.asid p else s) slot h p code)
      | .ok inputs =>
        let g := launchGang s slot h p inputs
        let s1 := s.setHwSlot slot { h with valid := some g.id, fault := none }
        happens { s1 with tamb := { s1.tamb with gangs := s1.tamb.gangs ++ [g], nextGang := g.id + 1 } })

/-- A gang that was waiting for its placement is given up: its entry record can no longer be read, or names no stream (R35, Table 11.3). -/
def dropLaunch (s : State) (slot : Nat) (h : HwSlot) (p : BitVec 512) (g : Gang) : State :=
  reject { s with tamb := { s.tamb with gangs := s.tamb.gangs.filter (fun x => x.id != g.id) } } slot h p 6

/-- GANG_PLACEMENT (R31, R233, R35). -/
def execGangPlacement (slot : Nat) (s : State) : Result :=
  atHead s slot 1 (fun h p =>
    if !wins s slot h then notNow s
    else
      match placementOf s slot h with
      | none => notNow s
      | some (g, seats) =>
        let gone := eventIf (!statusHeld s h.asid (pkStatus p)) s (dropLaunch s slot h p g)
        match readEntry s g.id g.asid (pkEntry p) with
        | none => gone
        | some (streams, ks) =>
          if streams.all (· == 0) then gone else happens (startGang ((settleLate s (seatQuadIds seats)).consume slot h) g streams ks seats))

/-- Whether one waiting gang reached its 2 ms before another: the longer wait, of equal ones the lower slot (log 84). -/
def reservesFirst (p q : Nat × HwSlot) : Bool :=
  decide (q.2.headWait < p.2.headWait) || (p.2.headWait == q.2.headWait && decide (p.1 < q.1))

/-- GANG_RESERVING (R34): 2 ms at the head without placement; one gang of a level at a time, the earliest. -/
def execGangReserving (slot : Nat) (s : State) : Result :=
  atHead s slot 1 (fun h _ =>
    let rival := s.tamb.slots.any (fun p => p.1 != slot && p.2.eff == h.eff &&
      (p.2.reserving || (p.2.valid.isSome && decide (2000 ≤ p.2.headWait) && reservesFirst p (slot, h))))
    if h.valid.isNone || h.reserving || decide (h.headWait < 2000) || rival then notNow s
    else happens (s.setHwSlot slot { h with reserving := true }))

/-- Of two reserving gangs that have come to one level, the earliest goes on (R34). -/
def settleReserving (s : State) : State :=
  let yields := fun (p : Nat × HwSlot) =>
    p.2.reserving && s.tamb.slots.any (fun q => q.1 != p.1 && q.2.reserving && q.2.eff == p.2.eff && reservesFirst q p)
  { s with tamb := { s.tamb with slots := s.tamb.slots.map (fun p => if yields p then (p.1, { p.2 with reserving := false }) else p) } }

/-- WAITSIG (R231): the word is read; the packet is consumed, or its head waits for an update of the page. -/
def execWaitsig (slot : Nat) (s : State) : Result :=
  atHead s slot 2 (fun h p =>
    match hubRead s h.asid (pkWord p 1) 8 with
    | none => if hubFaults s h.asid .read (pkWord p 1) then tambourFault s slot h true else notNow s
    | some (s1, v) =>
      if !signalTest p (leNat v) then happens (s1.setHwSlot slot { h with waitsig := some (pkWord p 1), fault := none })
      else eventIf (wins s slot h) s (s1.consume slot h))

/-- SETSIG (R224, R230): the atomic, then the wake; of a page of another package the wake is at its home. -/
def execSetsig (slot : Nat) (s : State) : Result :=
  atHead s slot 3 (fun h p =>
    let va := pkWord p 1
    let v := (pkWord p 2).toNat
    match hubElem s h.asid .write va 8 with
    | none => if hubFaults s h.asid .write va then tambourFault s slot h true else notNow s
    | some (e, t) =>
      if !wins s slot h then notNow s
      else
        let op := fun (o : Nat) => some (if (pkWord p 0).getLsbD 9 then v else (o + v) % 2 ^ 64)
        let (s1, old) := ((s.consume slot h).remember t).atomic { Requester.nobody with asid := h.asid.toNat } none e 8 op
        happens (if old.isSome ∧ !pteRMT t.pte then s1.wakePage h.asid va else s1))

/-- MARK (R28, R224): a chain end, a job-record cut, or both. -/
def execMark (slot : Nat) (s : State) : Result :=
  atHead s slot 4 (fun h p =>
    if !wins s slot h then notNow s
    else
      let w := pkWord p 0
      let launched := s.tamb.gangs.filter (fun g => g.qid == h.qid && (g.placed || g.saved || g.done))
      let chain := pkChain p
      let ends := (launched.filter (fun g => pkChain g.packet == chain && !g.done)).map (·.id)
      let cut := (launched.filter (fun g => decide ((tabGet h.qid s.tamb.cuts).getD 0 ≤ g.id))).map (·.id)
      let t := (s.consume slot h).tamb
      let t1 := if w.getLsbD 9 && chain != 0 then { t with marks := t.marks ++ [(chain, ends)] } else t
      let t2 := if w.getLsbD 10 then
          { t1 with jobs := t1.jobs ++ [(h.qid, pkWord p 1, cut)], cuts := tabSet h.qid t1.nextGang t1.cuts } else t1
      happens (settleJobs { s.consume slot h with tamb := t2 }))

/-- NOP_PACKET (R224). -/
def execNopPacket (slot : Nat) (s : State) : Result :=
  atHead s slot 0 (fun h _ => if wins s slot h then happens (s.consume slot h) else notNow s)

/-- PACKET_REJECT (R219): of a packet that is no LAUNCH; LAUNCH rejects its own. -/
def execPacketReject (slot : Nat) (s : State) : Result :=
  match tabGet slot s.tamb.slots with
  | none => notNow s
  | some h =>
    match headReady s h with
    | none => notNow s
    | some p =>
      match badPacket p with
      | some code => if wins s slot h then happens (reject s slot h p code) else notNow s
      | none => notNow s

/-- PRIORITY_AGING (R228): 1 ms ready without a decision. -/
def execPriorityAging (slot : Nat) (s : State) : Result :=
  match tabGet slot s.tamb.slots with
  | none => notNow s
  | some h =>
    if h.aging < 1000 ∨ 7 ≤ h.eff then notNow s
    else happens (settleReserving (s.setHwSlot slot { h with eff := h.eff + 1, aging := 0 }))

/-- FAULT_HOLD_EXPIRY (R232): the supervisor unmaps a queue whose fault has outlasted HOLD, with FHOLD set. -/
def execFaultHoldExpiry (slot : Nat) (s : State) : Result :=
  match tabGet slot s.tamb.slots with
  | none => notNow s
  | some h =>
    match h.fault with
    | none => notNow s
    | some f =>
      if s.us < f.2 + holdTime h then notNow s
      else if faultResolved s h then happens (s.setHwSlot slot { h with fault := none })
      else happens (unmapQueue s slot h true)

/-- What a microsecond adds to the counts of R34 and R228 of a queue, whose fault is over when its access succeeds (R232). A wait that has
reached 2 ms counts on, so that the earliest has the longest. -/
def ageSlot (s : State) (p : Nat × HwSlot) : Nat × HwSlot :=
  let h := if p.2.fault.isSome && faultResolved s p.2 then { p.2 with fault := none } else p.2
  match headReady s h with
  | some k =>
    (p.1, { h with aging := h.aging + 1, headWait := if pkType k = 1 ∨ 2000 ≤ h.headWait then h.headWait + 1 else h.headWait })
  | none => (p.1, if 2000 ≤ h.headWait then { h with headWait := h.headWait + 1 } else h)

/-- What a microsecond does to the Tambour's counts. -/
def ageQueues (s : State) : State :=
  { s with tamb := { s.tamb with
      slots := s.tamb.slots.map (ageSlot s),
      waited := s.tamb.waited.map (fun w => if 2000 ≤ w.2 then (w.1, w.2 + 1) else w) } }

end Sys2Proof.Machine
end

