-- ==== Sys2Proof/Machine/Supervisor.lean ====
section
/-! DEFINITION. What the supervisor and the fabric do to the machine: registers (R284), the leader lease (R285), keys (R295),
measurements and signatures (R292, R297, R298), translation invalidation (R162), hart accesses (R283) and the requests of peers
(R299 to R301). -/

namespace Sys2Proof.Machine

/-! ## Register images -/

/-- LEADLS (Table 15.1). -/
def leadls (h : Hub) : W64 := BitVec.ofNat 64 (h.remain % 4096 + h.holder % 8 * 2 ^ 21 + h.epoch.toNat * 2 ^ 32)

/-- RSTSTS (Table 16.3). -/
def rststs (p : Power) : W64 :=
  BitVec.ofNat 64 (p.gate.toNat + p.train.toNat * 4 + p.keys.toNat * 8 + p.ptok.toNat * 16 + p.keyz.toNat * 32 +
    p.last.toNat * 64 + p.full.toNat * 2 ^ 40)

/-- MODDOM (Table 1.3). -/
def moddom (h : Hub) : W64 := BitVec.ofNat 64 (h.pwrdom.toNat + h.cooldom.toNat * 2 ^ 16)

/-- GRPCFG (Table 13.1). -/
def grpcfg (g : GroupSlot) : W64 :=
  BitVec.ofNat 64 (g.m + g.k * 16 + g.self * 256 + g.gid.toNat * 2 ^ 16 + g.rcnt * 2 ^ 32 + g.hbto * 2 ^ 40 +
    g.state.code * 2 ^ 60)

/-- What a read of GRPMEMg.j gives (Table 13.2): the entry with its LIVE bit. -/
def readGrpmem (s : State) (g j : Nat) : W64 :=
  BitVec.ofNat 64 ((vget (s.group g).mem j 0).toNat % 2 ^ 63 + (vget (s.group g).live j false).toNat * 2 ^ 63)

/-- What a read of a key slot shows (log 28): loaded, KEEP. -/
def keySlotBits (k : Option KeySlot) : W64 := BitVec.ofNat 64 ((k.map (fun x => x.loaded.toNat + 2 * x.keep.toNat)).getD 0)

/-- What a read of the wake FIFO shows (log 28): bit 63 that an id is there, bit 62 OVF, bits 15:0 the first id. -/
def wakeBits (t : Tambour) : W64 :=
  BitVec.ofNat 64 ((t.wakeFifo.head?.map (fun q => q % 65536 + 2 ^ 63)).getD 0 + t.wakeOvf.toNat * 2 ^ 62)

/-- What a read of a register gives: every hart may read every supervisor register (R284); write-only fields read zero (R6). -/
def readReg (s : State) : MmioReg → W64
  | .plctl => s.hub.plctl
  | .plint => s.hub.plint.setWidth 64
  | .tiercfg => s.hub.tiercfg
  | .qtbase => s.hub.qtbase
  | .ctxtbase => s.hub.ctxtbase
  | .asidtbase => s.hub.asidtbase
  | .smpcfg => s.hub.smpcfg
  | .jrnbase => s.hub.jrnbase
  | .keyblob => s.hub.keyblob
  | .arrcfg q => BitVec.ofNat 64 (s.quad q).leaseMax
  | .actcfg d => BitVec.ofNat 64 ((vget s.dies d .reset).actNbr + (vget s.dies d .reset).actSat.toNat * 2 ^ 16)
  | .errring d => (vget s.dies d .reset).errBase ||| BitVec.ofNat 64 ((vget s.dies d .reset).errSize * 256)
  | .grpcfg g => grpcfg (s.group g)
  | .grparea g => (s.group g).area
  | .grpmem g j => readGrpmem s g j
  | .moddom => moddom s.hub
  | .lifeest => s.hub.lifeest
  | .rststs => rststs s.power
  | .leadls => leadls s.hub
  | .meas i => (vget s.hub.meas i 0).setWidth 64
  | .signalPage => 0
  | .accevict q => if (s.quad q).evict.isSome then 0x8000000000000000 else 0
  | .leadcmd => 0
  | .rstctl => BitVec.ofNat 64 (8 * s.power.ptok.toNat)
  | .xinv => s.hub.xinv
  | .qmapcmd => s.hub.qmapcmd
  | .keycmd => s.hub.keycmd
  | .wakeFifo => wakeBits s.tamb
  | .nonce => BitVec.ofNat 64 s.flash.nonce
  | .keySlot i => keySlotBits (tabGet i s.hub.memKeys)
  | .notifySlot i => keySlotBits (tabGet i s.hub.notifyKeys)
  | .queueSlot q => BitVec.ofNat 64 (((slotOfQueue s q).map (fun p => p.1 + 2 ^ 63)).getD 0)
  | .podHoop e => BitVec.ofNat 64 (((tabGet e s.hub.podHoops).map (·.expect)).getD 0)
  | .returnCore c => BitVec.ofNat 64 ((vget s.dies (c / 112) .reset).suspects.contains c).toNat

/-! ## Register writes (R284) -/

def State.modHub (s : State) (f : Hub → Hub) : State := { s with hub := f s.hub }

def State.modDie (s : State) (d : Nat) (f : DieState → DieState) : State :=
  { s with dies := vset s.dies d (f (vget s.dies d .reset)) }

/-- The mask of address bits 55:12, and of 55:21. -/
def pageMask : W64 := 0x00FFFFFFFFFFF000
def blockMask : W64 := 0x00FFFFFFFFE00000

/-- A field of a register takes the bits of a written value. -/
def fieldWrite (old v mask : W64) : W64 := (old &&& ~~~mask) ||| (v &&& mask)

/-- PLCTL (Table 1.4): a TRIG of 3 leaves that field. -/
def plctlWrite (old v : W64) : W64 :=
  fieldWrite old v (if bits64 v 2 2 = 3 then 0x0000FFFFFFFFFF03 else 0x0000FFFFFFFFFF0F)

/-- TIERCFG (Table 7.3): HIGH below LOW leaves both. -/
def tiercfgWrite (old v : W64) : W64 :=
  fieldWrite old v (if bits64 v 24 16 < bits64 v 8 16 then 0x0000FF0000000003 else 0x0000FFFFFFFFFF03)

/-- SMPCFG (Table 14.3): a RETCNT of 0 leaves the field; LOGLG above 10 is not a value of the field and leaves it. -/
def smpcfgWrite (old v : W64) : W64 :=
  let m1 : W64 := if bits64 v 8 8 = 0 then 0x00FFFFFFFFE00001 else 0x00FFFFFFFFE0FF01
  fieldWrite old v (if 10 < bits64 v 16 5 then m1 else m1 ||| 0x1F0000)

/-- ARRCFG (Table 6.1). -/
def arrcfgWrite (q : QuadState) (v : W64) : QuadState :=
  if bits64 v 0 5 = 0 ∨ 16 < bits64 v 0 5 then q else { q with leaseMax := bits64 v 0 5 }

/-- ACTCFG (Table 10.3). -/
def actcfgWrite (d : DieState) (v : W64) : DieState :=
  { d with actSat := if bits64 v 16 16 < 0x40 then d.actSat else BitVec.ofNat 16 (bits64 v 16 16),
           actNbr := if bits64 v 0 4 = 0 ∨ 4 < bits64 v 0 4 then d.actNbr else bits64 v 0 4 }

/-- ERRRING (Table 14.2). -/
def errringWrite (d : DieState) (v : W64) : DieState := { d with errBase := v &&& pageMask, errSize := bits64 v 8 4 }

/-- A signal page is entered or taken out (R230; the register's form is log 28): at most 4,096 stay registered. -/
def signalPageWrite (s : State) (v : W64) : State :=
  let p : W16 × Nat := (BitVec.ofNat 16 (bits64 v 45 16), bits64 v 0 45)
  let rest := s.tamb.signals.filter (· != p)
  let next := if !v.getLsbD 63 then rest else if rest.length < 4096 then p :: rest else s.tamb.signals
  { s with tamb := { s.tamb with signals := next } }

/-- The entry of a pod hoop takes its registered count (R39, log 28); 0 takes the entry out. -/
def podHoopWrite (s : State) (e : Nat) (v : W64) : State :=
  let n := bits64 v 0 32
  let i : HoopInst := { hoop := 0, group := e, scope := 4, expect := n, arrived := 0, gen := 0, doneAt := 0 }
  let entries := if n = 0 then tabDel e s.hub.podHoops else tabSet e i s.hub.podHoops
  s.modHub (fun h => { h with podHoops := entries })

/-- A write by the leader of one of its registers. -/
def leaderReg (s : State) (reg : MmioReg) (v : W64) : State :=
  match reg with
  | .plctl => settleTrigger (s.modHub (fun h => { h with plctl := plctlWrite h.plctl v }))
  | .plint => settleTrigger (s.modHub (fun h => { h with plint := v.setWidth 32 }))
  | .tiercfg => s.modHub (fun h => { h with tiercfg := tiercfgWrite h.tiercfg v })
  | .qtbase => s.modHub (fun h => { h with qtbase := v &&& pageMask })
  | .ctxtbase => s.modHub (fun h => { h with ctxtbase := v &&& pageMask })
  | .asidtbase => s.modHub (fun h => { h with asidtbase := v &&& pageMask })
  | .smpcfg => s.modHub (fun h => { h with smpcfg := smpcfgWrite h.smpcfg v })
  | .jrnbase => s.modHub (fun h => { h with jrnbase := v &&& blockMask })
  | .keyblob => s.modHub (fun h => { h with keyblob := v })
  | .grpcfg g => if (s.group g).state = .idle then s.setGroup g ((s.group g).configure v) else s
  | .grparea g => if (s.group g).state = .idle then s.setGroup g { s.group g with area := v &&& blockMask } else s
  | .signalPage => signalPageWrite s v
  | .podHoop e => podHoopWrite s e v
  | .wakeFifo => { s with tamb := { s.tamb with wakeOvf := false } }
  | .returnCore c => s.modDie (c / 112) (fun d => { d with suspects := d.suspects.filter (· != c) })
  | _ => s

/-- REGISTER_WRITE (R284): per-quad and per-die registers take the hart of their die, the others the leader; read-only registers
take no write. A write of a command register, of GRPMEM, or of GRPCFG with ABRT, FORM or STBY, is a row of its own. -/
def execRegisterWrite (hart : Nat) (reg : MmioReg) (v : BitVec 64) (s : State) : Result :=
  match reg with
  | .arrcfg q => dieWrite s hart (q / 28) (fun t => t.setQuad q (arrcfgWrite (t.quad q) v))
  | .actcfg d => dieWrite s hart d (fun t => t.modDie d (actcfgWrite · v))
  | .errring d => dieWrite s hart d (fun t => t.modDie d (errringWrite · v))
  | .moddom | .lifeest | .rststs | .leadls | .meas _ | .nonce | .keySlot _ | .notifySlot _ | .queueSlot _ => happens s
  | .accevict _ | .leadcmd | .rstctl | .xinv | .qmapcmd | .keycmd | .grpmem _ _ => notNow s
  | .grpcfg _ => if bits64 v 57 3 ≠ 0 then notNow s else leaderWrite s hart (leaderReg · reg v)
  | _ => leaderWrite s hart (leaderReg · reg v)

/-- A hart reads a register (R284): the value is its last load; a read of the wake FIFO takes the first id out (R287, log 28). -/
def hartRead (s : State) (die : Nat) (reg : MmioReg) : State :=
  let s1 := s.modHub (fun h => { h with hartLoads := vset h.hartLoads die (some (leBytes (readReg s reg))) })
  if reg = .wakeFifo then { s1 with tamb := { s1.tamb with wakeFifo := s1.tamb.wakeFifo.tail } } else s1

/-! ## The leader lease (R285) -/

/-- Whether a LEADCMD write can succeed: its reserved bits are zero, its epoch is the present one, and firmware runs (R291). -/
def leadOk (s : State) (die : Nat) (v : W64) : Bool :=
  bits64 v 2 30 == 0 && bits64 v 32 32 == s.hub.epoch.toNat && decide (die < 6) && !s.power.recovery

/-- A LEADCMD write: those of one cycle apply in ascending die order, and one that fails changes nothing. -/
def leadWrite (s : State) (die : Nat) (ok : Bool) (f : Hub → Hub) : Result :=
  if s.hub.leadAt.1 = s.now ∧ die < s.hub.leadAt.2 then notNow s
  else happens (s.modHub (fun h => { (if ok then f h else h) with leadAt := (s.now, die) }))

/-- LEADCMD, renew. -/
def execLeadcmdRenew (die : Nat) (v : BitVec 64) (s : State) : Result :=
  if bits64 v 0 2 ≠ 0 then notNow s
  else leadWrite s die (leadOk s die v && s.hub.holder == die && s.hub.remain != 0) (fun h => { h with remain := 2000 })

/-- LEADCMD, take. -/
def execLeadcmdTake (die : Nat) (v : BitVec 64) (s : State) : Result :=
  if bits64 v 0 2 ≠ 1 then notNow s
  else leadWrite s die (leadOk s die v && s.hub.holder == 7) (fun h => { h with holder := die, epoch := h.epoch + 1, remain := 2000 })

/-- LEADCMD, resign; a write of OP 3 fails. -/
def execLeadcmdResign (die : Nat) (v : BitVec 64) (s : State) : Result :=
  if bits64 v 0 2 < 2 then notNow s
  else leadWrite s die (bits64 v 0 2 == 2 && leadOk s die v && s.hub.holder == die && s.hub.remain != 0)
    (fun h => { h with holder := 7, remain := 0 })

/-- LEASE_LAPSE: REMAIN has reached 0. -/
def execLeaseLapse (s : State) : Result :=
  if s.hub.holder = 7 ∨ s.hub.remain ≠ 0 then notNow s
  else happens ((List.range 6).foldl (fun t d => t.irq d irqLease) (s.modHub (fun h => { h with holder := 7 })))

/-! ## Keys (R295, Table 15.5) -/

/-- A command is accepted: OP, KEEP and KEYID as written, and BUSY; STS shows its result once BUSY clears. -/
def keyResult (s : State) (v : W64) (sts : Nat) : State :=
  s.modHub (fun h => { h with
    keycmd := (v &&& 0x0EFF000000000000) ||| (h.keycmd &&& 0x7000000000000000) ||| 0x8000000000000000, keyDue := some sts })

/-- BUSY of KEYCMD clears, and STS shows the result. -/
def settleKey (s : State) : State :=
  match s.hub.keyDue with
  | some sts => s.modHub (fun h => { h with
      keycmd := (h.keycmd &&& 0x0EFF000000000000) ||| BitVec.ofNat 64 (sts * 2 ^ 60), keyDue := none })
  | none => s

/-- What the commands of KEYCMD share: only the leader writes, and a write with BUSY set is ignored. -/
def keyWrite (s : State) (hart : Nat) (f : State → State) : Result :=
  leaderWrite s hart (fun s => if s.hub.keycmd.getLsbD 63 then s else f s)

/-- Every dirty die-cache line is written back. -/
def State.cleanAll (s : State) : State := (s.dcache.map (·.line)).foldl State.cleanLine s

/-- The number of a key: the number that its bytes had before, or a new one. -/
def keyNumber (s : State) (key : List Byte) : State × Nat :=
  match s.hub.blobs.find? (fun b => b.1 == key) with
  | some b => (s, b.2)
  | none => (s.modHub (fun h => { h with nextKey := h.nextKey + 1, blobs := (key, h.nextKey) :: h.blobs }), s.hub.nextKey)

/-- The key in the blob at KEYBLOB, of `n` bytes, if it unwraps under the device wrapping key; else the code of the failure. -/
def readBlob (s : State) (n : Nat) : Except Nat (List Byte) :=
  let a := s.hub.keyblob.toNat
  if a % 8 ≠ 0 then .error 2
  else if hbmEnd < localPart a + n ∨ !isLocal s a ∨ hitsLost s (localPart a) n then .error 1
  else
    match unwrapKey (Config.wrappingKey s.flash.owner) (s.supRead (localPart a) n) with
    | some key => .ok key
    | none => .error 1

/-- KEYCMD, load memory key: every dirty line is first written back under the old key. -/
def execKeycmdLoadMemoryKey (hart : Nat) (v : BitVec 64) (s : State) : Result :=
  if bits64 v 58 2 ≠ 0 ∨ !s.power.gate then notNow s
  else
    keyWrite s hart (fun s =>
      if bits64 v 48 8 = 0 then keyResult s v 3
      else
        match readBlob s 72 with
        | .error e => keyResult s v e
        | .ok key =>
          let (s1, k) := keyNumber s.cleanAll key
          keyResult (s1.modHub (fun h => { h with memKeys := tabSet (bits64 v 48 8) ⟨true, v.getLsbD 57, k, 0⟩ h.memKeys })) v 0)

/-- The lines of an L1 under a key id go. -/
def L1.discard (l : L1) (id : Nat) : L1 :=
  let under := fun (line : Nat) => tabGet line l.keys == some id
  { lines := l.lines.filter (fun n => !under n), words := l.words.filter (fun w => !under (w.1 / 16)), keys := l.keys.filter (·.2 != id) }

/-- The lines under a key id: die-cache lines and L1 lines go without writeback. -/
def discardKey (s : State) (id : Nat) : State :=
  let gone := (s.dcache.filter (fun l => l.key.toNat == id)).map (·.line)
  { s with
    dcache := s.dcache.filter (fun l => l.key.toNat != id), struck := s.struck.filter (fun l => !gone.contains l),
    l1 := s.l1.map (fun (c : Nat × L1) => (c.1, c.2.discard id)) }

/-- A memory key is replaced by a fresh random key (crypto-erasure). -/
def zeroiseKey (s : State) (id : Nat) : State :=
  (discardKey s id).modHub (fun h =>
    { h with memKeys := tabSet id ⟨false, false, h.nextKey, 0⟩ h.memKeys, nextKey := h.nextKey + 1 })

/-- KEYCMD, zeroise memory key. -/
def execKeycmdZeroiseMemoryKey (hart : Nat) (v : BitVec 64) (s : State) : Result :=
  if bits64 v 58 2 ≠ 1 then notNow s
  else
    keyWrite s hart (fun s =>
      if bits64 v 48 8 = 0 then keyResult s v 3 else keyResult (zeroiseKey s (bits64 v 48 8)) v 0)

/-- KEYCMD, load notify key. -/
def execKeycmdLoadNotifyKey (hart : Nat) (v : BitVec 64) (s : State) : Result :=
  if bits64 v 58 2 ≠ 2 ∨ !s.power.gate then notNow s
  else
    keyWrite s hart (fun s =>
      match readBlob s 40 with
      | .error e => keyResult s v e
      | .ok key =>
        let (s1, k) := keyNumber s key
        keyResult (s1.modHub (fun h =>
          { h with notifyKeys := tabSet (bits64 v 48 8) ⟨true, v.getLsbD 57, k, BitVec.ofNat 256 (leNat key)⟩ h.notifyKeys })) v 0)

/-- KEYCMD, zeroise notify key: the slot is no longer loaded. -/
def execKeycmdZeroiseNotifyKey (hart : Nat) (v : BitVec 64) (s : State) : Result :=
  if bits64 v 58 2 ≠ 3 then notNow s
  else
    keyWrite s hart (fun s =>
      keyResult (s.modHub (fun h =>
        { h with notifyKeys := tabSet (bits64 v 48 8) ⟨false, false, h.nextKey, 0⟩ h.notifyKeys, nextKey := h.nextKey + 1 })) v 0)

/-! ## Measurements and signatures (R292, R297, R298) -/

/-- The bytes of a digest. -/
def digestBytes (d : BitVec 384) : List Byte := natBytes d.toNat 48

/-- R292: the extension of a measurement by a digest. -/
def extend384 (m x : BitVec 384) : BitVec 384 := sha384 (digestBytes m ++ digestBytes x)

def extendMeas (s : State) (i : Nat) (x : BitVec 384) : State :=
  s.modHub (fun h => { h with meas := vset h.meas i (extend384 (vget h.meas i 0) x) })

/-- In recovery the hub exposes its recovery mailbox alone (R291). -/
def hubShown (s : State) (hart : Nat) : Bool := decide (hart < 6) && !s.power.recovery

/-- MEASEXT (R292): MEAS4 to MEAS7 only, and from S mode only. -/
def execMeasext (hart i : Nat) (digest : BitVec 384) (s : State) : Result :=
  if !hubShown s hart then notNow s
  else if vget s.hub.hartMode hart 0 = 1 ∧ 4 ≤ i ∧ i < 8 then happens (extendMeas s i digest)
  else happens s

/-- The live identity digest and MEAS0 to MEAS3 (bytes 32 to 271 of Table 15.6). -/
def liveIdentity (s : State) : List Byte :=
  digestBytes identityDigest ++ (List.range 4).flatMap (fun i => digestBytes (vget s.hub.meas i 0))

/-- SIGNCMD (R297). -/
def execSigncmd (hart : Nat) (pa : BitVec 64) (s : State) : Result :=
  let a := localPart pa.toNat
  if !hubShown s hart ∨ !s.power.gate then notNow s
  else if hbmEnd < a + 4096 ∨ hitsLost s a 512 ∨ s.supRead (a + 32) 240 ≠ liveIdentity s then happens s
  else
    let s1 := s.putLocal (a + 336) 8 s.flash.recordSeq
    let sig := Config.signRecord s.hub.attest (s1.supRead a 512)
    let s2 := s1.supWrite (a + 512) ((List.range 3373).map (fun i => sig.getD i 0))
    happens { s2 with flash := { s2.flash with recordSeq := s2.flash.recordSeq + 1 } }

/-- Samples of 100 µs, and microseconds, in an hour. -/
def samplesPerHour : Nat := 36000000
def hourMicroseconds : Nat := 3600000000

/-- The bytes of the records that the mailbox returns: those of Table 14.5 in its order, then the count of what was dropped (R284), and
the retired frames (log 70). -/
def lifeBytes (l : Lifetime) (retired : List Nat) : List Byte :=
  let wide := fun (vs : List Nat) => vs.flatMap (fun v => natBytes v 8)
  let narrow := fun (vs : List Nat) => vs.flatMap (fun v => natBytes v 4)
  wide (l.errors.toList.drop 1 ++ l.corrected.toList ++ l.audits.toList) ++
    narrow ((List.range 16).map (fun k => (retired.filter (fun f => stackOf (f * 4096) == k)).length) ++ l.thermal.toList ++
      l.temps.toList.map (· / samplesPerHour) ++ l.volts.toList.map (· / samplesPerHour) ++ [l.powered / hourMicroseconds] ++
      l.overflows.toList) ++
    wide (l.dropped :: retired)

/-- FLASH_MAILBOX_READ (R298). -/
def execFlashMailboxRead (hart : Nat) (s : State) : Result :=
  if !hubShown s hart then notNow s
  else
    let bs := lifeBytes s.flash.life s.flash.retired
    happens (s.modHub (fun h => { h with mailbox := some ⟨bs, Config.signMailbox h.attest (sha384 bs)⟩ }))

/-! ## Translation invalidation (R162) -/

/-- The context's queued accesses (0) and Couching (1) and Cutwork (2) commands that an invalidation awaits, of the pages that `hit`
names. -/
def waitsOf (hit : W16 → W64 → Bool) (x : Ctx) : List (Nat × Nat × Nat) :=
  let touched := fun (es : List Elem) => es.any (fun e => hit x.asid e.va)
  let cmds := fun (kind : Nat) (q : EngQueue) => (q.cmds.filter (fun c => touched c.elems)).map (fun c => (x.cid, kind, c.idx))
  (x.gq.filter (fun a => touched a.elems)).map (fun a => (x.cid, 0, a.num)) ++ cmds 1 x.eng.couch ++ cmds 2 x.eng.cut

/-- The writes that group slots hold for stopped contexts (R489), of the pages that `hit` names. -/
def passedWaits (s : State) (hit : W16 → W64 → Bool) : List (Nat × Nat × Nat) :=
  s.groups.toList.flatMap (fun g =>
    (g.passed.filter (fun p => p.2.elems.any (fun e => ((s.ctxOf p.1).map (fun x => hit x.asid e.va)).getD true))).map
      (fun p => (p.1, 0, p.2.num)))

/-- Whether an access that an invalidation awaits is still to be performed. -/
def stillWaits (s : State) (w : Nat × Nat × Nat) : Bool :=
  let inGroup := s.groups.toList.any (fun g => g.passed.any (fun p => p.1 == w.1 && p.2.num == w.2.2))
  (w.2.1 == 0 && inGroup) ||
    match s.ctxOf w.1 with
    | none => false
    | some x =>
      match w.2.1 with
      | 0 => x.gq.any (fun a => a.num == w.2.2)
      | 1 => x.eng.couch.cmds.any (fun c => c.idx == w.2.2)
      | _ => x.eng.cut.cmds.any (fun c => c.idx == w.2.2)

/-- BUSY clears once every access through a removed translation has been performed. -/
def settleXinv (s : State) : State :=
  let left := s.hub.xinvWaits.filter (stillWaits s)
  s.modHub (fun h => { h with xinvWaits := left, xinv := if left.isEmpty then h.xinv &&& 0x7FFFFFFFFFFFFFFF else h.xinv })

/-- An invalidation: the cached translations that `drop` names go; what used them is awaited. -/
def invalidate (s : State) (v : W64) (drop : TlbEntry → Bool) (hit : W16 → W64 → Bool) : State :=
  let waits := (allCtxs s).flatMap (waitsOf hit) ++ passedWaits s hit
  settleXinv (({ s with tlb := s.tlb.filter (fun t => !drop t) }).modHub (fun h =>
    { h with xinv := v ||| 0x8000000000000000, xinvWaits := waits }))

/-- A write of XINV of one of the modes `m`: ignored while BUSY is set, and with mode 3. -/
def xinvWrite (s : State) (hart : Nat) (v : W64) (m : List Nat) (drop : TlbEntry → Bool) (hit : W16 → W64 → Bool) : Result :=
  if !m.contains (bits64 v 61 2) then notNow s
  else leaderWrite s hart (fun t => if t.hub.xinv.getLsbD 63 ∨ bits64 v 61 2 = 3 then t else invalidate t v drop hit)

def xinvAsid (v : W64) : W16 := BitVec.ofNat 16 (bits64 v 45 16)

/-- XINV, one page (mode 0): every size of page that contains the address; awaited are the accesses of its 1 GiB range (log 29). -/
def execXinvPage (hart : Nat) (v : BitVec 64) (s : State) : Result :=
  let a := bits64 v 0 45 * 4096
  xinvWrite s hart v [0] (fun t => t.asid == xinvAsid v && decide (t.base ≤ a) && decide (a < t.base + t.size))
    (fun asid va => asid == xinvAsid v && va57 va / 2 ^ 30 == a / 2 ^ 30)

/-- XINV, one address space (mode 1). -/
def execXinvAsid (hart : Nat) (v : BitVec 64) (s : State) : Result :=
  xinvWrite s hart v [1] (fun t => t.asid == xinvAsid v) (fun asid _ => asid == xinvAsid v)

/-- XINV, every entry (mode 2). -/
def execXinvAll (hart : Nat) (v : BitVec 64) (s : State) : Result :=
  xinvWrite s hart v [2, 3] (fun _ => true) (fun _ _ => true)

/-! ## Hart and peer accesses (R283, R299) -/

/-- The mapped page in whose frame a local address lies. -/
def frameLeaf (s : State) (a : Nat) : Option (W16 × Leaf × PageInfo) :=
  (allPages s).find? (fun p => !pteT p.2.1.pte && !pteRMT p.2.1.pte && decide (frameOf p.2.1 ≤ a) &&
    decide (a < frameOf p.2.1 + p.2.1.size))

/-- A local range as an access by physical address reaches it: under the key of the page that is mapped there, else under the
leaf given (log 30). -/
def physElem (s : State) (a : Nat) (unmapped : W64) : Elem :=
  let leaf := frameLeaf s a
  { va := 0, pa := s.hub.pkg * 2 ^ 46 + a, pte := (leaf.map (·.2.1.pte)).getD unmapped, page := (leaf.map (·.2.1.size)).getD 4096 }

/-- What a hart's load gives. -/
def State.hartLoad (s : State) (die : Nat) (r : Option (List Byte)) : State :=
  s.modHub (fun h => { h with hartLoads := vset h.hartLoads die r })

def State.setResv (s : State) (die : Nat) (r : Option (Nat × Nat)) : State := s.modHub (fun h => { h with resv := vset h.resv die r })

/-- The address, the size and whether it writes, of a hart's access. -/
def hartRange : HartAccess → Option (Nat × Nat × Bool)
  | .fence => none
  | .load a n => some (a, n, false)
  | .store a n _ => some (a, n, true)
  | .lr a n => some (a, n, false)
  | .sc a n _ => some (a, n, true)
  | .amo a n _ _ => some (a, n, true)

/-- A hart's store at its home; a page that it unmaps is forgotten (R152). -/
def hartStore (s : State) (e : Elem) (bs : List Byte) : State := (s.agentWrite e bs).prunePages

/-- A hart's access at its home. A load of a failed line raises the load access fault (R274). LR, SC and the atomics are those of the
RISC-V A extension: SC writes, and gives 0, only while its hart's reservation stands, else it gives 1. -/
def hartAccess (s : State) (die : Nat) (e : Elem) : HartAccess → State
  | .fence => s
  | .load a n => let (s1, r) := s.homeRead .nobody e a n; s1.hartLoad die r
  | .store _ n v => hartStore s e (natBytes v.toNat n)
  | .lr a n =>
    let (s1, r) := s.homeRead .nobody e a n
    (s1.hartLoad die r).setResv die (if r.isSome then some (a, n) else none)
  | .sc a n v =>
    let ok := vget s.hub.resv die none == some (a, n)
    (((if ok then hartStore s e (natBytes v.toNat n) else s).hartLoad die (some (natBytes (!ok).toNat n)))).setResv die none
  | .amo _ n op v =>
    let (s1, old) := s.atomic .nobody none e n (fun o => some (amoValue op n o (v.toNat % 2 ^ (8 * n))))
    s1.prunePages.hartLoad die (old.map (fun o => natBytes o n))

/-- Whether an access is one that the RISC-V A extension gives a meaning: of 4 or 8 bytes, aligned, with an operation. -/
def hartAtomicOk : HartAccess → Bool
  | .lr a n => (n == 4 || n == 8) && a % n == 0
  | .sc a n _ => (n == 4 || n == 8) && a % n == 0
  | .amo a n op _ => (n == 4 || n == 8) && a % n == 0 && decide (op.toNat < 9)
  | _ => true

/-- SUPERVISOR_HART_ACCESS (R283): performed at the home die cache. A fence finds every earlier access of the hart performed. -/
def execSupervisorHartAccess (die : Nat) (acc : HartAccess) (s : State) : Result :=
  if 6 ≤ die ∨ !s.power.gate ∨ !hartAtomicOk acc then notNow s
  else
    match hartRange acc with
    | none => happens s
    | some (a, n, writes) =>
      if hbmEnd < a + n then .fault (.noSuchAddress a)
      else
        let e := physElem s a 0
        if heldAway s e n || (writes && writeWaits s e n) then notNow s else happens (hartAccess s die e acc)

/-- The answer to a peer. -/
def State.reply (s : State) (r : Option (List Byte)) : State := s.modHub (fun h => { h with replies := h.replies ++ [r] })

/-- A peer's signal wakes the queues whose heads wait on a word of the frame's page (R230). -/
def wakeFrame (s : State) (a : Nat) : State :=
  let names : List (W16 × W64) :=
    s.tamb.slots.filterMap (fun (p : Nat × HwSlot) => p.2.waitsig.map (fun w => (p.2.asid, w))) ++
      s.tamb.sleepers.map (fun (q : Nat × W16 × W64) => q.2)
  (names.filter (fun p =>
    match pageOf s p.1 p.2 with
    | some l => !pteT l.pte && !pteRMT l.pte && (frameOf l + (va57 p.2 - l.base)) / 4096 == a / 4096
    | none => false)).foldl (fun t p => t.wakePage p.1 p.2) s

/-- An atomic of a peer at the home. -/
def peerAtomic (s : State) (a n : Nat) (f : Nat → Option Nat) (then' : State → State) : Result :=
  let e := physElem s a 0x200
  if writeWaits s e n then notNow s
  else
    let (s1, old) := s.atomic .nobody none e n f
    happens ((if old.isSome then then' s1 else s1).reply (old.map (fun v => natBytes v n)))

/-- The local address and the size of a request; those of group traffic name none. -/
def reqRange : FabricReq → Nat × Nat
  | .read a n => (a, n)
  | .write a n _ => (a, n)
  | .atomic a n _ _ => (a, n)
  | .cas a n _ _ => (a, n)
  | .signal a _ => (a, 8)
  | .groupWindow _ _ => (0, 0)
  | .repairRead _ _ => (0, 0)
  | .repairDone _ _ => (0, 0)

/-- Whether a request is of a kind that Table 16.1 supports. -/
def reqSupported : FabricReq → Bool
  | .read _ n => decide (n ≤ 256)
  | .write _ n _ => decide (n ≤ 256)
  | .atomic _ n op _ => (n == 4 || n == 8) && decide (op.toNat < 9)
  | .cas _ n _ _ => n == 4 || n == 8
  | .signal _ _ => true
  | .groupWindow _ _ => true
  | .repairRead _ _ => true
  | .repairDone _ _ => true

/-- A request at its home die cache, or at the group engine. -/
def servePeer (req : FabricReq) (s : State) : Result :=
  match req with
  | .read a n =>
    let e := physElem s a 0x200
    if heldAway s e n then notNow s
    else
      let (s1, r) := s.homeRead .nobody e a n
      happens (s1.reply r)
  | .write a n v =>
    let e := physElem s a 0x200
    if writeWaits s e n then notNow s else happens ((s.agentWrite e (natBytes v.toNat n)).reply (some []))
  | .atomic a n op v => peerAtomic s a n (fun o => some (amoValue op n o (v.toNat % 2 ^ (8 * n)))) id
  | .cas a n expect new =>
    peerAtomic s a n (fun o => if o = expect.toNat % 2 ^ (8 * n) then some (new.toNat % 2 ^ (8 * n)) else none) id
  | .signal a v => peerAtomic s a 8 (fun o => some ((o + v.toNat) % 2 ^ 64)) (wakeFrame · a)
  | .groupWindow data join => groupWindow s data join
  | .repairRead gid stripe =>
    let (s1, r) := repairRead s gid stripe
    happens (s1.reply r)
  | .repairDone gid stripe => happens (repairDone s gid stripe)

/-- UALINK_REQUEST (R299): served at the home die cache, once a port carries traffic (R300). One that arrives before the gate opens is held
(R305). -/
def execUalinkRequest (req : FabricReq) (s : State) : Result :=
  let (a, n) := reqRange req
  if !portOpen s 0 18 || s.power.recovery then notNow s
  else if !reqSupported req then happens s.countDropped
  else if hbmEnd < a + n then .fault (.noSuchAddress a)
  else if s.power.gate then servePeer req s
  else happens (s.modHub (fun h => { h with peerWaits := h.peerWaits ++ [(req, s.time)] }))

/-- The first of the requests that are held: it is served once the gate is open, and completes as an abort 2 ms after it came (R301, R305). -/
def settlePeer (s : State) (w : FabricReq × Nat) : State :=
  let drop := fun (t : State) => t.modHub (fun h => { h with peerWaits := h.peerWaits.erase w })
  if w.2 + 2000 * microsecondUnits ≤ s.time then (drop s).reply none
  else if !s.power.gate then s
  else
    match servePeer w.1 s with
    | .next t => if t.verdict = .issued then drop t else s
    | _ => s

/-- The requests that are held, in the order in which they came. -/
def settlePeers (s : State) : State := s.hub.peerWaits.foldl settlePeer s

/-- UET_PACKET (R299, R300): a packet without a valid security header, or of another delivery mode, is dropped and counted. -/
def execUetPacket (secured reliable : Bool) (payload : UetPayload) (s : State) : Result :=
  if !secured || !reliable then happens s.countDropped
  else if !portOpen s 18 4 || s.power.recovery then notNow s
  else
    match payload with
    | .notify src msg => gated s (happens (remoteNotify s src msg))
    | .other => happens s

end Sys2Proof.Machine
end

