-- ==== Sys2Proof/Machine/Errors.lean ====
section
/-! DEFINITION. Uncorrectable and correctable errors (R272 to R275): what is withheld, what is recorded, what is retired. -/

namespace Sys2Proof.Machine

/-! ## Retirement of frames (R275) -/

/-- A page leaves its frame under R18, for a stack of the same die. -/
def startLeave (s : State) (l : Leaf) (p : PageInfo) : State :=
  let home := homeDie (stackOf (frameOf l))
  match roomiest s ((List.range 16).filter (fun k => homeDie k == home)) with
  | none => s
  | some k =>
    if boundPage l || isMoving p || decide (vget s.freePages k 0 < framesOf l) then s
    else (s.takeFree k (framesOf l)).putPage { p with move := .migrating k }

def State.modFlash (s : State) (f : Flash → Flash) : State := { s with flash := f s.flash }

/-- The record of a retirement enters flash. -/
def State.recordRetired (s : State) (f : Nat) : State :=
  if s.flash.retired.contains f then s else s.modFlash (fun h => { h with retired := f :: h.retired })

/-- A 4 KiB frame, by its number, is retired, and the page in it leaves. The frame of a pinned or compute-capable page waits until the page is
mapped elsewhere; that of a page that cannot leave yet is tried again (log 64). -/
def retireFrame (s : State) (f : Nat) : State :=
  match frameLeaf s (f * 4096) with
  | none =>
    if s.flash.retired.contains f then s else (s.recordRetired f).takeFree (stackOf (f * 4096)) 1
  | some (_, l, p) =>
    let s1 := { s with worn := if s.worn.contains f then s.worn else f :: s.worn }
    if ptePIN l.pte || pteCC l.pte then s1 else startLeave (s1.recordRetired f) l p

/-- The failed frames whose pages had still to leave them are tried again. -/
def retryWorn (s : State) : State := s.worn.foldl retireFrame { s with worn := [] }

/-! ## Records of errors in memory -/

/-- A record of a failed line: the page's key id, and the stack. -/
def lineError (s : State) (cls line : Nat) : ErrorInfo :=
  let a := 64 * line
  let key := match frameLeaf s a with
    | some (_, l, _) => if pteCLR l.pte then 0xFF else pteKEY l.pte
    | none => 0xFF
  { plainError cls (homeDie (stackOf a)) (s.hub.pkg * 2 ^ 46 + a) with key := key, stack := stackOf a }

/-- A record of an error that a context met. -/
def ctxError (x : Ctx) (cls pa va : Nat) : ErrorInfo :=
  { plainError cls x.die pa with ctx := x.cid, asid := x.asid.toNat, va := va }

/-- The group slot whose parity or staging store holds a local address. -/
def storeOf (s : State) (a : Nat) : Option Nat :=
  (List.range 4).find? (fun i =>
    let g := s.group i
    g.state != .idle && decide (parityBase g ≤ a) && decide (a < stagingBase g + g.storeSize))

/-- The open round of a slot, if there is one, aborts (R267); a member that is prepared asks its coordinator for it. -/
def abortRound (s : State) (i : Nat) : State :=
  let g := s.group i
  let s1 := s.modGroup i (fun h => { h with abreq := true })
  if g.state = .opened ∨ g.state = .sealing then settleSeal s1 i
  else if g.state ≠ .prepared ∨ hasCommit s g (headerRound s g) then s
  else if coordinator g = g.self then settleDecide (s1.modGroup i (fun h => { h with ablock := true })) i
  else s1.send i (coordinator g) 6 (groupMsg s1 i)

/-- What the coding groups make of a failed HBM line (R267): a protected line's stripe is locked for its repair, a parity or
staging chunk ends the round. -/
def groupError (s : State) (line : Nat) : State :=
  match protLine s (64 * line) with
  | some (i, ll) =>
    s.modGroup i (fun g => { g with lockedStripe := if g.lockedStripe.isSome then g.lockedStripe else some (stripeOf g g.self ll) })
  | none =>
    match storeOf s (64 * line) with
    | some i => abortRound s i
    | none => s

def loseLine (s : State) (line : Nat) : State :=
  { s with lost := if s.lost.contains line then s.lost else line :: s.lost }

/-- R20: an error cancels the migration of the page that it strikes, which stays on its old stack. -/
def cancelMove (s : State) (line : Nat) : State :=
  match frameLeaf s (64 * line) with
  | some (_, l, p) =>
    match p.move with
    | .migrating k => (s.addFree k (framesOf l)).putPage { p with move := .idle }
    | _ => s
  | none => s

/-- An error in HBM under a line that no die cache holds. -/
def hbmError (s : State) (line : Nat) : State :=
  retireFrame (groupError ((cancelMove (loseLine s line) line).reportError (lineError s 1 line)) line) (line / 64)

/-- The round whose open state a modified line of a protected page held aborts (R267). -/
def abortFor (s : State) (line : Nat) : State :=
  match protLine s (64 * line) with
  | some (i, _) => abortRound s i
  | none => s

/-- An error in a die-cache line, found by a requester at an element of its access: a modified value is lost, and with it, on a protected page, the open round. -/
def cacheError (s : State) (l : DieLine) (r : Requester) (e : Option Elem) : State :=
  let s1 := (s.dropStruck l).reportError
    { lineError s 2 l.line with ctx := r.ctx, asid := r.asid, stack := 0xFF, va := (e.map (·.va.toNat)).getD 0 }
  if l.dirty then abortFor s1 l.line else s1

/-- What struck lines that a reader or a writeback has met leave to be done (R267, R272). -/
def settleWounds (s : State) : State :=
  s.wounds.foldl (fun t (w : Nat × Bool) =>
    let u := if w.2 then t else t.reportError { lineError t 2 w.1 with stack := 0xFF }
    if t.lost.contains w.1 then abortFor u w.1 else u) { s with wounds := [] }

/-- The element of the access at a place of the context's queues that meets an error: the first that `hit` tells; for the two places after the
last, when `chan`, of the position that a shuttle channel moves (R178). -/
def metElem (s : State) (met : Nat × Nat) (chan : Bool) (hit : Ctx → Access → Elem → Bool) : Option Elem :=
  (s.ctxOf met.1).bind (fun x =>
    match x.gq[met.2]? with
    | some y => y.elems.find? (hit x y)
    | none =>
      let k := met.2 - x.gq.length
      if 2 ≤ k ∨ !chan then none
      else (x.eng.channel (k == 1)).cmds.head?.bind (fun c => (remotePieces { s with ctx := x } c).head?))

/-- The access at a place of the focused context's queues completes as an abort, if it can be performed now. -/
def abortNow (s : State) (i : Nat) : State × Bool :=
  match s.ctx.gq[i]? with
  | some y => if performable s i then (abortAccess s y, true) else (s, false)
  | none => if s.ctx.enginesRun then abortPosition s (i - s.ctx.gq.length == 1) else (s, false)

/-- An error and its report, once the access that met it, if any is named, has its abort (R272); nothing happens when it cannot be that
access. -/
def metBy (s : State) (met : Option (Nat × Nat)) (chan : Bool) (hit : Ctx → Access → Elem → Bool) (f : Requester → Option Elem → State → State) : Result :=
  match met with
  | none => happens (f .nobody none s)
  | some m =>
    match metElem s m chan hit with
    | none => notNow s
    | some e =>
      match eventOn s m.1 (abortNow · m.2) with
      | .next t => if t.verdict = .issued then happens (f (((s.ctxOf m.1).map Ctx.requester).getD .nobody) (some e) t) else notNow s
      | _ => notNow s

/-- The record for a requester. -/
def ErrorInfo.by (e : ErrorInfo) (r : Requester) : ErrorInfo := { e with ctx := r.ctx, asid := r.asid }

/-- The record for a requester at an element of its access: the element's line, its key and its virtual address (Table 14.1). -/
def ErrorInfo.at (i : ErrorInfo) (e : Option Elem) (r : Requester) : ErrorInfo :=
  match e with
  | none => i.by r
  | some e => { i.by r with key := recordKey e.pte, pa := e.pa / 64 * 64, va := e.va.toNat }

/-- The requester whose slot or tile an error strikes. -/
def holderOfRow (s : State) (cid : Option Nat) : Requester := ((cid.bind s.ctxOf).map Ctx.requester).getD .nobody

/-- The key id of the page that lies in a page of the capacity tier. -/
def capKey (s : State) (page : Nat) : Nat :=
  match (allPages s).find? (fun p => pteT p.2.1.pte && decide (ptePFN p.2.1.pte ≤ page) && decide (page < ptePFN p.2.1.pte + framesOf p.2.1)) with
  | some (_, l, _) => recordKey l.pte
  | none => 0xFF

/-- UNCORRECTABLE_ERROR (R272), where it strikes. -/
def execUncorrectableError (site : ErrorSite) (s : State) : Result :=
  match site with
  | .hbm line =>
    if hbmEnd ≤ 64 * line ∨ (findLine line s.dcache).isSome ∨ !s.power.gate then notNow s else happens (hbmError s line)
  | .dieCache line met =>
    match findLine line s.dcache with
    | some l =>
      metBy s met false
        (fun _ y e => y.plainRead && !pteRMT e.pte && (linesOf (localPart e.pa) y.size).contains line) (fun r e t => cacheError t l r e)
    | none => notNow s
  | .dieLine line =>
    if (findLine line s.dcache).isNone ∨ s.struck.contains line then notNow s else happens { s with struck := line :: s.struck }
  | .scratchpad cid a =>
    match s.ctxOf cid with
    | some x =>
      if x.spSize ≤ a ∨ !x.resident then notNow s
      else
        happens ((s.onCtx cid (fun t => t.modCtx (fun y =>
          { y with spBad := if y.spBad.contains (a / 4) then y.spBad else a / 4 :: y.spBad }))).reportError (ctxError x 3 0 0))
    | none => notNow s
  -- rows 0 to 63 are the element rows of a slot, 64 to 127 their scale bytes (R121, R140)
  | .operandRow quad slot row =>
    let q := s.quad quad
    let o := vget q.slots slot .reset
    if 168 ≤ quad ∨ 48 ≤ slot ∨ 128 ≤ row then notNow s
    else
      let struck := if row < 64 then (List.range 96).map (96 * row + ·) else [6144 + (row - 64)]
      let o' := { o with bad := struck ++ o.bad.filter (fun b => !struck.contains b) }
      happens ((s.setQuad quad { q with slots := vset q.slots slot o' }).reportError
        ((plainError 4 (quad / 28) 0).by (holderOfRow s o.holder)))
  | .tileRow quad tile row =>
    let q := s.quad quad
    let t := vget q.tiles tile .reset
    if 168 ≤ quad ∨ 16 ≤ tile ∨ 64 ≤ row then notNow s
    else
      let t' := { t with bad := if t.bad.contains row then t.bad else row :: t.bad }
      happens ((s.setQuad quad { q with tiles := vset q.tiles tile t' }).reportError
        ((plainError 4 (quad / 28) 0).by (holderOfRow s t.tag)))
  | .link port met =>
    if 30 ≤ port then notNow s
    else
      metBy s met true (fun _ y e => y.isMem && pteRMT e.pte)
        (fun r e t => t.reportError ((plainError 5 hubDie 0).at e r))
  | .capacity page =>
    if capPages ≤ page then notNow s
    else happens ((loseLine s (capLine page)).reportError { plainError 6 hubDie (page * 4096) with key := capKey s page })
  | .l1 cid idx =>
    match s.ctxOf cid, ((s.ctxOf cid).bind (fun x => x.gq[idx]?)).bind (fun y => y.elems.head?.map (fun e => (y, e))) with
    | some x, some (y, e) =>
      metBy s (some (cid, idx)) false (fun x z _ => z.plainRead && (wordsOf e.pa y.size).all (fun w => (tabGet w (l1Of s x.coreId).words).isSome))
        (fun _ _ t => ((wordsOf e.pa y.size).foldl (fun u w => dropWord u x.coreId w) t).reportError
          { ctxError x 3 e.pa e.va.toNat with key := recordKey e.pte })
    | _, _ => notNow s
  | .bobbin cid a =>
    match s.ctxOf cid with
    | some x =>
      if 0x10000 ≤ a ∨ !x.resident then notNow s
      else
        happens ((s.onCtx cid (fun t => t.modCtx (fun y =>
          { y with bmem := y.bmem.write (a / 4 * 4) (abortBytes 4),
                   bmBad := if y.bmBad.contains (a / 4) then y.bmBad else a / 4 :: y.bmBad }))).reportError (ctxError x 3 0 0))
    | none => notNow s
  | .counter bank row =>
    let die := bankDie bank
    let d := vget s.dies die .reset
    -- the check bit fails at the precharge after the row's next activation, or after the present one (R207)
    if 6 ≤ die ∨ d.failed.contains (bank, row) then notNow s
    else happens { s with dies := vset s.dies die { d with failed := (bank, row) :: d.failed } }

/-! ## Correctable errors -/

/-- CORRECTABLE_ERROR (R275): counted by stack; the row that reaches RETCNT within an hour is recorded and its frame retired. -/
def execCorrectableError (stack row : Nat) (s : State) : Result :=
  let a := stack * stackBytes + row * 1024
  if 16 ≤ stack ∨ stackBytes ≤ row * 1024 ∨ !s.power.gate then notNow s
  else
    let s1 := s.modLife (fun l => { l with corrected := vset l.corrected stack (vget l.corrected stack 0 + 1) })
    let recent := (stack, row, s.us) :: s.hub.rowErrors.filter (fun e => decide (s.us < e.2.2 + 3600000000))
    let mine := fun (e : Nat × Nat × Nat) => e.1 == stack && e.2.1 == row
    if (recent.filter mine).length < bits64 s.hub.smpcfg 8 8 then happens (s1.modHub (fun h => { h with rowErrors := recent }))
    else
      let s2 := s1.modHub (fun h => { h with rowErrors := recent.filter (fun e => !mine e) })
      happens (retireFrame (s2.recordError { lineError s2 10 (a / 64) with va := 0 }) (a / 4096))

end Sys2Proof.Machine
end

