-- ==== Sys2Proof/Machine/Reset.lean ====
section
/-! DEFINITION. Resets and boot (R291, R294, R303 to R306), the memory gate (R305), power and temperature (R307, R309), and the
lifetime records (R281, R282). -/

namespace Sys2Proof.Machine

/-! ## Lifetime records (Table 14.5) -/

def addVec {n : Nat} (a b : Vector Nat n) : Vector Nat n := Vector.ofFn (fun (i : Fin n) => a[i] + b[i])

def Lifetime.add (a b : Lifetime) : Lifetime :=
  { errors := addVec a.errors b.errors, corrected := addVec a.corrected b.corrected, audits := addVec a.audits b.audits,
    thermal := addVec a.thermal b.thermal, temps := addVec a.temps b.temps, volts := addVec a.volts b.volts,
    powered := a.powered + b.powered, overflows := addVec a.overflows b.overflows, dropped := a.dropped + b.dropped }

/-- The increments enter flash (R281). -/
def mergeLife (s : State) : State :=
  { s.modFlash (fun f => { f with life := f.life.add s.pending.life }) with pending := ⟨.zero, s.us⟩ }

/-- LIFETIME_MERGE: every 15 minutes. -/
def execLifetimeMerge (s : State) : Result :=
  if s.us < s.pending.since + 900000000 then notNow s else happens (mergeLife s)

/-- LIFE_ESTIMATE (R282, Table 14.6): every hour; what the monitors give is an input. -/
def execLifeEstimate (est : BitVec 64) (s : State) : Result :=
  if s.us < s.power.estimated + 3600000000 ∨ 4 < bits64 est 0 4 then notNow s
  else
    happens { s.modHub (fun h => { h with lifeest := est &&& 0xFFFFFFFFFFFF000F }) with
      power := { s.power with estimated := s.us } }

/-! ## Boot (R291, R292) -/

/-- Whether the boot ROM boots an image: its bytes have the manifest's digest, both maker signatures verify, both owner signatures verify under
the present owner's keys, and its security version reaches the floor. -/
def bootable (f : Flash) (i : FlashImage) : Bool :=
  i.actual == i.digest && i.maker && i.owner == f.owner && decide (f.floor ≤ i.security)

/-- The image that boots: slot A, or else slot B. -/
def bootImage (f : Flash) : Option FlashImage :=
  match f.imageA.filter (bootable f) with
  | some i => some i
  | none => f.imageB.filter (bootable f)

/-- The configuration block, if it is accepted. -/
def acceptedConfig (f : Flash) : Option FlashConfig :=
  f.config.filter (fun c => c.owner == f.owner && c.device == identityDigest)

/-- What the boot ROM measures (R292). -/
def bootMeas (f : Flash) : Vector (BitVec 384) 8 :=
  let m1 := match bootImage f with
    | some i => extend384 0 i.digest
    | none => 0
  let m2 := match acceptedConfig f with
    | some c => extend384 0 c.digest
    | none => 0
  #v[extend384 0 f.loader, m1, m2, extend384 0 f.owner, 0, 0, 0, 0]

/-- What the attestation keys derive from beside the device secret: MEAS0 to MEAS3 (R293). -/
def attestOf (m : Vector (BitVec 384) 8) : List Byte := (List.range 4).flatMap (fun i => digestBytes (vget m i 0))

/-- BOOT: the measurements, the attestation keys with their certificate, which goes back to the maker (R293, R297), the domains (R14), the rollback
floor, the repair maps (Table 16.4); recovery when no image passes. -/
def boot (s : State) : State :=
  let f := s.flash
  let dom := (acceptedConfig f).map (fun c => (c.pwrdom, c.cooldom))
  let img := bootImage f
  let keys := Config.attestPublic (attestOf (bootMeas f))
  let h := { s.hub with meas := bootMeas f, attest := attestOf (bootMeas f), attestKeys := keys,
                        attestCert := Config.certifyAttest keys ++ Config.makerCertificate, pwrdom := (dom.map (·.1)).getD 0xFFFF, cooldom := (dom.map (·.2)).getD 0xFFFF }
  { s with
    hub := h, power := { s.power with recovery := img.isNone, repairs := f.repairs },
    flash := { f with floor := max f.floor ((img.map (·.floor)).getD 0) } }

/-! ## Power-on and cold reset (R303) -/

/-- The frames of a stack that may be allocated: retired frames never are (R275). -/
def stackFrames (f : Flash) (k : Nat) : Nat := 38146 * 512 - (f.retired.filter (fun p => stackOf (p * 4096) == k)).length

/-- What no reset of the model touches: flash, what the outside world holds, and the numbering of keys and free values. Every
volatile state is as State.reset has it, and key id 0 and the ids that nothing has loaded have fresh keys (R295). -/
def clearedState (s : State) (last : BitVec 2) : State :=
  let key := s.hub.nextKey
  let h := { Hub.reset with pkg := s.hub.pkg, memKeys := [(0, ⟨true, true, key, 0⟩)], nextKey := key + 1, blobs := s.hub.blobs, keyGen := s.hub.keyGen + 1 }
  { State.reset with
    flash := s.flash, schedule := s.schedule, free := s.free, nextAudit := s.nextAudit, hub := h,
    power := { Power.reset with last := last },
    freePages := Vector.ofFn (fun (k : Fin 16) => stackFrames s.flash k.val) }

/-- POWER_ON_RESET: the increments since the last merge are lost with the power (R281). -/
def execPowerOnReset (s : State) : Result := happens (boot (clearedState s 0))

/-- OWNERSHIP_TRANSFER (R294): a staged release whose maker signatures verify and that names this device, its present owner and the live nonce,
with an enrolment that the new owner has signed, installs the new owner; any other is erased. -/
def transferOwner (f : Flash) : Flash :=
  match f.release with
  | none => f
  | some r =>
    if r.maker ∧ r.enrolled ∧ r.device = identityDigest ∧ r.owner = f.owner ∧ r.nonce = f.nonce then
      { f with owner := r.newOwner, nonce := f.nonce + 1, release := none }
    else { f with release := none }

/-- RSTCTL, cold reset. -/
def execRstctlColdReset (hart : Nat) (s : State) : Result :=
  leaderWrite s hart (fun s => boot (clearedState ((mergeLife s).modFlash transferOwner) 1))

/-! ## Warm reset (R304, Table 16.4) -/

def Result.state (r : Result) (s : State) : State :=
  match r with
  | .next t => t
  | _ => s

/-- A shuttle command that has begun moves its remaining elements. -/
def finishShuttle (cid : Nat) (ch : Bool) : Nat → State → State
  | 0, s => s
  | n + 1, s =>
    match execShuttleElementMove cid ch s with
    | .next t => if t.verdict = .issued then finishShuttle cid ch n t else s
    | _ => s

/-- A bound on the moves that a begun command has left: one for each of its bytes, and one for each index step. -/
def movesLeft (x : Ctx) (ch : Bool) : Nat :=
  match (x.eng.channel ch).cmds with
  | c :: _ => if c.begun then 2 ^ 24 else 0
  | [] => 0

/-- Step 2: the shuttles and the arrays finish the commands that they execute, and the Darning engine the stripe whose shares have come. -/
def finishEngines (s : State) : State :=
  let s1 := (allCtxs s).foldl (fun t x =>
    let u := [false, true].foldl (fun u ch =>
      Result.state (execShuttleCompletion x.cid ch (finishShuttle x.cid ch (movesLeft x ch) u)) u) t
    Result.state (execDarningStripe x.cid u) u) s
  s1.quads.foldl (fun t (p : Nat × QuadState) =>
    match p.2.queue, p.2.started with
    | c :: _, some _ => t.onCtx c.cid (runTile · p.1 c)
    | _, _ => t) s1

/-- Step 3: every dirty line is written back, and one that fails is lost and recorded, in lines that are then written back too. -/
def flushAll (s : State) : State :=
  let flush := fun (t : State) => (t.dcache.map (·.line)).foldl State.writeBack t
  flush (settleWounds (flush s))

/-- The key slots after a warm reset whose measurements stayed (`same`) or changed: a kept key stays, every other id takes a
fresh key (R295, Table 16.4). -/
def keysAfter (same : Bool) (ks : List (Nat × KeySlot)) (next : Nat) : List (Nat × KeySlot) × Nat :=
  ks.foldl (fun (acc : List (Nat × KeySlot) × Nat) (p : Nat × KeySlot) =>
    if same ∧ (p.1 = 0 ∨ p.2.keep) then (acc.1 ++ [p], acc.2)
    else (acc.1 ++ [(p.1, (⟨p.1 == 0, p.1 == 0, acc.2, 0⟩ : KeySlot))], acc.2 + 1)) ([], next)

/-- RSTCTL, warm reset: memory, its keys under the condition of Table 16.4, the notify keys and what flash holds survive, and what the PHYs know of
their training (R305). -/
def warmState (s : State) : State :=
  let s1 := mergeLife (flushAll (finishEngines s))
  let same := decide ((bootMeas s1.flash).toList.take 4 = s1.hub.meas.toList.take 4)
  let ks := keysAfter same s1.hub.memKeys s1.hub.nextKey
  let base := clearedState s1 2
  let h := { base.hub with memKeys := ks.1, nextKey := ks.2, notifyKeys := s1.hub.notifyKeys }
  let z := !same && s1.hub.memKeys.any (fun p => p.1 != 0 && p.2.keep)
  boot { base with
    mem := s1.mem, cap := s1.cap, stamps := s1.stamps, lost := s1.lost, worn := s1.worn, freePages := s1.freePages, hub := h,
    power := { base.power with keyz := z, temps := s1.power.temps, trained := s1.power.trained } }

/-- RSTCTL, warm reset; the page copies in progress end before it (log 65). -/
def execRstctlWarmReset (hart : Nat) (s : State) : Result :=
  if s.pages.any isMoving ∧ hart = s.hub.holder ∧ hart < 6 ∧ s.hub.remain ≠ 0 then notNow s else leaderWrite s hart warmState

/-! ## The memory gate (R305) and the links (R300) -/

/-- RSTCTL.PTOK: writing 1 opens the walker. -/
def execRstctlPtok (hart : Nat) (s : State) : Result :=
  leaderWrite s hart (fun s => { s with power := { s.power with ptok := true } })

/-- Whether a PHY retrains fully after a warm reset: its die is more than 10 °C from the temperature of its saved training. None when a sample of
either is wanting (log 31). -/
def fullTraining (p : Power) (k : Nat) : Option Bool :=
  match vget p.trained k none, vget p.temps (homeDie k) none with
  | some a, some b => some (decide (a + 10 < b) || decide (b + 10 < a))
  | _, _ => none

/-- The temperatures of the PHYs' saved trainings once they have trained. -/
def trainedAt (p : Power) (full : BitVec 16) : Vector (Option Nat) 16 :=
  Vector.ofFn (fun (k : Fin 16) =>
    if p.last = 2 ∧ !full.getLsbD k.val then vget p.trained k.val none else vget p.temps (homeDie k.val) none)

/-- PHY_TRAINING_COMPLETE: TRAIN, and FULLRT for the stacks that retrained fully; key id 0 is loaded by then (log 31). After a warm reset the
temperatures decide which (R305). -/
def execPhyTrainingComplete (full : BitVec 16) (s : State) : Result :=
  let p := s.power
  let right := fun (k : Nat) => (fullTraining p k).all (· == full.getLsbD k)
  if p.train ∨ (p.last = 2 ∧ !(List.range 16).all right) then notNow s
  else happens { s with power := { p with train := true, keys := true, full := full, trained := trainedAt p full } }

/-- MEMORY_GATE_OPEN. -/
def execMemoryGateOpen (s : State) : Result :=
  let p := s.power
  if p.gate ∨ !(p.train && p.keys && p.ptok) then notNow s else happens { s with power := { p with gate := true } }

/-- LINK_TRAINING_COMPLETE (R300): of UALink ports 0 to 17, Ultra Ethernet ports 18 to 21 and CXL ports 22 to 29. -/
def execLinkTrainingComplete (port : Nat) (s : State) : Result :=
  if 30 ≤ port then notNow s
  else happens { s with power := { s.power with links := tabSet port false s.power.links } }

/-! ## Power and temperature (R307, R309) -/

/-- The module is without power, or held in power-on reset: nothing volatile is left, and only POWER_ON_RESET acts. -/
def powerOff (s : State) : State :=
  let t := clearedState s 0
  { t with power := { t.power with on := false } }

/-- POWER_INPUT_OUT_OF_RANGE (R307). -/
def execPowerInputOutOfRange (millivolts : Nat) (s : State) : Result :=
  if 50000 ≤ millivolts ∧ millivolts ≤ 58000 then notNow s else happens (powerOff s)

/-- POWER_LOSS (R281). -/
def execPowerLoss (s : State) : Result := happens (powerOff s)

/-- One die's sample in the swings and the histograms of Table 14.5; the hub die, number 6, has no core supply (log 68). -/
def sampleDie (s : State) (d t v : Nat) : State :=
  let (lo, hi) := match vget s.power.swing d none with
    | some (a, b) => (min a t, max b t)
    | none => (t, t)
  let swung := decide (30 < hi - lo)
  let s1 := { s with power := { s.power with swing := vset s.power.swing d (some (if swung then (t, t) else (lo, hi))) } }
  let tb := d * 16 + min 15 (t / 8)
  let vb := d * 16 + min 15 ((v - 600) / 10)
  s1.modLife (fun l =>
    { l with thermal := vset l.thermal d (vget l.thermal d 0 + swung.toNat), temps := vset l.temps tb (vget l.temps tb 0 + 1),
             volts := if d < 6 then vset l.volts vb (vget l.volts vb 0 + 1) else l.volts })

/-- THERMAL_SAMPLE (R309): every 100 µs, the input power in watts, the temperature in °C of each compute die and of the hub die, and the core
supply in mV of each compute die; one clock step of 100 MHz down or up, and power off at 105 °C. -/
def execThermalSample (watts : Nat) (temps volts : List Nat) (s : State) : Result :=
  if s.us < s.power.sampled + 100 ∨ temps.length ≠ 7 ∨ volts.length ≠ 6 then notNow s
  else
    let s1 := (List.range 7).foldl (fun t d => sampleDie t d (temps.getD d 0) (volts.getD d 0)) s
    let hot := decide (4400 < watts) || temps.any (fun t => decide (95 < t))
    let k := s1.power.clockSteps
    let s2 := { s1 with power := { s1.power with sampled := s.us, temps := Vector.ofFn (fun (d : Fin 7) => temps[d.val]?), clockSteps := if hot then min 6 (k + 1) else k - 1 } }
    if temps.any (fun t => decide (105 ≤ t)) then happens (powerOff s2) else happens s2

end Sys2Proof.Machine
end

