-- ==== Sys2Proof/Machine/Vector.lean ====
section
/-! DEFINITION. Integer and bitwise V instructions, moves across lanes, the vector stack, and the predicate instructions
(R376 to R385, R418 to R459). -/

namespace Sys2Proof.Machine

/-! ## Shapes -/

/-- An instruction of two sources: lane i of the result is `f` of the source lanes (R413). -/
def lanes2 (i : Instr) (lat : Nat) (d a b : BitVec 7) (m : Bool) (f : W32 → W32 → W32) (s : State) : Result :=
  issue i (fun s c =>
    let x := srcA s a
    let y := srcB s b
    vectorChecks i s c [d, a, b] [a] [d] (.go (writeLanes s lat d m (fun k => f (lane x k) (lane y k))))) s

/-- An instruction of one source, whose result lane may come from anywhere in it. -/
def lanes1 (i : Instr) (lat : Nat) (d a : BitVec 7) (m : Bool) (f : VReg → Nat → W32) (s : State) : Result :=
  issue i (fun s c =>
    let x := srcA s a
    vectorChecks i s c [d, a] [a] [d] (.go (writeLanes s lat d m (f x)))) s

/-- An instruction of three sources, the third v0 to v15; its active lanes are those below VLEN. -/
def lanes3 (i : Instr) (lat : Nat) (d a b : BitVec 7) (c : BitVec 4) (f : W32 → W32 → W32 → W32) (s : State) : Result :=
  issue i (fun s cl =>
    let x := srcA s a
    let y := srcB s b
    let z := srcC s c
    vectorChecks i s cl [d, a, b] [a] [d]
      (.go (writeLanes s lat d false (fun k => f (lane x k) (lane y k) (lane z k))))) s

/-- The predicate whose bit i is `f i` in the active lanes and 0 elsewhere (R415). -/
def predicateOf (s : State) (m : Bool) (f : Nat → Bool) : W64 :=
  BitVec.ofNat 64 ((List.range 64).foldl (fun n i => if active s m i && f i then n + 2 ^ i else n) 0)

/-! ## Integer arithmetic (R415) -/

/-- A shift amount: bits 4:0. -/
def amount (y : W32) : Nat := y.toNat % 32

def signedMax (x y : W32) : W32 := if x.toInt < y.toInt then y else x
def signedMin (x y : W32) : W32 := if y.toInt < x.toInt then y else x
def unsignedMax (x y : W32) : W32 := if x.toNat < y.toNat then y else x
def unsignedMin (x y : W32) : W32 := if y.toNat < x.toNat then y else x

/-- Byte k of a word. -/
def byteOf (x : W32) (k : Nat) : Byte := BitVec.ofNat 8 (x.toNat / 2 ^ (8 * k))

/-- GF8Mul byte by byte (R440, R441). -/
def gfLane (x y : W32) : W32 :=
  let b := fun (k : Nat) => (gfMul (byteOf x k) (byteOf y k)).toNat
  BitVec.ofNat 32 (b 0 + 2 ^ 8 * b 1 + 2 ^ 16 * b 2 + 2 ^ 24 * b 3)

/-- The comparison of VCMP (R420). -/
def compare32 (cond : Nat) (x y : W32) : Bool :=
  match cond with
  | 0 => x == y
  | 1 => x != y
  | 2 => decide (x.toInt < y.toInt)
  | 3 => decide (y.toInt ≤ x.toInt)
  | 4 => decide (x.toNat < y.toNat)
  | _ => decide (y.toNat ≤ x.toNat)

/-- VADD (R418). -/
def execVadd (st : Bool) (d a b : BitVec 7) (m : Bool) (s : State) : Result :=
  lanes2 (.vadd st d a b m) 2 d a b m (fun x y => x + y) s

/-- VSUB (R458). -/
def execVsub (st : Bool) (d a b : BitVec 7) (m : Bool) (s : State) : Result :=
  lanes2 (.vsub st d a b m) 2 d a b m (fun x y => x - y) s

/-- VMUL (R446). -/
def execVmul (st : Bool) (d a b : BitVec 7) (m : Bool) (s : State) : Result :=
  lanes2 (.vmul st d a b m) 2 d a b m (fun x y => x * y) s

/-- VMIN.s32 (R444). -/
def execVminS32 (st : Bool) (d a b : BitVec 7) (m : Bool) (s : State) : Result :=
  lanes2 (.vminS32 st d a b m) 2 d a b m signedMin s

/-- VMIN.n32 (R444). -/
def execVminN32 (st : Bool) (d a b : BitVec 7) (m : Bool) (s : State) : Result :=
  lanes2 (.vminN32 st d a b m) 2 d a b m unsignedMin s

/-- VMAX.s32 (R443). -/
def execVmaxS32 (st : Bool) (d a b : BitVec 7) (m : Bool) (s : State) : Result :=
  lanes2 (.vmaxS32 st d a b m) 2 d a b m signedMax s

/-- VMAX.n32 (R443). -/
def execVmaxN32 (st : Bool) (d a b : BitVec 7) (m : Bool) (s : State) : Result :=
  lanes2 (.vmaxN32 st d a b m) 2 d a b m unsignedMax s

/-- VSHL (R453). -/
def execVshl (st : Bool) (d a b : BitVec 7) (m : Bool) (s : State) : Result :=
  lanes2 (.vshl st d a b m) 2 d a b m (fun x y => x <<< amount y) s

/-- VSHR (R454). -/
def execVshr (st : Bool) (d a b : BitVec 7) (m : Bool) (s : State) : Result :=
  lanes2 (.vshr st d a b m) 2 d a b m (fun x y => x >>> amount y) s

/-- VSRA (R457). -/
def execVsra (st : Bool) (d a b : BitVec 7) (m : Bool) (s : State) : Result :=
  lanes2 (.vsra st d a b m) 2 d a b m (fun x y => x.sshiftRight (amount y)) s

/-- VGFMUL (R441). -/
def execVgfmul (st : Bool) (d a b : BitVec 7) (m : Bool) (s : State) : Result :=
  lanes2 (.vgfmul st d a b m) 2 d a b m gfLane s

/-- VGFMA (R440). -/
def execVgfma (st : Bool) (d a b : BitVec 7) (c : BitVec 4) (s : State) : Result :=
  lanes3 (.vgfma st d a b c) 2 d a b c (fun x y z => gfLane x y ^^^ z) s

/-- VFSH (R437). -/
def execVfsh (st : Bool) (d a b : BitVec 7) (c : BitVec 4) (s : State) : Result :=
  lanes3 (.vfsh st d a b c) 1 d a b c
    (fun x y z => BitVec.ofNat 32 ((x.toNat * 2 ^ 32 + y.toNat) / 2 ^ amount z)) s

/-- VCMP (R420). -/
def execVcmp (st : Bool) (d a b : BitVec 7) (m : Bool) (cond : BitVec 3) (s : State) : Result :=
  issue (.vcmp st d a b m cond) (fun s c =>
    let x := srcA s a
    let y := srcB s b
    vectorChecks (.vcmp st d a b m cond) s c [a, b] [a] []
      (.go (s.writeAt 2 (.pred d.toNat
        (predicateOf s m (fun k => compare32 cond.toNat (lane x k) (lane y k))))))) s

/-- One bit of VLOG3 (R442): the truth table's bit at 4 d + 2 a + b. -/
def logicLane (tt : BitVec 8) (d a b : W32) : W32 :=
  BitVec.ofNat 32 ((List.range 32).foldl (fun n j =>
    if tt.getLsbD (4 * (d.getLsbD j).toNat + 2 * (a.getLsbD j).toNat + (b.getLsbD j).toNat) then n + 2 ^ j else n) 0)

/-- VLOG3 (R442): the destination is the third input. -/
def execVlog3 (st : Bool) (d : BitVec 6) (a : BitVec 7) (b : BitVec 4) (tt : BitVec 8) (s : State) : Result :=
  issue (.vlog3 st d a b tt) (fun s c =>
    let z := plainSource s.ctx.regs d.toNat
    let x := srcA s a
    let y := srcC s b
    vectorChecks (.vlog3 st d a b tt) s c [d.setWidth 7, a] [a] []
      (.go (writeLanes s 1 (d.setWidth 7) false (fun k => logicLane tt (lane z k) (lane x k) (lane y k))))) s

/-! ## Moves across lanes -/

/-- VMOV (R445). -/
def execVmov (st : Bool) (d a : BitVec 7) (m : Bool) (s : State) : Result :=
  lanes1 (.vmov st d a m) 1 d a m lane s

/-- VPOPC (R449). -/
def execVpopc (st : Bool) (d a : BitVec 7) (m : Bool) (s : State) : Result :=
  lanes1 (.vpopc st d a m) 2 d a m (fun x k => BitVec.ofNat 32 (countOnes (lane x k) 32)) s

/-- VBCAST (R419). -/
def execVbcast (st : Bool) (d a : BitVec 7) (n : BitVec 6) (m : Bool) (s : State) : Result :=
  lanes1 (.vbcast st d a n m) 3 d a m (fun x _ => lane x n.toNat) s

/-- VSLIDE.up (R455). -/
def execVslideUp (st : Bool) (d a : BitVec 7) (n : BitVec 6) (m : Bool) (s : State) : Result :=
  lanes1 (.vslideUp st d a n m) 3 d a m (fun x k => if n.toNat ≤ k then lane x (k - n.toNat) else 0) s

/-- VSLIDE.down (R455). -/
def execVslideDown (st : Bool) (d a : BitVec 7) (n : BitVec 6) (m : Bool) (s : State) : Result :=
  lanes1 (.vslideDown st d a n m) 3 d a m (fun x k => if k + n.toNat ≤ 63 then lane x (k + n.toNat) else 0) s

/-- VPERM (R448). -/
def execVperm (st : Bool) (d a b : BitVec 7) (m : Bool) (s : State) : Result :=
  issue (.vperm st d a b m) (fun s c =>
    let x := srcA s a
    let y := srcB s b
    vectorChecks (.vperm st d a b m) s c [d, a, b] [a] [d]
      (.go (writeLanes s 3 d m (fun k => if (lane y k).toNat < 64 then lane x (lane y k).toNat else 0)))) s

/-- VSEL (R451). -/
def execVsel (st : Bool) (d a b : BitVec 7) (c : BitVec 4) (s : State) : Result :=
  issue (.vsel st d a b c) (fun s cl =>
    let x := srcA s a
    let y := srcB s b
    let p := predicate s c
    vectorChecks (.vsel st d a b c) s cl [d, a, b] [a] [d]
      (.go (writeLanes s 2 d false (fun k => if p.getLsbD k then lane x k else lane y k)))) s

/-- The element width of VPACK and VUNPK (R447): 4, 8 or 16 bits. -/
def packWidth (w : BitVec 2) : Nat := 4 * 2 ^ w.toNat

/-- The 64 elements of one source of VPACK, as the low 64 W bits of an image; inactive ones are zero. -/
def packed (s : State) (m : Bool) (w : Nat) (x : VReg) : Nat :=
  (List.range 64).foldl (fun n k => if active s m k then n + (lane x k).toNat % 2 ^ w * 2 ^ (w * k) else n) 0

/-- What a destination holds at issue. -/
def destValue (s : State) (d : VDest) : VReg :=
  match d with
  | .v n => vget s.ctx.regs.v n 0
  | .o n => vget s.ctx.regs.o n 0
  | .slot addr size => ofImage (s.ctx.bmem.read addr size)

/-- VPACK (R447). -/
def execVpack (st : Bool) (d a b : BitVec 7) (w : BitVec 2) (m : Bool) (s : State) : Result :=
  issue (.vpack st d a b w m) (fun s c =>
    let n := packWidth w
    let old := (destValue s (dstV s d)).toNat
    let v := packed s m n (srcA s a) + packed s m n (srcB s b) * 2 ^ (64 * n) + old * 2 ^ (128 * n)
    vectorChecks (.vpack st d a b w m) s c [d, a, b] [a] [d] (.go (writeAll s 3 (dstV s d) (BitVec.ofNat 2048 v)))) s

/-- VUNPK (R459). -/
def execVunpk (st : Bool) (d a k : BitVec 7) (w : BitVec 2) (m : Bool) (s : State) : Result :=
  lanes1 (.vunpk st d a k w m) 3 d a m
    (fun x i => BitVec.ofNat 32 (x.toNat / 2 ^ (packWidth w * (64 * k.toNat + i)) % 2 ^ packWidth w)) s

/-! ## The vector stack and VLEN -/

/-- VFILL (R429). -/
def execVfill (st : Bool) (r : BitVec 7) (slot : BitVec 11) (p : Bool) (s : State) : Result :=
  issue (.vfill st r slot p) (fun s _ =>
    let a := s.ctx.sr.vsp.toNat + (if p then 0 else 256 * slot.toNat)
    let bad := s.ctx.spLost a 256
    let s1 := if p then s.writeAt 1 (.vsp (s.ctx.sr.vsp + 256)) else s
    match capFault s [r] with
    | some (code, tval) => .trap code tval
    | none =>
      if wmHolds s.ctx a 256 then .wait .watermark
      else
        faultsThen [(spOut s.ctx a 256, 0x08, BitVec.ofNat 64 a), earlyFault s.ctx a 256]
          (.go ((writeAll s1 6 (dstV s r) (ofImage (s.ctx.spRead a 256))).abortAt 6 bad))) s

/-- VSPILL (R456). -/
def execVspill (st : Bool) (r : BitVec 7) (slot : BitVec 11) (p : Bool) (s : State) : Result :=
  issue (.vspill st r slot p) (fun s _ =>
    let vsp : Int := s.ctx.sr.vsp.toNat
    let a : Int := if p then vsp - 256 else vsp + 256 * slot.toNat
    let tval := BitVec.ofInt 64 a
    match capFault s [r] with
    | some (code, tval) => .trap code tval
    | none =>
      faultsThen [(a < s.ctx.sr.vslim.toNat, 0x09, tval), (spOut s.ctx a.toNat 256, 0x08, tval)]
        (let s1 := if p then s.writeAt 1 (.vsp (BitVec.ofInt 20 a)) else s
         .go (s1.writeAt 6 (.spStore a.toNat (imageBytes (plainSource s.ctx.regs r.toNat)) s.ctx.sr.dbgt)))) s

/-- VSETL (R452). -/
def execVsetl (st : Bool) (n : BitVec 7) (s : State) : Result :=
  issue (.vsetl st n) (fun s _ => .go (s.writeAt 1 (.vlen n))) s

/-! ## Predicates -/

/-- The operation of PLOG (R378). -/
def predicateLogic (op : Nat) (a b : W64) : W64 :=
  match op with
  | 0 => a &&& b
  | 1 => a ||| b
  | 2 => a ^^^ b
  | 3 => a &&& ~~~b
  | _ => ~~~a

/-- PLOG (R378). -/
def execPlog (st : Bool) (pd pa pb : BitVec 4) (op : BitVec 3) (s : State) : Result :=
  issue (.plog st pd pa pb op) (fun s _ =>
    .go (s.writeAt 1 (.pred pd.toNat (predicateLogic op.toNat (predicate s pa) (predicate s pb))))) s

/-- PSET (R384). -/
def execPset (st : Bool) (pd : BitVec 4) (n : BitVec 7) (s : State) : Result :=
  issue (.pset st pd n) (fun s _ => .go (s.writeAt 1 (.pred pd.toNat (BitVec.ofNat 64 (2 ^ n.toNat - 1))))) s

/-- A scalar in every active lane, with latency 1 (R376, R377). -/
def laneFill (i : Instr) (d : BitVec 7) (v : State → W32) (s : State) : Result :=
  issue i (fun s c => vectorChecks i s c [d] [] [d] (.go (writeLanes s 1 d false (fun _ => v s)))) s

/-- PCNT (R376). -/
def execPcnt (st : Bool) (d : BitVec 7) (pa : BitVec 4) (s : State) : Result :=
  laneFill (.pcnt st d pa) d (fun s => BitVec.ofNat 32 (countOnes (predicate s pa) s.ctx.sr.vlen.toNat)) s

/-- PFIRST (R377). -/
def execPfirst (st : Bool) (d : BitVec 7) (pa : BitVec 4) (s : State) : Result :=
  laneFill (.pfirst st d pa) d (fun s =>
    BitVec.ofNat 32 (((List.range s.ctx.sr.vlen.toNat).find? (fun i => (predicate s pa).getLsbD i)).getD 64)) s

/-- The first predicate of a group of eight. -/
def groupBase (g : Bool) : Nat := if g then 8 else 0

/-- PPACK (R380): all 64 lanes. -/
def execPpack (st : Bool) (d : BitVec 7) (g : Bool) (s : State) : Result :=
  issue (.ppack st d g) (fun s c =>
    let v := ofLanes (fun k =>
      if k < 16 then BitVec.ofNat 32 ((vget s.ctx.regs.p (groupBase g + k / 2) 0).toNat / 2 ^ (32 * (k % 2))) else 0)
    vectorChecks (.ppack st d g) s c [d] [] [d] (.go (writeAll s 2 (dstV s d) v))) s

/-- PUNPK (R385): eight predicates land in one cycle. -/
def execPunpk (st : Bool) (a : BitVec 7) (g : Bool) (s : State) : Result :=
  issue (.punpk st a g) (fun s c =>
    let x := srcA s a
    vectorChecks (.punpk st a g) s c [a] [a] []
      (.go ((List.range 8).foldl (fun t j =>
        t.writeAt 2 (.pred (groupBase g + j)
          (BitVec.ofNat 64 ((lane x (2 * j)).toNat + (lane x (2 * j + 1)).toNat * 2 ^ 32)))) s))) s

end Sys2Proof.Machine
end

