-- ==== Sys2Proof/Machine/VectorFp.lean ====
section
/-! DEFINITION. Floating-point V instructions, VCVT and VRED (R414, R416, R421 to R439, R450). -/

namespace Sys2Proof.Machine

/-- A floating-point instruction of two sources; `steps` when it rounds (R414). -/
def fp2 (i : Instr) (lat : Nat) (d a b : BitVec 7) (m steps : Bool) (f : RoundEnv → W32 → W32 → W32 × BitVec 10)
    (s : State) : Result :=
  issue i (fun s c =>
    let x := srcA s a
    let y := srcB s b
    vectorChecks i s c [d, a, b] [a] [d]
      (.go (writeFp s lat d m steps (fun env k => f env (lane x k) (lane y k))))) s

/-- A floating-point instruction of one source. -/
def fp1 (i : Instr) (lat : Nat) (d a : BitVec 7) (m steps : Bool) (f : RoundEnv → W32 → W32 × BitVec 10) (s : State) :
    Result :=
  issue i (fun s c =>
    let x := srcA s a
    vectorChecks i s c [d, a] [a] [d] (.go (writeFp s lat d m steps (fun env k => f env (lane x k))))) s

/-- A fused instruction of three sources; its active lanes are those below VLEN. -/
def fp3 (i : Instr) (d a b : BitVec 7) (c : BitVec 4) (f : RoundEnv → W32 → W32 → W32 → W32 × BitVec 10) (s : State) :
    Result :=
  issue i (fun s cl =>
    let x := srcA s a
    let y := srcB s b
    let z := srcC s c
    vectorChecks i s cl [d, a, b] [a] [d]
      (.go (writeFp s 4 d false true (fun env k => f env (lane x k) (lane y k) (lane z k))))) s

/-- VFADD (R424). -/
def execVfadd (st : Bool) (d a b : BitVec 7) (m : Bool) (s : State) : Result :=
  fp2 (.vfadd st d a b m) 4 d a b m true fpAdd s

/-- VFSUB (R439). -/
def execVfsub (st : Bool) (d a b : BitVec 7) (m : Bool) (s : State) : Result :=
  fp2 (.vfsub st d a b m) 4 d a b m true fpSub s

/-- VFMUL (R434). -/
def execVfmul (st : Bool) (d a b : BitVec 7) (m : Bool) (s : State) : Result :=
  fp2 (.vfmul st d a b m) 4 d a b m true fpMul s

/-- VFDIV (R427). -/
def execVfdiv (st : Bool) (d a b : BitVec 7) (m : Bool) (s : State) : Result :=
  fp2 (.vfdiv st d a b m) 12 d a b m true fpDiv s

/-- VFMIN (R433). -/
def execVfmin (st : Bool) (d a b : BitVec 7) (m : Bool) (s : State) : Result :=
  fp2 (.vfmin st d a b m) 4 d a b m false (fpPick false) s

/-- VFMAX (R432). -/
def execVfmax (st : Bool) (d a b : BitVec 7) (m : Bool) (s : State) : Result :=
  fp2 (.vfmax st d a b m) 4 d a b m false (fpPick true) s

/-- VFMA (R431). -/
def execVfma (st : Bool) (d a b : BitVec 7) (c : BitVec 4) (s : State) : Result :=
  fp3 (.vfma st d a b c) d a b c fpFma s

/-- VFNMA (R435). -/
def execVfnma (st : Bool) (d a b : BitVec 7) (c : BitVec 4) (s : State) : Result :=
  fp3 (.vfnma st d a b c) d a b c fpFnma s

/-- VFABS (R423). -/
def execVfabs (st : Bool) (d a : BitVec 7) (m : Bool) (s : State) : Result :=
  fp1 (.vfabs st d a m) 1 d a m false fpAbs s

/-- VFSQRT (R438). -/
def execVfsqrt (st : Bool) (d a : BitVec 7) (m : Bool) (s : State) : Result :=
  fp1 (.vfsqrt st d a m) 12 d a m true (fun env x => fpOut env (sqrtVal (fpIn env x))) s

/-- VFRCP (R436). -/
def execVfrcp (st : Bool) (d a : BitVec 7) (m : Bool) (s : State) : Result :=
  fp1 (.vfrcp st d a m) 6 d a m true (fun env x => fpOut env (rcpVal (fpIn env x))) s

/-- VFEXP2 (R428). -/
def execVfexp2 (st : Bool) (d a : BitVec 7) (m : Bool) (s : State) : Result :=
  fp1 (.vfexp2 st d a m) 6 d a m true (fun env x => fpOut env (exp2Val (fpIn env x))) s

/-- VFLOG2 (R430). -/
def execVflog2 (st : Bool) (d a : BitVec 7) (m : Bool) (s : State) : Result :=
  fp1 (.vflog2 st d a m) 6 d a m true (fun env x => fpOut env (log2Val (fpIn env x))) s

/-- VFCLASS (R425). -/
def execVfclass (st : Bool) (d a : BitVec 7) (m : Bool) (s : State) : Result :=
  lanes1 (.vfclass st d a m) 2 d a m (fun x k => fpClass (lane x k)) s

/-- VFCMP (R426): the predicate and the flags of the active lanes. -/
def execVfcmp (st : Bool) (d a b : BitVec 7) (m : Bool) (cond : BitVec 3) (s : State) : Result :=
  issue (.vfcmp st d a b m cond) (fun s c =>
    let x := srcA s a
    let y := srcB s b
    let r := fpLanes s m false (fun env k =>
      let (v, g) := fpCompare env cond.toNat (lane x k) (lane y k)
      (if v then 1 else 0, g))
    let p := predicateOf s m (fun k => r.out.getD k 0 == 1)
    vectorChecks (.vfcmp st d a b m cond) s c [a, b] [a] []
      (.go (landFlags (s.writeAt 2 (.pred d.toNat p)) 2 r.flags r.lfsr))) s

/-! ## VCVT (R421, R422) -/

/-- The place of part `j` of a lane for a type: 32 bits whole, else the part of its width. -/
def partShift (ty j : Nat) : Nat := if typeBits ty = 32 then 0 else typeBits ty * j

/-- The bits of a lane that a conversion writes. -/
def partMask (ty j : Nat) : W32 := BitVec.ofNat 32 ((2 ^ typeBits ty - 1) * 2 ^ partShift ty j)

/-- VCVT (R421). -/
def execVcvt (st : Bool) (d a : BitVec 7) (dty sty : BitVec 4) (part : BitVec 2) (m : Bool) (s : State) : Result :=
  issue (.vcvt st d a dty sty part m) (fun s c =>
    let x := srcA s a
    let sh := partShift sty.toNat part.toNat
    let r := fpLanes s m (convRounds dty.toNat sty.toNat) (fun env k =>
      let (v, g) := convert env dty.toNat sty.toNat ((lane x k).toNat / 2 ^ sh)
      (BitVec.ofNat 32 (v * 2 ^ partShift dty.toNat part.toNat), g))
    let mask := ofLanes (fun k => if active s m k then partMask dty.toNat part.toNat else 0)
    vectorChecks (.vcvt st d a dty sty part m) s c [d, a] [a] [d]
      (.go (landFlags (s.writeAt 3 (.vector (dstV s d) mask (ofLanes (fun k => r.out.getD k 0)))) 3 r.flags r.lfsr))) s

/-! ## VRED (R450) -/

/-- One combine step: value and flags. -/
def combine (env : RoundEnv) (op : Nat) (x y : W32) : W32 × BitVec 10 :=
  match op with
  | 0 => fpAdd env x y
  | 1 => fpPick true env x y
  | 2 => fpPick false env x y
  | 3 => (x + y, 0)
  | 4 => (signedMax x y, 0)
  | 5 => (signedMin x y, 0)
  | 6 => (x ^^^ y, 0)
  | _ => (x ||| y, 0)

/-- One level of the tree, in ascending j; an fsum step under stochastic rounding steps the LFSR. -/
def treeLevel (env : RoundEnv) (op : Nat) : List (Option W32) → BitVec 10 → W32 → List (Option W32) × BitVec 10 × W32
  | some x :: some y :: t, f, l =>
    let l' := if op = 0 ∧ env.rm = 4 then lfsrNext l else l
    let (v, g) := combine { env with draw := l'.toNat % 65536 } op x y
    let (r, f', l'') := treeLevel env op t (f ||| g) l'
    (some v :: r, f', l'')
  | x :: y :: t, f, l =>
    let (r, f', l') := treeLevel env op t f l
    ((if x.isSome then x else y) :: r, f', l')
  | t, f, l => (t, f, l)

/-- `n` levels of the tree. -/
def tree (env : RoundEnv) (op : Nat) : Nat → List (Option W32) → BitVec 10 → W32 → List (Option W32) × BitVec 10 × W32
  | 0, t, f, l => (t, f, l)
  | n + 1, t, f, l =>
    let (t', f', l') := treeLevel env op t f l
    tree env op n t' f' l'

/-- The result of a reduction: a floating-point one that is a NaN is the canonical NaN (R103), also where one lane alone is active (log 89). -/
def redResult (op : Nat) (v : W32) : W32 := if op < 3 && (unpack false 0 v.toNat).isNan then 0x7FC00000 else v

/-- VRED (R450). -/
def execVred (st : Bool) (d a : BitVec 7) (m : Bool) (op : BitVec 3) (s : State) : Result :=
  issue (.vred st d a m op) (fun s c =>
    let x := srcA s a
    let leaves := (List.range 64).map (fun k => if active s m k then some (lane x k) else none)
    let (r, f, l) := tree (roundEnv s) op.toNat 6 leaves 0 (curLfsr s)
    vectorChecks (.vred st d a m op) s c [d, a] [a] [d]
      (match r.headD none with
       | some v => .go (landFlags (writeLanes s 8 d m (fun _ => redResult op.toNat v)) 8 f l)
       | none => .go s)) s

end Sys2Proof.Machine
end

