-- ==== Sys2Proof/Machine/Dispatch.lean ====
section
/-! DEFINITION. The one match over the constructors of `Instr`: each arm is a direct call of that step's meaning. -/

namespace Sys2Proof.Machine

def exec (i : Instr) (s : State) : Host.Outcome State Fault Refusal :=
  match i with
  | .accfill st n => Sys2Proof.Machine.execAccfill st n s
  | .accspill st n => Sys2Proof.Machine.execAccspill st n s
  | .accz st n => Sys2Proof.Machine.execAccz st n s
  | .aclaim st n => Sys2Proof.Machine.execAclaim st n s
  | .add st rd rs1 rs2 => Sys2Proof.Machine.execAdd st rd rs1 rs2 s
  | .add16 st rd rs => Sys2Proof.Machine.execAdd16 st rd rs s
  | .addi st rd rs1 imm => Sys2Proof.Machine.execAddi st rd rs1 imm s
  | .addi16 st rd imm => Sys2Proof.Machine.execAddi16 st rd imm s
  | .adrain st n ma mb mc scope ty => Sys2Proof.Machine.execAdrain st n ma mb mc scope ty s
  | .afree st n => Sys2Proof.Machine.execAfree st n s
  | .amo st b ret base rs op w ord scope => Sys2Proof.Machine.execAmo st b ret base rs op w ord scope s
  | .and st rd rs1 rs2 => Sys2Proof.Machine.execAnd st rd rs1 rs2 s
  | .andn st rd rs1 rs2 => Sys2Proof.Machine.execAndn st rd rs1 rs2 s
  | .bgive st b n1 => Sys2Proof.Machine.execBgive st b n1 s
  | .bgive16 st b => Sys2Proof.Machine.execBgive16 st b s
  | .blk st len rep rsrc stg pre => Sys2Proof.Machine.execBlk st len rep rsrc stg pre s
  | .br st off => Sys2Proof.Machine.execBr st off s
  | .brb st b off => Sys2Proof.Machine.execBrb st b off s
  | .brc st cond reg off => Sys2Proof.Machine.execBrc st cond reg off s
  | .brk st imm => Sys2Proof.Machine.execBrk st imm s
  | .bstat st b reg => Sys2Proof.Machine.execBstat st b reg s
  | .btake st b n1 r reg => Sys2Proof.Machine.execBtake st b n1 r reg s
  | .btake16 st b => Sys2Proof.Machine.execBtake16 st b s
  | .cas st b base new exp w ord scope => Sys2Proof.Machine.execCas st b base new exp w ord scope s
  | .chkerr st reg => Sys2Proof.Machine.execChkerr st reg s
  | .clz st rd rs1 => Sys2Proof.Machine.execClz st rd rs1 s
  | .cmp st rd rs1 rs2 cond => Sys2Proof.Machine.execCmp st rd rs1 rs2 cond s
  | .darn st ra rb rc => Sys2Proof.Machine.execDarn st ra rb rc s
  | .div st rd rs1 rs2 u => Sys2Proof.Machine.execDiv st rd rs1 rs2 u s
  | .enq st ra rb rc => Sys2Proof.Machine.execEnq st ra rb rc s
  | .fence st scope => Sys2Proof.Machine.execFence st scope s
  | .flset st f v => Sys2Proof.Machine.execFlset st f v s
  | .flsetSet16 st f => Sys2Proof.Machine.execFlsetSet16 st f s
  | .flsetClear16 st f => Sys2Proof.Machine.execFlsetClear16 st f s
  | .flwait st f clr => Sys2Proof.Machine.execFlwait st f clr s
  | .flwait16 st f => Sys2Proof.Machine.execFlwait16 st f s
  | .flwaitClr16 st f => Sys2Proof.Machine.execFlwaitClr16 st f s
  | .fwq st ma => Sys2Proof.Machine.execFwq st ma s
  | .getsr st reg num => Sys2Proof.Machine.execGetsr st reg num s
  | .halt st => Sys2Proof.Machine.execHalt st s
  | .halt16 st => Sys2Proof.Machine.execHalt16 st s
  | .harrive st h leave => Sys2Proof.Machine.execHarrive st h leave s
  | .hwait st h => Sys2Proof.Machine.execHwait st h s
  | .knot st => Sys2Proof.Machine.execKnot st s
  | .ld st rd base sz cls off => Sys2Proof.Machine.execLd st rd base sz cls off s
  | .ldb st b base sp sz cls off => Sys2Proof.Machine.execLdb st b base sp sz cls off s
  | .ldbOrdered st b base sz cls ord scope => Sys2Proof.Machine.execLdbOrdered st b base sz cls ord scope s
  | .ldg st bd bi base cls esz sh sp => Sys2Proof.Machine.execLdg st bd bi base cls esz sh sp s
  | .ldlit st rd off => Sys2Proof.Machine.execLdlit st rd off s
  | .lease st ma f => Sys2Proof.Machine.execLease st ma f s
  | .lfree st => Sys2Proof.Machine.execLfree st s
  | .lhint st ra rb rc => Sys2Proof.Machine.execLhint st ra rb rc s
  | .li st rd imm => Sys2Proof.Machine.execLi st rd imm s
  | .li16 st rd imm => Sys2Proof.Machine.execLi16 st rd imm s
  | .lih st rd h imm => Sys2Proof.Machine.execLih st rd h imm s
  | .lsflag st ma clr sum n => Sys2Proof.Machine.execLsflag st ma clr sum n s
  | .max st rd rs1 rs2 u => Sys2Proof.Machine.execMax st rd rs1 rs2 u s
  | .min st rd rs1 rs2 u => Sys2Proof.Machine.execMin st rd rs1 rs2 u s
  | .mma st n xa xb z => Sys2Proof.Machine.execMma st n xa xb z s
  | .mov st rd rs1 => Sys2Proof.Machine.execMov st rd rs1 s
  | .mov16 st rd rs => Sys2Proof.Machine.execMov16 st rd rs s
  | .mul st rd rs1 rs2 => Sys2Proof.Machine.execMul st rd rs1 rs2 s
  | .mulh st rd rs1 rs2 u => Sys2Proof.Machine.execMulh st rd rs1 rs2 u s
  | .nbenter st ra rc => Sys2Proof.Machine.execNbenter st ra rc s
  | .nbexit st ra rc => Sys2Proof.Machine.execNbexit st ra rc s
  | .nbload st ra rb rc => Sys2Proof.Machine.execNbload st ra rb rc s
  | .nbmac st ra rc h => Sys2Proof.Machine.execNbmac st ra rc h s
  | .nbread st ra rc b => Sys2Proof.Machine.execNbread st ra rc b s
  | .nop st => Sys2Proof.Machine.execNop st s
  | .nop16 st => Sys2Proof.Machine.execNop16 st s
  | .or st rd rs1 rs2 => Sys2Proof.Machine.execOr st rd rs1 rs2 s
  | .pcnt st d pa => Sys2Proof.Machine.execPcnt st d pa s
  | .pfirst st d pa => Sys2Proof.Machine.execPfirst st d pa s
  | .plog st pd pa pb op => Sys2Proof.Machine.execPlog st pd pa pb op s
  | .popc st rd rs1 => Sys2Proof.Machine.execPopc st rd rs1 s
  | .ppack st d g => Sys2Proof.Machine.execPpack st d g s
  | .probe st rd ra t off => Sys2Proof.Machine.execProbe st rd ra t off s
  | .probeCfg st ra t => Sys2Proof.Machine.execProbeCfg st ra t s
  | .prot st ra rb rc set => Sys2Proof.Machine.execProt st ra rb rc set s
  | .pset st pd n => Sys2Proof.Machine.execPset st pd n s
  | .punpk st a g => Sys2Proof.Machine.execPunpk st a g s
  | .recfl st ra => Sys2Proof.Machine.execRecfl st ra s
  | .rem st rd rs1 rs2 u => Sys2Proof.Machine.execRem st rd rs1 rs2 u s
  | .rndend st ra rc => Sys2Proof.Machine.execRndend st ra rc s
  | .rowcp st ra rb rc n1 => Sys2Proof.Machine.execRowcp st ra rb rc n1 s
  | .rowfill st ra rb rc n1 => Sys2Proof.Machine.execRowfill st ra rb rc n1 s
  | .rowlog st ra rb rc op n1 => Sys2Proof.Machine.execRowlog st ra rb rc op n1 s
  | .sclaim st n => Sys2Proof.Machine.execSclaim st n s
  | .sel st rd rs1 rs2 rc => Sys2Proof.Machine.execSel st rd rs1 rs2 rc s
  | .setsr st reg num => Sys2Proof.Machine.execSetsr st reg num s
  | .sfree st n => Sys2Proof.Machine.execSfree st n s
  | .shgo st ra rb rc ch => Sys2Proof.Machine.execShgo st ra rb rc ch s
  | .shl st rd rs1 rs2 => Sys2Proof.Machine.execShl st rd rs1 rs2 s
  | .shr st rd rs1 rs2 => Sys2Proof.Machine.execShr st rd rs1 rs2 s
  | .shwm st ch rd => Sys2Proof.Machine.execShwm st ch rd s
  | .signal st ra rb => Sys2Proof.Machine.execSignal st ra rb s
  | .sra st rd rs1 rs2 => Sys2Proof.Machine.execSra st rd rs1 rs2 s
  | .st st rd base sp sz cls off => Sys2Proof.Machine.execSt st rd base sp sz cls off s
  | .stOrdered st rd base sz cls ord scope => Sys2Proof.Machine.execStOrdered st rd base sz cls ord scope s
  | .stb st b base sp cls off => Sys2Proof.Machine.execStb st b base sp cls off s
  | .stbOrdered st b base cls ord scope => Sys2Proof.Machine.execStbOrdered st b base cls ord scope s
  | .stsc st bd bi base cls esz sh sp => Sys2Proof.Machine.execStsc st bd bi base cls esz sh sp s
  | .sub st rd rs1 rs2 => Sys2Proof.Machine.execSub st rd rs1 rs2 s
  | .sub16 st rd rs => Sys2Proof.Machine.execSub16 st rd rs s
  | .trap st imm => Sys2Proof.Machine.execTrap st imm s
  | .tret st => Sys2Proof.Machine.execTret st s
  | .vadd st d a b m => Sys2Proof.Machine.execVadd st d a b m s
  | .vbcast st d a n m => Sys2Proof.Machine.execVbcast st d a n m s
  | .vcmp st d a b m cond => Sys2Proof.Machine.execVcmp st d a b m cond s
  | .vcvt st d a dty sty part m => Sys2Proof.Machine.execVcvt st d a dty sty part m s
  | .vfabs st d a m => Sys2Proof.Machine.execVfabs st d a m s
  | .vfadd st d a b m => Sys2Proof.Machine.execVfadd st d a b m s
  | .vfclass st d a m => Sys2Proof.Machine.execVfclass st d a m s
  | .vfcmp st d a b m cond => Sys2Proof.Machine.execVfcmp st d a b m cond s
  | .vfdiv st d a b m => Sys2Proof.Machine.execVfdiv st d a b m s
  | .vfexp2 st d a m => Sys2Proof.Machine.execVfexp2 st d a m s
  | .vfill st r slot p => Sys2Proof.Machine.execVfill st r slot p s
  | .vflog2 st d a m => Sys2Proof.Machine.execVflog2 st d a m s
  | .vfma st d a b c => Sys2Proof.Machine.execVfma st d a b c s
  | .vfmax st d a b m => Sys2Proof.Machine.execVfmax st d a b m s
  | .vfmin st d a b m => Sys2Proof.Machine.execVfmin st d a b m s
  | .vfmul st d a b m => Sys2Proof.Machine.execVfmul st d a b m s
  | .vfnma st d a b c => Sys2Proof.Machine.execVfnma st d a b c s
  | .vfrcp st d a m => Sys2Proof.Machine.execVfrcp st d a m s
  | .vfsh st d a b c => Sys2Proof.Machine.execVfsh st d a b c s
  | .vfsqrt st d a m => Sys2Proof.Machine.execVfsqrt st d a m s
  | .vfsub st d a b m => Sys2Proof.Machine.execVfsub st d a b m s
  | .vgfma st d a b c => Sys2Proof.Machine.execVgfma st d a b c s
  | .vgfmul st d a b m => Sys2Proof.Machine.execVgfmul st d a b m s
  | .vlog3 st d a b tt => Sys2Proof.Machine.execVlog3 st d a b tt s
  | .vmaxS32 st d a b m => Sys2Proof.Machine.execVmaxS32 st d a b m s
  | .vmaxN32 st d a b m => Sys2Proof.Machine.execVmaxN32 st d a b m s
  | .vminS32 st d a b m => Sys2Proof.Machine.execVminS32 st d a b m s
  | .vminN32 st d a b m => Sys2Proof.Machine.execVminN32 st d a b m s
  | .vmov st d a m => Sys2Proof.Machine.execVmov st d a m s
  | .vmul st d a b m => Sys2Proof.Machine.execVmul st d a b m s
  | .vpack st d a b w m => Sys2Proof.Machine.execVpack st d a b w m s
  | .vperm st d a b m => Sys2Proof.Machine.execVperm st d a b m s
  | .vpopc st d a m => Sys2Proof.Machine.execVpopc st d a m s
  | .vred st d a m op => Sys2Proof.Machine.execVred st d a m op s
  | .vsel st d a b c => Sys2Proof.Machine.execVsel st d a b c s
  | .vsetl st n => Sys2Proof.Machine.execVsetl st n s
  | .vshl st d a b m => Sys2Proof.Machine.execVshl st d a b m s
  | .vshr st d a b m => Sys2Proof.Machine.execVshr st d a b m s
  | .vslideUp st d a n m => Sys2Proof.Machine.execVslideUp st d a n m s
  | .vslideDown st d a n m => Sys2Proof.Machine.execVslideDown st d a n m s
  | .vspill st r slot p => Sys2Proof.Machine.execVspill st r slot p s
  | .vsra st d a b m => Sys2Proof.Machine.execVsra st d a b m s
  | .vsub st d a b m => Sys2Proof.Machine.execVsub st d a b m s
  | .vunpk st d a k w m => Sys2Proof.Machine.execVunpk st d a k w m s
  | .xcall st off => Sys2Proof.Machine.execXcall st off s
  | .xret st => Sys2Proof.Machine.execXret st s
  | .xor st rd rs1 rs2 => Sys2Proof.Machine.execXor st rd rs1 rs2 s
  | .engineWait cid => Sys2Proof.Machine.execEngineWait cid s
  | .contextSwitch core => Sys2Proof.Machine.execContextSwitch core s
  | .hoopNotification cid hoop => Sys2Proof.Machine.execHoopNotification cid hoop s
  | .taskRetirement cid => Sys2Proof.Machine.execTaskRetirement cid s
  | .gangTermination gang => Sys2Proof.Machine.execGangTermination gang s
  | .preemptionRequest gang => Sys2Proof.Machine.execPreemptionRequest gang s
  | .forcedStop gang => Sys2Proof.Machine.execForcedStop gang s
  | .contextStop cid => Sys2Proof.Machine.execContextStop cid s
  | .contextResumption cid => Sys2Proof.Machine.execContextResumption cid s
  | .engineFaultDelivery cid => Sys2Proof.Machine.execEngineFaultDelivery cid s
  | .tileCommandExecution quad => Sys2Proof.Machine.execTileCommandExecution quad s
  | .shuttleCommandBegin cid ch => Sys2Proof.Machine.execShuttleCommandBegin cid ch s
  | .shuttleCompletion cid ch => Sys2Proof.Machine.execShuttleCompletion cid ch s
  | .cutworkExecution cid => Sys2Proof.Machine.execCutworkExecution cid s
  | .couchingExecution cid => Sys2Proof.Machine.execCouchingExecution cid s
  | .queueEngineExecution cid => Sys2Proof.Machine.execQueueEngineExecution cid s
  | .footsideExecution cid => Sys2Proof.Machine.execFootsideExecution cid s
  | .darningStripe cid => Sys2Proof.Machine.execDarningStripe cid s
  | .placementBoundary interval => Sys2Proof.Machine.execPlacementBoundary interval s
  | .pageMigration page frame => Sys2Proof.Machine.execPageMigration page frame s
  | .evictionStart stack => Sys2Proof.Machine.execEvictionStart stack s
  | .pageEviction page capPage => Sys2Proof.Machine.execPageEviction page capPage s
  | .chainDemotion chain => Sys2Proof.Machine.execChainDemotion chain s
  | .launch slot => Sys2Proof.Machine.execLaunch slot s
  | .gangPlacement slot => Sys2Proof.Machine.execGangPlacement slot s
  | .gangReserving slot => Sys2Proof.Machine.execGangReserving slot s
  | .waitsig slot => Sys2Proof.Machine.execWaitsig slot s
  | .setsig slot => Sys2Proof.Machine.execSetsig slot s
  | .mark slot => Sys2Proof.Machine.execMark slot s
  | .nopPacket slot => Sys2Proof.Machine.execNopPacket slot s
  | .packetReject slot => Sys2Proof.Machine.execPacketReject slot s
  | .priorityAging slot => Sys2Proof.Machine.execPriorityAging slot s
  | .faultHoldExpiry slot => Sys2Proof.Machine.execFaultHoldExpiry slot s
  | .qnotify hart v => Sys2Proof.Machine.execQnotify hart v s
  | .remoteNotify src msg => Sys2Proof.Machine.execRemoteNotify src msg s
  | .nqclr hart qid peer => Sys2Proof.Machine.execNqclr hart qid peer s
  | .qmapcmdMap hart v => Sys2Proof.Machine.execQmapcmdMap hart v s
  | .qmapcmdUnmap hart v => Sys2Proof.Machine.execQmapcmdUnmap hart v s
  | .accevict hart quad v => Sys2Proof.Machine.execAccevict hart quad v s
  | .xinvPage hart v => Sys2Proof.Machine.execXinvPage hart v s
  | .xinvAsid hart v => Sys2Proof.Machine.execXinvAsid hart v s
  | .xinvAll hart v => Sys2Proof.Machine.execXinvAll hart v s
  | .grpcfgForm hart g v => Sys2Proof.Machine.execGrpcfgForm hart g v s
  | .grpcfgStby hart g v => Sys2Proof.Machine.execGrpcfgStby hart g v s
  | .grpcfgAbrt hart g v => Sys2Proof.Machine.execGrpcfgAbrt hart g v s
  | .grpmemWrite hart g j v => Sys2Proof.Machine.execGrpmemWrite hart g j v s
  | .heartbeatTimer g => Sys2Proof.Machine.execHeartbeatTimer g s
  | .memberLoss g j => Sys2Proof.Machine.execMemberLoss g j s
  | .heartbeat msg => Sys2Proof.Machine.execHeartbeat msg s
  | .seal msg => Sys2Proof.Machine.execSeal msg s
  | .delta msg => Sys2Proof.Machine.execDelta msg s
  | .dack msg => Sys2Proof.Machine.execDack msg s
  | .prepared msg => Sys2Proof.Machine.execPrepared msg s
  | .abortreq msg => Sys2Proof.Machine.execAbortreq msg s
  | .crec msg => Sys2Proof.Machine.execCrec msg s
  | .crecack msg => Sys2Proof.Machine.execCrecack msg s
  | .commit msg => Sys2Proof.Machine.execCommit msg s
  | .abort msg => Sys2Proof.Machine.execAbort msg s
  | .loss msg => Sys2Proof.Machine.execLoss msg s
  | .query msg => Sys2Proof.Machine.execQuery msg s
  | .qreply msg => Sys2Proof.Machine.execQreply msg s
  | .shreq msg => Sys2Proof.Machine.execShreq msg s
  | .share msg => Sys2Proof.Machine.execShare msg s
  | .join msg => Sys2Proof.Machine.execJoin msg s
  | .protectedLineRepair g line shares => Sys2Proof.Machine.execProtectedLineRepair g line shares s
  | .uncorrectableError site => Sys2Proof.Machine.execUncorrectableError site s
  | .correctableError stack row => Sys2Proof.Machine.execCorrectableError stack row s
  | .activationSaturation bank row => Sys2Proof.Machine.execActivationSaturation bank row s
  | .auditReplayEnd task sig core clean => Sys2Proof.Machine.execAuditReplayEnd task sig core clean s
  | .remoteTimeout cid idx => Sys2Proof.Machine.execRemoteTimeout cid idx s
  | .ualinkRequest req => Sys2Proof.Machine.execUalinkRequest req s
  | .uetPacket secured reliable payload => Sys2Proof.Machine.execUetPacket secured reliable payload s
  | .leadcmdRenew die v => Sys2Proof.Machine.execLeadcmdRenew die v s
  | .leadcmdTake die v => Sys2Proof.Machine.execLeadcmdTake die v s
  | .leadcmdResign die v => Sys2Proof.Machine.execLeadcmdResign die v s
  | .leaseLapse => Sys2Proof.Machine.execLeaseLapse s
  | .keycmdLoadMemoryKey hart v => Sys2Proof.Machine.execKeycmdLoadMemoryKey hart v s
  | .keycmdZeroiseMemoryKey hart v => Sys2Proof.Machine.execKeycmdZeroiseMemoryKey hart v s
  | .keycmdLoadNotifyKey hart v => Sys2Proof.Machine.execKeycmdLoadNotifyKey hart v s
  | .keycmdZeroiseNotifyKey hart v => Sys2Proof.Machine.execKeycmdZeroiseNotifyKey hart v s
  | .measext hart index digest => Sys2Proof.Machine.execMeasext hart index digest s
  | .signcmd hart pa => Sys2Proof.Machine.execSigncmd hart pa s
  | .flashMailboxRead hart => Sys2Proof.Machine.execFlashMailboxRead hart s
  | .rstctlWarmReset hart => Sys2Proof.Machine.execRstctlWarmReset hart s
  | .rstctlColdReset hart => Sys2Proof.Machine.execRstctlColdReset hart s
  | .rstctlPtok hart => Sys2Proof.Machine.execRstctlPtok hart s
  | .powerOnReset => Sys2Proof.Machine.execPowerOnReset s
  | .powerInputOutOfRange millivolts => Sys2Proof.Machine.execPowerInputOutOfRange millivolts s
  | .powerLoss => Sys2Proof.Machine.execPowerLoss s
  | .memoryGateOpen => Sys2Proof.Machine.execMemoryGateOpen s
  | .thermalSample watts temps volts => Sys2Proof.Machine.execThermalSample watts temps volts s
  | .lifetimeMerge => Sys2Proof.Machine.execLifetimeMerge s
  | .lifeEstimate est => Sys2Proof.Machine.execLifeEstimate est s
  | .registerWrite hart reg v => Sys2Proof.Machine.execRegisterWrite hart reg v s
  | .writeLands cid => Sys2Proof.Machine.execWriteLands cid s
  | .globalAccessPerformed cid idx => Sys2Proof.Machine.execGlobalAccessPerformed cid idx s
  | .shuttleElementMove cid ch => Sys2Proof.Machine.execShuttleElementMove cid ch s
  | .podHoopArrival entry leave armed => Sys2Proof.Machine.execPodHoopArrival entry leave armed s
  | .periodicRefresh bank row => Sys2Proof.Machine.execPeriodicRefresh bank row s
  | .phyTrainingComplete full => Sys2Proof.Machine.execPhyTrainingComplete full s
  | .linkTrainingComplete port => Sys2Proof.Machine.execLinkTrainingComplete port s
  | .supervisorHartAccess die acc => Sys2Proof.Machine.execSupervisorHartAccess die acc s

end Sys2Proof.Machine
end

