-- ==== Sys2Proof/Machine/Hart.lean ====
section
/-! DEFINITION. The supervisor harts (R283): RV64IMAFDC with Zicsr and Zifencei, the modes of the privileged architecture 1.12 and Sv48, as the
RISC-V standards that the rule names define them. What those leave to an implementation, and what the spec leaves open, is log 101. -/

namespace Sys2Proof.Machine

/-! ## Registers -/

def State.hart (s : State) (d : Nat) : Hart := vget s.harts d .reset
def State.modHart (s : State) (d : Nat) (f : Hart → Hart) : State := { s with harts := vset s.harts d (f (s.hart d)) }

/-- The privilege mode of a hart: 0 U, 1 S, 3 M. -/
def State.priv (s : State) (d : Nat) : Nat := vget s.hub.hartMode d 3
def State.setPriv (s : State) (d m : Nat) : State := { s with hub := { s.hub with hartMode := vset s.hub.hartMode d m } }

def Hart.get (h : Hart) (r : Nat) : W64 := if r = 0 then 0 else vget h.x r 0
def Hart.set (h : Hart) (r : Nat) (v : W64) : Hart := if r = 0 then h else { h with x := vset h.x r v }
def Hart.getF (h : Hart) (r : Nat) : W64 := vget h.f r 0

/-- A CSR as it is held: mstatus begins with 64-bit S and U modes. -/
def Hart.csr (h : Hart) (n : Nat) : W64 := (tabGet n h.csrs).getD (if n = 0x300 then 0xA00000000 else 0)
def Hart.setCsr (h : Hart) (n : Nat) (v : W64) : Hart := { h with csrs := tabSet n v h.csrs }

def Hart.status (h : Hart) (lo n : Nat) : Nat := bits64 (h.csr 0x300) lo n

/-- A field of mstatus takes a value. -/
def Hart.putStatus (h : Hart) (lo n v : Nat) : Hart :=
  h.setCsr 0x300 (fieldWrite (h.csr 0x300) (BitVec.ofNat 64 (v * 2 ^ lo)) (BitVec.ofNat 64 ((2 ^ n - 1) * 2 ^ lo)))

/-- A write of an f register: FS is dirty from then on. -/
def Hart.setF (h : Hart) (r : Nat) (v : W64) : Hart := { h.putStatus 13 2 3 with f := vset h.f r v }

/-- The exception flags of an operation join fflags; here they come as Table 4.8 has them. -/
def Hart.raise (h : Hart) (flags : BitVec 10) : Hart :=
  if flags = 0 then h else (h.putStatus 13 2 3).setCsr 3 (h.csr 3 ||| (flags >>> 3).setWidth 64)

/-! ## CSRs -/

/-- mstatus as it reads: SD tells that FS is dirty. -/
def Hart.mstatus (h : Hart) : W64 := h.csr 0x300 ||| (if h.status 13 2 = 3 then 0x8000000000000000 else 0)

def sstatusMask : W64 := 0x80000003000C6122

/-- misa: RV64, with A, C, D, F, I, M, S and U. -/
def misa : W64 := 0x800000000014112D

/-- Whether a CSR is one of those that hold nothing: PMP registers, event selectors and counters that are not there, and the identification
registers. -/
def zeroCsr (n : Nat) : Bool :=
  (decide (0x3A0 ≤ n) && decide (n < 0x3F0) && !(decide (n < 0x3B0) && n % 2 == 1)) || (decide (0x323 ≤ n) && decide (n < 0x340)) || n == 0x320 ||
    (decide (0xB03 ≤ n) && decide (n < 0xB20)) || (decide (0xC03 ≤ n) && decide (n < 0xC20)) || [0xF11, 0xF12, 0xF13, 0xF15].contains n

/-- What a CSR reads as; none of one that is not there. -/
def readCsr (s : State) (d n : Nat) : Option W64 :=
  let h := s.hart d
  if zeroCsr n then some 0
  else
    match n with
    | 0x001 => some (h.csr 3 &&& 0x1F)
    | 0x002 => some (h.csr 3 >>> 5 &&& 7)
    | 0x100 => some (h.mstatus &&& sstatusMask)
    | 0x104 => some (h.csr 0x304 &&& h.csr 0x303)
    | 0x144 => some (h.csr 0x344 &&& h.csr 0x303)
    | 0x300 => some h.mstatus
    | 0x301 => some misa
    | 0xF14 => some (BitVec.ofNat 64 d)
    | 0xB00 | 0xC00 => some (BitVec.ofNat 64 s.now + h.csr 0xB00)
    | 0xC02 => some (h.csr 0xB02)
    | _ =>
      if [0x003, 0x105, 0x106, 0x10A, 0x140, 0x141, 0x142, 0x143, 0x180, 0x302, 0x303, 0x304, 0x305, 0x306, 0x30A, 0x340, 0x341, 0x342, 0x343,
          0x344, 0xB02].contains n then some (h.csr n) else none

/-- A write of mstatus under a mask; an MPP that is no mode stays as it was. -/
def Hart.writeStatus (h : Hart) (v mask : W64) : Hart :=
  let m : W64 := if bits64 v 11 2 = 2 then mask &&& 0xFFFFFFFFFFFFE7FF else mask
  h.setCsr 0x300 (fieldWrite (h.csr 0x300) v m)

/-- A write of a CSR; minstret, which the write's own instruction does not count, is set one lower. -/
def Hart.writeCsr (h : Hart) (now : Nat) (n : Nat) (v : W64) : Hart :=
  let put := fun (k : Nat) (mask : W64) => h.setCsr k (fieldWrite (h.csr k) v mask)
  let fp := fun (lo : Nat) (mask : W64) => (h.putStatus 13 2 3).setCsr 3 (fieldWrite (h.csr 3) (v <<< lo) mask)
  match n with
  | 0x001 => fp 0 0x1F
  | 0x002 => fp 5 0xE0
  | 0x003 => fp 0 0xFF
  | 0x100 => h.writeStatus v 0xC6122
  | 0x300 => h.writeStatus v 0x7E79AA
  | 0x104 => put 0x304 (h.csr 0x303)
  | 0x144 => put 0x344 (h.csr 0x303 &&& 2)
  | 0x105 | 0x305 => put n 0xFFFFFFFFFFFFFFFD
  | 0x106 | 0x306 => put n 5
  | 0x10A | 0x30A => put n 1
  | 0x141 | 0x341 => put n 0xFFFFFFFFFFFFFFFE
  | 0x180 => if [0, 8, 9].contains (bits64 v 60 4) then h.setCsr n v else h
  | 0x302 => put n 0xB3FF
  | 0x303 => put n 0x222
  | 0x304 => put n 0xAAA
  | 0x344 => put n 0x222
  | 0xB00 => h.setCsr n (v - BitVec.ofNat 64 now)
  | 0xB02 => h.setCsr n (v - 1)
  | _ => if zeroCsr n ∨ n = 0x301 then h else h.setCsr n v

/-- Whether the present mode may access a CSR: its number names the lowest mode; fcsr needs the FP state on, satp in S mode that TVM is clear, and
a counter its enables. -/
def csrOpen (h : Hart) (priv n : Nat) : Bool :=
  let on := fun (c : Nat) => (h.csr c).getLsbD (n % 32)
  decide (n / 256 % 4 ≤ priv) && (decide (3 < n) || h.status 13 2 != 0) && !(n == 0x180 && priv == 1 && h.status 20 1 == 1) &&
    (n / 32 != 0xC00 / 32 || ((priv == 3 || on 0x306) && (priv != 0 || on 0x106)))

/-! ## Address translation -/

inductive HartUse | fetch | load | store
  deriving DecidableEq, Repr

/-- The causes of a page fault and of an access fault. -/
def HartUse.pageFault : HartUse → Nat
  | .fetch => 12
  | .load => 13
  | .store => 15
def HartUse.accessFault : HartUse → Nat
  | .fetch => 1
  | .load => 5
  | .store => 7

/-- The local address of a physical one: device memory of this package (log 101). -/
def hartLocal (s : State) (pa n : Nat) : Option Nat := if isLocal s pa ∧ localPart pa + n ≤ hbmEnd then some (localPart pa) else none

/-- A page-table entry. -/
def hartPte (s : State) (pa : Nat) : Option W64 :=
  match hartLocal s pa 8 with
  | some a => if hitsLost s a 8 then none else some (BitVec.ofNat 64 (leNat (s.homeBytes (physElem s a 0) (s.hub.pkg * 2 ^ 46 + a) 8)))
  | none => none

/-- Whether a leaf allows an access of a mode. The A bit, and of a store the D bit, must be set. -/
def leafAllows (h : Hart) (priv : Nat) (u : HartUse) (e : W64) : Bool :=
  let user := e.getLsbD 4
  (if priv = 0 then user else !user || (u != .fetch && h.status 18 1 == 1)) && e.getLsbD 6 &&
    (match u with
     | .fetch => e.getLsbD 3
     | .load => e.getLsbD 1 || (h.status 19 1 == 1 && e.getLsbD 3)
     | .store => e.getLsbD 2 && e.getLsbD 7)

/-- The walk from a table, of so many levels: the physical address, or the cause. -/
def hartWalk (s : State) (h : Hart) (priv : Nat) (u : HartUse) (va : Nat) (table : Nat) : Nat → Except Nat Nat
  | 0 => .error u.pageFault
  | i + 1 =>
    match hartPte s (table + 8 * (va / 2 ^ (12 + 9 * i) % 512)) with
    | none => .error u.accessFault
    | some e =>
      let ppn := bits64 e 10 44
      if !e.getLsbD 0 ∨ (e.getLsbD 2 ∧ !e.getLsbD 1) ∨ bits64 e 54 10 ≠ 0 then .error u.pageFault
      else if !e.getLsbD 1 ∧ !e.getLsbD 3 then hartWalk s h priv u va (ppn * 4096) i
      else if ppn % 2 ^ (9 * i) ≠ 0 ∨ !leafAllows h priv u e then .error u.pageFault
      else .ok (ppn * 4096 + va % 2 ^ (12 + 9 * i))

/-- The mode as which a hart makes an access: MPRV of machine mode names another for loads and stores. -/
def usePriv (s : State) (d : Nat) (u : HartUse) : Nat :=
  if s.priv d = 3 ∧ u ≠ .fetch ∧ (s.hart d).status 17 1 = 1 then (s.hart d).status 11 2 else s.priv d

/-- Sv48, or Sv39, which a hart with Sv48 has too. -/
def hartTranslate (s : State) (d : Nat) (u : HartUse) (va : W64) : Except Nat Nat :=
  let h := s.hart d
  let satp := h.csr 0x180
  let priv := usePriv s d u
  let mode := bits64 satp 60 4
  if priv = 3 ∨ mode = 0 then .ok va.toNat
  else
    let bits := if mode = 8 then 39 else 48
    let low := va.toNat % 2 ^ bits
    if (BitVec.ofNat 64 low : W64) + (if 2 ^ (bits - 1) ≤ low then BitVec.ofNat 64 (2 ^ 64 - 2 ^ bits) else 0) ≠ va then .error u.pageFault
    else hartWalk s h priv u low (bits64 satp 0 44 * 4096) (if mode = 8 then 3 else 4)

/-! ## Traps -/

/-- What an instruction of a hart comes to: it is done, it raises an exception, or it waits. -/
inductive HartEnd
  | done (s : State) | trap (s : State) (cause : Nat) (tval : W64) | wait

/-- A trap is taken, in S mode if it is delegated and comes from S or U. -/
def hartTrap (s : State) (d : Nat) (intr : Bool) (cause : Nat) (tval : W64) : State :=
  let h := s.hart d
  let p := s.priv d
  let toS := decide (p ≤ 1) && (h.csr (if intr then 0x303 else 0x302)).getLsbD cause
  let base := if toS then 0x100 else 0x300
  let vec := h.csr (base + 5)
  let code : W64 := BitVec.ofNat 64 cause ||| (if intr then 0x8000000000000000 else 0)
  let pc := (vec &&& 0xFFFFFFFFFFFFFFFC) + (if intr ∧ bits64 vec 0 2 = 1 then BitVec.ofNat 64 (4 * cause) else 0)
  let h1 := ((h.setCsr (base + 0x41) h.pc).setCsr (base + 0x42) code).setCsr (base + 0x43) tval
  let h2 := if toS then ((h1.putStatus 5 1 (h.status 1 1)).putStatus 1 1 0).putStatus 8 1 p
    else ((h1.putStatus 7 1 (h.status 3 1)).putStatus 3 1 0).putStatus 11 2 p
  (s.modHart d (fun _ => { h2 with pc := pc })).setPriv d (if toS then 1 else 3)

/-- The interrupt that is taken next: pending, enabled, and of a mode whose interrupts are on; machine mode's come first. -/
def hartInterrupt (s : State) (d : Nat) : Option Nat :=
  let h := s.hart d
  let p := s.priv d
  let live := h.csr 0x344 &&& h.csr 0x304
  let mine := fun (toS : Bool) (c : Nat) => live.getLsbD c && (h.csr 0x303).getLsbD c == toS
  let order := [11, 3, 7, 9, 1, 5]
  match if p < 3 ∨ h.status 3 1 = 1 then order.find? (mine false) else none with
  | some c => some c
  | none => if p < 1 ∨ (p = 1 ∧ h.status 1 1 = 1) then order.find? (mine true) else none

/-- MRET and SRET. -/
def hartReturn (s : State) (d : Nat) (machine : Bool) : State :=
  let h := s.hart d
  let back := if machine then h.status 11 2 else h.status 8 1
  let h1 := if machine then ((h.putStatus 3 1 (h.status 7 1)).putStatus 7 1 1).putStatus 11 2 0
    else ((h.putStatus 1 1 (h.status 5 1)).putStatus 5 1 1).putStatus 8 1 0
  let h2 := if back = 3 then h1 else h1.putStatus 17 1 0
  (s.modHart d (fun _ => { h2 with pc := h.csr (if machine then 0x341 else 0x141) })).setPriv d back

/-! ## Integer arithmetic -/

/-- The low 32 bits, sign-extended. -/
def sext32 (v : W64) : W64 := (v.setWidth 32).signExtend 64

/-- The operations of I at 64 bits; `alt` is bit 30 of the instruction. -/
def hartAlu (f3 : Nat) (alt : Bool) (a b : W64) : W64 :=
  match f3 with
  | 0 => if alt then a - b else a + b
  | 1 => a <<< (b.toNat % 64)
  | 2 => if a.toInt < b.toInt then 1 else 0
  | 3 => if a.toNat < b.toNat then 1 else 0
  | 4 => a ^^^ b
  | 5 => if alt then a.sshiftRight (b.toNat % 64) else a >>> (b.toNat % 64)
  | 6 => a ||| b
  | _ => a &&& b

/-- Those at 32 bits. -/
def hartAluW (f3 : Nat) (alt : Bool) (a b : W64) : Option W64 :=
  let x := a.setWidth 32
  match f3 with
  | 0 => some (sext32 (if alt then a - b else a + b))
  | 1 => some ((x <<< (b.toNat % 32)).signExtend 64)
  | 5 => some ((if alt then x.sshiftRight (b.toNat % 32) else x >>> (b.toNat % 32)).signExtend 64)
  | _ => none

/-- Division as M defines it: by 0 it gives all ones and the dividend as remainder; the one overflow gives the dividend and 0. -/
def hartDiv {w : Nat} (f3 : Nat) (a b : BitVec w) : BitVec w :=
  match f3 with
  | 4 => if b = 0 then BitVec.allOnes w else BitVec.ofInt w (a.toInt.tdiv b.toInt)
  | 5 => if b = 0 then BitVec.allOnes w else a / b
  | 6 => if b = 0 then a else BitVec.ofInt w (a.toInt.tmod b.toInt)
  | _ => if b = 0 then a else a % b

/-- The operations of M at 64 bits. -/
def hartMul (f3 : Nat) (a b : W64) : W64 :=
  let high := fun (x y : Int) => BitVec.ofInt 64 (x * y / 2 ^ 64)
  match f3 with
  | 0 => a * b
  | 1 => high a.toInt b.toInt
  | 2 => high a.toInt b.toNat
  | 3 => high a.toNat b.toNat
  | _ => hartDiv f3 a b

def hartMulW (f3 : Nat) (a b : W64) : Option W64 :=
  match f3 with
  | 0 => some (sext32 (a * b))
  | 1 | 2 | 3 => none
  | _ => some ((hartDiv f3 (a.setWidth 32) (b.setWidth 32)).signExtend 64)

def hartTakes (f3 : Nat) (a b : W64) : Option Bool :=
  match f3 with
  | 0 => some (a == b)
  | 1 => some (a != b)
  | 4 => some (decide (a.toInt < b.toInt))
  | 5 => some (decide (b.toInt ≤ a.toInt))
  | 6 => some (decide (a.toNat < b.toNat))
  | 7 => some (decide (b.toNat ≤ a.toNat))
  | _ => none

/-! ## Floating point: F and D -/

/-- The two formats: single (`false`) and double precision. -/
def hartFormat (dbl : Bool) : FpFormat := if dbl then ⟨11, 52, 1023, true⟩ else fpFormat 0

def hartWidth (dbl : Bool) : Nat := if dbl then 64 else 32

/-- The code of the canonical NaN. -/
def hartNaN (dbl : Bool) : Nat := if dbl then 0x7FF8000000000000 else 0x7FC00000

/-- The code in an f register; a single that is not NaN-boxed reads as the canonical NaN. -/
def hartCode (dbl : Bool) (v : W64) : Nat :=
  if dbl then v.toNat else if v.toNat / 2 ^ 32 = 2 ^ 32 - 1 then v.toNat % 2 ^ 32 else hartNaN false

/-- A code as an f register holds it. -/
def hartBox (dbl : Bool) (c : Nat) : W64 := BitVec.ofNat 64 (if dbl then c else c + (2 ^ 32 - 1) * 2 ^ 32)

def hartVal (dbl : Bool) (v : W64) : FpVal := unpackFloat (hartFormat dbl) (hartCode dbl v)

/-- How a rounding mode of frm (0 to 4) rounds: to nearest ties to even, toward zero, down, up, to nearest ties away. The last is a draw at
one half. -/
def hartEnv (rm : Nat) : RoundEnv :=
  { rm := match rm with
          | 0 => 0
          | 1 => 1
          | 2 => 3
          | 3 => 2
          | _ => 4,
    ftz := false, l8nar := false, draw := 32767 }

/-- A value rounded to a format: the code and the flags; tininess is judged after a rounding of unbounded exponent. -/
def hartRound (rm : Nat) (dbl : Bool) (x : FpVal) : Nat × BitVec 10 :=
  let f := hartFormat dbl
  let env := hartEnv rm
  let sign := fun (neg : Bool) => if neg then 2 ^ (hartWidth dbl - 1) else 0
  let inf := (2 ^ f.ebits - 1) * 2 ^ f.fbits
  match x with
  | .nan sig => (hartNaN dbl, flagIf sig flagNV)
  | .inf neg => (sign neg + inf, 0)
  | .fin neg n e sticky =>
    if n = 0 then (sign neg, 0)
    else
      let emin : Int := 1 - f.bias
      let top := topBit n e
      let q := max top emin - f.fbits
      let (m, inexact) := roundAt env neg n e sticky q
      let (u, _) := roundAt env neg n e sticky (top - f.fbits)
      let tiny := decide (topBit u (top - f.fbits) < emin)
      let (mm, mq) := codeMag f (inf - 1)
      if magGt m q mm mq then
        (sign neg + (if rm = 1 ∨ (rm = 2 ∧ neg = false) ∨ (rm = 3 ∧ neg = true) then inf - 1 else inf), flagOF ||| flagNX)
      else (sign neg + encodeMag f m q, flagIf inexact flagNX ||| flagIf (inexact && tiny) flagUF)

/-- A magnitude with 64 more bits below, so that a quotient of it has enough. -/
def FpVal.widened : FpVal → FpVal
  | .fin neg n e s => .fin neg (n * 2 ^ 64) (e - 64) s
  | x => x

/-- The square root, to 64 bits and more. -/
def hartSqrt (x : FpVal) : FpVal × BitVec 10 :=
  match x with
  | .fin false n e _ =>
    if n = 0 then (x, 0)
    else
      let odd := e % 2 != 0
      let m := (if odd then 2 * n else n) * 2 ^ 128
      let r := isqrt m 96
      (.fin false r (((if odd then e - 1 else e) - 128) / 2) (r * r != m), 0)
  | y => sqrtVal y

/-- FCLASS. -/
def hartClass (dbl : Bool) (c : Nat) : Nat :=
  let f := hartFormat dbl
  match unpackFloat f c with
  | .nan sig => if sig then 2 ^ 8 else 2 ^ 9
  | .inf neg => if neg then 1 else 2 ^ 7
  | .fin neg n _ _ =>
    if n = 0 then (if neg then 2 ^ 3 else 2 ^ 4)
    else if n < 2 ^ f.fbits then (if neg then 2 ^ 2 else 2 ^ 5)
    else if neg then 2 else 2 ^ 6

/-- FMIN and FMAX: a NaN gives way to a number, and -0 is below +0. -/
def hartMin (dbl greater : Bool) (a b : W64) : Nat × BitVec 10 :=
  let x := hartVal dbl a
  let y := hartVal dbl b
  let nv := flagIf (x.isSnan || y.isSnan) flagNV
  let neg := fun (c : Nat) => decide (2 ^ (hartWidth dbl - 1) ≤ c)
  let less := ltVal x y || (eqVal x y && neg (hartCode dbl a) && !neg (hartCode dbl b))
  if x.isNan ∧ y.isNan then (hartNaN dbl, nv)
  else if x.isNan then (hartCode dbl b, nv)
  else if y.isNan then (hartCode dbl a, nv)
  else (hartCode dbl (if less != greater then a else b), nv)

/-- A float as an integer of 32 or 64 bits: out of range it saturates with NV, and a NaN gives the greatest. -/
def hartToInt (rm : Nat) (signed : Bool) (w : Nat) (x : FpVal) : Int × BitVec 10 :=
  let hi : Int := if signed then 2 ^ (w - 1) - 1 else 2 ^ w - 1
  let lo : Int := if signed then -2 ^ (w - 1) else 0
  match x with
  | .nan _ => (hi, flagNV)
  | .inf neg => (if neg then lo else hi, flagNV)
  | .fin neg n e sticky =>
    let (m, inexact) := roundAt (hartEnv rm) neg n e sticky 0
    let v : Int := if neg then -(m : Int) else m
    if v < lo then (lo, flagNV) else if hi < v then (hi, flagNV) else (v, flagIf inexact flagNX)

def intVal (v : Int) : FpVal := .fin (decide (v < 0)) v.natAbs 0 false

/-! ## The compressed instructions -/

/-- A number's bits `lo` to `lo + n - 1`. -/
def fld (w lo n : Nat) : Nat := w / 2 ^ lo % 2 ^ n

/-- Bits of a word gathered into a number: for each field its place in the word, its width and its place in the number. -/
def gatherBits (w : Nat) (fs : List (Nat × Nat × Nat)) : Nat := fs.foldl (fun v f => v + fld w f.1 f.2.1 * 2 ^ f.2.2) 0

/-- An `n`-bit number sign-extended to a field of `m` bits. -/
def widenField (v n m : Nat) : Nat := if 2 ^ (n - 1) ≤ v then v + (2 ^ m - 2 ^ n) else v

/-- The 32-bit instructions by format. -/
def rvR (op f3 f7 rd rs1 rs2 : Nat) : Nat := op + rd * 2 ^ 7 + f3 * 2 ^ 12 + rs1 * 2 ^ 15 + rs2 * 2 ^ 20 + f7 * 2 ^ 25
def rvI (op f3 rd rs1 imm : Nat) : Nat := op + rd * 2 ^ 7 + f3 * 2 ^ 12 + rs1 * 2 ^ 15 + imm * 2 ^ 20
def rvS (op f3 rs1 rs2 imm : Nat) : Nat := op + fld imm 0 5 * 2 ^ 7 + f3 * 2 ^ 12 + rs1 * 2 ^ 15 + rs2 * 2 ^ 20 + fld imm 5 7 * 2 ^ 25
def rvB (f3 rs1 imm : Nat) : Nat :=
  0x63 + fld imm 11 1 * 2 ^ 7 + fld imm 1 4 * 2 ^ 8 + f3 * 2 ^ 12 + rs1 * 2 ^ 15 + fld imm 5 6 * 2 ^ 25 + fld imm 12 1 * 2 ^ 31
def rvJ (rd imm : Nat) : Nat :=
  0x6F + rd * 2 ^ 7 + fld imm 12 8 * 2 ^ 12 + fld imm 11 1 * 2 ^ 20 + fld imm 1 10 * 2 ^ 21 + fld imm 20 1 * 2 ^ 31

/-- Quadrant 0: loads and stores of the registers 8 to 15. -/
def expand0 (h : Nat) : Option Nat :=
  let r := 8 + fld h 2 3
  let b := 8 + fld h 7 3
  let w := gatherBits h [(10, 3, 3), (6, 1, 2), (5, 1, 6)]
  let q := gatherBits h [(10, 3, 3), (5, 2, 6)]
  match fld h 13 3 with
  | 0 =>
    let imm := gatherBits h [(11, 2, 4), (7, 4, 6), (6, 1, 2), (5, 1, 3)]
    if imm = 0 then none else some (rvI 0x13 0 r 2 imm)
  | 1 => some (rvI 0x07 3 r b q)
  | 2 => some (rvI 0x03 2 r b w)
  | 3 => some (rvI 0x03 3 r b q)
  | 5 => some (rvS 0x27 3 b r q)
  | 6 => some (rvS 0x23 2 b r w)
  | 7 => some (rvS 0x23 3 b r q)
  | _ => none

/-- Quadrant 1: immediates, the arithmetic of the registers 8 to 15, jumps and branches. -/
def expand1 (h : Nat) : Option Nat :=
  let rd := fld h 7 5
  let b := 8 + fld h 7 3
  let r := 8 + fld h 2 3
  let imm6 := gatherBits h [(2, 5, 0), (12, 1, 5)]
  let imm := widenField imm6 6 12
  let branch := widenField (gatherBits h [(12, 1, 8), (10, 2, 3), (5, 2, 6), (3, 2, 1), (2, 1, 5)]) 9 13
  match fld h 13 3 with
  | 0 => some (rvI 0x13 0 rd rd imm)
  | 1 => if rd = 0 then none else some (rvI 0x1B 0 rd rd imm)
  | 2 => some (rvI 0x13 0 rd 0 imm)
  | 3 =>
    if imm6 = 0 then none
    else if rd = 2 then some (rvI 0x13 0 2 2 (widenField (gatherBits h [(12, 1, 9), (6, 1, 4), (5, 1, 6), (3, 2, 7), (2, 1, 5)]) 10 12))
    else some (0x37 + rd * 2 ^ 7 + widenField imm6 6 20 * 2 ^ 12)
  | 4 =>
    match fld h 10 2 with
    | 0 => some (rvI 0x13 5 b b imm6)
    | 1 => some (rvI 0x13 5 b b (imm6 + 0x400))
    | 2 => some (rvI 0x13 7 b b imm)
    | _ =>
      match fld h 12 1, fld h 5 2 with
      | 0, 0 => some (rvR 0x33 0 0x20 b b r)
      | 0, 1 => some (rvR 0x33 4 0 b b r)
      | 0, 2 => some (rvR 0x33 6 0 b b r)
      | 0, _ => some (rvR 0x33 7 0 b b r)
      | _, 0 => some (rvR 0x3B 0 0x20 b b r)
      | _, 1 => some (rvR 0x3B 0 0 b b r)
      | _, _ => none
  | 5 => some (rvJ 0 (widenField (gatherBits h [(12, 1, 11), (11, 1, 4), (9, 2, 8), (8, 1, 10), (7, 1, 6), (6, 1, 7), (3, 3, 1), (2, 1, 5)]) 12 21))
  | 6 => some (rvB 0 b branch)
  | _ => some (rvB 1 b branch)

/-- Quadrant 2: the stack, moves and jumps to registers. -/
def expand2 (h : Nat) : Option Nat :=
  let rd := fld h 7 5
  let r := fld h 2 5
  let lw := gatherBits h [(12, 1, 5), (4, 3, 2), (2, 2, 6)]
  let ld := gatherBits h [(12, 1, 5), (5, 2, 3), (2, 3, 6)]
  let sw := gatherBits h [(9, 4, 2), (7, 2, 6)]
  let sd := gatherBits h [(10, 3, 3), (7, 3, 6)]
  match fld h 13 3 with
  | 0 => some (rvI 0x13 1 rd rd (gatherBits h [(2, 5, 0), (12, 1, 5)]))
  | 1 => some (rvI 0x07 3 rd 2 ld)
  | 2 => if rd = 0 then none else some (rvI 0x03 2 rd 2 lw)
  | 3 => if rd = 0 then none else some (rvI 0x03 3 rd 2 ld)
  | 4 =>
    if fld h 12 1 = 0 then
      (if r ≠ 0 then some (rvR 0x33 0 0 rd 0 r) else if rd = 0 then none else some (rvI 0x67 0 0 rd 0))
    else if r ≠ 0 then some (rvR 0x33 0 0 rd rd r)
    else if rd = 0 then some 0x00100073
    else some (rvI 0x67 0 1 rd 0)
  | 5 => some (rvS 0x27 3 2 r sd)
  | 6 => some (rvS 0x23 2 2 r sw)
  | _ => some (rvS 0x23 3 2 r sd)

/-- The instruction that a compressed one stands for. -/
def expandRvc (h : Nat) : Option Nat :=
  match h % 4 with
  | 0 => expand0 h
  | 1 => expand1 h
  | _ => expand2 h

/-! ## Execution -/

/-- The immediates of a 32-bit instruction, sign-extended to 64 bits. -/
def sextField (v n : Nat) : W64 := BitVec.ofNat 64 (widenField v n 64)
def immI (w : Nat) : W64 := sextField (fld w 20 12) 12
def immS (w : Nat) : W64 := sextField (gatherBits w [(7, 5, 0), (25, 7, 5)]) 12
def immB (w : Nat) : W64 := sextField (gatherBits w [(8, 4, 1), (25, 6, 5), (7, 1, 11), (31, 1, 12)]) 13
def immU (w : Nat) : W64 := sextField (fld w 12 20 * 2 ^ 12) 32
def immJ (w : Nat) : W64 := sextField (gatherBits w [(21, 10, 1), (20, 1, 11), (12, 8, 12), (31, 1, 20)]) 21

/-- An illegal instruction: mtval holds it. -/
def hartIllegal (s : State) (w : Nat) : HartEnd := .trap s 2 (BitVec.ofNat 64 w)

/-- The hart goes on at the next instruction, with a change to its registers. -/
def hartNext (s : State) (d len : Nat) (f : Hart → Hart) : HartEnd :=
  .done (s.modHart d (fun h => { f h with pc := h.pc + BitVec.ofNat 64 len }))

def hartNextIf (s : State) (d len w rd : Nat) (v : Option W64) : HartEnd :=
  match v with
  | some x => hartNext s d len (·.set rd x)
  | none => hartIllegal s w

/-- A memory access of an instruction (R283): `acc` is told its address; `f` takes the bytes that it answers. A misaligned one raises its
exception (log 101). -/
def hartMemory (s : State) (d len : Nat) (u : HartUse) (va : W64) (n : Nat) (acc : Nat → HartAccess) (f : List Byte → Hart → Hart) : HartEnd :=
  if va.toNat % n ≠ 0 then .trap s (if u = .load then 4 else 6) va
  else
    match hartTranslate s d u va with
    | .error c => .trap s c va
    | .ok pa =>
      match hartLocal s pa n with
      | none => .trap s u.accessFault va
      | some a =>
        let e := physElem s a 0
        if heldAway s e n || (u == .store && writeWaits s e n) then .wait
        else
          let t := hartAccess s d e (acc a)
          let plain := u == .store && (match acc a with
            | .store _ _ _ => true
            | _ => false)
          match if plain then some [] else vget t.hub.hartLoads d none with
          | some bs => hartNext t d len (f bs)
          | none => .trap t u.accessFault va

/-- The value that a load of a width gives (f3 of LOAD). -/
def hartLoaded (f3 : Nat) (bs : List Byte) : W64 :=
  if f3 < 4 then sextField (leNat bs) (8 * 2 ^ f3) else BitVec.ofNat 64 (leNat bs)

/-- The operation code of AMO (R321) for an atomic of the A extension. -/
def hartAmoOp (f5 : Nat) : Option (BitVec 4) :=
  match f5 with
  | 0x00 => some 0
  | 0x01 => some 8
  | 0x04 => some 3
  | 0x08 => some 2
  | 0x0C => some 1
  | 0x10 => some 4
  | 0x14 => some 5
  | 0x18 => some 6
  | 0x1C => some 7
  | _ => none

/-- LR, SC and the atomics. -/
def hartAtomic (s : State) (d len w : Nat) : HartEnd :=
  let h := s.hart d
  let f3 := fld w 12 3
  let n := 2 ^ f3
  let va := h.get (fld w 15 5)
  let v := h.get (fld w 20 5)
  let rd := fld w 7 5
  let take := fun (bs : List Byte) (x : Hart) => x.set rd (hartLoaded f3 bs)
  if f3 ≠ 2 ∧ f3 ≠ 3 then hartIllegal s w
  else
    match fld w 27 5 with
    | 2 => if fld w 20 5 ≠ 0 then hartIllegal s w else hartMemory s d len .load va n (fun a => .lr a n) take
    | 3 => hartMemory s d len .store va n (fun a => .sc a n v) take
    | f5 =>
      match hartAmoOp f5 with
      | some op => hartMemory s d len .store va n (fun a => .amo a n op v) take
      | none => hartIllegal s w

/-- CSRRW, CSRRS, CSRRC and their immediate forms: what writes nothing is no write. -/
def hartCsr (s : State) (d len w : Nat) : HartEnd :=
  let h := s.hart d
  let n := fld w 20 12
  let f3 := fld w 12 3
  let r := fld w 15 5
  let v : W64 := if 4 ≤ f3 then BitVec.ofNat 64 r else h.get r
  let writes := decide (f3 % 4 = 1) || r != 0
  match readCsr s d n with
  | none => hartIllegal s w
  | some old =>
    if !csrOpen h (s.priv d) n ∨ (writes ∧ n / 1024 = 3) then hartIllegal s w
    else
      let new := match f3 % 4 with
        | 1 => v
        | 2 => old ||| v
        | _ => old &&& ~~~v
      hartNext s d len (fun x => (if writes then x.writeCsr s.now n new else x).set (fld w 7 5) old)

/-- SYSTEM: calls, returns, WFI, which may end at once, SFENCE.VMA, which finds nothing cached, and the CSR instructions. -/
def hartSystem (s : State) (d len w : Nat) : HartEnd :=
  let h := s.hart d
  let p := s.priv d
  if fld w 12 3 = 4 then hartIllegal s w
  else if fld w 12 3 ≠ 0 then hartCsr s d len w
  else if w = 0x00000073 then .trap s (8 + p) 0
  else if w = 0x00100073 then .trap s 3 h.pc
  else if w = 0x30200073 ∧ p = 3 then .done (hartReturn s d true)
  else if w = 0x10200073 ∧ (p = 3 ∨ (p = 1 ∧ h.status 22 1 = 0)) then .done (hartReturn s d false)
  else if w = 0x10500073 ∧ (p = 3 ∨ h.status 21 1 = 0) then hartNext s d len id
  else if fld w 25 7 = 9 ∧ fld w 7 5 = 0 ∧ (p = 3 ∨ (p = 1 ∧ h.status 20 1 = 0)) then hartNext s d len id
  else hartIllegal s w

/-- The rounding mode of an instruction: its own, or frm; none if it is reserved. -/
def hartRm (h : Hart) (w : Nat) : Option Nat :=
  let rm := if fld w 12 3 = 7 then bits64 (h.csr 3) 5 3 else fld w 12 3
  if rm ≤ 4 then some rm else none

/-- An f register takes a code, and fflags the flags. -/
def Hart.putFp (h : Hart) (dbl : Bool) (rd : Nat) (r : Nat × BitVec 10) : Hart := (h.setF rd (hartBox dbl r.1)).raise r.2

/-- The arithmetic that rounds: FADD, FSUB, FMUL, FDIV, FSQRT; none where f7 names no such operation. -/
def hartFpArith (f5 : Nat) (rm : Nat) (x y : FpVal) : Option (FpVal × BitVec 10) :=
  let zneg := rm == 2
  match f5 with
  | 0 => some (addVal zneg x y)
  | 1 => some (addVal zneg x y.negate)
  | 2 => some (mulVal x y)
  | 3 => some (divVal x.widened y)
  | 11 => some (hartSqrt x)
  | _ => none

/-- FMADD, FMSUB, FNMSUB, FNMADD. -/
def hartFma (s : State) (d len w : Nat) : HartEnd :=
  let h := s.hart d
  let dbl := fld w 25 2 == 1
  let x := hartVal dbl (h.getF (fld w 15 5))
  let y := hartVal dbl (h.getF (fld w 20 5))
  let z := hartVal dbl (h.getF (fld w 27 5))
  let negP := fld w 0 7 == 0x4B || fld w 0 7 == 0x4F
  let negZ := fld w 0 7 == 0x47 || fld w 0 7 == 0x4F
  match hartRm h w with
  | some rm =>
    if 1 < fld w 25 2 then hartIllegal s w
    else
      let (v, f) := fmaVal (rm == 2) (if negP then x.negate else x) y (if negZ then z.negate else z)
      let r := hartRound rm dbl v
      hartNext s d len (·.putFp dbl (fld w 7 5) (r.1, r.2 ||| f))
  | none => hartIllegal s w

/-- FSGNJ, FSGNJN, FSGNJX. -/
def hartSign (dbl : Bool) (f3 : Nat) (a b : Nat) : Option Nat :=
  let top := 2 ^ (hartWidth dbl - 1)
  let sa := a / top
  let sb := b / top
  match f3 with
  | 0 => some (a % top + sb * top)
  | 1 => some (a % top + (1 - sb) * top)
  | 2 => some (a % top + (sa + sb) % 2 * top)
  | _ => none

/-- FEQ, FLT and FLE: the last two raise NV for every NaN. -/
def hartCompare (f3 : Nat) (x y : FpVal) : Option (Bool × BitVec 10) :=
  let quiet := flagIf (x.isSnan || y.isSnan) flagNV
  let loud := flagIf (x.isNan || y.isNan) flagNV
  let num := !x.isNan && !y.isNan
  match f3 with
  | 2 => some (eqVal x y, quiet)
  | 1 => some (num && ltVal x y, loud)
  | 0 => some (num && !ltVal y x, loud)
  | _ => none

/-- FCVT to an integer: W, WU, L, LU. -/
def hartCvtInt (rm kind : Nat) (x : FpVal) : W64 × BitVec 10 :=
  let (v, f) := hartToInt rm (kind % 2 == 0) (if kind < 2 then 32 else 64) x
  (if kind < 2 then (BitVec.ofInt 32 v).signExtend 64 else BitVec.ofInt 64 v, f)

/-- The integer in an x register, as W, WU, L or LU. -/
def hartIntOf (kind : Nat) (v : W64) : Int :=
  match kind with
  | 0 => (v.setWidth 32).toInt
  | 1 => (v.setWidth 32).toNat
  | 2 => v.toInt
  | _ => v.toNat

/-- OP-FP. -/
def hartFp (s : State) (d len w : Nat) : HartEnd :=
  let h := s.hart d
  let dbl := fld w 25 2 == 1
  let rd := fld w 7 5
  let f3 := fld w 12 3
  let k := fld w 20 5
  let fa := h.getF (fld w 15 5)
  let fb := h.getF k
  let x := hartVal dbl fa
  let ill := hartIllegal s w
  let give := fun (v : W64) (f : BitVec 10) => hartNext s d len (fun y => (y.set rd v).raise f)
  let put := fun (r : Nat × BitVec 10) => hartNext s d len (·.putFp dbl rd r)
  if 1 < fld w 25 2 then ill
  else
    match fld w 27 5, hartRm h w with
    | 4, _ =>
      match hartSign dbl f3 (hartCode dbl fa) (hartCode dbl fb) with
      | some c => put (c, 0)
      | none => ill
    | 5, _ => if 1 < f3 then ill else put (hartMin dbl (f3 == 1) fa fb)
    | 20, _ =>
      match hartCompare f3 x (hartVal dbl fb) with
      | some (b, f) => give (if b then 1 else 0) f
      | none => ill
    | 28, _ =>
      if k ≠ 0 ∨ 1 < f3 then ill
      else give (if f3 = 1 then BitVec.ofNat 64 (hartClass dbl (hartCode dbl fa)) else if dbl then fa else sext32 fa) 0
    | 30, _ =>
      let v := h.get (fld w 15 5)
      if k ≠ 0 ∨ f3 ≠ 0 then ill else put ((if dbl then v.toNat else v.toNat % 2 ^ 32), 0)
    | 8, some rm => if 1 < k ∨ (k == 1) = dbl then ill else put (hartRound rm dbl (hartVal (!dbl) fa))
    | 24, some rm => if 3 < k then ill else let r := hartCvtInt rm k x; give r.1 r.2
    | 26, some rm => if 3 < k then ill else put (hartRound rm dbl (intVal (hartIntOf k (h.get (fld w 15 5)))))
    | f5, some rm =>
      match hartFpArith f5 rm x (hartVal dbl fb) with
      | some (v, f) =>
        if f5 = 11 ∧ k ≠ 0 then ill else let r := hartRound rm dbl v; put (r.1, r.2 ||| f)
      | none => ill
    | _, none => ill

/-- The immediate shifts and operations of OP-IMM and OP-IMM-32. -/
def hartImm (w : Nat) (word : Bool) (a : W64) : Option W64 :=
  let f3 := fld w 12 3
  let alt := f3 == 5 && fld w 30 1 == 1
  let top := if word then fld w 25 7 else fld w 26 6 * 2
  let shift := f3 == 1 || f3 == 5
  if shift ∧ ¬(top = 0 ∨ (top = 0x20 ∧ f3 = 5)) then none
  else
    let b := if shift then BitVec.ofNat 64 (fld w 20 6) else immI w
    if word then hartAluW f3 alt a b else some (hartAlu f3 alt a b)

/-- OP and OP-32. -/
def hartOp (w : Nat) (word : Bool) (a b : W64) : Option W64 :=
  let f3 := fld w 12 3
  match fld w 25 7 with
  | 0 => if word then hartAluW f3 false a b else some (hartAlu f3 false a b)
  | 0x20 => if f3 ≠ 0 ∧ f3 ≠ 5 then none else if word then hartAluW f3 true a b else some (hartAlu f3 true a b)
  | 1 => if word then hartMulW f3 a b else some (hartMul f3 a b)
  | _ => none

/-- Executes the instruction `w`, of `len` bytes as it stands in memory. -/
def hartExec (s : State) (d len w : Nat) : HartEnd :=
  let h := s.hart d
  let rd := fld w 7 5
  let f3 := fld w 12 3
  let a := h.get (fld w 15 5)
  let b := h.get (fld w 20 5)
  let link := h.pc + BitVec.ofNat 64 len
  let fpOff := h.status 13 2 = 0
  let jump := fun (target : W64) => HartEnd.done (s.modHart d (fun x => { x.set rd link with pc := target }))
  match fld w 0 7 with
  | 0x37 => hartNext s d len (·.set rd (immU w))
  | 0x17 => hartNext s d len (·.set rd (h.pc + immU w))
  | 0x6F => jump (h.pc + immJ w)
  | 0x67 => if f3 = 0 then jump ((a + immI w) &&& 0xFFFFFFFFFFFFFFFE) else hartIllegal s w
  | 0x63 =>
    match hartTakes f3 a b with
    | some t => .done (s.modHart d (fun x => { x with pc := if t then h.pc + immB w else link }))
    | none => hartIllegal s w
  | 0x03 =>
    if f3 = 7 then hartIllegal s w
    else hartMemory s d len .load (a + immI w) (2 ^ (f3 % 4)) (fun p => .load p (2 ^ (f3 % 4))) (fun bs x => x.set rd (hartLoaded f3 bs))
  | 0x23 =>
    if 3 < f3 then hartIllegal s w else hartMemory s d len .store (a + immS w) (2 ^ f3) (fun p => .store p (2 ^ f3) b) (fun _ x => x)
  | 0x13 => hartNextIf s d len w rd (hartImm w false a)
  | 0x1B => hartNextIf s d len w rd (hartImm w true a)
  | 0x33 => hartNextIf s d len w rd (hartOp w false a b)
  | 0x3B => hartNextIf s d len w rd (hartOp w true a b)
  | 0x0F => if f3 ≤ 1 then hartNext s d len id else hartIllegal s w
  | 0x73 => hartSystem s d len w
  | 0x2F => hartAtomic s d len w
  | 0x07 =>
    if fpOff ∨ (f3 ≠ 2 ∧ f3 ≠ 3) then hartIllegal s w
    else hartMemory s d len .load (a + immI w) (2 ^ f3) (fun p => .load p (2 ^ f3)) (fun bs x => x.setF rd (hartBox (f3 == 3) (leNat bs)))
  | 0x27 =>
    if fpOff ∨ (f3 ≠ 2 ∧ f3 ≠ 3) then hartIllegal s w
    else hartMemory s d len .store (a + immS w) (2 ^ f3) (fun p => .store p (2 ^ f3) (h.getF (fld w 20 5))) (fun _ x => x)
  | 0x43 | 0x47 | 0x4B | 0x4F => if fpOff then hartIllegal s w else hartFma s d len w
  | 0x53 => if fpOff then hartIllegal s w else hartFp s d len w
  | _ => hartIllegal s w

/-! ## Fetch, and the step of a hart -/

/-- Two bytes of code; or the cause of a fault; none while the access waits. -/
def hartParcel (s : State) (d : Nat) (va : W64) : Option (State × Except Nat Nat) :=
  match hartTranslate s d .fetch va with
  | .error c => some (s, .error c)
  | .ok pa =>
    match hartLocal s pa 2 with
    | none => some (s, .error 1)
    | some a =>
      let e := physElem s a 0
      if heldAway s e 2 then none
      else
        let (t, r) := s.homeRead .nobody e (s.hub.pkg * 2 ^ 46 + a) 2
        some (t, match r with
          | some bs => .ok (leNat bs)
          | none => .error 1)

/-- The instruction at the program counter is executed. -/
def hartFetchExec (s : State) (d : Nat) : HartEnd :=
  let pc := (s.hart d).pc
  match hartParcel s d pc with
  | none => .wait
  | some (t, .error c) => .trap t c pc
  | some (t, .ok low) =>
    if low % 4 ≠ 3 then
      match expandRvc low with
      | some w => hartExec t d 2 w
      | none => hartIllegal t low
    else
      match hartParcel t d (pc + 2) with
      | none => .wait
      | some (u, .error c) => .trap u c (pc + 2)
      | some (u, .ok high) => hartExec u d 4 (low + high * 2 ^ 16)

/-- One step of a hart: an interrupt that is due, else the instruction at its program counter; minstret counts those that retire. -/
def hartStep (s : State) (d : Nat) : State × Bool :=
  if 6 ≤ d ∨ !s.power.gate ∨ s.power.recovery then (s, false)
  else
    match hartInterrupt s d with
    | some c => (hartTrap s d true c 0, true)
    | none =>
      match hartFetchExec s d with
      | .wait => (s, false)
      | .trap t c v => (hartTrap t d false c v, true)
      | .done t => (t.modHart d (fun h => h.setCsr 0xB02 (h.csr 0xB02 + 1)), true)

/-- What the boot ROM, whose code the spec does not give, leaves in a hart when it hands over: a mode and a program counter (log 101). -/
def handOver (s : State) (d mode : Nat) (pc : W64) : State := (s.modHart d (fun h => { h with pc := pc &&& 0xFFFFFFFFFFFFFFFE })).setPriv d mode

end Sys2Proof.Machine
end

