-- ==== Sys2Proof/Machine/Cycle.lean ====
section
/-! DEFINITION. How the machine advances (log 3): the fetch and the issue of one cluster, the plan of a context's cycle
(R54, R55, R240, R242), the events between the cycles, and the passing of cycles and microseconds. -/

namespace Sys2Proof.Machine

/-! ## One cluster's turn -/

/-- TVAL of a word that is no instruction: the word (R94), but of a header with bit 0 set its address (R62). -/
def undecodedTval (pc : W64) (long : Bool) (w : Nat) : W64 := if isHeader long w then pc else BitVec.ofNat 64 w

/-- The fetch at an address leaves its translation, and the report of a line that an error withholds (R159, R272). -/
def noteFetch (s : State) (va : W64) : State := (s.fetched va).fetchError va

/-- The word at the program counter of the cluster whose turn it is: a failed fetch raises XLATE or PERM (R159, R411), a word
in an invalid stage only occupies its cycle (R64), a word that is no instruction raises ILLEGAL (R94); else it is
executed. A fetch whose walk is held up waits (R211). A fetch that fails raises its fault in an invalid stage too: the length of a word that
cannot be read is not known (log 77: R64 does not say). -/
def runCluster (s : State) : Result :=
  let c := turn s
  let k := s.ctx.cl.get c
  let va := k.pc &&& ~~~(1 : W64)
  if walkHeld s s.ctx.coreId s.ctx.asid va then .next (hold s c false .none)
  else
    match codeWord s va with
    | .error e => .next (takeTrap s c e k.pc 0)
    | .ok (long, w) =>
      let t := noteFetch s va
      if k.invalidStage then .next (finish (t.flowTo c (k.pc + if long then 4 else 2)) c)
      else
        match decodeWord c long w with
        | .ok i => exec i t
        | .error _ => .next (takeTrap t c 0x01 (undecodedTval k.pc long w) 0)

/-! ## The plan of a cycle -/

/-- Whether a cluster takes part in the present cycle: active, not stopped, past its entry or resumption. -/
def ClusterState.takesPart (now : Nat) (k : ClusterState) : Bool := k.active && !k.parked && decide (k.ready ≤ now)

/-- What each of some clusters comes to, in cluster order, each on the state that those before it leave (R67); a trap is noted and
not entered. -/
def probe : List Cluster → State → List (Cluster × State)
  | [], _ => []
  | c :: rest, s =>
    match runCluster { s with plan := [c, c], verdict := .none } with
    | .next t => (c, t) :: probe rest t
    | _ => probe rest s

/-- The trap that the first of the probed clusters raises. -/
def probedTrap (ps : List (Cluster × State)) : Option TrapInfo := ps.getLast?.bind (·.2.trapDue)

/-- What a member of a stitched group that cannot issue waits for: its own wait, or its partners (R55). -/
def groupWait (ps : List (Cluster × State)) (c : Cluster) : WaitKind :=
  match ps.find? (fun p => p.1 == c && p.2.verdict == .waited) with
  | some (_, t) => (t.ctx.cl.get c).wait
  | none => .stitch

/-- A stitched group that cannot issue: each member waits. -/
def holdGroup (act : List Cluster) (ps : List (Cluster × State)) (s : State) : State :=
  let hoop := act.any (fun c => groupWait ps c == .hoop)
  s.modCtx (fun x =>
    ({ x with cl := x.cl.map (fun c k => if act.contains c then k.waitsFor s.now (groupWait ps c) else k), groupReady := false,
              life := if hoop ∧ x.life = .ready then .hoopWait else x.life } : Ctx).settle s.now)

/-- Whether the word of each cluster of a set is stitched; with one active cluster the bit has no effect (R54). -/
def stitchedWord (s : State) (act : List Cluster) (c : Cluster) : Bool := decide (2 ≤ act.length) && stitchedAt s (s.ctx.cl.get c)

/-- The focused context has its core's issue of the present cycle; the clusters' words are those of its start (R54, R244). -/
def enterCycle (s : State) : State :=
  let head := fun (c : Cluster) => (cnum c, (s.ctx.cl.get c).pc &&& ~~~(1 : W64), !(s.ctx.cl.get c).invalidStage)
  { s.modCtx (fun x => { x with served := s.now + 1, groupReady := true }) with
    plan := [], heads := (activeClusters s).map head, trapDue := none, verdict := .none }

/-- The plan of the focused context's cycle (R54). A stitched group issues whole, waits whole, or traps whole, as its members come
out one after the other; else the clusters whose words are not stitched have their turns, in cluster order. -/
def planCycle (s : State) : State :=
  let act := activeClusters s
  let k := s.ctx.cl.get
  let s0 := enterCycle s
  if act.all (fun c => stitchedWord s act c && (k c).takesPart s.now) then
    let ps := probe act s0
    if ps.any (fun p => p.2.verdict == .waited) then holdGroup act ps s0
    else
      match probedTrap ps with
      | some t => t.enter s0
      | none => { s0 with plan := act }
  else
    let mark := fun (c : Cluster) (x : ClusterState) =>
      if act.contains c && stitchedWord s act c then x.waitsFor s.now .stitch else x
    { s0.modCtx (fun x => ({ x with cl := x.cl.map mark, groupReady := decide (act.length < 2) } : Ctx).settle s.now) with
      plan := act.filter (fun c => !stitchedWord s act c && (k c).takesPart s.now) }

/-- R241: whether the stitched group of the focused context could issue now, judged as if no stop were taken. -/
def groupCouldIssue (s : State) : Bool :=
  let act := activeClusters s
  (act.length < 2 || act.all (stitchedWord s act)) && (probe act s).all (fun p => p.2.verdict != .waited)

def judgeGroup (s : State) : State := s.modCtx (fun x => { x with groupReady := groupCouldIssue s })

/-- After the last turn of a context's cycle: the trap that is due (R240), or else its graceful stops (R246). -/
def afterTurn (s : State) : State :=
  if s.plan ≠ [] then s
  else
    match s.trapDue with
    | some t => t.enter s
    | none => stopIfParked (if stopsGracefully s.ctx then judgeGroup (parkWaits s) else s)

/-- The focused context begins its cycle: a pending engine fault is delivered unless a cluster traps (R242, R243), and in the first cycle after a
return from a handler or a resumption before any instruction issues (R411). -/
def beginCycle (s : State) : Result :=
  if s.ctx.entry ≠ .issued ∧ deliverable s.ctx then exec (.engineFaultDelivery s.ctx.cid) (enterCycle s)
  else
  let t := planCycle (s.modCtx (fun x => { x with entry := .issued }))
  if deliverable s.ctx && t.verdict != .trapped && (probedTrap (probe t.plan t)).isNone then
    exec (.engineFaultDelivery s.ctx.cid) { t with plan := [] }
  else .next (afterTurn t)

/-- Whether a context is to begin its cycle: it runs, and its core has not issued in this cycle. -/
def beginsNow (s : State) (x : Ctx) : Bool :=
  x.running && x.runnable && (allCtxs s).all (fun y => y.coreId != x.coreId || !y.resident || decide (y.served ≤ s.now))

/-- The place of a context's slot in the package. -/
def Ctx.seat (x : Ctx) : Nat := x.coreId * 2 + x.slot

/-- The context that begins its cycle next: contexts have their cycles in the order of their slots (log 3). -/
def nextSeat (s : State) : Option Ctx :=
  (allCtxs s).foldl (fun best x =>
    if !beginsNow s x then best
    else
      match best with
      | none => some x
      | some b => if x.seat < b.seat then some x else some b) none

/-- Brings the next context that is to begin its cycle into focus. -/
def focusNext (s : State) : Option State :=
  match nextSeat s with
  | none => none
  | some x => if s.ctx.isId x.cid then some s else (s.others.findIdx? (·.isId x.cid)).map s.swapAt

/-! ## The passing of time -/

/-- A microsecond passes: the counts of R34, R228, R264, R281 and R285; then what waits for room is tried again (R155, R275). -/
def passMicrosecond (s0 : State) : State :=
  let s := ageQueues s0
  let quiet := fun (g : GroupSlot) =>
    if g.state = .idle ∨ g.state = .forming ∨ g.state = .broken then g else { g with silent := g.silent.map (· + 1) }
  let s1 := s.modLife (fun l => { l with powered := l.powered + 1 })
  retryWorn { s1 with us := s.us + 1, groups := s.groups.map quiet, hub := { s.hub with remain := s.hub.remain - 1 } }.retryReturns

/-- Cycles of a microsecond at the present clock (R309). -/
def cyclesPerMicrosecond (s : State) : Nat := (12 - s.power.clockSteps) * 100

/-- What a cluster of the focused context that stalls on an engine waits for now, if for anything. -/
def stallNow (s : State) (c : Cluster) (k : ClusterState) : ClusterState :=
  if !k.engineWaits s.now then k
  else
    match probe [c] s with
    | (_, t) :: _ => if t.verdict = .waited then k.waitsFor s.now (t.ctx.cl.get c).wait else { k with wait := .none }
    | [] => k

/-- The engine stalls of the focused context that are over end, be it that the instruction now waits for something else (R37). -/
def endStalls (s : State) : State :=
  s.modCtx (fun x =>
    let y := { x with cl := x.cl.map (stallNow s) }
    if engineHeld s then y else y.settle s.now)

/-- R37, R243: a context whose waits have ended, or that holds a pending fault, is in the ready set. One that does not run and is to
be pre-empted stops at its waits (R246). -/
def rejoin (s : State) : State :=
  let x := s.ctx
  let faulty := !x.eng.faults.isEmpty && !x.sr.handler && (x.life == .engineWait || x.life == .hoopWait)
  let t := if faulty then s.modCtx (fun y => { y with life := .ready })
    else if x.life == .engineWait && !x.running then endStalls s
    else if x.life == .engineWait && !engineHeld s then s.modCtx (·.settle s.now)
    else s
  if stopsGracefully t.ctx && !t.ctx.running then stopIfParked (judgeGroup (parkWaits t)) else t

/-! ## Requests to other packages (R301) -/

/-- The address of a word in another package that an access under the focused context's address space names. -/
def remoteWord (s : State) (cache : Nat) (asid : W16) (need : Need) (va : W64) : List Nat :=
  match translate s cache asid need va with
  | .ok t => if pteRMT t.pte then [physOf s t va] else []
  | .error _ => []

/-- The updates of completion words that a context still has to make first in each of its queues. -/
def firstUpdates (e : Engines) : List Update :=
  [e.sh0.updates, e.sh1.updates, e.cut.updates, e.couch.updates, e.qeng.updates, e.darn.updates, e.foot.updates, e.heldUpdates].flatMap (·.take 1)

/-- The address that the ENQ at the head of the queue engine writes (R235). -/
def enqTarget (s : State) : List Nat :=
  (s.ctx.eng.qeng.cmds.take 1).flatMap (fun c =>
    let qid := bits64 c.ra 0 16
    let d := readDesc s qid
    remoteWord s s.ctx.coreId d.asid .write (d.ring + BitVec.ofNat 64 ((queueIndices s qid).1.toNat % 2 ^ d.sizelg * 64)))

/-- The word of the drain at the head of the quad's queue, if it is the focused context's (R137). -/
def drainTarget (s : State) : List Nat :=
  ((s.quad s.ctx.quadId).queue.take 1).flatMap (fun c =>
    match c.op with
    | .drain _ mb _ _ _ _ _ => if c.cid = s.ctx.cid then remoteWord s s.ctx.coreId s.ctx.asid .write mb else []
    | _ => [])

/-- The addresses in other packages that the focused context asks for now. -/
def ctxRequests (s : State) : List Nat :=
  let mine := fun (u : Update) => remoteWord s s.ctx.coreId s.ctx.asid .write u.addr
  (s.ctx.gq.zipIdx.filter (fun p => orderedNow s p.2)).flatMap (fun p => (p.1.elems.filter (fun e => pteRMT e.pte)).map (·.pa)) ++
    [false, true].flatMap (fun ch =>
      let q := s.ctx.eng.channel ch
      if q.serves then (q.cmds.take 1).flatMap (fun c => (remotePieces s c).map (·.pa)) else []) ++
    (firstUpdates s.ctx.eng).flatMap mine ++ enqTarget s ++ drainTarget s ++
    s.groups.toList.flatMap (fun g => (g.held.filter (fun h => h.cid == s.ctx.cid)).flatMap (fun h => (h.due.map mine).getD []))

/-- Those that the Tambour asks for now: packets, the words that their heads name, and status words (R217, R221 to R223). -/
def hubRequests (s : State) : List Nat :=
  s.tamb.slots.flatMap (fun (q : Nat × HwSlot) =>
    let word := fun (need : Need) (va : W64) => remoteWord s hubCache q.2.asid need va
    word .read (headVa q.2) ++
      (match headPacket s q.2 with
       | none => []
       | some p =>
         match pkType p with
         | 1 => (launchReads p).flatMap (fun r => if r.1 = .read then word .read r.2 else []) ++ word .write (pkStatus p)
         | 2 => word .read (pkWord p 1)
         | 3 => word .write (pkWord p 1)
         | _ => [])) ++
    s.tamb.gangs.flatMap (fun g => if g.done then [] else remoteWord s hubCache g.asid .write (pkStatus g.packet))

/-- The requests to other packages, each with the time since which it waits: while no port carries traffic they have no answer (R300). -/
def refreshSent (s : State) : State :=
  if linkUp s then { s with sent := [] }
  else
    let mine := (allCtxs s).filter (·.life != .none) |>.flatMap (fun x => (ctxRequests { s with ctx := x }).map (fun pa => (x.cid, pa)))
    let keys := (mine ++ (hubRequests s).map (fun pa => (hubCid, pa))).eraseDups
    { s with sent := keys.map (fun k => (k, ((s.sent.find? (fun x => x.1 == k)).map (·.2)).getD s.time)) }

/-! ## The end of a cycle -/

/-- What the coding groups have due: messages that a port carries now (R300), an abort that waited for a page (R18), the passed writes of
stopped contexts (R489), and the messages whose turn has come (R265). -/
def settleGroups (s : State) : State :=
  ((List.range 4).foldl (fun (t : State) i => settlePassed (settleAbort (t.flushGroup i) i) i) s).drainGroups

/-- What falls due at the end of a cycle: the grants of the arrays (R118, R354), the coding groups, what errors and walks leave to be done
(R147, R272), the requests of peers that were held (R305), the replays that can be placed (R279), and the commands whose BUSY clears (R162, R225,
R295). -/
def settleCycle (s : State) : State :=
  let s1 := settleGroups ((s.quads.map (·.1)).foldl State.settleQuad s)
  let s2 := settlePeers (settleWounds s1.touchWalked)
  let s3 := settleKey (settleQmap (s2.audits.foldl startReplay s2))
  refreshSent (if s3.hub.xinv.getLsbD 63 then settleXinv s3 else s3)

/-- A cycle passes. -/
def tick (s : State) : State :=
  let waiting := (allCtxs s).filter (fun x =>
    x.life == .engineWait || x.life == .hoopWait || (stopsGracefully x && !x.running))
  let live := s.others.filter (fun (x : Ctx) => x.life != .none)
  let s0 := settleCycle (waiting.foldl (fun (t : State) x => t.onCtx x.cid rejoin) { s with others := live })
  let p := s.phase + microsecondUnits / cyclesPerMicrosecond s
  let s1 := { s0 with now := s.now + 1, phase := p }
  if microsecondUnits ≤ p then passMicrosecond { s1 with phase := p - microsecondUnits } else s1

/-- The cycles of a microsecond in which no context runs and nothing is in flight. -/
def skipMicrosecond (s : State) : Result :=
  if (allCtxs s).any (fun x => (x.running && x.runnable) || !x.flight.isEmpty) then notNow s
  else
    happens (passMicrosecond { settleCycle s with now := s.now + cyclesPerMicrosecond s })

/-! ## Choices (log 3) -/

/-- A store of another package to its own memory (R197): a core of this module that owns a word loses it. -/
def remoteStore (s : State) (pa : Nat) (bytes : List Byte) : State := (wordsOf pa bytes.length).foldl disownWord (s.remoteSet pa bytes)

/-- A miss of a context's instruction cache at an address: an access of its core at the home die cache (R15, R51, R146). -/
def fetchFill (s : State) (va : W64) : State × Bool :=
  match codeAddr s va with
  | .error _ => (s, false)
  | .ok (pa, t) =>
    let e := elemOf s va t
    if pteRMT t.pte || walkHeld s s.ctx.coreId s.ctx.asid va || heldAway s e 1 then (s, false)
    else ((((noteFetch s va).countAccess s.ctx.die s.ctx.asid va 1).touchLine (pa / 64) (tagOf t.pte t.size pa)).1, true)

/-- What firmware stages in flash (R291, R294). -/
def flashItem (f : Flash) : FlashItem → Flash
  | .image false i => { f with imageA := i }
  | .image true i => { f with imageB := i }
  | .config c => { f with config := c }
  | .release r => { f with release := r }
  | .repairs m => { f with repairs := m }

/-- A step of the table, when its place is between the cycles. A pending fault of a running context is delivered in the
context's cycle (R243), when its turn has come (R311). -/
def performRow (i : Instr) (s : State) : Result :=
  if wordBytes i ≠ 0 then notNow s
  else
    match i with
    | .engineFaultDelivery cid =>
      match s.ctxOf cid with
      | some x =>
        if x.life = .retiring then exec i s
        else if !deliverable x ∨ (nextSeat s).map (·.cid) ≠ some cid then notNow s
        else
          match focusNext s with
          | some t => beginCycle t
          | none => notNow s
      | none => notNow s
    | .forcedStop gang =>
      let cids := ((allCtxs s).filter (fun x => x.gang == gang && x.runnable)).map (·.cid)
      exec i (cids.foldl (fun t cid => t.onCtx cid judgeGroup) s)
    | _ => exec i s

/-- A choice is carried out; one that is not possible now changes nothing. -/
def choose (c : Choice) (s : State) : Result :=
  match c with
  | .row i => performRow i s
  | .tick => happens (tick s)
  | .microsecond => skipMicrosecond s
  | .evictL1 core line => happens (evictL1Line s core line)
  | .dropTlb n => happens { s with tlb := s.tlb.eraseIdx n }
  | .setRoot asid root =>
    if root % 4096 ≠ 0 ∨ hbmEnd ≤ root ∨ 65536 ≤ asid then notNow s else happens { s with roots := tabSet asid root s.roots }.prunePages
  | .setFree stack pages => if 16 ≤ stack then notNow s else happens { s with freePages := vset s.freePages stack pages }
  | .returnPage page die => happens (returnOnDemand s page die)
  | .standbyDarned i j r => let (t, b) := standbyDarned s i j r; eventIf b s t
  | .remoteStore pa bytes => eventIf (pa / 2 ^ 46 != s.hub.pkg) s (remoteStore s pa bytes)
  | .fetchFill cid va => eventOn s cid (fun t => if t.power.gate then fetchFill t va else (t, false))
  | .activation bank row => eventIf (decide (bankDie bank < 6) && decide (row < 2 ^ 32)) s (s.activateRows bank [row])
  | .hartRead die reg => eventIf (hubShown s die) s (hartRead s die reg)
  | .hartMode die mode pc => eventIf (decide (die < 6) && [0, 1, 3].contains mode) s (handOver s die mode pc)
  | .hartStep die => let (t, b) := hartStep s die; eventIf b s t
  | .recoveryMail bytes => eventIf s.power.recovery s (s.modHub (fun h => { h with recoveryBox := bytes }))
  | .flashWrite item => happens (s.modFlash (flashItem · item))
  | .linkKeys port =>
    if s.hub.holder = 7 ∨ (tabGet port s.power.links).isNone then notNow s
    else happens { s with power := { s.power with links := tabSet port true s.power.links } }

/-! ## Steps inside the implementation -/

/-- The steps of a context's engines. -/
def engineRows (cid : Nat) : List Instr :=
  [.shuttleCommandBegin cid false, .shuttleCommandBegin cid true, .shuttleElementMove cid false, .shuttleElementMove cid true,
   .shuttleCompletion cid false, .shuttleCompletion cid true, .cutworkExecution cid, .couchingExecution cid,
   .queueEngineExecution cid, .footsideExecution cid, .darningStripe cid, .engineWait cid]

/-- The steps by which a context that is being retired, or resumed in its seat, goes on. -/
def lifeRows (x : Ctx) : List Instr :=
  if x.life = .retiring then [.engineFaultDelivery x.cid]
  else if x.life = .stopped ∧ (x.stop.map (·.cause)) = some 0 then [.contextResumption x.cid]
  else []

/-- The steps of a context and its engines. -/
def ctxRows (x : Ctx) : List Instr :=
  (.taskRetirement x.cid :: .contextStop x.cid :: lifeRows x) ++
    (List.range x.gq.length).map (fun i => Instr.globalAccessPerformed x.cid i) ++ engineRows x.cid ++
    (List.range 8).map (fun h => Instr.hoopNotification x.cid h)

/-- The steps of a mapped queue. -/
def slotRows (k : Nat) : List Instr :=
  [.launch k, .gangPlacement k, .gangReserving k, .waitsig k, .setsig k, .mark k, .nopPacket k, .packetReject k,
   .priorityAging k, .faultHoldExpiry k]

/-- The steps that need nothing from outside, in the order in which this model takes them when the schedule names none. -/
def internalRows (s : State) : List Instr :=
  [Instr.leaseLapse] ++ (allCtxs s).flatMap ctxRows ++ s.quads.map (fun (q : Nat × QuadState) => Instr.tileCommandExecution q.1) ++
  ((allCtxs s).filter Ctx.resident).map (fun x => Instr.contextSwitch x.coreId) ++
  s.tamb.slots.flatMap (fun (p : Nat × HwSlot) => slotRows p.1) ++
  (s.tamb.gangs.filter (·.preempt.isSome)).map (fun g => Instr.forcedStop g.id) ++
  s.tamb.marks.map (fun (m : Nat × List Nat) => Instr.chainDemotion (BitVec.ofNat 8 m.1)) ++
  [.placementBoundary true, .placementBoundary false, .lifetimeMerge] ++
  (if s.roots.isEmpty then [] else (List.range 16).map Instr.evictionStart) ++
  s.audits.filterMap (fun a => (replayOutcome s a).map (fun o => Instr.auditReplayEnd a.task o.2.1 o.1 o.2.2)) ++
  (s.dies.toList.flatMap (fun d => d.opened.flatMap (fun o => o.2.map (fun r => (o.1, r))))).map (fun a => Instr.activationSaturation a.1 a.2) ++
  ((List.range 4).filter (fun g => (s.group g).state != .idle)).flatMap (fun g =>
    Instr.heartbeatTimer g :: (List.range 16).map (Instr.memberLoss g))

/-- The first of some steps that takes place now. -/
def firstEnabled (s : State) : List Instr → Option State
  | [] => none
  | i :: t =>
    match performRow i s with
    | .next u => if u.verdict = .issued then some u else firstEnabled s t
    | _ => firstEnabled s t

/-! ## The boundary between turns -/

/-- A context one of whose writes is due (R73). -/
def dueCtx (s : State) : Option Nat :=
  ((allCtxs s).find? (fun x => x.life != .none && (pickDue s.now x.flight).isSome)).map (·.cid)

/-- What happens when the schedule is empty: a step inside the implementation, the cycle of a running context, or the passing of the
cycle. -/
def idle (s : State) : Result :=
  match firstEnabled s (internalRows s) with
  | some t => .next t
  | none =>
    match focusNext s with
    | some t => beginCycle t
    | none => happens (tick s)

/-- Whether the lease has run out and lapses before anything else happens (R285). -/
def leaseOver (s : State) : Bool := s.hub.holder != 7 && s.hub.remain == 0

/-- R301: the first request of a context to another package that has had no answer for 2 ms completes as an abort. -/
def overdue (s : State) : Option State :=
  if s.sent.all (fun x => decide (s.time < x.2 + 2000 * microsecondUnits)) then none
  else firstEnabled s ((allCtxs s).flatMap (fun x => (List.range (x.gq.length + 2)).map (fun i => Instr.remoteTimeout x.cid i)))

/-- What happens next when no cluster has a turn: a lease that has run out lapses; requests that have had no answer abort; writes that are due land; then the schedule, or what needs no choice. A cycle
passes only when every running context has had it. Without power only a power-on reset acts (R303, R307). -/
def boundaryStep (s : State) : Result :=
  if !s.power.on then
    match s.schedule with
    | .row .powerOnReset :: rest => exec .powerOnReset { s with schedule := rest }
    | _ :: rest => notNow { s with schedule := rest }
    | [] => notNow { s with now := s.now + 1 }
  else if leaseOver s then exec .leaseLapse s
  else
    match overdue s with
    | some t => .next t
    | none =>
    match dueCtx s with
    | some cid => exec (.writeLands cid) s
    | none =>
      match s.schedule with
      | [] => idle s
      | .tick :: rest =>
        match focusNext s with
        | some t => beginCycle t
        | none => choose .tick { s with schedule := rest }
      | c :: rest => choose c { s with schedule := rest }

end Sys2Proof.Machine
end

