-- ==== Sys2Proof/Machine/Step.lean ====
section
/-! DEFINITION. The step of the machine, and the placing of one instruction where it fetches next. -/

namespace Sys2Proof.Machine

/-- One step: the next turn of the cycle in progress (the instruction at that cluster's program counter), or, between
cycles, what comes next (log 3). -/
def step (s : State) : Host.Outcome State Fault Refusal :=
  if s.plan = [] then boundaryStep s
  else
    match runCluster s with
    | .next t => .next (afterTurn t)
    | r => r

/-- The virtual page of withFetchWord: V, R, X and CLR, frame 1. -/
def fetchEntry (s : State) : TlbEntry := ⟨s.ctx.coreId, s.ctx.asid, 0x1000, 4096, 0x4215⟩

/-- A cluster that is about to fetch at 0x1000. -/
def fetchingCluster (k : ClusterState) : ClusterState :=
  { k with active := true, pc := 0x1000, blocks := [], parked := false, ready := 0, wait := .none }

/-- `s` with one instruction, its words numbered as spec/opcode_table.json numbers them, as the code of the focused context at the program
counter of a cluster that reads it, whose turn it is (log 32). -/
def State.withFetchWord (s : State) (nbits w : Nat) : State :=
  let c := ((tableReading nbits w).map (·.1)).getD .A
  let x := s.ctx.modCl c fetchingCluster
  { s with
    ctx := { x with life := .ready, running := true, code := x.code.write 0x1000 (tableBytes nbits w) },
    tlb := fetchEntry s :: s.tlb, plan := [c], heads := [],
    power := { s.power with on := true, train := true, keys := true, ptok := true, gate := true } }

end Sys2Proof.Machine
end

