-- ==== Sys2Proof/Safety.lean ====
section
/-! DEFINITION. What counts as a safe run, and the terms in which statements speak of an instruction: it completes, it moves
control itself, it waits before issue, it traps, or, for an event, it happens or is not due; and what each leaves as it was. -/

namespace Sys2Proof.Machine

/-! ## Safe runs -/

/-- The stores of the module are in canonical form: the HBM and the capacity tier. -/
def State.canonical (s : State) : Prop := s.mem.wf = true ∧ s.cap.wf = true

/-- Whether a step ends in a next state. -/
def goesOn (s : State) : Bool :=
  match step s with
  | .next _ => true
  | .fault _ => false
  | .refused _ => false

/-- A run of `n` steps in which none faults or is refused. -/
def safeRun : Nat → State → Bool
  | 0, _ => true
  | n + 1, s =>
    match step s with
    | .next t => safeRun n t
    | .fault _ => false
    | .refused _ => false

/-! ## What an encoded instruction comes to -/

/-- The address of the word after `i` in the cluster whose turn it is. -/
def nextPc (i : Instr) (s : State) : W64 := (s.ctx.cl.get (turn s)).pc + BitVec.ofNat 64 (wordBytes i)

/-- `i` is an instruction of the cluster whose turn it is: its map holds it, and no field is reserved (R94). -/
def Valid (i : Instr) (s : State) : Prop := check (turn s) i = none

/-- `i` completes with the effect `u`, and sequential flow takes its cluster to the next word. -/
def Completes (i : Instr) (s u : State) : Prop :=
  exec i s = .next (finish (u.flowTo (turn s) (nextPc i s)) (turn s))

/-- `i` completes with the effect `u`, which has set the program counter itself. -/
def Jumps (i : Instr) (s u : State) : Prop := exec i s = .next (finish u (turn s))

/-- `i` waits before issue: nothing but the wait of its cluster changes (R54). -/
def Waits (i : Instr) (s : State) (k : WaitKind) : Prop := exec i s = .next (hold s (turn s) (stitchBit i) k)

/-- `i` raises a trap with this cause code and TVAL (R240). -/
def Traps (i : Instr) (s : State) (code : Nat) (tval : W64) : Prop := exec i s = .next (takeTrap s (turn s) code tval 0)

/-- The word of `i` as TVAL (R94). -/
def wordTval (i : Instr) : W64 := BitVec.ofNat 64 (encode i)

/-- The event `i` happens and leaves `u`. -/
def Happens (i : Instr) (s u : State) : Prop := exec i s = .next { u with verdict := .issued }

/-! ## What is left as it was -/

/-- A context's storage: every register file, special register, flag, bobbin, byte of scratchpad and bobbin memory, engine and
queued access; not its program counters, waits and writes in flight. -/
def Ctx.sameStorage (x y : Ctx) : Prop :=
  y.regs = x.regs ∧ y.sr = x.sr ∧ y.flags = x.flags ∧ y.bob = x.bob ∧ (∀ a, y.bmem.get a = x.bmem.get a) ∧
    (∀ a, y.sp.get a = x.sp.get a) ∧ y.spBad = x.spBad ∧ y.bmBad = x.bmBad ∧ y.eng = x.eng ∧ y.gq = x.gq ∧ y.hoops = x.hoops ∧
    (∀ c, (y.cl.get c).epc = (x.cl.get c).epc ∧ (y.cl.get c).estat = (x.cl.get c).estat)

/-- Everything of the module outside the focused context: every byte of memory as the die caches give it, the capacity tier, the
other contexts, the arrays, the Tambour, the groups and the registers of the hub. -/
def State.sameModule (s t : State) : Prop :=
  (∀ a, t.physByte a = s.physByte a) ∧ (∀ a, t.cap.get a = s.cap.get a) ∧ t.others = s.others ∧ t.quads = s.quads ∧
    t.tamb = s.tamb ∧ t.groups = s.groups ∧ t.hub = s.hub ∧ t.dies = s.dies ∧ t.pages = s.pages ∧ t.tlb = s.tlb ∧
    t.l1 = s.l1 ∧ t.owners = s.owners ∧ t.stamps = s.stamps ∧ t.power = s.power ∧ t.flash = s.flash ∧ t.now = s.now

/-- The writes `ws`, with their landing cycles, have joined those in flight, in issue order. -/
def Ctx.scheduled (x y : Ctx) (ws : List Write) : Prop := y.flight = x.flight ++ ws

end Sys2Proof.Machine
end

