-- ==== Sys2Proof/Certificates/Slice0/Obligations.lean ====
section
/-! DEFINITION. The statements about this machine, and under `Sys2Proof.Claims` the terms they share: what an instruction of
each shape comes to, in the words of its rule. -/

namespace Sys2Proof.Claims

open Sys2Proof.Machine

/-! ## Scalar results -/

/-- `Src(n)`: a register of the cluster whose turn it is. -/
def src (s : State) (r : BitVec 5) : W64 := rd s (turn s) r

/-- `i` completes, and all it does is schedule `v` for the scalar register `dst` of its cluster, `lat` cycles from now. -/
def Scalar (i : Instr) (s : State) (lat : Nat) (dst : BitVec 5) (v : W64) : Prop :=
  Completes i s (s.writeAt lat (.scalar (turn s) dst.toNat v))

/-- A 64-bit word of which a number is the value modulo 2^64. -/
def word64 (n : Int) : W64 := BitVec.ofInt 64 n

/-! ## Vector operands and results -/

/-- No operand of `fs` is at or above the register cap (R32). -/
def UnderCap (s : State) (fs : List (BitVec 7)) : Prop := ∀ f ∈ fs, overCap s f.toNat = false

/-- A source that names a slot: the cluster may read it, it is filled (R68), and no uncorrectable error withholds it (R272). -/
def SourceReady (s : State) (f : BitVec 7) : Prop :=
  namesSlot f = true → slotReadable (s.ctx.bobbin (slotField f).1) (turn s) (slotField f).2 true = true ∧
    (slotField f).2 < (s.ctx.bobbin (slotField f).1).count ∧
    s.ctx.slotLost (slotField f).1 ((s.ctx.bobbin (slotField f).1).take + (slotField f).2) = false

/-- A destination that names a slot: the cluster may write it, and it is free (R68). -/
def DestReady (s : State) (f : BitVec 7) : Prop :=
  namesSlot f = true → slotWritable (s.ctx.bobbin (slotField f).1) (turn s) (slotField f).2 = true ∧
    (slotField f).2 < (s.ctx.bobbin (slotField f).1).slots - (s.ctx.bobbin (slotField f).1).count

/-- All ones in the lanes for which `p` holds, zero in the others. -/
def MaskOf (p : Nat → Bool) (m : VReg) : Prop := ∀ k, k < 64 → lane m k = if p k then 0xFFFFFFFF else 0

/-- `i` completes: each active lane of the destination takes `f` of its number, `lat` cycles from now. -/
def Lanes (i : Instr) (s : State) (lat : Nat) (d : BitVec 7) (m : Bool) (f : Nat → W32) : Prop :=
  ∃ mask w, MaskOf (active s m) mask ∧ (∀ k, k < 64 → active s m k = true → lane w k = f k) ∧
    Completes i s (s.writeAt lat (.vector (dstV s d) mask w))

/-- `i` completes: all 64 lanes of the destination take `f` of their number. -/
def AllLanes (i : Instr) (s : State) (lat : Nat) (d : BitVec 7) (f : Nat → W32) : Prop :=
  ∃ w, (∀ k, k < 64 → lane w k = f k) ∧ Completes i s (s.writeAt lat (.vector (dstV s d) (BitVec.allOnes 2048) w))

/-- `i` completes: bit k of the predicate becomes `f k`, `lat` cycles from now. -/
def PredBits (i : Instr) (s : State) (lat : Nat) (p : BitVec 4) (f : Nat → Bool) : Prop :=
  ∃ w : W64, (∀ k, k < 64 → w.getLsbD k = f k) ∧ Completes i s (s.writeAt lat (.pred p.toNat w))

/-- How many of the lanes below `n` a predicate holds. -/
def onesBelow (w : W64) (n : Nat) : Nat := (List.range n).countP w.getLsbD

/-! ## Floating point -/

/-- The LFSR when the lanes below `k` are done: under stochastic rounding each active one has stepped it (R109). -/
def lfsrAtLane (s : State) (m steps : Bool) (k : Nat) : W32 :=
  if steps = true ∧ (roundEnv s).rm = 4 then Nat.iterate lfsrNext ((List.range k).countP (active s m)) (curLfsr s)
  else curLfsr s

/-- The rounding environment of a lane: it draws the low 16 bits of the LFSR that its own step leaves (R108, R109). -/
def laneEnv (s : State) (m steps : Bool) (k : Nat) : RoundEnv :=
  { roundEnv s with draw := (lfsrAtLane s m steps (k + 1)).toNat % 65536 }

/-- `g` holds exactly the flags that some active lane raises (R116). -/
def FlagsOf (s : State) (m : Bool) (f : Nat → BitVec 10) (g : BitVec 10) : Prop :=
  ∀ b, g.getLsbD b = true ↔ ∃ k, k < 64 ∧ active s m k = true ∧ (f k).getLsbD b = true

/-- The flags land with the result, and the LFSR with the next cycle, when they change anything. -/
def withFlags (s : State) (lat : Nat) (g : BitVec 10) (l : W32) : State :=
  let t := if g = 0 then s else s.writeAt lat (.fcsrOr g)
  if l = curLfsr s then t else t.writeAt 1 (.lfsrStep l)

/-- `i` completes: each active lane takes the value of `f` under its own rounding environment, the flags of all active lanes
land as one OR, and the LFSR has stepped in lane order. -/
def FpLanes (i : Instr) (s : State) (lat : Nat) (d : BitVec 7) (m steps : Bool) (f : RoundEnv → Nat → W32 × BitVec 10) : Prop :=
  ∃ mask w g, MaskOf (active s m) mask ∧
    (∀ k, k < 64 → active s m k = true → lane w k = (f (laneEnv s m steps k) k).1) ∧
    FlagsOf s m (fun k => (f (laneEnv s m steps k) k).2) g ∧
    Completes i s (withFlags (s.writeAt lat (.vector (dstV s d) mask w)) lat g (lfsrAtLane s m steps 64))

end Sys2Proof.Claims

open Sys2Proof Sys2Proof.Machine Sys2Proof.Claims

/-! ## Encoding -/

/-- R86 to R94: the bytes of every well-formed instruction, with any bytes after them, decode to that instruction in each
cluster whose map holds it, and leave the bytes after it. -/
def Obligations.DecodeGivesBackEveryEncodedInstruction : Prop :=
  ∀ (c : Cluster) (i : Instr) (rest : List Byte), wellFormed c i = true → decode c (encodeBytes i ++ rest) = .ok (i, rest)

/-! ## The scalar subset -/

/-- R316, R317, R409: sums and differences modulo 2^64, in both sizes. -/
def Sys2Proof.Claims.SumsAndDifferencesLandNextCycle : Prop :=
  ∀ (s : State) (st : Bool) (dst rs1 rs2 : BitVec 5) (imm : BitVec 15) (imm5 : BitVec 5),
    (Valid (.add st dst rs1 rs2) s →
      Scalar (.add st dst rs1 rs2) s 1 dst (word64 ((src s rs1).toNat + (src s rs2).toNat))) ∧
    (Valid (.add16 st dst rs1) s →
      Scalar (.add16 st dst rs1) s 1 dst (word64 ((src s dst).toNat + (src s rs1).toNat))) ∧
    (Valid (.addi st dst rs1 imm) s →
      Scalar (.addi st dst rs1 imm) s 1 dst (word64 ((src s rs1).toNat + imm.toInt))) ∧
    (Valid (.addi16 st dst imm5) s →
      Scalar (.addi16 st dst imm5) s 1 dst (word64 ((src s dst).toNat + imm5.toInt))) ∧
    (Valid (.sub st dst rs1 rs2) s →
      Scalar (.sub st dst rs1 rs2) s 1 dst (word64 ((src s rs1).toNat - (src s rs2).toNat))) ∧
    (Valid (.sub16 st dst rs1) s →
      Scalar (.sub16 st dst rs1) s 1 dst (word64 ((src s dst).toNat - (src s rs1).toNat)))

/-- R366, R367: the low half of the product, and bits 127:64 of the exact product of either reading. -/
def Sys2Proof.Claims.ProductsLandAfterThreeCycles : Prop :=
  ∀ (s : State) (st : Bool) (dst rs1 rs2 : BitVec 5),
    (Valid (.mul st dst rs1 rs2) s →
      Scalar (.mul st dst rs1 rs2) s 3 dst (word64 ((src s rs1).toNat * (src s rs2).toNat))) ∧
    (Valid (.mulh st dst rs1 rs2 true) s →
      Scalar (.mulh st dst rs1 rs2 true) s 3 dst (BitVec.ofNat 64 ((src s rs1).toNat * (src s rs2).toNat / 2 ^ 64))) ∧
    (Valid (.mulh st dst rs1 rs2 false) s →
      ∃ v : W64, Scalar (.mulh st dst rs1 rs2 false) s 3 dst v ∧
        (src s rs1).toInt * (src s rs2).toInt =
          2 ^ 64 * v.toInt + ((src s rs1) * (src s rs2)).toNat)

/-- R338, R387: for every pair of operands, a nonzero divisor gives the quotient truncated toward zero and the remainder with the
dividend's sign; signed overflow gives the dividend and 0; a zero divisor gives all ones and the dividend. -/
def Sys2Proof.Claims.QuotientsAndRemaindersLandAfterSixteenCycles : Prop :=
  ∀ (s : State) (st : Bool) (dst rs1 rs2 : BitVec 5) (u : Bool),
    (Valid (.div st dst rs1 rs2 u) s → ∃ q : W64, Scalar (.div st dst rs1 rs2 u) s 16 dst q ∧
      (src s rs2 = 0 → q = BitVec.allOnes 64) ∧
      (src s rs2 ≠ 0 → u = true → q.toNat = (src s rs1).toNat / (src s rs2).toNat) ∧
      (src s rs2 ≠ 0 → u = false → q = word64 ((src s rs1).toInt.tdiv (src s rs2).toInt))) ∧
    (Valid (.rem st dst rs1 rs2 u) s → ∃ r : W64, Scalar (.rem st dst rs1 rs2 u) s 16 dst r ∧
      (src s rs2 = 0 → r = src s rs1) ∧
      (src s rs2 ≠ 0 → u = true → r.toNat = (src s rs1).toNat % (src s rs2).toNat) ∧
      (src s rs2 ≠ 0 → u = false → r = word64 ((src s rs1).toInt.tmod (src s rs2).toInt)))

/-- R316, R317, R338, R366, R367, R387, R409: sums, differences, products, quotients and remainders, each in its register after its latency. -/
def Obligations.ScalarArithmeticResults : Prop :=
  Claims.SumsAndDifferencesLandNextCycle ∧
  Claims.ProductsLandAfterThreeCycles ∧
  Claims.QuotientsAndRemaindersLandAfterSixteenCycles

/-- R323: AND. -/
def Sys2Proof.Claims.AndLandsNextCycle : Prop :=
  ∀ (s : State) (st : Bool) (dst rs1 rs2 : BitVec 5), Valid (.and st dst rs1 rs2) s →
    ∃ v : W64, Scalar (.and st dst rs1 rs2) s 1 dst v ∧
      ∀ k, v.getLsbD k = ((src s rs1).getLsbD k && (src s rs2).getLsbD k)

/-- R375, R463, R324: the other bitwise operations, bit by bit. -/
def Sys2Proof.Claims.BitwiseResultsLandNextCycle : Prop :=
  ∀ (s : State) (st : Bool) (dst rs1 rs2 : BitVec 5),
    (Valid (.or st dst rs1 rs2) s → ∃ v : W64, Scalar (.or st dst rs1 rs2) s 1 dst v ∧
      ∀ k, v.getLsbD k = ((src s rs1).getLsbD k || (src s rs2).getLsbD k)) ∧
    (Valid (.xor st dst rs1 rs2) s → ∃ v : W64, Scalar (.xor st dst rs1 rs2) s 1 dst v ∧
      ∀ k, v.getLsbD k = ((src s rs1).getLsbD k != (src s rs2).getLsbD k)) ∧
    (Valid (.andn st dst rs1 rs2) s → ∃ v : W64, Scalar (.andn st dst rs1 rs2) s 1 dst v ∧
      ∀ k, k < 64 → v.getLsbD k = ((src s rs1).getLsbD k && !(src s rs2).getLsbD k))

/-- R401, R402, R405: shifts by the low six bits of the second source. -/
def Sys2Proof.Claims.ShiftsLandNextCycle : Prop :=
  ∀ (s : State) (st : Bool) (dst rs1 rs2 : BitVec 5),
    (Valid (.shl st dst rs1 rs2) s →
      Scalar (.shl st dst rs1 rs2) s 1 dst (word64 ((src s rs1).toNat * 2 ^ ((src s rs2).toNat % 64)))) ∧
    (Valid (.shr st dst rs1 rs2) s →
      Scalar (.shr st dst rs1 rs2) s 1 dst (word64 ((src s rs1).toNat / 2 ^ ((src s rs2).toNat % 64)))) ∧
    (Valid (.sra st dst rs1 rs2) s →
      Scalar (.sra st dst rs1 rs2) s 1 dst (word64 ((src s rs1).toInt / 2 ^ ((src s rs2).toNat % 64))))

/-- R323, R324, R375, R401, R402, R405, R463: bitwise results and shifts land in the next cycle. -/
def Obligations.ScalarLogicAndShiftResults : Prop :=
  Claims.AndLandsNextCycle ∧
  Claims.BitwiseResultsLandNextCycle ∧
  Claims.ShiftsLandNextCycle

/-- R336, R361, R362, R395, R335, R379: comparisons, the lesser and the greater, selection, and the counts of leading zeros and
of ones. -/
def Sys2Proof.Claims.ComparisonsAndCountsLandNextCycle : Prop :=
  ∀ (s : State) (st : Bool) (dst rs1 rs2 rc : BitVec 5) (cond : BitVec 3) (u : Bool),
    (Valid (.cmp st dst rs1 rs2 cond) s →
      Scalar (.cmp st dst rs1 rs2 cond) s 1 dst
        (if (cond = 0 ∧ src s rs1 = src s rs2) ∨ (cond = 1 ∧ src s rs1 ≠ src s rs2) ∨
            (cond = 2 ∧ (src s rs1).toInt < (src s rs2).toInt) ∨ (cond = 3 ∧ (src s rs2).toInt ≤ (src s rs1).toInt) ∨
            (cond = 4 ∧ (src s rs1).toNat < (src s rs2).toNat) ∨ (cond = 5 ∧ (src s rs2).toNat ≤ (src s rs1).toNat)
          then 1 else 0)) ∧
    (Valid (.min st dst rs1 rs2 u) s → ∃ v : W64, Scalar (.min st dst rs1 rs2 u) s 1 dst v ∧
      (u = true → v.toNat = min (src s rs1).toNat (src s rs2).toNat) ∧
      (u = false → v.toInt = min (src s rs1).toInt (src s rs2).toInt)) ∧
    (Valid (.max st dst rs1 rs2 u) s → ∃ v : W64, Scalar (.max st dst rs1 rs2 u) s 1 dst v ∧
      (u = true → v.toNat = max (src s rs1).toNat (src s rs2).toNat) ∧
      (u = false → v.toInt = max (src s rs1).toInt (src s rs2).toInt)) ∧
    (Valid (.sel st dst rs1 rs2 rc) s →
      Scalar (.sel st dst rs1 rs2 rc) s 1 dst (if src s rc = 0 then src s rs2 else src s rs1)) ∧
    (Valid (.clz st dst rs1) s → ∃ n : Nat, Scalar (.clz st dst rs1) s 1 dst (BitVec.ofNat 64 n) ∧
      n ≤ 64 ∧ (src s rs1).toNat < 2 ^ (64 - n) ∧ (n < 64 → 2 ^ (63 - n) ≤ (src s rs1).toNat)) ∧
    (Valid (.popc st dst rs1) s →
      Scalar (.popc st dst rs1) s 1 dst (BitVec.ofNat 64 (onesBelow (src s rs1) 64)))

/-- R365, R356, R357: moves and immediates. LIH replaces one halfword and keeps the other three. -/
def Sys2Proof.Claims.MovesAndImmediatesLandNextCycle : Prop :=
  ∀ (s : State) (st : Bool) (dst rs1 imm5 : BitVec 5) (imm : BitVec 20) (h : BitVec 2) (half : BitVec 16),
    (Valid (.mov st dst rs1) s → Scalar (.mov st dst rs1) s 1 dst (src s rs1)) ∧
    (Valid (.mov16 st dst rs1) s → Scalar (.mov16 st dst rs1) s 1 dst (src s rs1)) ∧
    (Valid (.li st dst imm) s → Scalar (.li st dst imm) s 1 dst (word64 imm.toInt)) ∧
    (Valid (.li16 st dst imm5) s → Scalar (.li16 st dst imm5) s 1 dst (word64 imm5.toInt)) ∧
    (Valid (.lih st dst h half) s → ∃ v : W64, Scalar (.lih st dst h half) s 1 dst v ∧
      ∀ k, k < 64 → v.getLsbD k =
        if k / 16 = h.toNat then half.getLsbD (k % 16) else (src s dst).getLsbD k)

/-- R335, R336, R356, R357, R361, R362, R365, R379, R395: comparisons, selections, counts, moves and immediates land in the next cycle. -/
def Obligations.ScalarComparisonsMovesAndImmediates : Prop :=
  Claims.ComparisonsAndCountsLandNextCycle ∧
  Claims.MovesAndImmediatesLandNextCycle

/-! ## Vector results -/

/-- The operands of a V instruction of two sources: under the cap, and its slots ready. -/
def Sys2Proof.Claims.Ready2 (s : State) (d a b : BitVec 7) : Prop :=
  UnderCap s [d, a, b] ∧ SourceReady s a ∧ DestReady s d

/-- The operands of a V instruction of one source. -/
def Sys2Proof.Claims.Ready1 (s : State) (d a : BitVec 7) : Prop := UnderCap s [d, a] ∧ SourceReady s a ∧ DestReady s d

/-- Lane k of a first, second and third source. -/
def Sys2Proof.Claims.laneA (s : State) (a : BitVec 7) (k : Nat) : W32 := lane (srcA s a) k
def Sys2Proof.Claims.laneB (s : State) (b : BitVec 7) (k : Nat) : W32 := lane (srcB s b) k
def Sys2Proof.Claims.laneC (s : State) (c : BitVec 4) (k : Nat) : W32 := lane (srcC s c) k

/-- R418: VADD. -/
def Obligations.VaddWritesLanewiseSums : Prop :=
  ∀ (s : State) (st m : Bool) (d a b : BitVec 7), Valid (.vadd st d a b m) s → Ready2 s d a b →
    Lanes (.vadd st d a b m) s 2 d m (fun k => BitVec.ofNat 32 (((laneA s a k).toNat + (laneB s b k).toNat) % 2 ^ 32))

/-- R458, R446, R443, R444, R453, R454, R457: the other integer instructions of two sources, lane by lane. -/
def Sys2Proof.Claims.IntegerLanesLandAfterTwoCycles : Prop :=
  ∀ (s : State) (st m : Bool) (d a b : BitVec 7), Ready2 s d a b →
    let x := laneA s a
    let y := laneB s b
    (Valid (.vsub st d a b m) s → Lanes (.vsub st d a b m) s 2 d m (fun k => BitVec.ofInt 32 ((x k).toNat - (y k).toNat))) ∧
    (Valid (.vmul st d a b m) s → Lanes (.vmul st d a b m) s 2 d m (fun k => BitVec.ofNat 32 ((x k).toNat * (y k).toNat))) ∧
    (Valid (.vminS32 st d a b m) s →
      Lanes (.vminS32 st d a b m) s 2 d m (fun k => BitVec.ofInt 32 (min (x k).toInt (y k).toInt))) ∧
    (Valid (.vminN32 st d a b m) s →
      Lanes (.vminN32 st d a b m) s 2 d m (fun k => BitVec.ofNat 32 (min (x k).toNat (y k).toNat))) ∧
    (Valid (.vmaxS32 st d a b m) s →
      Lanes (.vmaxS32 st d a b m) s 2 d m (fun k => BitVec.ofInt 32 (max (x k).toInt (y k).toInt))) ∧
    (Valid (.vmaxN32 st d a b m) s →
      Lanes (.vmaxN32 st d a b m) s 2 d m (fun k => BitVec.ofNat 32 (max (x k).toNat (y k).toNat))) ∧
    (Valid (.vshl st d a b m) s →
      Lanes (.vshl st d a b m) s 2 d m (fun k => BitVec.ofNat 32 ((x k).toNat * 2 ^ ((y k).toNat % 32)))) ∧
    (Valid (.vshr st d a b m) s →
      Lanes (.vshr st d a b m) s 2 d m (fun k => BitVec.ofNat 32 ((x k).toNat / 2 ^ ((y k).toNat % 32)))) ∧
    (Valid (.vsra st d a b m) s →
      Lanes (.vsra st d a b m) s 2 d m (fun k => BitVec.ofInt 32 ((x k).toInt / 2 ^ ((y k).toNat % 32))))

/-- The 32-bit word of four bytes. -/
def Sys2Proof.Claims.fourBytes (f : Nat → Byte) : W32 := BitVec.ofNat 32 (leNat ((List.range 4).map f))

/-- R437, R440, R441, R442, R451: the funnel shift, the field products, the three-input logic and the selection. -/
def Sys2Proof.Claims.FunnelFieldAndLogicLanes : Prop :=
  ∀ (s : State) (st m : Bool) (d a b : BitVec 7) (c : BitVec 4) (d6 : BitVec 6) (tt : BitVec 8),
    (Valid (.vgfmul st d a b m) s → Ready2 s d a b →
      Lanes (.vgfmul st d a b m) s 2 d m
        (fun k => fourBytes (fun j => gfMul (byteOf (laneA s a k) j) (byteOf (laneB s b k) j)))) ∧
    (Valid (.vgfma st d a b c) s → Ready2 s d a b →
      Lanes (.vgfma st d a b c) s 2 d false
        (fun k => fourBytes (fun j => gfMul (byteOf (laneA s a k) j) (byteOf (laneB s b k) j)) ^^^ laneC s c k)) ∧
    (Valid (.vfsh st d a b c) s → Ready2 s d a b →
      Lanes (.vfsh st d a b c) s 1 d false
        (fun k => BitVec.ofNat 32 (((laneA s a k ++ laneB s b k : BitVec 64) >>> ((laneC s c k).toNat % 32)).toNat))) ∧
    (Valid (.vsel st d a b c) s → Ready2 s d a b →
      Lanes (.vsel st d a b c) s 2 d false
        (fun k => if (predicate s c).getLsbD k then laneA s a k else laneB s b k)) ∧
    (Valid (.vlog3 st d6 a c tt) s → UnderCap s [d6.setWidth 7, a] → SourceReady s a →
      ∃ mask w, MaskOf (active s false) mask ∧
        (∀ k j, k < 64 → j < 32 → active s false k = true →
          (lane w k).getLsbD j =
            tt.getLsbD (4 * ((lane (plainSource s.ctx.regs d6.toNat) k).getLsbD j).toNat +
              2 * ((laneA s a k).getLsbD j).toNat + ((laneC s c k).getLsbD j).toNat)) ∧
        Completes (.vlog3 st d6 a c tt) s (s.writeAt 1 (.vector (dstV s (d6.setWidth 7)) mask w)))

/-- R437, R440 to R444, R446, R451, R453, R454, R457, R458: the integer, field, logic and selecting V instructions, lane by lane. -/
def Obligations.IntegerAndLogicLanes : Prop :=
  Claims.IntegerLanesLandAfterTwoCycles ∧
  Claims.FunnelFieldAndLogicLanes

/-- R445, R449, R419, R455, R448, R459, R425: what a result lane takes from elsewhere in its source. -/
def Sys2Proof.Claims.MovesAcrossLanes : Prop :=
  ∀ (s : State) (st m : Bool) (d a b : BitVec 7) (n : BitVec 6) (w : BitVec 2),
    let x := laneA s a
    (Valid (.vmov st d a m) s → Ready1 s d a → Lanes (.vmov st d a m) s 1 d m x) ∧
    (Valid (.vpopc st d a m) s → Ready1 s d a →
      Lanes (.vpopc st d a m) s 2 d m (fun k => BitVec.ofNat 32 ((List.range 32).countP (x k).getLsbD))) ∧
    (Valid (.vbcast st d a n m) s → Ready1 s d a → Lanes (.vbcast st d a n m) s 3 d m (fun _ => x n.toNat)) ∧
    (Valid (.vslideUp st d a n m) s → Ready1 s d a →
      Lanes (.vslideUp st d a n m) s 3 d m (fun k => if k < n.toNat then 0 else x (k - n.toNat))) ∧
    (Valid (.vslideDown st d a n m) s → Ready1 s d a →
      Lanes (.vslideDown st d a n m) s 3 d m (fun k => if 63 < k + n.toNat then 0 else x (k + n.toNat))) ∧
    (Valid (.vperm st d a b m) s → Ready2 s d a b →
      Lanes (.vperm st d a b m) s 3 d m
        (fun k => if 64 ≤ (laneB s b k).toNat then 0 else x (laneB s b k).toNat)) ∧
    (Valid (.vunpk st d a b w m) s → Ready1 s d a →
      Lanes (.vunpk st d a b w m) s 3 d m
        (fun k => ((srcA s a).extractLsb' (4 * 2 ^ w.toNat * (64 * b.toNat + k)) (4 * 2 ^ w.toNat)).setWidth 32)) ∧
    (Valid (.vfclass st d a m) s → Ready1 s d a → Lanes (.vfclass st d a m) s 2 d m (fun k => fpClass (x k)))

/-- R447: the low W bits of the active lanes of both sources fill the low 128 W bits of the destination, inactive lanes giving
zero, above the elements that it held. -/
def Sys2Proof.Claims.VpackFillsTheLowBits : Prop :=
  ∀ (s : State) (st m : Bool) (d a b : BitVec 7) (w : BitVec 2), Valid (.vpack st d a b w m) s → Ready2 s d a b →
    ∃ v : VReg, Completes (.vpack st d a b w m) s (s.writeAt 3 (.vector (dstV s d) (BitVec.allOnes 2048) v)) ∧
      (∀ k, k < 64 → v.extractLsb' (4 * 2 ^ w.toNat * k) (4 * 2 ^ w.toNat) =
        if active s m k then (laneA s a k).setWidth (4 * 2 ^ w.toNat) else 0) ∧
      (∀ k, k < 64 → v.extractLsb' (4 * 2 ^ w.toNat * (64 + k)) (4 * 2 ^ w.toNat) =
        if active s m k then (laneB s b k).setWidth (4 * 2 ^ w.toNat) else 0) ∧
      (∀ j, 128 * (4 * 2 ^ w.toNat) + j < 2048 →
        v.getLsbD (128 * (4 * 2 ^ w.toNat) + j) = (destValue s (dstV s d)).getLsbD j)

/-- R419, R425, R445, R447, R448, R449, R455, R459: what a result lane takes from elsewhere in its source. -/
def Obligations.LanesMoveAndPack : Prop :=
  Claims.MovesAcrossLanes ∧
  Claims.VpackFillsTheLowBits

/-- R384: PSET. -/
def Sys2Proof.Claims.PsetSetsTheLowBits : Prop :=
  ∀ (s : State) (st : Bool) (p : BitVec 4) (n : BitVec 7), turn s = .V →
    (n.toNat ≤ 64 → PredBits (.pset st p n) s 1 p (fun k => decide (k < n.toNat))) ∧
    (64 < n.toNat → Traps (.pset st p n) s 0x01 (wordTval (.pset st p n)))

/-- R420, R378, R376, R377, R380, R385: comparisons into a predicate, predicate logic, counts and first lanes, and predicates as
vector images. -/
def Sys2Proof.Claims.PredicateResults : Prop :=
  ∀ (s : State) (st m g : Bool) (d a b : BitVec 7) (p q r : BitVec 4) (cond : BitVec 3),
    (Valid (.vcmp st d a b m cond) s → UnderCap s [a, b] → SourceReady s a →
      PredBits (.vcmp st d a b m cond) s 2 (d.setWidth 4) (fun k =>
        active s m k &&
          ((cond == 0 && laneA s a k == laneB s b k) || (cond == 1 && laneA s a k != laneB s b k) ||
           (cond == 2 && decide ((laneA s a k).toInt < (laneB s b k).toInt)) ||
           (cond == 3 && decide ((laneB s b k).toInt ≤ (laneA s a k).toInt)) ||
           (cond == 4 && decide ((laneA s a k).toNat < (laneB s b k).toNat)) ||
           (cond == 5 && decide ((laneB s b k).toNat ≤ (laneA s a k).toNat))))) ∧
    (Valid (.plog st p q r cond) s →
      PredBits (.plog st p q r cond) s 1 p (fun k =>
        let x := (predicate s q).getLsbD k
        let y := (predicate s r).getLsbD k
        if cond = 0 then x && y else if cond = 1 then x || y else if cond = 2 then x != y else if cond = 3 then x && !y
        else !x)) ∧
    (Valid (.pcnt st d p) s → UnderCap s [d] → DestReady s d →
      Lanes (.pcnt st d p) s 1 d false (fun _ => BitVec.ofNat 32 (onesBelow (predicate s p) s.ctx.sr.vlen.toNat))) ∧
    (Valid (.pfirst st d p) s → UnderCap s [d] → DestReady s d →
      ∃ n, Lanes (.pfirst st d p) s 1 d false (fun _ => BitVec.ofNat 32 n) ∧
        ((n = 64 ∧ ∀ k, k < s.ctx.sr.vlen.toNat → (predicate s p).getLsbD k = false) ∨
         (n < s.ctx.sr.vlen.toNat ∧ (predicate s p).getLsbD n = true ∧ ∀ k, k < n → (predicate s p).getLsbD k = false))) ∧
    (Valid (.ppack st d g) s → UnderCap s [d] → DestReady s d →
      AllLanes (.ppack st d g) s 2 d (fun k =>
        if k < 16 then (vget s.ctx.regs.p (8 * g.toNat + k / 2) 0).extractLsb' (32 * (k % 2)) 32 else 0)) ∧
    (Valid (.punpk st a g) s → UnderCap s [a] → SourceReady s a →
      ∃ u, Completes (.punpk st a g) s u ∧ u.ctx.flight = s.ctx.flight ++ (List.range 8).map (fun j =>
        ⟨s.now + 2, .pred (8 * g.toNat + j) (laneA s a (2 * j + 1) ++ laneA s a (2 * j))⟩) ∧
        u = { s with ctx := { s.ctx with flight := u.ctx.flight } })

/-- R429, R456, R452: the vector stack and VLEN. A fill reads the 256 bytes of a slot and a spill writes them, 6 cycles later;
with P a fill pops and a spill pushes, and VSP moves in the next cycle. -/
def Sys2Proof.Claims.VectorStackAndLength : Prop :=
  ∀ (s : State) (st p : Bool) (r n : BitVec 7) (slot : BitVec 11),
    (∀ a, a = s.ctx.sr.vsp.toNat + (if p then 0 else 256 * slot.toNat) →
      Valid (.vfill st r slot p) s → UnderCap s [r] → wmHolds s.ctx a 256 = false → a + 256 ≤ s.ctx.spSize →
      earlyWord s.ctx a 256 = none → s.ctx.spLost a 256 = false →
      Completes (.vfill st r slot p) s
        ((if p then s.writeAt 1 (.vsp (s.ctx.sr.vsp + 256)) else s).writeAt 6
          (.vector (dstV s r) (BitVec.allOnes 2048) (ofImage (s.ctx.sp.read a 256))))) ∧
    (∀ a : Nat, (p = true → s.ctx.sr.vsp.toNat = a + 256) → (p = false → a = s.ctx.sr.vsp.toNat + 256 * slot.toNat) →
      Valid (.vspill st r slot p) s → UnderCap s [r] → s.ctx.sr.vslim.toNat ≤ a → a + 256 ≤ s.ctx.spSize →
      Completes (.vspill st r slot p) s
        ((if p then s.writeAt 1 (.vsp (BitVec.ofNat 20 a)) else s).writeAt 6
          (.spStore a (imageBytes (plainSource s.ctx.regs r.toNat)) s.ctx.sr.dbgt))) ∧
    (Valid (.vsetl st n) s → Completes (.vsetl st n) s (s.writeAt 1 (.vlen n)))

/-- R376 to R378, R380, R384, R385, R420, R429, R452, R456: the instructions that write or read predicates, the vector stack, and VLEN. -/
def Obligations.PredicatesAndTheVectorStack : Prop :=
  Claims.PsetSetsTheLowBits ∧
  Claims.PredicateResults ∧
  Claims.VectorStackAndLength

/-! ## Floating point -/

/-- R424, R439, R434, R427, R431, R435: sums, products, quotients and the fused forms round each lane once. -/
def Sys2Proof.Claims.FloatArithmeticLanes : Prop :=
  ∀ (s : State) (st m : Bool) (d a b : BitVec 7) (c : BitVec 4), Ready2 s d a b →
    let x := laneA s a
    let y := laneB s b
    let z := laneC s c
    (Valid (.vfadd st d a b m) s → FpLanes (.vfadd st d a b m) s 4 d m true (fun e k => fpAdd e (x k) (y k))) ∧
    (Valid (.vfsub st d a b m) s → FpLanes (.vfsub st d a b m) s 4 d m true (fun e k => fpSub e (x k) (y k))) ∧
    (Valid (.vfmul st d a b m) s → FpLanes (.vfmul st d a b m) s 4 d m true (fun e k => fpMul e (x k) (y k))) ∧
    (Valid (.vfdiv st d a b m) s → FpLanes (.vfdiv st d a b m) s 12 d m true (fun e k => fpDiv e (x k) (y k))) ∧
    (Valid (.vfma st d a b c) s →
      FpLanes (.vfma st d a b c) s 4 d false true (fun e k => fpFma e (x k) (y k) (z k))) ∧
    (Valid (.vfnma st d a b c) s →
      FpLanes (.vfnma st d a b c) s 4 d false true (fun e k => fpFnma e (x k) (y k) (z k)))

/-- R423, R432, R433, R426, R438, R436, R428, R430: the functions of one source and the comparisons. -/
def Sys2Proof.Claims.FloatFunctionLanes : Prop :=
  ∀ (s : State) (st m : Bool) (d a b : BitVec 7) (cond : BitVec 3),
    let x := laneA s a
    let y := laneB s b
    (Valid (.vfabs st d a m) s → Ready1 s d a → FpLanes (.vfabs st d a m) s 1 d m false (fun e k => fpAbs e (x k))) ∧
    (Valid (.vfmin st d a b m) s → Ready2 s d a b →
      FpLanes (.vfmin st d a b m) s 4 d m false (fun e k => fpPick false e (x k) (y k))) ∧
    (Valid (.vfmax st d a b m) s → Ready2 s d a b →
      FpLanes (.vfmax st d a b m) s 4 d m false (fun e k => fpPick true e (x k) (y k))) ∧
    (Valid (.vfsqrt st d a m) s → Ready1 s d a →
      FpLanes (.vfsqrt st d a m) s 12 d m true (fun e k => fpOut e (sqrtVal (fpIn e (x k))))) ∧
    (Valid (.vfrcp st d a m) s → Ready1 s d a →
      FpLanes (.vfrcp st d a m) s 6 d m true (fun e k => fpOut e (rcpVal (fpIn e (x k))))) ∧
    (Valid (.vfexp2 st d a m) s → Ready1 s d a →
      FpLanes (.vfexp2 st d a m) s 6 d m true (fun e k => fpOut e (exp2Val (fpIn e (x k))))) ∧
    (Valid (.vflog2 st d a m) s → Ready1 s d a →
      FpLanes (.vflog2 st d a m) s 6 d m true (fun e k => fpOut e (log2Val (fpIn e (x k))))) ∧
    (Valid (.vfcmp st d a b m cond) s → UnderCap s [a, b] → SourceReady s a →
      ∃ (p : W64) (g : BitVec 10),
        (∀ k, k < 64 → p.getLsbD k = (active s m k && (fpCompare (laneEnv s m false k) cond.toNat (x k) (y k)).1)) ∧
        FlagsOf s m (fun k => (fpCompare (laneEnv s m false k) cond.toNat (x k) (y k)).2) g ∧
        Completes (.vfcmp st d a b m cond) s
          (withFlags (s.writeAt 2 (.pred d.toNat p)) 2 g (lfsrAtLane s m false 64)))

/-- R421, R422: each active lane converts one part of its source into one part of its destination, and keeps the rest. -/
def Sys2Proof.Claims.VcvtConvertsOnePart : Prop :=
  ∀ (s : State) (st m : Bool) (d a : BitVec 7) (dty sty : BitVec 4) (part : BitVec 2),
    Valid (.vcvt st d a dty sty part m) s → Ready1 s d a →
    let steps := convRounds dty.toNat sty.toNat
    let from' := fun (k : Nat) => (laneA s a k).toNat / 2 ^ (if typeBits sty.toNat = 32 then 0 else typeBits sty.toNat * part.toNat)
    let place := if typeBits dty.toNat = 32 then 0 else typeBits dty.toNat * part.toNat
    let r := fun (k : Nat) => convert (laneEnv s m steps k) dty.toNat sty.toNat (from' k)
    ∃ mask w g,
      (∀ k, k < 64 → lane mask k = if active s m k then BitVec.ofNat 32 ((2 ^ typeBits dty.toNat - 1) * 2 ^ place) else 0) ∧
      (∀ k, k < 64 → active s m k = true → lane w k = BitVec.ofNat 32 ((r k).1 * 2 ^ place)) ∧
      FlagsOf s m (fun k => (r k).2) g ∧
      Completes (.vcvt st d a dty sty part m) s
        (withFlags (s.writeAt 3 (.vector (dstV s d) mask w)) 3 g (lfsrAtLane s m steps 64))

/-- R421 to R424, R426 to R428, R430 to R436, R438, R439: floating-point lanes, each under its own rounding environment. -/
def Obligations.FloatingPointLanes : Prop :=
  Claims.FloatArithmeticLanes ∧
  Claims.FloatFunctionLanes ∧
  Claims.VcvtConvertsOnePart

/-- R450: a node of the reduction tree: absent, the one present child, or the combination of both. -/
def Sys2Proof.Claims.node (e : RoundEnv) (op : Nat) (leaf : Nat → Option W32) : Nat → Nat → Option W32
  | 0, j => leaf j
  | l + 1, j =>
    match node e op leaf l (2 * j), node e op leaf l (2 * j + 1) with
    | some x, some y => some (combine e op x y).1
    | some x, none => some x
    | none, y => y

/-- R103, R450: the result of the tree, the canonical NaN where a floating-point one is a NaN, lands in every active lane, with the OR of the flags of its combine steps; without an active
lane nothing is written. Under stochastic rounding each combine step of a sum has stepped the LFSR, one step fewer than active
lanes. -/
def Obligations.VredCombinesActiveLanes : Prop :=
  ∀ (s : State) (st m : Bool) (d a : BitVec 7) (op : BitVec 3),
    Valid (.vred st d a m op) s → Ready1 s d a →
    let leaf := fun (k : Nat) => if active s m k then some (laneA s a k) else none
    let count := (List.range 64).countP (active s m)
    let e : RoundEnv := { roundEnv s with draw := (curLfsr s).toNat % 65536 }
    (count = 0 → Completes (.vred st d a m op) s s) ∧
    (0 < count → ∃ mask w g r, MaskOf (active s m) mask ∧ (∀ k, k < 64 → lane w k = r) ∧
      Completes (.vred st d a m op) s
        (withFlags (s.writeAt 8 (.vector (dstV s d) mask w)) 8 g
          (if op = 0 ∧ (roundEnv s).rm = 4 then Nat.iterate lfsrNext (count - 1) (curLfsr s) else curLfsr s)) ∧
      (¬(op = 0 ∧ (roundEnv s).rm = 4) →
        (node e op.toNat leaf 6 0).map (redResult op.toNat) = some r ∧
        ∀ b, g.getLsbD b = true ↔ ∃ l j x y, l < 6 ∧ j < 64 / 2 ^ (l + 1) ∧ node e op.toNat leaf l (2 * j) = some x ∧
          node e op.toNat leaf l (2 * j + 1) = some y ∧ (combine e op.toNat x y).2.getLsbD b = true))

/-! ## Special registers -/

/-- Where GETSR, CHKERR and BSTAT put a 64-bit value (R81, R87): a scalar register, or in V lanes 0 and 1 of a vector register whose
other lanes become zero. -/
def Sys2Proof.Claims.to6 (s : State) (lat : Nat) (r : BitVec 6) (v : W64) : State :=
  if turn s = .V then
    s.writeAt lat (.vector (if r.toNat < 48 then .v r.toNat else .o (r.toNat - 48)) (BitVec.allOnes 2048) (v.setWidth 2048))
  else s.writeAt lat (.scalar (turn s) r.toNat v)

/-- R277: a drawn task logs a value that depends on timing, at a place of its own in issue order. -/
def Sys2Proof.Claims.logged (s : State) (v : W64) : State :=
  if s.ctx.audit.drawn then s.modCtx (fun x => (x.logRead (cnum (turn s)) x.nextAcc 0 (natBytes v.toNat 8)).tick) else s

/-- R277, R279: with the result `v` that depends on timing, `i` completes as `f` says of the state that logs it; in a replay, as `f` says of
the bytes that stand next in the log. -/
def Sys2Proof.Claims.CompletesLogged (i : Instr) (s : State) (v : W64) (f : State → W64 → State) : Prop :=
  (s.ctx.replays = false → Completes i s (f (logged s v) v)) ∧
  (s.ctx.replays = true →
    Completes i s (f { s with ctx := (s.ctx.takeLogged (cnum (turn s)) 0 8).1.tick }
      (BitVec.ofNat 64 (leNat (s.ctx.takeLogged (cnum (turn s)) 0 8).2))))

/-- A register field of R87 that is not at or above the register cap (R32). -/
def Sys2Proof.Claims.Free6 (s : State) (r : BitVec 6) : Prop := turn s = .V → overCap s r.toNat = false

/-- R344, R396, R334, R331: GETSR reads a special register that its cluster may name; SETSR writes one from the next cycle,
CAUSE, EPC, ESTAT, TVAL, ECMD and CIR in handler mode only; CHKERR reads CIR and clears it; BSTAT reads a bobbin's COUNT. -/
def Sys2Proof.Claims.SpecialRegisterInstructions : Prop :=
  ∀ (s : State) (st : Bool) (r : BitVec 6) (n : BitVec 8) (b : BitVec 4) (v : W64), Free6 s r →
    (Valid (.getsr st r n) s → s.ctx.sreg (turn s) n.toNat = some v → sregAllowed (turn s) false n.toNat = true →
      (n ≠ 0x06 → n ≠ 0x18 → Completes (.getsr st r n) s (to6 s 2 r v)) ∧
      ((n = 0x06 ∨ n = 0x18) → CompletesLogged (.getsr st r n) s v (fun t w => to6 t 2 r w))) ∧
    (Valid (.setsr st r n) s → (s.ctx.sreg (turn s) n.toNat).isSome = true → sregAllowed (turn s) true n.toNat = true →
      (privileged n.toNat = true → s.ctx.sr.handler = true) → valueFault s n.toNat (rd6 s (turn s) r) = none →
      Completes (.setsr st r n) s (s.writeAt 1 (.sreg (turn s) n (rd6 s (turn s) r)))) ∧
    (Valid (.chkerr st r) s → cirTaken s = false →
      Completes (.chkerr st r) s ((to6 s 2 r s.ctx.sr.cir).writeAt 1 .cirClear)) ∧
    (Valid (.chkerr st r) s → cirTaken s = true → Completes (.chkerr st r) s ((to6 s 2 r 0).writeAt 1 .cirClear)) ∧
    (Valid (.bstat st b r) s →
      CompletesLogged (.bstat st b r) s (BitVec.ofNat 64 (s.ctx.bobbin b.toNat).count) (fun t w => to6 t 1 r w))

/-- R94, R344, R396: an unlisted special register, or one that the cluster may not name, raises ILLEGAL with its number; a write of a
handler-mode register in task mode raises PRIV. -/
def Sys2Proof.Claims.SpecialRegisterTraps : Prop :=
  ∀ (s : State) (st : Bool) (r : BitVec 6) (n : BitVec 8),
    (Valid (.getsr st r n) s → (s.ctx.sreg (turn s) n.toNat = none ∨ sregAllowed (turn s) false n.toNat = false) →
      Traps (.getsr st r n) s 0x01 (n.setWidth 64)) ∧
    (Valid (.setsr st r n) s → (s.ctx.sreg (turn s) n.toNat = none ∨ sregAllowed (turn s) true n.toNat = false) →
      Traps (.setsr st r n) s 0x01 (n.setWidth 64)) ∧
    (Valid (.setsr st r n) s → 1 ≤ n.toNat → n.toNat ≤ 6 → s.ctx.sr.handler = false →
      Traps (.setsr st r n) s 0x02 (n.setWidth 64))

/-- Table 4.2, Table 20.2: what a special register reads as once a SETSR of `v` has taken effect: STAT takes DBGT alone, EPC and ESTAT are
those of the writing cluster alone, and an RM of 5 to 7 leaves that field of FCSR. -/
def Sys2Proof.Claims.SpecialRegistersReadWhatWasWritten : Prop :=
  ∀ (x : Ctx) (c : Cluster) (v : W64),
    (x.land (.sreg c 0x00 v)).sreg c 0x00 = some ((x.stat &&& 0xFFFFFFFFFFFFFFFD) ||| (v &&& 2)) ∧
    (x.land (.sreg c 0x01 v)).sreg c 0x01 = some (v &&& 0xFF) ∧
    (x.land (.sreg c 0x02 v)).sreg c 0x02 = some v ∧ (x.land (.sreg c 0x03 v)).sreg c 0x03 = some v ∧
    (∀ d, d ≠ c → (x.land (.sreg c 0x02 v)).sreg d 0x02 = x.sreg d 0x02 ∧ (x.land (.sreg c 0x03 v)).sreg d 0x03 = x.sreg d 0x03) ∧
    (x.land (.sreg c 0x04 v)).sreg c 0x04 = some v ∧ (x.land (.sreg c 0x05 v)).sreg c 0x05 = some v ∧
    (x.land (.sreg c 0x06 v)).sreg c 0x06 = some (v &&& 0xFFFF0001) ∧
    (x.land (.sreg c 0x0B v)).sreg c 0x0B = some (if v &&& 0xFFFFFFFF = 0 then 1 else v &&& 0xFFFFFFFF) ∧
    (∀ n : BitVec 8, 0x10 ≤ n.toNat → n.toNat < 0x14 → (x.land (.sreg c n v)).sreg c n.toNat = some (v &&& 0xFFFFFFFF)) ∧
    (x.land (.sreg c 0x14 v)).sreg c 0x14 = some (v &&& 0xFFFFF) ∧ (x.land (.sreg c 0x15 v)).sreg c 0x15 = some (v &&& 0xFFFFF) ∧
    (x.land (.sreg c 0x16 v)).sreg c 0x16 = some (v &&& 0x7F) ∧
    (v.toNat % 8 < 5 → (x.land (.sreg c 0x17 v)).sreg c 0x17 = some (v &&& 0x3FF)) ∧
    (5 ≤ v.toNat % 8 → (x.land (.sreg c 0x17 v)).sreg c 0x17 = some ((v &&& 0x3F8) ||| (x.sr.fcsr.setWidth 64 &&& 7)))

/-- R66, R67, Table 3.2: why a write of BCFGk with EN = 1 is refused: the bobbin is enabled, its base is not aligned to its slots, its slots go
beyond bobbin memory, its producer does not exist, or it shares bytes with another enabled bobbin. Earlier SETSRs of the cycle count. -/
def Sys2Proof.Claims.bobbinRefused (s : State) (k : Nat) (v : W64) : Prop :=
  let lo := bits64 v 0 13 * 8
  let hi := lo + (bits64 v 13 8 + 1) * (if v.getLsbD 21 then 256 else 8)
  (bobbinAfter s k).en = true ∨ (v.getLsbD 21 = true ∧ bits64 v 0 13 % 32 ≠ 0) ∨ 65536 < hi ∨ 8 ≤ bits64 v 22 4 ∨
    ∃ m, m < 16 ∧ m ≠ k ∧ (bobbinAfter s m).en = true ∧ lo < (bobbinAfter s m).hi ∧ (bobbinAfter s m).lo < hi

/-- Table 20.2: the values that SETSR refuses: a VLEN of 0 or above 64 and a bobbin that cannot be enabled raise ILLEGAL, a VSP or VSLIM that is
no multiple of 256 raises ALIGN, each with the value; a write of BCFG that is not refused, one with EN = 0 always, is made. -/
def Sys2Proof.Claims.SpecialRegisterValues : Prop :=
  ∀ (s : State) (st : Bool) (r : BitVec 6) (n : BitVec 8) (k : Nat),
    let v := rd6 s (turn s) r
    let i := Instr.setsr st r n
    Valid i s → Free6 s r →
    (n = 0x16 → turn s = .V → v = 0 ∨ 64 < v.toNat → Traps i s 0x01 v) ∧
    (n = 0x14 ∨ n = 0x15 → turn s = .V → v.toNat % 256 ≠ 0 → Traps i s 0x05 v) ∧
    (k < 16 → n.toNat = 0x20 + k → v.getLsbD 28 = true → bobbinRefused s k v → Traps i s 0x01 v) ∧
    (k < 16 → n.toNat = 0x20 + k → v.getLsbD 28 = false ∨ ¬bobbinRefused s k v → Completes i s (s.writeAt 1 (.sreg (turn s) n v)))

/-- R66, R67: a write of BCFGk leaves that bobbin empty, reads back as written, and leaves every other bobbin as it was. -/
def Sys2Proof.Claims.BobbinsReadAsConfigured : Prop :=
  ∀ (x : Ctx) (c : Cluster) (v : W64) (n : BitVec 8) (k : Nat), k < 16 → n.toNat = 0x20 + k →
    let y := x.land (.sreg c n v)
    y.sreg c n.toNat = some (v &&& 0x1FFFFFFF) ∧ (y.bobbin k).en = v.getLsbD 28 ∧ (y.bobbin k).count = 0 ∧ (y.bobbin k).fill = 0 ∧
      (y.bobbin k).take = 0 ∧ (y.bobbin k).resv = [] ∧ y = { x with bob := y.bob } ∧ ∀ m, m ≠ k → y.bobbin m = x.bobbin m

/-- R66, R67, R79 to R81, R334, R344, R397: GETSR, SETSR and their like, where they trap, and that a register reads as it was written. -/
def Obligations.SpecialRegistersAreReadAndWritten : Prop :=
  Claims.SpecialRegisterInstructions ∧
  Claims.SpecialRegisterTraps ∧
  Claims.SpecialRegistersReadWhatWasWritten ∧
  Claims.SpecialRegisterValues ∧
  Claims.BobbinsReadAsConfigured

/-! ## Control -/

/-- R374, R345: NOP only takes its cycle; HALT makes its cluster inactive from the next cycle, in task mode. -/
def Sys2Proof.Claims.NopAndHalt : Prop :=
  ∀ (s : State) (st : Bool),
    (Valid (.nop st) s → Completes (.nop st) s s) ∧ (Valid (.nop16 st) s → Completes (.nop16 st) s s) ∧
    (Valid (.halt st) s → s.ctx.sr.handler = false → Completes (.halt st) s (s.writeAt 1 (.deactivate (turn s)))) ∧
    (Valid (.halt16 st) s → s.ctx.sr.handler = false → Completes (.halt16 st) s (s.writeAt 1 (.deactivate (turn s)))) ∧
    (Valid (.halt st) s → s.ctx.sr.handler = true → Traps (.halt st) s 0x01 (wordTval (.halt st))) ∧
    (Valid (.halt16 st) s → s.ctx.sr.handler = true → Traps (.halt16 st) s 0x01 (wordTval (.halt16 st)))

/-- The program counter of the cluster whose turn it is. -/
def Sys2Proof.Claims.pcOf (s : State) : W64 := (s.ctx.cl.get (turn s)).pc

/-- The address `off` halfwords from the instruction. -/
def Sys2Proof.Claims.halfwordTarget {w : Nat} (s : State) (off : BitVec w) : W64 := pcOf s + BitVec.ofInt 64 (off.toInt * 2)

/-- The condition of BRC as R329 gives it: of a scalar register against zero, or in V of a predicate's active lanes. -/
def Sys2Proof.Claims.brcHolds (s : State) (cond : BitVec 3) (reg : BitVec 5) : Prop :=
  if turn s = .V then
    let n := s.ctx.sr.vlen.toNat
    let k := onesBelow (vget s.ctx.regs.p reg.toNat 0) n
    (cond = 0 ∧ k ≠ 0) ∨ (cond = 1 ∧ k = 0) ∨ (cond = 2 ∧ k = n) ∨ (cond = 3 ∧ k ≠ n)
  else
    let v := (src s reg).toInt
    (cond = 0 ∧ v ≠ 0) ∨ (cond = 1 ∧ v = 0) ∨ (cond = 2 ∧ v < 0) ∨ (cond = 3 ∧ 0 ≤ v) ∨ (cond = 4 ∧ 0 < v) ∨ (cond = 5 ∧ v ≤ 0)

/-- R327, R328, R329, R60: a branch whose condition holds goes to a header; one whose condition does not hold goes on; BRB takes the slot
that it tests, either way, and consumes an abort when an error withholds the slot (R251). A taken branch to a bad target traps instead. -/
def Sys2Proof.Claims.BranchesGoToHeaders : Prop :=
  ∀ (s : State) (st : Bool) (o25 : BitVec 25) (o21 : BitVec 21) (o17 : BitVec 17) (b : BitVec 4) (cond : BitVec 3) (reg : BitVec 5),
    (Valid (.br st o25) s → targetFault s (halfwordTarget s o25) = none →
      Jumps (.br st o25) s (s.branchTo (turn s) (halfwordTarget s o25))) ∧
    (Valid (.brc st cond reg o17) s → brcHolds s cond reg → targetFault s (halfwordTarget s o17) = none →
      Jumps (.brc st cond reg o17) s (s.branchTo (turn s) (halfwordTarget s o17))) ∧
    (Valid (.brc st cond reg o17) s → ¬brcHolds s cond reg → Completes (.brc st cond reg o17) s s) ∧
    (Valid (.brb st b o21) s → slotReadable (s.ctx.bobbin b.toNat) (turn s) 0 false = true → 0 < (s.ctx.bobbin b.toNat).count →
      (toW64 (s.ctx.slotValue b.toNat (s.ctx.bobbin b.toNat).take) ≠ 0 → targetFault s (halfwordTarget s o21) = none →
        Jumps (.brb st b o21) s (((s.readsNext b.toNat).writeAt 1 (.take b.toNat 1)).branchTo (turn s) (halfwordTarget s o21))) ∧
      (toW64 (s.ctx.slotValue b.toNat (s.ctx.bobbin b.toNat).take) = 0 →
        Completes (.brb st b o21) s ((s.readsNext b.toNat).writeAt 1 (.take b.toNat 1)))) ∧
    (Valid (.br st o25) s → ∀ code tval, targetFault s (halfwordTarget s o25) = some (code, tval) →
      Traps (.br st o25) s code tval) ∧
    (Valid (.brc st cond reg o17) s → brcHolds s cond reg → ∀ code tval, targetFault s (halfwordTarget s o17) = some (code, tval) →
      Traps (.brc st cond reg o17) s code tval) ∧
    (Valid (.brb st b o21) s → slotReadable (s.ctx.bobbin b.toNat) (turn s) 0 false = true → 0 < (s.ctx.bobbin b.toNat).count →
      toW64 (s.ctx.slotValue b.toNat (s.ctx.bobbin b.toNat).take) ≠ 0 →
      ∀ code tval, targetFault s (halfwordTarget s o21) = some (code, tval) → Traps (.brb st b o21) s code tval)

/-- NOP and HALT, and branches to block headers. -/
def Obligations.SequentialFlowBranchesAndHalt : Prop :=
  Claims.NopAndHalt ∧
  Claims.BranchesGoToHeaders

/-- Control enters the body of a block with this entry on the stack. -/
def Sys2Proof.Claims.entering (s : State) (e : BlockEntry) : State :=
  s.modCtx (fun x => x.modCl (turn s) (fun k => { k with blocks := e :: k.blocks, pc := e.start }))

/-- R57, R58, R61, R63: a data block is passed over, and so is a body whose count is zero; any other header puts an entry with the count
on the block stack and control enters its body, a staged one behind its stage-map words. That a count of 0 and a data block do so at block
depth four too is log 35's reading; where a body ends is measured as log 7 says. -/
def Sys2Proof.Claims.HeadersEnterTheirBlocks : Prop :=
  ∀ (s : State) (st : Bool) (len : BitVec 11) (rep : BitVec 8) (rsrc : Bool) (stg : BitVec 3) (pre : Bool),
    let k := s.ctx.cl.get (turn s)
    let i := Instr.blk st len rep rsrc stg pre
    let n := if rsrc then vget s.ctx.regs.n (rep.toNat % 4) 0 else rep.setWidth 32
    Valid i s → badHeader len rep rsrc stg pre = false →
    (rep = 0 → rsrc = false → badNesting k (k.pc + 4 + BitVec.ofNat 64 (4 * len.toNat)) = false →
      Jumps i s (s.flowTo (turn s) (k.pc + 4 + BitVec.ofNat 64 (4 * len.toNat)))) ∧
    (¬(rep = 0 ∧ rsrc = false) → stg = 0 →
      let body := bodyWords s len.toNat 0 (k.pc + 4)
      badNesting k body.2 = false →
      (n = 0 → Jumps i s (s.flowTo (turn s) body.2)) ∧
      (n ≠ 0 → k.blocks.length ≠ 4 →
        Jumps i s (entering s
          { header := k.pc, start := k.pc + 4, stop := body.2, left := n, staged := false, nstages := 1, mask := 1, stages := [],
            pre := pre }))) ∧
    (¬(rep = 0 ∧ rsrc = false) → stg ≠ 0 →
      let nmaps := (len.toNat + 9) / 10
      let start := k.pc + BitVec.ofNat 64 (4 + 4 * nmaps)
      let body := bodyWords s len.toNat 0 start
      ∀ maps, readMaps s (k.pc + 4) nmaps = .ok maps → mapsOk maps len.toNat (stg.toNat + 1) = true → badNesting k body.2 = false →
      (n = 0 → Jumps i s (s.flowTo (turn s) body.2)) ∧
      (n ≠ 0 → k.blocks.length ≠ 4 →
        Jumps i s (entering s
          { header := k.pc, start := start, stop := body.2, left := n - 1, staged := true, nstages := stg.toNat + 1, mask := 1,
            stages := stageList maps 0 body.1, pre := pre })))

/-- R62, R63: the faults of a header, each with the header's address but for a stage-map word that cannot be read, whose own address is given:
fields of which Table 3.1 says ILLEGAL, a block inside four others, a body that ends beyond the enclosing body or a header inside a staged
body, and stage maps that are not well formed. That they are judged in this order, and that BLKDEPTH is raised only where a block would be
entered, is log 35's reading; where a body ends is measured as log 7 says. -/
def Sys2Proof.Claims.HeadersThatTrap : Prop :=
  ∀ (s : State) (st : Bool) (len : BitVec 11) (rep : BitVec 8) (rsrc : Bool) (stg : BitVec 3) (pre : Bool),
    let k := s.ctx.cl.get (turn s)
    let i := Instr.blk st len rep rsrc stg pre
    let data := rep = 0 ∧ rsrc = false
    let n := if rsrc then vget s.ctx.regs.n (rep.toNat % 4) 0 else rep.setWidth 32
    let nmaps := if stg = 0 then 0 else (len.toNat + 9) / 10
    let start := k.pc + BitVec.ofNat 64 (4 + 4 * nmaps)
    let stop := if data then start + BitVec.ofNat 64 (4 * len.toNat) else (bodyWords s len.toNat 0 start).2
    let bad := len = 0 ∨ (rsrc = true ∧ 4 ≤ rep.toNat) ∨ (data ∧ (stg ≠ 0 ∨ pre = true))
    let deep := ¬data ∧ n ≠ 0 ∧ k.blocks.length = 4
    let nested := ∃ b, k.enclosing = some b ∧ (b.staged = true ∨ b.stop.toNat < stop.toNat)
    Valid i s →
    (bad → Traps i s 0x01 k.pc) ∧
    (¬bad → deep → Traps i s 0x04 k.pc) ∧
    (¬bad → ¬deep → nested → Traps i s 0x01 k.pc) ∧
    (¬bad → ¬deep → ¬nested → stg ≠ 0 →
      (∀ code va, readMaps s (k.pc + 4) nmaps = .error (code, va) → Traps i s code va) ∧
      (∀ maps, readMaps s (k.pc + 4) nmaps = .ok maps → mapsOk maps len.toNat (stg.toNat + 1) = false → Traps i s 0x01 k.pc))

/-- R59, R64: at the end of a pass of an unstaged block with more passes left, control returns to its start with one pass fewer; at the
end of the last the entry leaves the stack; a staged block shifts its stages and starts an iteration while some are left, and then goes on
until its stages have drained. -/
def Sys2Proof.Claims.PassEndsRepeatOrLeave : Prop :=
  ∀ (b : BlockEntry) (t : List BlockEntry) (floor : Nat), floor ≤ t.length →
    (b.staged = false → 1 < b.left.toNat →
      blockEnds false floor b.stop (b :: t) = ({ b with left := b.left - 1 } :: t, b.start, false)) ∧
    (b.staged = false → b.left.toNat ≤ 1 → blockEnds false floor b.stop (b :: t) = blockEnds false floor b.stop t) ∧
    (b.staged = true → b.left ≠ 0 → ∃ b', blockEnds false floor b.stop (b :: t) = (b' :: t, b.start, false) ∧
      b'.left = b.left - 1 ∧ b'.start = b.start ∧ b'.stop = b.stop ∧
      ∀ j, j < 8 → b'.mask.getLsbD j = (j == 0 || (b.mask.getLsbD (j - 1) && decide (j < b.nstages)))) ∧
    (b.staged = true → b.left = 0 → (∀ j, j + 1 < b.nstages → b.mask.getLsbD j = false) → b.nstages ≤ 8 →
      blockEnds false floor b.stop (b :: t) = blockEnds false floor b.stop t) ∧
    (b.staged = true → b.left = 0 → (∃ j, j + 1 < b.nstages ∧ b.mask.getLsbD j = true) → b.nstages ≤ 8 →
      ∃ b', blockEnds false floor b.stop (b :: t) = (b' :: t, b.start, false) ∧ b'.left = 0 ∧ b'.start = b.start ∧ b'.stop = b.stop ∧
        ∀ j, j < 8 → b'.mask.getLsbD j = (decide (0 < j) && b.mask.getLsbD (j - 1) && decide (j < b.nstages)))

/-- Block headers enter their blocks, or trap; at the end of a pass a block repeats or ends. -/
def Obligations.BlocksAreEnteredRepeatedAndLeft : Prop :=
  Claims.HeadersEnterTheirBlocks ∧
  Claims.HeadersThatTrap ∧
  Claims.PassEndsRepeatOrLeave

/-! ## Traps -/

/-- R410, R330: TRAP and BRK raise their traps with the immediate. -/
def Sys2Proof.Claims.TrapAndBrkRaiseTheirTraps : Prop :=
  ∀ (s : State) (st : Bool) (imm : BitVec 16),
    (Valid (.trap st imm) s → Traps (.trap st imm) s 0x20 (imm.setWidth 64)) ∧
    (Valid (.brk st imm) s → Traps (.brk st imm) s 0x21 (imm.setWidth 64))

/-- Every write in flight has landed (R240 step 2). -/
def Sys2Proof.Claims.landed (s : State) : State :=
  { s.modCtx Ctx.landAll with plan := [], verdict := .trapped, trapDue := none }

/-- R240, R242: a trap that is raised while clusters of the cycle still have their turns is due; of several the first raised, which is that
of the first cluster, is taken after the last turn. The walk behind an XLATE or a PERM leaves its translation (R158, R159). -/
def Sys2Proof.Claims.TheFirstTrapOfACycleIsTaken : Prop :=
  ∀ (s : State) (clu : Cluster) (code : Nat) (tval ecmd : W64),
    let u := if code = 0x06 ∨ code = 0x07 then s.fetched tval else s
    (s.plan.tail = [] → s.trapDue = none → takeTrap s clu code tval ecmd = enterTrap u clu code tval ecmd) ∧
    (s.plan.tail ≠ [] → s.trapDue = none →
      takeTrap s clu code tval ecmd = { u with plan := s.plan.tail, verdict := .trapped, trapDue := some ⟨clu, code, tval, ecmd⟩ }) ∧
    (∀ t, s.trapDue = some t →
      (s.plan.tail = [] → takeTrap s clu code tval ecmd = enterTrap u t.clu t.code t.tval t.ecmd) ∧
      (s.plan.tail ≠ [] → takeTrap s clu code tval ecmd = { u with plan := s.plan.tail, verdict := .trapped, trapDue := some t }))

/-- R240, R241, R411: a delegated trap saves the program counter of each active cluster, its status and its block stack, but one taken in the
cycle in which the clusters would resume keeps the EPCs and ESTATs just restored; it records cause and TVAL, enters handler mode, and starts each cluster at its stream of the entry record eight cycles from now. -/
def Sys2Proof.Claims.DelegatedTrapEntersTheHandler : Prop :=
  ∀ (s : State) (clu : Cluster) (code : Nat) (tval ecmd : W64) (streams : List W64),
    (landed s).ctx.sr.handler = false → (landed s).ctx.sr.deleg.getLsbD code = true → code < 64 → code ≠ 0x0D →
    entryRecord (landed s) (landed s).ctx.sr.hentry = .ok streams →
    let t := enterTrap s clu code tval ecmd
    let x := (landed s).ctx
    t.verdict = .trapped ∧ t.plan = [] ∧ t.ctx.flight = x.flight ∧ t.ctx.regs = x.regs ∧ t.ctx.sr.handler = true ∧
    bits64 t.ctx.sr.cause 0 6 = code ∧ bits64 t.ctx.sr.cause 6 2 = cnum clu ∧ t.ctx.sr.tval = tval ∧ t.ctx.sr.ecmd = ecmd ∧
    ∀ c, let k := x.cl.get c
      let k' := t.ctx.cl.get c
      (s.ctx.entry ≠ .returned → k'.epc = (if k.active then k.pc else 0) ∧ (k.active = false → k'.estat = 0) ∧
        (k.active = true → k.blocks.length < 8 → k'.estat.getLsbD 0 = false ∧ k'.estat.getLsbD 3 = true ∧
          bits64 k'.estat 5 3 = k.blocks.length)) ∧
      (s.ctx.entry = .returned → k'.epc = k.epc ∧ k'.estat = k.estat) ∧
      k'.taskActive = k.active ∧ k'.savedBlocks = k.blocks ∧ k'.blocks = [] ∧
      k'.pc = streams.getD (cnum c) 0 ∧ k'.active = (streams.getD (cnum c) 0 != 0) ∧ k'.ready = s.now + 8 ∧ k'.parked = false

/-- R239, R245: a trap in handler mode, a BADRET, and a trap whose cause is not delegated stop the context for the supervisor, with a stop
record of the cause. -/
def Sys2Proof.Claims.OtherTrapsStopTheContext : Prop :=
  ∀ (s : State) (clu : Cluster) (code : Nat) (tval ecmd : W64),
    ((landed s).ctx.sr.handler = true ∨ code = 0x0D ∨ (landed s).ctx.sr.deleg.getLsbD code = false) →
    let t := enterTrap s clu code tval ecmd
    t.ctx.life = .stopping ∧ t.plan = [] ∧ t.ctx.sr.handler = (landed s).ctx.sr.handler ∧ t.ctx.regs = (landed s).ctx.regs ∧
    ∃ r, t.ctx.stop = some r ∧ r.cause = BitVec.ofNat 64 (code + 64 * cnum clu) ∧ r.tval = tval ∧ r.ecmd = ecmd ∧
      r.handler = (landed s).ctx.sr.handler

/-- R239 to R242, R245: what raises a trap by itself, when it is taken, and what taking one does: delegated, to the handler; else, the
context stops. -/
def Obligations.TrapsAreTaken : Prop :=
  Claims.TrapAndBrkRaiseTheirTraps ∧
  Claims.TheFirstTrapOfACycleIsTaken ∧
  Claims.DelegatedTrapEntersTheHandler ∧
  Claims.OtherTrapsStopTheContext

/-- R244, R411: in handler mode, with every ESTAT in order, TRET returns to task mode: each cluster that was active in task mode
continues at EPC with bit 0 cleared and with as many of its outermost saved blocks as BDEPTH says; the others stay inactive. In
a group of clusters the last one carries the return out. -/
def Sys2Proof.Claims.TretReturnsToTaskMode : Prop :=
  ∀ (s : State) (st : Bool), Valid (.tret st) s → s.ctx.sr.handler = true →
    inGroup s (turn s) st (· == 0xF4300000) = true → badRet s.ctx = 0 →
    (s.plan.tail ≠ [] → Jumps (.tret st) s s) ∧
    (s.plan.tail = [] → ∃ t, exec (.tret st) s = .next t ∧ t.verdict = .issued ∧ t.ctx.sr = { s.ctx.sr with handler := false } ∧
      t.ctx.regs = s.ctx.regs ∧ t.ctx.flight = s.ctx.flight ∧
      ∀ c, let k := s.ctx.cl.get c
        let k' := t.ctx.cl.get c
        k'.active = k.taskActive ∧ k'.savedBlocks = [] ∧
        (k.taskActive = true → k'.pc = k.epc &&& 0xFFFFFFFFFFFFFFFE ∧
          k'.blocks = k.savedBlocks.drop (k.savedBlocks.length - bits64 k.estat 5 3)))

/-- R239, R244: TRET outside handler mode raises ILLEGAL; an ESTAT that fails its checks raises BADRET, with the clusters as TVAL. -/
def Sys2Proof.Claims.TretTraps : Prop :=
  ∀ (s : State) (st : Bool), Valid (.tret st) s →
    (s.ctx.sr.handler = false → Traps (.tret st) s 0x01 (wordTval (.tret st))) ∧
    (s.ctx.sr.handler = true → inGroup s (turn s) st (· == 0xF4300000) = true → badRet s.ctx ≠ 0 →
      Traps (.tret st) s 0x0D (BitVec.ofNat 64 (badRet s.ctx)))

/-- R244: TRET returns to task mode, or traps. -/
def Obligations.TretReturnsOrTraps : Prop :=
  Claims.TretReturnsToTaskMode ∧
  Claims.TretTraps

/-- R460: what an XCALL needs to call the streams of a record with the frame at `t`: every active cluster calls the same record, none at
the end of a block's body or in a staged body, record and frame aligned and the frame in the scratchpad, and a header at the stream of
each active cluster. -/
def Sys2Proof.Claims.Callable (s : State) (st : Bool) (r t : W64) (streams : List W64) : Prop :=
  inGroup s (turn s) st isXcall = true ∧
  (∀ d ∈ activeClusters s, (d = turn s ∨ xcallRecord s d = r) ∧ badXcallPlace (s.ctx.cl.get d) = false ∧
    streams.getD (cnum d) 0 ≠ 0 ∧ targetFault s (streams.getD (cnum d) 0) = none) ∧
  r.toNat % 8 = 0 ∧ t.toNat % 8 = 0 ∧ t.toNat + 32 ≤ s.ctx.spSize ∧ entryRecord s r = .ok streams

/-- R460: XCALL stores the return entries of the four clusters below the frame pointer, moves a31 and a30 to them, and every active
cluster goes on at its stream, above the blocks that it holds. In a group the last cluster carries the call out. -/
def Sys2Proof.Claims.XcallCallsTheStreams : Prop :=
  ∀ (s : State) (st : Bool) (off : BitVec 25) (streams : List W64),
    let t := s.ctx.regs.gpr .A 31 - 32
    Valid (.xcall st off) s → Callable s st (halfwordTarget s off) t streams →
    (s.plan.tail ≠ [] → Jumps (.xcall st off) s s) ∧
    (s.plan.tail = [] → ∃ u bs, Jumps (.xcall st off) s u ∧ bs.length = 32 ∧
      u.ctx.flight = s.ctx.flight ++ [⟨s.now + 6, .spStore t.toNat bs s.ctx.sr.dbgt⟩, ⟨s.now + 1, .scalar .A 31 t⟩,
        ⟨s.now + 1, .scalar .A 30 t⟩] ∧
      ∀ c, let k := s.ctx.cl.get c
        let k' := u.ctx.cl.get c
        leNat ((bs.drop (8 * cnum c)).take 8) =
          (if k.active then ((k.pc + 4).toNat % 2 ^ 57 + k.blocks.length * 2 ^ 57 + k.floor * 2 ^ 60) % 2 ^ 64 else 0) ∧
        (k.active = true → k'.pc = streams.getD (cnum c) 0 ∧ k'.floor = k.blocks.length ∧ k'.blocks = k.blocks) ∧
        (k.active = false → k' = k))

/-- R462: XRET reads the return entries at a30, moves a31 and a30 behind them, and every active cluster goes on at its return address with the
blocks and the call floor that its entry names. -/
def Sys2Proof.Claims.XretReturnsToTheCallers : Prop :=
  ∀ (s : State) (st : Bool),
    let t := s.ctx.regs.gpr .A 30
    Valid (.xret st) s → inGroup s (turn s) st (· == 0xF4500000) = true → wmHolds s.ctx t.toNat 32 = false →
    t.toNat % 8 = 0 → t.toNat + 32 ≤ s.ctx.spSize → earlyWord s.ctx t.toNat 32 = none →
    (∀ d ∈ activeClusters s, badReturn (s.ctx.cl.get d) (returnEntry s t.toNat d) = false) →
    (s.plan.tail ≠ [] → Jumps (.xret st) s s) ∧
    (s.plan.tail = [] → ∃ u, Jumps (.xret st) s u ∧
      u.ctx.flight = s.ctx.flight ++ [⟨s.now + 1, .scalar .A 31 (t + 32)⟩, ⟨s.now + 1, .scalar .A 30 (t + 32)⟩] ∧
      ∀ c, let k := s.ctx.cl.get c
        let k' := u.ctx.cl.get c
        let e := returnEntry s t.toNat c
        (k.active = true → k'.pc = (e.setWidth 57).signExtend 64 ∧ k'.floor = bits64 e 60 3 ∧
          k'.blocks = k.blocks.drop (k.blocks.length - bits64 e 57 3)) ∧
        (k.active = false → k' = k))

/-- XCALL and XRET. -/
def Obligations.CallsAndReturns : Prop :=
  Claims.XcallCallsTheStreams ∧
  Claims.XretReturnsToTheCallers

/-! ## Flags, hoops and bobbins -/

/-- R56, R341, R342: a flag changes from the next cycle; a wait goes on when the flag is set, and one that clears takes it; else the
cluster waits. -/
def Sys2Proof.Claims.FlagInstructions : Prop :=
  ∀ (s : State) (st v clr : Bool) (f : BitVec 3),
    (Valid (.flset st f v) s → Completes (.flset st f v) s (s.writeAt 1 (.flag f.toNat v))) ∧
    (Valid (.flsetSet16 st f) s → Completes (.flsetSet16 st f) s (s.writeAt 1 (.flag f.toNat true))) ∧
    (Valid (.flsetClear16 st f) s → Completes (.flsetClear16 st f) s (s.writeAt 1 (.flag f.toNat false))) ∧
    (vget s.ctx.flags f.toNat false = true →
      (Valid (.flwait16 st f) s → Completes (.flwait16 st f) s s) ∧
      (Valid (.flwait st f clr) s → (clr = true → flagTaken s f.toNat = false) →
        Completes (.flwait st f clr) s (if clr then s.writeAt 1 (.flagTake f.toNat) else s)) ∧
      (Valid (.flwaitClr16 st f) s → flagTaken s f.toNat = false →
        Completes (.flwaitClr16 st f) s (s.writeAt 1 (.flagTake f.toNat)))) ∧
    (Valid (.flwait st f clr) s → (vget s.ctx.flags f.toNat false = false ∨ (clr = true ∧ flagTaken s f.toNat = true)) →
      Waits (.flwait st f clr) s .flag)

/-- R40: when every expected arrival of a present generation has come, the generation goes up by one and the arrivals return
to 0; else nothing changes. -/
def Obligations.HoopGenerationCompletes : Prop :=
  ∀ (i : HoopInst) (now : Nat),
    (i.arrived = i.expect → i.expect ≠ 0 → (i.settle now).gen = i.gen + 1 ∧ (i.settle now).arrived = 0) ∧
    (¬(i.arrived = i.expect ∧ i.expect ≠ 0) → i.settle now = i)

/-- R41, R42, R347: an armed task's HARRIVE or HWAIT goes on once the recorded generation has completed; one that has waited, once that has
reached the task. -/
def Sys2Proof.Claims.GoesOn (s : State) (r : HoopRec) (i : HoopInst) : Prop :=
  i.gen ≠ r.gen ∧ ((s.ctx.cl.get (turn s)).wait = .hoop → hoopReached s.now r i = true)

/-- R41 to R44, R346, R347, R194: an arrival of a member arms its record with the present generation and counts, behind every access that it
releases; a leave gives membership up; a wait goes on once the recorded generation has completed, and waits until then; a hoop of which
the task is no member raises ILLEGAL with the hoop number. A HARRIVE of the cycle in which another has armed the record waits (R346). -/
def Sys2Proof.Claims.HoopInstructions : Prop :=
  ∀ (s : State) (st : Bool) (h : BitVec 3) (i : HoopInst),
    let r := vget s.ctx.hoops h.toNat .reset
    let arrives := releaseHoop s (turn s) h.toNat { r with armed := true, gen := i.gen, notified := false, armedAt := s.now + 1 } (.arrive h.toNat)
    let again := r.armedAt = s.now + 1
    let leaves := releaseHoop s (turn s) h.toNat { r with member := false, armed := false, notified := false }
      (.leave h.toNat r.scope r.group r.armed r.gen)
    (s.ctx.replays = false → hoopOf s s.ctx.gang h.toNat r = some i → r.scope ≠ 0 → r.member = true →
      (Valid (.harrive st h false) s → hoopFrozen s r = false →
        (r.armed = false → Completes (.harrive st h false) s arrives) ∧
        (r.armed = true → GoesOn s r i → ¬again → Completes (.harrive st h false) s arrives.selfInvalidate) ∧
        (r.armed = true → ¬GoesOn s r i ∨ again → Waits (.harrive st h false) s .hoop)) ∧
      (Valid (.harrive st h true) s → hoopFrozen s r = false → Completes (.harrive st h true) s leaves) ∧
      (Valid (.hwait st h) s →
        ((r.armed = false ∨ GoesOn s r i) →
          Completes (.hwait st h) s (s.modCtx (·.setHoop h.toNat { r with armed := false, notified := false })).selfInvalidate) ∧
        (r.armed = true → ¬GoesOn s r i → Waits (.hwait st h) s .hoop))) ∧
    (s.ctx.replays = false → r.member = false →
      (Valid (.hwait st h) s → Traps (.hwait st h) s 0x01 (h.setWidth 64)) ∧
      (∀ leave, Valid (.harrive st h leave) s → Traps (.harrive st h leave) s 0x01 (h.setWidth 64)))

/-- R40, R41, R43, R194: an arrival at a hoop, of a quad, a die, the package or the pod, counts in the step that issues it when no access of the
context is outstanding: the instance has one arrival more, and its generation completes by the last; a leave counts in that step too. With
accesses outstanding, an arrival or a leave stands behind them, counts nothing yet, and cannot be performed before any of them but a KNOT. -/
def Sys2Proof.Claims.ArrivalsCountBehindTheirAccesses : Prop :=
  ∀ (s : State) (c : Cluster) (h idx : Nat) (r : HoopRec) (i : HoopInst) (kind : AccKind) (y a : Access),
    let kinds := [AccKind.arrive h, .leave h r.scope r.group r.armed r.gen]
    (s.ctx.gq = [] → h < 8 → hoopOf s s.ctx.gang h r = some i →
      (let t := releaseHoop s c h r (.arrive h)
       hoopOf t t.ctx.gang h r = some (({ i with arrived := i.arrived + 1 } : HoopInst).settle s.now) ∧ t.ctx.gq = [] ∧
         vget t.ctx.hoops h .reset = r) ∧
      (let t := releaseHoop s c h r (.leave h r.scope r.group r.armed r.gen)
       hoopOf t t.ctx.gang h r = some (({ i with
         expect := i.expect - 1, arrived := i.arrived - (if r.armed ∧ i.gen = r.gen then 1 else 0) } : HoopInst).settle s.now) ∧
         t.ctx.gq = [])) ∧
    (s.ctx.gq ≠ [] → kind ∈ kinds →
      let t := releaseHoop s c h r kind
      t.hub = s.hub ∧ t.tamb = s.tamb ∧ ∃ z, t.ctx.gq = s.ctx.gq ++ [z] ∧ z.kind = kind) ∧
    (s.ctx.gq[idx]? = some y → y.kind ∈ kinds → a ∈ s.ctx.gq.take idx → (∀ n, a.kind ≠ .knot n) → performable s idx = false)

/-- R279: HARRIVE and HWAIT of a replay complete at once. -/
def Sys2Proof.Claims.ReplaysPassHoops : Prop :=
  ∀ (s : State) (st leave : Bool) (h : BitVec 3), s.ctx.replays = true →
    (Valid (.harrive st h leave) s → Completes (.harrive st h leave) s s) ∧ (Valid (.hwait st h) s → Completes (.hwait st h) s s)

/-- The sync flag and the hoop instructions. -/
def Obligations.FlagsAndHoops : Prop :=
  Claims.FlagInstructions ∧
  Claims.HoopInstructions ∧
  Claims.ArrivalsCountBehindTheirAccesses ∧
  Claims.ReplaysPassHoops

/-- R69, R332, R325: BTAKE and BGIVE move the pointers by 1 to 4 slots from the next cycle, and the register form of BTAKE moves slot TAKE's
content, consuming an abort when an error withholds it (R251); they wait for slots, and are ILLEGAL for a cluster that is not
the consumer or the producer, with more slots than the bobbin has, and BTAKE also in its register form on a 256-byte slot. -/
def Obligations.BobbinTakesAndGives : Prop :=
  ∀ (s : State) (st r : Bool) (b : BitVec 4) (n : BitVec 2) (reg : BitVec 6),
    let bb := s.ctx.bobbin b.toNat
    (bb.en = true → bb.cons.toNat = cnum (turn s) →
      (Valid (.btake st b n r reg) s → (r = true → bb.sz = false) → n.toNat + 1 ≤ bb.slots →
        (n.toNat + 1 ≤ bb.count →
          Completes (.btake st b n r reg) s
            (if r then ((s.writeAt 1 (.take b.toNat (n.toNat + 1))).readsNext b.toNat).writeAt 1
                (.scalar (turn s) reg.toNat (toW64 (s.ctx.slotValue b.toNat bb.take)))
             else s.writeAt 1 (.take b.toNat (n.toNat + 1)))) ∧
        (bb.count < n.toNat + 1 →
          Waits (.btake st b n r reg) s (if 5 ≤ bb.prod.toNat then .bobbinEngine else .bobbinCluster bb.prod.toNat))) ∧
      (Valid (.btake16 st b) s → 1 ≤ bb.count → Completes (.btake16 st b) s (s.writeAt 1 (.take b.toNat 1)))) ∧
    (bb.en = true → bb.prod.toNat = cnum (turn s) →
      (Valid (.bgive st b n) s → n.toNat + 1 ≤ bb.slots →
        (n.toNat + 1 ≤ bb.slots - bb.count → Completes (.bgive st b n) s (s.writeAt 1 (.give b.toNat (n.toNat + 1)))) ∧
        (bb.slots - bb.count < n.toNat + 1 → Waits (.bgive st b n) s .bobbinRoom)) ∧
      (Valid (.bgive16 st b) s → 1 ≤ bb.slots - bb.count → Completes (.bgive16 st b) s (s.writeAt 1 (.give b.toNat 1)))) ∧
    (Valid (.bgive st b n) s → (bb.en = false ∨ bb.prod.toNat ≠ cnum (turn s) ∨ bb.slots < n.toNat + 1) →
      Traps (.bgive st b n) s 0x01 (wordTval (.bgive st b n))) ∧
    (Valid (.btake st b n r reg) s →
      (bb.en = false ∨ bb.cons.toNat ≠ cnum (turn s) ∨ bb.slots < n.toNat + 1 ∨ (r = true ∧ bb.sz = true)) →
      Traps (.btake st b n r reg) s 0x01 (wordTval (.btake st b n r reg))) ∧
    (Valid (.btake16 st b) s → (bb.en = false ∨ bb.cons.toNat ≠ cnum (turn s)) → Traps (.btake16 st b) s 0x01 (wordTval (.btake16 st b))) ∧
    (Valid (.bgive16 st b) s → (bb.en = false ∨ bb.prod.toNat ≠ cnum (turn s)) → Traps (.bgive16 st b) s 0x01 (wordTval (.bgive16 st b)))

/-! ## Loads and stores -/

/-- `Src(base)` plus a signed offset in units of `size` bytes, modulo 2^64. -/
def Sys2Proof.Claims.effective {w : Nat} (s : State) (base : BitVec 5) (off : BitVec w) (size : Nat) : W64 :=
  BitVec.ofInt 64 ((src s base).toNat + off.toInt * size)

/-- The access size of a SZ code 0 to 6: 1, 1, 2, 2, 4, 4, 8 bytes. -/
def Sys2Proof.Claims.bytesOf (sz : BitVec 3) : Nat := if sz.toNat < 2 then 1 else if sz.toNat < 4 then 2 else if sz.toNat < 6 then 4 else 8

/-- A loaded number extended to 64 bits: with its sign for SZ 1, 3 and 5. -/
def Sys2Proof.Claims.extended (sz : BitVec 3) (v : Nat) : W64 :=
  if sz.toNat % 2 = 1 ∧ 2 ^ (8 * bytesOf sz - 1) ≤ v then BitVec.ofInt 64 (v - 2 ^ (8 * bytesOf sz)) else BitVec.ofNat 64 v

/-- An access of `n` bytes of the scratchpad that can go ahead: no watermark or EARLYREAD holds it, it is aligned, in range, and no
uncorrectable error struck it. -/
def Sys2Proof.Claims.SpReadable (s : State) (a : W64) (n : Nat) : Prop :=
  wmHolds s.ctx a.toNat n = false ∧ a.toNat % n = 0 ∧ a.toNat + n ≤ s.ctx.spSize ∧ earlyWord s.ctx a.toNat n = none ∧
    s.ctx.spLost a.toNat n = false

/-- A PROD-4 bobbin with room for one more read (R322). -/
def Sys2Proof.Claims.Receives (b : Bobbin) : Prop := b.en = true ∧ b.prod = 4 ∧ b.count + b.resv.length < b.slots

/-- No pseudo-channel in all-bank mode holds up the walk that the translation of an address needs (R161, R211). -/
def Sys2Proof.Claims.WalkFree (s : State) (va : W64) : Prop := walkHeld s s.ctx.coreId s.ctx.asid va = false

/-- The translation of an address for an access of the focused context (R159), which no walk holds up. -/
def Sys2Proof.Claims.Translates (s : State) (need : Need) (va : W64) (t : TlbEntry) : Prop :=
  translate s s.ctx.coreId s.ctx.asid need va = .ok t ∧ WalkFree s va

/-- An access as its queue holds it (R182). -/
def Sys2Proof.Claims.access (s : State) (loadQ : Bool) (kind : AccKind) (es : List Elem) (size : Nat) (data : VReg)
    (cls : Option (BitVec 2)) (ord : BitVec 2) (scope : BitVec 3) : Access :=
  { num := 0, loadQ := loadQ, issuer := turn s, kind := kind, elems := es, size := size, data := data, cls := cls, ord := ord,
    scope := scope, seen := false }

/-- One translated element. -/
def Sys2Proof.Claims.elem (s : State) (a : W64) (t : TlbEntry) : Elem := { va := a, pa := physOf s t a, pte := t.pte, page := t.size }

/-- R349, R352: LD and LDLIT: the bytes of the scratchpad, and of the code, land after 6 cycles. -/
def Sys2Proof.Claims.ScalarLoadsLandAfterSixCycles : Prop :=
  ∀ (s : State) (st : Bool) (dst base : BitVec 5) (sz : BitVec 3) (cls : BitVec 2) (off : BitVec 8) (o20 : BitVec 20),
    (let a := effective s base off (bytesOf sz)
     Valid (.ld st dst base sz cls off) s → SpReadable s a (bytesOf sz) →
      Scalar (.ld st dst base sz cls off) s 6 dst (extended sz (leNat (s.ctx.sp.read a.toNat (bytesOf sz))))) ∧
    (let a := pcOf s + BitVec.ofInt 64 (o20.toInt * 4)
     ∀ bs, Valid (.ldlit st dst o20) s → a.toNat % 4 = 0 → codeRead s a 8 = .ok bs → codeLost s a = false → codeLost s (a + 4) = false →
      Completes (.ldlit st dst o20) s ((s.fetched a).writeAt 6 (.scalar (turn s) dst.toNat (BitVec.ofNat 64 (leNat bs)))))

/-- R349, R95: LD raises ALIGN before SPRANGE, each with the address, once no watermark holds it. -/
def Sys2Proof.Claims.ScratchpadLoadTraps : Prop :=
  ∀ (s : State) (st : Bool) (dst base : BitVec 5) (sz : BitVec 3) (cls : BitVec 2) (off : BitVec 8),
    let a := effective s base off (bytesOf sz)
    Valid (.ld st dst base sz cls off) s → 
    (wmHolds s.ctx a.toNat (bytesOf sz) = true → Waits (.ld st dst base sz cls off) s .watermark) ∧
    (wmHolds s.ctx a.toNat (bytesOf sz) = false → a.toNat % bytesOf sz ≠ 0 → Traps (.ld st dst base sz cls off) s 0x05 a) ∧
    (wmHolds s.ctx a.toNat (bytesOf sz) = false → a.toNat % bytesOf sz = 0 → s.ctx.spSize < a.toNat + bytesOf sz →
      Traps (.ld st dst base sz cls off) s 0x08 a) ∧
    (∀ w, wmHolds s.ctx a.toNat (bytesOf sz) = false → a.toNat % bytesOf sz = 0 → a.toNat + bytesOf sz ≤ s.ctx.spSize →
      earlyWord s.ctx a.toNat (bytesOf sz) = some w → Traps (.ld st dst base sz cls off) s 0x0A (BitVec.ofNat 64 w))

/-- R350, R322, R182: LDB reserves the next slot of its bobbin; a scratchpad read is delivered 6 cycles later, a global read enters the
load queue with its class, or its ordering and scope. -/
def Sys2Proof.Claims.BobbinLoadsReserveASlot : Prop :=
  ∀ (s : State) (st : Bool) (b : BitVec 4) (base : BitVec 5) (sz : BitVec 3) (cls ord : BitVec 2) (scope : BitVec 3) (off : BitVec 8)
    (t : TlbEntry),
    let bb := s.ctx.bobbin b.toNat
    let n := if sz = 7 then (if bb.sz then 256 else 8) else bytesOf sz
    let a := effective s base off (if sz = 7 then 8 else bytesOf sz)
    Receives bb → (sz ≠ 7 → bb.sz = false) →
    (Valid (.ldb st b base true sz cls off) s → SpReadable s a n →
      Completes (.ldb st b base true sz cls off) s
        ((s.modCtx (·.reserve b.toNat)).writeAt 6 (.deliver b.toNat bb.nextId
          (if sz = 7 then ofImage (s.ctx.sp.read a.toNat n) else (extended sz (leNat (s.ctx.sp.read a.toNat n))).setWidth 2048)))) ∧
    (Valid (.ldb st b base false sz cls off) s → a.toNat % n = 0 → Translates s .read a t →
      Completes (.ldb st b base false sz cls off) s
        (((s.remember t).modCtx (·.reserve b.toNat)).enqueue
          (access s true (.load b.toNat bb.nextId sz) [elem s a t] n 0 (some cls) 0 0))) ∧
    (Valid (.ldbOrdered st b base sz cls ord scope) s → (src s base).toNat % n = 0 → Translates s .read (src s base) t →
      Completes (.ldbOrdered st b base sz cls ord scope) s
        (((s.remember t).modCtx (·.reserve b.toNat)).enqueue
          (access s true (.load b.toNat bb.nextId sz) [elem s (src s base) t] n 0 (some cls) ord scope)))

/-- Scalar loads of the scratchpad, and loads of global memory into a bobbin. -/
def Obligations.LoadsLandOrReserveASlot : Prop :=
  Claims.ScalarLoadsLandAfterSixCycles ∧
  Claims.BobbinLoadsReserveASlot

/-- R406, R407: ST stores the low bytes of a register, STB the content of a bobbin's next slot, which it takes: into the scratchpad 6
cycles later, or through the store queue. A slot that an error withholds is a consumed abort (R251). -/
def Sys2Proof.Claims.StoresLandOrEnterTheQueue : Prop :=
  ∀ (s : State) (st : Bool) (dst base : BitVec 5) (sz : BitVec 3) (cls ord : BitVec 2) (scope : BitVec 3) (off : BitVec 8) (o12 : BitVec 12)
    (b : BitVec 4) (t : TlbEntry),
    (let n := bytesOf sz
     let a := effective s base off n
     let v := (src s dst).toNat
     (Valid (.st st dst base true sz cls off) s → a.toNat % n = 0 → a.toNat + n ≤ s.ctx.spSize →
      Completes (.st st dst base true sz cls off) s (s.writeAt 6 (.spStore a.toNat (natBytes v n) s.ctx.sr.dbgt))) ∧
     (Valid (.st st dst base false sz cls off) s → a.toNat % n = 0 → Translates s .write a t →
      Completes (.st st dst base false sz cls off) s
        ((s.remember t).enqueue (access s false .store [elem s a t] n (BitVec.ofNat 2048 v) (some cls) 0 0))) ∧
     (Valid (.stOrdered st dst base sz cls ord scope) s → (src s base).toNat % n = 0 → Translates s .write (src s base) t →
      Completes (.stOrdered st dst base sz cls ord scope) s
        ((s.remember t).enqueue
          (access s false .store [elem s (src s base) t] n (BitVec.ofNat 2048 v) (some cls) ord scope)))) ∧
    (let bb := s.ctx.bobbin b.toNat
     let n := if bb.sz then 256 else 8
     let a := effective s base o12 8
     let v := s.ctx.slotValue b.toNat bb.take
     bb.en = true → bb.cons.toNat = cnum (turn s) → 0 < bb.count →
     (Valid (.stb st b base true cls o12) s → a.toNat % n = 0 → a.toNat + n ≤ s.ctx.spSize →
      Completes (.stb st b base true cls o12) s
        (((s.readsNext b.toNat).writeAt 1 (.take b.toNat 1)).writeAt 6 (.spStore a.toNat (natBytes v.toNat n) s.ctx.sr.dbgt))) ∧
     (Valid (.stb st b base false cls o12) s → a.toNat % n = 0 → Translates s .write a t →
      Completes (.stb st b base false cls o12) s
        ((((s.remember t).readsNext b.toNat).writeAt 1 (.take b.toNat 1)).enqueue
          (access s false .store [elem s a t] n v (some cls) 0 0))) ∧
     (Valid (.stbOrdered st b base cls ord scope) s → (src s base).toNat % n = 0 → Translates s .write (src s base) t →
      Completes (.stbOrdered st b base cls ord scope) s
        ((((s.remember t).readsNext b.toNat).writeAt 1 (.take b.toNat 1)).enqueue
          (access s false .store [elem s (src s base) t] n v (some cls) ord scope))))

/-- R351: element i of a gather or scatter lies at the base plus the signed index of lane i, shifted. -/
def Sys2Proof.Claims.elementsAt (s : State) (base : BitVec 5) (index : VReg) (sh : BitVec 3) : List W64 :=
  (List.range 64).map (fun k => BitVec.ofInt 64 ((src s base).toNat + (lane index k).toInt * 2 ^ sh.toNat))

/-- A wide slot that the cluster may take next. -/
def Sys2Proof.Claims.Takeable (s : State) (b : BitVec 4) (n : Nat) : Prop :=
  let x := s.ctx.bobbin b.toNat
  x.en = true ∧ x.cons.toNat = cnum (turn s) ∧ x.sz = true ∧ n ≤ x.count

/-- R351, R408: a gather takes a slot of indices and reserves a slot of data; a scatter takes a slot of data and a slot of indices; 64
elements in the scratchpad, or through the queues, translated one by one. That a scatter whose data and indices name one bobbin takes two slots of
it, and reads both from slot TAKE, is log 13's reading. -/
def Sys2Proof.Claims.GathersAndScatters : Prop :=
  ∀ (s : State) (st : Bool) (bd bi : BitVec 4) (base : BitVec 5) (cls esz : BitVec 2) (sh : BitVec 3) (ts : List TlbEntry),
    let e := 2 ^ esz.toNat
    let d := s.ctx.bobbin bd.toNat
    let x := s.ctx.bobbin bi.toNat
    let vas := elementsAt s base (s.ctx.slotValue bi.toNat x.take) sh
    (∀ va ∈ vas, va.toNat % e = 0) →
    (Takeable s bi 1 → Receives d → d.sz = true →
      (Valid (.ldg st bd bi base cls esz sh true) s → (∀ va ∈ vas, SpReadable s va e) →
        ∃ w : VReg, (∀ k, k < 64 → lane w k = BitVec.ofNat 32 (leNat (s.ctx.sp.read (vas.getD k 0).toNat e))) ∧
          Completes (.ldg st bd bi base cls esz sh true) s
            ((((s.readsNext bi.toNat).modCtx (·.reserve bd.toNat)).writeAt 1 (.take bi.toNat 1)).writeAt 6
              (.deliver bd.toNat d.nextId w))) ∧
      (Valid (.ldg st bd bi base cls esz sh false) s → globalAccesses s .read vas = .ok ts → (∀ va ∈ vas, WalkFree s va) →
        Completes (.ldg st bd bi base cls esz sh false) s
          (((((s.rememberAll ts).readsNext bi.toNat).modCtx (·.reserve bd.toNat)).writeAt 1 (.take bi.toNat 1)).enqueue
            (access s true (.gather bd.toNat d.nextId) ((vas.zip ts).map (fun p => elem s p.1 p.2)) e 0 (some cls) 0 0)))) ∧
    (Takeable s bd (if bd = bi then 2 else 1) → Takeable s bi (if bd = bi then 2 else 1) →
      let data := s.ctx.slotValue bd.toNat d.take
      let taken := fun (u : State) => (((u.readsNext bd.toNat).readsNext bi.toNat).writeAt 1 (.take bd.toNat 1)).writeAt 1
        (.take bi.toNat 1)
      (Valid (.stsc st bd bi base cls esz sh true) s → (∀ va ∈ vas, va.toNat + e ≤ s.ctx.spSize) →
        Completes (.stsc st bd bi base cls esz sh true) s ((taken s).modCtx (fun x =>
          { x with flight := x.flight ++ (List.range 64).map (fun k =>
              ⟨s.now + 6, .spStore (vas.getD k 0).toNat (natBytes (lane data k).toNat e) s.ctx.sr.dbgt⟩) }))) ∧
      (Valid (.stsc st bd bi base cls esz sh false) s → globalAccesses s .write vas = .ok ts → (∀ va ∈ vas, WalkFree s va) →
        Completes (.stsc st bd bi base cls esz sh false) s
          ((taken (s.rememberAll ts)).enqueue
            (access s false .scatter ((vas.zip ts).map (fun p => elem s p.1 p.2)) e data (some cls) 0 0))))

/-- Stores land in the scratchpad or enter the store queue; gathers and scatters. -/
def Obligations.StoresGathersAndScatters : Prop :=
  Claims.StoresLandOrEnterTheQueue ∧
  Claims.GathersAndScatters

/-- R321, R333, R340, R348, R182, R184: atomics, FENCE and KNOT enter the queues of their cluster; AMO and CAS carry no class, and a KNOT is
the next of its cluster. -/
def Obligations.AtomicsFencesAndKnotsEnterTheQueues : Prop :=
  ∀ (s : State) (st w : Bool) (b op : BitVec 4) (base rs new exp : BitVec 5) (ord : BitVec 2) (scope : BitVec 3) (t : TlbEntry),
    let n := if w then 8 else 4
    let bb := s.ctx.bobbin b.toNat
    let a := src s base
    (a.toNat % n = 0 → Translates s .write a t →
      (Valid (.amo st b false base rs op w ord scope) s →
        Completes (.amo st b false base rs op w ord scope) s
          ((s.remember t).enqueue
            (access s (turn s == .A) (.amo none op) [elem s a t] n ((src s rs).setWidth 2048) none ord scope))) ∧
      (Valid (.amo st b true base rs op w ord scope) s → Receives bb → bb.sz = false →
        Completes (.amo st b true base rs op w ord scope) s
          (((s.remember t).modCtx (·.reserve b.toNat)).enqueue
            (access s (turn s == .A) (.amo (some (b.toNat, bb.nextId)) op) [elem s a t] n ((src s rs).setWidth 2048) none ord
              scope))) ∧
      (Valid (.cas st b base new exp w ord scope) s → Receives bb → bb.sz = false →
        Completes (.cas st b base new exp w ord scope) s
          (((s.remember t).modCtx (·.reserve b.toNat)).enqueue
            (access s true (.cas b.toNat bb.nextId (src s exp)) [elem s a t] n ((src s new).setWidth 2048) none ord scope)))) ∧
    (Valid (.fence st scope) s →
      Completes (.fence st scope) s (s.enqueue (access s false .fence [] 0 0 none 3 scope))) ∧
    (Valid (.knot st) s → turn s = .A →
      Completes (.knot st) s ((s.enqueue (access s true (.knot s.ctx.knotsA) [] 0 0 none 0 0)).modCtx
        (fun x => { x with knotsA := s.ctx.knotsA + 1 }))) ∧
    (Valid (.knot st) s → turn s = .S →
      Completes (.knot st) s ((s.enqueue (access s false (.knot s.ctx.knotsS) [] 0 0 none 0 0)).modCtx
        (fun x => { x with knotsS := s.ctx.knotsS + 1 })))

/-- R159, R160, R161, R211, R321, R406: a global access raises ALIGN, then waits while its walk is held up, then raises XLATE where no valid
leaf serves it, or PERM where the leaf denies it, each with the address. -/
def Sys2Proof.Claims.GlobalAccessTraps : Prop :=
  ∀ (s : State) (st w : Bool) (dst base rs : BitVec 5) (sz : BitVec 3) (cls : BitVec 2) (off : BitVec 8) (b op : BitVec 4) (ord : BitVec 2)
    (scope : BitVec 3),
    (let n := bytesOf sz
     let a := effective s base off n
     Valid (.st st dst base false sz cls off) s →
      (a.toNat % n ≠ 0 → Traps (.st st dst base false sz cls off) s 0x05 a) ∧
      (a.toNat % n = 0 → ¬WalkFree s a → Waits (.st st dst base false sz cls off) s .none) ∧
      (a.toNat % n = 0 → WalkFree s a → lookup s s.ctx.coreId s.ctx.asid a = none →
        Traps (.st st dst base false sz cls off) s 0x06 a) ∧
      (∀ t, a.toNat % n = 0 → WalkFree s a → lookup s s.ctx.coreId s.ctx.asid a = some t → pteW t.pte = false →
        Traps (.st st dst base false sz cls off) s 0x07 a)) ∧
    (let n := if w then 8 else 4
     let a := src s base
     Valid (.amo st b false base rs op w ord scope) s →
      (a.toNat % n ≠ 0 → Traps (.amo st b false base rs op w ord scope) s 0x05 a) ∧
      (a.toNat % n = 0 → ¬WalkFree s a → Waits (.amo st b false base rs op w ord scope) s .none) ∧
      (a.toNat % n = 0 → WalkFree s a → lookup s s.ctx.coreId s.ctx.asid a = none →
        Traps (.amo st b false base rs op w ord scope) s 0x06 a) ∧
      (∀ t, a.toNat % n = 0 → WalkFree s a → lookup s s.ctx.coreId s.ctx.asid a = some t → pteW t.pte = false →
        Traps (.amo st b false base rs op w ord scope) s 0x07 a))

/-! ## Engine commands -/

/-- `i` completes: its command, with the register values at issue, stands last in the queue of engine `eng`, under the queue's next index
and behind the context's accesses so far; no register, no write in flight and no byte of memory has changed. -/
def Sys2Proof.Claims.Commands (i : Instr) (s : State) (eng : Nat) (a b c : W64) (es : List Elem)
    (pk : BitVec 512) : Prop :=
  ∃ u cmd, Completes i s u ∧
    (u.ctx.eng.queue eng).cmds = (s.ctx.eng.queue eng).cmds ++ [cmd] ∧
    (u.ctx.eng.queue eng).next = (s.ctx.eng.queue eng).next + 1 ∧
    cmd.word = BitVec.ofNat 32 (encode i) ∧ cmd.ra = a ∧ cmd.rb = b ∧ cmd.rc = c ∧ cmd.after = s.ctx.nextAcc ∧
    cmd.idx = (s.ctx.eng.queue eng).next % 2 ^ 24 ∧ cmd.elems = es ∧ cmd.packet = pk ∧
    u.ctx.regs = s.ctx.regs ∧ u.ctx.flight = s.ctx.flight ∧ u.mem = s.mem ∧ u.dcache = s.dcache

/-- An engine's queue has room (R204), and the context is no replay, which only signs its engine commands (R279). -/
def Sys2Proof.Claims.Room (s : State) (eng : Nat) : Prop := (s.ctx.eng.queue eng).cmds.length < 8 ∧ s.ctx.replays = false

/-- The rows of a row command: `n` from `a` on, each for the given uses. -/
def Sys2Proof.Claims.rows (a : W64) (n : Nat) (needs : List Need) : List (W64 × List Need) :=
  (List.range n).map (fun k => (a + BitVec.ofNat 64 (1024 * k), needs))

/-- The translated rows pass the checks of R201, and no walk holds them up. -/
def Sys2Proof.Claims.RowsOk (s : State) (want : List (W64 × List Need)) (rs : List (W64 × TlbEntry)) (n : Nat) (clear share : Bool) : Prop :=
  translateRows s want = .ok rs ∧ (∀ r ∈ want, WalkFree s r.1) ∧ ∀ f ∈ rowFaults s rs n clear share, f.1 = false

def Sys2Proof.Claims.elems (s : State) (rs : List (W64 × TlbEntry)) : List Elem := rs.map (fun r => elem s r.1 r.2)

/-- R201, R204, R391, R392, R393: ROWCP, ROWFILL and ROWLOG enter the Cutwork queue with their rows translated. -/
def Sys2Proof.Claims.RowCommandsEnterTheCutworkQueue : Prop :=
  ∀ (s : State) (st : Bool) (ra rb rc n1 : BitVec 5) (op : BitVec 3) (n2 : BitVec 2) (rs : List (W64 × TlbEntry)),
    let a := src s ra
    let b := src s rb
    let aw := src s rc
    Room s 2 → aw.toNat % 8 = 0 → a.toNat % 1024 = 0 →
    (Valid (.rowcp st ra rb rc n1) s → b.toNat % 1024 = 0 →
      RowsOk s (rows a (n1.toNat + 1) [.write] ++ rows b (n1.toNat + 1) [.read]) rs (n1.toNat + 1) false false →
      Commands (.rowcp st ra rb rc n1) s 2 a b aw (elems s rs) 0) ∧
    (Valid (.rowfill st ra rb rc n1) s → RowsOk s (rows a (n1.toNat + 1) [.write]) rs (n1.toNat + 1) false false →
      Commands (.rowfill st ra rb rc n1) s 2 a b aw (elems s rs) 0) ∧
    (Valid (.rowlog st ra rb rc op n2) s → b.toNat % 1024 = 0 →
      RowsOk s (rows a (n2.toNat + 1) [.read, .write] ++ rows b (n2.toNat + 1) [.read]) rs (n2.toNat + 1) true true →
      Commands (.rowlog st ra rb rc op n2) s 2 a b aw (elems s rs) 0)

/-- R210, R369 to R373: the near-bank commands enter the Couching queue when their page is a clear compute page. -/
def Sys2Proof.Claims.NearBankCommandsEnterTheCouchingQueue : Prop :=
  ∀ (s : State) (st h : Bool) (ra rb rc : BitVec 5) (b : BitVec 4) (p : W64 × TlbEntry) (ls : List (W64 × TlbEntry)),
    let a := src s ra
    let v := src s rb
    let aw := src s rc
    Room s 3 → aw.toNat % 8 = 0 → computePage s p.2 true = true → WalkFree s a →
    (translateRows s [(a, [.read])] = .ok [p] →
      (Valid (.nbenter st ra rc) s → Commands (.nbenter st ra rc) s 3 a 0 aw (elems s [p]) 0) ∧
      (Valid (.nbread st ra rc b) s → Commands (.nbread st ra rc b) s 3 a 0 aw (elems s [p]) 0) ∧
      (Valid (.nbexit st ra rc) s → Commands (.nbexit st ra rc) s 3 a 0 aw (elems s [p]) 0) ∧
      (Valid (.nbmac st ra rc h) s → a.toNat % 16384 = 0 → Commands (.nbmac st ra rc h) s 3 a 0 aw (elems s [p]) 0)) ∧
    (Valid (.nbload st ra rb rc) s → v.toNat % 64 = 0 → (∀ k, k < 8 → WalkFree s (v + BitVec.ofNat 64 (64 * k))) →
      translateRows s ((a, [.read]) :: (List.range 8).map (fun k => (v + BitVec.ofNat 64 (64 * k), [.read]))) = .ok (p :: ls) →
      Commands (.nbload st ra rb rc) s 3 a v aw (elems s (p :: ls)) 0)

/-- Cutwork and Couching commands enter their engines' queues. -/
def Obligations.RowAndNearBankCommands : Prop :=
  Claims.RowCommandsEnterTheCutworkQueue ∧
  Claims.NearBankCommandsEnterTheCouchingQueue

/-- R258, R261, R270, R235, R234: the commands of the Footside, Darning and queue engines, and SIGNAL. -/
def Obligations.StateAndQueueCommands : Prop :=
  ∀ (s : State) (st set : Bool) (ra rb rc : BitVec 5) (t : TlbEntry),
    let a := src s ra
    let b := src s rb
    let c := src s rc
    (Valid (.prot st ra rb rc set) s → Room s 6 → b.toNat ≤ 3 → a.toNat % 2 ^ 21 = 0 → Translates s .write a t →
      badRegion s (s.group b.toNat) t c.toNat set = false → (s.group b.toNat).state = .opened →
      Commands (.prot st ra rb rc set) s 6 a b c [] 0) ∧
    (Valid (.rndend st ra rc) s → Room s 6 → a.toNat ≤ 3 → c.toNat % 8 = 0 →
      ((s.group a.toNat).state = .opened ∨ (s.group a.toNat).state = .sealing ∨ (s.group a.toNat).state = .prepared ∨
        ∀ g, g < 4 → (s.group g).state = .idle) →
      Commands (.rndend st ra rc) s 6 a 0 c [] 0) ∧
    (Valid (.darn st ra rb rc) s → Room s 4 → b.toNat ≤ 3 → c.toNat % 8 = 0 → a.toNat < (s.group b.toNat).rcnt →
      (s.group b.toNat).state = .darning → Commands (.darn st ra rb rc) s 4 a b c [] 0) ∧
    (Valid (.enq st ra rb rc) s → Room s 7 → a.toNat < 2 ^ 16 → b.toNat % 64 = 0 → c.toNat % 8 = 0 → SpReadable s b 64 →
      Commands (.enq st ra rb rc) s 7 a b c []
        (BitVec.ofNat 512 (leNat (s.ctx.sp.read b.toNat 64)))) ∧
    (Valid (.signal st ra rb) s → a.toNat % 8 = 0 → Translates s .write a t → (s.ctx.asid, va57 a / 4096) ∈ s.tamb.signals →
      Completes (.signal st ra rb) s
        ((s.remember t).enqueue (access s true .signal [elem s a t] 8 (b.setWidth 2048) none 2 4)))

/-- R257, R258, R261, R270: outside the group's open round PROT raises ROUNDSTATE, DARN outside DARNING does, and RNDEND with a group
in use that takes none. That DARN beyond RCNT shows its region register as TVAL is the model's choice (log 102). -/
def Sys2Proof.Claims.RoundStateTraps : Prop :=
  ∀ (s : State) (st set : Bool) (ra rb rc : BitVec 5) (t : TlbEntry),
    let a := src s ra
    let b := src s rb
    let c := src s rc
    let tval := fun (g : W64) => BitVec.ofNat 64 (g.toNat + (s.group g.toNat).state.code * 256)
    (Valid (.prot st ra rb rc set) s → Room s 6 → b.toNat ≤ 3 → a.toNat % 2 ^ 21 = 0 → Translates s .write a t →
      badRegion s (s.group b.toNat) t c.toNat set = false → (s.group b.toNat).state ≠ .opened →
      Traps (.prot st ra rb rc set) s 0x1A (tval b)) ∧
    (Valid (.rndend st ra rc) s → Room s 6 → a.toNat ≤ 3 → c.toNat % 8 = 0 →
      (s.group a.toNat).state ≠ .opened → (s.group a.toNat).state ≠ .sealing → (s.group a.toNat).state ≠ .prepared →
      (∃ g, g < 4 ∧ (s.group g).state ≠ .idle) → Traps (.rndend st ra rc) s 0x1A (tval a)) ∧
    (Valid (.darn st ra rb rc) s → Room s 4 → b.toNat ≤ 3 → c.toNat % 8 = 0 → a.toNat < (s.group b.toNat).rcnt →
      (s.group b.toNat).state ≠ .darning → Traps (.darn st ra rb rc) s 0x1A (tval b)) ∧
    (Valid (.darn st ra rb rc) s → Room s 4 → b.toNat ≤ 3 → c.toNat % 8 = 0 → (s.group b.toNat).rcnt ≤ a.toNat →
      Traps (.darn st ra rb rc) s 0x19 a)

/-- A command stands last in a shuttle channel's queue, under the next index and behind the context's accesses so far. -/
def Sys2Proof.Claims.ShuttleQueued (s u : State) (ch : Bool) (cmd : ShCmd) : Prop :=
  (u.ctx.eng.channel ch).cmds = (s.ctx.eng.channel ch).cmds ++ [cmd] ∧
    (u.ctx.eng.channel ch).next = (s.ctx.eng.channel ch).next + 1 ∧ cmd.idx = (s.ctx.eng.channel ch).next % 2 ^ 24 ∧
    cmd.issued = s.now ∧ cmd.after = s.ctx.nextAcc ∧ cmd.begun = false ∧ cmd.finished = false

/-- R165, R175, R172, R399, R403, R386: SHGO copies its pricking from the scratchpad and queues the command with the layout and completion
addresses; SHWM reads the watermark; RECFL drops the cached copies of a layout record. -/
def Obligations.ShuttleInstructions : Prop :=
  ∀ (s : State) (st ch : Bool) (ra rb rc : BitVec 5),
    let ap := src s ra
    let ah := src s rb
    let aw := src s rc
    let p : BitVec 640 := BitVec.ofNat 640 (leNat (s.ctx.sp.read ap.toNat 80))
    (Valid (.shgo st ra rb rc ch) s → (s.ctx.eng.channel ch).cmds.length < 8 → wmHolds s.ctx ap.toNat 80 = false →
      ap.toNat % 16 = 0 → ah.toNat % 64 = 0 → aw.toNat % 8 = 0 → (prickBC p = true → aw.toNat % 16 = 0) →
      ap.toNat + 80 ≤ s.ctx.spSize → earlyWord s.ctx ap.toNat 80 = none → s.ctx.spLost ap.toNat 80 = false → badPrick p = none →
      ∃ u cmd, Completes (.shgo st ra rb rc ch) s u ∧ ShuttleQueued s u ch cmd ∧ cmd.fill = none ∧ cmd.pricking = p ∧
        cmd.handle = ah ∧ cmd.aw = aw ∧
        cmd.phys = (if prickKind p = 1 then slotOfName s.ctx.eng (prickIdx p) else none) ∧ u.ctx.flight = s.ctx.flight) ∧
    (Valid (.shwm st ch ra) s →
      ∃ v, CompletesLogged (.shwm st ch ra) s v (fun t w => t.writeAt 2 (.scalar (turn s) ra.toNat w)) ∧
        bits64 v 0 20 = (s.ctx.eng.channel ch).wm % 2 ^ 20 ∧ bits64 v 32 20 = (s.ctx.eng.channel ch).lo % 2 ^ 20) ∧
    (Valid (.recfl st ra) s → ap.toNat % 64 = 0 →
      ∃ u : State, Completes (.recfl st ra) s (u.enqueue (access s false (.recfl ap) [] 0 0 none 2 4)) ∧ u.ctx = s.ctx ∧
        ∀ d, d < 6 → ∀ r, r ∈ (vget u.dies d .reset).records ↔
          r ∈ (vget s.dies d .reset).records ∧ ¬(r.1 = s.ctx.asid.toNat ∧ r.2.1 = ap))

/-- R149, R150, R381, R382: the configuration form sets a table up, empty; a lookup that hits a filled entry lands the entry's address after 4
cycles and goes on; any other lookup branches, and one that takes an entry queues its fill on channel 1. Which of them a lookup comes to is
logged; in a replay the log decides whether it branches (R277, R279). -/
def Obligations.ProbeInstructions : Prop :=
  ∀ (s : State) (st : Bool) (dst ra : BitVec 5) (t : BitVec 4) (off : BitVec 11),
    let a := src s ra
    let p := vget s.ctx.eng.probes t.toNat .reset
    (let word := fun (k : Nat) => BitVec.ofNat 64 (leNat (s.ctx.sp.read (a.toNat + 8 * k) 8))
     let w := word 1
     Valid (.probeCfg st ra t) s → a.toNat % 32 = 0 → SpReadable s a 32 →
      badTable w (word 0) (word 2) (word 3) = false →
      (w.getLsbD 0 = true → bits64 w 20 20 + 2 ^ (bits64 w 12 4 + bits64 w 8 4) * 2 ^ bits64 w 6 2 ≤ s.ctx.spSize) →
      let table : ProbeTable :=
        { en := w.getLsbD 0, cwaddr := word 0, spbase := bits64 w 20 20, blklg := bits64 w 12 4, setlg := bits64 w 8 4,
          ways := 2 ^ bits64 w 6 2, tags := [], ptrs := [], gen := p.gen + 1 }
      Completes (.probeCfg st ra t) s (s.modEng (fun e => { e with probes := vset e.probes t.toNat table }))) ∧
    (let set := a.toNat / 2 ^ p.blklg % 2 ^ p.setlg
     let tag := a.toNat / 2 ^ p.blklg / 2 ^ p.setlg
     let entry := fun (w : Nat) => tabGet (w * 2 ^ p.setlg + set) p.tags
     Valid (.probe st dst ra t off) s → s.ctx.eng.sh1.cmds.length < 8 → p.en = true → s.ctx.replays = false →
      (∀ w g, w < p.ways → entry w = some ⟨tag, false, g⟩ → (∀ v, v < w → (entry v).map (·.tag) ≠ some tag) →
        Completes (.probe st dst ra t off) s ((logged s 0).writeAt 4 (.scalar (turn s) dst.toNat
          (BitVec.ofNat 64 (p.spbase + (w * 2 ^ p.setlg + set) * 2 ^ p.blklg + a.toNat % 2 ^ p.blklg))))) ∧
      (∀ w g, w < p.ways → entry w = some ⟨tag, true, g⟩ → (∀ v, v < w → (entry v).map (·.tag) ≠ some tag) →
        targetFault s (halfwordTarget s off) = none →
        Jumps (.probe st dst ra t off) s (((logged s 1).writeAt 4 (.scalar (turn s) dst.toNat
          (BitVec.ofNat 64 (p.spbase + (w * 2 ^ p.setlg + set) * 2 ^ p.blklg + a.toNat % 2 ^ p.blklg)))).branchTo (turn s)
            (halfwordTarget s off))) ∧
      (∀ w, w < p.ways → (∀ v, v < p.ways → (entry v).map (·.tag) ≠ some tag) → entry w = none → (∀ v, v < w → entry v ≠ none) →
        targetFault s (halfwordTarget s off) = none →
        ∃ u cmd, Jumps (.probe st dst ra t off) s (u.branchTo (turn s) (halfwordTarget s off)) ∧ ShuttleQueued s u true cmd ∧
          cmd.fill = some ⟨t.toNat, w * 2 ^ p.setlg + set, p.gen, p.spbase + (w * 2 ^ p.setlg + set) * 2 ^ p.blklg, 2 ^ p.blklg⟩ ∧
          tabGet (w * 2 ^ p.setlg + set) (vget u.ctx.eng.probes t.toNat .reset).tags = some ⟨tag, true, p.gen⟩))

/-! ## The array -/

/-- The lease that the focused context holds on its quad's array (R117). -/
def Sys2Proof.Claims.Leased (s : State) (l : Lease) : Prop := (s.quad s.ctx.quadId).lease = some l ∧ l.cid = s.ctx.cid

/-- R311, R129: the tile command `op` has been accepted behind `after` accesses: it stands last in the array's queue with the lease's next
number. -/
def Sys2Proof.Claims.Accepted (s u : State) (l : Lease) (n : BitVec 4) (after : Nat) (op : TileOp) : Prop :=
  (u.quad s.ctx.quadId).queue = (s.quad s.ctx.quadId).queue ++
    [{ cid := s.ctx.cid, num := l.next, tile := n.toNat, cw := l.cw, issued := s.now, after := after, retry := false, op := op }]

/-- R118: the run of the lease `l` goes on behind an accepted command, a counted one bringing it nearer its end. -/
def Sys2Proof.Claims.RunGoesOn (s u : State) (l : Lease) (counted : Bool) : Prop :=
  (u.quad s.ctx.quadId).lease = some { l with left := if counted then l.left - 1 else l.left, next := l.next + 1 }

/-- The tag of a tile of the focused context's quad (R133). -/
def Sys2Proof.Claims.tagOf (s u : State) (n : BitVec 4) : Option Nat := (vget (u.quad s.ctx.quadId).tiles n.toNat .reset).tag

/-- R117, R353, R354: LEASE joins the requesters of the array, with its place, its flag and its completion word; a context that holds the lease or
has a request pending may not ask again. LFREE gives up the lease or the request, for the end of the cycle; with neither it does
nothing. -/
def Sys2Proof.Claims.LeaseAndLfree : Prop :=
  ∀ (s : State) (st : Bool) (ma : BitVec 5) (f : BitVec 3),
    let w := src s ma
    let q := s.quad s.ctx.quadId
    let r : LeaseReq := { cid := s.ctx.cid, pos := s.ctx.core * 2 + s.ctx.slot, flag := f.toNat, cw := w }
    let asks := (∃ l, Leased s l) ∨ ∃ x ∈ q.reqs, x.cid = s.ctx.cid
    (Valid (.lease st ma f) s → w.toNat % 8 = 0 → ¬asks →
      Completes (.lease st ma f) s (s.setQuad s.ctx.quadId { q with reqs := q.reqs ++ [r] })) ∧
    (Valid (.lease st ma f) s → asks → Traps (.lease st ma f) s 0x01 (wordTval (.lease st ma f))) ∧
    (Valid (.lease st ma f) s → ¬asks → w.toNat % 8 ≠ 0 → Traps (.lease st ma f) s 0x05 w) ∧
    (Valid (.lfree st) s → asks →
      Completes (.lfree st) s (s.setQuad s.ctx.quadId { q with freed := s.ctx.cid :: q.freed })) ∧
    (Valid (.lfree st) s → ¬asks → Completes (.lfree st) s s)

/-- R117, R118, R353, R354: at the end of a cycle a lease with a run left that its holder keeps goes on; a free array, and one whose lease has ended,
is granted to the first requester in cyclic order after the last holder, a full run, and the requester's flag is set in the next cycle;
a request that is given up is gone. -/
def Sys2Proof.Claims.LeasesAreSettledAtTheEndOfACycle : Prop :=
  ∀ (s : State) (n : Nat) (r : LeaseReq) (l : Lease),
    let q := s.quad n
    let u := s.settleQuad n
    (q.lease = some l → 0 < l.left → l.cid ∉ q.freed →
      u.quad n = { q with reqs := q.reqs.filter (fun x => !q.freed.contains x.cid), freed := [] } ∧ u.ctx = s.ctx) ∧
    (nextRequest q = some r → 0 < q.leaseMax → r.cid ∉ q.freed → s.ctx.isId r.cid = true →
      (q.lease = none ∨ (q.lease = some l ∧ (l.left = 0 ∨ l.cid ∈ q.freed))) →
      (u.quad n).lease = some { cid := r.cid, left := q.leaseMax, next := 0, cw := r.cw } ∧ (u.quad n).last = r.pos ∧
        (∀ x ∈ (u.quad n).reqs, x.cid ≠ r.cid) ∧ u.ctx.flight = s.ctx.flight ++ [⟨s.now + 1, .flagGrant r.flag⟩]) ∧
    (q.reqs = [] → q.lease = some l → (l.left = 0 ∨ l.cid ∈ q.freed) → (u.quad n).lease = none)

/-- R122, R123, R126, R394, R398, R343: SCLAIM maps its name to the lowest free slot, zero but for scale bytes of 0x7F; SFREE unmaps the name, and
the slot drains or is free; FWQ puts a format word at the end of its queue. -/
def Sys2Proof.Claims.OperandSlotsAndFormats : Prop :=
  ∀ (s : State) (st : Bool) (n : BitVec 6) (ma : BitVec 5) (p : Nat),
    let q := s.quad s.ctx.quadId
    (Valid (.sclaim st n) s → n.toNat < 48 → slotOfName s.ctx.eng n.toNat = none → p < 48 →
      (vget q.slots p .reset).free = true → (∀ o, o < p → (vget q.slots o .reset).free = false) →
      ∃ u, Completes (.sclaim st n) s u ∧ slotOfName u.ctx.eng n.toNat = some p ∧
        (let o := vget (u.quad s.ctx.quadId).slots p .reset
         o.holder = some s.ctx.cid ∧ o.draining = false ∧ o.fills = [] ∧
         ∀ a, o.bytes.get a = if 6144 ≤ a ∧ a < 6208 then 0x7F else 0) ∧
        ∀ o, o ≠ p → vget (u.quad s.ctx.quadId).slots o .reset = vget q.slots o .reset) ∧
    (Valid (.sclaim st n) s → (48 ≤ n.toNat ∨ slotOfName s.ctx.eng n.toNat ≠ none ∨
      ∀ o, o < 48 → (vget q.slots o .reset).free = false) → Traps (.sclaim st n) s 0x12 (n.setWidth 64)) ∧
    (Valid (.sfree st n) s → slotOfName s.ctx.eng n.toNat = some p → ∃ u, Completes (.sfree st n) s u ∧
      u.ctx.eng.names = tabDel n.toNat s.ctx.eng.names ∧
      ((vget (u.quad s.ctx.quadId).slots p .reset).draining = true ∨ vget (u.quad s.ctx.quadId).slots p .reset = .reset)) ∧
    (Valid (.fwq st ma) s → s.ctx.eng.formats.length < 16 → badFormat (src s ma) = false →
      Completes (.fwq st ma) s (s.modEng (fun e => { e with formats := e.formats ++ [(src s ma, none)] })))

/-- The lease of an array, operand slots and format words. -/
def Obligations.LeasesOperandSlotsAndFormats : Prop :=
  Claims.LeaseAndLfree ∧
  Claims.LeasesAreSettledAtTheEndOfACycle ∧
  Claims.OperandSlotsAndFormats

/-- R129 to R138, R311 to R315, R318, R320, R358, R363: under its lease a context's tile commands are accepted, on tiles that are free or its own:
MMA with the slots that its names map to and the oldest unbound format word, which it binds by its place in issue order, ACCZ, ADRAIN, LSFLAG, ACCSPILL and ACCFILL; MMA, ACCZ and ACCSPILL tag
their tile; ACLAIM and AFREE tag and untag one without a lease, and behind an AFREE the tile's contents are undefined. -/
def Sys2Proof.Claims.TileCommandsAreAccepted : Prop :=
  ∀ (s : State) (st z clr sum : Bool) (n : BitVec 4) (xa xb : BitVec 6) (ma mb mc : BitVec 5) (scope ty : BitVec 3) (l : Lease) (a b : Nat),
    let free := ownedTval s n.toNat = none
    let signed := s.ctx.nextAcc + 1
    let own := tagOf s s n = none ∨ tagOf s s n = some s.ctx.cid
    let w := src s mc
    let (word, formats) := bindFormat signed s.ctx.eng.formats
    (Leased s l → s.ctx.eng.arrayRun = .run → s.ctx.eng.held = [] →
      (Valid (.mma st n xa xb z) s → slotOfName s.ctx.eng xa.toNat = some a → slotOfName s.ctx.eng xb.toNat = some b → free →
        ∃ u, Completes (.mma st n xa xb z) s u ∧ Accepted s u l n signed (.mma a b z word) ∧ RunGoesOn s u l true ∧
          tagOf s u n = some s.ctx.cid ∧ u.ctx.eng.formats = formats) ∧
      (Valid (.accz st n) s → free → ∃ u, Completes (.accz st n) s u ∧ Accepted s u l n signed .accz ∧ RunGoesOn s u l true ∧
        tagOf s u n = some s.ctx.cid) ∧
      (Valid (.adrain st n ma mb mc scope ty) s → free → w.toNat < 2 ^ 32 → bits64 w 8 3 = 0 → bits64 w 12 3 ≤ 4 →
        (src s ma).toNat % 4 = 0 → bits64 w 16 16 % 4 = 0 → (w.getLsbD 15 = true → (src s mb).toNat % 4 = 0) →
        (src s ma).toNat + (63 * bits64 w 16 16 + drainRow ty) ≤ s.ctx.spSize →
        ∃ u, Completes (.adrain st n ma mb mc scope ty) s u ∧
          Accepted s u l n signed (.drain (src s ma) (src s mb) w ty scope (curLfsr s) none) ∧ RunGoesOn s u l true ∧
          u.ctx.flight = s.ctx.flight ++
            (if bits64 w 12 3 = 4 then [⟨s.now + 1, .lfsrStep (Nat.iterate lfsrNext 4096 (curLfsr s))⟩] else [])) ∧
      (Valid (.lsflag st ma clr sum n) s → free → (src s ma).toNat % 8 = 0 →
        (src s ma).toNat + (if sum then 8 else 512) ≤ s.ctx.spSize →
        ∃ u, Completes (.lsflag st ma clr sum n) s u ∧ Accepted s u l n signed (.lsflag (src s ma) sum clr) ∧ RunGoesOn s u l true) ∧
      (Valid (.accspill st n) s → own → ∃ u, Completes (.accspill st n) s u ∧ Accepted s u l n signed (.spill none) ∧
        RunGoesOn s u l false ∧ tagOf s u n = some s.ctx.cid) ∧
      (Valid (.accfill st n) s → own → ∃ u, Completes (.accfill st n) s u ∧
        Accepted s u l n signed (.fill (s.ctx.eng.asaved.getLsbD n.toNat)) ∧ RunGoesOn s u l false ∧
        u.ctx.eng.asaved.getLsbD n.toNat = false)) ∧
    (Valid (.aclaim st n) s → free → ∃ u, Completes (.aclaim st n) s u ∧ tagOf s u n = some s.ctx.cid ∧ u.ctx = s.ctx) ∧
    (Valid (.afree st n) s → ∃ u, Completes (.afree st n) s u ∧ u.ctx.eng.asaved.getLsbD n.toNat = false ∧
      (tagOf s s n = some s.ctx.cid → tagOf s u n = none ∧
        (s.ctx.eng.arrayRun = .run → s.ctx.eng.held = [] → (u.quad s.ctx.quadId).queue = (s.quad s.ctx.quadId).queue ++
          [{ cid := s.ctx.cid, num := 0, tile := n.toNat, cw := 0, issued := s.now, after := 0, retry := false, op := .forget }])) ∧
      (tagOf s s n ≠ some s.ctx.cid → tagOf s u n = tagOf s s n))

/-- R129, R134, R122: a tile command without a lease raises NOLEASE with its word, an MMA of an unmapped name SLOTSTATE with the name, and a
command or claim of a tile that another context owns ACCOWNED. -/
def Sys2Proof.Claims.TileCommandTraps : Prop :=
  ∀ (s : State) (st z : Bool) (n : BitVec 4) (xa xb : BitVec 6) (l : Lease),
    (Valid (.mma st n xa xb z) s → (∀ k, ¬Leased s k) → Traps (.mma st n xa xb z) s 0x13 (wordTval (.mma st n xa xb z))) ∧
    (Valid (.accz st n) s → (∀ k, ¬Leased s k) → Traps (.accz st n) s 0x13 (wordTval (.accz st n))) ∧
    (Valid (.mma st n xa xb z) s → Leased s l → slotOfName s.ctx.eng xa.toNat = none →
      Traps (.mma st n xa xb z) s 0x12 (xa.setWidth 64)) ∧
    (∀ o, tagOf s s n = some o → o ≠ s.ctx.cid → s.ctx.eng.asaved.getLsbD n.toNat = false →
      (Valid (.accz st n) s → Leased s l → Traps (.accz st n) s 0x11 (BitVec.ofNat 64 (n.toNat + 256))) ∧
      (Valid (.aclaim st n) s → Traps (.aclaim st n) s 0x11 (BitVec.ofNat 64 (n.toNat + 256))))

/-- Where loads, stores, round-state commands and tile commands trap. -/
def Obligations.MemoryAndCommandTraps : Prop :=
  Claims.ScratchpadLoadTraps ∧
  Claims.GlobalAccessTraps ∧
  Claims.RoundStateTraps ∧
  Claims.TileCommandTraps

/-- R152, R355: LHINT gives every mapped local page of its range the priority and the next-use round of its word; a range that leaves the 57-bit
space raises ALIGN, a reserved bit ILLEGAL. That a range of some bytes from a non-canonical address raises ALIGN too is the model's choice
(log 99). -/
def Sys2Proof.Claims.LhintSetsPriorityAndNextUse : Prop :=
  ∀ (s : State) (st : Bool) (ra rb rc : BitVec 5),
    let a := va57 (src s ra)
    let n := (src s rb).toNat
    let w := src s rc
    Valid (.lhint st ra rb rc) s →
    (bits64 w 40 24 = 0 → bits64 w 11 5 = 0 → bits64 w 0 8 = 0 → a + n ≤ 2 ^ 57 → n = 0 ∨ canonical (src s ra) = true →
      Completes (.lhint st ra rb rc) s
        (((leavesOf s s.ctx.asid.toNat).filter (fun p =>
          decide (0 < n) && decide (p.base < a + n) && decide (a < p.base + p.size) && !pteRMT p.pte)).foldl
            (fun t p => hintPage t s.ctx.asid p w) s)) ∧
    (∀ l, pageInfo (hintPage s s.ctx.asid l w) s.ctx.asid l =
      { pageInfo s s.ctx.asid l with
        prio := bits64 w 8 3,
        next := if bits64 w 16 16 = 0xFFFF then none else some (presentRound s + BitVec.ofNat 32 (bits64 w 16 16)) }) ∧
    (bits64 w 40 24 ≠ 0 → Traps (.lhint st ra rb rc) s 0x01 w) ∧
    (bits64 w 40 24 = 0 → bits64 w 11 5 = 0 → bits64 w 0 8 = 0 → 2 ^ 57 < a + n ∨ (0 < n ∧ canonical (src s ra) = false) →
      Traps (.lhint st ra rb rc) s 0x05 (src s ra))

/-- Tile commands are accepted; LHINT sets priority and next use. -/
def Obligations.TileCommandsAndLifetimeHints : Prop :=
  Claims.TileCommandsAreAccepted ∧
  Claims.LhintSetsPriorityAndNextUse

/-! ## Events: contexts, waits and switches -/

/-- The event `i` happens, and the state that it leaves has `P`. -/
def Sys2Proof.Claims.Occurs (i : Instr) (s : State) (P : State → Prop) : Prop :=
  ∃ t, exec i s = .next t ∧ t.verdict = .issued ∧ P t

/-- The context `cid` is the focused one. -/
def Sys2Proof.Claims.Focused (s : State) (cid : Nat) : Prop := s.ctx.isId cid = true

/-- R37, R38, R211, R235: a ready context of which a cluster has stalled 64 cycles on an engine, or whose NBENTER or ENQ waits in its engine, leaves the ready set; a core without a running context
selects a ready one, and one whose running context left the ready set, or ran for 1,024 cycles, selects another that is ready; a running
context that cannot issue stops running. -/
def Sys2Proof.Claims.ContextsLeaveAndEnterTheReadySet : Prop :=
  ∀ (s : State) (cid core : Nat) (r y : Ctx),
    (Focused s cid → s.ctx.life = .ready → s.ctx.eng.faults = [] →
      ((∃ c, let k := s.ctx.cl.get c
        k.active = true ∧ k.waitFrom + 64 ≤ s.now ∧ (k.wait = .watermark ∨ k.wait = .bobbinEngine ∨ k.wait = .queueFull)) ∨
        engineHeld s = true) →
      Occurs (.engineWait cid) s (fun t => t.ctx = { s.ctx with life := .engineWait } ∧ t.others = s.others)) ∧
    ((∀ x ∈ coreCtxs s core, x.running = false) → (coreCtxs s core).find? (fun x => x.life == .ready) = some y →
      Occurs (.contextSwitch core) s (fun t => ∀ x ∈ coreCtxs t core, x.running = true ↔ x.cid = y.cid)) ∧
    ((coreCtxs s core).find? (·.running) = some r → r.runnable = true →
      (coreCtxs s core).find? (fun x => x.life == .ready && !x.running && (r.life != .ready || decide (r.runSince + 1024 ≤ s.now))) =
        some y →
      Occurs (.contextSwitch core) s (fun t => ∀ x ∈ coreCtxs t core, x.running = true ↔ x.cid = y.cid)) ∧
    ((coreCtxs s core).find? (·.running) = some s.ctx → s.ctx.life ≠ .none → s.ctx.runnable = false →
      Occurs (.contextSwitch core) s (fun t => t.ctx = { s.ctx with running := false } ∧ t.others = s.others))

/-- R37, R42, R347: every cluster that waits at the hoop waits no more, the others stand as they were, and the context is ready unless one of them
waits at another hoop or stalls on an engine. -/
def Sys2Proof.Claims.Woken (s t : State) (h : Nat) : Prop :=
  (∀ c, t.ctx.cl.get c = if waitsAtHoop s c h = true then { s.ctx.cl.get c with wait := .none } else s.ctx.cl.get c) ∧
  (s.ctx.life = .hoopWait ∨ s.ctx.life = .engineWait →
    (∀ c, (s.ctx.cl.get c).hoopWaits = true → waitsAtHoop s c h = true) → (∀ c, (s.ctx.cl.get c).engineWaits s.now = false) →
    t.ctx.life = .ready)

/-- R40, R42, R43, R46, R347: the completion of its recorded generation brings a task that waits at the hoop back into the ready set, for a hoop
of the pod by its notification, which a task that may not run only records; an arrival or a leave of another package's task counts at its entry. -/
def Sys2Proof.Claims.HoopNotificationsAndPodArrivals : Prop :=
  ∀ (s : State) (cid h entry : Nat) (i : HoopInst) (leave armed : Bool),
    let r := vget s.ctx.hoops h .reset
    (Focused s cid → hoopOf s s.ctx.gang h r = some i → hoopFrozen s r = false → r.member = true → r.armed = true → r.scope ≠ 4 →
      hoopReached s.now r i = true → (∃ c, waitsAtHoop s c h = true) → s.ctx.runnable = true →
      Occurs (.hoopNotification cid h) s (fun t => Woken s t h ∧ t.ctx.hoops = s.ctx.hoops)) ∧
    (Focused s cid → hoopOf s s.ctx.gang h r = some i → hoopFrozen s r = false → r.member = true → r.armed = true → r.scope = 4 →
      r.notified = false → i.gen ≠ r.gen → h < 8 →
      Occurs (.hoopNotification cid h) s (fun t => vget t.ctx.hoops h .reset = { r with notified := true } ∧
        (s.ctx.runnable = true → Woken s t h) ∧ (s.ctx.runnable = false → t.ctx = { s.ctx with hoops := t.ctx.hoops }))) ∧
    (tabGet entry s.hub.podHoops = some i → i.expect ≠ 0 →
      Occurs (.podHoopArrival entry leave armed) s (fun t => tabGet entry t.hub.podHoops = some
        (if leave then ({ i with expect := i.expect - 1, arrived := i.arrived - armed.toNat } : HoopInst).settle s.now
         else ({ i with arrived := i.arrived + 1 } : HoopInst).settle s.now)))

/-- Contexts leave and enter the ready set, and hoops wake them. -/
def Obligations.ContextsWaitAndSwitch : Prop :=
  Claims.ContextsLeaveAndEnterTheReadySet ∧
  Claims.HoopNotificationsAndPodArrivals

/-- R73, R75: the first due write in landing order lands and leaves those in flight. -/
def Sys2Proof.Claims.DueWritesLand : Prop :=
  ∀ (s : State) (cid : Nat) (w : Write) (rest : List Write), Focused s cid → pickDue s.now s.ctx.flight = some (w, rest) →
    Occurs (.writeLands cid) s (fun t => t.ctx = ({ s.ctx with flight := rest } : Ctx).land w.eff ∧ t.others = s.others ∧
      w.lands ≤ s.now ∧ w ∈ s.ctx.flight ∧ rest = s.ctx.flight.erase w ∧
      ∀ v ∈ s.ctx.flight, v.lands ≤ s.now → v.before w = false)

/-- R182, R186, R251, R301: an access that the ordering rules let through is performed and leaves its queue; one to another package that has had no
answer for 2 ms completes as an abort, a load with every byte of its slot 0xFF. -/
def Sys2Proof.Claims.QueuedAccessesAreMade : Prop :=
  ∀ (s : State) (cid idx : Nat) (y : Access), Focused s cid → s.ctx.gq[idx]? = some y → performable s idx = true →
    Occurs (.globalAccessPerformed cid idx) s (fun t => t = { s.performAt idx with verdict := .issued } ∧ ∀ a ∈ t.ctx.gq, a.num ≠ y.num) ∧
    (orderedNow s idx = true → (∃ e ∈ y.elems, pteRMT e.pte = true ∧ unanswered s e.pa = true) → s.ctx.replays = false →
      Occurs (.remoteTimeout cid idx) s (fun t => (∀ a ∈ t.ctx.gq, a.num ≠ y.num) ∧
        ∀ b id sz, y.kind = .load b id sz →
          t.ctx = (((s.ctx.dropAccess y.num).logElems (cnum y.issuer) y.num y.size (y.elems.take 1)
            (List.replicate y.size 0xFF)).consumeAbort).arrive b id (BitVec.allOnes 2048)))

/-- R243: the first pending engine fault of a running context in task mode is taken as a trap of its cluster. -/
def Sys2Proof.Claims.EngineFaultsAreDelivered : Prop :=
  ∀ (s : State) (cid : Nat) (f : EngFault) (rest : List EngFault), Focused s cid → s.ctx.eng.faults = f :: rest →
    s.ctx.sr.handler = false → ((s.ctx.running = true ∧ s.ctx.runnable = true) ∨ s.ctx.life = .retiring) →
    Happens (.engineFaultDelivery cid) s
      (enterTrap ((s.modEng (fun e => { e.markDelivered f.eng with faults := rest })).modCtx (fun x => { x with life := .ready }))
        f.clu f.cause.toNat f.tval f.ecmd)

/-- Due writes land, queued accesses are performed, and engine faults are delivered. -/
def Obligations.WritesLandAndAccessesArePerformed : Prop :=
  Claims.DueWritesLand ∧
  Claims.QueuedAccessesAreMade ∧
  Claims.EngineFaultsAreDelivered

/-- R48, R49, R245 to R248: a quiet task retires, once it has left a pseudo-channel that it holds; the supervisor terminates a gang; a pre-emption
request reaches every task of a placed gang, and 20 µs later those that still execute stop where they stand; a context on its way to
a stop pairs its pending knots, then leaves its pseudo-channel, then has its accesses done and stops into its area; a stopped one
resumes from it. -/
def Sys2Proof.Claims.TasksAndGangsEndAndStop : Prop :=
  ∀ (s : State) (cid gang : Nat) (g : Gang) (r : StopRecord) (u : Nat),
    (Focused s cid → s.ctx.life = .retiring → (∀ h ∈ s.holds, h.cid ≠ cid) → taskQuiet s s.ctx = true → statusWaits s s.ctx = false →
      Happens (.taskRetirement cid) s (finishTask s)) ∧
    (Focused s cid → s.ctx.life = .retiring → (∃ h ∈ s.holds, h.cid = cid) → s.ctx.eng.couch.cmds = [] →
      Happens (.taskRetirement cid) s (dropHold s)) ∧
    (s.gangOf gang = some g → g.done = false → (g.placed = true ∨ g.saved = true) →
      Happens (.gangTermination gang) s
        ((((allCtxs s).filter (fun x => x.gang == gang && x.life != .none)).map (·.cid)).foldl (fun t c =>
          t.onCtx c terminate)
          (s.setGang { g with terminated := true, preempt := none, frozen := false }))) ∧
    (s.gangOf gang = some g → g.placed = true → g.done = false → g.preempt = none →
      Happens (.preemptionRequest gang) s (requestPreemption s g)) ∧
    (s.gangOf gang = some g → g.preempt = some u → u + 20 * microsecondUnits ≤ s.time → (∃ x ∈ allCtxs s, x.gang = gang ∧ x.runnable = true) →
      Happens (.forcedStop gang) s
        ((((allCtxs s).filter (fun x => x.gang == gang && x.runnable)).map (·.cid)).foldl
          (fun t c => t.onCtx c (fun v => beginStop v (fun k => !k.parked))) s)) ∧
    (Focused s cid → s.ctx.life = .stopping → knotsPending s.ctx = true → Happens (.contextStop cid) s (s.modCtx closeKnots)) ∧
    (Focused s cid → s.ctx.life = .stopping → knotsPending s.ctx = false → stopReady s = true →
      ((∃ h ∈ s.holds, h.cid = cid) → Happens (.contextStop cid) s (s.release cid)) ∧
      (let done := drainForStop s s.ctx.gq.length
       (∀ h ∈ s.holds, h.cid ≠ cid) → done.ctx.stop = some r → done.ctx.gq = [] → Happens (.contextStop cid) s (finishStop done r))) ∧
    (Focused s cid → s.ctx.life = .stopped → resumeWaits s s.ctx = false → s.ctx.stop = some r →
      stopRecordOk s.ctx (areaStop s s.ctx r) = true → Happens (.contextResumption cid) s (resumeHere s (sameSlots s)))

/-- R45, R246: a pre-emption request marks every task of the gang that holds a slot, and freezes the gang's hoops. -/
def Sys2Proof.Claims.PreemptionRequestReachesEveryTask : Prop :=
  ∀ (s : State) (g : Gang), ∀ x ∈ allCtxs (requestPreemption s g), x.gang = g.id → x.resident = true → x.preempt = some s.time

/-- Tasks retire, gangs end, and contexts stop and resume. -/
def Obligations.TasksAndGangsEndStopAndResume : Prop :=
  Claims.TasksAndGangsEndAndStop ∧
  Claims.PreemptionRequestReachesEveryTask

/-- A step of a context's engines and queues acts on a context that is not in focus as it would with that context in focus. -/
def Obligations.EventsActOnTheirContext : Prop :=
  ∀ (s t : State) (cid n : Nat) (i : Instr),
    (i ∈ [Instr.engineWait cid, .writeLands cid, .engineFaultDelivery cid, .cutworkExecution cid, .queueEngineExecution cid] ∨
      (∃ k, i = .globalAccessPerformed cid k) ∨ (∃ k, i = .remoteTimeout cid k) ∨ (∃ h, i = .hoopNotification cid h)) →
    s.ctx.isId cid = false → s.others.findIdx? (·.isId cid) = some n → exec i (s.swapAt n) = .next t → exec i s = .next (t.swapAt n)

/-! ## The machine -/

/-- R51, R52, R64, R86, R94, R159, R161, R240, R246: when the bytes at the program counter of the cluster whose turn it is decode to an
instruction, a step is that instruction on the state that the fetch leaves, then what the end of a context's cycle adds: the trap that is
due, or the graceful stops. A word in an invalid stage only passes; a word that is no instruction raises ILLEGAL; a fetch that fails raises
its fault, with the program counter as TVAL even when its second half failed (log 73), and in an invalid stage too (log 77); while its walk is
held up, the cluster waits. -/
def Obligations.AStepRunsTheDecodedInstruction : Prop :=
  ∀ (s : State) (i : Instr) (n w : Nat) (long : Bool) (e : DecodeError) (bs rest : List Byte),
    let k := s.ctx.cl.get (turn s)
    let at' : W64 := k.pc &&& ~~~(1 : W64)
    let fetched := noteFetch s at'
    s.plan ≠ [] →
    (WalkFree s at' → k.invalidStage = false → codeRead s at' n = .ok bs → decode (turn s) bs = .ok (i, rest) →
      step s = match exec i fetched with
        | .next t => .next (afterTurn t)
        | r => r) ∧
    (WalkFree s at' → k.invalidStage = true → codeWord s at' = .ok (long, w) →
      step s = .next (afterTurn (finish (fetched.flowTo (turn s) (k.pc + if long then 4 else 2)) (turn s)))) ∧
    (WalkFree s at' → k.invalidStage = false → codeWord s at' = .ok (long, w) → decodeWord (turn s) long w = .error e →
      step s = .next (afterTurn (takeTrap fetched (turn s) 0x01 (if isHeader long w then k.pc else BitVec.ofNat 64 w) 0))) ∧
    (∀ code, WalkFree s at' → codeWord s at' = .error code → step s = .next (afterTurn (takeTrap s (turn s) code k.pc 0))) ∧
    (¬WalkFree s at' → step s = .next (afterTurn (hold s (turn s) false .none)))

/-- R22, R23: PLINT holds the placement interval in microseconds; the interval that runs keeps the value that the last boundary took, and a
boundary takes the one written since. -/
def Obligations.PlintHoldsThePlacementInterval : Prop :=
  readReg State.reset .plint = 10000 ∧
  ∀ (s t : State) (hart : Nat) (v : W64),
    (hart = s.hub.holder → hart < 6 → s.hub.remain ≠ 0 → exec (.registerWrite hart .plint v) s = .next t →
      readReg t .plint = v &&& 0xFFFFFFFF ∧ (s.hub.plintNow ≠ 0 → s.hub.trigNow ≠ 0 → t.hub.plintNow = s.hub.plintNow)) ∧
    (s.hub.plintNow = 0 → exec (.placementBoundary true) s = .next { s with verdict := .waited }) ∧
    (s.us < s.boundary.1 + s.hub.plintNow.toNat → exec (.placementBoundary true) s = .next { s with verdict := .waited }) ∧
    (s.hub.plintNow ≠ 0 → s.hub.trigNow ≠ 0 → s.boundary.1 + s.hub.plintNow.toNat ≤ s.us →
      Occurs (.placementBoundary true) s (fun u => u.boundary = (s.us, s.boundary.2) ∧ u.hub.plintNow = s.hub.plint ∧
        u.hub.trigNow = bits64 s.hub.plctl 2 2))

/-- What reset leaves: the registers of the hub die, the dies, the arrays and the group slots read their reset values, no measurement is
extended, nothing is mapped, held or queued, and memory has its canonical form. That an unlisted byte reads 0 is log 1's choice. -/
def Obligations.ResetLeavesTheResetValues : Prop :=
  let r := readReg State.reset
  r .plctl = 0x0000080000401009 ∧ r .tiercfg = 0x0000020800040003 ∧ r .qtbase = 0 ∧ r .ctxtbase = 0 ∧ r .asidtbase = 0 ∧
  r .smpcfg = 0x1000 ∧ r .jrnbase = 0 ∧ r .lifeest = 0xFFFFFFFFFFFF0000 ∧ r .leadls = 0x0000000000E00000 ∧ r .rststs = 0 ∧
  r .moddom = 0xFFFFFFFF ∧ (∀ q, r (.arrcfg q) = 16) ∧ (∀ d, d < 6 → r (.actcfg d) = 0x10000002 ∧ r (.errring d) = 0) ∧
  (∀ g, g < 4 → r (.grpcfg g) = 0x0003E80000000000 ∧ r (.grparea g) = 0) ∧ (∀ i, r (.meas i) = 0) ∧
  State.reset.ctx.life = .none ∧ State.reset.others = [] ∧ State.reset.tamb.slots = [] ∧ State.reset.tlb = [] ∧
  State.reset.power.gate = false ∧ State.reset.canonical ∧ (∀ a, State.reset.physByte a = 0)

/-- Every step keeps the canonical form of HBM and of the capacity tier: equal memories stay equal data. -/
def Obligations.EveryStepKeepsMemoryCanonical : Prop :=
  ∀ s t : State, s.canonical → step s = .next t → t.canonical

/-- R94, R95: an instruction with a field that is reserved or out of range raises ILLEGAL with its word; any other comes to a next state in every
state: it issues, waits before issue, or traps. -/
def Obligations.EveryEncodedInstructionAnswers : Prop :=
  ∀ (s : State) (i : Instr), wordBytes i ≠ 0 →
    (∀ e, check (turn s) i = some e → Traps i s 0x01 (wordTval i)) ∧
    (∃ t, exec i s = .next t ∧ (t.verdict = .issued ∨ t.verdict = .waited ∨ t.verdict = .trapped))

/-- R54: an instruction that waits before issue has no effect: storage, writes in flight, program counters, blocks and the rest of the
module stay as they were. -/
def Obligations.AWaitingInstructionHasNoEffect : Prop :=
  ∀ (s t : State) (i : Instr), wordBytes i ≠ 0 → exec i s = .next t → t.verdict = .waited →
    Ctx.sameStorage s.ctx t.ctx ∧ t.ctx.flight = s.ctx.flight ∧ State.sameModule s t ∧
    ∀ c, (t.ctx.cl.get c).pc = (s.ctx.cl.get c).pc ∧ (t.ctx.cl.get c).blocks = (s.ctx.cl.get c).blocks ∧
      (t.ctx.cl.get c).active = (s.ctx.cl.get c).active

/-- Where an instruction that only computes may leave something: a scalar register of its cluster, a vector destination, or a
predicate. -/
inductive Sys2Proof.Claims.Dest
  | scalar (r : BitVec 5)
  | vector (d : BitVec 7)
  | pred (p : BitVec 4)

/-- The destination of each instruction that only computes: those that read registers and leave one result. -/
def Sys2Proof.Claims.destOf : Instr → Option Claims.Dest
  | .add _ rd _ _ => some (.scalar rd)
  | .add16 _ rd _ => some (.scalar rd)
  | .addi _ rd _ _ => some (.scalar rd)
  | .addi16 _ rd _ => some (.scalar rd)
  | .sub _ rd _ _ => some (.scalar rd)
  | .sub16 _ rd _ => some (.scalar rd)
  | .mul _ rd _ _ => some (.scalar rd)
  | .mulh _ rd _ _ _ => some (.scalar rd)
  | .div _ rd _ _ _ => some (.scalar rd)
  | .rem _ rd _ _ _ => some (.scalar rd)
  | .and _ rd _ _ => some (.scalar rd)
  | .or _ rd _ _ => some (.scalar rd)
  | .xor _ rd _ _ => some (.scalar rd)
  | .andn _ rd _ _ => some (.scalar rd)
  | .shl _ rd _ _ => some (.scalar rd)
  | .shr _ rd _ _ => some (.scalar rd)
  | .sra _ rd _ _ => some (.scalar rd)
  | .cmp _ rd _ _ _ => some (.scalar rd)
  | .min _ rd _ _ _ => some (.scalar rd)
  | .max _ rd _ _ _ => some (.scalar rd)
  | .sel _ rd _ _ _ => some (.scalar rd)
  | .clz _ rd _ => some (.scalar rd)
  | .popc _ rd _ => some (.scalar rd)
  | .mov _ rd _ => some (.scalar rd)
  | .mov16 _ rd _ => some (.scalar rd)
  | .li _ rd _ => some (.scalar rd)
  | .li16 _ rd _ => some (.scalar rd)
  | .lih _ rd _ _ => some (.scalar rd)
  | .vadd _ d _ _ _ => some (.vector d)
  | .vsub _ d _ _ _ => some (.vector d)
  | .vmul _ d _ _ _ => some (.vector d)
  | .vminS32 _ d _ _ _ => some (.vector d)
  | .vminN32 _ d _ _ _ => some (.vector d)
  | .vmaxS32 _ d _ _ _ => some (.vector d)
  | .vmaxN32 _ d _ _ _ => some (.vector d)
  | .vshl _ d _ _ _ => some (.vector d)
  | .vshr _ d _ _ _ => some (.vector d)
  | .vsra _ d _ _ _ => some (.vector d)
  | .vgfmul _ d _ _ _ => some (.vector d)
  | .vgfma _ d _ _ _ => some (.vector d)
  | .vfsh _ d _ _ _ => some (.vector d)
  | .vlog3 _ d _ _ _ => some (.vector (d.setWidth 7))
  | .vsel _ d _ _ _ => some (.vector d)
  | .vmov _ d _ _ => some (.vector d)
  | .vpopc _ d _ _ => some (.vector d)
  | .vbcast _ d _ _ _ => some (.vector d)
  | .vslideUp _ d _ _ _ => some (.vector d)
  | .vslideDown _ d _ _ _ => some (.vector d)
  | .vperm _ d _ _ _ => some (.vector d)
  | .vpack _ d _ _ _ _ => some (.vector d)
  | .vunpk _ d _ _ _ _ => some (.vector d)
  | .vfclass _ d _ _ => some (.vector d)
  | .pcnt _ d _ => some (.vector d)
  | .pfirst _ d _ => some (.vector d)
  | .ppack _ d _ => some (.vector d)
  | .vfadd _ d _ _ _ => some (.vector d)
  | .vfsub _ d _ _ _ => some (.vector d)
  | .vfmul _ d _ _ _ => some (.vector d)
  | .vfdiv _ d _ _ _ => some (.vector d)
  | .vfmin _ d _ _ _ => some (.vector d)
  | .vfmax _ d _ _ _ => some (.vector d)
  | .vfma _ d _ _ _ => some (.vector d)
  | .vfnma _ d _ _ _ => some (.vector d)
  | .vfabs _ d _ _ => some (.vector d)
  | .vfsqrt _ d _ _ => some (.vector d)
  | .vfrcp _ d _ _ => some (.vector d)
  | .vfexp2 _ d _ _ => some (.vector d)
  | .vflog2 _ d _ _ => some (.vector d)
  | .vcvt _ d _ _ _ _ _ => some (.vector d)
  | .vred _ d _ _ _ => some (.vector d)
  | .vcmp _ d _ _ _ _ => some (.pred (d.setWidth 4))
  | .vfcmp _ d _ _ _ _ => some (.pred (d.setWidth 4))
  | .plog _ d _ _ _ => some (.pred d)
  | .pset _ d _ => some (.pred d)
  | _ => none

/-- The instructions that accrue flags in FCSR, and under stochastic rounding step the LFSR (R109, R116). -/
def Sys2Proof.Claims.accrues : Instr → Bool
  | .vfadd _ _ _ _ _ => true
  | .vfsub _ _ _ _ _ => true
  | .vfmul _ _ _ _ _ => true
  | .vfdiv _ _ _ _ _ => true
  | .vfmin _ _ _ _ _ => true
  | .vfmax _ _ _ _ _ => true
  | .vfma _ _ _ _ _ => true
  | .vfnma _ _ _ _ _ => true
  | .vfabs _ _ _ _ => true
  | .vfsqrt _ _ _ _ => true
  | .vfrcp _ _ _ _ => true
  | .vfexp2 _ _ _ _ => true
  | .vflog2 _ _ _ _ => true
  | .vfcmp _ _ _ _ _ _ => true
  | .vcvt _ _ _ _ _ _ _ => true
  | .vred _ _ _ _ _ => true
  | _ => false

/-- The effects that an instruction that only computes may schedule. -/
def Sys2Proof.Claims.MayLeave (i : Instr) (s : State) : Effect → Prop
  | .scalar c r _ => ∃ q, destOf i = some (.scalar q) ∧ c = turn s ∧ r = q.toNat
  | .vector d _ _ => ∃ q, destOf i = some (.vector q) ∧ d = dstV s q
  | .pred p _ => ∃ q, destOf i = some (.pred q) ∧ p = q.toNat
  | .fcsrOr _ => accrues i = true
  | .lfsrStep _ => accrues i = true ∧ (roundEnv s).rm = 4
  | .abort => s.ctx.bmBad ≠ []
  | _ => False

/-- The frame of every instruction that only computes: when it issues, it leaves storage, the other clusters and the rest of the module as
they were; what joins the writes in flight writes its destination, its flags and the LFSR, or counts an abort when an error withholds bytes of bobbin
memory (R251), and nothing else, and lands in a later cycle. -/
def Obligations.ComputingInstructionsWriteOnlyTheirDestination : Prop :=
  ∀ (s t : State) (i : Instr), (destOf i).isSome = true → exec i s = .next t → t.verdict = .issued →
    Ctx.sameStorage s.ctx t.ctx ∧ State.sameModule s t ∧
    (∃ ws, Ctx.scheduled s.ctx t.ctx ws ∧ ∀ w ∈ ws, s.now < w.lands ∧ MayLeave i s w.eff) ∧
    ∀ c, c ≠ turn s → (t.ctx.cl.get c).pc = (s.ctx.cl.get c).pc ∧ (t.ctx.cl.get c).blocks = (s.ctx.cl.get c).blocks

/-- The registers, special registers, flags, bobbins and scratchpad of a context, but for the register files that the list names: 0
scalar, 1 vector with the last results, 2 predicate. -/
def Sys2Proof.Claims.keepsAllBut (x y : Ctx) (f : Nat) : Prop :=
  (f = 0 ∨ (y.regs.a = x.regs.a ∧ y.regs.m = x.regs.m ∧ y.regs.s = x.regs.s)) ∧
  (f = 1 ∨ (y.regs.v = x.regs.v ∧ y.regs.o = x.regs.o ∧ y.regs.l = x.regs.l)) ∧
  (f = 2 ∨ y.regs.p = x.regs.p) ∧
  y.regs.n = x.regs.n ∧ y.regs.k = x.regs.k ∧ y.sr = x.sr ∧ y.flags = x.flags ∧ y.bob = x.bob ∧ y.bmem = x.bmem ∧ y.eng = x.eng ∧
  y.gq = x.gq ∧ y.hoops = x.hoops ∧ y.cl = x.cl ∧ y.flight = x.flight

/-- R75, R76, R79, R82, R99: what a landing result writes. A scalar result writes its register, and none for a0, which reads 0. A vector result
writes the unmasked bits of its register, and the whole of it enters l0 while l0 to l2 move up; one to a bobbin slot writes the bytes that the slot had at its issue. A predicate writes its
predicate; a scratchpad store writes its bytes. -/
def Sys2Proof.Claims.ResultsLand : Prop :=
  ∀ (x : Ctx) (c c' : Cluster) (r r' size : Nat) (v : W64) (mask new : VReg) (bs : List Byte) (dbg : Bool),
    (c ≠ .V → r < (if c = .A then 32 else 16) →
      keepsAllBut x (x.land (.scalar c r v)) 0 ∧ (x.land (.scalar c r v)).sp = x.sp ∧
      (x.land (.scalar c r v)).regs.gpr c' r' =
        if c' = .A ∧ r' = 0 then 0 else if c' = c ∧ r' = r then v else x.regs.gpr c' r') ∧
    (r < 48 →
      let y := x.land (.vector (.v r) mask new)
      keepsAllBut x y 1 ∧ y.sp = x.sp ∧ y.regs.o = x.regs.o ∧
      (∀ j, (vget y.regs.v r 0).getLsbD j = if mask.getLsbD j then new.getLsbD j else (vget x.regs.v r 0).getLsbD j) ∧
      (∀ n, n ≠ r → vget y.regs.v n 0 = vget x.regs.v n 0) ∧
      vget y.regs.l 0 0 = vget y.regs.v r 0 ∧ ∀ n, n < 3 → vget y.regs.l (n + 1) 0 = vget x.regs.l n 0) ∧
    (r < 8 →
      let y := x.land (.vector (.o r) mask new)
      keepsAllBut x y 1 ∧ y.sp = x.sp ∧ y.regs.v = x.regs.v ∧
      (∀ j, (vget y.regs.o r 0).getLsbD j = if mask.getLsbD j then new.getLsbD j else (vget x.regs.o r 0).getLsbD j) ∧
      (∀ n, n ≠ r → vget y.regs.o n 0 = vget x.regs.o n 0) ∧
      vget y.regs.l 0 0 = vget y.regs.o r 0 ∧ ∀ n, n < 3 → vget y.regs.l (n + 1) 0 = vget x.regs.l n 0) ∧
    (x.bmem.wf = true →
      let y := x.land (.vector (.slot r size) mask new)
      let all := (ofImage (x.bmem.read r size) &&& ~~~mask) ||| (new &&& mask)
      y = { x with regs := { x.regs with l := y.regs.l }, bmem := y.bmem, bmBad := y.bmBad } ∧ vget y.regs.l 0 0 = all ∧
      (∀ n, n < 3 → vget y.regs.l (n + 1) 0 = vget x.regs.l n 0) ∧
      ∀ a, y.bmem.get a = if r ≤ a ∧ a < r + size then (natBytes all.toNat size).getD (a - r) 0 else x.bmem.get a) ∧
    (r < 16 → keepsAllBut x (x.land (.pred r v)) 2 ∧ (x.land (.pred r v)).sp = x.sp ∧
      ∀ n, vget (x.land (.pred r v)).regs.p n 0 = if n = r then v else vget x.regs.p n 0) ∧
    (x.sp.wf = true →
      keepsAllBut x (x.land (.spStore r bs dbg)) 3 ∧ (x.land (.spStore r bs dbg)).regs = x.regs ∧
      ∀ a, (x.land (.spStore r bs dbg)).sp.get a = if r ≤ a ∧ a < r + bs.length then bs.getD (a - r) 0 else x.sp.get a)

/-- R69, R322: BTAKE moves TAKE on and counts down, BGIVE moves FILL on and counts up, of their bobbin alone. -/
def Sys2Proof.Claims.PointersMove : Prop :=
  ∀ (x : Ctx) (b n : Nat), b < 16 →
    let o := x.bobbin b
    let t := x.land (.take b n)
    let g := x.land (.give b n)
    (t = { x with bob := t.bob } ∧ t.bobbin b = { o with take := (o.take + n) % (o.depth.toNat + 1), count := o.count - n } ∧
      ∀ k, k ≠ b → t.bobbin k = x.bobbin k) ∧
    (g = { x with bob := g.bob } ∧ g.bobbin b = { o with fill := (o.fill + n) % (o.depth.toNat + 1), count := o.count + n } ∧
      ∀ k, k ≠ b → g.bobbin k = x.bobbin k)

/-- R70, R322: data that arrives for a reservation is kept until every earlier reservation of its bobbin has been written; then it and those behind
it whose data is there are written in order, each to the next slot, and FILL and COUNT follow. -/
def Sys2Proof.Claims.DataIsDeliveredInOrder : Prop :=
  ∀ (x : Ctx) (b id : Nat) (v : VReg),
    let o := x.bobbin b
    let rs := o.resv.map (fun r => if r.id = id then { r with data := some v } else r)
    let ready := rs.takeWhile (·.data.isSome)
    let slot := fun (j : Nat) => o.lo + (o.fill + j) % o.slots * o.slotBytes
    let y := x.land (.deliver b id v)
    b < 16 → o.fill < o.slots → ready.length ≤ o.slots → x.bmem.wf = true →
      y = { x with bob := y.bob, bmem := y.bmem, bmBad := y.bmBad } ∧
      y.bobbin b = { o with fill := (o.fill + ready.length) % o.slots, count := o.count + ready.length, resv := rs.drop ready.length } ∧
      (∀ k, k ≠ b → y.bobbin k = x.bobbin k) ∧
      (∀ j r w i, ready[j]? = some r → r.data = some w → i < o.slotBytes →
        y.bmem.get (slot j + i) = (natBytes w.toNat o.slotBytes).getD i 0) ∧
      (∀ a, (∀ j < ready.length, a < slot j ∨ slot j + o.slotBytes ≤ a) → y.bmem.get a = x.bmem.get a)

/-- R48, R56, R71, R109, R116, R251, R326, R345, R435: what else lands. A flag is set or cleared, alone; VSP, VLEN, FCSR, the LFSR and CIR take their values,
and no other special register changes; an abort sets CIR.ABORT and counts; a halted cluster is inactive and its block stack
gone, and the task retires when it was the last. -/
def Sys2Proof.Claims.FlagsAndRegistersLand : Prop :=
  ∀ (x : Ctx) (c k : Cluster) (f num : Nat) (b : Bool) (sp : BitVec 20) (len : BitVec 7) (fl : BitVec 10) (w : W32),
    let only := fun (y : Ctx) (n : Nat) (v : W64) =>
      y = { x with sr := y.sr, audit := y.audit } ∧ y.sreg c n = some v ∧ (num ≠ n → y.sreg c num = x.sreg c num)
    let flagged := fun (y : Ctx) (v : Bool) => y = { x with flags := y.flags } ∧ ∀ n, vget y.flags n false =
      if n = f then v else vget x.flags n false
    (f < 8 → flagged (x.land (.flag f b)) b ∧ flagged (x.land (.flagTake f)) false ∧ flagged (x.land (.flagGrant f)) true) ∧
    only (x.land (.vsp sp)) 0x14 (sp.setWidth 64) ∧
    only (x.land (.vlen len)) 0x16 (len.setWidth 64) ∧
    only (x.land (.fcsrOr fl)) 0x17 ((x.sr.fcsr ||| fl).setWidth 64) ∧
    only (x.land (.lfsrStep w)) 0x0B (w.setWidth 64) ∧
    only (x.land .cirClear) 0x06 0 ∧
    ((∀ e ∈ x.flight, e.eff ≠ .cirClear) →
      only (x.land .abort) 0x06 (BitVec.ofNat 64 (1 + min (x.sr.cirCount.toNat + 1) 0xFFFF * 2 ^ 16))) ∧
    (let y := x.land (.deactivate c)
     y = { x with cl := y.cl, life := y.life } ∧
     y.cl.get c = { x.cl.get c with active := false, taskActive := false, blocks := [], floor := 0 } ∧
     (k ≠ c → y.cl.get k = x.cl.get k) ∧
     ((∀ j, (y.cl.get j).active = false) → x.sr.handler = false → y.life = .retiring) ∧
     ((∃ j, (y.cl.get j).active = true) ∨ x.sr.handler = true → y.life = x.life))

/-- What lands when its cycle has come. -/
def Obligations.LandingResultsWriteOnlyTheirDestination : Prop :=
  Claims.ResultsLand ∧
  Claims.PointersMove ∧
  Claims.DataIsDeliveredInOrder ∧
  Claims.FlagsAndRegistersLand

/-- R146: a line that leaves its die cache reads as before: a modified one goes back to HBM, any other is as HBM has it. -/
def Sys2Proof.Claims.AnEvictedLineReadsAsBefore : Prop :=
  ∀ (s : State) (line : Nat) (l : DieLine), s.mem.wf = true → findLine line s.dcache = some l →
    (∀ m ∈ s.dcache, m.line = line → m = l) → line ∉ s.struck → (l.dirty = false → l.data = BitVec.ofNat 512 (s.mem.load (64 * line) 64)) →
    (∀ a, (s.evictLine line).physByte a = s.physByte a) ∧
    (protLine s (64 * line) = none → findLine line (s.evictLine line).dcache = none)

/-- R182, R295, R407: the stored bytes of a global store, and no other byte, change when it is performed: for every address, a reader of the page
sees the stored byte within the range and the byte as before outside it. The store is to lines of local, unprotected memory that are in the
die cache, or have room in it; a replay performs none. -/
def Sys2Proof.Claims.APerformedStoreWritesOnlyItsBytes : Prop :=
  ∀ (s : State) (cid idx : Nat) (y : Access) (e : Elem), Focused s cid → s.ctx.gq[idx]? = some y → performable s idx = true →
    y.kind = .store → y.elems = [e] → pteRMT e.pte = false → s.ctx.replays = false →
    (∀ ln ∈ linesOf e.pa y.size, protLine s (64 * ln) = none ∧
      ((findLine (localPart (64 * ln) / 64) s.dcache).isSome = true ∨ victimOf s (localPart (64 * ln) / 64) = none)) →
    s.stamps.Pairwise (fun p q => p.1 < q.1) →
    Occurs (.globalAccessPerformed cid idx) s (fun t =>
      (∀ a, t.keyedByte (keySerial s e.pte) a =
        if localPart e.pa ≤ a ∧ a < localPart e.pa + y.size then (natBytes y.data.toNat y.size).getD (a - localPart e.pa) 0
        else s.keyedByte (keySerial s e.pte) a) ∧
      (∀ a k, (∀ b, localPart e.pa ≤ b → b < localPart e.pa + y.size → a / 64 ≠ b / 64) → t.keyedByte k a = s.keyedByte k a) ∧
      t.mem = s.mem ∧ t.cap = s.cap)

/-- What the performance of a store, and the eviction of a line, do to the bytes that readers see. -/
def Obligations.AGlobalStoreWritesOnlyItsBytes : Prop :=
  Claims.AnEvictedLineReadsAsBefore ∧
  Claims.APerformedStoreWritesOnlyItsBytes

/-! ## Events: engines, pages and rows -/

/-- The head of a queue of the focused context that its engine may serve. -/
def Sys2Proof.Claims.HeadOf (s : State) (cid eng : Nat) (c : EngCmd) : Prop :=
  Focused s cid ∧ s.ctx.enginesRun = true ∧ (s.ctx.eng.queue eng).run = .run ∧ s.power.gate = true ∧
    (s.ctx.eng.queue eng).updates = [] ∧ (s.ctx.eng.queue eng).cmds.head? = some c

/-- The head of a shuttle channel of the focused context that the channel may serve. -/
def Sys2Proof.Claims.ShuttleHead (s : State) (cid : Nat) (ch : Bool) (c : ShCmd) : Prop :=
  Focused s cid ∧ s.ctx.enginesRun = true ∧ (s.ctx.eng.channel ch).run = .run ∧ s.power.gate = true ∧
    (s.ctx.eng.channel ch).updates = [] ∧ (s.ctx.eng.channel ch).cmds.head? = some c

/-- R129, R163, R167, R177, R192, R204, R211, R235, R270, R388: the head command of an engine's queue begins, moves its elements or executes once
what its issue released has been performed and nothing that the rules name holds it. -/
def Obligations.EnginesCarryOutTheirCommands : Prop :=
  ∀ (s : State) (cid quad k : Nat) (ch : Bool) (sh : ShCmd) (c : EngCmd) (tc : TileCmd) (rest : List TileCmd),
    let n := if sh.fill.isSome then 1 else max 1 (prickRun sh.pricking - sh.cur.e)
    (evictDue s quad = none → resumable s quad = none → (s.quad quad).queue = tc :: rest → (s.quad quad).started = none →
      slotFilling (s.quad quad) tc = false →
      (∀ x, s.ctxOf tc.cid = some x → x.releasedTo tc.after = true) →
      Happens (.tileCommandExecution quad) s (s.onCtx tc.cid (beginTile · quad tc))) ∧
    (evictDue s quad = none → resumable s quad = none → (s.quad quad).queue = tc :: rest → (s.quad quad).started = some k →
      k + tc.op.cycles ≤ s.now → headWaits s tc = false →
      Happens (.tileCommandExecution quad) s (s.onCtx tc.cid (runTile · quad tc))) ∧
    (ShuttleHead s cid ch sh → sh.begun = false → s.ctx.releasedTo sh.after = true → channelFree s ch = true →
      (sh.fill.isSome = true ∨ linkStops s sh = false) →
      Happens (.shuttleCommandBegin cid ch) s (beginShuttle s ch sh)) ∧
    (let t := { s with shLast := tabSet (channelKey s.ctx ch) s.ctx.slot s.shLast }
     ShuttleHead s cid ch sh → sh.begun = true → sh.finished = false → channelFree s ch = true → (moveRun t ch n).2 = true →
      Happens (.shuttleElementMove cid ch) s (moveRun t ch n).1) ∧
    (ShuttleHead s cid ch sh → sh.finished = true → Happens (.shuttleCompletion cid ch) s (completeShuttle s ch sh)) ∧
    (HeadOf s cid 2 c → s.ctx.releasedTo c.after = true → (∀ e ∈ c.elems, rowHeld s (localPart e.pa) = false) →
      Happens (.cutworkExecution cid) s (runCutwork s c)) ∧
    (HeadOf s cid 3 c → couchReleased s c = true → (runCouching s c).2 = true →
      Happens (.couchingExecution cid) s (runCouching s c).1) ∧
    (HeadOf s cid 7 c → s.ctx.releasedTo c.after = true → (runEnq s c).2 = true →
      Happens (.queueEngineExecution cid) s (runEnq s c).1) ∧
    (HeadOf s cid 6 c → owedBy s cid = none → s.ctx.releasedTo c.after = true →
      Happens (.footsideExecution cid) s (if c.word.toNat / 2 ^ 20 % 32 = 0 then runProt s c else runRndend s c)) ∧
    (HeadOf s cid 4 c → s.ctx.releasedTo c.after = true → (runDarn s c).2 = true →
      Happens (.darningStripe cid) s (runDarn s c).1)

/-- R177, Table 8.6: what an arrival makes of a completion word: the count goes up by one modulo 2^32, FB stays once set, and the first
failure puts its code and its command's index there for good. -/
def Obligations.CompletionWordsCountAndKeepTheFirstFailure : Prop :=
  ∀ (u : Update) (old : W64), u.add = none → u.arrive = true →
    let new : W64 := BitVec.ofNat 64 (wordAfter u old.toNat)
    wordAfter u old.toNat < 2 ^ 64 ∧
    new.setWidth 32 = old.setWidth 32 + 1 ∧
    new.getLsbD 62 = (old.getLsbD 62 || u.fb) ∧
    new.getLsbD 63 = (old.getLsbD 63 || u.err.isSome) ∧
    (old.getLsbD 63 = true ∨ u.err = none → new.extractLsb' 32 30 = old.extractLsb' 32 30) ∧
    (∀ code, old.getLsbD 63 = false → u.err = some code →
      new.extractLsb' 56 6 = code ∧ (new.extractLsb' 32 24).toNat = u.idx % 2 ^ 24)

/-- The rows within NBR of a row, in its subarray; those of a control row lie around its place there (`Config.controlPlace`, a value of the
implementation). -/
def Sys2Proof.Claims.Near (nbr b r x : Nat) : Prop :=
  let sub := (r - 2 ^ 32) / 2
  let place := 512 * sub + Config.controlPlace b sub % 513
  if r < 2 ^ 32 then x ≠ r ∧ x ≤ r + nbr ∧ r ≤ x + nbr ∧ x / 512 = r / 512
  else place ≤ x + nbr ∧ x < place + nbr ∧ x / 512 = sub

/-- R207: at a bank's precharge the counters of its open rows that have reached SAT, or fail their check, are reset, and exactly the rows within
NBR of one of their rows, in its subarray, are refreshed; a row that is not open waits; the periodic refresh of a row resets its counter; no other counter changes. -/
def Obligations.SaturatedRowsAreRefreshedAround : Prop :=
  ∀ (s : State) (b r : Nat),
    let die := bankDie b
    let d := vget s.dies die .reset
    (r ∉ openedRows d b → exec (.activationSaturation b r) s = .next { s with verdict := .waited }) ∧
    (r ∈ openedRows d b → (d.actSat.toNat ≤ activations d b r ∨ (b, r) ∈ d.failed) →
      Occurs (.activationSaturation b r) s (fun t =>
        let e := vget t.dies die .reset
        r ∈ saturated d b ∧ (∀ r' ∈ saturated d b, activations e b r' = 0) ∧
        (∀ b' r', b' ≠ b ∨ r' ∉ saturated d b → activations e b' r' = activations d b' r') ∧
        (∀ b' x, (b', x) ∈ e.refreshed ↔ b' = b ∧ ∃ r' ∈ saturated d b, Claims.Near d.actNbr b r' x) ∧
        ∀ k, k ≠ die → vget t.dies k .reset = vget s.dies k .reset)) ∧
    Occurs (.periodicRefresh b r) s (fun t =>
      let e := vget t.dies die .reset
      activations e b r = 0 ∧ (∀ b' r', b' ≠ b ∨ r' ≠ r → activations e b' r' = activations d b' r') ∧ e.refreshed = d.refreshed)

/-- R15 to R18, R23, R28, R147, R153 to R155: a placement boundary halves every page's counters; a copy that is complete takes its page to
its new frame; a stack below LOW evicts the page that the rules pick, whose bytes then stand in the capacity tier; the end of a
chain marks its lines and writes nothing back. -/
def Obligations.PagesMoveBetweenTheirTiers : Prop :=
  ∀ (s : State) (page frame stack k capPage a : Nat) (interval : Bool) (asid : W16) (l : Leaf) (p q : PageInfo) (chain : BitVec 8),
    ((if interval then s.hub.trigNow ≠ 0 ∧ s.hub.plintNow ≠ 0 ∧ s.boundary.1 + s.hub.plintNow.toNat ≤ s.us
      else 0 < s.boundary.2) → s.hub.plctl.getLsbD 0 = true →
      s.pages.find? (fun x => x.pteAddr == a) = some q →
      Occurs (.placementBoundary interval) s (fun t => ∃ q', t.pages.find? (fun x => x.pteAddr == a) = some q' ∧
        ∀ die, die < 6 → vget q'.counts die 0 = vget q.counts die 0 / 2)) ∧
    (pageAt s page = some (asid, l, p) → p.move = .migrating k → frameFits s l k frame = true →
      frameHeld s l frame = false → frameHeld s l (frameOf l) = false → pageLocked s (frameOf l) l.size = false →
      Happens (.pageMigration page frame) s (finishMigration s asid l p k frame)) ∧
    (pageAt s page = some (asid, l, p) → p.move = .returning k → frameFits s l k frame = true → frameHeld s l frame = false →
      Happens (.pageMigration page frame) s (finishReturn s asid l p k frame)) ∧
    (s.hub.tiercfg.getLsbD 0 = true → stack < 16 → vget s.freePages stack 0 < tierLow s → vget s.freePages stack 0 < tierHigh s →
      (∀ x ∈ s.pages, x.move = .evicting → stackOf (x.frame s) ≠ stack) →
      pickEviction s (evictable s stack) = some (asid, l, p) →
      Occurs (.evictionStart stack) s (fun t => t.pages.find? (fun x => x.pteAddr == p.pteAddr) = some { p with move := .evicting } ∧
        stack ∈ t.evictStacks)) ∧
    (s.canonical → pageAt s page = some (asid, l, p) → p.move = .evicting → capFits s l capPage = true →
      frameHeld s l (frameOf l) = false → queuedAt s (frameOf l) l.size true = false → queuedAt s (frameOf l) l.size false = false →
      lostIn (s.evictRange (frameOf l) l.size) (frameOf l) l.size = false →
      Occurs (.pageEviction page capPage) s (fun t => ∀ i, i < l.size →
        t.cap.get (capPage * 4096 + i) = (s.evictRange (frameOf l) l.size).mem.get (frameOf l + i))) ∧
    (∀ gs, (chain.toNat, gs) ∈ s.tamb.marks → (∀ g ∈ s.tamb.gangs, g.id ∈ gs → g.done = true) →
      Occurs (.chainDemotion chain) s (fun t => t.mem = s.mem ∧
        t.dcache = s.dcache.map (fun x => { x with demoted := x.demoted || x.chain == chain })))

/-! ## Events: the Tambour -/

/-- `p` is the head packet of slot `k`, of a TYPE and well formed, and its queue is ready. -/
def Sys2Proof.Claims.PacketAt (s : State) (k type : Nat) (h : HwSlot) (p : BitVec 512) : Prop :=
  tabGet k s.tamb.slots = some h ∧ headReady s h = some p ∧ pkType p = type ∧ badPacket p = none

/-- The leader hart, while its lease runs (R284, R285). -/
def Sys2Proof.Claims.Leader (s : State) (hart : Nat) : Prop := hart = s.hub.holder ∧ hart < 6 ∧ s.hub.remain ≠ 0

/-- R28, R217 to R224, R228 to R231, R233: packets at the heads of queues. A packet that wins the decision is consumed: RIDX moves on, and the
priority returns to PRIO. -/
def Obligations.HeadPacketsAreCarriedOut : Prop :=
  ∀ (s : State) (k code : Nat) (h : HwSlot) (p : BitVec 512) (inputs : List (W64 × W64)) (g : Gang) (seats : List Seat)
    (streams : List W64) (ks : List W32) (e : TlbEntry) (el : Elem) (s1 : State) (bs : List Byte),
    (tabGet k (s.consume k h).tamb.slots = some { h with
      ridx := h.ridx + 1, eff := h.prio, aging := 0, headWait := 0, reserving := false, valid := none, waitsig := none, fault := none }) ∧
    (PacketAt s k 0 h p → wins s k h = true → Happens (.nopPacket k) s (s.consume k h)) ∧
    (PacketAt s k 1 h p → h.valid = none → launchWaits s h.asid p = false → checkLaunch s h.asid p = .ok inputs →
      Occurs (.launch k) s (fun t => tabGet k t.tamb.slots = some { h with valid := some s.tamb.nextGang, fault := none } ∧
        ∃ n ∈ t.tamb.gangs, n.id = s.tamb.nextGang ∧ n.packet = p ∧ n.inputs = inputs ∧ n.placed = false ∧ n.asid = h.asid)) ∧
    (PacketAt s k 1 h p → h.valid = none → launchWaits s h.asid p = false → checkLaunch s h.asid p = .error code → wins s k h = true →
      Happens (.launch k) s (reject (if code = 6 then reportLaunch s h.asid p else s) k h p code)) ∧
    (PacketAt s k 1 h p → wins s k h = true → placementOf s k h = some (g, seats) →
      readEntry s g.id g.asid (pkEntry p) = some (streams, ks) → (∃ a ∈ streams, a ≠ 0) →
      Happens (.gangPlacement k) s (startGang ((settleLate s (seatQuadIds seats)).consume k h) g streams ks seats)) ∧
    (PacketAt s k 1 h p → wins s k h = true → placementOf s k h = some (g, seats) → statusHeld s h.asid (pkStatus p) = false →
      (readEntry s g.id g.asid (pkEntry p) = none ∨ readEntry s g.id g.asid (pkEntry p) = some (streams, ks) ∧ ∀ a ∈ streams, a = 0) →
      Happens (.gangPlacement k) s (dropLaunch s k h p g)) ∧
    (PacketAt s k 2 h p → hubRead s h.asid (pkWord p 1) 8 = some (s1, bs) → signalTest p (leNat bs) = true → wins s k h = true →
      Happens (.waitsig k) s (s1.consume k h)) ∧
    (PacketAt s k 2 h p → hubRead s h.asid (pkWord p 1) 8 = some (s1, bs) → signalTest p (leNat bs) = false →
      Happens (.waitsig k) s (s1.setHwSlot k { h with waitsig := some (pkWord p 1), fault := none })) ∧
    (PacketAt s k 3 h p → hubElem s h.asid .write (pkWord p 1) 8 = some (el, e) → wins s k h = true →
      let r := ((s.consume k h).remember e).atomic { Requester.nobody with asid := h.asid.toNat } none el 8
        (fun o => some (if (pkWord p 0).getLsbD 9 then (pkWord p 2).toNat else (o + (pkWord p 2).toNat) % 2 ^ 64))
      Happens (.setsig k) s (if r.2.isSome ∧ pteRMT e.pte = false then r.1.wakePage h.asid (pkWord p 1) else r.1)) ∧
    (PacketAt s k 4 h p → wins s k h = true →
      Occurs (.mark k) s (fun t =>
        ((pkWord p 0).getLsbD 9 = true → pkChain p ≠ 0 → ∃ gs, (pkChain p, gs) ∈ t.tamb.marks ∧ ∀ x, x ∈ gs ↔
          ∃ y ∈ s.tamb.gangs, y.id = x ∧ y.qid = h.qid ∧ (y.placed = true ∨ y.saved = true) ∧ pkChain y.packet = pkChain p ∧ y.done = false) ∧
        ((pkWord p 0).getLsbD 10 = true → tabGet h.qid t.tamb.cuts = some s.tamb.nextGang))) ∧
    (tabGet k s.tamb.slots = some h → headReady s h = some p → badPacket p = some code → wins s k h = true →
      Happens (.packetReject k) s (reject s k h p code))

/-- R34, R228, R232: a gang that has waited 2 ms at the head of its queue reserves; a queue that has been ready for 1 ms without a decision rises
one level, to 7 at most; a queue whose fault has outlasted its hold is unmapped with FHOLD set. -/
def Obligations.WaitingQueuesReserveAgeAndExpire : Prop :=
  ∀ (s : State) (k : Nat) (f : Bool × Nat) (h : HwSlot) (p : BitVec 512),
    (PacketAt s k 1 h p → h.valid.isSome = true → h.reserving = false → 2000 ≤ h.headWait →
      (∀ x ∈ s.tamb.slots, x.1 ≠ k → x.2.eff = h.eff → x.2.reserving = false ∧
        (x.2.valid.isSome = true → 2000 ≤ x.2.headWait → reservesFirst x (k, h) = false)) →
      Occurs (.gangReserving k) s (fun t => tabGet k t.tamb.slots = some { h with reserving := true })) ∧
    (tabGet k s.tamb.slots = some h → 1000 ≤ h.aging → h.eff < 7 →
      Occurs (.priorityAging k) s (fun t => ∃ r, tabGet k t.tamb.slots = some { h with eff := h.eff + 1, aging := 0, reserving := r } ∧
        (r = true → h.reserving = true))) ∧
    (tabGet k s.tamb.slots = some h → h.fault = some f → f.2 + holdTime h ≤ s.us → faultResolved s h = false →
      Happens (.faultHoldExpiry k) s (unmapQueue s k h true)) ∧
    (tabGet k s.tamb.slots = some h → h.fault = some f → f.2 + holdTime h ≤ s.us → faultResolved s h = true →
      Happens (.faultHoldExpiry k) s (s.setHwSlot k { h with fault := none }))

/-- R35, R36, R39: the context of a task when its gang is placed; that its clusters may issue from the next cycle on is log 32's choice. -/
def Obligations.TasksStartInTheirInitialState : Prop :=
  ∀ (s : State) (g : Gang) (code : Memory) (streams : List W64) (ks : List W32) (drawn : Bool) (w : Seat),
    let x := startCtx s g code streams ks drawn w
    let size := if pkCap48 g.packet then 0x80000 else 0x40000
    (∀ n, n < 32 → x.regs.gpr .A n = if n = 1 then pkArg g.packet else if n = 31 then BitVec.ofNat 64 (pkSp g.packet) else 0) ∧
    (∀ n, x.regs.gpr .M n = 0 ∧ x.regs.gpr .S n = 0 ∧ vget x.regs.v n 0 = 0 ∧ vget x.regs.p n 0 = 0) ∧
    (∀ a, x.sp.get a = 0) ∧ x.spSize = size ∧ x.sr.vsp = BitVec.ofNat 20 size ∧
    x.sr.vslim = BitVec.ofNat 20 (size - 256 * pkVstk g.packet) ∧ x.sr.vlen = 64 ∧ x.sr.fcsr = 0 ∧ x.sr.cir = 0 ∧ x.sr.handler = false ∧
    x.sr.taskid = BitVec.ofNat 64 w.task ∧ x.sr.gangsize = BitVec.ofNat 64 (pkGang g.packet) ∧
    (∀ n, (x.bobbin n).en = false ∧ (x.bobbin n).count = 0) ∧ (∀ f, vget x.flags f false = false) ∧
    x.eng.formats = [] ∧ x.eng.names = [] ∧ x.flight = [] ∧ x.gq = [] ∧
    (∀ c, (x.cl.get c).blocks = [] ∧ (x.cl.get c).pc = streams.getD (cnum c) 0 ∧
      ((x.cl.get c).active = true ↔ streams.getD (cnum c) 0 ≠ 0) ∧ (x.cl.get c).ready = s.now + 1)

/-! ## Events: the supervisor and the fabric -/

/-- R162, R218, R225, R227, R230, R284, R285, R289, R290: the leader's commands on queues and translations. A queue that no slot holds is mapped with
its descriptor's indices and priority; a notify that moves the write index forward within the ring takes it; any other counts as an error. -/
def Obligations.QueueAndTranslationCommands : Prop :=
  ∀ (s : State) (hart k : Nat) (v : W64) (h : HwSlot) (src : W16) (msg : BitVec 192) (q peer : W16) (i : Instr),
    let qid := bits64 v 32 16
    let w : W32 := v.setWidth 32
    let d := readDesc s qid
    let page := bits64 v 0 45 * 4096
    let m := readDesc s (bits64 v 0 16)
    (Leader s hart → s.power.gate = true → slotOfQueue s qid = some (k, h) → d.en = true → d.devenq = false →
      0 < (w - h.widx).toInt → (w - h.ridx).toNat ≤ 2 ^ d.sizelg →
      Occurs (.qnotify hart v) s (fun t => tabGet k t.tamb.slots = some { h with widx := w })) ∧
    (Leader s hart → s.power.gate = true → d.en = false ∨ d.devenq = true → Happens (.qnotify hart v) s (s.countQueueError qid)) ∧
    (portOpen s 0 22 = true → s.power.gate = true → Happens (.remoteNotify src msg) s (remoteNotify s src msg)) ∧
    (Leader s hart → Occurs (.nqclr hart q peer) s (fun t =>
      (∀ x ∈ t.tamb.pairs, x.1 = q → x.2.1 = peer → x.2.2 = (0, false)) ∧
      ∀ x ∈ s.tamb.pairs, x.1 ≠ q ∨ x.2.1 ≠ peer → x ∈ t.tamb.pairs)) ∧
    (Leader s hart → s.power.gate = true → bits64 v 58 2 = 0 → s.hub.qmapcmd.getLsbD 63 = false → slotOfQueue s (bits64 v 0 16) = none →
      tabGet (bits64 v 32 9) s.tamb.slots = none → m.bad = false → m.en = true →
      Occurs (.qmapcmdMap hart v) s (fun t => t.hub.qmapcmd.getLsbD 63 = true ∧ bits64 (settleQmap t).hub.qmapcmd 60 4 = 0 ∧
        ∃ x, tabGet (bits64 v 32 9) t.tamb.slots = some x ∧
        x.qid = bits64 v 0 16 ∧ x.asid = m.asid ∧ x.ring = m.ring ∧ x.prio = m.prio ∧ x.eff = m.prio)) ∧
    (Leader s hart → s.power.gate = true → bits64 v 58 2 = 1 → s.hub.qmapcmd.getLsbD 63 = false →
      slotOfQueue s (bits64 v 0 16) = some (k, h) → Happens (.qmapcmdUnmap hart v) s (qmapResult (unmapQueue s k h false) v 0)) ∧
    (Leader s hart → s.power.gate = true → s.hub.qmapcmd.getLsbD 63 = true →
      (i = .qmapcmdMap hart v ∧ bits64 v 58 2 = 0) ∨ (i = .qmapcmdUnmap hart v ∧ bits64 v 58 2 = 1) → Happens i s s) ∧
    (Leader s hart → bits64 v 61 2 = 0 → s.hub.xinv.getLsbD 63 = false →
      Occurs (.xinvPage hart v) s (fun t => ∀ x, x ∈ t.tlb ↔ x ∈ s.tlb ∧ ¬(x.asid = BitVec.ofNat 16 (bits64 v 45 16) ∧
        x.base ≤ page ∧ page < x.base + x.size))) ∧
    (Leader s hart → bits64 v 61 2 = 1 → s.hub.xinv.getLsbD 63 = false →
      Occurs (.xinvAsid hart v) s (fun t => ∀ x, x ∈ t.tlb ↔ x ∈ s.tlb ∧ x.asid ≠ BitVec.ofNat 16 (bits64 v 45 16))) ∧
    (Leader s hart → bits64 v 61 2 = 2 → s.hub.xinv.getLsbD 63 = false → Occurs (.xinvAll hart v) s (fun t => t.tlb = [])) ∧
    (¬ Leader s hart → s.power.gate = true → (i = .qnotify hart v ∨ i = .nqclr hart q peer ∨ (i = .qmapcmdMap hart v ∧ bits64 v 58 2 ≠ 1) ∨
        (i = .qmapcmdUnmap hart v ∧ bits64 v 58 2 ≠ 0) ∨ (i = .xinvPage hart v ∧ bits64 v 61 2 = 0) ∨ i = .registerWrite hart .plctl v ∨
        i = .rstctlWarmReset hart ∨ i = .rstctlColdReset hart ∨ i = .rstctlPtok hart) → Happens i s s.countDropped)

/-- R285: the leader lease. -/
def Obligations.TheLeaderLeaseIsHeldByOneDie : Prop :=
  ∀ (s : State) (die : Nat) (v : W64), die < 6 → s.power.recovery = false → ¬(s.hub.leadAt.1 = s.now ∧ die < s.hub.leadAt.2) →
    let present := bits64 v 32 32 = s.hub.epoch.toNat ∧ bits64 v 2 30 = 0
    let written (f : Hub → Hub) : State := { s with hub := { f s.hub with leadAt := (s.now, die) } }
    (bits64 v 0 2 = 0 → present → s.hub.holder = die → s.hub.remain ≠ 0 →
      Happens (.leadcmdRenew die v) s (written (fun h => { h with remain := 2000 }))) ∧
    (bits64 v 0 2 = 1 → present → s.hub.holder = 7 →
      Happens (.leadcmdTake die v) s (written (fun h => { h with holder := die, epoch := h.epoch + 1, remain := 2000 }))) ∧
    (bits64 v 0 2 = 2 → present → s.hub.holder = die → s.hub.remain ≠ 0 →
      Happens (.leadcmdResign die v) s (written (fun h => { h with holder := 7, remain := 0 }))) ∧
    (bits64 v 0 2 = 0 → ¬(present ∧ s.hub.holder = die ∧ s.hub.remain ≠ 0) → Happens (.leadcmdRenew die v) s (written id)) ∧
    (bits64 v 0 2 = 1 → ¬(present ∧ s.hub.holder = 7) → Happens (.leadcmdTake die v) s (written id)) ∧
    (2 ≤ bits64 v 0 2 → ¬(bits64 v 0 2 = 2 ∧ present ∧ s.hub.holder = die ∧ s.hub.remain ≠ 0) →
      Happens (.leadcmdResign die v) s (written id)) ∧
    (s.hub.holder ≠ 7 → s.hub.remain = 0 → Occurs .leaseLapse s (fun t => t.hub.holder = 7 ∧
      t.hub.irqs = s.hub.irqs ++ (List.range 6).map (fun d => (d, irqLease))))

/-- What a masked register holds after a write: the fields of the mask as written, the others as they were. -/
def Sys2Proof.Claims.fields (old v mask : W64) : W64 := (old &&& ~~~mask) ||| (v &&& mask)

/-- R23, R43, R153, R252, R275, R279, R284, R287: the leader's registers. A write of PLCTL leaves TRIG when it holds 3, one of TIERCFG its two bounds
when HIGH is below LOW, one of SMPCFG a RETCNT of 0 and a LOGLG above 10; GRPAREA and GRPMEM take their fields in IDLE, and GRPMEM reads with
LIVE; SIGNALPAGE adds or drops a page, PODHOOP registers or drops an entry, RETURNCORE gives a core back and WAKEFIFO clears OVF. Which
registers stand for the last four, and that they are the leader's, is the model's choice (log 28). -/
def Sys2Proof.Claims.LeaderRegisters : Prop :=
  ∀ (s : State) (hart g j : Nat) (v : W64), Leader s hart →
    let page : W16 × Nat := (BitVec.ofNat 16 (bits64 v 45 16), bits64 v 0 45)
    let n := bits64 v 0 32
    Occurs (.registerWrite hart .plctl v) s (fun t => readReg t .plctl =
      fields s.hub.plctl v (if bits64 v 2 2 = 3 then 0x0000FFFFFFFFFF03 else 0x0000FFFFFFFFFF0F)) ∧
    Occurs (.registerWrite hart .tiercfg v) s (fun t => readReg t .tiercfg =
      fields s.hub.tiercfg v (if bits64 v 24 16 < bits64 v 8 16 then 0x0000FF0000000003 else 0x0000FFFFFFFFFF03)) ∧
    Occurs (.registerWrite hart .smpcfg v) s (fun t => ∀ m : W64,
      m = 0x00FFFFFFFFE00001 ||| (if bits64 v 8 8 = 0 then 0 else 0xFF00) ||| (if 10 < bits64 v 16 5 then 0 else 0x1F0000) →
      readReg t .smpcfg = fields s.hub.smpcfg v m) ∧
    (g < 4 → (s.group g).state = .idle → Occurs (.registerWrite hart (.grparea g) v) s (fun t =>
      readReg t (.grparea g) = v &&& 0x00FFFFFFFFE00000)) ∧
    (g < 4 → j < 16 → (s.group g).state = .idle → Occurs (.grpmemWrite hart g j v) s (fun t =>
      (readReg t (.grpmem g j)).getLsbD 63 = vget (s.group g).live j false ∧
      (readReg t (.grpmem g j)).setWidth 63 = (v &&& 0x03FFFFFFFFFF0000).setWidth 63)) ∧
    Occurs (.registerWrite hart .signalPage v) s (fun t =>
      (v.getLsbD 63 = true → (s.tamb.signals.filter (· != page)).length < 4096 → page ∈ t.tamb.signals) ∧
      (v.getLsbD 63 = false → page ∉ t.tamb.signals) ∧ ∀ q, q ≠ page → (q ∈ t.tamb.signals ↔ q ∈ s.tamb.signals)) ∧
    Occurs (.registerWrite hart (.podHoop g) v) s (fun t =>
      tabGet g t.hub.podHoops = (if n = 0 then none else
        some { hoop := 0, group := g, scope := 4, expect := n, arrived := 0, gen := 0, doneAt := 0 }) ∧
      ∀ k, k ≠ g → tabGet k t.hub.podHoops = tabGet k s.hub.podHoops) ∧
    Occurs (.registerWrite hart (.returnCore g) v) s (fun t => readReg t (.returnCore g) = 0 ∧
      ∀ k, k ≠ g → readReg t (.returnCore k) = readReg s (.returnCore k)) ∧
    Occurs (.registerWrite hart .wakeFifo v) s (fun t => t.tamb = { s.tamb with wakeOvf := false })

/-- R136, R230, R284, R292, R295, R297, R298: the supervisor's registers, keys and measurements. A register of a die takes the write of that die's hart only, a leader's
register that of the leader only; a read-only one takes none. The registers beyond R284's list are log 28's choice, and the codes of a blob that
cannot be read log 58's. -/
def Sys2Proof.Claims.DieRegistersAndKeys : Prop :=
  ∀ (s : State) (hart quad i : Nat) (v : W64) (x : BitVec 384) (bs : List Byte) (g : MmioReg),
    let id := bits64 v 48 8
    let idle := s.hub.keycmd.getLsbD 63 = false
    let accepted (t : State) (sts : Nat) := t.hub.keycmd.getLsbD 63 = true ∧ bits64 (settleKey t).hub.keycmd 60 4 = sts
    (hart = quad / 28 → hart < 6 → 1 ≤ bits64 v 0 5 → bits64 v 0 5 ≤ 16 →
      Occurs (.registerWrite hart (.arrcfg quad) v) s (fun t => readReg t (.arrcfg quad) = BitVec.ofNat 64 (bits64 v 0 5))) ∧
    (hart < 6 → 0x40 ≤ bits64 v 16 16 → 1 ≤ bits64 v 0 4 → bits64 v 0 4 ≤ 4 →
      Occurs (.registerWrite hart (.actcfg hart) v) s (fun t =>
        readReg t (.actcfg hart) = BitVec.ofNat 64 (bits64 v 0 4 + bits64 v 16 16 * 65536))) ∧
    (hart < 6 → Occurs (.registerWrite hart (.errring hart) v) s (fun t =>
      readReg t (.errring hart) = (v &&& 0x00FFFFFFFFFFF000) ||| (v &&& 0xF00))) ∧
    (∀ r, r ∈ [MmioReg.qtbase, .ctxtbase, .asidtbase] → Leader s hart →
      Occurs (.registerWrite hart r v) s (fun t => readReg t r = v &&& 0x00FFFFFFFFFFF000)) ∧
    (Leader s hart → Occurs (.registerWrite hart .jrnbase v) s (fun t => readReg t .jrnbase = v &&& 0x00FFFFFFFFE00000)) ∧
    (Leader s hart → Occurs (.registerWrite hart .keyblob v) s (fun t => readReg t .keyblob = v)) ∧
    (g ∈ [MmioReg.moddom, .lifeest, .rststs, .leadls, .meas i, .nonce] → Happens (.registerWrite hart g v) s s) ∧
    (¬ Leader s hart → g ∈ [MmioReg.plctl, .plint, .tiercfg, .qtbase, .ctxtbase, .asidtbase, .smpcfg, .jrnbase, .keyblob, .signalPage, .podHoop i,
        .returnCore i, .wakeFifo] →
      Happens (.registerWrite hart g v) s s.countDropped) ∧
    (hart ≠ quad / 28 → Happens (.registerWrite hart (.arrcfg quad) v) s s.countDropped) ∧
    (hart = quad / 28 → hart < 6 → (s.quad quad).evict = none → tilesBusy s quad (bits64 v 0 16) = false →
      supHeld s (areaOf s (bits64 v 0 16) + tileOffset 0) (16 * 16896) = false →
      Occurs (.accevict hart quad v) s (fun t => ∀ n, n < 16 →
        (vget (t.quad quad).tiles n .reset).tag ≠ some (bits64 v 0 16) ∧
        ((vget (s.quad quad).tiles n .reset).tag ≠ some (bits64 v 0 16) →
          vget (t.quad quad).tiles n .reset = vget (s.quad quad).tiles n .reset) ∧ readReg t (.accevict quad) = 0)) ∧
    (hart = quad / 28 → hart < 6 → (s.quad quad).evict = none → (tilesBusy s quad (bits64 v 0 16) = true ∨
        supHeld s (areaOf s (bits64 v 0 16) + tileOffset 0) (16 * 16896) = true) →
      Occurs (.accevict hart quad v) s (fun t => readReg t (.accevict quad) = 0x8000000000000000 ∧
        ∀ n, vget (t.quad quad).tiles n .reset = vget (s.quad quad).tiles n .reset)) ∧
    (Leader s hart → s.power.gate = true → bits64 v 58 2 = 0 → idle → id ≠ 0 → readBlob s 72 = .ok bs →
      Occurs (.keycmdLoadMemoryKey hart v) s (fun t => accepted t 0 ∧
        ∃ n, tabGet id t.hub.memKeys = some ⟨true, v.getLsbD 57, n, 0⟩ ∧ (bs, n) ∈ t.hub.blobs)) ∧
    (Leader s hart → bits64 v 58 2 = 1 → idle → id ≠ 0 → Occurs (.keycmdZeroiseMemoryKey hart v) s (fun t =>
      accepted t 0 ∧ tabGet id t.hub.memKeys = some ⟨false, false, s.hub.nextKey, 0⟩ ∧ t.hub.nextKey = s.hub.nextKey + 1)) ∧
    (Leader s hart → s.power.gate = true → bits64 v 58 2 = 2 → idle → readBlob s 40 = .ok bs →
      Occurs (.keycmdLoadNotifyKey hart v) s (fun t => accepted t 0 ∧
        ∃ n, tabGet id t.hub.notifyKeys = some ⟨true, v.getLsbD 57, n, BitVec.ofNat 256 (leNat bs)⟩)) ∧
    (Leader s hart → bits64 v 58 2 = 3 → idle → Occurs (.keycmdZeroiseNotifyKey hart v) s (fun t =>
      accepted t 0 ∧ ∃ n, tabGet id t.hub.notifyKeys = some ⟨false, false, n, 0⟩)) ∧
    (Leader s hart → bits64 v 58 2 = 1 → idle → id = 0 → Happens (.keycmdZeroiseMemoryKey hart v) s (keyResult s v 3)) ∧
    (∀ e, Leader s hart → s.power.gate = true → bits64 v 58 2 = 0 → idle → id ≠ 0 → readBlob s 72 = .error e →
      Happens (.keycmdLoadMemoryKey hart v) s (keyResult s v e)) ∧
    (∀ e, Leader s hart → s.power.gate = true → bits64 v 58 2 = 2 → idle → readBlob s 40 = .error e →
      Happens (.keycmdLoadNotifyKey hart v) s (keyResult s v e)) ∧
    (s.power.recovery = false → hart < 6 → vget s.hub.hartMode hart 0 = 1 → 4 ≤ i → i < 8 → Occurs (.measext hart i x) s (fun t =>
      vget t.hub.meas i 0 = sha384 (digestBytes (vget s.hub.meas i 0) ++ digestBytes x) ∧
      ∀ j, j ≠ i → vget t.hub.meas j 0 = vget s.hub.meas j 0)) ∧
    (s.power.recovery = false → hart < 6 → i < 4 ∨ vget s.hub.hartMode hart 0 ≠ 1 → Happens (.measext hart i x) s s) ∧
    (s.power.recovery = false → hart < 6 → s.power.gate = true → localPart v.toNat + 4096 ≤ hbmEnd → hitsLost s (localPart v.toNat) 512 = false →
      s.supRead (localPart v.toNat + 32) 240 = liveIdentity s →
      Occurs (.signcmd hart v) s (fun t => t.flash.recordSeq = s.flash.recordSeq + 1)) ∧
    (s.power.recovery = false → hart < 6 → Occurs (.flashMailboxRead hart) s (fun t =>
      let bytes := lifeBytes s.flash.life s.flash.retired
      t.hub.mailbox = some ⟨bytes, Config.signMailbox s.hub.attest (sha384 bytes)⟩))

/-- The registers of dies and of the leader, keys, measurements and records. -/
def Obligations.SupervisorRegistersAndKeys : Prop :=
  Claims.DieRegistersAndKeys ∧
  Claims.LeaderRegisters

/-- R274, R283, R299 to R301: what harts and peers do to memory: a load and a read give what the home die cache holds, a store and a write
change it, a request of no supported kind and a packet without a valid security header are dropped and counted, and a peer's request waits while the
gate is closed (R305). An access at or
above 16 B faults, since the spec backs it with nothing (R12). -/
def Obligations.HartsAndPeersReachMemoryAtItsHome : Prop :=
  ∀ (s : State) (die a n : Nat) (v : W64) (w : BitVec 2048) (op : BitVec 4) (r : FabricReq) (b c : Bool) (pl : UetPayload)
    (acc : HartAccess),
    let e := physElem s a 0
    let f := physElem s a 0x200
    let up := portOpen s 0 18 = true ∧ s.power.gate = true ∧ s.power.recovery = false
    (die < 6 → s.power.gate = true → Happens (.supervisorHartAccess die .fence) s s) ∧
    (die < 6 → s.power.gate = true → a + n ≤ hbmEnd → heldAway s e n = false →
      Occurs (.supervisorHartAccess die (.load a n)) s (fun t => vget t.hub.hartLoads die none = (s.homeRead .nobody e a n).2)) ∧
    (die < 6 → s.power.gate = true → a + n ≤ hbmEnd → writeWaits s e n = false →
      Happens (.supervisorHartAccess die (.store a n v)) s (hartStore s e (natBytes v.toNat n))) ∧
    (die < 6 → s.power.gate = true → hbmEnd < a + n →
      exec (.supervisorHartAccess die (.load a n)) s = .fault (.noSuchAddress a)) ∧
    (die < 6 → s.power.gate = true → acc = .lr a n ∨ acc = .sc a n v ∨ (acc = .amo a n op v ∧ op.toNat < 9) → (n = 4 ∨ n = 8) → a % n = 0 →
      a + n ≤ hbmEnd → writeWaits s e n = false → Happens (.supervisorHartAccess die acc) s (hartAccess s die e acc)) ∧
    (vget s.hub.resv die none ≠ some (a, n) → die < 6 → vget (hartAccess s die e (.sc a n v)).hub.hartLoads die none = some (natBytes 1 n) ∧
      (hartAccess s die e (.sc a n v)).mem = s.mem ∧ (hartAccess s die e (.sc a n v)).dcache = s.dcache) ∧
    (up → n ≤ 256 → a + n ≤ hbmEnd → heldAway s f n = false →
      let x := s.homeRead .nobody f a n
      Happens (.ualinkRequest (.read a n)) s (x.1.reply x.2)) ∧
    (up → n ≤ 256 → a + n ≤ hbmEnd → writeWaits s f n = false →
      Happens (.ualinkRequest (.write a n w)) s ((s.agentWrite f (natBytes w.toNat n)).reply (some []))) ∧
    (up → n = 4 ∨ n = 8 → op.toNat < 9 → a + n ≤ hbmEnd → writeWaits s f n = false →
      let x := s.atomic .nobody none f n (fun o => some (amoValue op n o (v.toNat % 2 ^ (8 * n))))
      Happens (.ualinkRequest (.atomic a n op v)) s (x.1.reply (x.2.map (fun o => natBytes o n)))) ∧
    (portOpen s 0 18 = true → s.power.recovery = false → reqSupported r = false → Happens (.ualinkRequest r) s s.countDropped) ∧
    (portOpen s 0 18 = true → s.power.recovery = false → s.power.gate = false → reqSupported r = true →
      (reqRange r).1 + (reqRange r).2 ≤ hbmEnd →
      Happens (.ualinkRequest r) s { s with hub := { s.hub with peerWaits := s.hub.peerWaits ++ [(r, s.time)] } }) ∧
    (b = false ∨ c = false → Happens (.uetPacket b c pl) s s.countDropped) ∧
    (∀ src msg, portOpen s 18 4 = true → s.power.gate = true → s.power.recovery = false →
      Happens (.uetPacket true true (.notify src msg)) s (remoteNotify s src msg)) ∧
    (portOpen s 18 4 = true → s.power.recovery = false → Happens (.uetPacket true true .other) s s)

/-! ## Events: coding groups -/

/-- The message is one that slot `i` handles at once (R264, R265): its group is configured, its sender is another live member whose next message
it is, and none waits for its turn; a JOIN also comes from a member that is not live. -/
def Sys2Proof.Claims.Heard (s : State) (i : Nat) (m : GroupMsg) (joins : Bool) : Prop :=
  s.power.gate = true ∧ linkUp s = true ∧ groupSlotOf s m = some i ∧ (s.group i).state ≠ .broken ∧ m.sender < (s.group i).n ∧
    m.sender ≠ (s.group i).self ∧ (s.group i).early = [] ∧
    ((vget (s.group i).live m.sender false = true ∧ m.seq = vget (s.group i).seqIn m.sender 0) ∨
     (joins = true ∧ vget (s.group i).live m.sender false = false))

/-- The slot after the receipt of a message: the sender has spoken, and its next number is expected. -/
def Sys2Proof.Claims.heard (s : State) (i : Nat) (m : GroupMsg) : State :=
  s.setGroup i { s.group i with
    seqIn := vset (s.group i).seqIn m.sender (m.seq + 1), silent := vset (s.group i).silent m.sender 0, early := [] }

/-- The rows that carry a group message, with their TYPEs. -/
def Sys2Proof.Claims.messageRows (m : GroupMsg) : List (Instr × Nat) :=
  [(.heartbeat m, 1), (.seal m, 2), (.delta m, 3), (.dack m, 4), (.prepared m, 5), (.abortreq m, 6), (.crec m, 7), (.crecack m, 8),
   (.commit m, 9), (.abort m, 10), (.loss m, 11), (.query m, 12), (.qreply m, 13), (.shreq m, 14), (.share m, 15)]

/-- R260 to R265, R270: what a member does with each message, in the state that its receipt leaves. One of no configured group is dropped
and counted; one of a member that is lost, or that is a duplicate, is dropped; one ahead of its sender's sequence waits, and so does one of the
round after the one that is still to be decided (the second is the model's choice, log 81). -/
def Obligations.GroupMessagesAreHandled : Prop :=
  ∀ (s : State) (i n : Nat) (m : GroupMsg) (j : JoinInfo) (r : Instr),
    let u := heard s i m
    let g := u.group i
    let live := otherLive g
    let here := m.round = headerRound u g
    let a := stagingAddr g (m.stripe.toNat / g.n) m.row
    let x := s.group i
    let heardOf := s.power.gate = true ∧ linkUp s = true
    let mine := heardOf ∧ groupSlotOf s m = some i ∧ x.state ≠ .broken ∧ m.sender < x.n ∧ m.sender ≠ x.self
    let waits := s.setGroup i { x with silent := vset x.silent m.sender 0, early := [(n, m)] }
    ((r, n) ∈ messageRows m → heardOf → groupSlotOf s m = none → Happens r s s.countDropped) ∧
    ((r, n) ∈ messageRows m → heardOf → groupSlotOf s m = some i →
      (vget x.live m.sender false = true ∧ (m.seq - vget x.seqIn m.sender 0).toInt < 0) ∨ x.state = .broken ∨ x.n ≤ m.sender ∨ m.sender = x.self →
      Happens r s s) ∧
    ((r, n) ∈ messageRows m → mine → vget x.live m.sender false = false →
      Happens r s (s.setGroup i { x with seqIn := vset x.seqIn m.sender (m.seq + 1) })) ∧
    ((r, n) ∈ messageRows m → mine → vget x.live m.sender false = true → x.early = [] →
      0 < (m.seq - vget x.seqIn m.sender 0).toInt → Happens r s waits) ∧
    ((r, n) ∈ messageRows m → Heard s i m false → nextRound s i n m = true → Happens r s waits) ∧
    (Heard s i m false → Happens (.heartbeat m) s u) ∧
    (Heard s i m false → x.abortDue = false → g.state = .opened → here → Happens (.seal m) s (enterSealing u i)) ∧
    (Heard s i m false → nextRound s i 3 m = false →
      let t := u.supWrite a (xorChunk (u.supRead a 64) (scaleChunk (if m.row = 0 then 1 else gfPow2 m.sender) (lineBytes m.payload)))
      Happens (.delta m) s (t.send i m.sender 4 { groupMsg t i with stripe := m.stripe, row := m.row })) ∧
    (Heard s i m false → Happens (.dack m) s (settleSeal (u.modGroup i (fun x => { x with acks := x.acks.erase m.sender })) i)) ∧
    (Heard s i m false → x.abortDue = false → here → m.sender ∉ g.prepared →
      Happens (.prepared m) s (settleDecide (u.modGroup i (fun x => { x with prepared := m.sender :: x.prepared })) i)) ∧
    (Heard s i m false → x.abortDue = false → here → Happens (.abortreq m) s (settleDecide (u.modGroup i (fun x => { x with ablock := true })) i)) ∧
    (Heard s i m false → nextRound s i 7 m = false → let t := u.recordCommit g m.round
      Happens (.crec m) s (t.send i m.sender 8 { groupMsg t i with round := m.round })) ∧
    (Heard s i m false → here → g.recording = some (n + 1) → m.sender ∈ g.recorders →
      let t := u.modGroup i (fun x =>
        { x with recording := some n, recorders := x.recorders.erase m.sender, answers := m.sender :: x.answers })
      Happens (.crecack m) s (if n = 0 then decide' t i true else t)) ∧
    (Heard s i m false → x.abortDue = false → here → g.state = .opened ∨ g.state = .sealing ∨ g.state = .prepared →
      Happens (.commit m) s (applyCommit u i) ∧ Happens (.abort m) s (applyAbort u i)) ∧
    (Heard s i m false → Happens (.loss m) s (if m.member = g.self then breakSlot u i else loseMember u i m.member)) ∧
    (Heard s i m false →
      Happens (.query m) s (u.send i m.sender 13 { groupMsg u i with round := m.round, held := hasCommit u g m.round })) ∧
    (Heard s i m false → g.queryRound = some m.round → m.held = true → Happens (.qreply m) s (decide' u i true)) ∧
    (Heard s i m false → g.queryRound = some m.round → m.held = false → (∀ x ∈ live, x = m.sender ∨ x ∈ g.answers) →
      Happens (.qreply m) s (decide' (u.setGroup i { g with answers := m.sender :: g.answers }) i false)) ∧
    (Heard s i m false → g.state = .recovering ∨ (g.state = .darning ∧ regionOfSlot g m.stripe.toNat ∈ g.darned) →
      Happens (.shreq m) s (u.send i m.sender 15
        { groupMsg u i with stripe := m.stripe, payload := ofChunk (ownChunk u g m.stripe.toNat) })) ∧
    (Heard s i m false → Happens (.share m) s (u.modGroup i (fun x =>
      { x with shares := x.shares ++ [(m.stripe.toNat, { member := m.sender, chunk := m.payload })] }))) ∧
    (Heard s i m true → m.join = some j → g.state = .forming → Happens (.join m) s (joinForming u i m j)) ∧
    (Heard s i m true → m.join = some j → g.state = .recovering ∨ g.state = .darning → Happens (.join m) s (joinRecovering u i m j))

/-- R253, R258, R262 to R264, R267, R269: a group is formed, joined as a standby, aborted or repaired by its supervisor; members send heartbeats
every 100 µs, and one that has been silent for HBTO is lost; a failed line is rebuilt from k members' shares. That ABRT
at a member that is no coordinator asks the coordinator for the abort is log 21's reading. -/
def Obligations.GroupsFormBeatAndRepair : Prop :=
  ∀ (s : State) (hart gi j line : Nat) (v : W64) (shares : List GroupShare),
    let g := s.group gi
    let y := (g.configure v).fresh
    let got := (shares.filter (fun x => x.member != g.self && decide (x.member < g.n))).map (fun x => (x.member, lineBytes x.chunk))
    let members := (List.range g.n).filter (fun q => got.any (fun x => x.1 == q))
    let on := g.state ≠ .idle ∧ g.state ≠ .forming ∧ g.state ≠ .broken
    (Leader s hart → s.power.gate = true → g.state = .idle → badConfig s y = false →
      Happens (.grpcfgForm hart gi v) s (((s.setGroup gi y).enterState gi .forming).sendJoin gi false (everyOther y))) ∧
    (Leader s hart → s.power.gate = true → g.state = .idle → badConfig s y = true →
      Happens (.grpcfgForm hart gi v) s ((s.setGroup gi y).irqLeader irqGroup)) ∧
    (let z := s.setGroup gi { y with live := vset y.live y.self true }
     Leader s hart → s.power.gate = true → g.state = .idle → badConfig s y = false →
      Happens (.grpcfgStby hart gi v) s ((z.enterState gi .darning).sendJoin gi false (everyOther y))) ∧
    (Leader s hart → s.power.gate = true → g.state = .sealing ∨ g.state = .prepared → coordinator g = g.self →
      hasCommit s g (headerRound s g) = false →
      Happens (.grpcfgAbrt hart gi v) s (settleDecide (s.setGroup gi { g with abrt := true }) gi)) ∧
    (Leader s hart → s.power.gate = true → g.state = .sealing ∨ g.state = .prepared → coordinator g ≠ g.self →
      Happens (.grpcfgAbrt hart gi v) s (settleSeal (s.setGroup gi { g with abreq := true }) gi)) ∧
    (Leader s hart → s.power.gate = true → g.state = .idle → v.getLsbD 58 = false → v.getLsbD 57 = false →
      Happens (.grpcfgAbrt hart gi v) s (s.setGroup gi (g.configure v))) ∧
    (Leader s hart → g.state = .idle →
      Happens (.grpmemWrite hart gi j v) s (s.setGroup gi { g with mem := vset g.mem j (v &&& 0x03FFFFFFFFFF0000) })) ∧
    (let kinds := fun (ms : List (Nat × BitVec 1024 × Option JoinInfo)) => ms.map (fun x => (x.1, x.2.1.toNat % 256))
     gi < 4 → on → g.beat + 100 ≤ s.us →
      Occurs (.heartbeatTimer gi) s (fun t => (t.group gi).beat = s.us ∧
        (linkUp s = true → g.unsent = [] → kinds (t.group gi).out = kinds g.out ++ (everyOther g).map (fun q => (q, 1))) ∧
        (linkUp s = false → (t.group gi).out = g.out ∧
          kinds (t.group gi).unsent = kinds g.unsent ++ (everyOther g).map (fun q => (q, 1))))) ∧
    (g.state ≠ .idle → g.state ≠ .broken → j ≠ g.self → vget g.live j false = true → g.hbto ≤ vget g.silent j 0 →
      Happens (.memberLoss gi j) s (loseMember
        (s.sendAll gi 11 { groupMsg s gi with member := j } (otherLive g)) gi j)) ∧
    (line < g.rcnt * 32768 → g.lockedStripe = some (stripeOf g g.self line) → g.k ≤ members.length →
      let t : State := { s with mem := s.mem.write (lineAddr s g line) (decodeStripe g (stripeOf g g.self line) got g.self),
                                lost := s.lost.filter (· != lineAddr s g line / 64) }
      Happens (.protectedLineRepair gi line shares) s (afterRepair (t.modGroup gi (fun h => { h with lockedStripe := lostStripe t gi })) gi))

/-- R254, R270: the code of a stripe. Any k of its chunks, data or parity, give back every data chunk. -/
def Obligations.AnyKChunksGiveBackTheStripe : Prop :=
  ∀ (g : GroupSlot) (o : Nat) (d : Nat → List Byte) (have' : List Nat), 2 ≤ g.k → g.k ≤ 14 → 1 ≤ g.m → g.m ≤ 2 →
    (∀ j, (d j).length = 64) → have'.Nodup → (∀ j ∈ have', j < g.n) → g.k ≤ have'.length →
    let chunk := fun (j : Nat) => match slotKind g j o with
      | none => d j
      | some r => parityRow g o r d
    ∀ j ∈ dataMembers g o, decodeStripe g o (have'.map (fun q => (q, chunk q))) j = d j

/-! ## Events: errors, resets and power -/

/-- R272 to R275, R279, R280: an uncorrectable error withholds the line that it strikes, a clean die-cache line is dropped, and a scratchpad word is
marked; the errors of a row that reaches RETCNT within the hour retire its frame; the replays of an audit decide it. That a clean
die-cache line is dropped and nothing is lost by it is log 63's reading. -/
def Obligations.ErrorsWithholdRecordAndRetire : Prop :=
  ∀ (s : State) (line cid a stack row core : Nat) (l : DieLine) (x : Ctx) (sig : W64) (clean : Bool) (au : AuditRun) (port : Nat),
    let ended (b : AuditRun) := (endReplay s b.task).modAudit b.task (fun c => { c with ended := none, runs := c.runs ++ [(core, sig, clean)] })
    let recent := (stack, row, s.us) :: s.hub.rowErrors.filter (fun e => decide (s.us < e.2.2 + 3600000000))
    let count := (recent.filter (fun e => e.1 == stack && e.2.1 == row)).length
    (64 * line < hbmEnd → findLine line s.dcache = none → s.power.gate = true →
      Happens (.uncorrectableError (.hbm line)) s (hbmError s line)) ∧
    (findLine line s.dcache = some l → Happens (.uncorrectableError (.dieCache line none)) s (cacheError s l .nobody none)) ∧
    (findLine line s.dcache = some l → l.dirty = false → (vget s.dies (ringDie s (homeDie (stackOf (64 * line)))) .reset).errBase = 0 →
      Occurs (.uncorrectableError (.dieCache line none)) s (fun t => t.lost = s.lost ∧ findLine line t.dcache = none)) ∧
    (s.ctxOf cid = some x → a < x.spSize → x.resident = true →
      Occurs (.uncorrectableError (.scratchpad cid a)) s (fun t => ∃ y, t.ctxOf cid = some y ∧ a / 4 ∈ y.spBad)) ∧
    (s.ctxOf cid = some x → a < 0x10000 → x.resident = true →
      Occurs (.uncorrectableError (.bobbin cid a)) s (fun t => ∃ y, t.ctxOf cid = some y ∧ a / 4 ∈ y.bmBad ∧
        y.bmem = x.bmem.write (a / 4 * 4) (abortBytes 4))) ∧
    (port < 30 → Happens (.uncorrectableError (.link port none)) s (s.reportError ((plainError 5 hubDie 0).by .nobody))) ∧
    (stack < 16 → row * 1024 < stackBytes → s.power.gate = true → count < bits64 s.hub.smpcfg 8 8 →
      Occurs (.correctableError stack row) s (fun t => t.hub.rowErrors = recent ∧ t.flash = s.flash ∧
        vget t.pending.life.corrected stack 0 = vget s.pending.life.corrected stack 0 + 1)) ∧
    (stack < 16 → row * 1024 < stackBytes → s.power.gate = true → bits64 s.hub.smpcfg 8 8 ≤ count →
      let at' := stack * stackBytes + row * 1024
      let u := (s.modLife (fun f => { f with corrected := vset f.corrected stack (vget f.corrected stack 0 + 1) })).modHub
        (fun h => { h with rowErrors := recent.filter (fun e => !(e.1 == stack && e.2.1 == row)) })
      Happens (.correctableError stack row) s
        (retireFrame (u.recordError { lineError u 10 (at' / 64) with va := 0 }) (at' / 4096))) ∧
    ((∀ q, frameLeaf s (a * 4096) = some q → ptePIN q.2.1.pte = false ∧ pteCC q.2.1.pte = false) → a ∈ (retireFrame s a).flash.retired) ∧
    (s.audits.find? (fun b => b.task == au.task) = some au → replayOutcome s au = some (core, sig, clean) → au.runs = [] → clean = true →
      sig = au.sig → Happens (.auditReplayEnd au.task sig core clean) s (closeAudit (ended au) au 0)) ∧
    (s.audits.find? (fun b => b.task == au.task) = some au → replayOutcome s au = some (core, sig, clean) → au.runs = [] →
      clean = false ∨ sig ≠ au.sig → Happens (.auditReplayEnd au.task sig core clean) s (mismatch (ended au) au.slots)) ∧
    (∀ first sig1 clean1, s.audits.find? (fun b => b.task == au.task) = some au → replayOutcome s au = some (core, sig, clean) →
      au.runs.head? = some (first, sig1, clean1) →
      (clean = true → sig = au.sig → Happens (.auditReplayEnd au.task sig core clean) s (suspect (closeAudit (ended au) au 1) first 8)) ∧
      (clean = true → clean1 = true → sig ≠ au.sig → sig = sig1 →
        Happens (.auditReplayEnd au.task sig core clean) s (suspect (closeAudit (ended au) au 2) au.core 8)) ∧
      (clean = false ∨ (sig ≠ au.sig ∧ (clean1 = false ∨ sig ≠ sig1)) →
        Happens (.auditReplayEnd au.task sig core clean) s
          (([au.core, first, core].foldl (fun t k => suspect t k 9) (closeAudit (ended au) au 3)).irqLeader irqAudit)))

/-- R281, R282, R291, R292, R303 to R305, R307, R309: power, resets and boot. A power-on reset and a cold reset clear volatile state and
leave LAST 0 and 1, a warm reset leaves 2, and the memory that its cleaned caches leave; flash keeps its records, with those that a merge
adds; the gate opens when TRAIN, KEYS and PTOK are set; outside 50 to 58 V, at 105 °C, and with the loss of power the module is off, and then
nothing but a power-on reset acts. The last is log 68's reading, and which commands a warm reset still runs is log 65's. -/
def Obligations.ResetsAndPowerActAsTheTablesSay : Prop :=
  ∀ (s : State) (hart port mv watts : Nat) (temps volts : List Nat) (full : W16) (est : W64),
    (Occurs .powerOnReset s (fun t => t.power.last = 0 ∧ t.power.on = true ∧ t.power.gate = false ∧ t.power.ptok = false ∧
      t.power.train = false ∧ t.power.keys = false ∧ t.mem = .empty ∧ t.cap = .empty ∧ t.dcache = [] ∧ t.others = [] ∧
      t.ctx = .reset ∧ t.tamb = .reset ∧ t.flash.life = s.flash.life ∧ t.flash.retired = s.flash.retired ∧
      vget t.hub.meas 0 0 = sha384 (digestBytes 0 ++ digestBytes s.flash.loader) ∧ vget t.hub.meas 4 0 = 0)) ∧
    (Leader s hart → Occurs (.rstctlColdReset hart) s (fun t => t.power.last = 1 ∧ t.power.gate = false ∧ t.power.ptok = false ∧
      t.power.train = false ∧ t.power.keys = false ∧ t.mem = .empty ∧ t.cap = .empty ∧ t.dcache = [] ∧ t.others = [] ∧ t.ctx = .reset ∧
      t.flash.life = s.flash.life.add s.pending.life ∧ t.flash.retired = s.flash.retired)) ∧
    (Leader s hart → s.pages.any isMoving = true → exec (.rstctlWarmReset hart) s = .next { s with verdict := .waited }) ∧
    (Leader s hart → s.pages.any isMoving = false → Occurs (.rstctlWarmReset hart) s (fun t => t.power.last = 2 ∧ t.power.gate = false ∧ t.power.ptok = false ∧
      t.power.train = false ∧ t.power.keys = false ∧ t.dcache = [] ∧ t.others = [] ∧ t.ctx = .reset ∧ t.tamb = .reset ∧
      t.mem = (flushAll (finishEngines s)).mem ∧ t.cap = (flushAll (finishEngines s)).cap)) ∧
    (Leader s hart → Happens (.rstctlPtok hart) s { s with power := { s.power with ptok := true } }) ∧
    (s.power.train = false → (s.power.last ≠ 2 ∨ ∀ k < 16, ∀ x y, vget s.power.trained k none = some x →
        vget s.power.temps (homeDie k) none = some y → full.getLsbD k = decide (x + 10 < y ∨ y + 10 < x)) →
      Occurs (.phyTrainingComplete full) s (fun t => t.power.train = true ∧ t.power.keys = true ∧ t.power.full = full)) ∧
    (∀ k x y, s.power.train = false → s.power.last = 2 → k < 16 → vget s.power.trained k none = some x →
        vget s.power.temps (homeDie k) none = some y → full.getLsbD k ≠ decide (x + 10 < y ∨ y + 10 < x) →
      exec (.phyTrainingComplete full) s = .next { s with verdict := .waited }) ∧
    (s.power.gate = false → s.power.train = true → s.power.keys = true → s.power.ptok = true →
      Happens .memoryGateOpen s { s with power := { s.power with gate := true } }) ∧
    (s.power.train = false ∨ s.power.keys = false ∨ s.power.ptok = false → exec .memoryGateOpen s = .next { s with verdict := .waited }) ∧
    (port < 30 → Occurs (.linkTrainingComplete port) s (fun t => tabGet port t.power.links = some false)) ∧
    (mv < 50000 ∨ 58000 < mv → Occurs (.powerInputOutOfRange mv) s (fun t => t.power.on = false ∧ t.mem = .empty ∧ t.flash = s.flash)) ∧
    (Occurs .powerLoss s (fun t => t.power.on = false ∧ t.mem = .empty ∧ t.flash = s.flash)) ∧
    (s.power.sampled + 100 ≤ s.us → temps.length = 7 → volts.length = 6 → (∀ x ∈ temps, x < 105) →
      Occurs (.thermalSample watts temps volts) s (fun t => t.power.sampled = s.us ∧ t.power.clockSteps =
        if 4400 < watts ∨ (∃ x ∈ temps, 95 < x) then min 6 (s.power.clockSteps + 1) else s.power.clockSteps - 1)) ∧
    (s.power.sampled + 100 ≤ s.us → temps.length = 7 → volts.length = 6 → (∃ x ∈ temps, 105 ≤ x) →
      Occurs (.thermalSample watts temps volts) s (fun t => t.power.on = false)) ∧
    (∀ rest i, s.power.on = false → s.plan = [] → s.schedule = .row i :: rest → i ≠ .powerOnReset →
      step s = .next { s with schedule := rest, verdict := .waited }) ∧
    (s.pending.since + 900000000 ≤ s.us → Occurs .lifetimeMerge s (fun t =>
      t.flash.life = s.flash.life.add s.pending.life ∧ t.pending = ⟨.zero, s.us⟩ ∧ t.mem = s.mem)) ∧
    (s.power.estimated + 3600000000 ≤ s.us → bits64 est 0 4 ≤ 4 →
      Occurs (.lifeEstimate est) s (fun t => t.hub.lifeest = est &&& 0xFFFFFFFFFFFF000F ∧ t.power.estimated = s.us))
/-! ## Words and whole-machine rules -/

/-- R86 to R93: words that the spec writes out, one or two of each family of encodings, are the instructions that they stand for. -/
def Obligations.WrittenWordsDecodeToTheirInstructions : Prop :=
  decode .V [0x10, 0x8C, 0x23, 0x08] = .ok (.vfma false 4 1 2 3, []) ∧
  decode .A [0xBD, 0x0C] = .ok (.addi16 false 5 (-3), []) ∧
  decode .V [0x40, 0xA0, 0x40, 0x00] = .ok (.vspill false 16 0 true, []) ∧
  decode .A [0x32, 0x82, 0x38, 0x7F] = .ok (.addi false 3 4 (-200), []) ∧
  decode .A [0xA9, 0x08] = .ok (.add16 false 5 9, []) ∧
  decode .A [0x09, 0xBA, 0xE8, 0xFF] = .ok (.brc false 0 4 (-24), []) ∧
  decode .M [0xD4, 0x3C] = .ok (.bgive16 false 5, []) ∧
  decode .A [0x53, 0x88, 0x02, 0x68] = .ok (.ld false 5 6 5 0 2, []) ∧
  decode .A [0x52, 0x92, 0x32, 0x98] = .ok (.amo false 2 true 5 6 0 true 2 2, []) ∧
  decode .A [0x64, 0x94, 0x3B, 0x3A] = .ok (.cas false 3 4 7 8 true 3 3, []) ∧
  decode .S [0x62, 0x8A, 0x40, 0x62] = .ok (.stsc false 3 1 6 0 2 2 false, []) ∧
  decode .M [0x44, 0x8C, 0x91, 0x29] = .ok (.adrain false 2 4 5 6 2 1, []) ∧
  decode .A [0x02, 0x98, 0xC1, 0x14] = .ok (.shgo false 4 5 6 true, []) ∧
  decode .A [0x22, 0x9A, 0xD0, 0x14] = .ok (.rowlog false 4 5 6 4 0, []) ∧
  decode .A [0x34, 0x9C, 0xC2, 0x00] = .ok (.nbread false 8 6 2, []) ∧
  decode .A [0x22, 0x9E, 0xC0, 0x14] = .ok (.darn false 4 5 6, []) ∧
  decode .A [0x12, 0xA0, 0xC0, 0x14] = .ok (.enq false 4 5 6, []) ∧
  decode .A [0x30, 0xF4, 0x00, 0x00] = .ok (.tret true, []) ∧
  decode .A [0x00, 0x00] = .error .reservedOpcode

/-- R284: no instruction of a task reaches what belongs to the supervisor: the registers of the hub die, but for the registered pod hoops at
which it may arrive (R43), the interrupts of errors that its accesses meet (R272) and the reservations of harts that its stores end (R283), flash,
reset and power, the roots of the page tables, and the two clocks. -/
def Obligations.NoTaskInstructionReachesTheSupervisor : Prop :=
  ∀ (s t : State) (i : Instr), wordBytes i ≠ 0 → exec i s = .next t →
    ({ t.hub with podHoops := s.hub.podHoops, irqs := s.hub.irqs, resv := s.hub.resv } : Hub) = s.hub ∧ t.flash = s.flash ∧
    t.power = s.power ∧ t.roots = s.roots ∧ t.now = s.now ∧ t.us = s.us
end

