-- ==== Sys2Proof/Laws/Dispatch.lean ====
section
/-! SUPPORT. The arms of `exec`, one equation per constructor of `Instr`, each by `rfl`. -/

namespace Sys2Proof.Laws

open Sys2Proof.Machine

theorem exec_accfill {st n} {s : State} :
    exec (.accfill st n) s = execAccfill st n s := rfl
theorem exec_accspill {st n} {s : State} :
    exec (.accspill st n) s = execAccspill st n s := rfl
theorem exec_accz {st n} {s : State} :
    exec (.accz st n) s = execAccz st n s := rfl
theorem exec_aclaim {st n} {s : State} :
    exec (.aclaim st n) s = execAclaim st n s := rfl
theorem exec_add {st rd rs1 rs2} {s : State} :
    exec (.add st rd rs1 rs2) s = execAdd st rd rs1 rs2 s := rfl
theorem exec_add16 {st rd rs} {s : State} :
    exec (.add16 st rd rs) s = execAdd16 st rd rs s := rfl
theorem exec_addi {st rd rs1 imm} {s : State} :
    exec (.addi st rd rs1 imm) s = execAddi st rd rs1 imm s := rfl
theorem exec_addi16 {st rd imm} {s : State} :
    exec (.addi16 st rd imm) s = execAddi16 st rd imm s := rfl
theorem exec_adrain {st n ma mb mc scope ty} {s : State} :
    exec (.adrain st n ma mb mc scope ty) s = execAdrain st n ma mb mc scope ty s := rfl
theorem exec_afree {st n} {s : State} :
    exec (.afree st n) s = execAfree st n s := rfl
theorem exec_amo {st b ret base rs op w ord scope} {s : State} :
    exec (.amo st b ret base rs op w ord scope) s = execAmo st b ret base rs op w ord scope s := rfl
theorem exec_and {st rd rs1 rs2} {s : State} :
    exec (.and st rd rs1 rs2) s = execAnd st rd rs1 rs2 s := rfl
theorem exec_andn {st rd rs1 rs2} {s : State} :
    exec (.andn st rd rs1 rs2) s = execAndn st rd rs1 rs2 s := rfl
theorem exec_bgive {st b n1} {s : State} :
    exec (.bgive st b n1) s = execBgive st b n1 s := rfl
theorem exec_bgive16 {st b} {s : State} :
    exec (.bgive16 st b) s = execBgive16 st b s := rfl
theorem exec_blk {st len rep rsrc stg pre} {s : State} :
    exec (.blk st len rep rsrc stg pre) s = execBlk st len rep rsrc stg pre s := rfl
theorem exec_br {st off} {s : State} :
    exec (.br st off) s = execBr st off s := rfl
theorem exec_brb {st b off} {s : State} :
    exec (.brb st b off) s = execBrb st b off s := rfl
theorem exec_brc {st cond reg off} {s : State} :
    exec (.brc st cond reg off) s = execBrc st cond reg off s := rfl
theorem exec_brk {st imm} {s : State} :
    exec (.brk st imm) s = execBrk st imm s := rfl
theorem exec_bstat {st b reg} {s : State} :
    exec (.bstat st b reg) s = execBstat st b reg s := rfl
theorem exec_btake {st b n1 r reg} {s : State} :
    exec (.btake st b n1 r reg) s = execBtake st b n1 r reg s := rfl
theorem exec_btake16 {st b} {s : State} :
    exec (.btake16 st b) s = execBtake16 st b s := rfl
theorem exec_cas {st b base new exp w ord scope} {s : State} :
    exec (.cas st b base new exp w ord scope) s = execCas st b base new exp w ord scope s := rfl
theorem exec_chkerr {st reg} {s : State} :
    exec (.chkerr st reg) s = execChkerr st reg s := rfl
theorem exec_clz {st rd rs1} {s : State} :
    exec (.clz st rd rs1) s = execClz st rd rs1 s := rfl
theorem exec_cmp {st rd rs1 rs2 cond} {s : State} :
    exec (.cmp st rd rs1 rs2 cond) s = execCmp st rd rs1 rs2 cond s := rfl
theorem exec_darn {st ra rb rc} {s : State} :
    exec (.darn st ra rb rc) s = execDarn st ra rb rc s := rfl
theorem exec_div {st rd rs1 rs2 u} {s : State} :
    exec (.div st rd rs1 rs2 u) s = execDiv st rd rs1 rs2 u s := rfl
theorem exec_enq {st ra rb rc} {s : State} :
    exec (.enq st ra rb rc) s = execEnq st ra rb rc s := rfl
theorem exec_fence {st scope} {s : State} :
    exec (.fence st scope) s = execFence st scope s := rfl
theorem exec_flset {st f v} {s : State} :
    exec (.flset st f v) s = execFlset st f v s := rfl
theorem exec_flsetSet16 {st f} {s : State} :
    exec (.flsetSet16 st f) s = execFlsetSet16 st f s := rfl
theorem exec_flsetClear16 {st f} {s : State} :
    exec (.flsetClear16 st f) s = execFlsetClear16 st f s := rfl
theorem exec_flwait {st f clr} {s : State} :
    exec (.flwait st f clr) s = execFlwait st f clr s := rfl
theorem exec_flwait16 {st f} {s : State} :
    exec (.flwait16 st f) s = execFlwait16 st f s := rfl
theorem exec_flwaitClr16 {st f} {s : State} :
    exec (.flwaitClr16 st f) s = execFlwaitClr16 st f s := rfl
theorem exec_fwq {st ma} {s : State} :
    exec (.fwq st ma) s = execFwq st ma s := rfl
theorem exec_getsr {st reg num} {s : State} :
    exec (.getsr st reg num) s = execGetsr st reg num s := rfl
theorem exec_halt {st} {s : State} :
    exec (.halt st) s = execHalt st s := rfl
theorem exec_halt16 {st} {s : State} :
    exec (.halt16 st) s = execHalt16 st s := rfl
theorem exec_harrive {st h leave} {s : State} :
    exec (.harrive st h leave) s = execHarrive st h leave s := rfl
theorem exec_hwait {st h} {s : State} :
    exec (.hwait st h) s = execHwait st h s := rfl
theorem exec_knot {st} {s : State} :
    exec (.knot st) s = execKnot st s := rfl
theorem exec_ld {st rd base sz cls off} {s : State} :
    exec (.ld st rd base sz cls off) s = execLd st rd base sz cls off s := rfl
theorem exec_ldb {st b base sp sz cls off} {s : State} :
    exec (.ldb st b base sp sz cls off) s = execLdb st b base sp sz cls off s := rfl
theorem exec_ldbOrdered {st b base sz cls ord scope} {s : State} :
    exec (.ldbOrdered st b base sz cls ord scope) s = execLdbOrdered st b base sz cls ord scope s := rfl
theorem exec_ldg {st bd bi base cls esz sh sp} {s : State} :
    exec (.ldg st bd bi base cls esz sh sp) s = execLdg st bd bi base cls esz sh sp s := rfl
theorem exec_ldlit {st rd off} {s : State} :
    exec (.ldlit st rd off) s = execLdlit st rd off s := rfl
theorem exec_lease {st ma f} {s : State} :
    exec (.lease st ma f) s = execLease st ma f s := rfl
theorem exec_lfree {st} {s : State} :
    exec (.lfree st) s = execLfree st s := rfl
theorem exec_lhint {st ra rb rc} {s : State} :
    exec (.lhint st ra rb rc) s = execLhint st ra rb rc s := rfl
theorem exec_li {st rd imm} {s : State} :
    exec (.li st rd imm) s = execLi st rd imm s := rfl
theorem exec_li16 {st rd imm} {s : State} :
    exec (.li16 st rd imm) s = execLi16 st rd imm s := rfl
theorem exec_lih {st rd h imm} {s : State} :
    exec (.lih st rd h imm) s = execLih st rd h imm s := rfl
theorem exec_lsflag {st ma clr sum n} {s : State} :
    exec (.lsflag st ma clr sum n) s = execLsflag st ma clr sum n s := rfl
theorem exec_max {st rd rs1 rs2 u} {s : State} :
    exec (.max st rd rs1 rs2 u) s = execMax st rd rs1 rs2 u s := rfl
theorem exec_min {st rd rs1 rs2 u} {s : State} :
    exec (.min st rd rs1 rs2 u) s = execMin st rd rs1 rs2 u s := rfl
theorem exec_mma {st n xa xb z} {s : State} :
    exec (.mma st n xa xb z) s = execMma st n xa xb z s := rfl
theorem exec_mov {st rd rs1} {s : State} :
    exec (.mov st rd rs1) s = execMov st rd rs1 s := rfl
theorem exec_mov16 {st rd rs} {s : State} :
    exec (.mov16 st rd rs) s = execMov16 st rd rs s := rfl
theorem exec_mul {st rd rs1 rs2} {s : State} :
    exec (.mul st rd rs1 rs2) s = execMul st rd rs1 rs2 s := rfl
theorem exec_mulh {st rd rs1 rs2 u} {s : State} :
    exec (.mulh st rd rs1 rs2 u) s = execMulh st rd rs1 rs2 u s := rfl
theorem exec_nbenter {st ra rc} {s : State} :
    exec (.nbenter st ra rc) s = execNbenter st ra rc s := rfl
theorem exec_nbexit {st ra rc} {s : State} :
    exec (.nbexit st ra rc) s = execNbexit st ra rc s := rfl
theorem exec_nbload {st ra rb rc} {s : State} :
    exec (.nbload st ra rb rc) s = execNbload st ra rb rc s := rfl
theorem exec_nbmac {st ra rc h} {s : State} :
    exec (.nbmac st ra rc h) s = execNbmac st ra rc h s := rfl
theorem exec_nbread {st ra rc b} {s : State} :
    exec (.nbread st ra rc b) s = execNbread st ra rc b s := rfl
theorem exec_nop {st} {s : State} :
    exec (.nop st) s = execNop st s := rfl
theorem exec_nop16 {st} {s : State} :
    exec (.nop16 st) s = execNop16 st s := rfl
theorem exec_or {st rd rs1 rs2} {s : State} :
    exec (.or st rd rs1 rs2) s = execOr st rd rs1 rs2 s := rfl
theorem exec_pcnt {st d pa} {s : State} :
    exec (.pcnt st d pa) s = execPcnt st d pa s := rfl
theorem exec_pfirst {st d pa} {s : State} :
    exec (.pfirst st d pa) s = execPfirst st d pa s := rfl
theorem exec_plog {st pd pa pb op} {s : State} :
    exec (.plog st pd pa pb op) s = execPlog st pd pa pb op s := rfl
theorem exec_popc {st rd rs1} {s : State} :
    exec (.popc st rd rs1) s = execPopc st rd rs1 s := rfl
theorem exec_ppack {st d g} {s : State} :
    exec (.ppack st d g) s = execPpack st d g s := rfl
theorem exec_probe {st rd ra t off} {s : State} :
    exec (.probe st rd ra t off) s = execProbe st rd ra t off s := rfl
theorem exec_probeCfg {st ra t} {s : State} :
    exec (.probeCfg st ra t) s = execProbeCfg st ra t s := rfl
theorem exec_prot {st ra rb rc set} {s : State} :
    exec (.prot st ra rb rc set) s = execProt st ra rb rc set s := rfl
theorem exec_pset {st pd n} {s : State} :
    exec (.pset st pd n) s = execPset st pd n s := rfl
theorem exec_punpk {st a g} {s : State} :
    exec (.punpk st a g) s = execPunpk st a g s := rfl
theorem exec_recfl {st ra} {s : State} :
    exec (.recfl st ra) s = execRecfl st ra s := rfl
theorem exec_rem {st rd rs1 rs2 u} {s : State} :
    exec (.rem st rd rs1 rs2 u) s = execRem st rd rs1 rs2 u s := rfl
theorem exec_rndend {st ra rc} {s : State} :
    exec (.rndend st ra rc) s = execRndend st ra rc s := rfl
theorem exec_rowcp {st ra rb rc n1} {s : State} :
    exec (.rowcp st ra rb rc n1) s = execRowcp st ra rb rc n1 s := rfl
theorem exec_rowfill {st ra rb rc n1} {s : State} :
    exec (.rowfill st ra rb rc n1) s = execRowfill st ra rb rc n1 s := rfl
theorem exec_rowlog {st ra rb rc op n1} {s : State} :
    exec (.rowlog st ra rb rc op n1) s = execRowlog st ra rb rc op n1 s := rfl
theorem exec_sclaim {st n} {s : State} :
    exec (.sclaim st n) s = execSclaim st n s := rfl
theorem exec_sel {st rd rs1 rs2 rc} {s : State} :
    exec (.sel st rd rs1 rs2 rc) s = execSel st rd rs1 rs2 rc s := rfl
theorem exec_setsr {st reg num} {s : State} :
    exec (.setsr st reg num) s = execSetsr st reg num s := rfl
theorem exec_sfree {st n} {s : State} :
    exec (.sfree st n) s = execSfree st n s := rfl
theorem exec_shgo {st ra rb rc ch} {s : State} :
    exec (.shgo st ra rb rc ch) s = execShgo st ra rb rc ch s := rfl
theorem exec_shl {st rd rs1 rs2} {s : State} :
    exec (.shl st rd rs1 rs2) s = execShl st rd rs1 rs2 s := rfl
theorem exec_shr {st rd rs1 rs2} {s : State} :
    exec (.shr st rd rs1 rs2) s = execShr st rd rs1 rs2 s := rfl
theorem exec_shwm {st ch rd} {s : State} :
    exec (.shwm st ch rd) s = execShwm st ch rd s := rfl
theorem exec_signal {st ra rb} {s : State} :
    exec (.signal st ra rb) s = execSignal st ra rb s := rfl
theorem exec_sra {st rd rs1 rs2} {s : State} :
    exec (.sra st rd rs1 rs2) s = execSra st rd rs1 rs2 s := rfl
theorem exec_st {st rd base sp sz cls off} {s : State} :
    exec (.st st rd base sp sz cls off) s = execSt st rd base sp sz cls off s := rfl
theorem exec_stOrdered {st rd base sz cls ord scope} {s : State} :
    exec (.stOrdered st rd base sz cls ord scope) s = execStOrdered st rd base sz cls ord scope s := rfl
theorem exec_stb {st b base sp cls off} {s : State} :
    exec (.stb st b base sp cls off) s = execStb st b base sp cls off s := rfl
theorem exec_stbOrdered {st b base cls ord scope} {s : State} :
    exec (.stbOrdered st b base cls ord scope) s = execStbOrdered st b base cls ord scope s := rfl
theorem exec_stsc {st bd bi base cls esz sh sp} {s : State} :
    exec (.stsc st bd bi base cls esz sh sp) s = execStsc st bd bi base cls esz sh sp s := rfl
theorem exec_sub {st rd rs1 rs2} {s : State} :
    exec (.sub st rd rs1 rs2) s = execSub st rd rs1 rs2 s := rfl
theorem exec_sub16 {st rd rs} {s : State} :
    exec (.sub16 st rd rs) s = execSub16 st rd rs s := rfl
theorem exec_trap {st imm} {s : State} :
    exec (.trap st imm) s = execTrap st imm s := rfl
theorem exec_tret {st} {s : State} :
    exec (.tret st) s = execTret st s := rfl
theorem exec_vadd {st d a b m} {s : State} :
    exec (.vadd st d a b m) s = execVadd st d a b m s := rfl
theorem exec_vbcast {st d a n m} {s : State} :
    exec (.vbcast st d a n m) s = execVbcast st d a n m s := rfl
theorem exec_vcmp {st d a b m cond} {s : State} :
    exec (.vcmp st d a b m cond) s = execVcmp st d a b m cond s := rfl
theorem exec_vcvt {st d a dty sty part m} {s : State} :
    exec (.vcvt st d a dty sty part m) s = execVcvt st d a dty sty part m s := rfl
theorem exec_vfabs {st d a m} {s : State} :
    exec (.vfabs st d a m) s = execVfabs st d a m s := rfl
theorem exec_vfadd {st d a b m} {s : State} :
    exec (.vfadd st d a b m) s = execVfadd st d a b m s := rfl
theorem exec_vfclass {st d a m} {s : State} :
    exec (.vfclass st d a m) s = execVfclass st d a m s := rfl
theorem exec_vfcmp {st d a b m cond} {s : State} :
    exec (.vfcmp st d a b m cond) s = execVfcmp st d a b m cond s := rfl
theorem exec_vfdiv {st d a b m} {s : State} :
    exec (.vfdiv st d a b m) s = execVfdiv st d a b m s := rfl
theorem exec_vfexp2 {st d a m} {s : State} :
    exec (.vfexp2 st d a m) s = execVfexp2 st d a m s := rfl
theorem exec_vfill {st r slot p} {s : State} :
    exec (.vfill st r slot p) s = execVfill st r slot p s := rfl
theorem exec_vflog2 {st d a m} {s : State} :
    exec (.vflog2 st d a m) s = execVflog2 st d a m s := rfl
theorem exec_vfma {st d a b c} {s : State} :
    exec (.vfma st d a b c) s = execVfma st d a b c s := rfl
theorem exec_vfmax {st d a b m} {s : State} :
    exec (.vfmax st d a b m) s = execVfmax st d a b m s := rfl
theorem exec_vfmin {st d a b m} {s : State} :
    exec (.vfmin st d a b m) s = execVfmin st d a b m s := rfl
theorem exec_vfmul {st d a b m} {s : State} :
    exec (.vfmul st d a b m) s = execVfmul st d a b m s := rfl
theorem exec_vfnma {st d a b c} {s : State} :
    exec (.vfnma st d a b c) s = execVfnma st d a b c s := rfl
theorem exec_vfrcp {st d a m} {s : State} :
    exec (.vfrcp st d a m) s = execVfrcp st d a m s := rfl
theorem exec_vfsh {st d a b c} {s : State} :
    exec (.vfsh st d a b c) s = execVfsh st d a b c s := rfl
theorem exec_vfsqrt {st d a m} {s : State} :
    exec (.vfsqrt st d a m) s = execVfsqrt st d a m s := rfl
theorem exec_vfsub {st d a b m} {s : State} :
    exec (.vfsub st d a b m) s = execVfsub st d a b m s := rfl
theorem exec_vgfma {st d a b c} {s : State} :
    exec (.vgfma st d a b c) s = execVgfma st d a b c s := rfl
theorem exec_vgfmul {st d a b m} {s : State} :
    exec (.vgfmul st d a b m) s = execVgfmul st d a b m s := rfl
theorem exec_vlog3 {st d a b tt} {s : State} :
    exec (.vlog3 st d a b tt) s = execVlog3 st d a b tt s := rfl
theorem exec_vmaxS32 {st d a b m} {s : State} :
    exec (.vmaxS32 st d a b m) s = execVmaxS32 st d a b m s := rfl
theorem exec_vmaxN32 {st d a b m} {s : State} :
    exec (.vmaxN32 st d a b m) s = execVmaxN32 st d a b m s := rfl
theorem exec_vminS32 {st d a b m} {s : State} :
    exec (.vminS32 st d a b m) s = execVminS32 st d a b m s := rfl
theorem exec_vminN32 {st d a b m} {s : State} :
    exec (.vminN32 st d a b m) s = execVminN32 st d a b m s := rfl
theorem exec_vmov {st d a m} {s : State} :
    exec (.vmov st d a m) s = execVmov st d a m s := rfl
theorem exec_vmul {st d a b m} {s : State} :
    exec (.vmul st d a b m) s = execVmul st d a b m s := rfl
theorem exec_vpack {st d a b w m} {s : State} :
    exec (.vpack st d a b w m) s = execVpack st d a b w m s := rfl
theorem exec_vperm {st d a b m} {s : State} :
    exec (.vperm st d a b m) s = execVperm st d a b m s := rfl
theorem exec_vpopc {st d a m} {s : State} :
    exec (.vpopc st d a m) s = execVpopc st d a m s := rfl
theorem exec_vred {st d a m op} {s : State} :
    exec (.vred st d a m op) s = execVred st d a m op s := rfl
theorem exec_vsel {st d a b c} {s : State} :
    exec (.vsel st d a b c) s = execVsel st d a b c s := rfl
theorem exec_vsetl {st n} {s : State} :
    exec (.vsetl st n) s = execVsetl st n s := rfl
theorem exec_vshl {st d a b m} {s : State} :
    exec (.vshl st d a b m) s = execVshl st d a b m s := rfl
theorem exec_vshr {st d a b m} {s : State} :
    exec (.vshr st d a b m) s = execVshr st d a b m s := rfl
theorem exec_vslideUp {st d a n m} {s : State} :
    exec (.vslideUp st d a n m) s = execVslideUp st d a n m s := rfl
theorem exec_vslideDown {st d a n m} {s : State} :
    exec (.vslideDown st d a n m) s = execVslideDown st d a n m s := rfl
theorem exec_vspill {st r slot p} {s : State} :
    exec (.vspill st r slot p) s = execVspill st r slot p s := rfl
theorem exec_vsra {st d a b m} {s : State} :
    exec (.vsra st d a b m) s = execVsra st d a b m s := rfl
theorem exec_vsub {st d a b m} {s : State} :
    exec (.vsub st d a b m) s = execVsub st d a b m s := rfl
theorem exec_vunpk {st d a k w m} {s : State} :
    exec (.vunpk st d a k w m) s = execVunpk st d a k w m s := rfl
theorem exec_xcall {st off} {s : State} :
    exec (.xcall st off) s = execXcall st off s := rfl
theorem exec_xret {st} {s : State} :
    exec (.xret st) s = execXret st s := rfl
theorem exec_xor {st rd rs1 rs2} {s : State} :
    exec (.xor st rd rs1 rs2) s = execXor st rd rs1 rs2 s := rfl
theorem exec_engineWait {cid} {s : State} :
    exec (.engineWait cid) s = execEngineWait cid s := rfl
theorem exec_contextSwitch {core} {s : State} :
    exec (.contextSwitch core) s = execContextSwitch core s := rfl
theorem exec_hoopNotification {cid hoop} {s : State} :
    exec (.hoopNotification cid hoop) s = execHoopNotification cid hoop s := rfl
theorem exec_taskRetirement {cid} {s : State} :
    exec (.taskRetirement cid) s = execTaskRetirement cid s := rfl
theorem exec_gangTermination {gang} {s : State} :
    exec (.gangTermination gang) s = execGangTermination gang s := rfl
theorem exec_preemptionRequest {gang} {s : State} :
    exec (.preemptionRequest gang) s = execPreemptionRequest gang s := rfl
theorem exec_forcedStop {gang} {s : State} :
    exec (.forcedStop gang) s = execForcedStop gang s := rfl
theorem exec_contextStop {cid} {s : State} :
    exec (.contextStop cid) s = execContextStop cid s := rfl
theorem exec_contextResumption {cid} {s : State} :
    exec (.contextResumption cid) s = execContextResumption cid s := rfl
theorem exec_engineFaultDelivery {cid} {s : State} :
    exec (.engineFaultDelivery cid) s = execEngineFaultDelivery cid s := rfl
theorem exec_tileCommandExecution {quad} {s : State} :
    exec (.tileCommandExecution quad) s = execTileCommandExecution quad s := rfl
theorem exec_shuttleCommandBegin {cid ch} {s : State} :
    exec (.shuttleCommandBegin cid ch) s = execShuttleCommandBegin cid ch s := rfl
theorem exec_shuttleCompletion {cid ch} {s : State} :
    exec (.shuttleCompletion cid ch) s = execShuttleCompletion cid ch s := rfl
theorem exec_cutworkExecution {cid} {s : State} :
    exec (.cutworkExecution cid) s = execCutworkExecution cid s := rfl
theorem exec_couchingExecution {cid} {s : State} :
    exec (.couchingExecution cid) s = execCouchingExecution cid s := rfl
theorem exec_queueEngineExecution {cid} {s : State} :
    exec (.queueEngineExecution cid) s = execQueueEngineExecution cid s := rfl
theorem exec_footsideExecution {cid} {s : State} :
    exec (.footsideExecution cid) s = execFootsideExecution cid s := rfl
theorem exec_darningStripe {cid} {s : State} :
    exec (.darningStripe cid) s = execDarningStripe cid s := rfl
theorem exec_placementBoundary {interval} {s : State} :
    exec (.placementBoundary interval) s = execPlacementBoundary interval s := rfl
theorem exec_pageMigration {page frame} {s : State} :
    exec (.pageMigration page frame) s = execPageMigration page frame s := rfl
theorem exec_evictionStart {stack} {s : State} :
    exec (.evictionStart stack) s = execEvictionStart stack s := rfl
theorem exec_pageEviction {page capPage} {s : State} :
    exec (.pageEviction page capPage) s = execPageEviction page capPage s := rfl
theorem exec_chainDemotion {chain} {s : State} :
    exec (.chainDemotion chain) s = execChainDemotion chain s := rfl
theorem exec_launch {slot} {s : State} :
    exec (.launch slot) s = execLaunch slot s := rfl
theorem exec_gangPlacement {slot} {s : State} :
    exec (.gangPlacement slot) s = execGangPlacement slot s := rfl
theorem exec_gangReserving {slot} {s : State} :
    exec (.gangReserving slot) s = execGangReserving slot s := rfl
theorem exec_waitsig {slot} {s : State} :
    exec (.waitsig slot) s = execWaitsig slot s := rfl
theorem exec_setsig {slot} {s : State} :
    exec (.setsig slot) s = execSetsig slot s := rfl
theorem exec_mark {slot} {s : State} :
    exec (.mark slot) s = execMark slot s := rfl
theorem exec_nopPacket {slot} {s : State} :
    exec (.nopPacket slot) s = execNopPacket slot s := rfl
theorem exec_packetReject {slot} {s : State} :
    exec (.packetReject slot) s = execPacketReject slot s := rfl
theorem exec_priorityAging {slot} {s : State} :
    exec (.priorityAging slot) s = execPriorityAging slot s := rfl
theorem exec_faultHoldExpiry {slot} {s : State} :
    exec (.faultHoldExpiry slot) s = execFaultHoldExpiry slot s := rfl
theorem exec_qnotify {hart v} {s : State} :
    exec (.qnotify hart v) s = execQnotify hart v s := rfl
theorem exec_remoteNotify {src msg} {s : State} :
    exec (.remoteNotify src msg) s = execRemoteNotify src msg s := rfl
theorem exec_nqclr {hart qid peer} {s : State} :
    exec (.nqclr hart qid peer) s = execNqclr hart qid peer s := rfl
theorem exec_qmapcmdMap {hart v} {s : State} :
    exec (.qmapcmdMap hart v) s = execQmapcmdMap hart v s := rfl
theorem exec_qmapcmdUnmap {hart v} {s : State} :
    exec (.qmapcmdUnmap hart v) s = execQmapcmdUnmap hart v s := rfl
theorem exec_accevict {hart quad v} {s : State} :
    exec (.accevict hart quad v) s = execAccevict hart quad v s := rfl
theorem exec_xinvPage {hart v} {s : State} :
    exec (.xinvPage hart v) s = execXinvPage hart v s := rfl
theorem exec_xinvAsid {hart v} {s : State} :
    exec (.xinvAsid hart v) s = execXinvAsid hart v s := rfl
theorem exec_xinvAll {hart v} {s : State} :
    exec (.xinvAll hart v) s = execXinvAll hart v s := rfl
theorem exec_grpcfgForm {hart g v} {s : State} :
    exec (.grpcfgForm hart g v) s = execGrpcfgForm hart g v s := rfl
theorem exec_grpcfgStby {hart g v} {s : State} :
    exec (.grpcfgStby hart g v) s = execGrpcfgStby hart g v s := rfl
theorem exec_grpcfgAbrt {hart g v} {s : State} :
    exec (.grpcfgAbrt hart g v) s = execGrpcfgAbrt hart g v s := rfl
theorem exec_grpmemWrite {hart g j v} {s : State} :
    exec (.grpmemWrite hart g j v) s = execGrpmemWrite hart g j v s := rfl
theorem exec_heartbeatTimer {g} {s : State} :
    exec (.heartbeatTimer g) s = execHeartbeatTimer g s := rfl
theorem exec_memberLoss {g j} {s : State} :
    exec (.memberLoss g j) s = execMemberLoss g j s := rfl
theorem exec_heartbeat {msg} {s : State} :
    exec (.heartbeat msg) s = execHeartbeat msg s := rfl
theorem exec_seal {msg} {s : State} :
    exec (.seal msg) s = execSeal msg s := rfl
theorem exec_delta {msg} {s : State} :
    exec (.delta msg) s = execDelta msg s := rfl
theorem exec_dack {msg} {s : State} :
    exec (.dack msg) s = execDack msg s := rfl
theorem exec_prepared {msg} {s : State} :
    exec (.prepared msg) s = execPrepared msg s := rfl
theorem exec_abortreq {msg} {s : State} :
    exec (.abortreq msg) s = execAbortreq msg s := rfl
theorem exec_crec {msg} {s : State} :
    exec (.crec msg) s = execCrec msg s := rfl
theorem exec_crecack {msg} {s : State} :
    exec (.crecack msg) s = execCrecack msg s := rfl
theorem exec_commit {msg} {s : State} :
    exec (.commit msg) s = execCommit msg s := rfl
theorem exec_abort {msg} {s : State} :
    exec (.abort msg) s = execAbort msg s := rfl
theorem exec_loss {msg} {s : State} :
    exec (.loss msg) s = execLoss msg s := rfl
theorem exec_query {msg} {s : State} :
    exec (.query msg) s = execQuery msg s := rfl
theorem exec_qreply {msg} {s : State} :
    exec (.qreply msg) s = execQreply msg s := rfl
theorem exec_shreq {msg} {s : State} :
    exec (.shreq msg) s = execShreq msg s := rfl
theorem exec_share {msg} {s : State} :
    exec (.share msg) s = execShare msg s := rfl
theorem exec_join {msg} {s : State} :
    exec (.join msg) s = execJoin msg s := rfl
theorem exec_protectedLineRepair {g line shares} {s : State} :
    exec (.protectedLineRepair g line shares) s = execProtectedLineRepair g line shares s := rfl
theorem exec_uncorrectableError {site} {s : State} :
    exec (.uncorrectableError site) s = execUncorrectableError site s := rfl
theorem exec_correctableError {stack row} {s : State} :
    exec (.correctableError stack row) s = execCorrectableError stack row s := rfl
theorem exec_activationSaturation {bank row} {s : State} :
    exec (.activationSaturation bank row) s = execActivationSaturation bank row s := rfl
theorem exec_auditReplayEnd {task sig core clean} {s : State} :
    exec (.auditReplayEnd task sig core clean) s = execAuditReplayEnd task sig core clean s := rfl
theorem exec_remoteTimeout {cid idx} {s : State} :
    exec (.remoteTimeout cid idx) s = execRemoteTimeout cid idx s := rfl
theorem exec_ualinkRequest {req} {s : State} :
    exec (.ualinkRequest req) s = execUalinkRequest req s := rfl
theorem exec_uetPacket {secured reliable payload} {s : State} :
    exec (.uetPacket secured reliable payload) s = execUetPacket secured reliable payload s := rfl
theorem exec_leadcmdRenew {die v} {s : State} :
    exec (.leadcmdRenew die v) s = execLeadcmdRenew die v s := rfl
theorem exec_leadcmdTake {die v} {s : State} :
    exec (.leadcmdTake die v) s = execLeadcmdTake die v s := rfl
theorem exec_leadcmdResign {die v} {s : State} :
    exec (.leadcmdResign die v) s = execLeadcmdResign die v s := rfl
theorem exec_leaseLapse {s : State} :
    exec .leaseLapse s = execLeaseLapse s := rfl
theorem exec_keycmdLoadMemoryKey {hart v} {s : State} :
    exec (.keycmdLoadMemoryKey hart v) s = execKeycmdLoadMemoryKey hart v s := rfl
theorem exec_keycmdZeroiseMemoryKey {hart v} {s : State} :
    exec (.keycmdZeroiseMemoryKey hart v) s = execKeycmdZeroiseMemoryKey hart v s := rfl
theorem exec_keycmdLoadNotifyKey {hart v} {s : State} :
    exec (.keycmdLoadNotifyKey hart v) s = execKeycmdLoadNotifyKey hart v s := rfl
theorem exec_keycmdZeroiseNotifyKey {hart v} {s : State} :
    exec (.keycmdZeroiseNotifyKey hart v) s = execKeycmdZeroiseNotifyKey hart v s := rfl
theorem exec_measext {hart i digest} {s : State} :
    exec (.measext hart i digest) s = execMeasext hart i digest s := rfl
theorem exec_signcmd {hart pa} {s : State} :
    exec (.signcmd hart pa) s = execSigncmd hart pa s := rfl
theorem exec_flashMailboxRead {hart} {s : State} :
    exec (.flashMailboxRead hart) s = execFlashMailboxRead hart s := rfl
theorem exec_rstctlWarmReset {hart} {s : State} :
    exec (.rstctlWarmReset hart) s = execRstctlWarmReset hart s := rfl
theorem exec_rstctlColdReset {hart} {s : State} :
    exec (.rstctlColdReset hart) s = execRstctlColdReset hart s := rfl
theorem exec_rstctlPtok {hart} {s : State} :
    exec (.rstctlPtok hart) s = execRstctlPtok hart s := rfl
theorem exec_powerOnReset {s : State} :
    exec .powerOnReset s = execPowerOnReset s := rfl
theorem exec_powerInputOutOfRange {millivolts} {s : State} :
    exec (.powerInputOutOfRange millivolts) s = execPowerInputOutOfRange millivolts s := rfl
theorem exec_powerLoss {s : State} :
    exec .powerLoss s = execPowerLoss s := rfl
theorem exec_memoryGateOpen {s : State} :
    exec .memoryGateOpen s = execMemoryGateOpen s := rfl
theorem exec_thermalSample {watts temps volts} {s : State} :
    exec (.thermalSample watts temps volts) s = execThermalSample watts temps volts s := rfl
theorem exec_lifetimeMerge {s : State} :
    exec .lifetimeMerge s = execLifetimeMerge s := rfl
theorem exec_lifeEstimate {est} {s : State} :
    exec (.lifeEstimate est) s = execLifeEstimate est s := rfl
theorem exec_registerWrite {hart reg v} {s : State} :
    exec (.registerWrite hart reg v) s = execRegisterWrite hart reg v s := rfl
theorem exec_writeLands {cid} {s : State} :
    exec (.writeLands cid) s = execWriteLands cid s := rfl
theorem exec_globalAccessPerformed {cid idx} {s : State} :
    exec (.globalAccessPerformed cid idx) s = execGlobalAccessPerformed cid idx s := rfl
theorem exec_shuttleElementMove {cid ch} {s : State} :
    exec (.shuttleElementMove cid ch) s = execShuttleElementMove cid ch s := rfl
theorem exec_podHoopArrival {entry leave armed} {s : State} :
    exec (.podHoopArrival entry leave armed) s = execPodHoopArrival entry leave armed s := rfl
theorem exec_periodicRefresh {bank row} {s : State} :
    exec (.periodicRefresh bank row) s = execPeriodicRefresh bank row s := rfl
theorem exec_phyTrainingComplete {full} {s : State} :
    exec (.phyTrainingComplete full) s = execPhyTrainingComplete full s := rfl
theorem exec_linkTrainingComplete {port} {s : State} :
    exec (.linkTrainingComplete port) s = execLinkTrainingComplete port s := rfl
theorem exec_supervisorHartAccess {die acc} {s : State} :
    exec (.supervisorHartAccess die acc) s = execSupervisorHartAccess die acc s := rfl

end Sys2Proof.Laws
end

