-- ==== Sys2Proof/Laws/State.lean ====
section
/-! SUPPORT. One lemma per field for each named update of `State` and of `Ctx`, each true by `rfl`: what an update leaves as it
was, and what it sets. Later proofs cite these and unfold no record update. -/

namespace Sys2Proof.Machine

variable (s : State) (x : Ctx)

/-! ### State.modCtx -/

@[simp] theorem State.modCtx_now (f : Ctx → Ctx) : (s.modCtx f).now = s.now := rfl
@[simp] theorem State.modCtx_us (f : Ctx → Ctx) : (s.modCtx f).us = s.us := rfl
@[simp] theorem State.modCtx_phase (f : Ctx → Ctx) : (s.modCtx f).phase = s.phase := rfl
@[simp] theorem State.modCtx_ctx (f : Ctx → Ctx) : (s.modCtx f).ctx = f s.ctx := rfl
@[simp] theorem State.modCtx_others (f : Ctx → Ctx) : (s.modCtx f).others = s.others := rfl
@[simp] theorem State.modCtx_plan (f : Ctx → Ctx) : (s.modCtx f).plan = s.plan := rfl
@[simp] theorem State.modCtx_heads (f : Ctx → Ctx) : (s.modCtx f).heads = s.heads := rfl
@[simp] theorem State.modCtx_schedule (f : Ctx → Ctx) : (s.modCtx f).schedule = s.schedule := rfl
@[simp] theorem State.modCtx_verdict (f : Ctx → Ctx) : (s.modCtx f).verdict = s.verdict := rfl
@[simp] theorem State.modCtx_free (f : Ctx → Ctx) : (s.modCtx f).free = s.free := rfl
@[simp] theorem State.modCtx_trapDue (f : Ctx → Ctx) : (s.modCtx f).trapDue = s.trapDue := rfl
@[simp] theorem State.modCtx_roots (f : Ctx → Ctx) : (s.modCtx f).roots = s.roots := rfl
@[simp] theorem State.modCtx_mem (f : Ctx → Ctx) : (s.modCtx f).mem = s.mem := rfl
@[simp] theorem State.modCtx_remote (f : Ctx → Ctx) : (s.modCtx f).remote = s.remote := rfl
@[simp] theorem State.modCtx_stamps (f : Ctx → Ctx) : (s.modCtx f).stamps = s.stamps := rfl
@[simp] theorem State.modCtx_hintErrors (f : Ctx → Ctx) : (s.modCtx f).hintErrors = s.hintErrors := rfl
@[simp] theorem State.modCtx_cap (f : Ctx → Ctx) : (s.modCtx f).cap = s.cap := rfl
@[simp] theorem State.modCtx_dcache (f : Ctx → Ctx) : (s.modCtx f).dcache = s.dcache := rfl
@[simp] theorem State.modCtx_owners (f : Ctx → Ctx) : (s.modCtx f).owners = s.owners := rfl
@[simp] theorem State.modCtx_l1 (f : Ctx → Ctx) : (s.modCtx f).l1 = s.l1 := rfl
@[simp] theorem State.modCtx_tlb (f : Ctx → Ctx) : (s.modCtx f).tlb = s.tlb := rfl
@[simp] theorem State.modCtx_pages (f : Ctx → Ctx) : (s.modCtx f).pages = s.pages := rfl
@[simp] theorem State.modCtx_returns (f : Ctx → Ctx) : (s.modCtx f).returns = s.returns := rfl
@[simp] theorem State.modCtx_worn (f : Ctx → Ctx) : (s.modCtx f).worn = s.worn := rfl
@[simp] theorem State.modCtx_freePages (f : Ctx → Ctx) : (s.modCtx f).freePages = s.freePages := rfl
@[simp] theorem State.modCtx_evictStacks (f : Ctx → Ctx) : (s.modCtx f).evictStacks = s.evictStacks := rfl
@[simp] theorem State.modCtx_boundary (f : Ctx → Ctx) : (s.modCtx f).boundary = s.boundary := rfl
@[simp] theorem State.modCtx_holds (f : Ctx → Ctx) : (s.modCtx f).holds = s.holds := rfl
@[simp] theorem State.modCtx_lost (f : Ctx → Ctx) : (s.modCtx f).lost = s.lost := rfl
@[simp] theorem State.modCtx_struck (f : Ctx → Ctx) : (s.modCtx f).struck = s.struck := rfl
@[simp] theorem State.modCtx_wounds (f : Ctx → Ctx) : (s.modCtx f).wounds = s.wounds := rfl
@[simp] theorem State.modCtx_walks (f : Ctx → Ctx) : (s.modCtx f).walks = s.walks := rfl
@[simp] theorem State.modCtx_sent (f : Ctx → Ctx) : (s.modCtx f).sent = s.sent := rfl
@[simp] theorem State.modCtx_quads (f : Ctx → Ctx) : (s.modCtx f).quads = s.quads := rfl
@[simp] theorem State.modCtx_shLast (f : Ctx → Ctx) : (s.modCtx f).shLast = s.shLast := rfl
@[simp] theorem State.modCtx_dies (f : Ctx → Ctx) : (s.modCtx f).dies = s.dies := rfl
@[simp] theorem State.modCtx_tamb (f : Ctx → Ctx) : (s.modCtx f).tamb = s.tamb := rfl
@[simp] theorem State.modCtx_groups (f : Ctx → Ctx) : (s.modCtx f).groups = s.groups := rfl
@[simp] theorem State.modCtx_localRound (f : Ctx → Ctx) : (s.modCtx f).localRound = s.localRound := rfl
@[simp] theorem State.modCtx_hub (f : Ctx → Ctx) : (s.modCtx f).hub = s.hub := rfl
@[simp] theorem State.modCtx_power (f : Ctx → Ctx) : (s.modCtx f).power = s.power := rfl
@[simp] theorem State.modCtx_flash (f : Ctx → Ctx) : (s.modCtx f).flash = s.flash := rfl
@[simp] theorem State.modCtx_pending (f : Ctx → Ctx) : (s.modCtx f).pending = s.pending := rfl
@[simp] theorem State.modCtx_audits (f : Ctx → Ctx) : (s.modCtx f).audits = s.audits := rfl
@[simp] theorem State.modCtx_nextAudit (f : Ctx → Ctx) : (s.modCtx f).nextAudit = s.nextAudit := rfl
@[simp] theorem State.modCtx_ended (f : Ctx → Ctx) : (s.modCtx f).ended = s.ended := rfl
@[simp] theorem State.modCtx_harts (f : Ctx → Ctx) : (s.modCtx f).harts = s.harts := rfl

/-! ### State.modEng -/

@[simp] theorem State.modEng_now (f : Engines → Engines) : (s.modEng f).now = s.now := rfl
@[simp] theorem State.modEng_us (f : Engines → Engines) : (s.modEng f).us = s.us := rfl
@[simp] theorem State.modEng_phase (f : Engines → Engines) : (s.modEng f).phase = s.phase := rfl
@[simp] theorem State.modEng_others (f : Engines → Engines) : (s.modEng f).others = s.others := rfl
@[simp] theorem State.modEng_plan (f : Engines → Engines) : (s.modEng f).plan = s.plan := rfl
@[simp] theorem State.modEng_heads (f : Engines → Engines) : (s.modEng f).heads = s.heads := rfl
@[simp] theorem State.modEng_schedule (f : Engines → Engines) : (s.modEng f).schedule = s.schedule := rfl
@[simp] theorem State.modEng_verdict (f : Engines → Engines) : (s.modEng f).verdict = s.verdict := rfl
@[simp] theorem State.modEng_free (f : Engines → Engines) : (s.modEng f).free = s.free := rfl
@[simp] theorem State.modEng_trapDue (f : Engines → Engines) : (s.modEng f).trapDue = s.trapDue := rfl
@[simp] theorem State.modEng_roots (f : Engines → Engines) : (s.modEng f).roots = s.roots := rfl
@[simp] theorem State.modEng_mem (f : Engines → Engines) : (s.modEng f).mem = s.mem := rfl
@[simp] theorem State.modEng_remote (f : Engines → Engines) : (s.modEng f).remote = s.remote := rfl
@[simp] theorem State.modEng_stamps (f : Engines → Engines) : (s.modEng f).stamps = s.stamps := rfl
@[simp] theorem State.modEng_hintErrors (f : Engines → Engines) : (s.modEng f).hintErrors = s.hintErrors := rfl
@[simp] theorem State.modEng_cap (f : Engines → Engines) : (s.modEng f).cap = s.cap := rfl
@[simp] theorem State.modEng_dcache (f : Engines → Engines) : (s.modEng f).dcache = s.dcache := rfl
@[simp] theorem State.modEng_owners (f : Engines → Engines) : (s.modEng f).owners = s.owners := rfl
@[simp] theorem State.modEng_l1 (f : Engines → Engines) : (s.modEng f).l1 = s.l1 := rfl
@[simp] theorem State.modEng_tlb (f : Engines → Engines) : (s.modEng f).tlb = s.tlb := rfl
@[simp] theorem State.modEng_pages (f : Engines → Engines) : (s.modEng f).pages = s.pages := rfl
@[simp] theorem State.modEng_returns (f : Engines → Engines) : (s.modEng f).returns = s.returns := rfl
@[simp] theorem State.modEng_worn (f : Engines → Engines) : (s.modEng f).worn = s.worn := rfl
@[simp] theorem State.modEng_freePages (f : Engines → Engines) : (s.modEng f).freePages = s.freePages := rfl
@[simp] theorem State.modEng_evictStacks (f : Engines → Engines) : (s.modEng f).evictStacks = s.evictStacks := rfl
@[simp] theorem State.modEng_boundary (f : Engines → Engines) : (s.modEng f).boundary = s.boundary := rfl
@[simp] theorem State.modEng_holds (f : Engines → Engines) : (s.modEng f).holds = s.holds := rfl
@[simp] theorem State.modEng_lost (f : Engines → Engines) : (s.modEng f).lost = s.lost := rfl
@[simp] theorem State.modEng_struck (f : Engines → Engines) : (s.modEng f).struck = s.struck := rfl
@[simp] theorem State.modEng_wounds (f : Engines → Engines) : (s.modEng f).wounds = s.wounds := rfl
@[simp] theorem State.modEng_walks (f : Engines → Engines) : (s.modEng f).walks = s.walks := rfl
@[simp] theorem State.modEng_sent (f : Engines → Engines) : (s.modEng f).sent = s.sent := rfl
@[simp] theorem State.modEng_quads (f : Engines → Engines) : (s.modEng f).quads = s.quads := rfl
@[simp] theorem State.modEng_shLast (f : Engines → Engines) : (s.modEng f).shLast = s.shLast := rfl
@[simp] theorem State.modEng_dies (f : Engines → Engines) : (s.modEng f).dies = s.dies := rfl
@[simp] theorem State.modEng_tamb (f : Engines → Engines) : (s.modEng f).tamb = s.tamb := rfl
@[simp] theorem State.modEng_groups (f : Engines → Engines) : (s.modEng f).groups = s.groups := rfl
@[simp] theorem State.modEng_localRound (f : Engines → Engines) : (s.modEng f).localRound = s.localRound := rfl
@[simp] theorem State.modEng_hub (f : Engines → Engines) : (s.modEng f).hub = s.hub := rfl
@[simp] theorem State.modEng_power (f : Engines → Engines) : (s.modEng f).power = s.power := rfl
@[simp] theorem State.modEng_flash (f : Engines → Engines) : (s.modEng f).flash = s.flash := rfl
@[simp] theorem State.modEng_pending (f : Engines → Engines) : (s.modEng f).pending = s.pending := rfl
@[simp] theorem State.modEng_audits (f : Engines → Engines) : (s.modEng f).audits = s.audits := rfl
@[simp] theorem State.modEng_nextAudit (f : Engines → Engines) : (s.modEng f).nextAudit = s.nextAudit := rfl
@[simp] theorem State.modEng_ended (f : Engines → Engines) : (s.modEng f).ended = s.ended := rfl
@[simp] theorem State.modEng_harts (f : Engines → Engines) : (s.modEng f).harts = s.harts := rfl

/-! ### State.writeAt -/

@[simp] theorem State.writeAt_now (n : Nat) (e : Effect) : (s.writeAt n e).now = s.now := rfl
@[simp] theorem State.writeAt_us (n : Nat) (e : Effect) : (s.writeAt n e).us = s.us := rfl
@[simp] theorem State.writeAt_phase (n : Nat) (e : Effect) : (s.writeAt n e).phase = s.phase := rfl
@[simp] theorem State.writeAt_others (n : Nat) (e : Effect) : (s.writeAt n e).others = s.others := rfl
@[simp] theorem State.writeAt_plan (n : Nat) (e : Effect) : (s.writeAt n e).plan = s.plan := rfl
@[simp] theorem State.writeAt_heads (n : Nat) (e : Effect) : (s.writeAt n e).heads = s.heads := rfl
@[simp] theorem State.writeAt_schedule (n : Nat) (e : Effect) : (s.writeAt n e).schedule = s.schedule := rfl
@[simp] theorem State.writeAt_verdict (n : Nat) (e : Effect) : (s.writeAt n e).verdict = s.verdict := rfl
@[simp] theorem State.writeAt_free (n : Nat) (e : Effect) : (s.writeAt n e).free = s.free := rfl
@[simp] theorem State.writeAt_trapDue (n : Nat) (e : Effect) : (s.writeAt n e).trapDue = s.trapDue := rfl
@[simp] theorem State.writeAt_roots (n : Nat) (e : Effect) : (s.writeAt n e).roots = s.roots := rfl
@[simp] theorem State.writeAt_mem (n : Nat) (e : Effect) : (s.writeAt n e).mem = s.mem := rfl
@[simp] theorem State.writeAt_remote (n : Nat) (e : Effect) : (s.writeAt n e).remote = s.remote := rfl
@[simp] theorem State.writeAt_stamps (n : Nat) (e : Effect) : (s.writeAt n e).stamps = s.stamps := rfl
@[simp] theorem State.writeAt_hintErrors (n : Nat) (e : Effect) : (s.writeAt n e).hintErrors = s.hintErrors := rfl
@[simp] theorem State.writeAt_cap (n : Nat) (e : Effect) : (s.writeAt n e).cap = s.cap := rfl
@[simp] theorem State.writeAt_dcache (n : Nat) (e : Effect) : (s.writeAt n e).dcache = s.dcache := rfl
@[simp] theorem State.writeAt_owners (n : Nat) (e : Effect) : (s.writeAt n e).owners = s.owners := rfl
@[simp] theorem State.writeAt_l1 (n : Nat) (e : Effect) : (s.writeAt n e).l1 = s.l1 := rfl
@[simp] theorem State.writeAt_tlb (n : Nat) (e : Effect) : (s.writeAt n e).tlb = s.tlb := rfl
@[simp] theorem State.writeAt_pages (n : Nat) (e : Effect) : (s.writeAt n e).pages = s.pages := rfl
@[simp] theorem State.writeAt_returns (n : Nat) (e : Effect) : (s.writeAt n e).returns = s.returns := rfl
@[simp] theorem State.writeAt_worn (n : Nat) (e : Effect) : (s.writeAt n e).worn = s.worn := rfl
@[simp] theorem State.writeAt_freePages (n : Nat) (e : Effect) : (s.writeAt n e).freePages = s.freePages := rfl
@[simp] theorem State.writeAt_evictStacks (n : Nat) (e : Effect) : (s.writeAt n e).evictStacks = s.evictStacks := rfl
@[simp] theorem State.writeAt_boundary (n : Nat) (e : Effect) : (s.writeAt n e).boundary = s.boundary := rfl
@[simp] theorem State.writeAt_holds (n : Nat) (e : Effect) : (s.writeAt n e).holds = s.holds := rfl
@[simp] theorem State.writeAt_lost (n : Nat) (e : Effect) : (s.writeAt n e).lost = s.lost := rfl
@[simp] theorem State.writeAt_struck (n : Nat) (e : Effect) : (s.writeAt n e).struck = s.struck := rfl
@[simp] theorem State.writeAt_wounds (n : Nat) (e : Effect) : (s.writeAt n e).wounds = s.wounds := rfl
@[simp] theorem State.writeAt_walks (n : Nat) (e : Effect) : (s.writeAt n e).walks = s.walks := rfl
@[simp] theorem State.writeAt_sent (n : Nat) (e : Effect) : (s.writeAt n e).sent = s.sent := rfl
@[simp] theorem State.writeAt_quads (n : Nat) (e : Effect) : (s.writeAt n e).quads = s.quads := rfl
@[simp] theorem State.writeAt_shLast (n : Nat) (e : Effect) : (s.writeAt n e).shLast = s.shLast := rfl
@[simp] theorem State.writeAt_dies (n : Nat) (e : Effect) : (s.writeAt n e).dies = s.dies := rfl
@[simp] theorem State.writeAt_tamb (n : Nat) (e : Effect) : (s.writeAt n e).tamb = s.tamb := rfl
@[simp] theorem State.writeAt_groups (n : Nat) (e : Effect) : (s.writeAt n e).groups = s.groups := rfl
@[simp] theorem State.writeAt_localRound (n : Nat) (e : Effect) : (s.writeAt n e).localRound = s.localRound := rfl
@[simp] theorem State.writeAt_hub (n : Nat) (e : Effect) : (s.writeAt n e).hub = s.hub := rfl
@[simp] theorem State.writeAt_power (n : Nat) (e : Effect) : (s.writeAt n e).power = s.power := rfl
@[simp] theorem State.writeAt_flash (n : Nat) (e : Effect) : (s.writeAt n e).flash = s.flash := rfl
@[simp] theorem State.writeAt_pending (n : Nat) (e : Effect) : (s.writeAt n e).pending = s.pending := rfl
@[simp] theorem State.writeAt_audits (n : Nat) (e : Effect) : (s.writeAt n e).audits = s.audits := rfl
@[simp] theorem State.writeAt_nextAudit (n : Nat) (e : Effect) : (s.writeAt n e).nextAudit = s.nextAudit := rfl
@[simp] theorem State.writeAt_ended (n : Nat) (e : Effect) : (s.writeAt n e).ended = s.ended := rfl
@[simp] theorem State.writeAt_harts (n : Nat) (e : Effect) : (s.writeAt n e).harts = s.harts := rfl

/-! ### State.flowTo -/

@[simp] theorem State.flowTo_now (c : Cluster) (a : W64) : (s.flowTo c a).now = s.now := rfl
@[simp] theorem State.flowTo_us (c : Cluster) (a : W64) : (s.flowTo c a).us = s.us := rfl
@[simp] theorem State.flowTo_phase (c : Cluster) (a : W64) : (s.flowTo c a).phase = s.phase := rfl
@[simp] theorem State.flowTo_others (c : Cluster) (a : W64) : (s.flowTo c a).others = s.others := rfl
@[simp] theorem State.flowTo_plan (c : Cluster) (a : W64) : (s.flowTo c a).plan = s.plan := rfl
@[simp] theorem State.flowTo_heads (c : Cluster) (a : W64) : (s.flowTo c a).heads = s.heads := rfl
@[simp] theorem State.flowTo_schedule (c : Cluster) (a : W64) : (s.flowTo c a).schedule = s.schedule := rfl
@[simp] theorem State.flowTo_verdict (c : Cluster) (a : W64) : (s.flowTo c a).verdict = s.verdict := rfl
@[simp] theorem State.flowTo_free (c : Cluster) (a : W64) : (s.flowTo c a).free = s.free := rfl
@[simp] theorem State.flowTo_trapDue (c : Cluster) (a : W64) : (s.flowTo c a).trapDue = s.trapDue := rfl
@[simp] theorem State.flowTo_roots (c : Cluster) (a : W64) : (s.flowTo c a).roots = s.roots := rfl
@[simp] theorem State.flowTo_mem (c : Cluster) (a : W64) : (s.flowTo c a).mem = s.mem := rfl
@[simp] theorem State.flowTo_remote (c : Cluster) (a : W64) : (s.flowTo c a).remote = s.remote := rfl
@[simp] theorem State.flowTo_stamps (c : Cluster) (a : W64) : (s.flowTo c a).stamps = s.stamps := rfl
@[simp] theorem State.flowTo_hintErrors (c : Cluster) (a : W64) : (s.flowTo c a).hintErrors = s.hintErrors := rfl
@[simp] theorem State.flowTo_cap (c : Cluster) (a : W64) : (s.flowTo c a).cap = s.cap := rfl
@[simp] theorem State.flowTo_dcache (c : Cluster) (a : W64) : (s.flowTo c a).dcache = s.dcache := rfl
@[simp] theorem State.flowTo_owners (c : Cluster) (a : W64) : (s.flowTo c a).owners = s.owners := rfl
@[simp] theorem State.flowTo_l1 (c : Cluster) (a : W64) : (s.flowTo c a).l1 = s.l1 := rfl
@[simp] theorem State.flowTo_tlb (c : Cluster) (a : W64) : (s.flowTo c a).tlb = s.tlb := rfl
@[simp] theorem State.flowTo_pages (c : Cluster) (a : W64) : (s.flowTo c a).pages = s.pages := rfl
@[simp] theorem State.flowTo_returns (c : Cluster) (a : W64) : (s.flowTo c a).returns = s.returns := rfl
@[simp] theorem State.flowTo_worn (c : Cluster) (a : W64) : (s.flowTo c a).worn = s.worn := rfl
@[simp] theorem State.flowTo_freePages (c : Cluster) (a : W64) : (s.flowTo c a).freePages = s.freePages := rfl
@[simp] theorem State.flowTo_evictStacks (c : Cluster) (a : W64) : (s.flowTo c a).evictStacks = s.evictStacks := rfl
@[simp] theorem State.flowTo_boundary (c : Cluster) (a : W64) : (s.flowTo c a).boundary = s.boundary := rfl
@[simp] theorem State.flowTo_holds (c : Cluster) (a : W64) : (s.flowTo c a).holds = s.holds := rfl
@[simp] theorem State.flowTo_lost (c : Cluster) (a : W64) : (s.flowTo c a).lost = s.lost := rfl
@[simp] theorem State.flowTo_struck (c : Cluster) (a : W64) : (s.flowTo c a).struck = s.struck := rfl
@[simp] theorem State.flowTo_wounds (c : Cluster) (a : W64) : (s.flowTo c a).wounds = s.wounds := rfl
@[simp] theorem State.flowTo_walks (c : Cluster) (a : W64) : (s.flowTo c a).walks = s.walks := rfl
@[simp] theorem State.flowTo_sent (c : Cluster) (a : W64) : (s.flowTo c a).sent = s.sent := rfl
@[simp] theorem State.flowTo_quads (c : Cluster) (a : W64) : (s.flowTo c a).quads = s.quads := rfl
@[simp] theorem State.flowTo_shLast (c : Cluster) (a : W64) : (s.flowTo c a).shLast = s.shLast := rfl
@[simp] theorem State.flowTo_dies (c : Cluster) (a : W64) : (s.flowTo c a).dies = s.dies := rfl
@[simp] theorem State.flowTo_tamb (c : Cluster) (a : W64) : (s.flowTo c a).tamb = s.tamb := rfl
@[simp] theorem State.flowTo_groups (c : Cluster) (a : W64) : (s.flowTo c a).groups = s.groups := rfl
@[simp] theorem State.flowTo_localRound (c : Cluster) (a : W64) : (s.flowTo c a).localRound = s.localRound := rfl
@[simp] theorem State.flowTo_hub (c : Cluster) (a : W64) : (s.flowTo c a).hub = s.hub := rfl
@[simp] theorem State.flowTo_power (c : Cluster) (a : W64) : (s.flowTo c a).power = s.power := rfl
@[simp] theorem State.flowTo_flash (c : Cluster) (a : W64) : (s.flowTo c a).flash = s.flash := rfl
@[simp] theorem State.flowTo_pending (c : Cluster) (a : W64) : (s.flowTo c a).pending = s.pending := rfl
@[simp] theorem State.flowTo_audits (c : Cluster) (a : W64) : (s.flowTo c a).audits = s.audits := rfl
@[simp] theorem State.flowTo_nextAudit (c : Cluster) (a : W64) : (s.flowTo c a).nextAudit = s.nextAudit := rfl
@[simp] theorem State.flowTo_ended (c : Cluster) (a : W64) : (s.flowTo c a).ended = s.ended := rfl
@[simp] theorem State.flowTo_harts (c : Cluster) (a : W64) : (s.flowTo c a).harts = s.harts := rfl

/-! ### State.branchTo -/

@[simp] theorem State.branchTo_now (c : Cluster) (a : W64) : (s.branchTo c a).now = s.now := rfl
@[simp] theorem State.branchTo_us (c : Cluster) (a : W64) : (s.branchTo c a).us = s.us := rfl
@[simp] theorem State.branchTo_phase (c : Cluster) (a : W64) : (s.branchTo c a).phase = s.phase := rfl
@[simp] theorem State.branchTo_others (c : Cluster) (a : W64) : (s.branchTo c a).others = s.others := rfl
@[simp] theorem State.branchTo_plan (c : Cluster) (a : W64) : (s.branchTo c a).plan = s.plan := rfl
@[simp] theorem State.branchTo_heads (c : Cluster) (a : W64) : (s.branchTo c a).heads = s.heads := rfl
@[simp] theorem State.branchTo_schedule (c : Cluster) (a : W64) : (s.branchTo c a).schedule = s.schedule := rfl
@[simp] theorem State.branchTo_verdict (c : Cluster) (a : W64) : (s.branchTo c a).verdict = s.verdict := rfl
@[simp] theorem State.branchTo_free (c : Cluster) (a : W64) : (s.branchTo c a).free = s.free := rfl
@[simp] theorem State.branchTo_trapDue (c : Cluster) (a : W64) : (s.branchTo c a).trapDue = s.trapDue := rfl
@[simp] theorem State.branchTo_roots (c : Cluster) (a : W64) : (s.branchTo c a).roots = s.roots := rfl
@[simp] theorem State.branchTo_mem (c : Cluster) (a : W64) : (s.branchTo c a).mem = s.mem := rfl
@[simp] theorem State.branchTo_remote (c : Cluster) (a : W64) : (s.branchTo c a).remote = s.remote := rfl
@[simp] theorem State.branchTo_stamps (c : Cluster) (a : W64) : (s.branchTo c a).stamps = s.stamps := rfl
@[simp] theorem State.branchTo_hintErrors (c : Cluster) (a : W64) : (s.branchTo c a).hintErrors = s.hintErrors := rfl
@[simp] theorem State.branchTo_cap (c : Cluster) (a : W64) : (s.branchTo c a).cap = s.cap := rfl
@[simp] theorem State.branchTo_dcache (c : Cluster) (a : W64) : (s.branchTo c a).dcache = s.dcache := rfl
@[simp] theorem State.branchTo_owners (c : Cluster) (a : W64) : (s.branchTo c a).owners = s.owners := rfl
@[simp] theorem State.branchTo_l1 (c : Cluster) (a : W64) : (s.branchTo c a).l1 = s.l1 := rfl
@[simp] theorem State.branchTo_tlb (c : Cluster) (a : W64) : (s.branchTo c a).tlb = s.tlb := rfl
@[simp] theorem State.branchTo_pages (c : Cluster) (a : W64) : (s.branchTo c a).pages = s.pages := rfl
@[simp] theorem State.branchTo_returns (c : Cluster) (a : W64) : (s.branchTo c a).returns = s.returns := rfl
@[simp] theorem State.branchTo_worn (c : Cluster) (a : W64) : (s.branchTo c a).worn = s.worn := rfl
@[simp] theorem State.branchTo_freePages (c : Cluster) (a : W64) : (s.branchTo c a).freePages = s.freePages := rfl
@[simp] theorem State.branchTo_evictStacks (c : Cluster) (a : W64) : (s.branchTo c a).evictStacks = s.evictStacks := rfl
@[simp] theorem State.branchTo_boundary (c : Cluster) (a : W64) : (s.branchTo c a).boundary = s.boundary := rfl
@[simp] theorem State.branchTo_holds (c : Cluster) (a : W64) : (s.branchTo c a).holds = s.holds := rfl
@[simp] theorem State.branchTo_lost (c : Cluster) (a : W64) : (s.branchTo c a).lost = s.lost := rfl
@[simp] theorem State.branchTo_struck (c : Cluster) (a : W64) : (s.branchTo c a).struck = s.struck := rfl
@[simp] theorem State.branchTo_wounds (c : Cluster) (a : W64) : (s.branchTo c a).wounds = s.wounds := rfl
@[simp] theorem State.branchTo_walks (c : Cluster) (a : W64) : (s.branchTo c a).walks = s.walks := rfl
@[simp] theorem State.branchTo_sent (c : Cluster) (a : W64) : (s.branchTo c a).sent = s.sent := rfl
@[simp] theorem State.branchTo_quads (c : Cluster) (a : W64) : (s.branchTo c a).quads = s.quads := rfl
@[simp] theorem State.branchTo_shLast (c : Cluster) (a : W64) : (s.branchTo c a).shLast = s.shLast := rfl
@[simp] theorem State.branchTo_dies (c : Cluster) (a : W64) : (s.branchTo c a).dies = s.dies := rfl
@[simp] theorem State.branchTo_tamb (c : Cluster) (a : W64) : (s.branchTo c a).tamb = s.tamb := rfl
@[simp] theorem State.branchTo_groups (c : Cluster) (a : W64) : (s.branchTo c a).groups = s.groups := rfl
@[simp] theorem State.branchTo_localRound (c : Cluster) (a : W64) : (s.branchTo c a).localRound = s.localRound := rfl
@[simp] theorem State.branchTo_hub (c : Cluster) (a : W64) : (s.branchTo c a).hub = s.hub := rfl
@[simp] theorem State.branchTo_power (c : Cluster) (a : W64) : (s.branchTo c a).power = s.power := rfl
@[simp] theorem State.branchTo_flash (c : Cluster) (a : W64) : (s.branchTo c a).flash = s.flash := rfl
@[simp] theorem State.branchTo_pending (c : Cluster) (a : W64) : (s.branchTo c a).pending = s.pending := rfl
@[simp] theorem State.branchTo_audits (c : Cluster) (a : W64) : (s.branchTo c a).audits = s.audits := rfl
@[simp] theorem State.branchTo_nextAudit (c : Cluster) (a : W64) : (s.branchTo c a).nextAudit = s.nextAudit := rfl
@[simp] theorem State.branchTo_ended (c : Cluster) (a : W64) : (s.branchTo c a).ended = s.ended := rfl
@[simp] theorem State.branchTo_harts (c : Cluster) (a : W64) : (s.branchTo c a).harts = s.harts := rfl

/-! ### State.enqueue -/

@[simp] theorem State.enqueue_now (a : Access) : (s.enqueue a).now = s.now := rfl
@[simp] theorem State.enqueue_us (a : Access) : (s.enqueue a).us = s.us := rfl
@[simp] theorem State.enqueue_phase (a : Access) : (s.enqueue a).phase = s.phase := rfl
@[simp] theorem State.enqueue_others (a : Access) : (s.enqueue a).others = s.others := rfl
@[simp] theorem State.enqueue_plan (a : Access) : (s.enqueue a).plan = s.plan := rfl
@[simp] theorem State.enqueue_heads (a : Access) : (s.enqueue a).heads = s.heads := rfl
@[simp] theorem State.enqueue_schedule (a : Access) : (s.enqueue a).schedule = s.schedule := rfl
@[simp] theorem State.enqueue_verdict (a : Access) : (s.enqueue a).verdict = s.verdict := rfl
@[simp] theorem State.enqueue_free (a : Access) : (s.enqueue a).free = s.free := rfl
@[simp] theorem State.enqueue_trapDue (a : Access) : (s.enqueue a).trapDue = s.trapDue := rfl
@[simp] theorem State.enqueue_roots (a : Access) : (s.enqueue a).roots = s.roots := rfl
@[simp] theorem State.enqueue_mem (a : Access) : (s.enqueue a).mem = s.mem := rfl
@[simp] theorem State.enqueue_remote (a : Access) : (s.enqueue a).remote = s.remote := rfl
@[simp] theorem State.enqueue_stamps (a : Access) : (s.enqueue a).stamps = s.stamps := rfl
@[simp] theorem State.enqueue_hintErrors (a : Access) : (s.enqueue a).hintErrors = s.hintErrors := rfl
@[simp] theorem State.enqueue_cap (a : Access) : (s.enqueue a).cap = s.cap := rfl
@[simp] theorem State.enqueue_dcache (a : Access) : (s.enqueue a).dcache = s.dcache := rfl
@[simp] theorem State.enqueue_owners (a : Access) : (s.enqueue a).owners = s.owners := rfl
@[simp] theorem State.enqueue_l1 (a : Access) : (s.enqueue a).l1 = s.l1 := rfl
@[simp] theorem State.enqueue_tlb (a : Access) : (s.enqueue a).tlb = s.tlb := rfl
@[simp] theorem State.enqueue_pages (a : Access) : (s.enqueue a).pages = s.pages := rfl
@[simp] theorem State.enqueue_returns (a : Access) : (s.enqueue a).returns = s.returns := rfl
@[simp] theorem State.enqueue_worn (a : Access) : (s.enqueue a).worn = s.worn := rfl
@[simp] theorem State.enqueue_freePages (a : Access) : (s.enqueue a).freePages = s.freePages := rfl
@[simp] theorem State.enqueue_evictStacks (a : Access) : (s.enqueue a).evictStacks = s.evictStacks := rfl
@[simp] theorem State.enqueue_boundary (a : Access) : (s.enqueue a).boundary = s.boundary := rfl
@[simp] theorem State.enqueue_holds (a : Access) : (s.enqueue a).holds = s.holds := rfl
@[simp] theorem State.enqueue_lost (a : Access) : (s.enqueue a).lost = s.lost := rfl
@[simp] theorem State.enqueue_struck (a : Access) : (s.enqueue a).struck = s.struck := rfl
@[simp] theorem State.enqueue_wounds (a : Access) : (s.enqueue a).wounds = s.wounds := rfl
@[simp] theorem State.enqueue_walks (a : Access) : (s.enqueue a).walks = s.walks := rfl
@[simp] theorem State.enqueue_sent (a : Access) : (s.enqueue a).sent = s.sent := rfl
@[simp] theorem State.enqueue_quads (a : Access) : (s.enqueue a).quads = s.quads := rfl
@[simp] theorem State.enqueue_shLast (a : Access) : (s.enqueue a).shLast = s.shLast := rfl
@[simp] theorem State.enqueue_dies (a : Access) : (s.enqueue a).dies = s.dies := rfl
@[simp] theorem State.enqueue_tamb (a : Access) : (s.enqueue a).tamb = s.tamb := rfl
@[simp] theorem State.enqueue_groups (a : Access) : (s.enqueue a).groups = s.groups := rfl
@[simp] theorem State.enqueue_localRound (a : Access) : (s.enqueue a).localRound = s.localRound := rfl
@[simp] theorem State.enqueue_hub (a : Access) : (s.enqueue a).hub = s.hub := rfl
@[simp] theorem State.enqueue_power (a : Access) : (s.enqueue a).power = s.power := rfl
@[simp] theorem State.enqueue_flash (a : Access) : (s.enqueue a).flash = s.flash := rfl
@[simp] theorem State.enqueue_pending (a : Access) : (s.enqueue a).pending = s.pending := rfl
@[simp] theorem State.enqueue_audits (a : Access) : (s.enqueue a).audits = s.audits := rfl
@[simp] theorem State.enqueue_nextAudit (a : Access) : (s.enqueue a).nextAudit = s.nextAudit := rfl
@[simp] theorem State.enqueue_ended (a : Access) : (s.enqueue a).ended = s.ended := rfl
@[simp] theorem State.enqueue_harts (a : Access) : (s.enqueue a).harts = s.harts := rfl

/-! ### State.setGroup -/

@[simp] theorem State.setGroup_now (n : Nat) (g : GroupSlot) : (s.setGroup n g).now = s.now := rfl
@[simp] theorem State.setGroup_us (n : Nat) (g : GroupSlot) : (s.setGroup n g).us = s.us := rfl
@[simp] theorem State.setGroup_phase (n : Nat) (g : GroupSlot) : (s.setGroup n g).phase = s.phase := rfl
@[simp] theorem State.setGroup_ctx (n : Nat) (g : GroupSlot) : (s.setGroup n g).ctx = s.ctx := rfl
@[simp] theorem State.setGroup_others (n : Nat) (g : GroupSlot) : (s.setGroup n g).others = s.others := rfl
@[simp] theorem State.setGroup_plan (n : Nat) (g : GroupSlot) : (s.setGroup n g).plan = s.plan := rfl
@[simp] theorem State.setGroup_heads (n : Nat) (g : GroupSlot) : (s.setGroup n g).heads = s.heads := rfl
@[simp] theorem State.setGroup_schedule (n : Nat) (g : GroupSlot) : (s.setGroup n g).schedule = s.schedule := rfl
@[simp] theorem State.setGroup_verdict (n : Nat) (g : GroupSlot) : (s.setGroup n g).verdict = s.verdict := rfl
@[simp] theorem State.setGroup_free (n : Nat) (g : GroupSlot) : (s.setGroup n g).free = s.free := rfl
@[simp] theorem State.setGroup_trapDue (n : Nat) (g : GroupSlot) : (s.setGroup n g).trapDue = s.trapDue := rfl
@[simp] theorem State.setGroup_roots (n : Nat) (g : GroupSlot) : (s.setGroup n g).roots = s.roots := rfl
@[simp] theorem State.setGroup_mem (n : Nat) (g : GroupSlot) : (s.setGroup n g).mem = s.mem := rfl
@[simp] theorem State.setGroup_remote (n : Nat) (g : GroupSlot) : (s.setGroup n g).remote = s.remote := rfl
@[simp] theorem State.setGroup_stamps (n : Nat) (g : GroupSlot) : (s.setGroup n g).stamps = s.stamps := rfl
@[simp] theorem State.setGroup_hintErrors (n : Nat) (g : GroupSlot) : (s.setGroup n g).hintErrors = s.hintErrors := rfl
@[simp] theorem State.setGroup_cap (n : Nat) (g : GroupSlot) : (s.setGroup n g).cap = s.cap := rfl
@[simp] theorem State.setGroup_dcache (n : Nat) (g : GroupSlot) : (s.setGroup n g).dcache = s.dcache := rfl
@[simp] theorem State.setGroup_owners (n : Nat) (g : GroupSlot) : (s.setGroup n g).owners = s.owners := rfl
@[simp] theorem State.setGroup_l1 (n : Nat) (g : GroupSlot) : (s.setGroup n g).l1 = s.l1 := rfl
@[simp] theorem State.setGroup_tlb (n : Nat) (g : GroupSlot) : (s.setGroup n g).tlb = s.tlb := rfl
@[simp] theorem State.setGroup_pages (n : Nat) (g : GroupSlot) : (s.setGroup n g).pages = s.pages := rfl
@[simp] theorem State.setGroup_returns (n : Nat) (g : GroupSlot) : (s.setGroup n g).returns = s.returns := rfl
@[simp] theorem State.setGroup_worn (n : Nat) (g : GroupSlot) : (s.setGroup n g).worn = s.worn := rfl
@[simp] theorem State.setGroup_freePages (n : Nat) (g : GroupSlot) : (s.setGroup n g).freePages = s.freePages := rfl
@[simp] theorem State.setGroup_evictStacks (n : Nat) (g : GroupSlot) : (s.setGroup n g).evictStacks = s.evictStacks := rfl
@[simp] theorem State.setGroup_boundary (n : Nat) (g : GroupSlot) : (s.setGroup n g).boundary = s.boundary := rfl
@[simp] theorem State.setGroup_holds (n : Nat) (g : GroupSlot) : (s.setGroup n g).holds = s.holds := rfl
@[simp] theorem State.setGroup_lost (n : Nat) (g : GroupSlot) : (s.setGroup n g).lost = s.lost := rfl
@[simp] theorem State.setGroup_struck (n : Nat) (g : GroupSlot) : (s.setGroup n g).struck = s.struck := rfl
@[simp] theorem State.setGroup_wounds (n : Nat) (g : GroupSlot) : (s.setGroup n g).wounds = s.wounds := rfl
@[simp] theorem State.setGroup_walks (n : Nat) (g : GroupSlot) : (s.setGroup n g).walks = s.walks := rfl
@[simp] theorem State.setGroup_sent (n : Nat) (g : GroupSlot) : (s.setGroup n g).sent = s.sent := rfl
@[simp] theorem State.setGroup_quads (n : Nat) (g : GroupSlot) : (s.setGroup n g).quads = s.quads := rfl
@[simp] theorem State.setGroup_shLast (n : Nat) (g : GroupSlot) : (s.setGroup n g).shLast = s.shLast := rfl
@[simp] theorem State.setGroup_dies (n : Nat) (g : GroupSlot) : (s.setGroup n g).dies = s.dies := rfl
@[simp] theorem State.setGroup_tamb (n : Nat) (g : GroupSlot) : (s.setGroup n g).tamb = s.tamb := rfl
@[simp] theorem State.setGroup_groups (n : Nat) (g : GroupSlot) : (s.setGroup n g).groups = vset s.groups n g := rfl
@[simp] theorem State.setGroup_localRound (n : Nat) (g : GroupSlot) : (s.setGroup n g).localRound = s.localRound := rfl
@[simp] theorem State.setGroup_hub (n : Nat) (g : GroupSlot) : (s.setGroup n g).hub = s.hub := rfl
@[simp] theorem State.setGroup_power (n : Nat) (g : GroupSlot) : (s.setGroup n g).power = s.power := rfl
@[simp] theorem State.setGroup_flash (n : Nat) (g : GroupSlot) : (s.setGroup n g).flash = s.flash := rfl
@[simp] theorem State.setGroup_pending (n : Nat) (g : GroupSlot) : (s.setGroup n g).pending = s.pending := rfl
@[simp] theorem State.setGroup_audits (n : Nat) (g : GroupSlot) : (s.setGroup n g).audits = s.audits := rfl
@[simp] theorem State.setGroup_nextAudit (n : Nat) (g : GroupSlot) : (s.setGroup n g).nextAudit = s.nextAudit := rfl
@[simp] theorem State.setGroup_ended (n : Nat) (g : GroupSlot) : (s.setGroup n g).ended = s.ended := rfl
@[simp] theorem State.setGroup_harts (n : Nat) (g : GroupSlot) : (s.setGroup n g).harts = s.harts := rfl

/-! ### State.setQuad -/

@[simp] theorem State.setQuad_now (n : Nat) (q : QuadState) : (s.setQuad n q).now = s.now := rfl
@[simp] theorem State.setQuad_us (n : Nat) (q : QuadState) : (s.setQuad n q).us = s.us := rfl
@[simp] theorem State.setQuad_phase (n : Nat) (q : QuadState) : (s.setQuad n q).phase = s.phase := rfl
@[simp] theorem State.setQuad_ctx (n : Nat) (q : QuadState) : (s.setQuad n q).ctx = s.ctx := rfl
@[simp] theorem State.setQuad_others (n : Nat) (q : QuadState) : (s.setQuad n q).others = s.others := rfl
@[simp] theorem State.setQuad_plan (n : Nat) (q : QuadState) : (s.setQuad n q).plan = s.plan := rfl
@[simp] theorem State.setQuad_heads (n : Nat) (q : QuadState) : (s.setQuad n q).heads = s.heads := rfl
@[simp] theorem State.setQuad_schedule (n : Nat) (q : QuadState) : (s.setQuad n q).schedule = s.schedule := rfl
@[simp] theorem State.setQuad_verdict (n : Nat) (q : QuadState) : (s.setQuad n q).verdict = s.verdict := rfl
@[simp] theorem State.setQuad_free (n : Nat) (q : QuadState) : (s.setQuad n q).free = s.free := rfl
@[simp] theorem State.setQuad_trapDue (n : Nat) (q : QuadState) : (s.setQuad n q).trapDue = s.trapDue := rfl
@[simp] theorem State.setQuad_roots (n : Nat) (q : QuadState) : (s.setQuad n q).roots = s.roots := rfl
@[simp] theorem State.setQuad_mem (n : Nat) (q : QuadState) : (s.setQuad n q).mem = s.mem := rfl
@[simp] theorem State.setQuad_remote (n : Nat) (q : QuadState) : (s.setQuad n q).remote = s.remote := rfl
@[simp] theorem State.setQuad_stamps (n : Nat) (q : QuadState) : (s.setQuad n q).stamps = s.stamps := rfl
@[simp] theorem State.setQuad_hintErrors (n : Nat) (q : QuadState) : (s.setQuad n q).hintErrors = s.hintErrors := rfl
@[simp] theorem State.setQuad_cap (n : Nat) (q : QuadState) : (s.setQuad n q).cap = s.cap := rfl
@[simp] theorem State.setQuad_dcache (n : Nat) (q : QuadState) : (s.setQuad n q).dcache = s.dcache := rfl
@[simp] theorem State.setQuad_owners (n : Nat) (q : QuadState) : (s.setQuad n q).owners = s.owners := rfl
@[simp] theorem State.setQuad_l1 (n : Nat) (q : QuadState) : (s.setQuad n q).l1 = s.l1 := rfl
@[simp] theorem State.setQuad_tlb (n : Nat) (q : QuadState) : (s.setQuad n q).tlb = s.tlb := rfl
@[simp] theorem State.setQuad_pages (n : Nat) (q : QuadState) : (s.setQuad n q).pages = s.pages := rfl
@[simp] theorem State.setQuad_returns (n : Nat) (q : QuadState) : (s.setQuad n q).returns = s.returns := rfl
@[simp] theorem State.setQuad_worn (n : Nat) (q : QuadState) : (s.setQuad n q).worn = s.worn := rfl
@[simp] theorem State.setQuad_freePages (n : Nat) (q : QuadState) : (s.setQuad n q).freePages = s.freePages := rfl
@[simp] theorem State.setQuad_evictStacks (n : Nat) (q : QuadState) : (s.setQuad n q).evictStacks = s.evictStacks := rfl
@[simp] theorem State.setQuad_boundary (n : Nat) (q : QuadState) : (s.setQuad n q).boundary = s.boundary := rfl
@[simp] theorem State.setQuad_holds (n : Nat) (q : QuadState) : (s.setQuad n q).holds = s.holds := rfl
@[simp] theorem State.setQuad_lost (n : Nat) (q : QuadState) : (s.setQuad n q).lost = s.lost := rfl
@[simp] theorem State.setQuad_struck (n : Nat) (q : QuadState) : (s.setQuad n q).struck = s.struck := rfl
@[simp] theorem State.setQuad_wounds (n : Nat) (q : QuadState) : (s.setQuad n q).wounds = s.wounds := rfl
@[simp] theorem State.setQuad_walks (n : Nat) (q : QuadState) : (s.setQuad n q).walks = s.walks := rfl
@[simp] theorem State.setQuad_sent (n : Nat) (q : QuadState) : (s.setQuad n q).sent = s.sent := rfl
@[simp] theorem State.setQuad_quads (n : Nat) (q : QuadState) : (s.setQuad n q).quads = tabSet n q s.quads := rfl
@[simp] theorem State.setQuad_shLast (n : Nat) (q : QuadState) : (s.setQuad n q).shLast = s.shLast := rfl
@[simp] theorem State.setQuad_dies (n : Nat) (q : QuadState) : (s.setQuad n q).dies = s.dies := rfl
@[simp] theorem State.setQuad_tamb (n : Nat) (q : QuadState) : (s.setQuad n q).tamb = s.tamb := rfl
@[simp] theorem State.setQuad_groups (n : Nat) (q : QuadState) : (s.setQuad n q).groups = s.groups := rfl
@[simp] theorem State.setQuad_localRound (n : Nat) (q : QuadState) : (s.setQuad n q).localRound = s.localRound := rfl
@[simp] theorem State.setQuad_hub (n : Nat) (q : QuadState) : (s.setQuad n q).hub = s.hub := rfl
@[simp] theorem State.setQuad_power (n : Nat) (q : QuadState) : (s.setQuad n q).power = s.power := rfl
@[simp] theorem State.setQuad_flash (n : Nat) (q : QuadState) : (s.setQuad n q).flash = s.flash := rfl
@[simp] theorem State.setQuad_pending (n : Nat) (q : QuadState) : (s.setQuad n q).pending = s.pending := rfl
@[simp] theorem State.setQuad_audits (n : Nat) (q : QuadState) : (s.setQuad n q).audits = s.audits := rfl
@[simp] theorem State.setQuad_nextAudit (n : Nat) (q : QuadState) : (s.setQuad n q).nextAudit = s.nextAudit := rfl
@[simp] theorem State.setQuad_ended (n : Nat) (q : QuadState) : (s.setQuad n q).ended = s.ended := rfl
@[simp] theorem State.setQuad_harts (n : Nat) (q : QuadState) : (s.setQuad n q).harts = s.harts := rfl

/-! ### State.setGang -/

@[simp] theorem State.setGang_now (g : Gang) : (s.setGang g).now = s.now := rfl
@[simp] theorem State.setGang_us (g : Gang) : (s.setGang g).us = s.us := rfl
@[simp] theorem State.setGang_phase (g : Gang) : (s.setGang g).phase = s.phase := rfl
@[simp] theorem State.setGang_ctx (g : Gang) : (s.setGang g).ctx = s.ctx := rfl
@[simp] theorem State.setGang_others (g : Gang) : (s.setGang g).others = s.others := rfl
@[simp] theorem State.setGang_plan (g : Gang) : (s.setGang g).plan = s.plan := rfl
@[simp] theorem State.setGang_heads (g : Gang) : (s.setGang g).heads = s.heads := rfl
@[simp] theorem State.setGang_schedule (g : Gang) : (s.setGang g).schedule = s.schedule := rfl
@[simp] theorem State.setGang_verdict (g : Gang) : (s.setGang g).verdict = s.verdict := rfl
@[simp] theorem State.setGang_free (g : Gang) : (s.setGang g).free = s.free := rfl
@[simp] theorem State.setGang_trapDue (g : Gang) : (s.setGang g).trapDue = s.trapDue := rfl
@[simp] theorem State.setGang_roots (g : Gang) : (s.setGang g).roots = s.roots := rfl
@[simp] theorem State.setGang_mem (g : Gang) : (s.setGang g).mem = s.mem := rfl
@[simp] theorem State.setGang_remote (g : Gang) : (s.setGang g).remote = s.remote := rfl
@[simp] theorem State.setGang_stamps (g : Gang) : (s.setGang g).stamps = s.stamps := rfl
@[simp] theorem State.setGang_hintErrors (g : Gang) : (s.setGang g).hintErrors = s.hintErrors := rfl
@[simp] theorem State.setGang_cap (g : Gang) : (s.setGang g).cap = s.cap := rfl
@[simp] theorem State.setGang_dcache (g : Gang) : (s.setGang g).dcache = s.dcache := rfl
@[simp] theorem State.setGang_owners (g : Gang) : (s.setGang g).owners = s.owners := rfl
@[simp] theorem State.setGang_l1 (g : Gang) : (s.setGang g).l1 = s.l1 := rfl
@[simp] theorem State.setGang_tlb (g : Gang) : (s.setGang g).tlb = s.tlb := rfl
@[simp] theorem State.setGang_pages (g : Gang) : (s.setGang g).pages = s.pages := rfl
@[simp] theorem State.setGang_returns (g : Gang) : (s.setGang g).returns = s.returns := rfl
@[simp] theorem State.setGang_worn (g : Gang) : (s.setGang g).worn = s.worn := rfl
@[simp] theorem State.setGang_freePages (g : Gang) : (s.setGang g).freePages = s.freePages := rfl
@[simp] theorem State.setGang_evictStacks (g : Gang) : (s.setGang g).evictStacks = s.evictStacks := rfl
@[simp] theorem State.setGang_boundary (g : Gang) : (s.setGang g).boundary = s.boundary := rfl
@[simp] theorem State.setGang_holds (g : Gang) : (s.setGang g).holds = s.holds := rfl
@[simp] theorem State.setGang_lost (g : Gang) : (s.setGang g).lost = s.lost := rfl
@[simp] theorem State.setGang_struck (g : Gang) : (s.setGang g).struck = s.struck := rfl
@[simp] theorem State.setGang_wounds (g : Gang) : (s.setGang g).wounds = s.wounds := rfl
@[simp] theorem State.setGang_walks (g : Gang) : (s.setGang g).walks = s.walks := rfl
@[simp] theorem State.setGang_sent (g : Gang) : (s.setGang g).sent = s.sent := rfl
@[simp] theorem State.setGang_quads (g : Gang) : (s.setGang g).quads = s.quads := rfl
@[simp] theorem State.setGang_shLast (g : Gang) : (s.setGang g).shLast = s.shLast := rfl
@[simp] theorem State.setGang_dies (g : Gang) : (s.setGang g).dies = s.dies := rfl
@[simp] theorem State.setGang_groups (g : Gang) : (s.setGang g).groups = s.groups := rfl
@[simp] theorem State.setGang_localRound (g : Gang) : (s.setGang g).localRound = s.localRound := rfl
@[simp] theorem State.setGang_hub (g : Gang) : (s.setGang g).hub = s.hub := rfl
@[simp] theorem State.setGang_power (g : Gang) : (s.setGang g).power = s.power := rfl
@[simp] theorem State.setGang_flash (g : Gang) : (s.setGang g).flash = s.flash := rfl
@[simp] theorem State.setGang_pending (g : Gang) : (s.setGang g).pending = s.pending := rfl
@[simp] theorem State.setGang_audits (g : Gang) : (s.setGang g).audits = s.audits := rfl
@[simp] theorem State.setGang_nextAudit (g : Gang) : (s.setGang g).nextAudit = s.nextAudit := rfl
@[simp] theorem State.setGang_ended (g : Gang) : (s.setGang g).ended = s.ended := rfl
@[simp] theorem State.setGang_harts (g : Gang) : (s.setGang g).harts = s.harts := rfl

/-! ### State.setHwSlot -/

@[simp] theorem State.setHwSlot_now (k : Nat) (h : HwSlot) : (s.setHwSlot k h).now = s.now := rfl
@[simp] theorem State.setHwSlot_us (k : Nat) (h : HwSlot) : (s.setHwSlot k h).us = s.us := rfl
@[simp] theorem State.setHwSlot_phase (k : Nat) (h : HwSlot) : (s.setHwSlot k h).phase = s.phase := rfl
@[simp] theorem State.setHwSlot_ctx (k : Nat) (h : HwSlot) : (s.setHwSlot k h).ctx = s.ctx := rfl
@[simp] theorem State.setHwSlot_others (k : Nat) (h : HwSlot) : (s.setHwSlot k h).others = s.others := rfl
@[simp] theorem State.setHwSlot_plan (k : Nat) (h : HwSlot) : (s.setHwSlot k h).plan = s.plan := rfl
@[simp] theorem State.setHwSlot_heads (k : Nat) (h : HwSlot) : (s.setHwSlot k h).heads = s.heads := rfl
@[simp] theorem State.setHwSlot_schedule (k : Nat) (h : HwSlot) : (s.setHwSlot k h).schedule = s.schedule := rfl
@[simp] theorem State.setHwSlot_verdict (k : Nat) (h : HwSlot) : (s.setHwSlot k h).verdict = s.verdict := rfl
@[simp] theorem State.setHwSlot_free (k : Nat) (h : HwSlot) : (s.setHwSlot k h).free = s.free := rfl
@[simp] theorem State.setHwSlot_trapDue (k : Nat) (h : HwSlot) : (s.setHwSlot k h).trapDue = s.trapDue := rfl
@[simp] theorem State.setHwSlot_roots (k : Nat) (h : HwSlot) : (s.setHwSlot k h).roots = s.roots := rfl
@[simp] theorem State.setHwSlot_mem (k : Nat) (h : HwSlot) : (s.setHwSlot k h).mem = s.mem := rfl
@[simp] theorem State.setHwSlot_remote (k : Nat) (h : HwSlot) : (s.setHwSlot k h).remote = s.remote := rfl
@[simp] theorem State.setHwSlot_stamps (k : Nat) (h : HwSlot) : (s.setHwSlot k h).stamps = s.stamps := rfl
@[simp] theorem State.setHwSlot_hintErrors (k : Nat) (h : HwSlot) : (s.setHwSlot k h).hintErrors = s.hintErrors := rfl
@[simp] theorem State.setHwSlot_cap (k : Nat) (h : HwSlot) : (s.setHwSlot k h).cap = s.cap := rfl
@[simp] theorem State.setHwSlot_dcache (k : Nat) (h : HwSlot) : (s.setHwSlot k h).dcache = s.dcache := rfl
@[simp] theorem State.setHwSlot_owners (k : Nat) (h : HwSlot) : (s.setHwSlot k h).owners = s.owners := rfl
@[simp] theorem State.setHwSlot_l1 (k : Nat) (h : HwSlot) : (s.setHwSlot k h).l1 = s.l1 := rfl
@[simp] theorem State.setHwSlot_tlb (k : Nat) (h : HwSlot) : (s.setHwSlot k h).tlb = s.tlb := rfl
@[simp] theorem State.setHwSlot_pages (k : Nat) (h : HwSlot) : (s.setHwSlot k h).pages = s.pages := rfl
@[simp] theorem State.setHwSlot_returns (k : Nat) (h : HwSlot) : (s.setHwSlot k h).returns = s.returns := rfl
@[simp] theorem State.setHwSlot_worn (k : Nat) (h : HwSlot) : (s.setHwSlot k h).worn = s.worn := rfl
@[simp] theorem State.setHwSlot_freePages (k : Nat) (h : HwSlot) : (s.setHwSlot k h).freePages = s.freePages := rfl
@[simp] theorem State.setHwSlot_evictStacks (k : Nat) (h : HwSlot) : (s.setHwSlot k h).evictStacks = s.evictStacks := rfl
@[simp] theorem State.setHwSlot_boundary (k : Nat) (h : HwSlot) : (s.setHwSlot k h).boundary = s.boundary := rfl
@[simp] theorem State.setHwSlot_holds (k : Nat) (h : HwSlot) : (s.setHwSlot k h).holds = s.holds := rfl
@[simp] theorem State.setHwSlot_lost (k : Nat) (h : HwSlot) : (s.setHwSlot k h).lost = s.lost := rfl
@[simp] theorem State.setHwSlot_struck (k : Nat) (h : HwSlot) : (s.setHwSlot k h).struck = s.struck := rfl
@[simp] theorem State.setHwSlot_wounds (k : Nat) (h : HwSlot) : (s.setHwSlot k h).wounds = s.wounds := rfl
@[simp] theorem State.setHwSlot_walks (k : Nat) (h : HwSlot) : (s.setHwSlot k h).walks = s.walks := rfl
@[simp] theorem State.setHwSlot_sent (k : Nat) (h : HwSlot) : (s.setHwSlot k h).sent = s.sent := rfl
@[simp] theorem State.setHwSlot_quads (k : Nat) (h : HwSlot) : (s.setHwSlot k h).quads = s.quads := rfl
@[simp] theorem State.setHwSlot_shLast (k : Nat) (h : HwSlot) : (s.setHwSlot k h).shLast = s.shLast := rfl
@[simp] theorem State.setHwSlot_dies (k : Nat) (h : HwSlot) : (s.setHwSlot k h).dies = s.dies := rfl
@[simp] theorem State.setHwSlot_groups (k : Nat) (h : HwSlot) : (s.setHwSlot k h).groups = s.groups := rfl
@[simp] theorem State.setHwSlot_localRound (k : Nat) (h : HwSlot) : (s.setHwSlot k h).localRound = s.localRound := rfl
@[simp] theorem State.setHwSlot_hub (k : Nat) (h : HwSlot) : (s.setHwSlot k h).hub = s.hub := rfl
@[simp] theorem State.setHwSlot_power (k : Nat) (h : HwSlot) : (s.setHwSlot k h).power = s.power := rfl
@[simp] theorem State.setHwSlot_flash (k : Nat) (h : HwSlot) : (s.setHwSlot k h).flash = s.flash := rfl
@[simp] theorem State.setHwSlot_pending (k : Nat) (h : HwSlot) : (s.setHwSlot k h).pending = s.pending := rfl
@[simp] theorem State.setHwSlot_audits (k : Nat) (h : HwSlot) : (s.setHwSlot k h).audits = s.audits := rfl
@[simp] theorem State.setHwSlot_nextAudit (k : Nat) (h : HwSlot) : (s.setHwSlot k h).nextAudit = s.nextAudit := rfl
@[simp] theorem State.setHwSlot_ended (k : Nat) (h : HwSlot) : (s.setHwSlot k h).ended = s.ended := rfl
@[simp] theorem State.setHwSlot_harts (k : Nat) (h : HwSlot) : (s.setHwSlot k h).harts = s.harts := rfl

/-! ### State.setL1 -/

@[simp] theorem State.setL1_now (n : Nat) (l : L1) : (s.setL1 n l).now = s.now := rfl
@[simp] theorem State.setL1_us (n : Nat) (l : L1) : (s.setL1 n l).us = s.us := rfl
@[simp] theorem State.setL1_phase (n : Nat) (l : L1) : (s.setL1 n l).phase = s.phase := rfl
@[simp] theorem State.setL1_ctx (n : Nat) (l : L1) : (s.setL1 n l).ctx = s.ctx := rfl
@[simp] theorem State.setL1_others (n : Nat) (l : L1) : (s.setL1 n l).others = s.others := rfl
@[simp] theorem State.setL1_plan (n : Nat) (l : L1) : (s.setL1 n l).plan = s.plan := rfl
@[simp] theorem State.setL1_heads (n : Nat) (l : L1) : (s.setL1 n l).heads = s.heads := rfl
@[simp] theorem State.setL1_schedule (n : Nat) (l : L1) : (s.setL1 n l).schedule = s.schedule := rfl
@[simp] theorem State.setL1_verdict (n : Nat) (l : L1) : (s.setL1 n l).verdict = s.verdict := rfl
@[simp] theorem State.setL1_free (n : Nat) (l : L1) : (s.setL1 n l).free = s.free := rfl
@[simp] theorem State.setL1_trapDue (n : Nat) (l : L1) : (s.setL1 n l).trapDue = s.trapDue := rfl
@[simp] theorem State.setL1_roots (n : Nat) (l : L1) : (s.setL1 n l).roots = s.roots := rfl
@[simp] theorem State.setL1_mem (n : Nat) (l : L1) : (s.setL1 n l).mem = s.mem := rfl
@[simp] theorem State.setL1_remote (n : Nat) (l : L1) : (s.setL1 n l).remote = s.remote := rfl
@[simp] theorem State.setL1_stamps (n : Nat) (l : L1) : (s.setL1 n l).stamps = s.stamps := rfl
@[simp] theorem State.setL1_hintErrors (n : Nat) (l : L1) : (s.setL1 n l).hintErrors = s.hintErrors := rfl
@[simp] theorem State.setL1_cap (n : Nat) (l : L1) : (s.setL1 n l).cap = s.cap := rfl
@[simp] theorem State.setL1_dcache (n : Nat) (l : L1) : (s.setL1 n l).dcache = s.dcache := rfl
@[simp] theorem State.setL1_owners (n : Nat) (l : L1) : (s.setL1 n l).owners = s.owners := rfl
@[simp] theorem State.setL1_l1 (n : Nat) (l : L1) : (s.setL1 n l).l1 = tabSet n l s.l1 := rfl
@[simp] theorem State.setL1_tlb (n : Nat) (l : L1) : (s.setL1 n l).tlb = s.tlb := rfl
@[simp] theorem State.setL1_pages (n : Nat) (l : L1) : (s.setL1 n l).pages = s.pages := rfl
@[simp] theorem State.setL1_returns (n : Nat) (l : L1) : (s.setL1 n l).returns = s.returns := rfl
@[simp] theorem State.setL1_worn (n : Nat) (l : L1) : (s.setL1 n l).worn = s.worn := rfl
@[simp] theorem State.setL1_freePages (n : Nat) (l : L1) : (s.setL1 n l).freePages = s.freePages := rfl
@[simp] theorem State.setL1_evictStacks (n : Nat) (l : L1) : (s.setL1 n l).evictStacks = s.evictStacks := rfl
@[simp] theorem State.setL1_boundary (n : Nat) (l : L1) : (s.setL1 n l).boundary = s.boundary := rfl
@[simp] theorem State.setL1_holds (n : Nat) (l : L1) : (s.setL1 n l).holds = s.holds := rfl
@[simp] theorem State.setL1_lost (n : Nat) (l : L1) : (s.setL1 n l).lost = s.lost := rfl
@[simp] theorem State.setL1_struck (n : Nat) (l : L1) : (s.setL1 n l).struck = s.struck := rfl
@[simp] theorem State.setL1_wounds (n : Nat) (l : L1) : (s.setL1 n l).wounds = s.wounds := rfl
@[simp] theorem State.setL1_walks (n : Nat) (l : L1) : (s.setL1 n l).walks = s.walks := rfl
@[simp] theorem State.setL1_sent (n : Nat) (l : L1) : (s.setL1 n l).sent = s.sent := rfl
@[simp] theorem State.setL1_quads (n : Nat) (l : L1) : (s.setL1 n l).quads = s.quads := rfl
@[simp] theorem State.setL1_shLast (n : Nat) (l : L1) : (s.setL1 n l).shLast = s.shLast := rfl
@[simp] theorem State.setL1_dies (n : Nat) (l : L1) : (s.setL1 n l).dies = s.dies := rfl
@[simp] theorem State.setL1_tamb (n : Nat) (l : L1) : (s.setL1 n l).tamb = s.tamb := rfl
@[simp] theorem State.setL1_groups (n : Nat) (l : L1) : (s.setL1 n l).groups = s.groups := rfl
@[simp] theorem State.setL1_localRound (n : Nat) (l : L1) : (s.setL1 n l).localRound = s.localRound := rfl
@[simp] theorem State.setL1_hub (n : Nat) (l : L1) : (s.setL1 n l).hub = s.hub := rfl
@[simp] theorem State.setL1_power (n : Nat) (l : L1) : (s.setL1 n l).power = s.power := rfl
@[simp] theorem State.setL1_flash (n : Nat) (l : L1) : (s.setL1 n l).flash = s.flash := rfl
@[simp] theorem State.setL1_pending (n : Nat) (l : L1) : (s.setL1 n l).pending = s.pending := rfl
@[simp] theorem State.setL1_audits (n : Nat) (l : L1) : (s.setL1 n l).audits = s.audits := rfl
@[simp] theorem State.setL1_nextAudit (n : Nat) (l : L1) : (s.setL1 n l).nextAudit = s.nextAudit := rfl
@[simp] theorem State.setL1_ended (n : Nat) (l : L1) : (s.setL1 n l).ended = s.ended := rfl
@[simp] theorem State.setL1_harts (n : Nat) (l : L1) : (s.setL1 n l).harts = s.harts := rfl

/-! ### State.putPage -/

@[simp] theorem State.putPage_now (p : PageInfo) : (s.putPage p).now = s.now := rfl
@[simp] theorem State.putPage_us (p : PageInfo) : (s.putPage p).us = s.us := rfl
@[simp] theorem State.putPage_phase (p : PageInfo) : (s.putPage p).phase = s.phase := rfl
@[simp] theorem State.putPage_ctx (p : PageInfo) : (s.putPage p).ctx = s.ctx := rfl
@[simp] theorem State.putPage_others (p : PageInfo) : (s.putPage p).others = s.others := rfl
@[simp] theorem State.putPage_plan (p : PageInfo) : (s.putPage p).plan = s.plan := rfl
@[simp] theorem State.putPage_heads (p : PageInfo) : (s.putPage p).heads = s.heads := rfl
@[simp] theorem State.putPage_schedule (p : PageInfo) : (s.putPage p).schedule = s.schedule := rfl
@[simp] theorem State.putPage_verdict (p : PageInfo) : (s.putPage p).verdict = s.verdict := rfl
@[simp] theorem State.putPage_free (p : PageInfo) : (s.putPage p).free = s.free := rfl
@[simp] theorem State.putPage_trapDue (p : PageInfo) : (s.putPage p).trapDue = s.trapDue := rfl
@[simp] theorem State.putPage_roots (p : PageInfo) : (s.putPage p).roots = s.roots := rfl
@[simp] theorem State.putPage_mem (p : PageInfo) : (s.putPage p).mem = s.mem := rfl
@[simp] theorem State.putPage_remote (p : PageInfo) : (s.putPage p).remote = s.remote := rfl
@[simp] theorem State.putPage_stamps (p : PageInfo) : (s.putPage p).stamps = s.stamps := rfl
@[simp] theorem State.putPage_hintErrors (p : PageInfo) : (s.putPage p).hintErrors = s.hintErrors := rfl
@[simp] theorem State.putPage_cap (p : PageInfo) : (s.putPage p).cap = s.cap := rfl
@[simp] theorem State.putPage_dcache (p : PageInfo) : (s.putPage p).dcache = s.dcache := rfl
@[simp] theorem State.putPage_owners (p : PageInfo) : (s.putPage p).owners = s.owners := rfl
@[simp] theorem State.putPage_l1 (p : PageInfo) : (s.putPage p).l1 = s.l1 := rfl
@[simp] theorem State.putPage_tlb (p : PageInfo) : (s.putPage p).tlb = s.tlb := rfl
@[simp] theorem State.putPage_returns (p : PageInfo) : (s.putPage p).returns = s.returns := rfl
@[simp] theorem State.putPage_worn (p : PageInfo) : (s.putPage p).worn = s.worn := rfl
@[simp] theorem State.putPage_freePages (p : PageInfo) : (s.putPage p).freePages = s.freePages := rfl
@[simp] theorem State.putPage_evictStacks (p : PageInfo) : (s.putPage p).evictStacks = s.evictStacks := rfl
@[simp] theorem State.putPage_boundary (p : PageInfo) : (s.putPage p).boundary = s.boundary := rfl
@[simp] theorem State.putPage_holds (p : PageInfo) : (s.putPage p).holds = s.holds := rfl
@[simp] theorem State.putPage_lost (p : PageInfo) : (s.putPage p).lost = s.lost := rfl
@[simp] theorem State.putPage_struck (p : PageInfo) : (s.putPage p).struck = s.struck := rfl
@[simp] theorem State.putPage_wounds (p : PageInfo) : (s.putPage p).wounds = s.wounds := rfl
@[simp] theorem State.putPage_walks (p : PageInfo) : (s.putPage p).walks = s.walks := rfl
@[simp] theorem State.putPage_sent (p : PageInfo) : (s.putPage p).sent = s.sent := rfl
@[simp] theorem State.putPage_quads (p : PageInfo) : (s.putPage p).quads = s.quads := rfl
@[simp] theorem State.putPage_shLast (p : PageInfo) : (s.putPage p).shLast = s.shLast := rfl
@[simp] theorem State.putPage_dies (p : PageInfo) : (s.putPage p).dies = s.dies := rfl
@[simp] theorem State.putPage_tamb (p : PageInfo) : (s.putPage p).tamb = s.tamb := rfl
@[simp] theorem State.putPage_groups (p : PageInfo) : (s.putPage p).groups = s.groups := rfl
@[simp] theorem State.putPage_localRound (p : PageInfo) : (s.putPage p).localRound = s.localRound := rfl
@[simp] theorem State.putPage_hub (p : PageInfo) : (s.putPage p).hub = s.hub := rfl
@[simp] theorem State.putPage_power (p : PageInfo) : (s.putPage p).power = s.power := rfl
@[simp] theorem State.putPage_flash (p : PageInfo) : (s.putPage p).flash = s.flash := rfl
@[simp] theorem State.putPage_pending (p : PageInfo) : (s.putPage p).pending = s.pending := rfl
@[simp] theorem State.putPage_audits (p : PageInfo) : (s.putPage p).audits = s.audits := rfl
@[simp] theorem State.putPage_nextAudit (p : PageInfo) : (s.putPage p).nextAudit = s.nextAudit := rfl
@[simp] theorem State.putPage_ended (p : PageInfo) : (s.putPage p).ended = s.ended := rfl
@[simp] theorem State.putPage_harts (p : PageInfo) : (s.putPage p).harts = s.harts := rfl

/-! ### State.putLine -/

@[simp] theorem State.putLine_now (l : DieLine) : (s.putLine l).now = s.now := rfl
@[simp] theorem State.putLine_us (l : DieLine) : (s.putLine l).us = s.us := rfl
@[simp] theorem State.putLine_phase (l : DieLine) : (s.putLine l).phase = s.phase := rfl
@[simp] theorem State.putLine_ctx (l : DieLine) : (s.putLine l).ctx = s.ctx := rfl
@[simp] theorem State.putLine_others (l : DieLine) : (s.putLine l).others = s.others := rfl
@[simp] theorem State.putLine_plan (l : DieLine) : (s.putLine l).plan = s.plan := rfl
@[simp] theorem State.putLine_heads (l : DieLine) : (s.putLine l).heads = s.heads := rfl
@[simp] theorem State.putLine_schedule (l : DieLine) : (s.putLine l).schedule = s.schedule := rfl
@[simp] theorem State.putLine_verdict (l : DieLine) : (s.putLine l).verdict = s.verdict := rfl
@[simp] theorem State.putLine_free (l : DieLine) : (s.putLine l).free = s.free := rfl
@[simp] theorem State.putLine_trapDue (l : DieLine) : (s.putLine l).trapDue = s.trapDue := rfl
@[simp] theorem State.putLine_roots (l : DieLine) : (s.putLine l).roots = s.roots := rfl
@[simp] theorem State.putLine_mem (l : DieLine) : (s.putLine l).mem = s.mem := rfl
@[simp] theorem State.putLine_remote (l : DieLine) : (s.putLine l).remote = s.remote := rfl
@[simp] theorem State.putLine_stamps (l : DieLine) : (s.putLine l).stamps = s.stamps := rfl
@[simp] theorem State.putLine_hintErrors (l : DieLine) : (s.putLine l).hintErrors = s.hintErrors := rfl
@[simp] theorem State.putLine_cap (l : DieLine) : (s.putLine l).cap = s.cap := rfl
@[simp] theorem State.putLine_owners (l : DieLine) : (s.putLine l).owners = s.owners := rfl
@[simp] theorem State.putLine_l1 (l : DieLine) : (s.putLine l).l1 = s.l1 := rfl
@[simp] theorem State.putLine_tlb (l : DieLine) : (s.putLine l).tlb = s.tlb := rfl
@[simp] theorem State.putLine_pages (l : DieLine) : (s.putLine l).pages = s.pages := rfl
@[simp] theorem State.putLine_returns (l : DieLine) : (s.putLine l).returns = s.returns := rfl
@[simp] theorem State.putLine_worn (l : DieLine) : (s.putLine l).worn = s.worn := rfl
@[simp] theorem State.putLine_freePages (l : DieLine) : (s.putLine l).freePages = s.freePages := rfl
@[simp] theorem State.putLine_evictStacks (l : DieLine) : (s.putLine l).evictStacks = s.evictStacks := rfl
@[simp] theorem State.putLine_boundary (l : DieLine) : (s.putLine l).boundary = s.boundary := rfl
@[simp] theorem State.putLine_holds (l : DieLine) : (s.putLine l).holds = s.holds := rfl
@[simp] theorem State.putLine_lost (l : DieLine) : (s.putLine l).lost = s.lost := rfl
@[simp] theorem State.putLine_struck (l : DieLine) : (s.putLine l).struck = s.struck := rfl
@[simp] theorem State.putLine_wounds (l : DieLine) : (s.putLine l).wounds = s.wounds := rfl
@[simp] theorem State.putLine_walks (l : DieLine) : (s.putLine l).walks = s.walks := rfl
@[simp] theorem State.putLine_sent (l : DieLine) : (s.putLine l).sent = s.sent := rfl
@[simp] theorem State.putLine_quads (l : DieLine) : (s.putLine l).quads = s.quads := rfl
@[simp] theorem State.putLine_shLast (l : DieLine) : (s.putLine l).shLast = s.shLast := rfl
@[simp] theorem State.putLine_dies (l : DieLine) : (s.putLine l).dies = s.dies := rfl
@[simp] theorem State.putLine_tamb (l : DieLine) : (s.putLine l).tamb = s.tamb := rfl
@[simp] theorem State.putLine_groups (l : DieLine) : (s.putLine l).groups = s.groups := rfl
@[simp] theorem State.putLine_localRound (l : DieLine) : (s.putLine l).localRound = s.localRound := rfl
@[simp] theorem State.putLine_hub (l : DieLine) : (s.putLine l).hub = s.hub := rfl
@[simp] theorem State.putLine_power (l : DieLine) : (s.putLine l).power = s.power := rfl
@[simp] theorem State.putLine_flash (l : DieLine) : (s.putLine l).flash = s.flash := rfl
@[simp] theorem State.putLine_pending (l : DieLine) : (s.putLine l).pending = s.pending := rfl
@[simp] theorem State.putLine_audits (l : DieLine) : (s.putLine l).audits = s.audits := rfl
@[simp] theorem State.putLine_nextAudit (l : DieLine) : (s.putLine l).nextAudit = s.nextAudit := rfl
@[simp] theorem State.putLine_ended (l : DieLine) : (s.putLine l).ended = s.ended := rfl
@[simp] theorem State.putLine_harts (l : DieLine) : (s.putLine l).harts = s.harts := rfl

/-! ### State.modHub -/

@[simp] theorem State.modHub_now (f : Hub → Hub) : (s.modHub f).now = s.now := rfl
@[simp] theorem State.modHub_us (f : Hub → Hub) : (s.modHub f).us = s.us := rfl
@[simp] theorem State.modHub_phase (f : Hub → Hub) : (s.modHub f).phase = s.phase := rfl
@[simp] theorem State.modHub_ctx (f : Hub → Hub) : (s.modHub f).ctx = s.ctx := rfl
@[simp] theorem State.modHub_others (f : Hub → Hub) : (s.modHub f).others = s.others := rfl
@[simp] theorem State.modHub_plan (f : Hub → Hub) : (s.modHub f).plan = s.plan := rfl
@[simp] theorem State.modHub_heads (f : Hub → Hub) : (s.modHub f).heads = s.heads := rfl
@[simp] theorem State.modHub_schedule (f : Hub → Hub) : (s.modHub f).schedule = s.schedule := rfl
@[simp] theorem State.modHub_verdict (f : Hub → Hub) : (s.modHub f).verdict = s.verdict := rfl
@[simp] theorem State.modHub_free (f : Hub → Hub) : (s.modHub f).free = s.free := rfl
@[simp] theorem State.modHub_trapDue (f : Hub → Hub) : (s.modHub f).trapDue = s.trapDue := rfl
@[simp] theorem State.modHub_roots (f : Hub → Hub) : (s.modHub f).roots = s.roots := rfl
@[simp] theorem State.modHub_mem (f : Hub → Hub) : (s.modHub f).mem = s.mem := rfl
@[simp] theorem State.modHub_remote (f : Hub → Hub) : (s.modHub f).remote = s.remote := rfl
@[simp] theorem State.modHub_stamps (f : Hub → Hub) : (s.modHub f).stamps = s.stamps := rfl
@[simp] theorem State.modHub_hintErrors (f : Hub → Hub) : (s.modHub f).hintErrors = s.hintErrors := rfl
@[simp] theorem State.modHub_cap (f : Hub → Hub) : (s.modHub f).cap = s.cap := rfl
@[simp] theorem State.modHub_dcache (f : Hub → Hub) : (s.modHub f).dcache = s.dcache := rfl
@[simp] theorem State.modHub_owners (f : Hub → Hub) : (s.modHub f).owners = s.owners := rfl
@[simp] theorem State.modHub_l1 (f : Hub → Hub) : (s.modHub f).l1 = s.l1 := rfl
@[simp] theorem State.modHub_tlb (f : Hub → Hub) : (s.modHub f).tlb = s.tlb := rfl
@[simp] theorem State.modHub_pages (f : Hub → Hub) : (s.modHub f).pages = s.pages := rfl
@[simp] theorem State.modHub_returns (f : Hub → Hub) : (s.modHub f).returns = s.returns := rfl
@[simp] theorem State.modHub_worn (f : Hub → Hub) : (s.modHub f).worn = s.worn := rfl
@[simp] theorem State.modHub_freePages (f : Hub → Hub) : (s.modHub f).freePages = s.freePages := rfl
@[simp] theorem State.modHub_evictStacks (f : Hub → Hub) : (s.modHub f).evictStacks = s.evictStacks := rfl
@[simp] theorem State.modHub_boundary (f : Hub → Hub) : (s.modHub f).boundary = s.boundary := rfl
@[simp] theorem State.modHub_holds (f : Hub → Hub) : (s.modHub f).holds = s.holds := rfl
@[simp] theorem State.modHub_lost (f : Hub → Hub) : (s.modHub f).lost = s.lost := rfl
@[simp] theorem State.modHub_struck (f : Hub → Hub) : (s.modHub f).struck = s.struck := rfl
@[simp] theorem State.modHub_wounds (f : Hub → Hub) : (s.modHub f).wounds = s.wounds := rfl
@[simp] theorem State.modHub_walks (f : Hub → Hub) : (s.modHub f).walks = s.walks := rfl
@[simp] theorem State.modHub_sent (f : Hub → Hub) : (s.modHub f).sent = s.sent := rfl
@[simp] theorem State.modHub_quads (f : Hub → Hub) : (s.modHub f).quads = s.quads := rfl
@[simp] theorem State.modHub_shLast (f : Hub → Hub) : (s.modHub f).shLast = s.shLast := rfl
@[simp] theorem State.modHub_dies (f : Hub → Hub) : (s.modHub f).dies = s.dies := rfl
@[simp] theorem State.modHub_tamb (f : Hub → Hub) : (s.modHub f).tamb = s.tamb := rfl
@[simp] theorem State.modHub_groups (f : Hub → Hub) : (s.modHub f).groups = s.groups := rfl
@[simp] theorem State.modHub_localRound (f : Hub → Hub) : (s.modHub f).localRound = s.localRound := rfl
@[simp] theorem State.modHub_hub (f : Hub → Hub) : (s.modHub f).hub = f s.hub := rfl
@[simp] theorem State.modHub_power (f : Hub → Hub) : (s.modHub f).power = s.power := rfl
@[simp] theorem State.modHub_flash (f : Hub → Hub) : (s.modHub f).flash = s.flash := rfl
@[simp] theorem State.modHub_pending (f : Hub → Hub) : (s.modHub f).pending = s.pending := rfl
@[simp] theorem State.modHub_audits (f : Hub → Hub) : (s.modHub f).audits = s.audits := rfl
@[simp] theorem State.modHub_nextAudit (f : Hub → Hub) : (s.modHub f).nextAudit = s.nextAudit := rfl
@[simp] theorem State.modHub_ended (f : Hub → Hub) : (s.modHub f).ended = s.ended := rfl
@[simp] theorem State.modHub_harts (f : Hub → Hub) : (s.modHub f).harts = s.harts := rfl

/-! ### State.modDie -/

@[simp] theorem State.modDie_now (d : Nat) (f : DieState → DieState) : (s.modDie d f).now = s.now := rfl
@[simp] theorem State.modDie_us (d : Nat) (f : DieState → DieState) : (s.modDie d f).us = s.us := rfl
@[simp] theorem State.modDie_phase (d : Nat) (f : DieState → DieState) : (s.modDie d f).phase = s.phase := rfl
@[simp] theorem State.modDie_ctx (d : Nat) (f : DieState → DieState) : (s.modDie d f).ctx = s.ctx := rfl
@[simp] theorem State.modDie_others (d : Nat) (f : DieState → DieState) : (s.modDie d f).others = s.others := rfl
@[simp] theorem State.modDie_plan (d : Nat) (f : DieState → DieState) : (s.modDie d f).plan = s.plan := rfl
@[simp] theorem State.modDie_heads (d : Nat) (f : DieState → DieState) : (s.modDie d f).heads = s.heads := rfl
@[simp] theorem State.modDie_schedule (d : Nat) (f : DieState → DieState) : (s.modDie d f).schedule = s.schedule := rfl
@[simp] theorem State.modDie_verdict (d : Nat) (f : DieState → DieState) : (s.modDie d f).verdict = s.verdict := rfl
@[simp] theorem State.modDie_free (d : Nat) (f : DieState → DieState) : (s.modDie d f).free = s.free := rfl
@[simp] theorem State.modDie_trapDue (d : Nat) (f : DieState → DieState) : (s.modDie d f).trapDue = s.trapDue := rfl
@[simp] theorem State.modDie_roots (d : Nat) (f : DieState → DieState) : (s.modDie d f).roots = s.roots := rfl
@[simp] theorem State.modDie_mem (d : Nat) (f : DieState → DieState) : (s.modDie d f).mem = s.mem := rfl
@[simp] theorem State.modDie_remote (d : Nat) (f : DieState → DieState) : (s.modDie d f).remote = s.remote := rfl
@[simp] theorem State.modDie_stamps (d : Nat) (f : DieState → DieState) : (s.modDie d f).stamps = s.stamps := rfl
@[simp] theorem State.modDie_hintErrors (d : Nat) (f : DieState → DieState) : (s.modDie d f).hintErrors = s.hintErrors := rfl
@[simp] theorem State.modDie_cap (d : Nat) (f : DieState → DieState) : (s.modDie d f).cap = s.cap := rfl
@[simp] theorem State.modDie_dcache (d : Nat) (f : DieState → DieState) : (s.modDie d f).dcache = s.dcache := rfl
@[simp] theorem State.modDie_owners (d : Nat) (f : DieState → DieState) : (s.modDie d f).owners = s.owners := rfl
@[simp] theorem State.modDie_l1 (d : Nat) (f : DieState → DieState) : (s.modDie d f).l1 = s.l1 := rfl
@[simp] theorem State.modDie_tlb (d : Nat) (f : DieState → DieState) : (s.modDie d f).tlb = s.tlb := rfl
@[simp] theorem State.modDie_pages (d : Nat) (f : DieState → DieState) : (s.modDie d f).pages = s.pages := rfl
@[simp] theorem State.modDie_returns (d : Nat) (f : DieState → DieState) : (s.modDie d f).returns = s.returns := rfl
@[simp] theorem State.modDie_worn (d : Nat) (f : DieState → DieState) : (s.modDie d f).worn = s.worn := rfl
@[simp] theorem State.modDie_freePages (d : Nat) (f : DieState → DieState) : (s.modDie d f).freePages = s.freePages := rfl
@[simp] theorem State.modDie_evictStacks (d : Nat) (f : DieState → DieState) : (s.modDie d f).evictStacks = s.evictStacks := rfl
@[simp] theorem State.modDie_boundary (d : Nat) (f : DieState → DieState) : (s.modDie d f).boundary = s.boundary := rfl
@[simp] theorem State.modDie_holds (d : Nat) (f : DieState → DieState) : (s.modDie d f).holds = s.holds := rfl
@[simp] theorem State.modDie_lost (d : Nat) (f : DieState → DieState) : (s.modDie d f).lost = s.lost := rfl
@[simp] theorem State.modDie_struck (d : Nat) (f : DieState → DieState) : (s.modDie d f).struck = s.struck := rfl
@[simp] theorem State.modDie_wounds (d : Nat) (f : DieState → DieState) : (s.modDie d f).wounds = s.wounds := rfl
@[simp] theorem State.modDie_walks (d : Nat) (f : DieState → DieState) : (s.modDie d f).walks = s.walks := rfl
@[simp] theorem State.modDie_sent (d : Nat) (f : DieState → DieState) : (s.modDie d f).sent = s.sent := rfl
@[simp] theorem State.modDie_quads (d : Nat) (f : DieState → DieState) : (s.modDie d f).quads = s.quads := rfl
@[simp] theorem State.modDie_shLast (d : Nat) (f : DieState → DieState) : (s.modDie d f).shLast = s.shLast := rfl
@[simp] theorem State.modDie_tamb (d : Nat) (f : DieState → DieState) : (s.modDie d f).tamb = s.tamb := rfl
@[simp] theorem State.modDie_groups (d : Nat) (f : DieState → DieState) : (s.modDie d f).groups = s.groups := rfl
@[simp] theorem State.modDie_localRound (d : Nat) (f : DieState → DieState) : (s.modDie d f).localRound = s.localRound := rfl
@[simp] theorem State.modDie_hub (d : Nat) (f : DieState → DieState) : (s.modDie d f).hub = s.hub := rfl
@[simp] theorem State.modDie_power (d : Nat) (f : DieState → DieState) : (s.modDie d f).power = s.power := rfl
@[simp] theorem State.modDie_flash (d : Nat) (f : DieState → DieState) : (s.modDie d f).flash = s.flash := rfl
@[simp] theorem State.modDie_pending (d : Nat) (f : DieState → DieState) : (s.modDie d f).pending = s.pending := rfl
@[simp] theorem State.modDie_audits (d : Nat) (f : DieState → DieState) : (s.modDie d f).audits = s.audits := rfl
@[simp] theorem State.modDie_nextAudit (d : Nat) (f : DieState → DieState) : (s.modDie d f).nextAudit = s.nextAudit := rfl
@[simp] theorem State.modDie_ended (d : Nat) (f : DieState → DieState) : (s.modDie d f).ended = s.ended := rfl
@[simp] theorem State.modDie_harts (d : Nat) (f : DieState → DieState) : (s.modDie d f).harts = s.harts := rfl

/-! ### State.modFlash -/

@[simp] theorem State.modFlash_now (f : Flash → Flash) : (s.modFlash f).now = s.now := rfl
@[simp] theorem State.modFlash_us (f : Flash → Flash) : (s.modFlash f).us = s.us := rfl
@[simp] theorem State.modFlash_phase (f : Flash → Flash) : (s.modFlash f).phase = s.phase := rfl
@[simp] theorem State.modFlash_ctx (f : Flash → Flash) : (s.modFlash f).ctx = s.ctx := rfl
@[simp] theorem State.modFlash_others (f : Flash → Flash) : (s.modFlash f).others = s.others := rfl
@[simp] theorem State.modFlash_plan (f : Flash → Flash) : (s.modFlash f).plan = s.plan := rfl
@[simp] theorem State.modFlash_heads (f : Flash → Flash) : (s.modFlash f).heads = s.heads := rfl
@[simp] theorem State.modFlash_schedule (f : Flash → Flash) : (s.modFlash f).schedule = s.schedule := rfl
@[simp] theorem State.modFlash_verdict (f : Flash → Flash) : (s.modFlash f).verdict = s.verdict := rfl
@[simp] theorem State.modFlash_free (f : Flash → Flash) : (s.modFlash f).free = s.free := rfl
@[simp] theorem State.modFlash_trapDue (f : Flash → Flash) : (s.modFlash f).trapDue = s.trapDue := rfl
@[simp] theorem State.modFlash_roots (f : Flash → Flash) : (s.modFlash f).roots = s.roots := rfl
@[simp] theorem State.modFlash_mem (f : Flash → Flash) : (s.modFlash f).mem = s.mem := rfl
@[simp] theorem State.modFlash_remote (f : Flash → Flash) : (s.modFlash f).remote = s.remote := rfl
@[simp] theorem State.modFlash_stamps (f : Flash → Flash) : (s.modFlash f).stamps = s.stamps := rfl
@[simp] theorem State.modFlash_hintErrors (f : Flash → Flash) : (s.modFlash f).hintErrors = s.hintErrors := rfl
@[simp] theorem State.modFlash_cap (f : Flash → Flash) : (s.modFlash f).cap = s.cap := rfl
@[simp] theorem State.modFlash_dcache (f : Flash → Flash) : (s.modFlash f).dcache = s.dcache := rfl
@[simp] theorem State.modFlash_owners (f : Flash → Flash) : (s.modFlash f).owners = s.owners := rfl
@[simp] theorem State.modFlash_l1 (f : Flash → Flash) : (s.modFlash f).l1 = s.l1 := rfl
@[simp] theorem State.modFlash_tlb (f : Flash → Flash) : (s.modFlash f).tlb = s.tlb := rfl
@[simp] theorem State.modFlash_pages (f : Flash → Flash) : (s.modFlash f).pages = s.pages := rfl
@[simp] theorem State.modFlash_returns (f : Flash → Flash) : (s.modFlash f).returns = s.returns := rfl
@[simp] theorem State.modFlash_worn (f : Flash → Flash) : (s.modFlash f).worn = s.worn := rfl
@[simp] theorem State.modFlash_freePages (f : Flash → Flash) : (s.modFlash f).freePages = s.freePages := rfl
@[simp] theorem State.modFlash_evictStacks (f : Flash → Flash) : (s.modFlash f).evictStacks = s.evictStacks := rfl
@[simp] theorem State.modFlash_boundary (f : Flash → Flash) : (s.modFlash f).boundary = s.boundary := rfl
@[simp] theorem State.modFlash_holds (f : Flash → Flash) : (s.modFlash f).holds = s.holds := rfl
@[simp] theorem State.modFlash_lost (f : Flash → Flash) : (s.modFlash f).lost = s.lost := rfl
@[simp] theorem State.modFlash_struck (f : Flash → Flash) : (s.modFlash f).struck = s.struck := rfl
@[simp] theorem State.modFlash_wounds (f : Flash → Flash) : (s.modFlash f).wounds = s.wounds := rfl
@[simp] theorem State.modFlash_walks (f : Flash → Flash) : (s.modFlash f).walks = s.walks := rfl
@[simp] theorem State.modFlash_sent (f : Flash → Flash) : (s.modFlash f).sent = s.sent := rfl
@[simp] theorem State.modFlash_quads (f : Flash → Flash) : (s.modFlash f).quads = s.quads := rfl
@[simp] theorem State.modFlash_shLast (f : Flash → Flash) : (s.modFlash f).shLast = s.shLast := rfl
@[simp] theorem State.modFlash_dies (f : Flash → Flash) : (s.modFlash f).dies = s.dies := rfl
@[simp] theorem State.modFlash_tamb (f : Flash → Flash) : (s.modFlash f).tamb = s.tamb := rfl
@[simp] theorem State.modFlash_groups (f : Flash → Flash) : (s.modFlash f).groups = s.groups := rfl
@[simp] theorem State.modFlash_localRound (f : Flash → Flash) : (s.modFlash f).localRound = s.localRound := rfl
@[simp] theorem State.modFlash_hub (f : Flash → Flash) : (s.modFlash f).hub = s.hub := rfl
@[simp] theorem State.modFlash_power (f : Flash → Flash) : (s.modFlash f).power = s.power := rfl
@[simp] theorem State.modFlash_flash (f : Flash → Flash) : (s.modFlash f).flash = f s.flash := rfl
@[simp] theorem State.modFlash_pending (f : Flash → Flash) : (s.modFlash f).pending = s.pending := rfl
@[simp] theorem State.modFlash_audits (f : Flash → Flash) : (s.modFlash f).audits = s.audits := rfl
@[simp] theorem State.modFlash_nextAudit (f : Flash → Flash) : (s.modFlash f).nextAudit = s.nextAudit := rfl
@[simp] theorem State.modFlash_ended (f : Flash → Flash) : (s.modFlash f).ended = s.ended := rfl
@[simp] theorem State.modFlash_harts (f : Flash → Flash) : (s.modFlash f).harts = s.harts := rfl

/-! ### State.modLife -/

@[simp] theorem State.modLife_now (f : Lifetime → Lifetime) : (s.modLife f).now = s.now := rfl
@[simp] theorem State.modLife_us (f : Lifetime → Lifetime) : (s.modLife f).us = s.us := rfl
@[simp] theorem State.modLife_phase (f : Lifetime → Lifetime) : (s.modLife f).phase = s.phase := rfl
@[simp] theorem State.modLife_ctx (f : Lifetime → Lifetime) : (s.modLife f).ctx = s.ctx := rfl
@[simp] theorem State.modLife_others (f : Lifetime → Lifetime) : (s.modLife f).others = s.others := rfl
@[simp] theorem State.modLife_plan (f : Lifetime → Lifetime) : (s.modLife f).plan = s.plan := rfl
@[simp] theorem State.modLife_heads (f : Lifetime → Lifetime) : (s.modLife f).heads = s.heads := rfl
@[simp] theorem State.modLife_schedule (f : Lifetime → Lifetime) : (s.modLife f).schedule = s.schedule := rfl
@[simp] theorem State.modLife_verdict (f : Lifetime → Lifetime) : (s.modLife f).verdict = s.verdict := rfl
@[simp] theorem State.modLife_free (f : Lifetime → Lifetime) : (s.modLife f).free = s.free := rfl
@[simp] theorem State.modLife_trapDue (f : Lifetime → Lifetime) : (s.modLife f).trapDue = s.trapDue := rfl
@[simp] theorem State.modLife_roots (f : Lifetime → Lifetime) : (s.modLife f).roots = s.roots := rfl
@[simp] theorem State.modLife_mem (f : Lifetime → Lifetime) : (s.modLife f).mem = s.mem := rfl
@[simp] theorem State.modLife_remote (f : Lifetime → Lifetime) : (s.modLife f).remote = s.remote := rfl
@[simp] theorem State.modLife_stamps (f : Lifetime → Lifetime) : (s.modLife f).stamps = s.stamps := rfl
@[simp] theorem State.modLife_hintErrors (f : Lifetime → Lifetime) : (s.modLife f).hintErrors = s.hintErrors := rfl
@[simp] theorem State.modLife_cap (f : Lifetime → Lifetime) : (s.modLife f).cap = s.cap := rfl
@[simp] theorem State.modLife_dcache (f : Lifetime → Lifetime) : (s.modLife f).dcache = s.dcache := rfl
@[simp] theorem State.modLife_owners (f : Lifetime → Lifetime) : (s.modLife f).owners = s.owners := rfl
@[simp] theorem State.modLife_l1 (f : Lifetime → Lifetime) : (s.modLife f).l1 = s.l1 := rfl
@[simp] theorem State.modLife_tlb (f : Lifetime → Lifetime) : (s.modLife f).tlb = s.tlb := rfl
@[simp] theorem State.modLife_pages (f : Lifetime → Lifetime) : (s.modLife f).pages = s.pages := rfl
@[simp] theorem State.modLife_returns (f : Lifetime → Lifetime) : (s.modLife f).returns = s.returns := rfl
@[simp] theorem State.modLife_worn (f : Lifetime → Lifetime) : (s.modLife f).worn = s.worn := rfl
@[simp] theorem State.modLife_freePages (f : Lifetime → Lifetime) : (s.modLife f).freePages = s.freePages := rfl
@[simp] theorem State.modLife_evictStacks (f : Lifetime → Lifetime) : (s.modLife f).evictStacks = s.evictStacks := rfl
@[simp] theorem State.modLife_boundary (f : Lifetime → Lifetime) : (s.modLife f).boundary = s.boundary := rfl
@[simp] theorem State.modLife_holds (f : Lifetime → Lifetime) : (s.modLife f).holds = s.holds := rfl
@[simp] theorem State.modLife_lost (f : Lifetime → Lifetime) : (s.modLife f).lost = s.lost := rfl
@[simp] theorem State.modLife_struck (f : Lifetime → Lifetime) : (s.modLife f).struck = s.struck := rfl
@[simp] theorem State.modLife_wounds (f : Lifetime → Lifetime) : (s.modLife f).wounds = s.wounds := rfl
@[simp] theorem State.modLife_walks (f : Lifetime → Lifetime) : (s.modLife f).walks = s.walks := rfl
@[simp] theorem State.modLife_sent (f : Lifetime → Lifetime) : (s.modLife f).sent = s.sent := rfl
@[simp] theorem State.modLife_quads (f : Lifetime → Lifetime) : (s.modLife f).quads = s.quads := rfl
@[simp] theorem State.modLife_shLast (f : Lifetime → Lifetime) : (s.modLife f).shLast = s.shLast := rfl
@[simp] theorem State.modLife_dies (f : Lifetime → Lifetime) : (s.modLife f).dies = s.dies := rfl
@[simp] theorem State.modLife_tamb (f : Lifetime → Lifetime) : (s.modLife f).tamb = s.tamb := rfl
@[simp] theorem State.modLife_groups (f : Lifetime → Lifetime) : (s.modLife f).groups = s.groups := rfl
@[simp] theorem State.modLife_localRound (f : Lifetime → Lifetime) : (s.modLife f).localRound = s.localRound := rfl
@[simp] theorem State.modLife_hub (f : Lifetime → Lifetime) : (s.modLife f).hub = s.hub := rfl
@[simp] theorem State.modLife_power (f : Lifetime → Lifetime) : (s.modLife f).power = s.power := rfl
@[simp] theorem State.modLife_flash (f : Lifetime → Lifetime) : (s.modLife f).flash = s.flash := rfl
@[simp] theorem State.modLife_audits (f : Lifetime → Lifetime) : (s.modLife f).audits = s.audits := rfl
@[simp] theorem State.modLife_nextAudit (f : Lifetime → Lifetime) : (s.modLife f).nextAudit = s.nextAudit := rfl
@[simp] theorem State.modLife_ended (f : Lifetime → Lifetime) : (s.modLife f).ended = s.ended := rfl
@[simp] theorem State.modLife_harts (f : Lifetime → Lifetime) : (s.modLife f).harts = s.harts := rfl

/-! ### Ctx.modCl -/

@[simp] theorem Ctx.modCl_cid (c : Cluster) (f : ClusterState → ClusterState) : (x.modCl c f).cid = x.cid := rfl
@[simp] theorem Ctx.modCl_gang (c : Cluster) (f : ClusterState → ClusterState) : (x.modCl c f).gang = x.gang := rfl
@[simp] theorem Ctx.modCl_asid (c : Cluster) (f : ClusterState → ClusterState) : (x.modCl c f).asid = x.asid := rfl
@[simp] theorem Ctx.modCl_die (c : Cluster) (f : ClusterState → ClusterState) : (x.modCl c f).die = x.die := rfl
@[simp] theorem Ctx.modCl_quad (c : Cluster) (f : ClusterState → ClusterState) : (x.modCl c f).quad = x.quad := rfl
@[simp] theorem Ctx.modCl_core (c : Cluster) (f : ClusterState → ClusterState) : (x.modCl c f).core = x.core := rfl
@[simp] theorem Ctx.modCl_slot (c : Cluster) (f : ClusterState → ClusterState) : (x.modCl c f).slot = x.slot := rfl
@[simp] theorem Ctx.modCl_cap48 (c : Cluster) (f : ClusterState → ClusterState) : (x.modCl c f).cap48 = x.cap48 := rfl
@[simp] theorem Ctx.modCl_life (c : Cluster) (f : ClusterState → ClusterState) : (x.modCl c f).life = x.life := rfl
@[simp] theorem Ctx.modCl_running (c : Cluster) (f : ClusterState → ClusterState) : (x.modCl c f).running = x.running := rfl
@[simp] theorem Ctx.modCl_runSince (c : Cluster) (f : ClusterState → ClusterState) : (x.modCl c f).runSince = x.runSince := rfl
@[simp] theorem Ctx.modCl_served (c : Cluster) (f : ClusterState → ClusterState) : (x.modCl c f).served = x.served := rfl
@[simp] theorem Ctx.modCl_regs (c : Cluster) (f : ClusterState → ClusterState) : (x.modCl c f).regs = x.regs := rfl
@[simp] theorem Ctx.modCl_sr (c : Cluster) (f : ClusterState → ClusterState) : (x.modCl c f).sr = x.sr := rfl
@[simp] theorem Ctx.modCl_cl (c : Cluster) (f : ClusterState → ClusterState) : (x.modCl c f).cl = x.cl.set c (f (x.cl.get c)) := rfl
@[simp] theorem Ctx.modCl_flags (c : Cluster) (f : ClusterState → ClusterState) : (x.modCl c f).flags = x.flags := rfl
@[simp] theorem Ctx.modCl_bob (c : Cluster) (f : ClusterState → ClusterState) : (x.modCl c f).bob = x.bob := rfl
@[simp] theorem Ctx.modCl_bmem (c : Cluster) (f : ClusterState → ClusterState) : (x.modCl c f).bmem = x.bmem := rfl
@[simp] theorem Ctx.modCl_sp (c : Cluster) (f : ClusterState → ClusterState) : (x.modCl c f).sp = x.sp := rfl
@[simp] theorem Ctx.modCl_spBad (c : Cluster) (f : ClusterState → ClusterState) : (x.modCl c f).spBad = x.spBad := rfl
@[simp] theorem Ctx.modCl_bmBad (c : Cluster) (f : ClusterState → ClusterState) : (x.modCl c f).bmBad = x.bmBad := rfl
@[simp] theorem Ctx.modCl_flight (c : Cluster) (f : ClusterState → ClusterState) : (x.modCl c f).flight = x.flight := rfl
@[simp] theorem Ctx.modCl_eng (c : Cluster) (f : ClusterState → ClusterState) : (x.modCl c f).eng = x.eng := rfl
@[simp] theorem Ctx.modCl_gq (c : Cluster) (f : ClusterState → ClusterState) : (x.modCl c f).gq = x.gq := rfl
@[simp] theorem Ctx.modCl_nextAcc (c : Cluster) (f : ClusterState → ClusterState) : (x.modCl c f).nextAcc = x.nextAcc := rfl
@[simp] theorem Ctx.modCl_late (c : Cluster) (f : ClusterState → ClusterState) : (x.modCl c f).late = x.late := rfl
@[simp] theorem Ctx.modCl_single (c : Cluster) (f : ClusterState → ClusterState) : (x.modCl c f).single = x.single := rfl
@[simp] theorem Ctx.modCl_knotsA (c : Cluster) (f : ClusterState → ClusterState) : (x.modCl c f).knotsA = x.knotsA := rfl
@[simp] theorem Ctx.modCl_knotsS (c : Cluster) (f : ClusterState → ClusterState) : (x.modCl c f).knotsS = x.knotsS := rfl
@[simp] theorem Ctx.modCl_hoops (c : Cluster) (f : ClusterState → ClusterState) : (x.modCl c f).hoops = x.hoops := rfl
@[simp] theorem Ctx.modCl_code (c : Cluster) (f : ClusterState → ClusterState) : (x.modCl c f).code = x.code := rfl
@[simp] theorem Ctx.modCl_codeRemote (c : Cluster) (f : ClusterState → ClusterState) : (x.modCl c f).codeRemote = x.codeRemote := rfl
@[simp] theorem Ctx.modCl_entry (c : Cluster) (f : ClusterState → ClusterState) : (x.modCl c f).entry = x.entry := rfl
@[simp] theorem Ctx.modCl_groupReady (c : Cluster) (f : ClusterState → ClusterState) : (x.modCl c f).groupReady = x.groupReady := rfl
@[simp] theorem Ctx.modCl_preempt (c : Cluster) (f : ClusterState → ClusterState) : (x.modCl c f).preempt = x.preempt := rfl
@[simp] theorem Ctx.modCl_stop (c : Cluster) (f : ClusterState → ClusterState) : (x.modCl c f).stop = x.stop := rfl
@[simp] theorem Ctx.modCl_audit (c : Cluster) (f : ClusterState → ClusterState) : (x.modCl c f).audit = x.audit := rfl

/-! ### Ctx.setHoop -/

@[simp] theorem Ctx.setHoop_cid (h : Nat) (r : HoopRec) : (x.setHoop h r).cid = x.cid := rfl
@[simp] theorem Ctx.setHoop_gang (h : Nat) (r : HoopRec) : (x.setHoop h r).gang = x.gang := rfl
@[simp] theorem Ctx.setHoop_asid (h : Nat) (r : HoopRec) : (x.setHoop h r).asid = x.asid := rfl
@[simp] theorem Ctx.setHoop_die (h : Nat) (r : HoopRec) : (x.setHoop h r).die = x.die := rfl
@[simp] theorem Ctx.setHoop_quad (h : Nat) (r : HoopRec) : (x.setHoop h r).quad = x.quad := rfl
@[simp] theorem Ctx.setHoop_core (h : Nat) (r : HoopRec) : (x.setHoop h r).core = x.core := rfl
@[simp] theorem Ctx.setHoop_slot (h : Nat) (r : HoopRec) : (x.setHoop h r).slot = x.slot := rfl
@[simp] theorem Ctx.setHoop_cap48 (h : Nat) (r : HoopRec) : (x.setHoop h r).cap48 = x.cap48 := rfl
@[simp] theorem Ctx.setHoop_life (h : Nat) (r : HoopRec) : (x.setHoop h r).life = x.life := rfl
@[simp] theorem Ctx.setHoop_running (h : Nat) (r : HoopRec) : (x.setHoop h r).running = x.running := rfl
@[simp] theorem Ctx.setHoop_runSince (h : Nat) (r : HoopRec) : (x.setHoop h r).runSince = x.runSince := rfl
@[simp] theorem Ctx.setHoop_served (h : Nat) (r : HoopRec) : (x.setHoop h r).served = x.served := rfl
@[simp] theorem Ctx.setHoop_regs (h : Nat) (r : HoopRec) : (x.setHoop h r).regs = x.regs := rfl
@[simp] theorem Ctx.setHoop_sr (h : Nat) (r : HoopRec) : (x.setHoop h r).sr = x.sr := rfl
@[simp] theorem Ctx.setHoop_cl (h : Nat) (r : HoopRec) : (x.setHoop h r).cl = x.cl := rfl
@[simp] theorem Ctx.setHoop_flags (h : Nat) (r : HoopRec) : (x.setHoop h r).flags = x.flags := rfl
@[simp] theorem Ctx.setHoop_bob (h : Nat) (r : HoopRec) : (x.setHoop h r).bob = x.bob := rfl
@[simp] theorem Ctx.setHoop_bmem (h : Nat) (r : HoopRec) : (x.setHoop h r).bmem = x.bmem := rfl
@[simp] theorem Ctx.setHoop_sp (h : Nat) (r : HoopRec) : (x.setHoop h r).sp = x.sp := rfl
@[simp] theorem Ctx.setHoop_spBad (h : Nat) (r : HoopRec) : (x.setHoop h r).spBad = x.spBad := rfl
@[simp] theorem Ctx.setHoop_bmBad (h : Nat) (r : HoopRec) : (x.setHoop h r).bmBad = x.bmBad := rfl
@[simp] theorem Ctx.setHoop_flight (h : Nat) (r : HoopRec) : (x.setHoop h r).flight = x.flight := rfl
@[simp] theorem Ctx.setHoop_eng (h : Nat) (r : HoopRec) : (x.setHoop h r).eng = x.eng := rfl
@[simp] theorem Ctx.setHoop_gq (h : Nat) (r : HoopRec) : (x.setHoop h r).gq = x.gq := rfl
@[simp] theorem Ctx.setHoop_nextAcc (h : Nat) (r : HoopRec) : (x.setHoop h r).nextAcc = x.nextAcc := rfl
@[simp] theorem Ctx.setHoop_late (h : Nat) (r : HoopRec) : (x.setHoop h r).late = x.late := rfl
@[simp] theorem Ctx.setHoop_single (h : Nat) (r : HoopRec) : (x.setHoop h r).single = x.single := rfl
@[simp] theorem Ctx.setHoop_knotsA (h : Nat) (r : HoopRec) : (x.setHoop h r).knotsA = x.knotsA := rfl
@[simp] theorem Ctx.setHoop_knotsS (h : Nat) (r : HoopRec) : (x.setHoop h r).knotsS = x.knotsS := rfl
@[simp] theorem Ctx.setHoop_hoops (h : Nat) (r : HoopRec) : (x.setHoop h r).hoops = vset x.hoops h r := rfl
@[simp] theorem Ctx.setHoop_code (h : Nat) (r : HoopRec) : (x.setHoop h r).code = x.code := rfl
@[simp] theorem Ctx.setHoop_codeRemote (h : Nat) (r : HoopRec) : (x.setHoop h r).codeRemote = x.codeRemote := rfl
@[simp] theorem Ctx.setHoop_entry (h : Nat) (r : HoopRec) : (x.setHoop h r).entry = x.entry := rfl
@[simp] theorem Ctx.setHoop_groupReady (h : Nat) (r : HoopRec) : (x.setHoop h r).groupReady = x.groupReady := rfl
@[simp] theorem Ctx.setHoop_preempt (h : Nat) (r : HoopRec) : (x.setHoop h r).preempt = x.preempt := rfl
@[simp] theorem Ctx.setHoop_stop (h : Nat) (r : HoopRec) : (x.setHoop h r).stop = x.stop := rfl
@[simp] theorem Ctx.setHoop_audit (h : Nat) (r : HoopRec) : (x.setHoop h r).audit = x.audit := rfl

/-! ### Ctx.tick -/

@[simp] theorem Ctx.tick_cid : (x.tick).cid = x.cid := rfl
@[simp] theorem Ctx.tick_gang : (x.tick).gang = x.gang := rfl
@[simp] theorem Ctx.tick_asid : (x.tick).asid = x.asid := rfl
@[simp] theorem Ctx.tick_die : (x.tick).die = x.die := rfl
@[simp] theorem Ctx.tick_quad : (x.tick).quad = x.quad := rfl
@[simp] theorem Ctx.tick_core : (x.tick).core = x.core := rfl
@[simp] theorem Ctx.tick_slot : (x.tick).slot = x.slot := rfl
@[simp] theorem Ctx.tick_cap48 : (x.tick).cap48 = x.cap48 := rfl
@[simp] theorem Ctx.tick_life : (x.tick).life = x.life := rfl
@[simp] theorem Ctx.tick_running : (x.tick).running = x.running := rfl
@[simp] theorem Ctx.tick_runSince : (x.tick).runSince = x.runSince := rfl
@[simp] theorem Ctx.tick_served : (x.tick).served = x.served := rfl
@[simp] theorem Ctx.tick_regs : (x.tick).regs = x.regs := rfl
@[simp] theorem Ctx.tick_sr : (x.tick).sr = x.sr := rfl
@[simp] theorem Ctx.tick_cl : (x.tick).cl = x.cl := rfl
@[simp] theorem Ctx.tick_flags : (x.tick).flags = x.flags := rfl
@[simp] theorem Ctx.tick_bob : (x.tick).bob = x.bob := rfl
@[simp] theorem Ctx.tick_bmem : (x.tick).bmem = x.bmem := rfl
@[simp] theorem Ctx.tick_sp : (x.tick).sp = x.sp := rfl
@[simp] theorem Ctx.tick_spBad : (x.tick).spBad = x.spBad := rfl
@[simp] theorem Ctx.tick_bmBad : (x.tick).bmBad = x.bmBad := rfl
@[simp] theorem Ctx.tick_flight : (x.tick).flight = x.flight := rfl
@[simp] theorem Ctx.tick_eng : (x.tick).eng = x.eng := rfl
@[simp] theorem Ctx.tick_gq : (x.tick).gq = x.gq := rfl
@[simp] theorem Ctx.tick_nextAcc : (x.tick).nextAcc = x.nextAcc + 1 := rfl
@[simp] theorem Ctx.tick_knotsA : (x.tick).knotsA = x.knotsA := rfl
@[simp] theorem Ctx.tick_knotsS : (x.tick).knotsS = x.knotsS := rfl
@[simp] theorem Ctx.tick_hoops : (x.tick).hoops = x.hoops := rfl
@[simp] theorem Ctx.tick_code : (x.tick).code = x.code := rfl
@[simp] theorem Ctx.tick_codeRemote : (x.tick).codeRemote = x.codeRemote := rfl
@[simp] theorem Ctx.tick_entry : (x.tick).entry = x.entry := rfl
@[simp] theorem Ctx.tick_groupReady : (x.tick).groupReady = x.groupReady := rfl
@[simp] theorem Ctx.tick_preempt : (x.tick).preempt = x.preempt := rfl
@[simp] theorem Ctx.tick_stop : (x.tick).stop = x.stop := rfl
@[simp] theorem Ctx.tick_audit : (x.tick).audit = x.audit := rfl

/-! ### Ctx.setSlot -/

@[simp] theorem Ctx.setSlot_cid (n k : Nat) (v : VReg) : (x.setSlot n k v).cid = x.cid := rfl
@[simp] theorem Ctx.setSlot_gang (n k : Nat) (v : VReg) : (x.setSlot n k v).gang = x.gang := rfl
@[simp] theorem Ctx.setSlot_asid (n k : Nat) (v : VReg) : (x.setSlot n k v).asid = x.asid := rfl
@[simp] theorem Ctx.setSlot_die (n k : Nat) (v : VReg) : (x.setSlot n k v).die = x.die := rfl
@[simp] theorem Ctx.setSlot_quad (n k : Nat) (v : VReg) : (x.setSlot n k v).quad = x.quad := rfl
@[simp] theorem Ctx.setSlot_core (n k : Nat) (v : VReg) : (x.setSlot n k v).core = x.core := rfl
@[simp] theorem Ctx.setSlot_slot (n k : Nat) (v : VReg) : (x.setSlot n k v).slot = x.slot := rfl
@[simp] theorem Ctx.setSlot_cap48 (n k : Nat) (v : VReg) : (x.setSlot n k v).cap48 = x.cap48 := rfl
@[simp] theorem Ctx.setSlot_life (n k : Nat) (v : VReg) : (x.setSlot n k v).life = x.life := rfl
@[simp] theorem Ctx.setSlot_running (n k : Nat) (v : VReg) : (x.setSlot n k v).running = x.running := rfl
@[simp] theorem Ctx.setSlot_runSince (n k : Nat) (v : VReg) : (x.setSlot n k v).runSince = x.runSince := rfl
@[simp] theorem Ctx.setSlot_served (n k : Nat) (v : VReg) : (x.setSlot n k v).served = x.served := rfl
@[simp] theorem Ctx.setSlot_regs (n k : Nat) (v : VReg) : (x.setSlot n k v).regs = x.regs := rfl
@[simp] theorem Ctx.setSlot_sr (n k : Nat) (v : VReg) : (x.setSlot n k v).sr = x.sr := rfl
@[simp] theorem Ctx.setSlot_cl (n k : Nat) (v : VReg) : (x.setSlot n k v).cl = x.cl := rfl
@[simp] theorem Ctx.setSlot_flags (n k : Nat) (v : VReg) : (x.setSlot n k v).flags = x.flags := rfl
@[simp] theorem Ctx.setSlot_bob (n k : Nat) (v : VReg) : (x.setSlot n k v).bob = x.bob := rfl
@[simp] theorem Ctx.setSlot_sp (n k : Nat) (v : VReg) : (x.setSlot n k v).sp = x.sp := rfl
@[simp] theorem Ctx.setSlot_spBad (n k : Nat) (v : VReg) : (x.setSlot n k v).spBad = x.spBad := rfl
@[simp] theorem Ctx.setSlot_flight (n k : Nat) (v : VReg) : (x.setSlot n k v).flight = x.flight := rfl
@[simp] theorem Ctx.setSlot_eng (n k : Nat) (v : VReg) : (x.setSlot n k v).eng = x.eng := rfl
@[simp] theorem Ctx.setSlot_gq (n k : Nat) (v : VReg) : (x.setSlot n k v).gq = x.gq := rfl
@[simp] theorem Ctx.setSlot_nextAcc (n k : Nat) (v : VReg) : (x.setSlot n k v).nextAcc = x.nextAcc := rfl
@[simp] theorem Ctx.setSlot_late (n k : Nat) (v : VReg) : (x.setSlot n k v).late = x.late := rfl
@[simp] theorem Ctx.setSlot_single (n k : Nat) (v : VReg) : (x.setSlot n k v).single = x.single := rfl
@[simp] theorem Ctx.setSlot_knotsA (n k : Nat) (v : VReg) : (x.setSlot n k v).knotsA = x.knotsA := rfl
@[simp] theorem Ctx.setSlot_knotsS (n k : Nat) (v : VReg) : (x.setSlot n k v).knotsS = x.knotsS := rfl
@[simp] theorem Ctx.setSlot_hoops (n k : Nat) (v : VReg) : (x.setSlot n k v).hoops = x.hoops := rfl
@[simp] theorem Ctx.setSlot_code (n k : Nat) (v : VReg) : (x.setSlot n k v).code = x.code := rfl
@[simp] theorem Ctx.setSlot_codeRemote (n k : Nat) (v : VReg) : (x.setSlot n k v).codeRemote = x.codeRemote := rfl
@[simp] theorem Ctx.setSlot_entry (n k : Nat) (v : VReg) : (x.setSlot n k v).entry = x.entry := rfl
@[simp] theorem Ctx.setSlot_groupReady (n k : Nat) (v : VReg) : (x.setSlot n k v).groupReady = x.groupReady := rfl
@[simp] theorem Ctx.setSlot_preempt (n k : Nat) (v : VReg) : (x.setSlot n k v).preempt = x.preempt := rfl
@[simp] theorem Ctx.setSlot_stop (n k : Nat) (v : VReg) : (x.setSlot n k v).stop = x.stop := rfl
@[simp] theorem Ctx.setSlot_audit (n k : Nat) (v : VReg) : (x.setSlot n k v).audit = x.audit := rfl

/-! ### Ctx.takeSlots -/

@[simp] theorem Ctx.takeSlots_cid (n k : Nat) : (x.takeSlots n k).cid = x.cid := rfl
@[simp] theorem Ctx.takeSlots_gang (n k : Nat) : (x.takeSlots n k).gang = x.gang := rfl
@[simp] theorem Ctx.takeSlots_asid (n k : Nat) : (x.takeSlots n k).asid = x.asid := rfl
@[simp] theorem Ctx.takeSlots_die (n k : Nat) : (x.takeSlots n k).die = x.die := rfl
@[simp] theorem Ctx.takeSlots_quad (n k : Nat) : (x.takeSlots n k).quad = x.quad := rfl
@[simp] theorem Ctx.takeSlots_core (n k : Nat) : (x.takeSlots n k).core = x.core := rfl
@[simp] theorem Ctx.takeSlots_slot (n k : Nat) : (x.takeSlots n k).slot = x.slot := rfl
@[simp] theorem Ctx.takeSlots_cap48 (n k : Nat) : (x.takeSlots n k).cap48 = x.cap48 := rfl
@[simp] theorem Ctx.takeSlots_life (n k : Nat) : (x.takeSlots n k).life = x.life := rfl
@[simp] theorem Ctx.takeSlots_running (n k : Nat) : (x.takeSlots n k).running = x.running := rfl
@[simp] theorem Ctx.takeSlots_runSince (n k : Nat) : (x.takeSlots n k).runSince = x.runSince := rfl
@[simp] theorem Ctx.takeSlots_served (n k : Nat) : (x.takeSlots n k).served = x.served := rfl
@[simp] theorem Ctx.takeSlots_regs (n k : Nat) : (x.takeSlots n k).regs = x.regs := rfl
@[simp] theorem Ctx.takeSlots_sr (n k : Nat) : (x.takeSlots n k).sr = x.sr := rfl
@[simp] theorem Ctx.takeSlots_cl (n k : Nat) : (x.takeSlots n k).cl = x.cl := rfl
@[simp] theorem Ctx.takeSlots_flags (n k : Nat) : (x.takeSlots n k).flags = x.flags := rfl
@[simp] theorem Ctx.takeSlots_bmem (n k : Nat) : (x.takeSlots n k).bmem = x.bmem := rfl
@[simp] theorem Ctx.takeSlots_sp (n k : Nat) : (x.takeSlots n k).sp = x.sp := rfl
@[simp] theorem Ctx.takeSlots_spBad (n k : Nat) : (x.takeSlots n k).spBad = x.spBad := rfl
@[simp] theorem Ctx.takeSlots_bmBad (n k : Nat) : (x.takeSlots n k).bmBad = x.bmBad := rfl
@[simp] theorem Ctx.takeSlots_flight (n k : Nat) : (x.takeSlots n k).flight = x.flight := rfl
@[simp] theorem Ctx.takeSlots_eng (n k : Nat) : (x.takeSlots n k).eng = x.eng := rfl
@[simp] theorem Ctx.takeSlots_gq (n k : Nat) : (x.takeSlots n k).gq = x.gq := rfl
@[simp] theorem Ctx.takeSlots_nextAcc (n k : Nat) : (x.takeSlots n k).nextAcc = x.nextAcc := rfl
@[simp] theorem Ctx.takeSlots_late (n k : Nat) : (x.takeSlots n k).late = x.late := rfl
@[simp] theorem Ctx.takeSlots_single (n k : Nat) : (x.takeSlots n k).single = x.single := rfl
@[simp] theorem Ctx.takeSlots_knotsA (n k : Nat) : (x.takeSlots n k).knotsA = x.knotsA := rfl
@[simp] theorem Ctx.takeSlots_knotsS (n k : Nat) : (x.takeSlots n k).knotsS = x.knotsS := rfl
@[simp] theorem Ctx.takeSlots_hoops (n k : Nat) : (x.takeSlots n k).hoops = x.hoops := rfl
@[simp] theorem Ctx.takeSlots_code (n k : Nat) : (x.takeSlots n k).code = x.code := rfl
@[simp] theorem Ctx.takeSlots_codeRemote (n k : Nat) : (x.takeSlots n k).codeRemote = x.codeRemote := rfl
@[simp] theorem Ctx.takeSlots_entry (n k : Nat) : (x.takeSlots n k).entry = x.entry := rfl
@[simp] theorem Ctx.takeSlots_groupReady (n k : Nat) : (x.takeSlots n k).groupReady = x.groupReady := rfl
@[simp] theorem Ctx.takeSlots_preempt (n k : Nat) : (x.takeSlots n k).preempt = x.preempt := rfl
@[simp] theorem Ctx.takeSlots_stop (n k : Nat) : (x.takeSlots n k).stop = x.stop := rfl
@[simp] theorem Ctx.takeSlots_audit (n k : Nat) : (x.takeSlots n k).audit = x.audit := rfl

/-! ### Ctx.giveSlots -/

@[simp] theorem Ctx.giveSlots_cid (n k : Nat) : (x.giveSlots n k).cid = x.cid := rfl
@[simp] theorem Ctx.giveSlots_gang (n k : Nat) : (x.giveSlots n k).gang = x.gang := rfl
@[simp] theorem Ctx.giveSlots_asid (n k : Nat) : (x.giveSlots n k).asid = x.asid := rfl
@[simp] theorem Ctx.giveSlots_die (n k : Nat) : (x.giveSlots n k).die = x.die := rfl
@[simp] theorem Ctx.giveSlots_quad (n k : Nat) : (x.giveSlots n k).quad = x.quad := rfl
@[simp] theorem Ctx.giveSlots_core (n k : Nat) : (x.giveSlots n k).core = x.core := rfl
@[simp] theorem Ctx.giveSlots_slot (n k : Nat) : (x.giveSlots n k).slot = x.slot := rfl
@[simp] theorem Ctx.giveSlots_cap48 (n k : Nat) : (x.giveSlots n k).cap48 = x.cap48 := rfl
@[simp] theorem Ctx.giveSlots_life (n k : Nat) : (x.giveSlots n k).life = x.life := rfl
@[simp] theorem Ctx.giveSlots_running (n k : Nat) : (x.giveSlots n k).running = x.running := rfl
@[simp] theorem Ctx.giveSlots_runSince (n k : Nat) : (x.giveSlots n k).runSince = x.runSince := rfl
@[simp] theorem Ctx.giveSlots_served (n k : Nat) : (x.giveSlots n k).served = x.served := rfl
@[simp] theorem Ctx.giveSlots_regs (n k : Nat) : (x.giveSlots n k).regs = x.regs := rfl
@[simp] theorem Ctx.giveSlots_sr (n k : Nat) : (x.giveSlots n k).sr = x.sr := rfl
@[simp] theorem Ctx.giveSlots_cl (n k : Nat) : (x.giveSlots n k).cl = x.cl := rfl
@[simp] theorem Ctx.giveSlots_flags (n k : Nat) : (x.giveSlots n k).flags = x.flags := rfl
@[simp] theorem Ctx.giveSlots_bmem (n k : Nat) : (x.giveSlots n k).bmem = x.bmem := rfl
@[simp] theorem Ctx.giveSlots_sp (n k : Nat) : (x.giveSlots n k).sp = x.sp := rfl
@[simp] theorem Ctx.giveSlots_spBad (n k : Nat) : (x.giveSlots n k).spBad = x.spBad := rfl
@[simp] theorem Ctx.giveSlots_bmBad (n k : Nat) : (x.giveSlots n k).bmBad = x.bmBad := rfl
@[simp] theorem Ctx.giveSlots_flight (n k : Nat) : (x.giveSlots n k).flight = x.flight := rfl
@[simp] theorem Ctx.giveSlots_eng (n k : Nat) : (x.giveSlots n k).eng = x.eng := rfl
@[simp] theorem Ctx.giveSlots_gq (n k : Nat) : (x.giveSlots n k).gq = x.gq := rfl
@[simp] theorem Ctx.giveSlots_nextAcc (n k : Nat) : (x.giveSlots n k).nextAcc = x.nextAcc := rfl
@[simp] theorem Ctx.giveSlots_late (n k : Nat) : (x.giveSlots n k).late = x.late := rfl
@[simp] theorem Ctx.giveSlots_single (n k : Nat) : (x.giveSlots n k).single = x.single := rfl
@[simp] theorem Ctx.giveSlots_knotsA (n k : Nat) : (x.giveSlots n k).knotsA = x.knotsA := rfl
@[simp] theorem Ctx.giveSlots_knotsS (n k : Nat) : (x.giveSlots n k).knotsS = x.knotsS := rfl
@[simp] theorem Ctx.giveSlots_hoops (n k : Nat) : (x.giveSlots n k).hoops = x.hoops := rfl
@[simp] theorem Ctx.giveSlots_code (n k : Nat) : (x.giveSlots n k).code = x.code := rfl
@[simp] theorem Ctx.giveSlots_codeRemote (n k : Nat) : (x.giveSlots n k).codeRemote = x.codeRemote := rfl
@[simp] theorem Ctx.giveSlots_entry (n k : Nat) : (x.giveSlots n k).entry = x.entry := rfl
@[simp] theorem Ctx.giveSlots_groupReady (n k : Nat) : (x.giveSlots n k).groupReady = x.groupReady := rfl
@[simp] theorem Ctx.giveSlots_preempt (n k : Nat) : (x.giveSlots n k).preempt = x.preempt := rfl
@[simp] theorem Ctx.giveSlots_stop (n k : Nat) : (x.giveSlots n k).stop = x.stop := rfl
@[simp] theorem Ctx.giveSlots_audit (n k : Nat) : (x.giveSlots n k).audit = x.audit := rfl

/-! ### Ctx.reserve -/

@[simp] theorem Ctx.reserve_cid (n : Nat) : (x.reserve n).cid = x.cid := rfl
@[simp] theorem Ctx.reserve_gang (n : Nat) : (x.reserve n).gang = x.gang := rfl
@[simp] theorem Ctx.reserve_asid (n : Nat) : (x.reserve n).asid = x.asid := rfl
@[simp] theorem Ctx.reserve_die (n : Nat) : (x.reserve n).die = x.die := rfl
@[simp] theorem Ctx.reserve_quad (n : Nat) : (x.reserve n).quad = x.quad := rfl
@[simp] theorem Ctx.reserve_core (n : Nat) : (x.reserve n).core = x.core := rfl
@[simp] theorem Ctx.reserve_slot (n : Nat) : (x.reserve n).slot = x.slot := rfl
@[simp] theorem Ctx.reserve_cap48 (n : Nat) : (x.reserve n).cap48 = x.cap48 := rfl
@[simp] theorem Ctx.reserve_life (n : Nat) : (x.reserve n).life = x.life := rfl
@[simp] theorem Ctx.reserve_running (n : Nat) : (x.reserve n).running = x.running := rfl
@[simp] theorem Ctx.reserve_runSince (n : Nat) : (x.reserve n).runSince = x.runSince := rfl
@[simp] theorem Ctx.reserve_served (n : Nat) : (x.reserve n).served = x.served := rfl
@[simp] theorem Ctx.reserve_regs (n : Nat) : (x.reserve n).regs = x.regs := rfl
@[simp] theorem Ctx.reserve_sr (n : Nat) : (x.reserve n).sr = x.sr := rfl
@[simp] theorem Ctx.reserve_cl (n : Nat) : (x.reserve n).cl = x.cl := rfl
@[simp] theorem Ctx.reserve_flags (n : Nat) : (x.reserve n).flags = x.flags := rfl
@[simp] theorem Ctx.reserve_bmem (n : Nat) : (x.reserve n).bmem = x.bmem := rfl
@[simp] theorem Ctx.reserve_sp (n : Nat) : (x.reserve n).sp = x.sp := rfl
@[simp] theorem Ctx.reserve_spBad (n : Nat) : (x.reserve n).spBad = x.spBad := rfl
@[simp] theorem Ctx.reserve_bmBad (n : Nat) : (x.reserve n).bmBad = x.bmBad := rfl
@[simp] theorem Ctx.reserve_flight (n : Nat) : (x.reserve n).flight = x.flight := rfl
@[simp] theorem Ctx.reserve_eng (n : Nat) : (x.reserve n).eng = x.eng := rfl
@[simp] theorem Ctx.reserve_gq (n : Nat) : (x.reserve n).gq = x.gq := rfl
@[simp] theorem Ctx.reserve_nextAcc (n : Nat) : (x.reserve n).nextAcc = x.nextAcc := rfl
@[simp] theorem Ctx.reserve_late (n : Nat) : (x.reserve n).late = x.late := rfl
@[simp] theorem Ctx.reserve_single (n : Nat) : (x.reserve n).single = x.single := rfl
@[simp] theorem Ctx.reserve_knotsA (n : Nat) : (x.reserve n).knotsA = x.knotsA := rfl
@[simp] theorem Ctx.reserve_knotsS (n : Nat) : (x.reserve n).knotsS = x.knotsS := rfl
@[simp] theorem Ctx.reserve_hoops (n : Nat) : (x.reserve n).hoops = x.hoops := rfl
@[simp] theorem Ctx.reserve_code (n : Nat) : (x.reserve n).code = x.code := rfl
@[simp] theorem Ctx.reserve_codeRemote (n : Nat) : (x.reserve n).codeRemote = x.codeRemote := rfl
@[simp] theorem Ctx.reserve_entry (n : Nat) : (x.reserve n).entry = x.entry := rfl
@[simp] theorem Ctx.reserve_groupReady (n : Nat) : (x.reserve n).groupReady = x.groupReady := rfl
@[simp] theorem Ctx.reserve_preempt (n : Nat) : (x.reserve n).preempt = x.preempt := rfl
@[simp] theorem Ctx.reserve_stop (n : Nat) : (x.reserve n).stop = x.stop := rfl
@[simp] theorem Ctx.reserve_audit (n : Nat) : (x.reserve n).audit = x.audit := rfl

end Sys2Proof.Machine
end

