-- ==== Sys2Proof/Laws/Issue.lean ====
section
/-! SUPPORT. What the shared operations of issue come to: the four ways in which an encoded instruction's turn ends, the
checks of operands, and what a turn that ends changes besides the instruction's own effect. -/

namespace Sys2Proof.Laws

open Sys2Proof.Machine

variable {i : Instr} {s t u : State} {act : State → Cluster → Act}

/-! ## The ends of a turn -/

theorem issue_go (h : Valid i s) (ha : act s (turn s) = .go u) :
    issue i act s = .next (finish (u.flowTo (turn s) (nextPc i s)) (turn s)) := by
  simp only [issue, show check (turn s) i = none from h, ha, nextPc]

theorem issue_jump (h : Valid i s) (ha : act s (turn s) = .jump u) : issue i act s = .next (finish u (turn s)) := by
  simp only [issue, show check (turn s) i = none from h, ha]

theorem issue_wait {k : WaitKind} (h : Valid i s) (ha : act s (turn s) = .wait k) :
    issue i act s = .next (hold s (turn s) (stitchBit i) k) := by
  simp only [issue, show check (turn s) i = none from h, ha]

theorem issue_trap {code : Nat} {tval : W64} (h : Valid i s) (ha : act s (turn s) = .trap code tval) :
    issue i act s = .next (takeTrap s (turn s) code tval 0) := by
  simp only [issue, show check (turn s) i = none from h, ha]

theorem issue_invalid {e : IllFormed} (h : check (turn s) i = some e) :
    issue i act s = .next (takeTrap s (turn s) 0x01 (wordTval i) 0) := by
  simp only [issue, h, wordTval]

/-- Everything an attempt to issue can come to. -/
theorem issue_cases (h : issue i act s = .next t) :
    (check (turn s) i ≠ none ∧ t = takeTrap s (turn s) 0x01 (wordTval i) 0) ∨
    (Valid i s ∧
      ((∃ u, act s (turn s) = .go u ∧ t = finish (u.flowTo (turn s) (nextPc i s)) (turn s)) ∨
       (∃ u, act s (turn s) = .jump u ∧ t = finish u (turn s)) ∨
       (∃ k, act s (turn s) = .wait k ∧ t = hold s (turn s) (stitchBit i) k) ∨
       (∃ code tval, act s (turn s) = .trap code tval ∧ t = takeTrap s (turn s) code tval 0))) := by
  cases hc : check (turn s) i with
  | some e => rw [issue_invalid hc] at h; injection h with h; exact .inl ⟨nofun, h.symm⟩
  | none =>
    refine .inr ⟨hc, ?_⟩
    cases ha : act s (turn s) with
    | go u => rw [issue_go hc ha] at h; injection h with h; exact .inl ⟨u, rfl, h.symm⟩
    | jump u => rw [issue_jump hc ha] at h; injection h with h; exact .inr (.inl ⟨u, rfl, h.symm⟩)
    | wait k => rw [issue_wait hc ha] at h; injection h with h; exact .inr (.inr (.inl ⟨k, rfl, h.symm⟩))
    | trap c v => rw [issue_trap hc ha] at h; injection h with h; exact .inr (.inr (.inr ⟨c, v, rfl, h.symm⟩))

/-- An attempt to issue always answers a next state. -/
theorem issue_next (i : Instr) (act : State → Cluster → Act) (s : State) : ∃ t, issue i act s = .next t := by
  cases hc : check (turn s) i with
  | some e => exact ⟨_, issue_invalid hc⟩
  | none =>
    cases ha : act s (turn s) with
    | go u => exact ⟨_, issue_go hc ha⟩
    | jump u => exact ⟨_, issue_jump hc ha⟩
    | wait k => exact ⟨_, issue_wait hc ha⟩
    | trap c v => exact ⟨_, issue_trap hc ha⟩

theorem scalarResult_completes {lat : Nat} {dst : BitVec 5} {v : State → Cluster → W64} (h : Valid i s) :
    scalarResult i lat dst v s =
      .next (finish ((s.writeAt lat (.scalar (turn s) dst.toNat (v s (turn s)))).flowTo (turn s) (nextPc i s)) (turn s)) :=
  issue_go h rfl

/-! ## Faults in order -/

theorem faultsThen_nil (a : Act) : faultsThen [] a = a := rfl

theorem faultsThen_pass {code : Nat} {tval : W64} {fs : List (Bool × Nat × W64)} {a : Act} :
    faultsThen ((false, code, tval) :: fs) a = faultsThen fs a := rfl

theorem faultsThen_hit {code : Nat} {tval : W64} {fs : List (Bool × Nat × W64)} {a : Act} :
    faultsThen ((true, code, tval) :: fs) a = .trap code tval := rfl

/-- Either no condition holds and the instruction acts, or a condition that holds gives the trap. -/
theorem faultsThen_cases (fs : List (Bool × Nat × W64)) (a : Act) :
    (faultsThen fs a = a ∧ ∀ f ∈ fs, f.1 = false) ∨ (∃ f ∈ fs, f.1 = true ∧ faultsThen fs a = .trap f.2.1 f.2.2) := by
  induction fs with
  | nil => exact .inl ⟨rfl, nofun⟩
  | cons f t ih =>
    obtain ⟨bad, code, tval⟩ := f
    cases bad with
    | true => exact .inr ⟨_, List.mem_cons_self, rfl, rfl⟩
    | false =>
      rcases ih with ⟨h1, h2⟩ | ⟨f, hf, h1, h2⟩
      · exact .inl ⟨h1, fun f hf => (List.mem_cons.1 hf).elim (fun h => h ▸ rfl) (h2 f)⟩
      · exact .inr ⟨f, List.mem_cons_of_mem _ hf, h1, h2⟩

/-! ## Lanes -/

theorem packLanes_lt (f : Nat → W32) (n : Nat) : ∀ i, packLanes f i n < 2 ^ (32 * n) := by
  induction n with
  | zero => intro i; simp [packLanes]
  | succ n ih =>
    intro i
    have h1 := ih (i + 1)
    have h2 := (f i).isLt
    rw [packLanes, show 32 * (n + 1) = 32 + 32 * n by ring, pow_add]
    nlinarith

theorem packLanes_lane (f : Nat → W32) (n : Nat) :
    ∀ i k, k < n → packLanes f i n / 2 ^ (32 * k) % 2 ^ 32 = (f (i + k)).toNat := by
  induction n with
  | zero => intro i k h; omega
  | succ n ih =>
    intro i k h
    have h2 := (f i).isLt
    cases k with
    | zero =>
      rw [packLanes, Nat.mul_zero, pow_zero, Nat.div_one, Nat.add_mul_mod_self_left, Nat.mod_eq_of_lt h2]; rfl
    | succ k =>
      rw [packLanes, show 32 * (k + 1) = 32 + 32 * k by ring, pow_add, ← Nat.div_div_eq_div_mul,
        Nat.add_mul_div_left _ _ (by decide), Nat.div_eq_of_lt h2, Nat.zero_add, ih (i + 1) k (by omega)]
      congr 2; omega

/-- A lane of a vector built lane by lane. -/
theorem lane_ofLanes (f : Nat → W32) {k : Nat} (h : k < 64) : lane (ofLanes f) k = f k := by
  have h1 := packLanes_lane f 64 0 k h
  apply BitVec.eq_of_toNat_eq
  rw [lane, ofLanes, BitVec.toNat_ofNat, BitVec.toNat_ofNat, Nat.mod_eq_of_lt (packLanes_lt f 64 0), h1, Nat.zero_add]

theorem lane_laneMask (p : Nat → Bool) {k : Nat} (h : k < 64) : lane (laneMask p) k = if p k then 0xFFFFFFFF else 0 :=
  lane_ofLanes _ h

/-! ## Operand checks -/

theorem capFault_none {fs : List (BitVec 7)} (h : ∀ f ∈ fs, overCap s f.toNat = false) : capFault s fs = none := by
  unfold capFault
  rw [List.find?_eq_none.2 (fun f hf => by simp [h f hf])]; rfl

/-- A V instruction acts when its operands are under the cap and its slots can be read and written (R68, R95), none of them withheld
(R272). -/
theorem vectorChecks_pass {c : Cluster} {fs srcs dsts : List (BitVec 7)} {a : Act}
    (hcap : ∀ f ∈ fs, overCap s f.toNat = false)
    (hs : ∀ f ∈ srcs, namesSlot f = true → slotReadable (s.ctx.bobbin (slotField f).1) c (slotField f).2 true = true ∧
      (slotField f).2 < (s.ctx.bobbin (slotField f).1).count ∧
      s.ctx.slotLost (slotField f).1 ((s.ctx.bobbin (slotField f).1).take + (slotField f).2) = false)
    (hd : ∀ f ∈ dsts, namesSlot f = true → slotWritable (s.ctx.bobbin (slotField f).1) c (slotField f).2 = true ∧
      (slotField f).2 < (s.ctx.bobbin (slotField f).1).slots - (s.ctx.bobbin (slotField f).1).count) :
    vectorChecks i s c fs srcs dsts a = a := by
  unfold vectorChecks slotChecks
  rw [capFault_none hcap]
  have e1 : (((srcs.filter namesSlot).map slotField).any
      (fun p => !slotReadable (s.ctx.bobbin p.1) c p.2 true)) = false := by
    rw [List.any_eq_false]; intro p hp
    obtain ⟨f, hf, rfl⟩ := List.mem_map.1 hp
    obtain ⟨h1, h2⟩ := List.mem_filter.1 hf
    simp [(hs f h1 h2).1]
  have e2 : (((dsts.filter namesSlot).map slotField).any
      (fun p => !slotWritable (s.ctx.bobbin p.1) c p.2)) = false := by
    rw [List.any_eq_false]; intro p hp
    obtain ⟨f, hf, rfl⟩ := List.mem_map.1 hp
    obtain ⟨h1, h2⟩ := List.mem_filter.1 hf
    simp [(hd f h1 h2).1]
  have e3 : (((srcs.filter namesSlot).map slotField).find?
      (fun p => decide ((s.ctx.bobbin p.1).count < p.2 + 1))) = none := by
    rw [List.find?_eq_none]; intro p hp
    obtain ⟨f, hf, rfl⟩ := List.mem_map.1 hp
    obtain ⟨h1, h2⟩ := List.mem_filter.1 hf
    have := (hs f h1 h2).2.1
    simp; omega
  have e4 : (((dsts.filter namesSlot).map slotField).any
      (fun p => decide ((s.ctx.bobbin p.1).slots - (s.ctx.bobbin p.1).count < p.2 + 1))) = false := by
    rw [List.any_eq_false]; intro p hp
    obtain ⟨f, hf, rfl⟩ := List.mem_map.1 hp
    obtain ⟨h1, h2⟩ := List.mem_filter.1 hf
    have := (hd f h1 h2).2
    simp; omega
  have e5 : (((srcs.filter namesSlot).map slotField).any
      (fun p => s.ctx.slotLost p.1 ((s.ctx.bobbin p.1).take + p.2))) = false := by
    rw [List.any_eq_false]; intro p hp
    obtain ⟨f, hf, rfl⟩ := List.mem_map.1 hp
    obtain ⟨h1, h2⟩ := List.mem_filter.1 hf
    simp [(hs f h1 h2).2.2]
  simp only [e1, e2, e3, e4, e5, Bool.or_self, Bool.false_eq_true, if_false]
  cases a <;> rfl

end Sys2Proof.Laws
end

