-- ==== Sys2Proof/Laws/Memory.lean ====
section
/-! SUPPORT. The canonical form of memory: every operation on a store keeps it, and what a read gives after a write. -/

namespace Sys2Proof.Machine

/-! ## The canonical form as a pairwise order -/

/-- Addresses strictly rising and no entry zero, said of all pairs. -/
def CellsSorted (l : List Host.Cell) : Prop := l.Pairwise (fun c d => c.1 < d.1) ∧ ∀ c ∈ l, c.2 ≠ 0

theorem cellsWf_iff (l : List Host.Cell) : cellsWf l = true ↔ CellsSorted l := by
  induction l with
  | nil => simp [cellsWf, CellsSorted]
  | cons c t ih =>
    cases t with
    | nil => simp [cellsWf, CellsSorted]
    | cons d t =>
      simp only [cellsWf, Bool.and_eq_true, bne_iff_ne, ne_eq, decide_eq_true_eq, ih, CellsSorted, List.pairwise_cons,
        List.mem_cons, forall_eq_or_imp]
      constructor
      · rintro ⟨⟨h1, h2⟩, ⟨h3, h4⟩, h5, h6⟩
        exact ⟨⟨⟨h2, fun e he => lt_trans h2 (h3 e he)⟩, h3, h4⟩, h1, h5, h6⟩
      · rintro ⟨⟨⟨h1, h2⟩, h3, h4⟩, h5, h6, h7⟩
        exact ⟨⟨h5, h1⟩, ⟨h3, h4⟩, h6, h7⟩

theorem Memory.wf_iff (m : Memory) : m.wf = true ↔ CellsSorted m.cells := cellsWf_iff m.cells

theorem Memory.empty_wf : Memory.empty.wf = true := rfl

/-! ## Tables -/

theorem tabSet_mem {α : Type} {k : Nat} {x : α} {l : List (Nat × α)} {c : Nat × α} (h : c ∈ tabSet k x l) :
    c = (k, x) ∨ c ∈ l := by
  induction l with
  | nil => simpa [tabSet] using h
  | cons d t ih =>
    simp only [tabSet] at h
    split at h
    · simpa using h
    · split at h
      · simp only [List.mem_cons] at h ⊢; tauto
      · simp only [List.mem_cons] at h ⊢
        rcases h with h | h
        · exact .inr (.inl h)
        · rcases ih h with h | h
          · exact .inl h
          · exact .inr (.inr h)

theorem tabDel_sublist {α : Type} (k : Nat) (l : List (Nat × α)) : (tabDel k l).Sublist l := by
  induction l with
  | nil => exact .slnil
  | cons d t ih =>
    simp only [tabDel]
    split
    · exact List.sublist_cons_self d t
    · exact ih.cons_cons d

theorem tabSet_sorted {α : Type} {k : Nat} {x : α} {l : List (Nat × α)} (h : l.Pairwise (fun c d => c.1 < d.1)) :
    (tabSet k x l).Pairwise (fun c d => c.1 < d.1) := by
  induction l with
  | nil => simp [tabSet]
  | cons d t ih =>
    obtain ⟨h1, h2⟩ := List.pairwise_cons.mp h
    simp only [tabSet]
    split
    · rename_i hk
      refine List.pairwise_cons.mpr ⟨fun c hc => ?_, h⟩
      rcases List.mem_cons.mp hc with rfl | hc
      · exact hk
      · exact lt_trans hk (h1 c hc)
    · split
      · rename_i hk
        exact List.pairwise_cons.mpr ⟨fun c hc => hk ▸ h1 c hc, h2⟩
      · refine List.pairwise_cons.mpr ⟨fun c hc => ?_, ih h2⟩
        rcases tabSet_mem hc with rfl | hc
        · simp only; omega
        · exact h1 c hc

theorem tabGet_tabSet {α : Type} (k j : Nat) (x : α) (l : List (Nat × α)) :
    tabGet j (tabSet k x l) = if k = j then some x else tabGet j l := by
  induction l with
  | nil => rfl
  | cons d t ih =>
    obtain ⟨i, y⟩ := d
    simp only [tabSet]
    split
    · rfl
    · split
      · rename_i h; subst h; simp only [tabGet]; split <;> rfl
      · rename_i h1 h2
        simp only [tabGet, ih]
        by_cases h : i = j
        · rw [if_pos h, if_pos h, if_neg (by omega)]
        · rw [if_neg h, if_neg h]

theorem tabGet_none_of_lt {α : Type} {k : Nat} {l : List (Nat × α)} (h : ∀ c ∈ l, k < c.1) : tabGet k l = none := by
  induction l with
  | nil => rfl
  | cons d t ih =>
    simp only [tabGet]
    rw [if_neg (fun e => absurd (h d (by simp)) (by omega)), ih (fun c hc => h c (by simp [hc]))]

theorem tabGet_tabDel {α : Type} {k j : Nat} {l : List (Nat × α)} (h : l.Pairwise (fun c d => c.1 < d.1)) :
    tabGet j (tabDel k l) = if k = j then none else tabGet j l := by
  induction l with
  | nil => simp [tabDel, tabGet]
  | cons d t ih =>
    obtain ⟨i, y⟩ := d
    obtain ⟨h1, h2⟩ := List.pairwise_cons.mp h
    simp only [tabDel]
    split
    · rename_i hk; subst hk
      by_cases hj : k = j
      · subst hj; rw [if_pos rfl]; exact tabGet_none_of_lt h1
      · simp only [tabGet, if_neg hj]
    · rename_i hk
      simp only [tabGet, ih h2]
      by_cases hj : i = j
      · rw [if_pos hj, if_pos hj, if_neg (by omega)]
      · rw [if_neg hj, if_neg hj]

/-! ## One byte -/

theorem Memory.set_wf {m : Memory} (h : m.wf = true) (a : Nat) (b : Byte) : (m.set a b).wf = true := by
  rw [Memory.wf_iff] at h ⊢
  unfold Memory.set
  split
  · exact ⟨h.1.sublist (tabDel_sublist a _), fun c hc => h.2 c ((tabDel_sublist a _).mem hc)⟩
  · rename_i hb
    refine ⟨tabSet_sorted h.1, fun c hc => ?_⟩
    rcases tabSet_mem hc with rfl | hc
    · exact hb
    · exact h.2 c hc

/-- A byte reads as it was written, every other byte as before. -/
theorem Memory.get_set {m : Memory} (h : m.wf = true) (a x : Nat) (b : Byte) :
    (m.set a b).get x = if a = x then b else m.get x := by
  rw [Memory.wf_iff] at h
  unfold Memory.set Memory.get
  split
  · rename_i hb
    rw [tabGet_tabDel h.1]; split <;> simp [hb]
  · rw [tabGet_tabSet]; split <;> simp

@[simp] theorem Memory.get_empty (x : Nat) : Memory.empty.get x = 0 := rfl

/-! ## Ranges -/

theorem Memory.write_wf {m : Memory} (h : m.wf = true) (a : Nat) (bs : List Byte) : (m.write a bs).wf = true := by
  induction bs generalizing m a with
  | nil => exact h
  | cons b t ih => exact ih (Memory.set_wf h a b) (a + 1)

theorem Memory.store_wf {m : Memory} (h : m.wf = true) (a n v : Nat) : (m.store a n v).wf = true :=
  Memory.write_wf h a _

/-- After a write of bytes, the bytes of the range read as written and every other byte as before. -/
theorem Memory.get_write {m : Memory} (h : m.wf = true) (a x : Nat) (bs : List Byte) :
    (m.write a bs).get x = if a ≤ x ∧ x < a + bs.length then bs.getD (x - a) 0 else m.get x := by
  induction bs generalizing m a with
  | nil => simp only [Memory.write, List.length_nil]; rw [if_neg (by omega)]
  | cons b t ih =>
    simp only [Memory.write, ih (Memory.set_wf h a b), Memory.get_set h, List.length_cons]
    by_cases h1 : a = x
    · subst h1
      rw [if_neg (by omega), if_pos rfl, if_pos (by omega)]; simp
    · by_cases h2 : a + 1 ≤ x ∧ x < a + 1 + t.length
      · rw [if_pos h2, if_pos (by omega), show x - a = (x - (a + 1)) + 1 by omega, List.getD_cons_succ]
      · rw [if_neg h2, if_neg h1, if_neg (by omega)]

theorem Memory.read_length (m : Memory) (a n : Nat) : (m.read a n).length = n := by
  induction n generalizing a with
  | zero => rfl
  | succ n ih => simp [Memory.read, ih]

theorem Memory.read_getD (m : Memory) (a n i : Nat) (h : i < n) : (m.read a n).getD i 0 = m.get (a + i) := by
  induction n generalizing a i with
  | zero => omega
  | succ n ih =>
    cases i with
    | zero => rfl
    | succ i => rw [Memory.read, List.getD_cons_succ, ih _ _ (by omega)]; congr 1; omega

theorem natBytes_length (v n : Nat) : (natBytes v n).length = n := by
  induction n generalizing v with
  | zero => rfl
  | succ n ih => simp [natBytes, ih]

/-- The little-endian value of the low bytes of a number. -/
theorem leNat_natBytes (v n : Nat) : leNat (natBytes v n) = v % 256 ^ n := by
  induction n generalizing v with
  | zero => simp [natBytes, leNat, Nat.mod_one]
  | succ n ih =>
    rw [natBytes, leNat, ih, BitVec.toNat_ofNat, show 2 ^ 8 = 256 from rfl, Nat.pow_succ, Nat.mul_comm (256 ^ n) 256,
      Nat.mod_mul]

theorem leNat_lt (bs : List Byte) : leNat bs < 256 ^ bs.length := by
  induction bs with
  | nil => simp [leNat]
  | cons b t ih =>
    have := b.isLt
    simp only [leNat, List.length_cons, Nat.pow_succ]; omega

/-- A value that was stored is loaded again, modulo the width. -/
theorem Memory.load_store {m : Memory} (h : m.wf = true) (a n v : Nat) : (m.store a n v).load a n = v % 256 ^ n := by
  rw [← leNat_natBytes, Memory.load]
  congr 1
  apply List.ext_getElem
  · rw [Memory.read_length, natBytes_length]
  · intro i h1 h2
    have hi : i < n := by rwa [Memory.read_length] at h1
    rw [← List.getD_eq_getElem _ 0 h1, ← List.getD_eq_getElem _ 0 h2, Memory.read_getD _ _ _ _ hi, Memory.store,
      Memory.get_write h, natBytes_length, if_pos (by omega)]
    congr 1; omega

/-! ## Whole stores -/

theorem Memory.filter_wf {m : Memory} (h : m.wf = true) (p : Host.Cell → Bool) :
    (⟨m.cells.filter p⟩ : Memory).wf = true := by
  rw [Memory.wf_iff] at h ⊢
  exact ⟨h.1.sublist List.filter_sublist, fun c hc => h.2 c (List.mem_of_mem_filter hc)⟩

theorem Memory.foldl_set_wf {m : Memory} (h : m.wf = true) (l : List Host.Cell) (f : Host.Cell → Nat) :
    (l.foldl (fun (u : Memory) c => u.set (f c) c.2) m).wf = true := by
  induction l generalizing m with
  | nil => exact h
  | cons c t ih => exact ih (Memory.set_wf h _ _)

theorem Memory.moveRange_wf {m : Memory} (h : m.wf = true) (a b n : Nat) : (m.moveRange a b n).wf = true :=
  Memory.foldl_set_wf (Memory.filter_wf h _) _ _

theorem copyBetween_wf {dst : Memory} (h : dst.wf = true) (src : Memory) (a b n : Nat) :
    (copyBetween src dst a b n).wf = true :=
  Memory.foldl_set_wf (Memory.filter_wf h _) _ _

theorem Memory.foldl_write_wf {α : Type} {m : Memory} (h : m.wf = true) (l : List α) (f : α → Nat) (g : α → List Byte) :
    (l.foldl (fun (u : Memory) x => u.write (f x) (g x)) m).wf = true := by
  induction l generalizing m with
  | nil => exact h
  | cons c t ih => exact ih (Memory.write_wf h _ _)

/-- Two stores in canonical form that read alike are equal. -/
theorem Memory.ext_get {m n : Memory} (hm : m.wf = true) (hn : n.wf = true) (h : ∀ x, m.get x = n.get x) : m = n := by
  rw [Memory.wf_iff] at hm hn
  obtain ⟨l⟩ := m; obtain ⟨k⟩ := n
  simp only [Memory.get] at h hm hn
  congr 1
  induction l generalizing k with
  | nil =>
    cases k with
    | nil => rfl
    | cons d t => exact absurd (by simpa [tabGet] using (h d.1).symm) (hn.2 d (by simp))
  | cons c t ih =>
    cases k with
    | nil => exact absurd (by simpa [tabGet] using h c.1) (hm.2 c (by simp))
    | cons d u =>
      obtain ⟨c1, c2⟩ := List.pairwise_cons.mp hm.1
      obtain ⟨d1, d2⟩ := List.pairwise_cons.mp hn.1
      have none_t : ∀ x, x ≤ c.1 → tabGet x t = none := fun x hx => tabGet_none_of_lt (fun e he => by have := c1 e he; omega)
      have none_u : ∀ x, x ≤ d.1 → tabGet x u = none := fun x hx => tabGet_none_of_lt (fun e he => by have := d1 e he; omega)
      obtain ⟨i, x⟩ := c; obtain ⟨j, y⟩ := d
      have hi := h i; have hj := h j
      simp only [tabGet, if_pos] at hi hj none_t none_u
      have hij : i = j := by
        rcases Nat.lt_trichotomy i j with hlt | heq | hgt
        · rw [if_neg (by omega), none_u i (by omega)] at hi
          exact absurd (by simpa using hi) (hm.2 (i, x) (by simp))
        · exact heq
        · rw [if_neg (by omega), none_t j (by omega)] at hj
          exact absurd (by simpa using hj.symm) (hn.2 (j, y) (by simp))
      subst hij
      simp only [if_pos, Option.getD_some] at hi
      subst hi
      rw [ih ⟨c2, fun e he => hm.2 e (by simp [he])⟩ u ⟨d2, fun e he => hn.2 e (by simp [he])⟩ ?_]
      intro z
      have := h z
      simp only [tabGet] at this
      by_cases hz : z = i
      · subst hz; rw [none_t _ le_rfl, none_u _ le_rfl]
      · rwa [if_neg (fun e => hz e.symm), if_neg (fun e => hz e.symm)] at this

end Sys2Proof.Machine
end

