-- ==== Sys2Proof/Laws/Pages.lean ====
section
/-! SUPPORT. Page tables that stand in memory alone, and the leaves of tables whose last entries are all clear. -/

namespace Sys2Proof.Machine

/-- Memory alone answers a read where no key was stamped and no die cache holds a line. -/
theorem keyedRead_of_clear_caches (s : State) (hs : s.stamps = []) (hd : s.dcache = []) (k a n : Nat) : s.keyedRead k a n = s.mem.read a n := by
  induction n generalizing a with
  | zero => rfl
  | succ n ih => rw [State.keyedRead, Memory.read, ih, State.keyedByte, hs, State.physByte, hd]; rfl

theorem supRead_of_nothing_lost (s : State) (h : s.lost = []) (hk : s.struck = []) (a n : Nat) : s.supRead a n = s.keyedRead (keySerial s 0) a n := by
  have : hitsLost s a n = false := by simp [hitsLost, h, hk]
  simp only [State.supRead, this]
  rfl

theorem tabGet_none_of_ne {α : Type} {k : Nat} {l : List (Nat × α)} (h : ∀ c ∈ l, c.1 ≠ k) : tabGet k l = none := by
  induction l with
  | nil => rfl
  | cons c t ih =>
    rw [tabGet, if_neg (fun e => h c List.mem_cons_self e)]
    exact ih (fun d hd => h d (List.mem_cons_of_mem _ hd))

/-- A range in which memory lists nothing reads as zero. -/
theorem Memory.load_of_no_cells (m : Memory) (a n : Nat) (h : ∀ c ∈ m.cells, c.1 < a ∨ a + n ≤ c.1) : leNat (m.read a n) = 0 := by
  induction n generalizing a with
  | zero => rfl
  | succ n ih =>
    have h0 : m.get a = 0 := by
      rw [Memory.get, tabGet_none_of_ne (fun c hc => by have := h c hc; omega)]; rfl
    rw [Memory.read, leNat, h0, ih (a + 1) (fun c hc => by have := h c hc; omega)]
    rfl

/-- An entry gives the same leaves where `below` gives the same for every table that it may name. -/
theorem entryLeaves_congr (s : State) (level table base index : Nat) (f g : Nat → Nat → List Leaf)
    (h : ∀ t b, t % 4096 = 0 → f t b = g t b) : entryLeaves s level table base f index = entryLeaves s level table base g index := by
  simp only [entryLeaves, h _ _ (Nat.mul_mod_left _ 4096)]

theorem entryLeaves_of_clear (s : State) (level table base index : Nat) (f : Nat → Nat → List Leaf)
    (h : s.supLoad (table + 8 * index) 8 = 0) : entryLeaves s level table base f index = [] := by
  simp only [entryLeaves, h]; rfl

/-- Where memory lists bytes only among the first `k` entries of each page of tables, a table's leaves are those of its first `k` entries. -/
theorem leavesFrom_eq_leavesIn {s : State} {k : Nat} (hk : k ≤ 512) (hs : s.stamps = []) (hd : s.dcache = []) (hl : s.lost = [])
    (hw : s.struck = []) (hc : ∀ c ∈ s.mem.cells, c.1 % 4096 < 8 * k) (level table base : Nat) (ht : table % 4096 = 0) :
    leavesFrom s level table base = leavesIn s (List.range k) level table base := by
  have clear : ∀ t i, t % 4096 = 0 → k ≤ i → i < 512 → s.supLoad (t + 8 * i) 8 = 0 := fun t i h0 h1 h2 => by
    rw [State.supLoad, supRead_of_nothing_lost s hl hw, keyedRead_of_clear_caches s hs hd]
    exact Memory.load_of_no_cells _ _ _ (fun c h => by have := hc c h; omega)
  have cut : ∀ (t : Nat) (f g : Nat → List Leaf), t % 4096 = 0 → (∀ i, f i = g i) → (∀ i, s.supLoad (t + 8 * i) 8 = 0 → f i = []) →
      (List.range 512).flatMap f = (List.range k).flatMap g := fun t f g h0 h1 h2 => by
    obtain ⟨d, hd⟩ : ∃ d, 512 = k + d := ⟨512 - k, by omega⟩
    rw [hd, List.range_add, List.flatMap_append, funext h1]
    refine (congrArg (_ ++ ·) (List.flatMap_eq_nil_iff.2 (fun i hi => ?_))).trans (List.append_nil _)
    rw [← h1]
    obtain ⟨j, hj, rfl⟩ := List.mem_map.1 hi
    exact h2 _ (clear t _ h0 (by omega) (by have := List.mem_range.1 hj; omega))
  rw [leavesFrom]
  induction level generalizing table base with
  | zero => exact cut table _ _ ht (fun _ => rfl) (fun i => entryLeaves_of_clear s _ _ _ i _)
  | succ l ih =>
    exact cut table _ _ ht (fun i => entryLeaves_congr s _ _ _ i _ _ (fun t b h => ih t b h)) (fun i => entryLeaves_of_clear s _ _ _ i _)

/-- The pages of a machine with one address space. -/
theorem allPages_of_root {s : State} {asid root : Nat} (h : s.roots = [(asid, root)]) :
    allPages s = (leavesFrom s 4 root 0).map (fun l => (BitVec.ofNat 16 asid, l, pageInfo s (BitVec.ofNat 16 asid) l)) := by
  have : leavesOf s asid = leavesFrom s 4 root 0 := by simp [leavesOf, h, tabGet]
  rw [allPages, h, List.flatMap_cons, List.flatMap_nil, List.append_nil, this]

end Sys2Proof.Machine
end

