-- ==== Sys2Proof/Laws/PerInstr.lean ====
section
/-! SUPPORT. Statements about every instruction as syntax, one lemma per constructor of `Instr`: family `RoundTrip`, the
bytes of a well-formed instruction, with any bytes after them, decode to it in each cluster whose map holds it. -/

namespace Sys2Proof.Laws.RoundTrip

set_option Elab.async false

/-- What the family says of one instruction. -/
def Statement (i : Instr) : Prop :=
  ∀ (c : Cluster) (rest : List Byte), wellFormed c i = true → decode c (encodeBytes i ++ rest) = .ok (i, rest)

theorem bitAt_eq {w lo : Nat} {b : Bool} (h : w / 2 ^ lo % 2 = b.toNat) : bitAt w lo = b := by
  unfold bitAt; rw [h]; cases b <;> rfl

theorem bitAt_true {w lo : Nat} (h : w / 2 ^ lo % 2 = 1) : bitAt w lo = true := bitAt_eq h

theorem bitAt_false {w lo : Nat} (h : w / 2 ^ lo % 2 = 0) : bitAt w lo = false := bitAt_eq h

theorem fld_eq {w lo n : Nat} {v : BitVec n} (h : w / 2 ^ lo % 2 ^ n = v.toNat) : fld w lo n = v := by
  apply BitVec.eq_of_toNat_eq; rw [fld, BitVec.toNat_ofNat, h]

theorem decodeWord_ok {c : Cluster} {long : Bool} {i : Instr} (hc : check c i = none)
    (hd : (if long then decode32 c (encode i) else decode16 c (encode i)) = some i) :
    decodeWord c long (encode i) = .ok i := by
  simp only [decodeWord, hd, hc, if_pos]

theorem firstWord_long {w : Nat} (h1 : 2 ^ 31 ≤ w) (h2 : w < 2 ^ 32) (rest : List Byte) :
    firstWord (wordToBytes true w ++ rest) = some (true, w, rest) := by
  simp only [wordToBytes, if_true, List.cons_append, List.nil_append, firstWord, fld, BitVec.toNat_ofNat]
  rw [if_neg (by omega)]
  simp only [Option.some.injEq, Prod.mk.injEq, true_and, and_true]
  omega

theorem firstWord_short {w : Nat} (h : w < 2 ^ 15) (rest : List Byte) :
    firstWord (wordToBytes false w ++ rest) = some (false, w, rest) := by
  simp only [wordToBytes, Bool.false_eq_true, if_false, List.cons_append, List.nil_append, firstWord, fld, BitVec.toNat_ofNat]
  rw [if_pos (by omega)]
  simp only [Option.some.injEq, Prod.mk.injEq, true_and, and_true]
  omega

theorem none_of_wellFormed {c : Cluster} {i : Instr} (h : wellFormed c i = true) : check c i = none := by
  unfold wellFormed at h; cases hc : check c i with
  | none => rfl
  | some e => rw [hc] at h; exact nomatch h

theorem long_of {i : Instr} (hl : wordBytes i = 4) {w : Nat} (hw : encode i = w) (h1 : 2 ^ 31 ≤ w) (h2 : w < 2 ^ 32)
    (hd : ∀ c, check c i = none → decode32 c w = some i) : Statement i := by
  intro c rest hf
  have hc := none_of_wellFormed hf
  subst hw
  unfold decode encodeBytes
  rw [hl, show ((4 : Nat) == 4) = true from rfl, firstWord_long h1 h2]
  simp only [decodeWord_ok (long := true) hc (by rw [if_pos rfl]; exact hd c hc), Except.map]

theorem short_of {i : Instr} (hl : wordBytes i = 2) {w : Nat} (hw : encode i = w) (h1 : w < 2 ^ 15)
    (hd : ∀ c, check c i = none → decode16 c w = some i) : Statement i := by
  intro c rest hf
  have hc := none_of_wellFormed hf
  subst hw
  unfold decode encodeBytes
  rw [hl, show ((2 : Nat) == 4) = false from rfl, firstWord_short h1]
  simp only [decodeWord_ok (long := false) hc (by rw [if_neg Bool.false_ne_true]; exact hd c hc), Except.map]

/-- A step without an encoding is never well formed. -/
theorem not_encoded {i : Instr} (h : ∀ {c : Cluster}, wellFormed c i = false) : Statement i := by
  intro c rest hf; rw [h] at hf; exact nomatch hf

theorem accfill (st : Bool) (n : BitVec 4) : Statement (.accfill st n) := by
  have b1 := st.toNat_lt
  have b2 := n.isLt
  obtain ⟨w, hw⟩ : ∃ w, encode (.accfill st n) = w := ⟨_, rfl⟩
  have hw' : w = st.toNat * 2 ^ 30 + (n.toNat * 2 ^ 0 + 0x88A00000) := hw.symm
  refine long_of rfl hw (by omega) (by omega) (fun c hc => ?_)
  have e1 : num w 25 5 = 4 := by unfold num; omega
  have e2 : num w 20 5 = 10 := by unfold num; omega
  have g1 : bitAt w 30 = st := bitAt_eq (by omega)
  have g2 : fld w 0 4 = n := fld_eq (by omega)
  unfold decode32
  rw [e1]
  cases c
  · exact nomatch hc
  · exact nomatch hc
  · unfold decodeM; rw [e1]; unfold decodeArray; rw [e2]; rw [g1, g2]; all_goals rfl
  · exact nomatch hc

theorem accspill (st : Bool) (n : BitVec 4) : Statement (.accspill st n) := by
  have b1 := st.toNat_lt
  have b2 := n.isLt
  obtain ⟨w, hw⟩ : ∃ w, encode (.accspill st n) = w := ⟨_, rfl⟩
  have hw' : w = st.toNat * 2 ^ 30 + (n.toNat * 2 ^ 0 + 0x88900000) := hw.symm
  refine long_of rfl hw (by omega) (by omega) (fun c hc => ?_)
  have e1 : num w 25 5 = 4 := by unfold num; omega
  have e2 : num w 20 5 = 9 := by unfold num; omega
  have g1 : bitAt w 30 = st := bitAt_eq (by omega)
  have g2 : fld w 0 4 = n := fld_eq (by omega)
  unfold decode32
  rw [e1]
  cases c
  · exact nomatch hc
  · exact nomatch hc
  · unfold decodeM; rw [e1]; unfold decodeArray; rw [e2]; rw [g1, g2]; all_goals rfl
  · exact nomatch hc

theorem accz (st : Bool) (n : BitVec 4) : Statement (.accz st n) := by
  have b1 := st.toNat_lt
  have b2 := n.isLt
  obtain ⟨w, hw⟩ : ∃ w, encode (.accz st n) = w := ⟨_, rfl⟩
  have hw' : w = st.toNat * 2 ^ 30 + (n.toNat * 2 ^ 0 + 0x88700000) := hw.symm
  refine long_of rfl hw (by omega) (by omega) (fun c hc => ?_)
  have e1 : num w 25 5 = 4 := by unfold num; omega
  have e2 : num w 20 5 = 7 := by unfold num; omega
  have g1 : bitAt w 30 = st := bitAt_eq (by omega)
  have g2 : fld w 0 4 = n := fld_eq (by omega)
  unfold decode32
  rw [e1]
  cases c
  · exact nomatch hc
  · exact nomatch hc
  · unfold decodeM; rw [e1]; unfold decodeArray; rw [e2]; rw [g1, g2]; all_goals rfl
  · exact nomatch hc

theorem aclaim (st : Bool) (n : BitVec 4) : Statement (.aclaim st n) := by
  have b1 := st.toNat_lt
  have b2 := n.isLt
  obtain ⟨w, hw⟩ : ∃ w, encode (.aclaim st n) = w := ⟨_, rfl⟩
  have hw' : w = st.toNat * 2 ^ 30 + (n.toNat * 2 ^ 0 + 0x88500000) := hw.symm
  refine long_of rfl hw (by omega) (by omega) (fun c hc => ?_)
  have e1 : num w 25 5 = 4 := by unfold num; omega
  have e2 : num w 20 5 = 5 := by unfold num; omega
  have g1 : bitAt w 30 = st := bitAt_eq (by omega)
  have g2 : fld w 0 4 = n := fld_eq (by omega)
  unfold decode32
  rw [e1]
  cases c
  · exact nomatch hc
  · exact nomatch hc
  · unfold decodeM; rw [e1]; unfold decodeArray; rw [e2]; rw [g1, g2]; all_goals rfl
  · exact nomatch hc

theorem add (st : Bool) (rd : BitVec 5) (rs1 : BitVec 5) (rs2 : BitVec 5) : Statement (.add st rd rs1 rs2) := by
  have b1 := st.toNat_lt
  have b2 := rd.isLt
  have b3 := rs1.isLt
  have b4 := rs2.isLt
  obtain ⟨w, hw⟩ : ∃ w, encode (.add st rd rs1 rs2) = w := ⟨_, rfl⟩
  have hw' : w = st.toNat * 2 ^ 30 + (rd.toNat * 2 ^ 20 + (rs1.toNat * 2 ^ 15 + (rs2.toNat * 2 ^ 10 + 0x80000000))) := hw.symm
  refine long_of rfl hw (by omega) (by omega) (fun c hc => ?_)
  have e1 : num w 25 5 = 0 := by unfold num; omega
  have e2 : num w 5 5 = 0 := by unfold num; omega
  have g1 : bitAt w 30 = st := bitAt_eq (by omega)
  have g2 : fld w 20 5 = rd := fld_eq (by omega)
  have g3 : fld w 15 5 = rs1 := fld_eq (by omega)
  have g4 : fld w 10 5 = rs2 := fld_eq (by omega)
  unfold decode32
  rw [e1]
  cases c
  · unfold decodeA; rw [e1]; unfold decodeR; rw [e2]; rw [g1, g2, g3, g4]; all_goals rfl
  · exact nomatch hc
  · unfold decodeM; rw [e1]; unfold decodeR; rw [e2]; rw [g1, g2, g3, g4]; all_goals rfl
  · unfold decodeS; rw [e1]; unfold decodeR; rw [e2]; rw [g1, g2, g3, g4]; all_goals rfl

theorem add16 (st : Bool) (rd : BitVec 5) (rs : BitVec 5) : Statement (.add16 st rd rs) := by
  have b1 := st.toNat_lt
  have b2 := rd.isLt
  have b3 := rs.isLt
  obtain ⟨w, hw⟩ : ∃ w, encode (.add16 st rd rs) = w := ⟨_, rfl⟩
  have hw' : w = st.toNat * 2 ^ 14 + (rd.toNat * 2 ^ 5 + (rs.toNat * 2 ^ 0 + 0x0800)) := hw.symm
  refine short_of rfl hw (by omega) (fun c hc => ?_)
  have e1 : num w 10 4 = 2 := by unfold num; omega
  have g1 : bitAt w 14 = st := bitAt_eq (by omega)
  have g2 : fld w 5 5 = rd := fld_eq (by omega)
  have g3 : fld w 0 5 = rs := fld_eq (by omega)
  cases c
  · unfold decode16; rw [e1]; rw [g1, g2, g3]; all_goals rfl
  · exact nomatch hc
  · unfold decode16; rw [e1]; rw [g1, g2, g3]; all_goals rfl
  · unfold decode16; rw [e1]; rw [g1, g2, g3]; all_goals rfl

theorem addi (st : Bool) (rd : BitVec 5) (rs1 : BitVec 5) (imm : BitVec 15) : Statement (.addi st rd rs1 imm) := by
  have b1 := st.toNat_lt
  have b2 := rd.isLt
  have b3 := rs1.isLt
  have b4 := imm.isLt
  obtain ⟨w, hw⟩ : ∃ w, encode (.addi st rd rs1 imm) = w := ⟨_, rfl⟩
  have hw' : w = st.toNat * 2 ^ 30 + (rd.toNat * 2 ^ 20 + (rs1.toNat * 2 ^ 15 + (imm.toNat * 2 ^ 0 + 0x82000000))) := hw.symm
  refine long_of rfl hw (by omega) (by omega) (fun c hc => ?_)
  have e1 : num w 25 5 = 1 := by unfold num; omega
  have g1 : bitAt w 30 = st := bitAt_eq (by omega)
  have g2 : fld w 20 5 = rd := fld_eq (by omega)
  have g3 : fld w 15 5 = rs1 := fld_eq (by omega)
  have g4 : fld w 0 15 = imm := fld_eq (by omega)
  unfold decode32
  rw [e1]
  cases c
  · unfold decodeA; rw [e1]; rw [g1, g2, g3, g4]; all_goals rfl
  · exact nomatch hc
  · unfold decodeM; rw [e1]; rw [g1, g2, g3, g4]; all_goals rfl
  · unfold decodeS; rw [e1]; rw [g1, g2, g3, g4]; all_goals rfl

theorem addi16 (st : Bool) (rd : BitVec 5) (imm : BitVec 5) : Statement (.addi16 st rd imm) := by
  have b1 := st.toNat_lt
  have b2 := rd.isLt
  have b3 := imm.isLt
  obtain ⟨w, hw⟩ : ∃ w, encode (.addi16 st rd imm) = w := ⟨_, rfl⟩
  have hw' : w = st.toNat * 2 ^ 14 + (rd.toNat * 2 ^ 5 + (imm.toNat * 2 ^ 0 + 0x0C00)) := hw.symm
  refine short_of rfl hw (by omega) (fun c hc => ?_)
  have e1 : num w 10 4 = 3 := by unfold num; omega
  have g1 : bitAt w 14 = st := bitAt_eq (by omega)
  have g2 : fld w 5 5 = rd := fld_eq (by omega)
  have g3 : fld w 0 5 = imm := fld_eq (by omega)
  cases c
  · unfold decode16; rw [e1]; rw [g1, g2, g3]; all_goals rfl
  · exact nomatch hc
  · unfold decode16; rw [e1]; rw [g1, g2, g3]; all_goals rfl
  · unfold decode16; rw [e1]; rw [g1, g2, g3]; all_goals rfl

theorem adrain (st : Bool) (n : BitVec 4) (ma : BitVec 5) (mb : BitVec 5) (mc : BitVec 5) (scope : BitVec 3) (ty : BitVec 3) : Statement (.adrain st n ma mb mc scope ty) := by
  have b1 := st.toNat_lt
  have b2 := n.isLt
  have b3 := ma.isLt
  have b4 := mb.isLt
  have b5 := mc.isLt
  have b6 := scope.isLt
  have b7 := ty.isLt
  obtain ⟨w, hw⟩ : ∃ w, encode (.adrain st n ma mb mc scope ty) = w := ⟨_, rfl⟩
  have hw' : w = st.toNat * 2 ^ 30 + (n.toNat * 2 ^ 21 + (ma.toNat * 2 ^ 16 + (mb.toNat * 2 ^ 11 + (mc.toNat * 2 ^ 6 + (scope.toNat * 2 ^ 3 + (ty.toNat * 2 ^ 0 + 0x8C000000)))))) := hw.symm
  refine long_of rfl hw (by omega) (by omega) (fun c hc => ?_)
  have e1 : num w 25 5 = 6 := by unfold num; omega
  have g1 : bitAt w 30 = st := bitAt_eq (by omega)
  have g2 : fld w 21 4 = n := fld_eq (by omega)
  have g3 : fld w 16 5 = ma := fld_eq (by omega)
  have g4 : fld w 11 5 = mb := fld_eq (by omega)
  have g5 : fld w 6 5 = mc := fld_eq (by omega)
  have g6 : fld w 3 3 = scope := fld_eq (by omega)
  have g7 : fld w 0 3 = ty := fld_eq (by omega)
  unfold decode32
  rw [e1]
  cases c
  · exact nomatch hc
  · exact nomatch hc
  · unfold decodeM; rw [e1]; rw [g1, g2, g3, g4, g5, g6, g7]; all_goals rfl
  · exact nomatch hc

theorem afree (st : Bool) (n : BitVec 4) : Statement (.afree st n) := by
  have b1 := st.toNat_lt
  have b2 := n.isLt
  obtain ⟨w, hw⟩ : ∃ w, encode (.afree st n) = w := ⟨_, rfl⟩
  have hw' : w = st.toNat * 2 ^ 30 + (n.toNat * 2 ^ 0 + 0x88600000) := hw.symm
  refine long_of rfl hw (by omega) (by omega) (fun c hc => ?_)
  have e1 : num w 25 5 = 4 := by unfold num; omega
  have e2 : num w 20 5 = 6 := by unfold num; omega
  have g1 : bitAt w 30 = st := bitAt_eq (by omega)
  have g2 : fld w 0 4 = n := fld_eq (by omega)
  unfold decode32
  rw [e1]
  cases c
  · exact nomatch hc
  · exact nomatch hc
  · unfold decodeM; rw [e1]; unfold decodeArray; rw [e2]; rw [g1, g2]; all_goals rfl
  · exact nomatch hc

theorem amo (st : Bool) (b : BitVec 4) (ret : Bool) (base : BitVec 5) (rs : BitVec 5) (op : BitVec 4) (w' : Bool) (ord : BitVec 2) (scope : BitVec 3) : Statement (.amo st b ret base rs op w' ord scope) := by
  have b1 := st.toNat_lt
  have b2 := b.isLt
  have b3 := ret.toNat_lt
  have b4 := base.isLt
  have b5 := rs.isLt
  have b6 := op.isLt
  have b7 := w'.toNat_lt
  have b8 := ord.isLt
  have b9 := scope.isLt
  obtain ⟨w, hw⟩ : ∃ w, encode (.amo st b ret base rs op w' ord scope) = w := ⟨_, rfl⟩
  have hw' : w = st.toNat * 2 ^ 30 + (b.toNat * 2 ^ 21 + (ret.toNat * 2 ^ 20 + (base.toNat * 2 ^ 15 + (rs.toNat * 2 ^ 10 + (op.toNat * 2 ^ 6 + (w'.toNat * 2 ^ 5 + (ord.toNat * 2 ^ 3 + (scope.toNat * 2 ^ 0 + 0x92000000)))))))) := hw.symm
  refine long_of rfl hw (by omega) (by omega) (fun c hc => ?_)
  have e1 : num w 25 5 = 9 := by unfold num; omega
  have g1 : bitAt w 30 = st := bitAt_eq (by omega)
  have g2 : fld w 21 4 = b := fld_eq (by omega)
  have g3 : bitAt w 20 = ret := bitAt_eq (by omega)
  have g4 : fld w 15 5 = base := fld_eq (by omega)
  have g5 : fld w 10 5 = rs := fld_eq (by omega)
  have g6 : fld w 6 4 = op := fld_eq (by omega)
  have g7 : bitAt w 5 = w' := bitAt_eq (by omega)
  have g8 : fld w 3 2 = ord := fld_eq (by omega)
  have g9 : fld w 0 3 = scope := fld_eq (by omega)
  unfold decode32
  rw [e1]
  cases c
  · unfold decodeA; rw [e1]; rw [g1, g2, g3, g4, g5, g6, g7, g8, g9]; all_goals rfl
  · exact nomatch hc
  · exact nomatch hc
  · unfold decodeS; rw [e1]; rw [g1, g2, g3, g4, g5, g6, g7, g8, g9]; all_goals rfl

theorem and (st : Bool) (rd : BitVec 5) (rs1 : BitVec 5) (rs2 : BitVec 5) : Statement (.and st rd rs1 rs2) := by
  have b1 := st.toNat_lt
  have b2 := rd.isLt
  have b3 := rs1.isLt
  have b4 := rs2.isLt
  obtain ⟨w, hw⟩ : ∃ w, encode (.and st rd rs1 rs2) = w := ⟨_, rfl⟩
  have hw' : w = st.toNat * 2 ^ 30 + (rd.toNat * 2 ^ 20 + (rs1.toNat * 2 ^ 15 + (rs2.toNat * 2 ^ 10 + 0x800000C0))) := hw.symm
  refine long_of rfl hw (by omega) (by omega) (fun c hc => ?_)
  have e1 : num w 25 5 = 0 := by unfold num; omega
  have e2 : num w 5 5 = 6 := by unfold num; omega
  have g1 : bitAt w 30 = st := bitAt_eq (by omega)
  have g2 : fld w 20 5 = rd := fld_eq (by omega)
  have g3 : fld w 15 5 = rs1 := fld_eq (by omega)
  have g4 : fld w 10 5 = rs2 := fld_eq (by omega)
  unfold decode32
  rw [e1]
  cases c
  · unfold decodeA; rw [e1]; unfold decodeR; rw [e2]; rw [g1, g2, g3, g4]; all_goals rfl
  · exact nomatch hc
  · unfold decodeM; rw [e1]; unfold decodeR; rw [e2]; rw [g1, g2, g3, g4]; all_goals rfl
  · unfold decodeS; rw [e1]; unfold decodeR; rw [e2]; rw [g1, g2, g3, g4]; all_goals rfl

theorem andn (st : Bool) (rd : BitVec 5) (rs1 : BitVec 5) (rs2 : BitVec 5) : Statement (.andn st rd rs1 rs2) := by
  have b1 := st.toNat_lt
  have b2 := rd.isLt
  have b3 := rs1.isLt
  have b4 := rs2.isLt
  obtain ⟨w, hw⟩ : ∃ w, encode (.andn st rd rs1 rs2) = w := ⟨_, rfl⟩
  have hw' : w = st.toNat * 2 ^ 30 + (rd.toNat * 2 ^ 20 + (rs1.toNat * 2 ^ 15 + (rs2.toNat * 2 ^ 10 + 0x80000120))) := hw.symm
  refine long_of rfl hw (by omega) (by omega) (fun c hc => ?_)
  have e1 : num w 25 5 = 0 := by unfold num; omega
  have e2 : num w 5 5 = 9 := by unfold num; omega
  have g1 : bitAt w 30 = st := bitAt_eq (by omega)
  have g2 : fld w 20 5 = rd := fld_eq (by omega)
  have g3 : fld w 15 5 = rs1 := fld_eq (by omega)
  have g4 : fld w 10 5 = rs2 := fld_eq (by omega)
  unfold decode32
  rw [e1]
  cases c
  · unfold decodeA; rw [e1]; unfold decodeR; rw [e2]; rw [g1, g2, g3, g4]; all_goals rfl
  · exact nomatch hc
  · unfold decodeM; rw [e1]; unfold decodeR; rw [e2]; rw [g1, g2, g3, g4]; all_goals rfl
  · unfold decodeS; rw [e1]; unfold decodeR; rw [e2]; rw [g1, g2, g3, g4]; all_goals rfl

theorem bgive (st : Bool) (b : BitVec 4) (n1 : BitVec 2) : Statement (.bgive st b n1) := by
  have b1 := st.toNat_lt
  have b2 := b.isLt
  have b3 := n1.isLt
  obtain ⟨w, hw⟩ : ∃ w, encode (.bgive st b n1) = w := ⟨_, rfl⟩
  have hw' : w = st.toNat * 2 ^ 30 + (b.toNat * 2 ^ 16 + (n1.toNat * 2 ^ 14 + 0xB4A00000)) := hw.symm
  refine long_of rfl hw (by omega) (by omega) (fun c hc => ?_)
  have e1 : num w 25 5 = 26 := by unfold num; omega
  have e2 : num w 20 5 = 10 := by unfold num; omega
  have g1 : bitAt w 30 = st := bitAt_eq (by omega)
  have g2 : fld w 16 4 = b := fld_eq (by omega)
  have g3 : fld w 14 2 = n1 := fld_eq (by omega)
  unfold decode32
  rw [e1]
  unfold decodeSystem
  rw [e2]
  rw [g1, g2, g3]
  all_goals rfl

theorem bgive16 (st : Bool) (b : BitVec 4) : Statement (.bgive16 st b) := by
  have b1 := st.toNat_lt
  have b2 := b.isLt
  obtain ⟨w, hw⟩ : ∃ w, encode (.bgive16 st b) = w := ⟨_, rfl⟩
  have hw' : w = st.toNat * 2 ^ 14 + (b.toNat * 2 ^ 2 + 0x3CC0) := hw.symm
  refine short_of rfl hw (by omega) (fun c hc => ?_)
  have e1 : num w 10 4 = 15 := by unfold num; omega
  have e2 : num w 6 4 = 3 := by unfold num; omega
  have g1 : bitAt w 14 = st := bitAt_eq (by omega)
  have g2 : fld w 2 4 = b := fld_eq (by omega)
  unfold decode16
  rw [e1]
  unfold decodeForms16
  rw [e2]
  rw [g1, g2]
  all_goals rfl

theorem blk (st : Bool) (len : BitVec 11) (rep : BitVec 8) (rsrc : Bool) (stg : BitVec 3) (pre : Bool) : Statement (.blk st len rep rsrc stg pre) := by
  have b1 := st.toNat_lt
  have b2 := len.isLt
  have b3 := rep.isLt
  have b4 := rsrc.toNat_lt
  have b5 := stg.isLt
  have b6 := pre.toNat_lt
  obtain ⟨w, hw⟩ : ∃ w, encode (.blk st len rep rsrc stg pre) = w := ⟨_, rfl⟩
  have hw' : w = st.toNat * 2 ^ 30 + (len.toNat * 2 ^ 14 + (rep.toNat * 2 ^ 6 + (rsrc.toNat * 2 ^ 5 + (stg.toNat * 2 ^ 2 + (pre.toNat * 2 ^ 1 + 0xBE000000))))) := hw.symm
  refine long_of rfl hw (by omega) (by omega) (fun c hc => ?_)
  have e1 : num w 25 5 = 31 := by unfold num; omega
  have g1 : bitAt w 30 = st := bitAt_eq (by omega)
  have g2 : fld w 14 11 = len := fld_eq (by omega)
  have g3 : fld w 6 8 = rep := fld_eq (by omega)
  have g4 : bitAt w 5 = rsrc := bitAt_eq (by omega)
  have g5 : fld w 2 3 = stg := fld_eq (by omega)
  have g6 : bitAt w 1 = pre := bitAt_eq (by omega)
  unfold decode32
  rw [e1]
  rw [g1, g2, g3, g4, g5, g6]
  all_goals rfl

theorem br (st : Bool) (off : BitVec 25) : Statement (.br st off) := by
  have b1 := st.toNat_lt
  have b2 := off.isLt
  obtain ⟨w, hw⟩ : ∃ w, encode (.br st off) = w := ⟨_, rfl⟩
  have hw' : w = st.toNat * 2 ^ 30 + (off.toNat * 2 ^ 0 + 0xBC000000) := hw.symm
  refine long_of rfl hw (by omega) (by omega) (fun c hc => ?_)
  have e1 : num w 25 5 = 30 := by unfold num; omega
  have g1 : bitAt w 30 = st := bitAt_eq (by omega)
  have g2 : fld w 0 25 = off := fld_eq (by omega)
  unfold decode32
  rw [e1]
  rw [g1, g2]
  all_goals rfl

theorem brb (st : Bool) (b : BitVec 4) (off : BitVec 21) : Statement (.brb st b off) := by
  have b1 := st.toNat_lt
  have b2 := b.isLt
  have b3 := off.isLt
  obtain ⟨w, hw⟩ : ∃ w, encode (.brb st b off) = w := ⟨_, rfl⟩
  have hw' : w = st.toNat * 2 ^ 30 + (b.toNat * 2 ^ 21 + (off.toNat * 2 ^ 0 + 0xB8000000)) := hw.symm
  refine long_of rfl hw (by omega) (by omega) (fun c hc => ?_)
  have e1 : num w 25 5 = 28 := by unfold num; omega
  have g1 : bitAt w 30 = st := bitAt_eq (by omega)
  have g2 : fld w 21 4 = b := fld_eq (by omega)
  have g3 : fld w 0 21 = off := fld_eq (by omega)
  unfold decode32
  rw [e1]
  rw [g1, g2, g3]
  all_goals rfl

theorem brc (st : Bool) (cond : BitVec 3) (reg : BitVec 5) (off : BitVec 17) : Statement (.brc st cond reg off) := by
  have b1 := st.toNat_lt
  have b2 := cond.isLt
  have b3 := reg.isLt
  have b4 := off.isLt
  obtain ⟨w, hw⟩ : ∃ w, encode (.brc st cond reg off) = w := ⟨_, rfl⟩
  have hw' : w = st.toNat * 2 ^ 30 + (cond.toNat * 2 ^ 22 + (reg.toNat * 2 ^ 17 + (off.toNat * 2 ^ 0 + 0xBA000000))) := hw.symm
  refine long_of rfl hw (by omega) (by omega) (fun c hc => ?_)
  have e1 : num w 25 5 = 29 := by unfold num; omega
  have g1 : bitAt w 30 = st := bitAt_eq (by omega)
  have g2 : fld w 22 3 = cond := fld_eq (by omega)
  have g3 : fld w 17 5 = reg := fld_eq (by omega)
  have g4 : fld w 0 17 = off := fld_eq (by omega)
  unfold decode32
  rw [e1]
  rw [g1, g2, g3, g4]
  all_goals rfl

theorem brk (st : Bool) (imm : BitVec 16) : Statement (.brk st imm) := by
  have b1 := st.toNat_lt
  have b2 := imm.isLt
  obtain ⟨w, hw⟩ : ∃ w, encode (.brk st imm) = w := ⟨_, rfl⟩
  have hw' : w = st.toNat * 2 ^ 30 + (imm.toNat * 2 ^ 0 + 0xB4400000) := hw.symm
  refine long_of rfl hw (by omega) (by omega) (fun c hc => ?_)
  have e1 : num w 25 5 = 26 := by unfold num; omega
  have e2 : num w 20 5 = 4 := by unfold num; omega
  have g1 : bitAt w 30 = st := bitAt_eq (by omega)
  have g2 : fld w 0 16 = imm := fld_eq (by omega)
  unfold decode32
  rw [e1]
  unfold decodeSystem
  rw [e2]
  rw [g1, g2]
  all_goals rfl

theorem bstat (st : Bool) (b : BitVec 4) (reg : BitVec 6) : Statement (.bstat st b reg) := by
  have b1 := st.toNat_lt
  have b2 := b.isLt
  have b3 := reg.isLt
  obtain ⟨w, hw⟩ : ∃ w, encode (.bstat st b reg) = w := ⟨_, rfl⟩
  have hw' : w = st.toNat * 2 ^ 30 + (b.toNat * 2 ^ 16 + (reg.toNat * 2 ^ 10 + 0xB4B00000)) := hw.symm
  refine long_of rfl hw (by omega) (by omega) (fun c hc => ?_)
  have e1 : num w 25 5 = 26 := by unfold num; omega
  have e2 : num w 20 5 = 11 := by unfold num; omega
  have g1 : bitAt w 30 = st := bitAt_eq (by omega)
  have g2 : fld w 16 4 = b := fld_eq (by omega)
  have g3 : fld w 10 6 = reg := fld_eq (by omega)
  unfold decode32
  rw [e1]
  unfold decodeSystem
  rw [e2]
  rw [g1, g2, g3]
  all_goals rfl

theorem btake (st : Bool) (b : BitVec 4) (n1 : BitVec 2) (r : Bool) (reg : BitVec 6) : Statement (.btake st b n1 r reg) := by
  have b1 := st.toNat_lt
  have b2 := b.isLt
  have b3 := n1.isLt
  have b4 := r.toNat_lt
  have b5 := reg.isLt
  obtain ⟨w, hw⟩ : ∃ w, encode (.btake st b n1 r reg) = w := ⟨_, rfl⟩
  have hw' : w = st.toNat * 2 ^ 30 + (b.toNat * 2 ^ 16 + (n1.toNat * 2 ^ 14 + (r.toNat * 2 ^ 13 + (reg.toNat * 2 ^ 7 + 0xB4900000)))) := hw.symm
  refine long_of rfl hw (by omega) (by omega) (fun c hc => ?_)
  have e1 : num w 25 5 = 26 := by unfold num; omega
  have e2 : num w 20 5 = 9 := by unfold num; omega
  have g1 : bitAt w 30 = st := bitAt_eq (by omega)
  have g2 : fld w 16 4 = b := fld_eq (by omega)
  have g3 : fld w 14 2 = n1 := fld_eq (by omega)
  have g4 : bitAt w 13 = r := bitAt_eq (by omega)
  have g5 : fld w 7 6 = reg := fld_eq (by omega)
  unfold decode32
  rw [e1]
  unfold decodeSystem
  rw [e2]
  rw [g1, g2, g3, g4, g5]
  all_goals rfl

theorem btake16 (st : Bool) (b : BitVec 4) : Statement (.btake16 st b) := by
  have b1 := st.toNat_lt
  have b2 := b.isLt
  obtain ⟨w, hw⟩ : ∃ w, encode (.btake16 st b) = w := ⟨_, rfl⟩
  have hw' : w = st.toNat * 2 ^ 14 + (b.toNat * 2 ^ 2 + 0x3C80) := hw.symm
  refine short_of rfl hw (by omega) (fun c hc => ?_)
  have e1 : num w 10 4 = 15 := by unfold num; omega
  have e2 : num w 6 4 = 2 := by unfold num; omega
  have g1 : bitAt w 14 = st := bitAt_eq (by omega)
  have g2 : fld w 2 4 = b := fld_eq (by omega)
  unfold decode16
  rw [e1]
  unfold decodeForms16
  rw [e2]
  rw [g1, g2]
  all_goals rfl

theorem cas (st : Bool) (b : BitVec 4) (base : BitVec 5) (new : BitVec 5) (exp : BitVec 5) (w' : Bool) (ord : BitVec 2) (scope : BitVec 3) : Statement (.cas st b base new exp w' ord scope) := by
  have b1 := st.toNat_lt
  have b2 := b.isLt
  have b3 := base.isLt
  have b4 := new.isLt
  have b5 := exp.isLt
  have b6 := w'.toNat_lt
  have b7 := ord.isLt
  have b8 := scope.isLt
  obtain ⟨w, hw⟩ : ∃ w, encode (.cas st b base new exp w' ord scope) = w := ⟨_, rfl⟩
  have hw' : w = st.toNat * 2 ^ 30 + (b.toNat * 2 ^ 21 + (base.toNat * 2 ^ 16 + (new.toNat * 2 ^ 11 + (exp.toNat * 2 ^ 6 + (w'.toNat * 2 ^ 5 + (ord.toNat * 2 ^ 3 + (scope.toNat * 2 ^ 0 + 0x94000000))))))) := hw.symm
  refine long_of rfl hw (by omega) (by omega) (fun c hc => ?_)
  have e1 : num w 25 5 = 10 := by unfold num; omega
  have g1 : bitAt w 30 = st := bitAt_eq (by omega)
  have g2 : fld w 21 4 = b := fld_eq (by omega)
  have g3 : fld w 16 5 = base := fld_eq (by omega)
  have g4 : fld w 11 5 = new := fld_eq (by omega)
  have g5 : fld w 6 5 = exp := fld_eq (by omega)
  have g6 : bitAt w 5 = w' := bitAt_eq (by omega)
  have g7 : fld w 3 2 = ord := fld_eq (by omega)
  have g8 : fld w 0 3 = scope := fld_eq (by omega)
  unfold decode32
  rw [e1]
  cases c
  · unfold decodeA; rw [e1]; rw [g1, g2, g3, g4, g5, g6, g7, g8]; all_goals rfl
  · exact nomatch hc
  · exact nomatch hc
  · exact nomatch hc

theorem chkerr (st : Bool) (reg : BitVec 6) : Statement (.chkerr st reg) := by
  have b1 := st.toNat_lt
  have b2 := reg.isLt
  obtain ⟨w, hw⟩ : ∃ w, encode (.chkerr st reg) = w := ⟨_, rfl⟩
  have hw' : w = st.toNat * 2 ^ 30 + (reg.toNat * 2 ^ 14 + 0xB4600000) := hw.symm
  refine long_of rfl hw (by omega) (by omega) (fun c hc => ?_)
  have e1 : num w 25 5 = 26 := by unfold num; omega
  have e2 : num w 20 5 = 6 := by unfold num; omega
  have g1 : bitAt w 30 = st := bitAt_eq (by omega)
  have g2 : fld w 14 6 = reg := fld_eq (by omega)
  unfold decode32
  rw [e1]
  unfold decodeSystem
  rw [e2]
  rw [g1, g2]
  all_goals rfl

theorem clz (st : Bool) (rd : BitVec 5) (rs1 : BitVec 5) : Statement (.clz st rd rs1) := by
  have b1 := st.toNat_lt
  have b2 := rd.isLt
  have b3 := rs1.isLt
  obtain ⟨w, hw⟩ : ∃ w, encode (.clz st rd rs1) = w := ⟨_, rfl⟩
  have hw' : w = st.toNat * 2 ^ 30 + (rd.toNat * 2 ^ 20 + (rs1.toNat * 2 ^ 15 + 0x80000240)) := hw.symm
  refine long_of rfl hw (by omega) (by omega) (fun c hc => ?_)
  have e1 : num w 25 5 = 0 := by unfold num; omega
  have e2 : num w 5 5 = 18 := by unfold num; omega
  have g1 : bitAt w 30 = st := bitAt_eq (by omega)
  have g2 : fld w 20 5 = rd := fld_eq (by omega)
  have g3 : fld w 15 5 = rs1 := fld_eq (by omega)
  unfold decode32
  rw [e1]
  cases c
  · unfold decodeA; rw [e1]; unfold decodeR; rw [e2]; rw [g1, g2, g3]; all_goals rfl
  · exact nomatch hc
  · unfold decodeM; rw [e1]; unfold decodeR; rw [e2]; rw [g1, g2, g3]; all_goals rfl
  · unfold decodeS; rw [e1]; unfold decodeR; rw [e2]; rw [g1, g2, g3]; all_goals rfl

theorem cmp (st : Bool) (rd : BitVec 5) (rs1 : BitVec 5) (rs2 : BitVec 5) (cond : BitVec 3) : Statement (.cmp st rd rs1 rs2 cond) := by
  have b1 := st.toNat_lt
  have b2 := rd.isLt
  have b3 := rs1.isLt
  have b4 := rs2.isLt
  have b5 := cond.isLt
  obtain ⟨w, hw⟩ : ∃ w, encode (.cmp st rd rs1 rs2 cond) = w := ⟨_, rfl⟩
  have hw' : w = st.toNat * 2 ^ 30 + (rd.toNat * 2 ^ 20 + (rs1.toNat * 2 ^ 15 + (rs2.toNat * 2 ^ 10 + (cond.toNat * 2 ^ 0 + 0x800001A0)))) := hw.symm
  refine long_of rfl hw (by omega) (by omega) (fun c hc => ?_)
  have e1 : num w 25 5 = 0 := by unfold num; omega
  have e2 : num w 5 5 = 13 := by unfold num; omega
  have g1 : bitAt w 30 = st := bitAt_eq (by omega)
  have g2 : fld w 20 5 = rd := fld_eq (by omega)
  have g3 : fld w 15 5 = rs1 := fld_eq (by omega)
  have g4 : fld w 10 5 = rs2 := fld_eq (by omega)
  have g5 : fld w 0 3 = cond := fld_eq (by omega)
  unfold decode32
  rw [e1]
  cases c
  · unfold decodeA; rw [e1]; unfold decodeR; rw [e2]; rw [g1, g2, g3, g4, g5]; all_goals rfl
  · exact nomatch hc
  · unfold decodeM; rw [e1]; unfold decodeR; rw [e2]; rw [g1, g2, g3, g4, g5]; all_goals rfl
  · unfold decodeS; rw [e1]; unfold decodeR; rw [e2]; rw [g1, g2, g3, g4, g5]; all_goals rfl

theorem darn (st : Bool) (ra : BitVec 5) (rb : BitVec 5) (rc : BitVec 5) : Statement (.darn st ra rb rc) := by
  have b1 := st.toNat_lt
  have b2 := ra.isLt
  have b3 := rb.isLt
  have b4 := rc.isLt
  obtain ⟨w, hw⟩ : ∃ w, encode (.darn st ra rb rc) = w := ⟨_, rfl⟩
  have hw' : w = st.toNat * 2 ^ 30 + (ra.toNat * 2 ^ 15 + (rb.toNat * 2 ^ 10 + (rc.toNat * 2 ^ 5 + 0x9E200000))) := hw.symm
  refine long_of rfl hw (by omega) (by omega) (fun c hc => ?_)
  have e1 : num w 25 5 = 15 := by unfold num; omega
  have e2 : num w 20 5 = 2 := by unfold num; omega
  have g1 : bitAt w 30 = st := bitAt_eq (by omega)
  have g2 : fld w 15 5 = ra := fld_eq (by omega)
  have g3 : fld w 10 5 = rb := fld_eq (by omega)
  have g4 : fld w 5 5 = rc := fld_eq (by omega)
  unfold decode32
  rw [e1]
  cases c
  · unfold decodeA; rw [e1]; unfold decodeState; rw [e2]; rw [g1, g2, g3, g4]; all_goals rfl
  · exact nomatch hc
  · exact nomatch hc
  · exact nomatch hc

theorem div (st : Bool) (rd : BitVec 5) (rs1 : BitVec 5) (rs2 : BitVec 5) (u : Bool) : Statement (.div st rd rs1 rs2 u) := by
  have b1 := st.toNat_lt
  have b2 := rd.isLt
  have b3 := rs1.isLt
  have b4 := rs2.isLt
  have b5 := u.toNat_lt
  obtain ⟨w, hw⟩ : ∃ w, encode (.div st rd rs1 rs2 u) = w := ⟨_, rfl⟩
  have hw' : w = st.toNat * 2 ^ 30 + (rd.toNat * 2 ^ 20 + (rs1.toNat * 2 ^ 15 + (rs2.toNat * 2 ^ 10 + (u.toNat * 2 ^ 0 + 0x80000080)))) := hw.symm
  refine long_of rfl hw (by omega) (by omega) (fun c hc => ?_)
  have e1 : num w 25 5 = 0 := by unfold num; omega
  have e2 : num w 5 5 = 4 := by unfold num; omega
  have g1 : bitAt w 30 = st := bitAt_eq (by omega)
  have g2 : fld w 20 5 = rd := fld_eq (by omega)
  have g3 : fld w 15 5 = rs1 := fld_eq (by omega)
  have g4 : fld w 10 5 = rs2 := fld_eq (by omega)
  have g5 : bitAt w 0 = u := bitAt_eq (by omega)
  unfold decode32
  rw [e1]
  cases c
  · unfold decodeA; rw [e1]; unfold decodeR; rw [e2]; rw [g1, g2, g3, g4, g5]; all_goals rfl
  · exact nomatch hc
  · unfold decodeM; rw [e1]; unfold decodeR; rw [e2]; rw [g1, g2, g3, g4, g5]; all_goals rfl
  · unfold decodeS; rw [e1]; unfold decodeR; rw [e2]; rw [g1, g2, g3, g4, g5]; all_goals rfl

theorem enq (st : Bool) (ra : BitVec 5) (rb : BitVec 5) (rc : BitVec 5) : Statement (.enq st ra rb rc) := by
  have b1 := st.toNat_lt
  have b2 := ra.isLt
  have b3 := rb.isLt
  have b4 := rc.isLt
  obtain ⟨w, hw⟩ : ∃ w, encode (.enq st ra rb rc) = w := ⟨_, rfl⟩
  have hw' : w = st.toNat * 2 ^ 30 + (ra.toNat * 2 ^ 15 + (rb.toNat * 2 ^ 10 + (rc.toNat * 2 ^ 5 + 0xA0100000))) := hw.symm
  refine long_of rfl hw (by omega) (by omega) (fun c hc => ?_)
  have e1 : num w 25 5 = 16 := by unfold num; omega
  have e2 : num w 20 5 = 1 := by unfold num; omega
  have g1 : bitAt w 30 = st := bitAt_eq (by omega)
  have g2 : fld w 15 5 = ra := fld_eq (by omega)
  have g3 : fld w 10 5 = rb := fld_eq (by omega)
  have g4 : fld w 5 5 = rc := fld_eq (by omega)
  unfold decode32
  rw [e1]
  cases c
  · unfold decodeA; rw [e1]; unfold decodeQueue; rw [e2]; rw [g1, g2, g3, g4]; all_goals rfl
  · exact nomatch hc
  · exact nomatch hc
  · exact nomatch hc

theorem fence (st : Bool) (scope : BitVec 3) : Statement (.fence st scope) := by
  have b1 := st.toNat_lt
  have b2 := scope.isLt
  obtain ⟨w, hw⟩ : ∃ w, encode (.fence st scope) = w := ⟨_, rfl⟩
  have hw' : w = st.toNat * 2 ^ 30 + (scope.toNat * 2 ^ 17 + 0x96000000) := hw.symm
  refine long_of rfl hw (by omega) (by omega) (fun c hc => ?_)
  have e1 : num w 25 5 = 11 := by unfold num; omega
  have e2 : num w 20 5 = 0 := by unfold num; omega
  have g1 : bitAt w 30 = st := bitAt_eq (by omega)
  have g2 : fld w 17 3 = scope := fld_eq (by omega)
  unfold decode32
  rw [e1]
  cases c
  · unfold decodeA; rw [e1]; unfold decodeOrder; rw [e2]; rw [g1, g2]; all_goals rfl
  · exact nomatch hc
  · exact nomatch hc
  · unfold decodeS; rw [e1]; unfold decodeOrder; rw [e2]; rw [g1, g2]; all_goals rfl

theorem flset (st : Bool) (f : BitVec 3) (v : Bool) : Statement (.flset st f v) := by
  have b1 := st.toNat_lt
  have b2 := f.isLt
  have b3 := v.toNat_lt
  obtain ⟨w, hw⟩ : ∃ w, encode (.flset st f v) = w := ⟨_, rfl⟩
  have hw' : w = st.toNat * 2 ^ 30 + (f.toNat * 2 ^ 17 + (v.toNat * 2 ^ 16 + 0xB4700000)) := hw.symm
  refine long_of rfl hw (by omega) (by omega) (fun c hc => ?_)
  have e1 : num w 25 5 = 26 := by unfold num; omega
  have e2 : num w 20 5 = 7 := by unfold num; omega
  have g1 : bitAt w 30 = st := bitAt_eq (by omega)
  have g2 : fld w 17 3 = f := fld_eq (by omega)
  have g3 : bitAt w 16 = v := bitAt_eq (by omega)
  unfold decode32
  rw [e1]
  unfold decodeSystem
  rw [e2]
  rw [g1, g2, g3]
  all_goals rfl

theorem flsetSet16 (st : Bool) (f : BitVec 3) : Statement (.flsetSet16 st f) := by
  have b1 := st.toNat_lt
  have b2 := f.isLt
  obtain ⟨w, hw⟩ : ∃ w, encode (.flsetSet16 st f) = w := ⟨_, rfl⟩
  have hw' : w = st.toNat * 2 ^ 14 + (f.toNat * 2 ^ 3 + 0x3D00) := hw.symm
  refine short_of rfl hw (by omega) (fun c hc => ?_)
  have e1 : num w 10 4 = 15 := by unfold num; omega
  have e2 : num w 6 4 = 4 := by unfold num; omega
  have g1 : bitAt w 14 = st := bitAt_eq (by omega)
  have g2 : fld w 3 3 = f := fld_eq (by omega)
  unfold decode16
  rw [e1]
  unfold decodeForms16
  rw [e2]
  rw [g1, g2]
  all_goals rfl

theorem flsetClear16 (st : Bool) (f : BitVec 3) : Statement (.flsetClear16 st f) := by
  have b1 := st.toNat_lt
  have b2 := f.isLt
  obtain ⟨w, hw⟩ : ∃ w, encode (.flsetClear16 st f) = w := ⟨_, rfl⟩
  have hw' : w = st.toNat * 2 ^ 14 + (f.toNat * 2 ^ 3 + 0x3D40) := hw.symm
  refine short_of rfl hw (by omega) (fun c hc => ?_)
  have e1 : num w 10 4 = 15 := by unfold num; omega
  have e2 : num w 6 4 = 5 := by unfold num; omega
  have g1 : bitAt w 14 = st := bitAt_eq (by omega)
  have g2 : fld w 3 3 = f := fld_eq (by omega)
  unfold decode16
  rw [e1]
  unfold decodeForms16
  rw [e2]
  rw [g1, g2]
  all_goals rfl

theorem flwait (st : Bool) (f : BitVec 3) (clr : Bool) : Statement (.flwait st f clr) := by
  have b1 := st.toNat_lt
  have b2 := f.isLt
  have b3 := clr.toNat_lt
  obtain ⟨w, hw⟩ : ∃ w, encode (.flwait st f clr) = w := ⟨_, rfl⟩
  have hw' : w = st.toNat * 2 ^ 30 + (f.toNat * 2 ^ 17 + (clr.toNat * 2 ^ 16 + 0xB4800000)) := hw.symm
  refine long_of rfl hw (by omega) (by omega) (fun c hc => ?_)
  have e1 : num w 25 5 = 26 := by unfold num; omega
  have e2 : num w 20 5 = 8 := by unfold num; omega
  have g1 : bitAt w 30 = st := bitAt_eq (by omega)
  have g2 : fld w 17 3 = f := fld_eq (by omega)
  have g3 : bitAt w 16 = clr := bitAt_eq (by omega)
  unfold decode32
  rw [e1]
  unfold decodeSystem
  rw [e2]
  rw [g1, g2, g3]
  all_goals rfl

theorem flwait16 (st : Bool) (f : BitVec 3) : Statement (.flwait16 st f) := by
  have b1 := st.toNat_lt
  have b2 := f.isLt
  obtain ⟨w, hw⟩ : ∃ w, encode (.flwait16 st f) = w := ⟨_, rfl⟩
  have hw' : w = st.toNat * 2 ^ 14 + (f.toNat * 2 ^ 3 + 0x3D80) := hw.symm
  refine short_of rfl hw (by omega) (fun c hc => ?_)
  have e1 : num w 10 4 = 15 := by unfold num; omega
  have e2 : num w 6 4 = 6 := by unfold num; omega
  have g1 : bitAt w 14 = st := bitAt_eq (by omega)
  have g2 : fld w 3 3 = f := fld_eq (by omega)
  unfold decode16
  rw [e1]
  unfold decodeForms16
  rw [e2]
  rw [g1, g2]
  all_goals rfl

theorem flwaitClr16 (st : Bool) (f : BitVec 3) : Statement (.flwaitClr16 st f) := by
  have b1 := st.toNat_lt
  have b2 := f.isLt
  obtain ⟨w, hw⟩ : ∃ w, encode (.flwaitClr16 st f) = w := ⟨_, rfl⟩
  have hw' : w = st.toNat * 2 ^ 14 + (f.toNat * 2 ^ 3 + 0x3DC0) := hw.symm
  refine short_of rfl hw (by omega) (fun c hc => ?_)
  have e1 : num w 10 4 = 15 := by unfold num; omega
  have e2 : num w 6 4 = 7 := by unfold num; omega
  have g1 : bitAt w 14 = st := bitAt_eq (by omega)
  have g2 : fld w 3 3 = f := fld_eq (by omega)
  unfold decode16
  rw [e1]
  unfold decodeForms16
  rw [e2]
  rw [g1, g2]
  all_goals rfl

theorem fwq (st : Bool) (ma : BitVec 5) : Statement (.fwq st ma) := by
  have b1 := st.toNat_lt
  have b2 := ma.isLt
  obtain ⟨w, hw⟩ : ∃ w, encode (.fwq st ma) = w := ⟨_, rfl⟩
  have hw' : w = st.toNat * 2 ^ 30 + (ma.toNat * 2 ^ 15 + 0x88400000) := hw.symm
  refine long_of rfl hw (by omega) (by omega) (fun c hc => ?_)
  have e1 : num w 25 5 = 4 := by unfold num; omega
  have e2 : num w 20 5 = 4 := by unfold num; omega
  have g1 : bitAt w 30 = st := bitAt_eq (by omega)
  have g2 : fld w 15 5 = ma := fld_eq (by omega)
  unfold decode32
  rw [e1]
  cases c
  · exact nomatch hc
  · exact nomatch hc
  · unfold decodeM; rw [e1]; unfold decodeArray; rw [e2]; rw [g1, g2]; all_goals rfl
  · exact nomatch hc

theorem getsr (st : Bool) (reg : BitVec 6) (num' : BitVec 8) : Statement (.getsr st reg num') := by
  have b1 := st.toNat_lt
  have b2 := reg.isLt
  have b3 := num'.isLt
  obtain ⟨w, hw⟩ : ∃ w, encode (.getsr st reg num') = w := ⟨_, rfl⟩
  have hw' : w = st.toNat * 2 ^ 30 + (reg.toNat * 2 ^ 18 + (num'.toNat * 2 ^ 10 + 0xB2000000)) := hw.symm
  refine long_of rfl hw (by omega) (by omega) (fun c hc => ?_)
  have e1 : num w 25 5 = 25 := by unfold num; omega
  have e2 : bitAt w 24 = false := bitAt_false (by omega)
  have g1 : bitAt w 30 = st := bitAt_eq (by omega)
  have g2 : fld w 18 6 = reg := fld_eq (by omega)
  have g3 : fld w 10 8 = num' := fld_eq (by omega)
  unfold decode32
  rw [e1]
  rw [e2]
  rw [g1, g2, g3]
  all_goals rfl

theorem halt (st : Bool) : Statement (.halt st) := by
  have b1 := st.toNat_lt
  obtain ⟨w, hw⟩ : ∃ w, encode (.halt st) = w := ⟨_, rfl⟩
  have hw' : w = st.toNat * 2 ^ 30 + 0xB4100000 := hw.symm
  refine long_of rfl hw (by omega) (by omega) (fun c hc => ?_)
  have e1 : num w 25 5 = 26 := by unfold num; omega
  have e2 : num w 20 5 = 1 := by unfold num; omega
  have g1 : bitAt w 30 = st := bitAt_eq (by omega)
  unfold decode32
  rw [e1]
  unfold decodeSystem
  rw [e2]
  rw [g1]
  all_goals rfl

theorem halt16 (st : Bool) : Statement (.halt16 st) := by
  have b1 := st.toNat_lt
  obtain ⟨w, hw⟩ : ∃ w, encode (.halt16 st) = w := ⟨_, rfl⟩
  have hw' : w = st.toNat * 2 ^ 14 + 0x3C40 := hw.symm
  refine short_of rfl hw (by omega) (fun c hc => ?_)
  have e1 : num w 10 4 = 15 := by unfold num; omega
  have e2 : num w 6 4 = 1 := by unfold num; omega
  have g1 : bitAt w 14 = st := bitAt_eq (by omega)
  unfold decode16
  rw [e1]
  unfold decodeForms16
  rw [e2]
  rw [g1]
  all_goals rfl

theorem harrive (st : Bool) (h : BitVec 3) (leave : Bool) : Statement (.harrive st h leave) := by
  have b1 := st.toNat_lt
  have b2 := h.isLt
  have b3 := leave.toNat_lt
  obtain ⟨w, hw⟩ : ∃ w, encode (.harrive st h leave) = w := ⟨_, rfl⟩
  have hw' : w = st.toNat * 2 ^ 30 + (h.toNat * 2 ^ 17 + (leave.toNat * 2 ^ 16 + 0xB4C00000)) := hw.symm
  refine long_of rfl hw (by omega) (by omega) (fun c hc => ?_)
  have e1 : num w 25 5 = 26 := by unfold num; omega
  have e2 : num w 20 5 = 12 := by unfold num; omega
  have g1 : bitAt w 30 = st := bitAt_eq (by omega)
  have g2 : fld w 17 3 = h := fld_eq (by omega)
  have g3 : bitAt w 16 = leave := bitAt_eq (by omega)
  unfold decode32
  rw [e1]
  unfold decodeSystem
  rw [e2]
  rw [g1, g2, g3]
  all_goals rfl

theorem hwait (st : Bool) (h : BitVec 3) : Statement (.hwait st h) := by
  have b1 := st.toNat_lt
  have b2 := h.isLt
  obtain ⟨w, hw⟩ : ∃ w, encode (.hwait st h) = w := ⟨_, rfl⟩
  have hw' : w = st.toNat * 2 ^ 30 + (h.toNat * 2 ^ 17 + 0xB4D00000) := hw.symm
  refine long_of rfl hw (by omega) (by omega) (fun c hc => ?_)
  have e1 : num w 25 5 = 26 := by unfold num; omega
  have e2 : num w 20 5 = 13 := by unfold num; omega
  have g1 : bitAt w 30 = st := bitAt_eq (by omega)
  have g2 : fld w 17 3 = h := fld_eq (by omega)
  unfold decode32
  rw [e1]
  unfold decodeSystem
  rw [e2]
  rw [g1, g2]
  all_goals rfl

theorem knot (st : Bool) : Statement (.knot st) := by
  have b1 := st.toNat_lt
  obtain ⟨w, hw⟩ : ∃ w, encode (.knot st) = w := ⟨_, rfl⟩
  have hw' : w = st.toNat * 2 ^ 30 + 0x96100000 := hw.symm
  refine long_of rfl hw (by omega) (by omega) (fun c hc => ?_)
  have e1 : num w 25 5 = 11 := by unfold num; omega
  have e2 : num w 20 5 = 1 := by unfold num; omega
  have g1 : bitAt w 30 = st := bitAt_eq (by omega)
  unfold decode32
  rw [e1]
  cases c
  · unfold decodeA; rw [e1]; unfold decodeOrder; rw [e2]; rw [g1]; all_goals rfl
  · exact nomatch hc
  · exact nomatch hc
  · unfold decodeS; rw [e1]; unfold decodeOrder; rw [e2]; rw [g1]; all_goals rfl

theorem ld (st : Bool) (rd : BitVec 5) (base : BitVec 5) (sz : BitVec 3) (cls : BitVec 2) (off : BitVec 8) : Statement (.ld st rd base sz cls off) := by
  have b1 := st.toNat_lt
  have b2 := rd.isLt
  have b3 := base.isLt
  have b4 := sz.isLt
  have b5 := cls.isLt
  have b6 := off.isLt
  obtain ⟨w, hw⟩ : ∃ w, encode (.ld st rd base sz cls off) = w := ⟨_, rfl⟩
  have hw' : w = st.toNat * 2 ^ 30 + (rd.toNat * 2 ^ 20 + (base.toNat * 2 ^ 15 + (sz.toNat * 2 ^ 11 + (cls.toNat * 2 ^ 9 + (off.toNat * 2 ^ 0 + 0x88004000))))) := hw.symm
  refine long_of rfl hw (by omega) (by omega) (fun c hc => ?_)
  have e1 : num w 25 5 = 4 := by unfold num; omega
  have g1 : bitAt w 30 = st := bitAt_eq (by omega)
  have g2 : fld w 20 5 = rd := fld_eq (by omega)
  have g3 : fld w 15 5 = base := fld_eq (by omega)
  have g4 : fld w 11 3 = sz := fld_eq (by omega)
  have g5 : fld w 9 2 = cls := fld_eq (by omega)
  have g6 : fld w 0 8 = off := fld_eq (by omega)
  unfold decode32
  rw [e1]
  cases c
  · unfold decodeA; rw [e1]; rw [g1, g2, g3, g4, g5, g6]; all_goals rfl
  · exact nomatch hc
  · exact nomatch hc
  · exact nomatch hc

theorem ldb (st : Bool) (b : BitVec 4) (base : BitVec 5) (sp : Bool) (sz : BitVec 3) (cls : BitVec 2) (off : BitVec 8) : Statement (.ldb st b base sp sz cls off) := by
  have b1 := st.toNat_lt
  have b2 := b.isLt
  have b3 := base.isLt
  have b4 := sp.toNat_lt
  have b5 := sz.isLt
  have b6 := cls.isLt
  have b7 := off.isLt
  obtain ⟨w, hw⟩ : ∃ w, encode (.ldb st b base sp sz cls off) = w := ⟨_, rfl⟩
  have hw' : w = st.toNat * 2 ^ 30 + (b.toNat * 2 ^ 21 + (base.toNat * 2 ^ 15 + (sp.toNat * 2 ^ 14 + (sz.toNat * 2 ^ 11 + (cls.toNat * 2 ^ 9 + (off.toNat * 2 ^ 0 + 0x8C000000)))))) := hw.symm
  refine long_of rfl hw (by omega) (by omega) (fun c hc => ?_)
  have e1 : num w 25 5 = 6 := by unfold num; omega
  have e2 : bitAt w 8 = false := bitAt_false (by omega)
  have g1 : bitAt w 30 = st := bitAt_eq (by omega)
  have g2 : fld w 21 4 = b := fld_eq (by omega)
  have g3 : fld w 15 5 = base := fld_eq (by omega)
  have g4 : bitAt w 14 = sp := bitAt_eq (by omega)
  have g5 : fld w 11 3 = sz := fld_eq (by omega)
  have g6 : fld w 9 2 = cls := fld_eq (by omega)
  have g7 : fld w 0 8 = off := fld_eq (by omega)
  unfold decode32
  rw [e1]
  cases c
  · unfold decodeA; rw [e1]; rw [e2]; rw [g1, g2, g3, g4, g5, g6, g7]; all_goals rfl
  · exact nomatch hc
  · exact nomatch hc
  · exact nomatch hc

theorem ldbOrdered (st : Bool) (b : BitVec 4) (base : BitVec 5) (sz : BitVec 3) (cls : BitVec 2) (ord : BitVec 2) (scope : BitVec 3) : Statement (.ldbOrdered st b base sz cls ord scope) := by
  have b1 := st.toNat_lt
  have b2 := b.isLt
  have b3 := base.isLt
  have b4 := sz.isLt
  have b5 := cls.isLt
  have b6 := ord.isLt
  have b7 := scope.isLt
  obtain ⟨w, hw⟩ : ∃ w, encode (.ldbOrdered st b base sz cls ord scope) = w := ⟨_, rfl⟩
  have hw' : w = st.toNat * 2 ^ 30 + (b.toNat * 2 ^ 21 + (base.toNat * 2 ^ 15 + (sz.toNat * 2 ^ 11 + (cls.toNat * 2 ^ 9 + (ord.toNat * 2 ^ 6 + (scope.toNat * 2 ^ 3 + 0x8C000100)))))) := hw.symm
  refine long_of rfl hw (by omega) (by omega) (fun c hc => ?_)
  have e1 : num w 25 5 = 6 := by unfold num; omega
  have e2 : bitAt w 8 = true := bitAt_true (by omega)
  have g1 : bitAt w 30 = st := bitAt_eq (by omega)
  have g2 : fld w 21 4 = b := fld_eq (by omega)
  have g3 : fld w 15 5 = base := fld_eq (by omega)
  have g4 : fld w 11 3 = sz := fld_eq (by omega)
  have g5 : fld w 9 2 = cls := fld_eq (by omega)
  have g6 : fld w 6 2 = ord := fld_eq (by omega)
  have g7 : fld w 3 3 = scope := fld_eq (by omega)
  unfold decode32
  rw [e1]
  cases c
  · unfold decodeA; rw [e1]; rw [e2]; rw [g1, g2, g3, g4, g5, g6, g7]; all_goals rfl
  · exact nomatch hc
  · exact nomatch hc
  · exact nomatch hc

theorem ldg (st : Bool) (bd : BitVec 4) (bi : BitVec 4) (base : BitVec 5) (cls : BitVec 2) (esz : BitVec 2) (sh : BitVec 3) (sp : Bool) : Statement (.ldg st bd bi base cls esz sh sp) := by
  have b1 := st.toNat_lt
  have b2 := bd.isLt
  have b3 := bi.isLt
  have b4 := base.isLt
  have b5 := cls.isLt
  have b6 := esz.isLt
  have b7 := sh.isLt
  have b8 := sp.toNat_lt
  obtain ⟨w, hw⟩ : ∃ w, encode (.ldg st bd bi base cls esz sh sp) = w := ⟨_, rfl⟩
  have hw' : w = st.toNat * 2 ^ 30 + (bd.toNat * 2 ^ 21 + (bi.toNat * 2 ^ 17 + (base.toNat * 2 ^ 12 + (cls.toNat * 2 ^ 10 + (esz.toNat * 2 ^ 8 + (sh.toNat * 2 ^ 5 + (sp.toNat * 2 ^ 4 + 0x8E000000))))))) := hw.symm
  refine long_of rfl hw (by omega) (by omega) (fun c hc => ?_)
  have e1 : num w 25 5 = 7 := by unfold num; omega
  have g1 : bitAt w 30 = st := bitAt_eq (by omega)
  have g2 : fld w 21 4 = bd := fld_eq (by omega)
  have g3 : fld w 17 4 = bi := fld_eq (by omega)
  have g4 : fld w 12 5 = base := fld_eq (by omega)
  have g5 : fld w 10 2 = cls := fld_eq (by omega)
  have g6 : fld w 8 2 = esz := fld_eq (by omega)
  have g7 : fld w 5 3 = sh := fld_eq (by omega)
  have g8 : bitAt w 4 = sp := bitAt_eq (by omega)
  unfold decode32
  rw [e1]
  cases c
  · unfold decodeA; rw [e1]; rw [g1, g2, g3, g4, g5, g6, g7, g8]; all_goals rfl
  · exact nomatch hc
  · exact nomatch hc
  · exact nomatch hc

theorem ldlit (st : Bool) (rd : BitVec 5) (off : BitVec 20) : Statement (.ldlit st rd off) := by
  have b1 := st.toNat_lt
  have b2 := rd.isLt
  have b3 := off.isLt
  obtain ⟨w, hw⟩ : ∃ w, encode (.ldlit st rd off) = w := ⟨_, rfl⟩
  have hw' : w = st.toNat * 2 ^ 30 + (rd.toNat * 2 ^ 20 + (off.toNat * 2 ^ 0 + 0x90000000)) := hw.symm
  refine long_of rfl hw (by omega) (by omega) (fun c hc => ?_)
  have e1 : num w 25 5 = 8 := by unfold num; omega
  have g1 : bitAt w 30 = st := bitAt_eq (by omega)
  have g2 : fld w 20 5 = rd := fld_eq (by omega)
  have g3 : fld w 0 20 = off := fld_eq (by omega)
  unfold decode32
  rw [e1]
  cases c
  · unfold decodeA; rw [e1]; rw [g1, g2, g3]; all_goals rfl
  · exact nomatch hc
  · exact nomatch hc
  · exact nomatch hc

theorem lease (st : Bool) (ma : BitVec 5) (f : BitVec 3) : Statement (.lease st ma f) := by
  have b1 := st.toNat_lt
  have b2 := ma.isLt
  have b3 := f.isLt
  obtain ⟨w, hw⟩ : ∃ w, encode (.lease st ma f) = w := ⟨_, rfl⟩
  have hw' : w = st.toNat * 2 ^ 30 + (ma.toNat * 2 ^ 15 + (f.toNat * 2 ^ 0 + 0x88000000)) := hw.symm
  refine long_of rfl hw (by omega) (by omega) (fun c hc => ?_)
  have e1 : num w 25 5 = 4 := by unfold num; omega
  have e2 : num w 20 5 = 0 := by unfold num; omega
  have g1 : bitAt w 30 = st := bitAt_eq (by omega)
  have g2 : fld w 15 5 = ma := fld_eq (by omega)
  have g3 : fld w 0 3 = f := fld_eq (by omega)
  unfold decode32
  rw [e1]
  cases c
  · exact nomatch hc
  · exact nomatch hc
  · unfold decodeM; rw [e1]; unfold decodeArray; rw [e2]; rw [g1, g2, g3]; all_goals rfl
  · exact nomatch hc

theorem lfree (st : Bool) : Statement (.lfree st) := by
  have b1 := st.toNat_lt
  obtain ⟨w, hw⟩ : ∃ w, encode (.lfree st) = w := ⟨_, rfl⟩
  have hw' : w = st.toNat * 2 ^ 30 + 0x88100000 := hw.symm
  refine long_of rfl hw (by omega) (by omega) (fun c hc => ?_)
  have e1 : num w 25 5 = 4 := by unfold num; omega
  have e2 : num w 20 5 = 1 := by unfold num; omega
  have g1 : bitAt w 30 = st := bitAt_eq (by omega)
  unfold decode32
  rw [e1]
  cases c
  · exact nomatch hc
  · exact nomatch hc
  · unfold decodeM; rw [e1]; unfold decodeArray; rw [e2]; rw [g1]; all_goals rfl
  · exact nomatch hc

theorem lhint (st : Bool) (ra : BitVec 5) (rb : BitVec 5) (rc : BitVec 5) : Statement (.lhint st ra rb rc) := by
  have b1 := st.toNat_lt
  have b2 := ra.isLt
  have b3 := rb.isLt
  have b4 := rc.isLt
  obtain ⟨w, hw⟩ : ∃ w, encode (.lhint st ra rb rc) = w := ⟨_, rfl⟩
  have hw' : w = st.toNat * 2 ^ 30 + (ra.toNat * 2 ^ 15 + (rb.toNat * 2 ^ 10 + (rc.toNat * 2 ^ 5 + 0x9E300000))) := hw.symm
  refine long_of rfl hw (by omega) (by omega) (fun c hc => ?_)
  have e1 : num w 25 5 = 15 := by unfold num; omega
  have e2 : num w 20 5 = 3 := by unfold num; omega
  have g1 : bitAt w 30 = st := bitAt_eq (by omega)
  have g2 : fld w 15 5 = ra := fld_eq (by omega)
  have g3 : fld w 10 5 = rb := fld_eq (by omega)
  have g4 : fld w 5 5 = rc := fld_eq (by omega)
  unfold decode32
  rw [e1]
  cases c
  · unfold decodeA; rw [e1]; unfold decodeState; rw [e2]; rw [g1, g2, g3, g4]; all_goals rfl
  · exact nomatch hc
  · exact nomatch hc
  · exact nomatch hc

theorem li (st : Bool) (rd : BitVec 5) (imm : BitVec 20) : Statement (.li st rd imm) := by
  have b1 := st.toNat_lt
  have b2 := rd.isLt
  have b3 := imm.isLt
  obtain ⟨w, hw⟩ : ∃ w, encode (.li st rd imm) = w := ⟨_, rfl⟩
  have hw' : w = st.toNat * 2 ^ 30 + (rd.toNat * 2 ^ 20 + (imm.toNat * 2 ^ 0 + 0x84000000)) := hw.symm
  refine long_of rfl hw (by omega) (by omega) (fun c hc => ?_)
  have e1 : num w 25 5 = 2 := by unfold num; omega
  have g1 : bitAt w 30 = st := bitAt_eq (by omega)
  have g2 : fld w 20 5 = rd := fld_eq (by omega)
  have g3 : fld w 0 20 = imm := fld_eq (by omega)
  unfold decode32
  rw [e1]
  cases c
  · unfold decodeA; rw [e1]; rw [g1, g2, g3]; all_goals rfl
  · exact nomatch hc
  · unfold decodeM; rw [e1]; rw [g1, g2, g3]; all_goals rfl
  · unfold decodeS; rw [e1]; rw [g1, g2, g3]; all_goals rfl

theorem li16 (st : Bool) (rd : BitVec 5) (imm : BitVec 5) : Statement (.li16 st rd imm) := by
  have b1 := st.toNat_lt
  have b2 := rd.isLt
  have b3 := imm.isLt
  obtain ⟨w, hw⟩ : ∃ w, encode (.li16 st rd imm) = w := ⟨_, rfl⟩
  have hw' : w = st.toNat * 2 ^ 14 + (rd.toNat * 2 ^ 5 + (imm.toNat * 2 ^ 0 + 0x1400)) := hw.symm
  refine short_of rfl hw (by omega) (fun c hc => ?_)
  have e1 : num w 10 4 = 5 := by unfold num; omega
  have g1 : bitAt w 14 = st := bitAt_eq (by omega)
  have g2 : fld w 5 5 = rd := fld_eq (by omega)
  have g3 : fld w 0 5 = imm := fld_eq (by omega)
  cases c
  · unfold decode16; rw [e1]; rw [g1, g2, g3]; all_goals rfl
  · exact nomatch hc
  · unfold decode16; rw [e1]; rw [g1, g2, g3]; all_goals rfl
  · unfold decode16; rw [e1]; rw [g1, g2, g3]; all_goals rfl

theorem lih (st : Bool) (rd : BitVec 5) (h : BitVec 2) (imm : BitVec 16) : Statement (.lih st rd h imm) := by
  have b1 := st.toNat_lt
  have b2 := rd.isLt
  have b3 := h.isLt
  have b4 := imm.isLt
  obtain ⟨w, hw⟩ : ∃ w, encode (.lih st rd h imm) = w := ⟨_, rfl⟩
  have hw' : w = st.toNat * 2 ^ 30 + (rd.toNat * 2 ^ 20 + (h.toNat * 2 ^ 18 + (imm.toNat * 2 ^ 0 + 0x86000000))) := hw.symm
  refine long_of rfl hw (by omega) (by omega) (fun c hc => ?_)
  have e1 : num w 25 5 = 3 := by unfold num; omega
  have g1 : bitAt w 30 = st := bitAt_eq (by omega)
  have g2 : fld w 20 5 = rd := fld_eq (by omega)
  have g3 : fld w 18 2 = h := fld_eq (by omega)
  have g4 : fld w 0 16 = imm := fld_eq (by omega)
  unfold decode32
  rw [e1]
  cases c
  · unfold decodeA; rw [e1]; rw [g1, g2, g3, g4]; all_goals rfl
  · exact nomatch hc
  · unfold decodeM; rw [e1]; rw [g1, g2, g3, g4]; all_goals rfl
  · unfold decodeS; rw [e1]; rw [g1, g2, g3, g4]; all_goals rfl

theorem lsflag (st : Bool) (ma : BitVec 5) (clr : Bool) (sum : Bool) (n : BitVec 4) : Statement (.lsflag st ma clr sum n) := by
  have b1 := st.toNat_lt
  have b2 := ma.isLt
  have b3 := clr.toNat_lt
  have b4 := sum.toNat_lt
  have b5 := n.isLt
  obtain ⟨w, hw⟩ : ∃ w, encode (.lsflag st ma clr sum n) = w := ⟨_, rfl⟩
  have hw' : w = st.toNat * 2 ^ 30 + (ma.toNat * 2 ^ 15 + (clr.toNat * 2 ^ 6 + (sum.toNat * 2 ^ 5 + (n.toNat * 2 ^ 0 + 0x88800000)))) := hw.symm
  refine long_of rfl hw (by omega) (by omega) (fun c hc => ?_)
  have e1 : num w 25 5 = 4 := by unfold num; omega
  have e2 : num w 20 5 = 8 := by unfold num; omega
  have g1 : bitAt w 30 = st := bitAt_eq (by omega)
  have g2 : fld w 15 5 = ma := fld_eq (by omega)
  have g3 : bitAt w 6 = clr := bitAt_eq (by omega)
  have g4 : bitAt w 5 = sum := bitAt_eq (by omega)
  have g5 : fld w 0 4 = n := fld_eq (by omega)
  unfold decode32
  rw [e1]
  cases c
  · exact nomatch hc
  · exact nomatch hc
  · unfold decodeM; rw [e1]; unfold decodeArray; rw [e2]; rw [g1, g2, g3, g4, g5]; all_goals rfl
  · exact nomatch hc

theorem max (st : Bool) (rd : BitVec 5) (rs1 : BitVec 5) (rs2 : BitVec 5) (u : Bool) : Statement (.max st rd rs1 rs2 u) := by
  have b1 := st.toNat_lt
  have b2 := rd.isLt
  have b3 := rs1.isLt
  have b4 := rs2.isLt
  have b5 := u.toNat_lt
  obtain ⟨w, hw⟩ : ∃ w, encode (.max st rd rs1 rs2 u) = w := ⟨_, rfl⟩
  have hw' : w = st.toNat * 2 ^ 30 + (rd.toNat * 2 ^ 20 + (rs1.toNat * 2 ^ 15 + (rs2.toNat * 2 ^ 10 + (u.toNat * 2 ^ 0 + 0x800001E0)))) := hw.symm
  refine long_of rfl hw (by omega) (by omega) (fun c hc => ?_)
  have e1 : num w 25 5 = 0 := by unfold num; omega
  have e2 : num w 5 5 = 15 := by unfold num; omega
  have g1 : bitAt w 30 = st := bitAt_eq (by omega)
  have g2 : fld w 20 5 = rd := fld_eq (by omega)
  have g3 : fld w 15 5 = rs1 := fld_eq (by omega)
  have g4 : fld w 10 5 = rs2 := fld_eq (by omega)
  have g5 : bitAt w 0 = u := bitAt_eq (by omega)
  unfold decode32
  rw [e1]
  cases c
  · unfold decodeA; rw [e1]; unfold decodeR; rw [e2]; rw [g1, g2, g3, g4, g5]; all_goals rfl
  · exact nomatch hc
  · unfold decodeM; rw [e1]; unfold decodeR; rw [e2]; rw [g1, g2, g3, g4, g5]; all_goals rfl
  · unfold decodeS; rw [e1]; unfold decodeR; rw [e2]; rw [g1, g2, g3, g4, g5]; all_goals rfl

theorem min (st : Bool) (rd : BitVec 5) (rs1 : BitVec 5) (rs2 : BitVec 5) (u : Bool) : Statement (.min st rd rs1 rs2 u) := by
  have b1 := st.toNat_lt
  have b2 := rd.isLt
  have b3 := rs1.isLt
  have b4 := rs2.isLt
  have b5 := u.toNat_lt
  obtain ⟨w, hw⟩ : ∃ w, encode (.min st rd rs1 rs2 u) = w := ⟨_, rfl⟩
  have hw' : w = st.toNat * 2 ^ 30 + (rd.toNat * 2 ^ 20 + (rs1.toNat * 2 ^ 15 + (rs2.toNat * 2 ^ 10 + (u.toNat * 2 ^ 0 + 0x800001C0)))) := hw.symm
  refine long_of rfl hw (by omega) (by omega) (fun c hc => ?_)
  have e1 : num w 25 5 = 0 := by unfold num; omega
  have e2 : num w 5 5 = 14 := by unfold num; omega
  have g1 : bitAt w 30 = st := bitAt_eq (by omega)
  have g2 : fld w 20 5 = rd := fld_eq (by omega)
  have g3 : fld w 15 5 = rs1 := fld_eq (by omega)
  have g4 : fld w 10 5 = rs2 := fld_eq (by omega)
  have g5 : bitAt w 0 = u := bitAt_eq (by omega)
  unfold decode32
  rw [e1]
  cases c
  · unfold decodeA; rw [e1]; unfold decodeR; rw [e2]; rw [g1, g2, g3, g4, g5]; all_goals rfl
  · exact nomatch hc
  · unfold decodeM; rw [e1]; unfold decodeR; rw [e2]; rw [g1, g2, g3, g4, g5]; all_goals rfl
  · unfold decodeS; rw [e1]; unfold decodeR; rw [e2]; rw [g1, g2, g3, g4, g5]; all_goals rfl

theorem mma (st : Bool) (n : BitVec 4) (xa : BitVec 6) (xb : BitVec 6) (z : Bool) : Statement (.mma st n xa xb z) := by
  have b1 := st.toNat_lt
  have b2 := n.isLt
  have b3 := xa.isLt
  have b4 := xb.isLt
  have b5 := z.toNat_lt
  obtain ⟨w, hw⟩ : ∃ w, encode (.mma st n xa xb z) = w := ⟨_, rfl⟩
  have hw' : w = st.toNat * 2 ^ 30 + (n.toNat * 2 ^ 21 + (xa.toNat * 2 ^ 15 + (xb.toNat * 2 ^ 9 + (z.toNat * 2 ^ 8 + 0x8A000000)))) := hw.symm
  refine long_of rfl hw (by omega) (by omega) (fun c hc => ?_)
  have e1 : num w 25 5 = 5 := by unfold num; omega
  have g1 : bitAt w 30 = st := bitAt_eq (by omega)
  have g2 : fld w 21 4 = n := fld_eq (by omega)
  have g3 : fld w 15 6 = xa := fld_eq (by omega)
  have g4 : fld w 9 6 = xb := fld_eq (by omega)
  have g5 : bitAt w 8 = z := bitAt_eq (by omega)
  unfold decode32
  rw [e1]
  cases c
  · exact nomatch hc
  · exact nomatch hc
  · unfold decodeM; rw [e1]; rw [g1, g2, g3, g4, g5]; all_goals rfl
  · exact nomatch hc

theorem mov (st : Bool) (rd : BitVec 5) (rs1 : BitVec 5) : Statement (.mov st rd rs1) := by
  have b1 := st.toNat_lt
  have b2 := rd.isLt
  have b3 := rs1.isLt
  obtain ⟨w, hw⟩ : ∃ w, encode (.mov st rd rs1) = w := ⟨_, rfl⟩
  have hw' : w = st.toNat * 2 ^ 30 + (rd.toNat * 2 ^ 20 + (rs1.toNat * 2 ^ 15 + 0x80000200)) := hw.symm
  refine long_of rfl hw (by omega) (by omega) (fun c hc => ?_)
  have e1 : num w 25 5 = 0 := by unfold num; omega
  have e2 : num w 5 5 = 16 := by unfold num; omega
  have g1 : bitAt w 30 = st := bitAt_eq (by omega)
  have g2 : fld w 20 5 = rd := fld_eq (by omega)
  have g3 : fld w 15 5 = rs1 := fld_eq (by omega)
  unfold decode32
  rw [e1]
  cases c
  · unfold decodeA; rw [e1]; unfold decodeR; rw [e2]; rw [g1, g2, g3]; all_goals rfl
  · exact nomatch hc
  · unfold decodeM; rw [e1]; unfold decodeR; rw [e2]; rw [g1, g2, g3]; all_goals rfl
  · unfold decodeS; rw [e1]; unfold decodeR; rw [e2]; rw [g1, g2, g3]; all_goals rfl

theorem mov16 (st : Bool) (rd : BitVec 5) (rs : BitVec 5) : Statement (.mov16 st rd rs) := by
  have b1 := st.toNat_lt
  have b2 := rd.isLt
  have b3 := rs.isLt
  obtain ⟨w, hw⟩ : ∃ w, encode (.mov16 st rd rs) = w := ⟨_, rfl⟩
  have hw' : w = st.toNat * 2 ^ 14 + (rd.toNat * 2 ^ 5 + (rs.toNat * 2 ^ 0 + 0x0400)) := hw.symm
  refine short_of rfl hw (by omega) (fun c hc => ?_)
  have e1 : num w 10 4 = 1 := by unfold num; omega
  have g1 : bitAt w 14 = st := bitAt_eq (by omega)
  have g2 : fld w 5 5 = rd := fld_eq (by omega)
  have g3 : fld w 0 5 = rs := fld_eq (by omega)
  cases c
  · unfold decode16; rw [e1]; rw [g1, g2, g3]; all_goals rfl
  · exact nomatch hc
  · unfold decode16; rw [e1]; rw [g1, g2, g3]; all_goals rfl
  · unfold decode16; rw [e1]; rw [g1, g2, g3]; all_goals rfl

theorem mul (st : Bool) (rd : BitVec 5) (rs1 : BitVec 5) (rs2 : BitVec 5) : Statement (.mul st rd rs1 rs2) := by
  have b1 := st.toNat_lt
  have b2 := rd.isLt
  have b3 := rs1.isLt
  have b4 := rs2.isLt
  obtain ⟨w, hw⟩ : ∃ w, encode (.mul st rd rs1 rs2) = w := ⟨_, rfl⟩
  have hw' : w = st.toNat * 2 ^ 30 + (rd.toNat * 2 ^ 20 + (rs1.toNat * 2 ^ 15 + (rs2.toNat * 2 ^ 10 + 0x80000040))) := hw.symm
  refine long_of rfl hw (by omega) (by omega) (fun c hc => ?_)
  have e1 : num w 25 5 = 0 := by unfold num; omega
  have e2 : num w 5 5 = 2 := by unfold num; omega
  have g1 : bitAt w 30 = st := bitAt_eq (by omega)
  have g2 : fld w 20 5 = rd := fld_eq (by omega)
  have g3 : fld w 15 5 = rs1 := fld_eq (by omega)
  have g4 : fld w 10 5 = rs2 := fld_eq (by omega)
  unfold decode32
  rw [e1]
  cases c
  · unfold decodeA; rw [e1]; unfold decodeR; rw [e2]; rw [g1, g2, g3, g4]; all_goals rfl
  · exact nomatch hc
  · unfold decodeM; rw [e1]; unfold decodeR; rw [e2]; rw [g1, g2, g3, g4]; all_goals rfl
  · unfold decodeS; rw [e1]; unfold decodeR; rw [e2]; rw [g1, g2, g3, g4]; all_goals rfl

theorem mulh (st : Bool) (rd : BitVec 5) (rs1 : BitVec 5) (rs2 : BitVec 5) (u : Bool) : Statement (.mulh st rd rs1 rs2 u) := by
  have b1 := st.toNat_lt
  have b2 := rd.isLt
  have b3 := rs1.isLt
  have b4 := rs2.isLt
  have b5 := u.toNat_lt
  obtain ⟨w, hw⟩ : ∃ w, encode (.mulh st rd rs1 rs2 u) = w := ⟨_, rfl⟩
  have hw' : w = st.toNat * 2 ^ 30 + (rd.toNat * 2 ^ 20 + (rs1.toNat * 2 ^ 15 + (rs2.toNat * 2 ^ 10 + (u.toNat * 2 ^ 0 + 0x80000060)))) := hw.symm
  refine long_of rfl hw (by omega) (by omega) (fun c hc => ?_)
  have e1 : num w 25 5 = 0 := by unfold num; omega
  have e2 : num w 5 5 = 3 := by unfold num; omega
  have g1 : bitAt w 30 = st := bitAt_eq (by omega)
  have g2 : fld w 20 5 = rd := fld_eq (by omega)
  have g3 : fld w 15 5 = rs1 := fld_eq (by omega)
  have g4 : fld w 10 5 = rs2 := fld_eq (by omega)
  have g5 : bitAt w 0 = u := bitAt_eq (by omega)
  unfold decode32
  rw [e1]
  cases c
  · unfold decodeA; rw [e1]; unfold decodeR; rw [e2]; rw [g1, g2, g3, g4, g5]; all_goals rfl
  · exact nomatch hc
  · unfold decodeM; rw [e1]; unfold decodeR; rw [e2]; rw [g1, g2, g3, g4, g5]; all_goals rfl
  · unfold decodeS; rw [e1]; unfold decodeR; rw [e2]; rw [g1, g2, g3, g4, g5]; all_goals rfl

theorem nbenter (st : Bool) (ra : BitVec 5) (rc : BitVec 5) : Statement (.nbenter st ra rc) := by
  have b1 := st.toNat_lt
  have b2 := ra.isLt
  have b3 := rc.isLt
  obtain ⟨w, hw⟩ : ∃ w, encode (.nbenter st ra rc) = w := ⟨_, rfl⟩
  have hw' : w = st.toNat * 2 ^ 30 + (ra.toNat * 2 ^ 15 + (rc.toNat * 2 ^ 5 + 0x9C000000)) := hw.symm
  refine long_of rfl hw (by omega) (by omega) (fun c hc => ?_)
  have e1 : num w 25 5 = 14 := by unfold num; omega
  have e2 : num w 20 5 = 0 := by unfold num; omega
  have g1 : bitAt w 30 = st := bitAt_eq (by omega)
  have g2 : fld w 15 5 = ra := fld_eq (by omega)
  have g3 : fld w 5 5 = rc := fld_eq (by omega)
  unfold decode32
  rw [e1]
  cases c
  · unfold decodeA; rw [e1]; unfold decodeCouching; rw [e2]; rw [g1, g2, g3]; all_goals rfl
  · exact nomatch hc
  · exact nomatch hc
  · exact nomatch hc

theorem nbexit (st : Bool) (ra : BitVec 5) (rc : BitVec 5) : Statement (.nbexit st ra rc) := by
  have b1 := st.toNat_lt
  have b2 := ra.isLt
  have b3 := rc.isLt
  obtain ⟨w, hw⟩ : ∃ w, encode (.nbexit st ra rc) = w := ⟨_, rfl⟩
  have hw' : w = st.toNat * 2 ^ 30 + (ra.toNat * 2 ^ 15 + (rc.toNat * 2 ^ 5 + 0x9C400000)) := hw.symm
  refine long_of rfl hw (by omega) (by omega) (fun c hc => ?_)
  have e1 : num w 25 5 = 14 := by unfold num; omega
  have e2 : num w 20 5 = 4 := by unfold num; omega
  have g1 : bitAt w 30 = st := bitAt_eq (by omega)
  have g2 : fld w 15 5 = ra := fld_eq (by omega)
  have g3 : fld w 5 5 = rc := fld_eq (by omega)
  unfold decode32
  rw [e1]
  cases c
  · unfold decodeA; rw [e1]; unfold decodeCouching; rw [e2]; rw [g1, g2, g3]; all_goals rfl
  · exact nomatch hc
  · exact nomatch hc
  · exact nomatch hc

theorem nbload (st : Bool) (ra : BitVec 5) (rb : BitVec 5) (rc : BitVec 5) : Statement (.nbload st ra rb rc) := by
  have b1 := st.toNat_lt
  have b2 := ra.isLt
  have b3 := rb.isLt
  have b4 := rc.isLt
  obtain ⟨w, hw⟩ : ∃ w, encode (.nbload st ra rb rc) = w := ⟨_, rfl⟩
  have hw' : w = st.toNat * 2 ^ 30 + (ra.toNat * 2 ^ 15 + (rb.toNat * 2 ^ 10 + (rc.toNat * 2 ^ 5 + 0x9C100000))) := hw.symm
  refine long_of rfl hw (by omega) (by omega) (fun c hc => ?_)
  have e1 : num w 25 5 = 14 := by unfold num; omega
  have e2 : num w 20 5 = 1 := by unfold num; omega
  have g1 : bitAt w 30 = st := bitAt_eq (by omega)
  have g2 : fld w 15 5 = ra := fld_eq (by omega)
  have g3 : fld w 10 5 = rb := fld_eq (by omega)
  have g4 : fld w 5 5 = rc := fld_eq (by omega)
  unfold decode32
  rw [e1]
  cases c
  · unfold decodeA; rw [e1]; unfold decodeCouching; rw [e2]; rw [g1, g2, g3, g4]; all_goals rfl
  · exact nomatch hc
  · exact nomatch hc
  · exact nomatch hc

theorem nbmac (st : Bool) (ra : BitVec 5) (rc : BitVec 5) (h : Bool) : Statement (.nbmac st ra rc h) := by
  have b1 := st.toNat_lt
  have b2 := ra.isLt
  have b3 := rc.isLt
  have b4 := h.toNat_lt
  obtain ⟨w, hw⟩ : ∃ w, encode (.nbmac st ra rc h) = w := ⟨_, rfl⟩
  have hw' : w = st.toNat * 2 ^ 30 + (ra.toNat * 2 ^ 15 + (rc.toNat * 2 ^ 5 + (h.toNat * 2 ^ 0 + 0x9C200000))) := hw.symm
  refine long_of rfl hw (by omega) (by omega) (fun c hc => ?_)
  have e1 : num w 25 5 = 14 := by unfold num; omega
  have e2 : num w 20 5 = 2 := by unfold num; omega
  have g1 : bitAt w 30 = st := bitAt_eq (by omega)
  have g2 : fld w 15 5 = ra := fld_eq (by omega)
  have g3 : fld w 5 5 = rc := fld_eq (by omega)
  have g4 : bitAt w 0 = h := bitAt_eq (by omega)
  unfold decode32
  rw [e1]
  cases c
  · unfold decodeA; rw [e1]; unfold decodeCouching; rw [e2]; rw [g1, g2, g3, g4]; all_goals rfl
  · exact nomatch hc
  · exact nomatch hc
  · exact nomatch hc

theorem nbread (st : Bool) (ra : BitVec 5) (rc : BitVec 5) (b : BitVec 4) : Statement (.nbread st ra rc b) := by
  have b1 := st.toNat_lt
  have b2 := ra.isLt
  have b3 := rc.isLt
  have b4 := b.isLt
  obtain ⟨w, hw⟩ : ∃ w, encode (.nbread st ra rc b) = w := ⟨_, rfl⟩
  have hw' : w = st.toNat * 2 ^ 30 + (ra.toNat * 2 ^ 15 + (rc.toNat * 2 ^ 5 + (b.toNat * 2 ^ 0 + 0x9C300000))) := hw.symm
  refine long_of rfl hw (by omega) (by omega) (fun c hc => ?_)
  have e1 : num w 25 5 = 14 := by unfold num; omega
  have e2 : num w 20 5 = 3 := by unfold num; omega
  have g1 : bitAt w 30 = st := bitAt_eq (by omega)
  have g2 : fld w 15 5 = ra := fld_eq (by omega)
  have g3 : fld w 5 5 = rc := fld_eq (by omega)
  have g4 : fld w 0 4 = b := fld_eq (by omega)
  unfold decode32
  rw [e1]
  cases c
  · unfold decodeA; rw [e1]; unfold decodeCouching; rw [e2]; rw [g1, g2, g3, g4]; all_goals rfl
  · exact nomatch hc
  · exact nomatch hc
  · exact nomatch hc

theorem nop (st : Bool) : Statement (.nop st) := by
  have b1 := st.toNat_lt
  obtain ⟨w, hw⟩ : ∃ w, encode (.nop st) = w := ⟨_, rfl⟩
  have hw' : w = st.toNat * 2 ^ 30 + 0xB4000000 := hw.symm
  refine long_of rfl hw (by omega) (by omega) (fun c hc => ?_)
  have e1 : num w 25 5 = 26 := by unfold num; omega
  have e2 : num w 20 5 = 0 := by unfold num; omega
  have g1 : bitAt w 30 = st := bitAt_eq (by omega)
  unfold decode32
  rw [e1]
  unfold decodeSystem
  rw [e2]
  rw [g1]
  all_goals rfl

theorem nop16 (st : Bool) : Statement (.nop16 st) := by
  have b1 := st.toNat_lt
  obtain ⟨w, hw⟩ : ∃ w, encode (.nop16 st) = w := ⟨_, rfl⟩
  have hw' : w = st.toNat * 2 ^ 14 + 0x3C00 := hw.symm
  refine short_of rfl hw (by omega) (fun c hc => ?_)
  have e1 : num w 10 4 = 15 := by unfold num; omega
  have e2 : num w 6 4 = 0 := by unfold num; omega
  have g1 : bitAt w 14 = st := bitAt_eq (by omega)
  unfold decode16
  rw [e1]
  unfold decodeForms16
  rw [e2]
  rw [g1]
  all_goals rfl

theorem or (st : Bool) (rd : BitVec 5) (rs1 : BitVec 5) (rs2 : BitVec 5) : Statement (.or st rd rs1 rs2) := by
  have b1 := st.toNat_lt
  have b2 := rd.isLt
  have b3 := rs1.isLt
  have b4 := rs2.isLt
  obtain ⟨w, hw⟩ : ∃ w, encode (.or st rd rs1 rs2) = w := ⟨_, rfl⟩
  have hw' : w = st.toNat * 2 ^ 30 + (rd.toNat * 2 ^ 20 + (rs1.toNat * 2 ^ 15 + (rs2.toNat * 2 ^ 10 + 0x800000E0))) := hw.symm
  refine long_of rfl hw (by omega) (by omega) (fun c hc => ?_)
  have e1 : num w 25 5 = 0 := by unfold num; omega
  have e2 : num w 5 5 = 7 := by unfold num; omega
  have g1 : bitAt w 30 = st := bitAt_eq (by omega)
  have g2 : fld w 20 5 = rd := fld_eq (by omega)
  have g3 : fld w 15 5 = rs1 := fld_eq (by omega)
  have g4 : fld w 10 5 = rs2 := fld_eq (by omega)
  unfold decode32
  rw [e1]
  cases c
  · unfold decodeA; rw [e1]; unfold decodeR; rw [e2]; rw [g1, g2, g3, g4]; all_goals rfl
  · exact nomatch hc
  · unfold decodeM; rw [e1]; unfold decodeR; rw [e2]; rw [g1, g2, g3, g4]; all_goals rfl
  · unfold decodeS; rw [e1]; unfold decodeR; rw [e2]; rw [g1, g2, g3, g4]; all_goals rfl

theorem pcnt (st : Bool) (d : BitVec 7) (pa : BitVec 4) : Statement (.pcnt st d pa) := by
  have b1 := st.toNat_lt
  have b2 := d.isLt
  have b3 := pa.isLt
  obtain ⟨w, hw⟩ : ∃ w, encode (.pcnt st d pa) = w := ⟨_, rfl⟩
  have hw' : w = st.toNat * 2 ^ 30 + (d.toNat * 2 ^ 14 + (pa.toNat * 2 ^ 10 + 0xA2800000)) := hw.symm
  refine long_of rfl hw (by omega) (by omega) (fun c hc => ?_)
  have e1 : num w 25 5 = 17 := by unfold num; omega
  have e2 : num w 21 4 = 4 := by unfold num; omega
  have g1 : bitAt w 30 = st := bitAt_eq (by omega)
  have g2 : fld w 14 7 = d := fld_eq (by omega)
  have g3 : fld w 10 4 = pa := fld_eq (by omega)
  unfold decode32
  rw [e1]
  cases c
  · exact nomatch hc
  · unfold decodeV; rw [e1]; unfold decodeVp; rw [e2]; rw [g1, g2, g3]; all_goals rfl
  · exact nomatch hc
  · exact nomatch hc

theorem pfirst (st : Bool) (d : BitVec 7) (pa : BitVec 4) : Statement (.pfirst st d pa) := by
  have b1 := st.toNat_lt
  have b2 := d.isLt
  have b3 := pa.isLt
  obtain ⟨w, hw⟩ : ∃ w, encode (.pfirst st d pa) = w := ⟨_, rfl⟩
  have hw' : w = st.toNat * 2 ^ 30 + (d.toNat * 2 ^ 14 + (pa.toNat * 2 ^ 10 + 0xA2A00000)) := hw.symm
  refine long_of rfl hw (by omega) (by omega) (fun c hc => ?_)
  have e1 : num w 25 5 = 17 := by unfold num; omega
  have e2 : num w 21 4 = 5 := by unfold num; omega
  have g1 : bitAt w 30 = st := bitAt_eq (by omega)
  have g2 : fld w 14 7 = d := fld_eq (by omega)
  have g3 : fld w 10 4 = pa := fld_eq (by omega)
  unfold decode32
  rw [e1]
  cases c
  · exact nomatch hc
  · unfold decodeV; rw [e1]; unfold decodeVp; rw [e2]; rw [g1, g2, g3]; all_goals rfl
  · exact nomatch hc
  · exact nomatch hc

theorem plog (st : Bool) (pd : BitVec 4) (pa : BitVec 4) (pb : BitVec 4) (op : BitVec 3) : Statement (.plog st pd pa pb op) := by
  have b1 := st.toNat_lt
  have b2 := pd.isLt
  have b3 := pa.isLt
  have b4 := pb.isLt
  have b5 := op.isLt
  obtain ⟨w, hw⟩ : ∃ w, encode (.plog st pd pa pb op) = w := ⟨_, rfl⟩
  have hw' : w = st.toNat * 2 ^ 30 + (pd.toNat * 2 ^ 17 + (pa.toNat * 2 ^ 13 + (pb.toNat * 2 ^ 9 + (op.toNat * 2 ^ 6 + 0xA2000000)))) := hw.symm
  refine long_of rfl hw (by omega) (by omega) (fun c hc => ?_)
  have e1 : num w 25 5 = 17 := by unfold num; omega
  have e2 : num w 21 4 = 0 := by unfold num; omega
  have g1 : bitAt w 30 = st := bitAt_eq (by omega)
  have g2 : fld w 17 4 = pd := fld_eq (by omega)
  have g3 : fld w 13 4 = pa := fld_eq (by omega)
  have g4 : fld w 9 4 = pb := fld_eq (by omega)
  have g5 : fld w 6 3 = op := fld_eq (by omega)
  unfold decode32
  rw [e1]
  cases c
  · exact nomatch hc
  · unfold decodeV; rw [e1]; unfold decodeVp; rw [e2]; rw [g1, g2, g3, g4, g5]; all_goals rfl
  · exact nomatch hc
  · exact nomatch hc

theorem popc (st : Bool) (rd : BitVec 5) (rs1 : BitVec 5) : Statement (.popc st rd rs1) := by
  have b1 := st.toNat_lt
  have b2 := rd.isLt
  have b3 := rs1.isLt
  obtain ⟨w, hw⟩ : ∃ w, encode (.popc st rd rs1) = w := ⟨_, rfl⟩
  have hw' : w = st.toNat * 2 ^ 30 + (rd.toNat * 2 ^ 20 + (rs1.toNat * 2 ^ 15 + 0x80000260)) := hw.symm
  refine long_of rfl hw (by omega) (by omega) (fun c hc => ?_)
  have e1 : num w 25 5 = 0 := by unfold num; omega
  have e2 : num w 5 5 = 19 := by unfold num; omega
  have g1 : bitAt w 30 = st := bitAt_eq (by omega)
  have g2 : fld w 20 5 = rd := fld_eq (by omega)
  have g3 : fld w 15 5 = rs1 := fld_eq (by omega)
  unfold decode32
  rw [e1]
  cases c
  · unfold decodeA; rw [e1]; unfold decodeR; rw [e2]; rw [g1, g2, g3]; all_goals rfl
  · exact nomatch hc
  · unfold decodeM; rw [e1]; unfold decodeR; rw [e2]; rw [g1, g2, g3]; all_goals rfl
  · unfold decodeS; rw [e1]; unfold decodeR; rw [e2]; rw [g1, g2, g3]; all_goals rfl

theorem ppack (st : Bool) (d : BitVec 7) (g : Bool) : Statement (.ppack st d g) := by
  have b1 := st.toNat_lt
  have b2 := d.isLt
  have b3 := g.toNat_lt
  obtain ⟨w, hw⟩ : ∃ w, encode (.ppack st d g) = w := ⟨_, rfl⟩
  have hw' : w = st.toNat * 2 ^ 30 + (d.toNat * 2 ^ 14 + (g.toNat * 2 ^ 13 + 0xA2400000)) := hw.symm
  refine long_of rfl hw (by omega) (by omega) (fun c hc => ?_)
  have e1 : num w 25 5 = 17 := by unfold num; omega
  have e2 : num w 21 4 = 2 := by unfold num; omega
  have g1 : bitAt w 30 = st := bitAt_eq (by omega)
  have g2 : fld w 14 7 = d := fld_eq (by omega)
  have g3 : bitAt w 13 = g := bitAt_eq (by omega)
  unfold decode32
  rw [e1]
  cases c
  · exact nomatch hc
  · unfold decodeV; rw [e1]; unfold decodeVp; rw [e2]; rw [g1, g2, g3]; all_goals rfl
  · exact nomatch hc
  · exact nomatch hc

theorem probe (st : Bool) (rd : BitVec 5) (ra : BitVec 5) (t : BitVec 4) (off : BitVec 11) : Statement (.probe st rd ra t off) := by
  have b1 := st.toNat_lt
  have b2 := rd.isLt
  have b3 := ra.isLt
  have b4 := t.isLt
  have b5 := off.isLt
  obtain ⟨w, hw⟩ : ∃ w, encode (.probe st rd ra t off) = w := ⟨_, rfl⟩
  have hw' : w = st.toNat * 2 ^ 30 + (rd.toNat * 2 ^ 20 + (ra.toNat * 2 ^ 15 + (t.toNat * 2 ^ 11 + (off.toNat * 2 ^ 0 + 0xA2000000)))) := hw.symm
  refine long_of rfl hw (by omega) (by omega) (fun c hc => ?_)
  have hn : off.toNat ≠ 0 := by
    have hl : firstError [(c == .A, .wrongCluster), (decide (off.toNat ≠ 0), .reservedFunction)] = none := hc
    intro h0
    rw [decide_eq_false (by omega)] at hl
    cases c <;> exact nomatch hl
  have e1 : num w 25 5 = 17 := by unfold num; omega
  have e2 : ¬ num w 0 11 = 0 := by unfold num; omega
  have g1 : bitAt w 30 = st := bitAt_eq (by omega)
  have g2 : fld w 20 5 = rd := fld_eq (by omega)
  have g3 : fld w 15 5 = ra := fld_eq (by omega)
  have g4 : fld w 11 4 = t := fld_eq (by omega)
  have g5 : fld w 0 11 = off := fld_eq (by omega)
  unfold decode32
  rw [e1]
  cases c
  · unfold decodeA; rw [e1]; rw [if_neg e2]; rw [g1, g2, g3, g4, g5]; all_goals rfl
  · exact nomatch hc
  · exact nomatch hc
  · exact nomatch hc

theorem probeCfg (st : Bool) (ra : BitVec 5) (t : BitVec 4) : Statement (.probeCfg st ra t) := by
  have b1 := st.toNat_lt
  have b2 := ra.isLt
  have b3 := t.isLt
  obtain ⟨w, hw⟩ : ∃ w, encode (.probeCfg st ra t) = w := ⟨_, rfl⟩
  have hw' : w = st.toNat * 2 ^ 30 + (ra.toNat * 2 ^ 15 + (t.toNat * 2 ^ 11 + 0xA2000000)) := hw.symm
  refine long_of rfl hw (by omega) (by omega) (fun c hc => ?_)
  have e1 : num w 25 5 = 17 := by unfold num; omega
  have e2 : num w 0 11 = 0 := by unfold num; omega
  have g1 : bitAt w 30 = st := bitAt_eq (by omega)
  have g2 : fld w 15 5 = ra := fld_eq (by omega)
  have g3 : fld w 11 4 = t := fld_eq (by omega)
  unfold decode32
  rw [e1]
  cases c
  · unfold decodeA; rw [e1]; rw [if_pos e2]; rw [g1, g2, g3]; all_goals rfl
  · exact nomatch hc
  · exact nomatch hc
  · exact nomatch hc

theorem prot (st : Bool) (ra : BitVec 5) (rb : BitVec 5) (rc : BitVec 5) (set : Bool) : Statement (.prot st ra rb rc set) := by
  have b1 := st.toNat_lt
  have b2 := ra.isLt
  have b3 := rb.isLt
  have b4 := rc.isLt
  have b5 := set.toNat_lt
  obtain ⟨w, hw⟩ : ∃ w, encode (.prot st ra rb rc set) = w := ⟨_, rfl⟩
  have hw' : w = st.toNat * 2 ^ 30 + (ra.toNat * 2 ^ 15 + (rb.toNat * 2 ^ 10 + (rc.toNat * 2 ^ 5 + (set.toNat * 2 ^ 0 + 0x9E000000)))) := hw.symm
  refine long_of rfl hw (by omega) (by omega) (fun c hc => ?_)
  have e1 : num w 25 5 = 15 := by unfold num; omega
  have e2 : num w 20 5 = 0 := by unfold num; omega
  have g1 : bitAt w 30 = st := bitAt_eq (by omega)
  have g2 : fld w 15 5 = ra := fld_eq (by omega)
  have g3 : fld w 10 5 = rb := fld_eq (by omega)
  have g4 : fld w 5 5 = rc := fld_eq (by omega)
  have g5 : bitAt w 0 = set := bitAt_eq (by omega)
  unfold decode32
  rw [e1]
  cases c
  · unfold decodeA; rw [e1]; unfold decodeState; rw [e2]; rw [g1, g2, g3, g4, g5]; all_goals rfl
  · exact nomatch hc
  · exact nomatch hc
  · exact nomatch hc

theorem pset (st : Bool) (pd : BitVec 4) (n : BitVec 7) : Statement (.pset st pd n) := by
  have b1 := st.toNat_lt
  have b2 := pd.isLt
  have b3 := n.isLt
  obtain ⟨w, hw⟩ : ∃ w, encode (.pset st pd n) = w := ⟨_, rfl⟩
  have hw' : w = st.toNat * 2 ^ 30 + (pd.toNat * 2 ^ 17 + (n.toNat * 2 ^ 10 + 0xA2200000)) := hw.symm
  refine long_of rfl hw (by omega) (by omega) (fun c hc => ?_)
  have e1 : num w 25 5 = 17 := by unfold num; omega
  have e2 : num w 21 4 = 1 := by unfold num; omega
  have g1 : bitAt w 30 = st := bitAt_eq (by omega)
  have g2 : fld w 17 4 = pd := fld_eq (by omega)
  have g3 : fld w 10 7 = n := fld_eq (by omega)
  unfold decode32
  rw [e1]
  cases c
  · exact nomatch hc
  · unfold decodeV; rw [e1]; unfold decodeVp; rw [e2]; rw [g1, g2, g3]; all_goals rfl
  · exact nomatch hc
  · exact nomatch hc

theorem punpk (st : Bool) (a : BitVec 7) (g : Bool) : Statement (.punpk st a g) := by
  have b1 := st.toNat_lt
  have b2 := a.isLt
  have b3 := g.toNat_lt
  obtain ⟨w, hw⟩ : ∃ w, encode (.punpk st a g) = w := ⟨_, rfl⟩
  have hw' : w = st.toNat * 2 ^ 30 + (a.toNat * 2 ^ 14 + (g.toNat * 2 ^ 13 + 0xA2600000)) := hw.symm
  refine long_of rfl hw (by omega) (by omega) (fun c hc => ?_)
  have e1 : num w 25 5 = 17 := by unfold num; omega
  have e2 : num w 21 4 = 3 := by unfold num; omega
  have g1 : bitAt w 30 = st := bitAt_eq (by omega)
  have g2 : fld w 14 7 = a := fld_eq (by omega)
  have g3 : bitAt w 13 = g := bitAt_eq (by omega)
  unfold decode32
  rw [e1]
  cases c
  · exact nomatch hc
  · unfold decodeV; rw [e1]; unfold decodeVp; rw [e2]; rw [g1, g2, g3]; all_goals rfl
  · exact nomatch hc
  · exact nomatch hc

theorem recfl (st : Bool) (ra : BitVec 5) : Statement (.recfl st ra) := by
  have b1 := st.toNat_lt
  have b2 := ra.isLt
  obtain ⟨w, hw⟩ : ∃ w, encode (.recfl st ra) = w := ⟨_, rfl⟩
  have hw' : w = st.toNat * 2 ^ 30 + (ra.toNat * 2 ^ 15 + 0x98200000) := hw.symm
  refine long_of rfl hw (by omega) (by omega) (fun c hc => ?_)
  have e1 : num w 25 5 = 12 := by unfold num; omega
  have e2 : num w 20 5 = 2 := by unfold num; omega
  have g1 : bitAt w 30 = st := bitAt_eq (by omega)
  have g2 : fld w 15 5 = ra := fld_eq (by omega)
  unfold decode32
  rw [e1]
  cases c
  · unfold decodeA; rw [e1]; unfold decodeShuttle; rw [e2]; rw [g1, g2]; all_goals rfl
  · exact nomatch hc
  · exact nomatch hc
  · exact nomatch hc

theorem rem (st : Bool) (rd : BitVec 5) (rs1 : BitVec 5) (rs2 : BitVec 5) (u : Bool) : Statement (.rem st rd rs1 rs2 u) := by
  have b1 := st.toNat_lt
  have b2 := rd.isLt
  have b3 := rs1.isLt
  have b4 := rs2.isLt
  have b5 := u.toNat_lt
  obtain ⟨w, hw⟩ : ∃ w, encode (.rem st rd rs1 rs2 u) = w := ⟨_, rfl⟩
  have hw' : w = st.toNat * 2 ^ 30 + (rd.toNat * 2 ^ 20 + (rs1.toNat * 2 ^ 15 + (rs2.toNat * 2 ^ 10 + (u.toNat * 2 ^ 0 + 0x800000A0)))) := hw.symm
  refine long_of rfl hw (by omega) (by omega) (fun c hc => ?_)
  have e1 : num w 25 5 = 0 := by unfold num; omega
  have e2 : num w 5 5 = 5 := by unfold num; omega
  have g1 : bitAt w 30 = st := bitAt_eq (by omega)
  have g2 : fld w 20 5 = rd := fld_eq (by omega)
  have g3 : fld w 15 5 = rs1 := fld_eq (by omega)
  have g4 : fld w 10 5 = rs2 := fld_eq (by omega)
  have g5 : bitAt w 0 = u := bitAt_eq (by omega)
  unfold decode32
  rw [e1]
  cases c
  · unfold decodeA; rw [e1]; unfold decodeR; rw [e2]; rw [g1, g2, g3, g4, g5]; all_goals rfl
  · exact nomatch hc
  · unfold decodeM; rw [e1]; unfold decodeR; rw [e2]; rw [g1, g2, g3, g4, g5]; all_goals rfl
  · unfold decodeS; rw [e1]; unfold decodeR; rw [e2]; rw [g1, g2, g3, g4, g5]; all_goals rfl

theorem rndend (st : Bool) (ra : BitVec 5) (rc : BitVec 5) : Statement (.rndend st ra rc) := by
  have b1 := st.toNat_lt
  have b2 := ra.isLt
  have b3 := rc.isLt
  obtain ⟨w, hw⟩ : ∃ w, encode (.rndend st ra rc) = w := ⟨_, rfl⟩
  have hw' : w = st.toNat * 2 ^ 30 + (ra.toNat * 2 ^ 15 + (rc.toNat * 2 ^ 5 + 0x9E100000)) := hw.symm
  refine long_of rfl hw (by omega) (by omega) (fun c hc => ?_)
  have e1 : num w 25 5 = 15 := by unfold num; omega
  have e2 : num w 20 5 = 1 := by unfold num; omega
  have g1 : bitAt w 30 = st := bitAt_eq (by omega)
  have g2 : fld w 15 5 = ra := fld_eq (by omega)
  have g3 : fld w 5 5 = rc := fld_eq (by omega)
  unfold decode32
  rw [e1]
  cases c
  · unfold decodeA; rw [e1]; unfold decodeState; rw [e2]; rw [g1, g2, g3]; all_goals rfl
  · exact nomatch hc
  · exact nomatch hc
  · exact nomatch hc

theorem rowcp (st : Bool) (ra : BitVec 5) (rb : BitVec 5) (rc : BitVec 5) (n1 : BitVec 5) : Statement (.rowcp st ra rb rc n1) := by
  have b1 := st.toNat_lt
  have b2 := ra.isLt
  have b3 := rb.isLt
  have b4 := rc.isLt
  have b5 := n1.isLt
  obtain ⟨w, hw⟩ : ∃ w, encode (.rowcp st ra rb rc n1) = w := ⟨_, rfl⟩
  have hw' : w = st.toNat * 2 ^ 30 + (ra.toNat * 2 ^ 15 + (rb.toNat * 2 ^ 10 + (rc.toNat * 2 ^ 5 + (n1.toNat * 2 ^ 0 + 0x9A000000)))) := hw.symm
  refine long_of rfl hw (by omega) (by omega) (fun c hc => ?_)
  have e1 : num w 25 5 = 13 := by unfold num; omega
  have e2 : num w 20 5 = 0 := by unfold num; omega
  have g1 : bitAt w 30 = st := bitAt_eq (by omega)
  have g2 : fld w 15 5 = ra := fld_eq (by omega)
  have g3 : fld w 10 5 = rb := fld_eq (by omega)
  have g4 : fld w 5 5 = rc := fld_eq (by omega)
  have g5 : fld w 0 5 = n1 := fld_eq (by omega)
  unfold decode32
  rw [e1]
  cases c
  · unfold decodeA; rw [e1]; unfold decodeCutwork; rw [e2]; rw [g1, g2, g3, g4, g5]; all_goals rfl
  · exact nomatch hc
  · exact nomatch hc
  · exact nomatch hc

theorem rowfill (st : Bool) (ra : BitVec 5) (rb : BitVec 5) (rc : BitVec 5) (n1 : BitVec 5) : Statement (.rowfill st ra rb rc n1) := by
  have b1 := st.toNat_lt
  have b2 := ra.isLt
  have b3 := rb.isLt
  have b4 := rc.isLt
  have b5 := n1.isLt
  obtain ⟨w, hw⟩ : ∃ w, encode (.rowfill st ra rb rc n1) = w := ⟨_, rfl⟩
  have hw' : w = st.toNat * 2 ^ 30 + (ra.toNat * 2 ^ 15 + (rb.toNat * 2 ^ 10 + (rc.toNat * 2 ^ 5 + (n1.toNat * 2 ^ 0 + 0x9A100000)))) := hw.symm
  refine long_of rfl hw (by omega) (by omega) (fun c hc => ?_)
  have e1 : num w 25 5 = 13 := by unfold num; omega
  have e2 : num w 20 5 = 1 := by unfold num; omega
  have g1 : bitAt w 30 = st := bitAt_eq (by omega)
  have g2 : fld w 15 5 = ra := fld_eq (by omega)
  have g3 : fld w 10 5 = rb := fld_eq (by omega)
  have g4 : fld w 5 5 = rc := fld_eq (by omega)
  have g5 : fld w 0 5 = n1 := fld_eq (by omega)
  unfold decode32
  rw [e1]
  cases c
  · unfold decodeA; rw [e1]; unfold decodeCutwork; rw [e2]; rw [g1, g2, g3, g4, g5]; all_goals rfl
  · exact nomatch hc
  · exact nomatch hc
  · exact nomatch hc

theorem rowlog (st : Bool) (ra : BitVec 5) (rb : BitVec 5) (rc : BitVec 5) (op : BitVec 3) (n1 : BitVec 2) : Statement (.rowlog st ra rb rc op n1) := by
  have b1 := st.toNat_lt
  have b2 := ra.isLt
  have b3 := rb.isLt
  have b4 := rc.isLt
  have b5 := op.isLt
  have b6 := n1.isLt
  obtain ⟨w, hw⟩ : ∃ w, encode (.rowlog st ra rb rc op n1) = w := ⟨_, rfl⟩
  have hw' : w = st.toNat * 2 ^ 30 + (ra.toNat * 2 ^ 15 + (rb.toNat * 2 ^ 10 + (rc.toNat * 2 ^ 5 + (op.toNat * 2 ^ 2 + (n1.toNat * 2 ^ 0 + 0x9A200000))))) := hw.symm
  refine long_of rfl hw (by omega) (by omega) (fun c hc => ?_)
  have e1 : num w 25 5 = 13 := by unfold num; omega
  have e2 : num w 20 5 = 2 := by unfold num; omega
  have g1 : bitAt w 30 = st := bitAt_eq (by omega)
  have g2 : fld w 15 5 = ra := fld_eq (by omega)
  have g3 : fld w 10 5 = rb := fld_eq (by omega)
  have g4 : fld w 5 5 = rc := fld_eq (by omega)
  have g5 : fld w 2 3 = op := fld_eq (by omega)
  have g6 : fld w 0 2 = n1 := fld_eq (by omega)
  unfold decode32
  rw [e1]
  cases c
  · unfold decodeA; rw [e1]; unfold decodeCutwork; rw [e2]; rw [g1, g2, g3, g4, g5, g6]; all_goals rfl
  · exact nomatch hc
  · exact nomatch hc
  · exact nomatch hc

theorem sclaim (st : Bool) (n : BitVec 6) : Statement (.sclaim st n) := by
  have b1 := st.toNat_lt
  have b2 := n.isLt
  obtain ⟨w, hw⟩ : ∃ w, encode (.sclaim st n) = w := ⟨_, rfl⟩
  have hw' : w = st.toNat * 2 ^ 30 + (n.toNat * 2 ^ 0 + 0x88200000) := hw.symm
  refine long_of rfl hw (by omega) (by omega) (fun c hc => ?_)
  have e1 : num w 25 5 = 4 := by unfold num; omega
  have e2 : num w 20 5 = 2 := by unfold num; omega
  have g1 : bitAt w 30 = st := bitAt_eq (by omega)
  have g2 : fld w 0 6 = n := fld_eq (by omega)
  unfold decode32
  rw [e1]
  cases c
  · exact nomatch hc
  · exact nomatch hc
  · unfold decodeM; rw [e1]; unfold decodeArray; rw [e2]; rw [g1, g2]; all_goals rfl
  · exact nomatch hc

theorem sel (st : Bool) (rd : BitVec 5) (rs1 : BitVec 5) (rs2 : BitVec 5) (rc : BitVec 5) : Statement (.sel st rd rs1 rs2 rc) := by
  have b1 := st.toNat_lt
  have b2 := rd.isLt
  have b3 := rs1.isLt
  have b4 := rs2.isLt
  have b5 := rc.isLt
  obtain ⟨w, hw⟩ : ∃ w, encode (.sel st rd rs1 rs2 rc) = w := ⟨_, rfl⟩
  have hw' : w = st.toNat * 2 ^ 30 + (rd.toNat * 2 ^ 20 + (rs1.toNat * 2 ^ 15 + (rs2.toNat * 2 ^ 10 + (rc.toNat * 2 ^ 0 + 0x80000220)))) := hw.symm
  refine long_of rfl hw (by omega) (by omega) (fun c hc => ?_)
  have e1 : num w 25 5 = 0 := by unfold num; omega
  have e2 : num w 5 5 = 17 := by unfold num; omega
  have g1 : bitAt w 30 = st := bitAt_eq (by omega)
  have g2 : fld w 20 5 = rd := fld_eq (by omega)
  have g3 : fld w 15 5 = rs1 := fld_eq (by omega)
  have g4 : fld w 10 5 = rs2 := fld_eq (by omega)
  have g5 : fld w 0 5 = rc := fld_eq (by omega)
  unfold decode32
  rw [e1]
  cases c
  · unfold decodeA; rw [e1]; unfold decodeR; rw [e2]; rw [g1, g2, g3, g4, g5]; all_goals rfl
  · exact nomatch hc
  · unfold decodeM; rw [e1]; unfold decodeR; rw [e2]; rw [g1, g2, g3, g4, g5]; all_goals rfl
  · unfold decodeS; rw [e1]; unfold decodeR; rw [e2]; rw [g1, g2, g3, g4, g5]; all_goals rfl

theorem setsr (st : Bool) (reg : BitVec 6) (num' : BitVec 8) : Statement (.setsr st reg num') := by
  have b1 := st.toNat_lt
  have b2 := reg.isLt
  have b3 := num'.isLt
  obtain ⟨w, hw⟩ : ∃ w, encode (.setsr st reg num') = w := ⟨_, rfl⟩
  have hw' : w = st.toNat * 2 ^ 30 + (reg.toNat * 2 ^ 18 + (num'.toNat * 2 ^ 10 + 0xB3000000)) := hw.symm
  refine long_of rfl hw (by omega) (by omega) (fun c hc => ?_)
  have e1 : num w 25 5 = 25 := by unfold num; omega
  have e2 : bitAt w 24 = true := bitAt_true (by omega)
  have g1 : bitAt w 30 = st := bitAt_eq (by omega)
  have g2 : fld w 18 6 = reg := fld_eq (by omega)
  have g3 : fld w 10 8 = num' := fld_eq (by omega)
  unfold decode32
  rw [e1]
  rw [e2]
  rw [g1, g2, g3]
  all_goals rfl

theorem sfree (st : Bool) (n : BitVec 6) : Statement (.sfree st n) := by
  have b1 := st.toNat_lt
  have b2 := n.isLt
  obtain ⟨w, hw⟩ : ∃ w, encode (.sfree st n) = w := ⟨_, rfl⟩
  have hw' : w = st.toNat * 2 ^ 30 + (n.toNat * 2 ^ 0 + 0x88300000) := hw.symm
  refine long_of rfl hw (by omega) (by omega) (fun c hc => ?_)
  have e1 : num w 25 5 = 4 := by unfold num; omega
  have e2 : num w 20 5 = 3 := by unfold num; omega
  have g1 : bitAt w 30 = st := bitAt_eq (by omega)
  have g2 : fld w 0 6 = n := fld_eq (by omega)
  unfold decode32
  rw [e1]
  cases c
  · exact nomatch hc
  · exact nomatch hc
  · unfold decodeM; rw [e1]; unfold decodeArray; rw [e2]; rw [g1, g2]; all_goals rfl
  · exact nomatch hc

theorem shgo (st : Bool) (ra : BitVec 5) (rb : BitVec 5) (rc : BitVec 5) (ch : Bool) : Statement (.shgo st ra rb rc ch) := by
  have b1 := st.toNat_lt
  have b2 := ra.isLt
  have b3 := rb.isLt
  have b4 := rc.isLt
  have b5 := ch.toNat_lt
  obtain ⟨w, hw⟩ : ∃ w, encode (.shgo st ra rb rc ch) = w := ⟨_, rfl⟩
  have hw' : w = st.toNat * 2 ^ 30 + (ra.toNat * 2 ^ 15 + (rb.toNat * 2 ^ 10 + (rc.toNat * 2 ^ 5 + (ch.toNat * 2 ^ 0 + 0x98000000)))) := hw.symm
  refine long_of rfl hw (by omega) (by omega) (fun c hc => ?_)
  have e1 : num w 25 5 = 12 := by unfold num; omega
  have e2 : num w 20 5 = 0 := by unfold num; omega
  have g1 : bitAt w 30 = st := bitAt_eq (by omega)
  have g2 : fld w 15 5 = ra := fld_eq (by omega)
  have g3 : fld w 10 5 = rb := fld_eq (by omega)
  have g4 : fld w 5 5 = rc := fld_eq (by omega)
  have g5 : bitAt w 0 = ch := bitAt_eq (by omega)
  unfold decode32
  rw [e1]
  cases c
  · unfold decodeA; rw [e1]; unfold decodeShuttle; rw [e2]; rw [g1, g2, g3, g4, g5]; all_goals rfl
  · exact nomatch hc
  · exact nomatch hc
  · exact nomatch hc

theorem shl (st : Bool) (rd : BitVec 5) (rs1 : BitVec 5) (rs2 : BitVec 5) : Statement (.shl st rd rs1 rs2) := by
  have b1 := st.toNat_lt
  have b2 := rd.isLt
  have b3 := rs1.isLt
  have b4 := rs2.isLt
  obtain ⟨w, hw⟩ : ∃ w, encode (.shl st rd rs1 rs2) = w := ⟨_, rfl⟩
  have hw' : w = st.toNat * 2 ^ 30 + (rd.toNat * 2 ^ 20 + (rs1.toNat * 2 ^ 15 + (rs2.toNat * 2 ^ 10 + 0x80000140))) := hw.symm
  refine long_of rfl hw (by omega) (by omega) (fun c hc => ?_)
  have e1 : num w 25 5 = 0 := by unfold num; omega
  have e2 : num w 5 5 = 10 := by unfold num; omega
  have g1 : bitAt w 30 = st := bitAt_eq (by omega)
  have g2 : fld w 20 5 = rd := fld_eq (by omega)
  have g3 : fld w 15 5 = rs1 := fld_eq (by omega)
  have g4 : fld w 10 5 = rs2 := fld_eq (by omega)
  unfold decode32
  rw [e1]
  cases c
  · unfold decodeA; rw [e1]; unfold decodeR; rw [e2]; rw [g1, g2, g3, g4]; all_goals rfl
  · exact nomatch hc
  · unfold decodeM; rw [e1]; unfold decodeR; rw [e2]; rw [g1, g2, g3, g4]; all_goals rfl
  · unfold decodeS; rw [e1]; unfold decodeR; rw [e2]; rw [g1, g2, g3, g4]; all_goals rfl

theorem shr (st : Bool) (rd : BitVec 5) (rs1 : BitVec 5) (rs2 : BitVec 5) : Statement (.shr st rd rs1 rs2) := by
  have b1 := st.toNat_lt
  have b2 := rd.isLt
  have b3 := rs1.isLt
  have b4 := rs2.isLt
  obtain ⟨w, hw⟩ : ∃ w, encode (.shr st rd rs1 rs2) = w := ⟨_, rfl⟩
  have hw' : w = st.toNat * 2 ^ 30 + (rd.toNat * 2 ^ 20 + (rs1.toNat * 2 ^ 15 + (rs2.toNat * 2 ^ 10 + 0x80000160))) := hw.symm
  refine long_of rfl hw (by omega) (by omega) (fun c hc => ?_)
  have e1 : num w 25 5 = 0 := by unfold num; omega
  have e2 : num w 5 5 = 11 := by unfold num; omega
  have g1 : bitAt w 30 = st := bitAt_eq (by omega)
  have g2 : fld w 20 5 = rd := fld_eq (by omega)
  have g3 : fld w 15 5 = rs1 := fld_eq (by omega)
  have g4 : fld w 10 5 = rs2 := fld_eq (by omega)
  unfold decode32
  rw [e1]
  cases c
  · unfold decodeA; rw [e1]; unfold decodeR; rw [e2]; rw [g1, g2, g3, g4]; all_goals rfl
  · exact nomatch hc
  · unfold decodeM; rw [e1]; unfold decodeR; rw [e2]; rw [g1, g2, g3, g4]; all_goals rfl
  · unfold decodeS; rw [e1]; unfold decodeR; rw [e2]; rw [g1, g2, g3, g4]; all_goals rfl

theorem shwm (st : Bool) (ch : Bool) (rd : BitVec 5) : Statement (.shwm st ch rd) := by
  have b1 := st.toNat_lt
  have b2 := ch.toNat_lt
  have b3 := rd.isLt
  obtain ⟨w, hw⟩ : ∃ w, encode (.shwm st ch rd) = w := ⟨_, rfl⟩
  have hw' : w = st.toNat * 2 ^ 30 + (ch.toNat * 2 ^ 10 + (rd.toNat * 2 ^ 0 + 0x98100000)) := hw.symm
  refine long_of rfl hw (by omega) (by omega) (fun c hc => ?_)
  have e1 : num w 25 5 = 12 := by unfold num; omega
  have e2 : num w 20 5 = 1 := by unfold num; omega
  have g1 : bitAt w 30 = st := bitAt_eq (by omega)
  have g2 : bitAt w 10 = ch := bitAt_eq (by omega)
  have g3 : fld w 0 5 = rd := fld_eq (by omega)
  unfold decode32
  rw [e1]
  cases c
  · unfold decodeA; rw [e1]; unfold decodeShuttle; rw [e2]; rw [g1, g2, g3]; all_goals rfl
  · exact nomatch hc
  · exact nomatch hc
  · exact nomatch hc

theorem signal (st : Bool) (ra : BitVec 5) (rb : BitVec 5) : Statement (.signal st ra rb) := by
  have b1 := st.toNat_lt
  have b2 := ra.isLt
  have b3 := rb.isLt
  obtain ⟨w, hw⟩ : ∃ w, encode (.signal st ra rb) = w := ⟨_, rfl⟩
  have hw' : w = st.toNat * 2 ^ 30 + (ra.toNat * 2 ^ 15 + (rb.toNat * 2 ^ 10 + 0xA0000000)) := hw.symm
  refine long_of rfl hw (by omega) (by omega) (fun c hc => ?_)
  have e1 : num w 25 5 = 16 := by unfold num; omega
  have e2 : num w 20 5 = 0 := by unfold num; omega
  have g1 : bitAt w 30 = st := bitAt_eq (by omega)
  have g2 : fld w 15 5 = ra := fld_eq (by omega)
  have g3 : fld w 10 5 = rb := fld_eq (by omega)
  unfold decode32
  rw [e1]
  cases c
  · unfold decodeA; rw [e1]; unfold decodeQueue; rw [e2]; rw [g1, g2, g3]; all_goals rfl
  · exact nomatch hc
  · exact nomatch hc
  · exact nomatch hc

theorem sra (st : Bool) (rd : BitVec 5) (rs1 : BitVec 5) (rs2 : BitVec 5) : Statement (.sra st rd rs1 rs2) := by
  have b1 := st.toNat_lt
  have b2 := rd.isLt
  have b3 := rs1.isLt
  have b4 := rs2.isLt
  obtain ⟨w, hw⟩ : ∃ w, encode (.sra st rd rs1 rs2) = w := ⟨_, rfl⟩
  have hw' : w = st.toNat * 2 ^ 30 + (rd.toNat * 2 ^ 20 + (rs1.toNat * 2 ^ 15 + (rs2.toNat * 2 ^ 10 + 0x80000180))) := hw.symm
  refine long_of rfl hw (by omega) (by omega) (fun c hc => ?_)
  have e1 : num w 25 5 = 0 := by unfold num; omega
  have e2 : num w 5 5 = 12 := by unfold num; omega
  have g1 : bitAt w 30 = st := bitAt_eq (by omega)
  have g2 : fld w 20 5 = rd := fld_eq (by omega)
  have g3 : fld w 15 5 = rs1 := fld_eq (by omega)
  have g4 : fld w 10 5 = rs2 := fld_eq (by omega)
  unfold decode32
  rw [e1]
  cases c
  · unfold decodeA; rw [e1]; unfold decodeR; rw [e2]; rw [g1, g2, g3, g4]; all_goals rfl
  · exact nomatch hc
  · unfold decodeM; rw [e1]; unfold decodeR; rw [e2]; rw [g1, g2, g3, g4]; all_goals rfl
  · unfold decodeS; rw [e1]; unfold decodeR; rw [e2]; rw [g1, g2, g3, g4]; all_goals rfl

theorem st (st : Bool) (rd : BitVec 5) (base : BitVec 5) (sp : Bool) (sz : BitVec 3) (cls : BitVec 2) (off : BitVec 8) : Statement (.st st rd base sp sz cls off) := by
  have b1 := st.toNat_lt
  have b2 := rd.isLt
  have b3 := base.isLt
  have b4 := sp.toNat_lt
  have b5 := sz.isLt
  have b6 := cls.isLt
  have b7 := off.isLt
  obtain ⟨w, hw⟩ : ∃ w, encode (.st st rd base sp sz cls off) = w := ⟨_, rfl⟩
  have hw' : w = st.toNat * 2 ^ 30 + (rd.toNat * 2 ^ 20 + (base.toNat * 2 ^ 15 + (sp.toNat * 2 ^ 14 + (sz.toNat * 2 ^ 11 + (cls.toNat * 2 ^ 9 + (off.toNat * 2 ^ 0 + 0x8A000000)))))) := hw.symm
  refine long_of rfl hw (by omega) (by omega) (fun c hc => ?_)
  have e1 : num w 25 5 = 5 := by unfold num; omega
  have e2 : bitAt w 8 = false := bitAt_false (by omega)
  have g1 : bitAt w 30 = st := bitAt_eq (by omega)
  have g2 : fld w 20 5 = rd := fld_eq (by omega)
  have g3 : fld w 15 5 = base := fld_eq (by omega)
  have g4 : bitAt w 14 = sp := bitAt_eq (by omega)
  have g5 : fld w 11 3 = sz := fld_eq (by omega)
  have g6 : fld w 9 2 = cls := fld_eq (by omega)
  have g7 : fld w 0 8 = off := fld_eq (by omega)
  unfold decode32
  rw [e1]
  cases c
  · unfold decodeA; rw [e1]; rw [e2]; rw [g1, g2, g3, g4, g5, g6, g7]; all_goals rfl
  · exact nomatch hc
  · exact nomatch hc
  · exact nomatch hc

theorem stOrdered (st : Bool) (rd : BitVec 5) (base : BitVec 5) (sz : BitVec 3) (cls : BitVec 2) (ord : BitVec 2) (scope : BitVec 3) : Statement (.stOrdered st rd base sz cls ord scope) := by
  have b1 := st.toNat_lt
  have b2 := rd.isLt
  have b3 := base.isLt
  have b4 := sz.isLt
  have b5 := cls.isLt
  have b6 := ord.isLt
  have b7 := scope.isLt
  obtain ⟨w, hw⟩ : ∃ w, encode (.stOrdered st rd base sz cls ord scope) = w := ⟨_, rfl⟩
  have hw' : w = st.toNat * 2 ^ 30 + (rd.toNat * 2 ^ 20 + (base.toNat * 2 ^ 15 + (sz.toNat * 2 ^ 11 + (cls.toNat * 2 ^ 9 + (ord.toNat * 2 ^ 6 + (scope.toNat * 2 ^ 3 + 0x8A000100)))))) := hw.symm
  refine long_of rfl hw (by omega) (by omega) (fun c hc => ?_)
  have e1 : num w 25 5 = 5 := by unfold num; omega
  have e2 : bitAt w 8 = true := bitAt_true (by omega)
  have g1 : bitAt w 30 = st := bitAt_eq (by omega)
  have g2 : fld w 20 5 = rd := fld_eq (by omega)
  have g3 : fld w 15 5 = base := fld_eq (by omega)
  have g4 : fld w 11 3 = sz := fld_eq (by omega)
  have g5 : fld w 9 2 = cls := fld_eq (by omega)
  have g6 : fld w 6 2 = ord := fld_eq (by omega)
  have g7 : fld w 3 3 = scope := fld_eq (by omega)
  unfold decode32
  rw [e1]
  cases c
  · unfold decodeA; rw [e1]; rw [e2]; rw [g1, g2, g3, g4, g5, g6, g7]; all_goals rfl
  · exact nomatch hc
  · exact nomatch hc
  · exact nomatch hc

theorem stb (st : Bool) (b : BitVec 4) (base : BitVec 5) (sp : Bool) (cls : BitVec 2) (off : BitVec 12) : Statement (.stb st b base sp cls off) := by
  have b1 := st.toNat_lt
  have b2 := b.isLt
  have b3 := base.isLt
  have b4 := sp.toNat_lt
  have b5 := cls.isLt
  have b6 := off.isLt
  obtain ⟨w, hw⟩ : ∃ w, encode (.stb st b base sp cls off) = w := ⟨_, rfl⟩
  have hw' : w = st.toNat * 2 ^ 30 + (b.toNat * 2 ^ 21 + (base.toNat * 2 ^ 16 + (sp.toNat * 2 ^ 15 + (cls.toNat * 2 ^ 13 + (off.toNat * 2 ^ 0 + 0x88000000))))) := hw.symm
  refine long_of rfl hw (by omega) (by omega) (fun c hc => ?_)
  have e1 : num w 25 5 = 4 := by unfold num; omega
  have e2 : bitAt w 12 = false := bitAt_false (by omega)
  have g1 : bitAt w 30 = st := bitAt_eq (by omega)
  have g2 : fld w 21 4 = b := fld_eq (by omega)
  have g3 : fld w 16 5 = base := fld_eq (by omega)
  have g4 : bitAt w 15 = sp := bitAt_eq (by omega)
  have g5 : fld w 13 2 = cls := fld_eq (by omega)
  have g6 : fld w 0 12 = off := fld_eq (by omega)
  unfold decode32
  rw [e1]
  cases c
  · exact nomatch hc
  · exact nomatch hc
  · exact nomatch hc
  · unfold decodeS; rw [e1]; rw [e2]; rw [g1, g2, g3, g4, g5, g6]; all_goals rfl

theorem stbOrdered (st : Bool) (b : BitVec 4) (base : BitVec 5) (cls : BitVec 2) (ord : BitVec 2) (scope : BitVec 3) : Statement (.stbOrdered st b base cls ord scope) := by
  have b1 := st.toNat_lt
  have b2 := b.isLt
  have b3 := base.isLt
  have b4 := cls.isLt
  have b5 := ord.isLt
  have b6 := scope.isLt
  obtain ⟨w, hw⟩ : ∃ w, encode (.stbOrdered st b base cls ord scope) = w := ⟨_, rfl⟩
  have hw' : w = st.toNat * 2 ^ 30 + (b.toNat * 2 ^ 21 + (base.toNat * 2 ^ 16 + (cls.toNat * 2 ^ 13 + (ord.toNat * 2 ^ 10 + (scope.toNat * 2 ^ 7 + 0x88001000))))) := hw.symm
  refine long_of rfl hw (by omega) (by omega) (fun c hc => ?_)
  have e1 : num w 25 5 = 4 := by unfold num; omega
  have e2 : bitAt w 12 = true := bitAt_true (by omega)
  have g1 : bitAt w 30 = st := bitAt_eq (by omega)
  have g2 : fld w 21 4 = b := fld_eq (by omega)
  have g3 : fld w 16 5 = base := fld_eq (by omega)
  have g4 : fld w 13 2 = cls := fld_eq (by omega)
  have g5 : fld w 10 2 = ord := fld_eq (by omega)
  have g6 : fld w 7 3 = scope := fld_eq (by omega)
  unfold decode32
  rw [e1]
  cases c
  · exact nomatch hc
  · exact nomatch hc
  · exact nomatch hc
  · unfold decodeS; rw [e1]; rw [e2]; rw [g1, g2, g3, g4, g5, g6]; all_goals rfl

theorem stsc (st : Bool) (bd : BitVec 4) (bi : BitVec 4) (base : BitVec 5) (cls : BitVec 2) (esz : BitVec 2) (sh : BitVec 3) (sp : Bool) : Statement (.stsc st bd bi base cls esz sh sp) := by
  have b1 := st.toNat_lt
  have b2 := bd.isLt
  have b3 := bi.isLt
  have b4 := base.isLt
  have b5 := cls.isLt
  have b6 := esz.isLt
  have b7 := sh.isLt
  have b8 := sp.toNat_lt
  obtain ⟨w, hw⟩ : ∃ w, encode (.stsc st bd bi base cls esz sh sp) = w := ⟨_, rfl⟩
  have hw' : w = st.toNat * 2 ^ 30 + (bd.toNat * 2 ^ 21 + (bi.toNat * 2 ^ 17 + (base.toNat * 2 ^ 12 + (cls.toNat * 2 ^ 10 + (esz.toNat * 2 ^ 8 + (sh.toNat * 2 ^ 5 + (sp.toNat * 2 ^ 4 + 0x8A000000))))))) := hw.symm
  refine long_of rfl hw (by omega) (by omega) (fun c hc => ?_)
  have e1 : num w 25 5 = 5 := by unfold num; omega
  have g1 : bitAt w 30 = st := bitAt_eq (by omega)
  have g2 : fld w 21 4 = bd := fld_eq (by omega)
  have g3 : fld w 17 4 = bi := fld_eq (by omega)
  have g4 : fld w 12 5 = base := fld_eq (by omega)
  have g5 : fld w 10 2 = cls := fld_eq (by omega)
  have g6 : fld w 8 2 = esz := fld_eq (by omega)
  have g7 : fld w 5 3 = sh := fld_eq (by omega)
  have g8 : bitAt w 4 = sp := bitAt_eq (by omega)
  unfold decode32
  rw [e1]
  cases c
  · exact nomatch hc
  · exact nomatch hc
  · exact nomatch hc
  · unfold decodeS; rw [e1]; rw [g1, g2, g3, g4, g5, g6, g7, g8]; all_goals rfl

theorem sub (st : Bool) (rd : BitVec 5) (rs1 : BitVec 5) (rs2 : BitVec 5) : Statement (.sub st rd rs1 rs2) := by
  have b1 := st.toNat_lt
  have b2 := rd.isLt
  have b3 := rs1.isLt
  have b4 := rs2.isLt
  obtain ⟨w, hw⟩ : ∃ w, encode (.sub st rd rs1 rs2) = w := ⟨_, rfl⟩
  have hw' : w = st.toNat * 2 ^ 30 + (rd.toNat * 2 ^ 20 + (rs1.toNat * 2 ^ 15 + (rs2.toNat * 2 ^ 10 + 0x80000020))) := hw.symm
  refine long_of rfl hw (by omega) (by omega) (fun c hc => ?_)
  have e1 : num w 25 5 = 0 := by unfold num; omega
  have e2 : num w 5 5 = 1 := by unfold num; omega
  have g1 : bitAt w 30 = st := bitAt_eq (by omega)
  have g2 : fld w 20 5 = rd := fld_eq (by omega)
  have g3 : fld w 15 5 = rs1 := fld_eq (by omega)
  have g4 : fld w 10 5 = rs2 := fld_eq (by omega)
  unfold decode32
  rw [e1]
  cases c
  · unfold decodeA; rw [e1]; unfold decodeR; rw [e2]; rw [g1, g2, g3, g4]; all_goals rfl
  · exact nomatch hc
  · unfold decodeM; rw [e1]; unfold decodeR; rw [e2]; rw [g1, g2, g3, g4]; all_goals rfl
  · unfold decodeS; rw [e1]; unfold decodeR; rw [e2]; rw [g1, g2, g3, g4]; all_goals rfl

theorem sub16 (st : Bool) (rd : BitVec 5) (rs : BitVec 5) : Statement (.sub16 st rd rs) := by
  have b1 := st.toNat_lt
  have b2 := rd.isLt
  have b3 := rs.isLt
  obtain ⟨w, hw⟩ : ∃ w, encode (.sub16 st rd rs) = w := ⟨_, rfl⟩
  have hw' : w = st.toNat * 2 ^ 14 + (rd.toNat * 2 ^ 5 + (rs.toNat * 2 ^ 0 + 0x1000)) := hw.symm
  refine short_of rfl hw (by omega) (fun c hc => ?_)
  have e1 : num w 10 4 = 4 := by unfold num; omega
  have g1 : bitAt w 14 = st := bitAt_eq (by omega)
  have g2 : fld w 5 5 = rd := fld_eq (by omega)
  have g3 : fld w 0 5 = rs := fld_eq (by omega)
  cases c
  · unfold decode16; rw [e1]; rw [g1, g2, g3]; all_goals rfl
  · exact nomatch hc
  · unfold decode16; rw [e1]; rw [g1, g2, g3]; all_goals rfl
  · unfold decode16; rw [e1]; rw [g1, g2, g3]; all_goals rfl

theorem trap (st : Bool) (imm : BitVec 16) : Statement (.trap st imm) := by
  have b1 := st.toNat_lt
  have b2 := imm.isLt
  obtain ⟨w, hw⟩ : ∃ w, encode (.trap st imm) = w := ⟨_, rfl⟩
  have hw' : w = st.toNat * 2 ^ 30 + (imm.toNat * 2 ^ 0 + 0xB4200000) := hw.symm
  refine long_of rfl hw (by omega) (by omega) (fun c hc => ?_)
  have e1 : num w 25 5 = 26 := by unfold num; omega
  have e2 : num w 20 5 = 2 := by unfold num; omega
  have g1 : bitAt w 30 = st := bitAt_eq (by omega)
  have g2 : fld w 0 16 = imm := fld_eq (by omega)
  unfold decode32
  rw [e1]
  unfold decodeSystem
  rw [e2]
  rw [g1, g2]
  all_goals rfl

theorem tret (st : Bool) : Statement (.tret st) := by
  have b1 := st.toNat_lt
  obtain ⟨w, hw⟩ : ∃ w, encode (.tret st) = w := ⟨_, rfl⟩
  have hw' : w = st.toNat * 2 ^ 30 + 0xB4300000 := hw.symm
  refine long_of rfl hw (by omega) (by omega) (fun c hc => ?_)
  have e1 : num w 25 5 = 26 := by unfold num; omega
  have e2 : num w 20 5 = 3 := by unfold num; omega
  have g1 : bitAt w 30 = st := bitAt_eq (by omega)
  unfold decode32
  rw [e1]
  unfold decodeSystem
  rw [e2]
  rw [g1]
  all_goals rfl

theorem vadd (st : Bool) (d : BitVec 7) (a : BitVec 7) (b : BitVec 7) (m : Bool) : Statement (.vadd st d a b m) := by
  have b1 := st.toNat_lt
  have b2 := d.isLt
  have b3 := a.isLt
  have b4 := b.isLt
  have b5 := m.toNat_lt
  obtain ⟨w, hw⟩ : ∃ w, encode (.vadd st d a b m) = w := ⟨_, rfl⟩
  have hw' : w = st.toNat * 2 ^ 30 + (d.toNat * 2 ^ 18 + (a.toNat * 2 ^ 11 + (b.toNat * 2 ^ 4 + (m.toNat * 2 ^ 3 + 0x84000000)))) := hw.symm
  refine long_of rfl hw (by omega) (by omega) (fun c hc => ?_)
  have e1 : num w 25 5 = 2 := by unfold num; omega
  have e2 : num w 0 3 = 0 := by unfold num; omega
  have g1 : bitAt w 30 = st := bitAt_eq (by omega)
  have g2 : fld w 18 7 = d := fld_eq (by omega)
  have g3 : fld w 11 7 = a := fld_eq (by omega)
  have g4 : fld w 4 7 = b := fld_eq (by omega)
  have g5 : bitAt w 3 = m := bitAt_eq (by omega)
  unfold decode32
  rw [e1]
  cases c
  · exact nomatch hc
  · unfold decodeV; rw [e1]; unfold decodeVint; rw [e2]; rw [g1, g2, g3, g4, g5]; all_goals rfl
  · exact nomatch hc
  · exact nomatch hc

theorem vbcast (st : Bool) (d : BitVec 7) (a : BitVec 7) (n : BitVec 6) (m : Bool) : Statement (.vbcast st d a n m) := by
  have b1 := st.toNat_lt
  have b2 := d.isLt
  have b3 := a.isLt
  have b4 := n.isLt
  have b5 := m.toNat_lt
  obtain ⟨w, hw⟩ : ∃ w, encode (.vbcast st d a n m) = w := ⟨_, rfl⟩
  have hw' : w = st.toNat * 2 ^ 30 + (d.toNat * 2 ^ 18 + (a.toNat * 2 ^ 11 + (n.toNat * 2 ^ 5 + (m.toNat * 2 ^ 2 + 0x9E000000)))) := hw.symm
  refine long_of rfl hw (by omega) (by omega) (fun c hc => ?_)
  have e1 : num w 25 5 = 15 := by unfold num; omega
  have e2 : num w 3 2 = 0 := by unfold num; omega
  have g1 : bitAt w 30 = st := bitAt_eq (by omega)
  have g2 : fld w 18 7 = d := fld_eq (by omega)
  have g3 : fld w 11 7 = a := fld_eq (by omega)
  have g4 : fld w 5 6 = n := fld_eq (by omega)
  have g5 : bitAt w 2 = m := bitAt_eq (by omega)
  unfold decode32
  rw [e1]
  cases c
  · exact nomatch hc
  · unfold decodeV; rw [e1]; unfold decodeVl; rw [e2]; rw [g1, g2, g3, g4, g5]; all_goals rfl
  · exact nomatch hc
  · exact nomatch hc

theorem vcmp (st : Bool) (d : BitVec 7) (a : BitVec 7) (b : BitVec 7) (m : Bool) (cond : BitVec 3) : Statement (.vcmp st d a b m cond) := by
  have b1 := st.toNat_lt
  have b2 := d.isLt
  have b3 := a.isLt
  have b4 := b.isLt
  have b5 := m.toNat_lt
  have b6 := cond.isLt
  obtain ⟨w, hw⟩ : ∃ w, encode (.vcmp st d a b m cond) = w := ⟨_, rfl⟩
  have hw' : w = st.toNat * 2 ^ 30 + (d.toNat * 2 ^ 18 + (a.toNat * 2 ^ 11 + (b.toNat * 2 ^ 4 + (m.toNat * 2 ^ 3 + (cond.toNat * 2 ^ 0 + 0x8A000000))))) := hw.symm
  refine long_of rfl hw (by omega) (by omega) (fun c hc => ?_)
  have e1 : num w 25 5 = 5 := by unfold num; omega
  have g1 : bitAt w 30 = st := bitAt_eq (by omega)
  have g2 : fld w 18 7 = d := fld_eq (by omega)
  have g3 : fld w 11 7 = a := fld_eq (by omega)
  have g4 : fld w 4 7 = b := fld_eq (by omega)
  have g5 : bitAt w 3 = m := bitAt_eq (by omega)
  have g6 : fld w 0 3 = cond := fld_eq (by omega)
  unfold decode32
  rw [e1]
  cases c
  · exact nomatch hc
  · unfold decodeV; rw [e1]; rw [g1, g2, g3, g4, g5, g6]; all_goals rfl
  · exact nomatch hc
  · exact nomatch hc

theorem vcvt (st : Bool) (d : BitVec 7) (a : BitVec 7) (dty : BitVec 4) (sty : BitVec 4) (part : BitVec 2) (m : Bool) : Statement (.vcvt st d a dty sty part m) := by
  have b1 := st.toNat_lt
  have b2 := d.isLt
  have b3 := a.isLt
  have b4 := dty.isLt
  have b5 := sty.isLt
  have b6 := part.isLt
  have b7 := m.toNat_lt
  obtain ⟨w, hw⟩ : ∃ w, encode (.vcvt st d a dty sty part m) = w := ⟨_, rfl⟩
  have hw' : w = st.toNat * 2 ^ 30 + (d.toNat * 2 ^ 18 + (a.toNat * 2 ^ 11 + (dty.toNat * 2 ^ 7 + (sty.toNat * 2 ^ 3 + (part.toNat * 2 ^ 1 + (m.toNat * 2 ^ 0 + 0x98000000)))))) := hw.symm
  refine long_of rfl hw (by omega) (by omega) (fun c hc => ?_)
  have e1 : num w 25 5 = 12 := by unfold num; omega
  have g1 : bitAt w 30 = st := bitAt_eq (by omega)
  have g2 : fld w 18 7 = d := fld_eq (by omega)
  have g3 : fld w 11 7 = a := fld_eq (by omega)
  have g4 : fld w 7 4 = dty := fld_eq (by omega)
  have g5 : fld w 3 4 = sty := fld_eq (by omega)
  have g6 : fld w 1 2 = part := fld_eq (by omega)
  have g7 : bitAt w 0 = m := bitAt_eq (by omega)
  unfold decode32
  rw [e1]
  cases c
  · exact nomatch hc
  · unfold decodeV; rw [e1]; rw [g1, g2, g3, g4, g5, g6, g7]; all_goals rfl
  · exact nomatch hc
  · exact nomatch hc

theorem vfabs (st : Bool) (d : BitVec 7) (a : BitVec 7) (m : Bool) : Statement (.vfabs st d a m) := by
  have b1 := st.toNat_lt
  have b2 := d.isLt
  have b3 := a.isLt
  have b4 := m.toNat_lt
  obtain ⟨w, hw⟩ : ∃ w, encode (.vfabs st d a m) = w := ⟨_, rfl⟩
  have hw' : w = st.toNat * 2 ^ 30 + (d.toNat * 2 ^ 18 + (a.toNat * 2 ^ 11 + (m.toNat * 2 ^ 3 + 0x82000040))) := hw.symm
  refine long_of rfl hw (by omega) (by omega) (fun c hc => ?_)
  have e1 : num w 25 5 = 1 := by unfold num; omega
  have e2 : num w 4 7 = 4 := by unfold num; omega
  have g1 : bitAt w 30 = st := bitAt_eq (by omega)
  have g2 : fld w 18 7 = d := fld_eq (by omega)
  have g3 : fld w 11 7 = a := fld_eq (by omega)
  have g4 : bitAt w 3 = m := bitAt_eq (by omega)
  unfold decode32
  rw [e1]
  cases c
  · exact nomatch hc
  · unfold decodeV; rw [e1]; unfold decodeVu; rw [e2]; rw [g1, g2, g3, g4]; all_goals rfl
  · exact nomatch hc
  · exact nomatch hc

theorem vfadd (st : Bool) (d : BitVec 7) (a : BitVec 7) (b : BitVec 7) (m : Bool) : Statement (.vfadd st d a b m) := by
  have b1 := st.toNat_lt
  have b2 := d.isLt
  have b3 := a.isLt
  have b4 := b.isLt
  have b5 := m.toNat_lt
  obtain ⟨w, hw⟩ : ∃ w, encode (.vfadd st d a b m) = w := ⟨_, rfl⟩
  have hw' : w = st.toNat * 2 ^ 30 + (d.toNat * 2 ^ 18 + (a.toNat * 2 ^ 11 + (b.toNat * 2 ^ 4 + (m.toNat * 2 ^ 3 + 0x80000000)))) := hw.symm
  refine long_of rfl hw (by omega) (by omega) (fun c hc => ?_)
  have e1 : num w 25 5 = 0 := by unfold num; omega
  have e2 : num w 0 3 = 0 := by unfold num; omega
  have g1 : bitAt w 30 = st := bitAt_eq (by omega)
  have g2 : fld w 18 7 = d := fld_eq (by omega)
  have g3 : fld w 11 7 = a := fld_eq (by omega)
  have g4 : fld w 4 7 = b := fld_eq (by omega)
  have g5 : bitAt w 3 = m := bitAt_eq (by omega)
  unfold decode32
  rw [e1]
  cases c
  · exact nomatch hc
  · unfold decodeV; rw [e1]; unfold decodeVfp; rw [e2]; rw [g1, g2, g3, g4, g5]; all_goals rfl
  · exact nomatch hc
  · exact nomatch hc

theorem vfclass (st : Bool) (d : BitVec 7) (a : BitVec 7) (m : Bool) : Statement (.vfclass st d a m) := by
  have b1 := st.toNat_lt
  have b2 := d.isLt
  have b3 := a.isLt
  have b4 := m.toNat_lt
  obtain ⟨w, hw⟩ : ∃ w, encode (.vfclass st d a m) = w := ⟨_, rfl⟩
  have hw' : w = st.toNat * 2 ^ 30 + (d.toNat * 2 ^ 18 + (a.toNat * 2 ^ 11 + (m.toNat * 2 ^ 3 + 0x82000050))) := hw.symm
  refine long_of rfl hw (by omega) (by omega) (fun c hc => ?_)
  have e1 : num w 25 5 = 1 := by unfold num; omega
  have e2 : num w 4 7 = 5 := by unfold num; omega
  have g1 : bitAt w 30 = st := bitAt_eq (by omega)
  have g2 : fld w 18 7 = d := fld_eq (by omega)
  have g3 : fld w 11 7 = a := fld_eq (by omega)
  have g4 : bitAt w 3 = m := bitAt_eq (by omega)
  unfold decode32
  rw [e1]
  cases c
  · exact nomatch hc
  · unfold decodeV; rw [e1]; unfold decodeVu; rw [e2]; rw [g1, g2, g3, g4]; all_goals rfl
  · exact nomatch hc
  · exact nomatch hc

theorem vfcmp (st : Bool) (d : BitVec 7) (a : BitVec 7) (b : BitVec 7) (m : Bool) (cond : BitVec 3) : Statement (.vfcmp st d a b m cond) := by
  have b1 := st.toNat_lt
  have b2 := d.isLt
  have b3 := a.isLt
  have b4 := b.isLt
  have b5 := m.toNat_lt
  have b6 := cond.isLt
  obtain ⟨w, hw⟩ : ∃ w, encode (.vfcmp st d a b m cond) = w := ⟨_, rfl⟩
  have hw' : w = st.toNat * 2 ^ 30 + (d.toNat * 2 ^ 18 + (a.toNat * 2 ^ 11 + (b.toNat * 2 ^ 4 + (m.toNat * 2 ^ 3 + (cond.toNat * 2 ^ 0 + 0x88000000))))) := hw.symm
  refine long_of rfl hw (by omega) (by omega) (fun c hc => ?_)
  have e1 : num w 25 5 = 4 := by unfold num; omega
  have g1 : bitAt w 30 = st := bitAt_eq (by omega)
  have g2 : fld w 18 7 = d := fld_eq (by omega)
  have g3 : fld w 11 7 = a := fld_eq (by omega)
  have g4 : fld w 4 7 = b := fld_eq (by omega)
  have g5 : bitAt w 3 = m := bitAt_eq (by omega)
  have g6 : fld w 0 3 = cond := fld_eq (by omega)
  unfold decode32
  rw [e1]
  cases c
  · exact nomatch hc
  · unfold decodeV; rw [e1]; rw [g1, g2, g3, g4, g5, g6]; all_goals rfl
  · exact nomatch hc
  · exact nomatch hc

theorem vfdiv (st : Bool) (d : BitVec 7) (a : BitVec 7) (b : BitVec 7) (m : Bool) : Statement (.vfdiv st d a b m) := by
  have b1 := st.toNat_lt
  have b2 := d.isLt
  have b3 := a.isLt
  have b4 := b.isLt
  have b5 := m.toNat_lt
  obtain ⟨w, hw⟩ : ∃ w, encode (.vfdiv st d a b m) = w := ⟨_, rfl⟩
  have hw' : w = st.toNat * 2 ^ 30 + (d.toNat * 2 ^ 18 + (a.toNat * 2 ^ 11 + (b.toNat * 2 ^ 4 + (m.toNat * 2 ^ 3 + 0x80000005)))) := hw.symm
  refine long_of rfl hw (by omega) (by omega) (fun c hc => ?_)
  have e1 : num w 25 5 = 0 := by unfold num; omega
  have e2 : num w 0 3 = 5 := by unfold num; omega
  have g1 : bitAt w 30 = st := bitAt_eq (by omega)
  have g2 : fld w 18 7 = d := fld_eq (by omega)
  have g3 : fld w 11 7 = a := fld_eq (by omega)
  have g4 : fld w 4 7 = b := fld_eq (by omega)
  have g5 : bitAt w 3 = m := bitAt_eq (by omega)
  unfold decode32
  rw [e1]
  cases c
  · exact nomatch hc
  · unfold decodeV; rw [e1]; unfold decodeVfp; rw [e2]; rw [g1, g2, g3, g4, g5]; all_goals rfl
  · exact nomatch hc
  · exact nomatch hc

theorem vfexp2 (st : Bool) (d : BitVec 7) (a : BitVec 7) (m : Bool) : Statement (.vfexp2 st d a m) := by
  have b1 := st.toNat_lt
  have b2 := d.isLt
  have b3 := a.isLt
  have b4 := m.toNat_lt
  obtain ⟨w, hw⟩ : ∃ w, encode (.vfexp2 st d a m) = w := ⟨_, rfl⟩
  have hw' : w = st.toNat * 2 ^ 30 + (d.toNat * 2 ^ 18 + (a.toNat * 2 ^ 11 + (m.toNat * 2 ^ 3 + 0x82000020))) := hw.symm
  refine long_of rfl hw (by omega) (by omega) (fun c hc => ?_)
  have e1 : num w 25 5 = 1 := by unfold num; omega
  have e2 : num w 4 7 = 2 := by unfold num; omega
  have g1 : bitAt w 30 = st := bitAt_eq (by omega)
  have g2 : fld w 18 7 = d := fld_eq (by omega)
  have g3 : fld w 11 7 = a := fld_eq (by omega)
  have g4 : bitAt w 3 = m := bitAt_eq (by omega)
  unfold decode32
  rw [e1]
  cases c
  · exact nomatch hc
  · unfold decodeV; rw [e1]; unfold decodeVu; rw [e2]; rw [g1, g2, g3, g4]; all_goals rfl
  · exact nomatch hc
  · exact nomatch hc

theorem vfill (st : Bool) (r : BitVec 7) (slot : BitVec 11) (p : Bool) : Statement (.vfill st r slot p) := by
  have b1 := st.toNat_lt
  have b2 := r.isLt
  have b3 := slot.isLt
  have b4 := p.toNat_lt
  obtain ⟨w, hw⟩ : ∃ w, encode (.vfill st r slot p) = w := ⟨_, rfl⟩
  have hw' : w = st.toNat * 2 ^ 30 + (r.toNat * 2 ^ 18 + (slot.toNat * 2 ^ 7 + (p.toNat * 2 ^ 6 + 0xA0000020))) := hw.symm
  refine long_of rfl hw (by omega) (by omega) (fun c hc => ?_)
  have e1 : num w 25 5 = 16 := by unfold num; omega
  have e2 : bitAt w 5 = true := bitAt_true (by omega)
  have g1 : bitAt w 30 = st := bitAt_eq (by omega)
  have g2 : fld w 18 7 = r := fld_eq (by omega)
  have g3 : fld w 7 11 = slot := fld_eq (by omega)
  have g4 : bitAt w 6 = p := bitAt_eq (by omega)
  unfold decode32
  rw [e1]
  cases c
  · exact nomatch hc
  · unfold decodeV; rw [e1]; rw [e2]; rw [g1, g2, g3, g4]; all_goals rfl
  · exact nomatch hc
  · exact nomatch hc

theorem vflog2 (st : Bool) (d : BitVec 7) (a : BitVec 7) (m : Bool) : Statement (.vflog2 st d a m) := by
  have b1 := st.toNat_lt
  have b2 := d.isLt
  have b3 := a.isLt
  have b4 := m.toNat_lt
  obtain ⟨w, hw⟩ : ∃ w, encode (.vflog2 st d a m) = w := ⟨_, rfl⟩
  have hw' : w = st.toNat * 2 ^ 30 + (d.toNat * 2 ^ 18 + (a.toNat * 2 ^ 11 + (m.toNat * 2 ^ 3 + 0x82000030))) := hw.symm
  refine long_of rfl hw (by omega) (by omega) (fun c hc => ?_)
  have e1 : num w 25 5 = 1 := by unfold num; omega
  have e2 : num w 4 7 = 3 := by unfold num; omega
  have g1 : bitAt w 30 = st := bitAt_eq (by omega)
  have g2 : fld w 18 7 = d := fld_eq (by omega)
  have g3 : fld w 11 7 = a := fld_eq (by omega)
  have g4 : bitAt w 3 = m := bitAt_eq (by omega)
  unfold decode32
  rw [e1]
  cases c
  · exact nomatch hc
  · unfold decodeV; rw [e1]; unfold decodeVu; rw [e2]; rw [g1, g2, g3, g4]; all_goals rfl
  · exact nomatch hc
  · exact nomatch hc

theorem vfma (st : Bool) (d : BitVec 7) (a : BitVec 7) (b : BitVec 7) (c' : BitVec 4) : Statement (.vfma st d a b c') := by
  have b1 := st.toNat_lt
  have b2 := d.isLt
  have b3 := a.isLt
  have b4 := b.isLt
  have b5 := c'.isLt
  obtain ⟨w, hw⟩ : ∃ w, encode (.vfma st d a b c') = w := ⟨_, rfl⟩
  have hw' : w = st.toNat * 2 ^ 30 + (d.toNat * 2 ^ 18 + (a.toNat * 2 ^ 11 + (b.toNat * 2 ^ 4 + (c'.toNat * 2 ^ 0 + 0x8C000000)))) := hw.symm
  refine long_of rfl hw (by omega) (by omega) (fun c hc => ?_)
  have e1 : num w 25 5 = 6 := by unfold num; omega
  have g1 : bitAt w 30 = st := bitAt_eq (by omega)
  have g2 : fld w 18 7 = d := fld_eq (by omega)
  have g3 : fld w 11 7 = a := fld_eq (by omega)
  have g4 : fld w 4 7 = b := fld_eq (by omega)
  have g5 : fld w 0 4 = c' := fld_eq (by omega)
  unfold decode32
  rw [e1]
  cases c
  · exact nomatch hc
  · unfold decodeV; rw [e1]; rw [g1, g2, g3, g4, g5]; all_goals rfl
  · exact nomatch hc
  · exact nomatch hc

theorem vfmax (st : Bool) (d : BitVec 7) (a : BitVec 7) (b : BitVec 7) (m : Bool) : Statement (.vfmax st d a b m) := by
  have b1 := st.toNat_lt
  have b2 := d.isLt
  have b3 := a.isLt
  have b4 := b.isLt
  have b5 := m.toNat_lt
  obtain ⟨w, hw⟩ : ∃ w, encode (.vfmax st d a b m) = w := ⟨_, rfl⟩
  have hw' : w = st.toNat * 2 ^ 30 + (d.toNat * 2 ^ 18 + (a.toNat * 2 ^ 11 + (b.toNat * 2 ^ 4 + (m.toNat * 2 ^ 3 + 0x80000004)))) := hw.symm
  refine long_of rfl hw (by omega) (by omega) (fun c hc => ?_)
  have e1 : num w 25 5 = 0 := by unfold num; omega
  have e2 : num w 0 3 = 4 := by unfold num; omega
  have g1 : bitAt w 30 = st := bitAt_eq (by omega)
  have g2 : fld w 18 7 = d := fld_eq (by omega)
  have g3 : fld w 11 7 = a := fld_eq (by omega)
  have g4 : fld w 4 7 = b := fld_eq (by omega)
  have g5 : bitAt w 3 = m := bitAt_eq (by omega)
  unfold decode32
  rw [e1]
  cases c
  · exact nomatch hc
  · unfold decodeV; rw [e1]; unfold decodeVfp; rw [e2]; rw [g1, g2, g3, g4, g5]; all_goals rfl
  · exact nomatch hc
  · exact nomatch hc

theorem vfmin (st : Bool) (d : BitVec 7) (a : BitVec 7) (b : BitVec 7) (m : Bool) : Statement (.vfmin st d a b m) := by
  have b1 := st.toNat_lt
  have b2 := d.isLt
  have b3 := a.isLt
  have b4 := b.isLt
  have b5 := m.toNat_lt
  obtain ⟨w, hw⟩ : ∃ w, encode (.vfmin st d a b m) = w := ⟨_, rfl⟩
  have hw' : w = st.toNat * 2 ^ 30 + (d.toNat * 2 ^ 18 + (a.toNat * 2 ^ 11 + (b.toNat * 2 ^ 4 + (m.toNat * 2 ^ 3 + 0x80000003)))) := hw.symm
  refine long_of rfl hw (by omega) (by omega) (fun c hc => ?_)
  have e1 : num w 25 5 = 0 := by unfold num; omega
  have e2 : num w 0 3 = 3 := by unfold num; omega
  have g1 : bitAt w 30 = st := bitAt_eq (by omega)
  have g2 : fld w 18 7 = d := fld_eq (by omega)
  have g3 : fld w 11 7 = a := fld_eq (by omega)
  have g4 : fld w 4 7 = b := fld_eq (by omega)
  have g5 : bitAt w 3 = m := bitAt_eq (by omega)
  unfold decode32
  rw [e1]
  cases c
  · exact nomatch hc
  · unfold decodeV; rw [e1]; unfold decodeVfp; rw [e2]; rw [g1, g2, g3, g4, g5]; all_goals rfl
  · exact nomatch hc
  · exact nomatch hc

theorem vfmul (st : Bool) (d : BitVec 7) (a : BitVec 7) (b : BitVec 7) (m : Bool) : Statement (.vfmul st d a b m) := by
  have b1 := st.toNat_lt
  have b2 := d.isLt
  have b3 := a.isLt
  have b4 := b.isLt
  have b5 := m.toNat_lt
  obtain ⟨w, hw⟩ : ∃ w, encode (.vfmul st d a b m) = w := ⟨_, rfl⟩
  have hw' : w = st.toNat * 2 ^ 30 + (d.toNat * 2 ^ 18 + (a.toNat * 2 ^ 11 + (b.toNat * 2 ^ 4 + (m.toNat * 2 ^ 3 + 0x80000002)))) := hw.symm
  refine long_of rfl hw (by omega) (by omega) (fun c hc => ?_)
  have e1 : num w 25 5 = 0 := by unfold num; omega
  have e2 : num w 0 3 = 2 := by unfold num; omega
  have g1 : bitAt w 30 = st := bitAt_eq (by omega)
  have g2 : fld w 18 7 = d := fld_eq (by omega)
  have g3 : fld w 11 7 = a := fld_eq (by omega)
  have g4 : fld w 4 7 = b := fld_eq (by omega)
  have g5 : bitAt w 3 = m := bitAt_eq (by omega)
  unfold decode32
  rw [e1]
  cases c
  · exact nomatch hc
  · unfold decodeV; rw [e1]; unfold decodeVfp; rw [e2]; rw [g1, g2, g3, g4, g5]; all_goals rfl
  · exact nomatch hc
  · exact nomatch hc

theorem vfnma (st : Bool) (d : BitVec 7) (a : BitVec 7) (b : BitVec 7) (c' : BitVec 4) : Statement (.vfnma st d a b c') := by
  have b1 := st.toNat_lt
  have b2 := d.isLt
  have b3 := a.isLt
  have b4 := b.isLt
  have b5 := c'.isLt
  obtain ⟨w, hw⟩ : ∃ w, encode (.vfnma st d a b c') = w := ⟨_, rfl⟩
  have hw' : w = st.toNat * 2 ^ 30 + (d.toNat * 2 ^ 18 + (a.toNat * 2 ^ 11 + (b.toNat * 2 ^ 4 + (c'.toNat * 2 ^ 0 + 0x8E000000)))) := hw.symm
  refine long_of rfl hw (by omega) (by omega) (fun c hc => ?_)
  have e1 : num w 25 5 = 7 := by unfold num; omega
  have g1 : bitAt w 30 = st := bitAt_eq (by omega)
  have g2 : fld w 18 7 = d := fld_eq (by omega)
  have g3 : fld w 11 7 = a := fld_eq (by omega)
  have g4 : fld w 4 7 = b := fld_eq (by omega)
  have g5 : fld w 0 4 = c' := fld_eq (by omega)
  unfold decode32
  rw [e1]
  cases c
  · exact nomatch hc
  · unfold decodeV; rw [e1]; rw [g1, g2, g3, g4, g5]; all_goals rfl
  · exact nomatch hc
  · exact nomatch hc

theorem vfrcp (st : Bool) (d : BitVec 7) (a : BitVec 7) (m : Bool) : Statement (.vfrcp st d a m) := by
  have b1 := st.toNat_lt
  have b2 := d.isLt
  have b3 := a.isLt
  have b4 := m.toNat_lt
  obtain ⟨w, hw⟩ : ∃ w, encode (.vfrcp st d a m) = w := ⟨_, rfl⟩
  have hw' : w = st.toNat * 2 ^ 30 + (d.toNat * 2 ^ 18 + (a.toNat * 2 ^ 11 + (m.toNat * 2 ^ 3 + 0x82000010))) := hw.symm
  refine long_of rfl hw (by omega) (by omega) (fun c hc => ?_)
  have e1 : num w 25 5 = 1 := by unfold num; omega
  have e2 : num w 4 7 = 1 := by unfold num; omega
  have g1 : bitAt w 30 = st := bitAt_eq (by omega)
  have g2 : fld w 18 7 = d := fld_eq (by omega)
  have g3 : fld w 11 7 = a := fld_eq (by omega)
  have g4 : bitAt w 3 = m := bitAt_eq (by omega)
  unfold decode32
  rw [e1]
  cases c
  · exact nomatch hc
  · unfold decodeV; rw [e1]; unfold decodeVu; rw [e2]; rw [g1, g2, g3, g4]; all_goals rfl
  · exact nomatch hc
  · exact nomatch hc

theorem vfsh (st : Bool) (d : BitVec 7) (a : BitVec 7) (b : BitVec 7) (c' : BitVec 4) : Statement (.vfsh st d a b c') := by
  have b1 := st.toNat_lt
  have b2 := d.isLt
  have b3 := a.isLt
  have b4 := b.isLt
  have b5 := c'.isLt
  obtain ⟨w, hw⟩ : ∃ w, encode (.vfsh st d a b c') = w := ⟨_, rfl⟩
  have hw' : w = st.toNat * 2 ^ 30 + (d.toNat * 2 ^ 18 + (a.toNat * 2 ^ 11 + (b.toNat * 2 ^ 4 + (c'.toNat * 2 ^ 0 + 0x94000000)))) := hw.symm
  refine long_of rfl hw (by omega) (by omega) (fun c hc => ?_)
  have e1 : num w 25 5 = 10 := by unfold num; omega
  have g1 : bitAt w 30 = st := bitAt_eq (by omega)
  have g2 : fld w 18 7 = d := fld_eq (by omega)
  have g3 : fld w 11 7 = a := fld_eq (by omega)
  have g4 : fld w 4 7 = b := fld_eq (by omega)
  have g5 : fld w 0 4 = c' := fld_eq (by omega)
  unfold decode32
  rw [e1]
  cases c
  · exact nomatch hc
  · unfold decodeV; rw [e1]; rw [g1, g2, g3, g4, g5]; all_goals rfl
  · exact nomatch hc
  · exact nomatch hc

theorem vfsqrt (st : Bool) (d : BitVec 7) (a : BitVec 7) (m : Bool) : Statement (.vfsqrt st d a m) := by
  have b1 := st.toNat_lt
  have b2 := d.isLt
  have b3 := a.isLt
  have b4 := m.toNat_lt
  obtain ⟨w, hw⟩ : ∃ w, encode (.vfsqrt st d a m) = w := ⟨_, rfl⟩
  have hw' : w = st.toNat * 2 ^ 30 + (d.toNat * 2 ^ 18 + (a.toNat * 2 ^ 11 + (m.toNat * 2 ^ 3 + 0x82000000))) := hw.symm
  refine long_of rfl hw (by omega) (by omega) (fun c hc => ?_)
  have e1 : num w 25 5 = 1 := by unfold num; omega
  have e2 : num w 4 7 = 0 := by unfold num; omega
  have g1 : bitAt w 30 = st := bitAt_eq (by omega)
  have g2 : fld w 18 7 = d := fld_eq (by omega)
  have g3 : fld w 11 7 = a := fld_eq (by omega)
  have g4 : bitAt w 3 = m := bitAt_eq (by omega)
  unfold decode32
  rw [e1]
  cases c
  · exact nomatch hc
  · unfold decodeV; rw [e1]; unfold decodeVu; rw [e2]; rw [g1, g2, g3, g4]; all_goals rfl
  · exact nomatch hc
  · exact nomatch hc

theorem vfsub (st : Bool) (d : BitVec 7) (a : BitVec 7) (b : BitVec 7) (m : Bool) : Statement (.vfsub st d a b m) := by
  have b1 := st.toNat_lt
  have b2 := d.isLt
  have b3 := a.isLt
  have b4 := b.isLt
  have b5 := m.toNat_lt
  obtain ⟨w, hw⟩ : ∃ w, encode (.vfsub st d a b m) = w := ⟨_, rfl⟩
  have hw' : w = st.toNat * 2 ^ 30 + (d.toNat * 2 ^ 18 + (a.toNat * 2 ^ 11 + (b.toNat * 2 ^ 4 + (m.toNat * 2 ^ 3 + 0x80000001)))) := hw.symm
  refine long_of rfl hw (by omega) (by omega) (fun c hc => ?_)
  have e1 : num w 25 5 = 0 := by unfold num; omega
  have e2 : num w 0 3 = 1 := by unfold num; omega
  have g1 : bitAt w 30 = st := bitAt_eq (by omega)
  have g2 : fld w 18 7 = d := fld_eq (by omega)
  have g3 : fld w 11 7 = a := fld_eq (by omega)
  have g4 : fld w 4 7 = b := fld_eq (by omega)
  have g5 : bitAt w 3 = m := bitAt_eq (by omega)
  unfold decode32
  rw [e1]
  cases c
  · exact nomatch hc
  · unfold decodeV; rw [e1]; unfold decodeVfp; rw [e2]; rw [g1, g2, g3, g4, g5]; all_goals rfl
  · exact nomatch hc
  · exact nomatch hc

theorem vgfma (st : Bool) (d : BitVec 7) (a : BitVec 7) (b : BitVec 7) (c' : BitVec 4) : Statement (.vgfma st d a b c') := by
  have b1 := st.toNat_lt
  have b2 := d.isLt
  have b3 := a.isLt
  have b4 := b.isLt
  have b5 := c'.isLt
  obtain ⟨w, hw⟩ : ∃ w, encode (.vgfma st d a b c') = w := ⟨_, rfl⟩
  have hw' : w = st.toNat * 2 ^ 30 + (d.toNat * 2 ^ 18 + (a.toNat * 2 ^ 11 + (b.toNat * 2 ^ 4 + (c'.toNat * 2 ^ 0 + 0x90000000)))) := hw.symm
  refine long_of rfl hw (by omega) (by omega) (fun c hc => ?_)
  have e1 : num w 25 5 = 8 := by unfold num; omega
  have g1 : bitAt w 30 = st := bitAt_eq (by omega)
  have g2 : fld w 18 7 = d := fld_eq (by omega)
  have g3 : fld w 11 7 = a := fld_eq (by omega)
  have g4 : fld w 4 7 = b := fld_eq (by omega)
  have g5 : fld w 0 4 = c' := fld_eq (by omega)
  unfold decode32
  rw [e1]
  cases c
  · exact nomatch hc
  · unfold decodeV; rw [e1]; rw [g1, g2, g3, g4, g5]; all_goals rfl
  · exact nomatch hc
  · exact nomatch hc

theorem vgfmul (st : Bool) (d : BitVec 7) (a : BitVec 7) (b : BitVec 7) (m : Bool) : Statement (.vgfmul st d a b m) := by
  have b1 := st.toNat_lt
  have b2 := d.isLt
  have b3 := a.isLt
  have b4 := b.isLt
  have b5 := m.toNat_lt
  obtain ⟨w, hw⟩ : ∃ w, encode (.vgfmul st d a b m) = w := ⟨_, rfl⟩
  have hw' : w = st.toNat * 2 ^ 30 + (d.toNat * 2 ^ 18 + (a.toNat * 2 ^ 11 + (b.toNat * 2 ^ 4 + (m.toNat * 2 ^ 3 + 0x86000003)))) := hw.symm
  refine long_of rfl hw (by omega) (by omega) (fun c hc => ?_)
  have e1 : num w 25 5 = 3 := by unfold num; omega
  have e2 : num w 0 3 = 3 := by unfold num; omega
  have g1 : bitAt w 30 = st := bitAt_eq (by omega)
  have g2 : fld w 18 7 = d := fld_eq (by omega)
  have g3 : fld w 11 7 = a := fld_eq (by omega)
  have g4 : fld w 4 7 = b := fld_eq (by omega)
  have g5 : bitAt w 3 = m := bitAt_eq (by omega)
  unfold decode32
  rw [e1]
  cases c
  · exact nomatch hc
  · unfold decodeV; rw [e1]; unfold decodeVbit; rw [e2]; rw [g1, g2, g3, g4, g5]; all_goals rfl
  · exact nomatch hc
  · exact nomatch hc

theorem vlog3 (st : Bool) (d : BitVec 6) (a : BitVec 7) (b : BitVec 4) (tt : BitVec 8) : Statement (.vlog3 st d a b tt) := by
  have b1 := st.toNat_lt
  have b2 := d.isLt
  have b3 := a.isLt
  have b4 := b.isLt
  have b5 := tt.isLt
  obtain ⟨w, hw⟩ : ∃ w, encode (.vlog3 st d a b tt) = w := ⟨_, rfl⟩
  have hw' : w = st.toNat * 2 ^ 30 + (d.toNat * 2 ^ 19 + (a.toNat * 2 ^ 12 + (b.toNat * 2 ^ 8 + (tt.toNat * 2 ^ 0 + 0x96000000)))) := hw.symm
  refine long_of rfl hw (by omega) (by omega) (fun c hc => ?_)
  have e1 : num w 25 5 = 11 := by unfold num; omega
  have g1 : bitAt w 30 = st := bitAt_eq (by omega)
  have g2 : fld w 19 6 = d := fld_eq (by omega)
  have g3 : fld w 12 7 = a := fld_eq (by omega)
  have g4 : fld w 8 4 = b := fld_eq (by omega)
  have g5 : fld w 0 8 = tt := fld_eq (by omega)
  unfold decode32
  rw [e1]
  cases c
  · exact nomatch hc
  · unfold decodeV; rw [e1]; rw [g1, g2, g3, g4, g5]; all_goals rfl
  · exact nomatch hc
  · exact nomatch hc

theorem vmaxS32 (st : Bool) (d : BitVec 7) (a : BitVec 7) (b : BitVec 7) (m : Bool) : Statement (.vmaxS32 st d a b m) := by
  have b1 := st.toNat_lt
  have b2 := d.isLt
  have b3 := a.isLt
  have b4 := b.isLt
  have b5 := m.toNat_lt
  obtain ⟨w, hw⟩ : ∃ w, encode (.vmaxS32 st d a b m) = w := ⟨_, rfl⟩
  have hw' : w = st.toNat * 2 ^ 30 + (d.toNat * 2 ^ 18 + (a.toNat * 2 ^ 11 + (b.toNat * 2 ^ 4 + (m.toNat * 2 ^ 3 + 0x84000005)))) := hw.symm
  refine long_of rfl hw (by omega) (by omega) (fun c hc => ?_)
  have e1 : num w 25 5 = 2 := by unfold num; omega
  have e2 : num w 0 3 = 5 := by unfold num; omega
  have g1 : bitAt w 30 = st := bitAt_eq (by omega)
  have g2 : fld w 18 7 = d := fld_eq (by omega)
  have g3 : fld w 11 7 = a := fld_eq (by omega)
  have g4 : fld w 4 7 = b := fld_eq (by omega)
  have g5 : bitAt w 3 = m := bitAt_eq (by omega)
  unfold decode32
  rw [e1]
  cases c
  · exact nomatch hc
  · unfold decodeV; rw [e1]; unfold decodeVint; rw [e2]; rw [g1, g2, g3, g4, g5]; all_goals rfl
  · exact nomatch hc
  · exact nomatch hc

theorem vmaxN32 (st : Bool) (d : BitVec 7) (a : BitVec 7) (b : BitVec 7) (m : Bool) : Statement (.vmaxN32 st d a b m) := by
  have b1 := st.toNat_lt
  have b2 := d.isLt
  have b3 := a.isLt
  have b4 := b.isLt
  have b5 := m.toNat_lt
  obtain ⟨w, hw⟩ : ∃ w, encode (.vmaxN32 st d a b m) = w := ⟨_, rfl⟩
  have hw' : w = st.toNat * 2 ^ 30 + (d.toNat * 2 ^ 18 + (a.toNat * 2 ^ 11 + (b.toNat * 2 ^ 4 + (m.toNat * 2 ^ 3 + 0x84000006)))) := hw.symm
  refine long_of rfl hw (by omega) (by omega) (fun c hc => ?_)
  have e1 : num w 25 5 = 2 := by unfold num; omega
  have e2 : num w 0 3 = 6 := by unfold num; omega
  have g1 : bitAt w 30 = st := bitAt_eq (by omega)
  have g2 : fld w 18 7 = d := fld_eq (by omega)
  have g3 : fld w 11 7 = a := fld_eq (by omega)
  have g4 : fld w 4 7 = b := fld_eq (by omega)
  have g5 : bitAt w 3 = m := bitAt_eq (by omega)
  unfold decode32
  rw [e1]
  cases c
  · exact nomatch hc
  · unfold decodeV; rw [e1]; unfold decodeVint; rw [e2]; rw [g1, g2, g3, g4, g5]; all_goals rfl
  · exact nomatch hc
  · exact nomatch hc

theorem vminS32 (st : Bool) (d : BitVec 7) (a : BitVec 7) (b : BitVec 7) (m : Bool) : Statement (.vminS32 st d a b m) := by
  have b1 := st.toNat_lt
  have b2 := d.isLt
  have b3 := a.isLt
  have b4 := b.isLt
  have b5 := m.toNat_lt
  obtain ⟨w, hw⟩ : ∃ w, encode (.vminS32 st d a b m) = w := ⟨_, rfl⟩
  have hw' : w = st.toNat * 2 ^ 30 + (d.toNat * 2 ^ 18 + (a.toNat * 2 ^ 11 + (b.toNat * 2 ^ 4 + (m.toNat * 2 ^ 3 + 0x84000003)))) := hw.symm
  refine long_of rfl hw (by omega) (by omega) (fun c hc => ?_)
  have e1 : num w 25 5 = 2 := by unfold num; omega
  have e2 : num w 0 3 = 3 := by unfold num; omega
  have g1 : bitAt w 30 = st := bitAt_eq (by omega)
  have g2 : fld w 18 7 = d := fld_eq (by omega)
  have g3 : fld w 11 7 = a := fld_eq (by omega)
  have g4 : fld w 4 7 = b := fld_eq (by omega)
  have g5 : bitAt w 3 = m := bitAt_eq (by omega)
  unfold decode32
  rw [e1]
  cases c
  · exact nomatch hc
  · unfold decodeV; rw [e1]; unfold decodeVint; rw [e2]; rw [g1, g2, g3, g4, g5]; all_goals rfl
  · exact nomatch hc
  · exact nomatch hc

theorem vminN32 (st : Bool) (d : BitVec 7) (a : BitVec 7) (b : BitVec 7) (m : Bool) : Statement (.vminN32 st d a b m) := by
  have b1 := st.toNat_lt
  have b2 := d.isLt
  have b3 := a.isLt
  have b4 := b.isLt
  have b5 := m.toNat_lt
  obtain ⟨w, hw⟩ : ∃ w, encode (.vminN32 st d a b m) = w := ⟨_, rfl⟩
  have hw' : w = st.toNat * 2 ^ 30 + (d.toNat * 2 ^ 18 + (a.toNat * 2 ^ 11 + (b.toNat * 2 ^ 4 + (m.toNat * 2 ^ 3 + 0x84000004)))) := hw.symm
  refine long_of rfl hw (by omega) (by omega) (fun c hc => ?_)
  have e1 : num w 25 5 = 2 := by unfold num; omega
  have e2 : num w 0 3 = 4 := by unfold num; omega
  have g1 : bitAt w 30 = st := bitAt_eq (by omega)
  have g2 : fld w 18 7 = d := fld_eq (by omega)
  have g3 : fld w 11 7 = a := fld_eq (by omega)
  have g4 : fld w 4 7 = b := fld_eq (by omega)
  have g5 : bitAt w 3 = m := bitAt_eq (by omega)
  unfold decode32
  rw [e1]
  cases c
  · exact nomatch hc
  · unfold decodeV; rw [e1]; unfold decodeVint; rw [e2]; rw [g1, g2, g3, g4, g5]; all_goals rfl
  · exact nomatch hc
  · exact nomatch hc

theorem vmov (st : Bool) (d : BitVec 7) (a : BitVec 7) (m : Bool) : Statement (.vmov st d a m) := by
  have b1 := st.toNat_lt
  have b2 := d.isLt
  have b3 := a.isLt
  have b4 := m.toNat_lt
  obtain ⟨w, hw⟩ : ∃ w, encode (.vmov st d a m) = w := ⟨_, rfl⟩
  have hw' : w = st.toNat * 2 ^ 30 + (d.toNat * 2 ^ 18 + (a.toNat * 2 ^ 11 + (m.toNat * 2 ^ 3 + 0x82000070))) := hw.symm
  refine long_of rfl hw (by omega) (by omega) (fun c hc => ?_)
  have e1 : num w 25 5 = 1 := by unfold num; omega
  have e2 : num w 4 7 = 7 := by unfold num; omega
  have g1 : bitAt w 30 = st := bitAt_eq (by omega)
  have g2 : fld w 18 7 = d := fld_eq (by omega)
  have g3 : fld w 11 7 = a := fld_eq (by omega)
  have g4 : bitAt w 3 = m := bitAt_eq (by omega)
  unfold decode32
  rw [e1]
  cases c
  · exact nomatch hc
  · unfold decodeV; rw [e1]; unfold decodeVu; rw [e2]; rw [g1, g2, g3, g4]; all_goals rfl
  · exact nomatch hc
  · exact nomatch hc

theorem vmul (st : Bool) (d : BitVec 7) (a : BitVec 7) (b : BitVec 7) (m : Bool) : Statement (.vmul st d a b m) := by
  have b1 := st.toNat_lt
  have b2 := d.isLt
  have b3 := a.isLt
  have b4 := b.isLt
  have b5 := m.toNat_lt
  obtain ⟨w, hw⟩ : ∃ w, encode (.vmul st d a b m) = w := ⟨_, rfl⟩
  have hw' : w = st.toNat * 2 ^ 30 + (d.toNat * 2 ^ 18 + (a.toNat * 2 ^ 11 + (b.toNat * 2 ^ 4 + (m.toNat * 2 ^ 3 + 0x84000002)))) := hw.symm
  refine long_of rfl hw (by omega) (by omega) (fun c hc => ?_)
  have e1 : num w 25 5 = 2 := by unfold num; omega
  have e2 : num w 0 3 = 2 := by unfold num; omega
  have g1 : bitAt w 30 = st := bitAt_eq (by omega)
  have g2 : fld w 18 7 = d := fld_eq (by omega)
  have g3 : fld w 11 7 = a := fld_eq (by omega)
  have g4 : fld w 4 7 = b := fld_eq (by omega)
  have g5 : bitAt w 3 = m := bitAt_eq (by omega)
  unfold decode32
  rw [e1]
  cases c
  · exact nomatch hc
  · unfold decodeV; rw [e1]; unfold decodeVint; rw [e2]; rw [g1, g2, g3, g4, g5]; all_goals rfl
  · exact nomatch hc
  · exact nomatch hc

theorem vpack (st : Bool) (d : BitVec 7) (a : BitVec 7) (b : BitVec 7) (w' : BitVec 2) (m : Bool) : Statement (.vpack st d a b w' m) := by
  have b1 := st.toNat_lt
  have b2 := d.isLt
  have b3 := a.isLt
  have b4 := b.isLt
  have b5 := w'.isLt
  have b6 := m.toNat_lt
  obtain ⟨w, hw⟩ : ∃ w, encode (.vpack st d a b w' m) = w := ⟨_, rfl⟩
  have hw' : w = st.toNat * 2 ^ 30 + (d.toNat * 2 ^ 18 + (a.toNat * 2 ^ 11 + (b.toNat * 2 ^ 4 + (w'.toNat * 2 ^ 2 + (m.toNat * 2 ^ 0 + 0x9A000000))))) := hw.symm
  refine long_of rfl hw (by omega) (by omega) (fun c hc => ?_)
  have e1 : num w 25 5 = 13 := by unfold num; omega
  have e2 : bitAt w 1 = false := bitAt_false (by omega)
  have g1 : bitAt w 30 = st := bitAt_eq (by omega)
  have g2 : fld w 18 7 = d := fld_eq (by omega)
  have g3 : fld w 11 7 = a := fld_eq (by omega)
  have g4 : fld w 4 7 = b := fld_eq (by omega)
  have g5 : fld w 2 2 = w' := fld_eq (by omega)
  have g6 : bitAt w 0 = m := bitAt_eq (by omega)
  unfold decode32
  rw [e1]
  cases c
  · exact nomatch hc
  · unfold decodeV; rw [e1]; rw [e2]; rw [g1, g2, g3, g4, g5, g6]; all_goals rfl
  · exact nomatch hc
  · exact nomatch hc

theorem vperm (st : Bool) (d : BitVec 7) (a : BitVec 7) (b : BitVec 7) (m : Bool) : Statement (.vperm st d a b m) := by
  have b1 := st.toNat_lt
  have b2 := d.isLt
  have b3 := a.isLt
  have b4 := b.isLt
  have b5 := m.toNat_lt
  obtain ⟨w, hw⟩ : ∃ w, encode (.vperm st d a b m) = w := ⟨_, rfl⟩
  have hw' : w = st.toNat * 2 ^ 30 + (d.toNat * 2 ^ 18 + (a.toNat * 2 ^ 11 + (b.toNat * 2 ^ 4 + (m.toNat * 2 ^ 3 + 0x86000004)))) := hw.symm
  refine long_of rfl hw (by omega) (by omega) (fun c hc => ?_)
  have e1 : num w 25 5 = 3 := by unfold num; omega
  have e2 : num w 0 3 = 4 := by unfold num; omega
  have g1 : bitAt w 30 = st := bitAt_eq (by omega)
  have g2 : fld w 18 7 = d := fld_eq (by omega)
  have g3 : fld w 11 7 = a := fld_eq (by omega)
  have g4 : fld w 4 7 = b := fld_eq (by omega)
  have g5 : bitAt w 3 = m := bitAt_eq (by omega)
  unfold decode32
  rw [e1]
  cases c
  · exact nomatch hc
  · unfold decodeV; rw [e1]; unfold decodeVbit; rw [e2]; rw [g1, g2, g3, g4, g5]; all_goals rfl
  · exact nomatch hc
  · exact nomatch hc

theorem vpopc (st : Bool) (d : BitVec 7) (a : BitVec 7) (m : Bool) : Statement (.vpopc st d a m) := by
  have b1 := st.toNat_lt
  have b2 := d.isLt
  have b3 := a.isLt
  have b4 := m.toNat_lt
  obtain ⟨w, hw⟩ : ∃ w, encode (.vpopc st d a m) = w := ⟨_, rfl⟩
  have hw' : w = st.toNat * 2 ^ 30 + (d.toNat * 2 ^ 18 + (a.toNat * 2 ^ 11 + (m.toNat * 2 ^ 3 + 0x82000060))) := hw.symm
  refine long_of rfl hw (by omega) (by omega) (fun c hc => ?_)
  have e1 : num w 25 5 = 1 := by unfold num; omega
  have e2 : num w 4 7 = 6 := by unfold num; omega
  have g1 : bitAt w 30 = st := bitAt_eq (by omega)
  have g2 : fld w 18 7 = d := fld_eq (by omega)
  have g3 : fld w 11 7 = a := fld_eq (by omega)
  have g4 : bitAt w 3 = m := bitAt_eq (by omega)
  unfold decode32
  rw [e1]
  cases c
  · exact nomatch hc
  · unfold decodeV; rw [e1]; unfold decodeVu; rw [e2]; rw [g1, g2, g3, g4]; all_goals rfl
  · exact nomatch hc
  · exact nomatch hc

theorem vred (st : Bool) (d : BitVec 7) (a : BitVec 7) (m : Bool) (op : BitVec 3) : Statement (.vred st d a m op) := by
  have b1 := st.toNat_lt
  have b2 := d.isLt
  have b3 := a.isLt
  have b4 := m.toNat_lt
  have b5 := op.isLt
  obtain ⟨w, hw⟩ : ∃ w, encode (.vred st d a m op) = w := ⟨_, rfl⟩
  have hw' : w = st.toNat * 2 ^ 30 + (d.toNat * 2 ^ 18 + (a.toNat * 2 ^ 11 + (m.toNat * 2 ^ 3 + (op.toNat * 2 ^ 0 + 0x9C000000)))) := hw.symm
  refine long_of rfl hw (by omega) (by omega) (fun c hc => ?_)
  have e1 : num w 25 5 = 14 := by unfold num; omega
  have g1 : bitAt w 30 = st := bitAt_eq (by omega)
  have g2 : fld w 18 7 = d := fld_eq (by omega)
  have g3 : fld w 11 7 = a := fld_eq (by omega)
  have g4 : bitAt w 3 = m := bitAt_eq (by omega)
  have g5 : fld w 0 3 = op := fld_eq (by omega)
  unfold decode32
  rw [e1]
  cases c
  · exact nomatch hc
  · unfold decodeV; rw [e1]; rw [g1, g2, g3, g4, g5]; all_goals rfl
  · exact nomatch hc
  · exact nomatch hc

theorem vsel (st : Bool) (d : BitVec 7) (a : BitVec 7) (b : BitVec 7) (c' : BitVec 4) : Statement (.vsel st d a b c') := by
  have b1 := st.toNat_lt
  have b2 := d.isLt
  have b3 := a.isLt
  have b4 := b.isLt
  have b5 := c'.isLt
  obtain ⟨w, hw⟩ : ∃ w, encode (.vsel st d a b c') = w := ⟨_, rfl⟩
  have hw' : w = st.toNat * 2 ^ 30 + (d.toNat * 2 ^ 18 + (a.toNat * 2 ^ 11 + (b.toNat * 2 ^ 4 + (c'.toNat * 2 ^ 0 + 0x92000000)))) := hw.symm
  refine long_of rfl hw (by omega) (by omega) (fun c hc => ?_)
  have e1 : num w 25 5 = 9 := by unfold num; omega
  have g1 : bitAt w 30 = st := bitAt_eq (by omega)
  have g2 : fld w 18 7 = d := fld_eq (by omega)
  have g3 : fld w 11 7 = a := fld_eq (by omega)
  have g4 : fld w 4 7 = b := fld_eq (by omega)
  have g5 : fld w 0 4 = c' := fld_eq (by omega)
  unfold decode32
  rw [e1]
  cases c
  · exact nomatch hc
  · unfold decodeV; rw [e1]; rw [g1, g2, g3, g4, g5]; all_goals rfl
  · exact nomatch hc
  · exact nomatch hc

theorem vsetl (st : Bool) (n : BitVec 7) : Statement (.vsetl st n) := by
  have b1 := st.toNat_lt
  have b2 := n.isLt
  obtain ⟨w, hw⟩ : ∃ w, encode (.vsetl st n) = w := ⟨_, rfl⟩
  have hw' : w = st.toNat * 2 ^ 30 + (n.toNat * 2 ^ 14 + 0xA2C00000) := hw.symm
  refine long_of rfl hw (by omega) (by omega) (fun c hc => ?_)
  have e1 : num w 25 5 = 17 := by unfold num; omega
  have e2 : num w 21 4 = 6 := by unfold num; omega
  have g1 : bitAt w 30 = st := bitAt_eq (by omega)
  have g2 : fld w 14 7 = n := fld_eq (by omega)
  unfold decode32
  rw [e1]
  cases c
  · exact nomatch hc
  · unfold decodeV; rw [e1]; unfold decodeVp; rw [e2]; rw [g1, g2]; all_goals rfl
  · exact nomatch hc
  · exact nomatch hc

theorem vshl (st : Bool) (d : BitVec 7) (a : BitVec 7) (b : BitVec 7) (m : Bool) : Statement (.vshl st d a b m) := by
  have b1 := st.toNat_lt
  have b2 := d.isLt
  have b3 := a.isLt
  have b4 := b.isLt
  have b5 := m.toNat_lt
  obtain ⟨w, hw⟩ : ∃ w, encode (.vshl st d a b m) = w := ⟨_, rfl⟩
  have hw' : w = st.toNat * 2 ^ 30 + (d.toNat * 2 ^ 18 + (a.toNat * 2 ^ 11 + (b.toNat * 2 ^ 4 + (m.toNat * 2 ^ 3 + 0x86000000)))) := hw.symm
  refine long_of rfl hw (by omega) (by omega) (fun c hc => ?_)
  have e1 : num w 25 5 = 3 := by unfold num; omega
  have e2 : num w 0 3 = 0 := by unfold num; omega
  have g1 : bitAt w 30 = st := bitAt_eq (by omega)
  have g2 : fld w 18 7 = d := fld_eq (by omega)
  have g3 : fld w 11 7 = a := fld_eq (by omega)
  have g4 : fld w 4 7 = b := fld_eq (by omega)
  have g5 : bitAt w 3 = m := bitAt_eq (by omega)
  unfold decode32
  rw [e1]
  cases c
  · exact nomatch hc
  · unfold decodeV; rw [e1]; unfold decodeVbit; rw [e2]; rw [g1, g2, g3, g4, g5]; all_goals rfl
  · exact nomatch hc
  · exact nomatch hc

theorem vshr (st : Bool) (d : BitVec 7) (a : BitVec 7) (b : BitVec 7) (m : Bool) : Statement (.vshr st d a b m) := by
  have b1 := st.toNat_lt
  have b2 := d.isLt
  have b3 := a.isLt
  have b4 := b.isLt
  have b5 := m.toNat_lt
  obtain ⟨w, hw⟩ : ∃ w, encode (.vshr st d a b m) = w := ⟨_, rfl⟩
  have hw' : w = st.toNat * 2 ^ 30 + (d.toNat * 2 ^ 18 + (a.toNat * 2 ^ 11 + (b.toNat * 2 ^ 4 + (m.toNat * 2 ^ 3 + 0x86000001)))) := hw.symm
  refine long_of rfl hw (by omega) (by omega) (fun c hc => ?_)
  have e1 : num w 25 5 = 3 := by unfold num; omega
  have e2 : num w 0 3 = 1 := by unfold num; omega
  have g1 : bitAt w 30 = st := bitAt_eq (by omega)
  have g2 : fld w 18 7 = d := fld_eq (by omega)
  have g3 : fld w 11 7 = a := fld_eq (by omega)
  have g4 : fld w 4 7 = b := fld_eq (by omega)
  have g5 : bitAt w 3 = m := bitAt_eq (by omega)
  unfold decode32
  rw [e1]
  cases c
  · exact nomatch hc
  · unfold decodeV; rw [e1]; unfold decodeVbit; rw [e2]; rw [g1, g2, g3, g4, g5]; all_goals rfl
  · exact nomatch hc
  · exact nomatch hc

theorem vslideUp (st : Bool) (d : BitVec 7) (a : BitVec 7) (n : BitVec 6) (m : Bool) : Statement (.vslideUp st d a n m) := by
  have b1 := st.toNat_lt
  have b2 := d.isLt
  have b3 := a.isLt
  have b4 := n.isLt
  have b5 := m.toNat_lt
  obtain ⟨w, hw⟩ : ∃ w, encode (.vslideUp st d a n m) = w := ⟨_, rfl⟩
  have hw' : w = st.toNat * 2 ^ 30 + (d.toNat * 2 ^ 18 + (a.toNat * 2 ^ 11 + (n.toNat * 2 ^ 5 + (m.toNat * 2 ^ 2 + 0x9E000008)))) := hw.symm
  refine long_of rfl hw (by omega) (by omega) (fun c hc => ?_)
  have e1 : num w 25 5 = 15 := by unfold num; omega
  have e2 : num w 3 2 = 1 := by unfold num; omega
  have g1 : bitAt w 30 = st := bitAt_eq (by omega)
  have g2 : fld w 18 7 = d := fld_eq (by omega)
  have g3 : fld w 11 7 = a := fld_eq (by omega)
  have g4 : fld w 5 6 = n := fld_eq (by omega)
  have g5 : bitAt w 2 = m := bitAt_eq (by omega)
  unfold decode32
  rw [e1]
  cases c
  · exact nomatch hc
  · unfold decodeV; rw [e1]; unfold decodeVl; rw [e2]; rw [g1, g2, g3, g4, g5]; all_goals rfl
  · exact nomatch hc
  · exact nomatch hc

theorem vslideDown (st : Bool) (d : BitVec 7) (a : BitVec 7) (n : BitVec 6) (m : Bool) : Statement (.vslideDown st d a n m) := by
  have b1 := st.toNat_lt
  have b2 := d.isLt
  have b3 := a.isLt
  have b4 := n.isLt
  have b5 := m.toNat_lt
  obtain ⟨w, hw⟩ : ∃ w, encode (.vslideDown st d a n m) = w := ⟨_, rfl⟩
  have hw' : w = st.toNat * 2 ^ 30 + (d.toNat * 2 ^ 18 + (a.toNat * 2 ^ 11 + (n.toNat * 2 ^ 5 + (m.toNat * 2 ^ 2 + 0x9E000010)))) := hw.symm
  refine long_of rfl hw (by omega) (by omega) (fun c hc => ?_)
  have e1 : num w 25 5 = 15 := by unfold num; omega
  have e2 : num w 3 2 = 2 := by unfold num; omega
  have g1 : bitAt w 30 = st := bitAt_eq (by omega)
  have g2 : fld w 18 7 = d := fld_eq (by omega)
  have g3 : fld w 11 7 = a := fld_eq (by omega)
  have g4 : fld w 5 6 = n := fld_eq (by omega)
  have g5 : bitAt w 2 = m := bitAt_eq (by omega)
  unfold decode32
  rw [e1]
  cases c
  · exact nomatch hc
  · unfold decodeV; rw [e1]; unfold decodeVl; rw [e2]; rw [g1, g2, g3, g4, g5]; all_goals rfl
  · exact nomatch hc
  · exact nomatch hc

theorem vspill (st : Bool) (r : BitVec 7) (slot : BitVec 11) (p : Bool) : Statement (.vspill st r slot p) := by
  have b1 := st.toNat_lt
  have b2 := r.isLt
  have b3 := slot.isLt
  have b4 := p.toNat_lt
  obtain ⟨w, hw⟩ : ∃ w, encode (.vspill st r slot p) = w := ⟨_, rfl⟩
  have hw' : w = st.toNat * 2 ^ 30 + (r.toNat * 2 ^ 18 + (slot.toNat * 2 ^ 7 + (p.toNat * 2 ^ 6 + 0xA0000000))) := hw.symm
  refine long_of rfl hw (by omega) (by omega) (fun c hc => ?_)
  have e1 : num w 25 5 = 16 := by unfold num; omega
  have e2 : bitAt w 5 = false := bitAt_false (by omega)
  have g1 : bitAt w 30 = st := bitAt_eq (by omega)
  have g2 : fld w 18 7 = r := fld_eq (by omega)
  have g3 : fld w 7 11 = slot := fld_eq (by omega)
  have g4 : bitAt w 6 = p := bitAt_eq (by omega)
  unfold decode32
  rw [e1]
  cases c
  · exact nomatch hc
  · unfold decodeV; rw [e1]; rw [e2]; rw [g1, g2, g3, g4]; all_goals rfl
  · exact nomatch hc
  · exact nomatch hc

theorem vsra (st : Bool) (d : BitVec 7) (a : BitVec 7) (b : BitVec 7) (m : Bool) : Statement (.vsra st d a b m) := by
  have b1 := st.toNat_lt
  have b2 := d.isLt
  have b3 := a.isLt
  have b4 := b.isLt
  have b5 := m.toNat_lt
  obtain ⟨w, hw⟩ : ∃ w, encode (.vsra st d a b m) = w := ⟨_, rfl⟩
  have hw' : w = st.toNat * 2 ^ 30 + (d.toNat * 2 ^ 18 + (a.toNat * 2 ^ 11 + (b.toNat * 2 ^ 4 + (m.toNat * 2 ^ 3 + 0x86000002)))) := hw.symm
  refine long_of rfl hw (by omega) (by omega) (fun c hc => ?_)
  have e1 : num w 25 5 = 3 := by unfold num; omega
  have e2 : num w 0 3 = 2 := by unfold num; omega
  have g1 : bitAt w 30 = st := bitAt_eq (by omega)
  have g2 : fld w 18 7 = d := fld_eq (by omega)
  have g3 : fld w 11 7 = a := fld_eq (by omega)
  have g4 : fld w 4 7 = b := fld_eq (by omega)
  have g5 : bitAt w 3 = m := bitAt_eq (by omega)
  unfold decode32
  rw [e1]
  cases c
  · exact nomatch hc
  · unfold decodeV; rw [e1]; unfold decodeVbit; rw [e2]; rw [g1, g2, g3, g4, g5]; all_goals rfl
  · exact nomatch hc
  · exact nomatch hc

theorem vsub (st : Bool) (d : BitVec 7) (a : BitVec 7) (b : BitVec 7) (m : Bool) : Statement (.vsub st d a b m) := by
  have b1 := st.toNat_lt
  have b2 := d.isLt
  have b3 := a.isLt
  have b4 := b.isLt
  have b5 := m.toNat_lt
  obtain ⟨w, hw⟩ : ∃ w, encode (.vsub st d a b m) = w := ⟨_, rfl⟩
  have hw' : w = st.toNat * 2 ^ 30 + (d.toNat * 2 ^ 18 + (a.toNat * 2 ^ 11 + (b.toNat * 2 ^ 4 + (m.toNat * 2 ^ 3 + 0x84000001)))) := hw.symm
  refine long_of rfl hw (by omega) (by omega) (fun c hc => ?_)
  have e1 : num w 25 5 = 2 := by unfold num; omega
  have e2 : num w 0 3 = 1 := by unfold num; omega
  have g1 : bitAt w 30 = st := bitAt_eq (by omega)
  have g2 : fld w 18 7 = d := fld_eq (by omega)
  have g3 : fld w 11 7 = a := fld_eq (by omega)
  have g4 : fld w 4 7 = b := fld_eq (by omega)
  have g5 : bitAt w 3 = m := bitAt_eq (by omega)
  unfold decode32
  rw [e1]
  cases c
  · exact nomatch hc
  · unfold decodeV; rw [e1]; unfold decodeVint; rw [e2]; rw [g1, g2, g3, g4, g5]; all_goals rfl
  · exact nomatch hc
  · exact nomatch hc

theorem vunpk (st : Bool) (d : BitVec 7) (a : BitVec 7) (k : BitVec 7) (w' : BitVec 2) (m : Bool) : Statement (.vunpk st d a k w' m) := by
  have b1 := st.toNat_lt
  have b2 := d.isLt
  have b3 := a.isLt
  have b4 := k.isLt
  have b5 := w'.isLt
  have b6 := m.toNat_lt
  obtain ⟨w, hw⟩ : ∃ w, encode (.vunpk st d a k w' m) = w := ⟨_, rfl⟩
  have hw' : w = st.toNat * 2 ^ 30 + (d.toNat * 2 ^ 18 + (a.toNat * 2 ^ 11 + (k.toNat * 2 ^ 4 + (w'.toNat * 2 ^ 2 + (m.toNat * 2 ^ 0 + 0x9A000002))))) := hw.symm
  refine long_of rfl hw (by omega) (by omega) (fun c hc => ?_)
  have e1 : num w 25 5 = 13 := by unfold num; omega
  have e2 : bitAt w 1 = true := bitAt_true (by omega)
  have g1 : bitAt w 30 = st := bitAt_eq (by omega)
  have g2 : fld w 18 7 = d := fld_eq (by omega)
  have g3 : fld w 11 7 = a := fld_eq (by omega)
  have g4 : fld w 4 7 = k := fld_eq (by omega)
  have g5 : fld w 2 2 = w' := fld_eq (by omega)
  have g6 : bitAt w 0 = m := bitAt_eq (by omega)
  unfold decode32
  rw [e1]
  cases c
  · exact nomatch hc
  · unfold decodeV; rw [e1]; rw [e2]; rw [g1, g2, g3, g4, g5, g6]; all_goals rfl
  · exact nomatch hc
  · exact nomatch hc

theorem xcall (st : Bool) (off : BitVec 25) : Statement (.xcall st off) := by
  have b1 := st.toNat_lt
  have b2 := off.isLt
  obtain ⟨w, hw⟩ : ∃ w, encode (.xcall st off) = w := ⟨_, rfl⟩
  have hw' : w = st.toNat * 2 ^ 30 + (off.toNat * 2 ^ 0 + 0xB6000000) := hw.symm
  refine long_of rfl hw (by omega) (by omega) (fun c hc => ?_)
  have e1 : num w 25 5 = 27 := by unfold num; omega
  have g1 : bitAt w 30 = st := bitAt_eq (by omega)
  have g2 : fld w 0 25 = off := fld_eq (by omega)
  unfold decode32
  rw [e1]
  rw [g1, g2]
  all_goals rfl

theorem xret (st : Bool) : Statement (.xret st) := by
  have b1 := st.toNat_lt
  obtain ⟨w, hw⟩ : ∃ w, encode (.xret st) = w := ⟨_, rfl⟩
  have hw' : w = st.toNat * 2 ^ 30 + 0xB4500000 := hw.symm
  refine long_of rfl hw (by omega) (by omega) (fun c hc => ?_)
  have e1 : num w 25 5 = 26 := by unfold num; omega
  have e2 : num w 20 5 = 5 := by unfold num; omega
  have g1 : bitAt w 30 = st := bitAt_eq (by omega)
  unfold decode32
  rw [e1]
  unfold decodeSystem
  rw [e2]
  rw [g1]
  all_goals rfl

theorem xor (st : Bool) (rd : BitVec 5) (rs1 : BitVec 5) (rs2 : BitVec 5) : Statement (.xor st rd rs1 rs2) := by
  have b1 := st.toNat_lt
  have b2 := rd.isLt
  have b3 := rs1.isLt
  have b4 := rs2.isLt
  obtain ⟨w, hw⟩ : ∃ w, encode (.xor st rd rs1 rs2) = w := ⟨_, rfl⟩
  have hw' : w = st.toNat * 2 ^ 30 + (rd.toNat * 2 ^ 20 + (rs1.toNat * 2 ^ 15 + (rs2.toNat * 2 ^ 10 + 0x80000100))) := hw.symm
  refine long_of rfl hw (by omega) (by omega) (fun c hc => ?_)
  have e1 : num w 25 5 = 0 := by unfold num; omega
  have e2 : num w 5 5 = 8 := by unfold num; omega
  have g1 : bitAt w 30 = st := bitAt_eq (by omega)
  have g2 : fld w 20 5 = rd := fld_eq (by omega)
  have g3 : fld w 15 5 = rs1 := fld_eq (by omega)
  have g4 : fld w 10 5 = rs2 := fld_eq (by omega)
  unfold decode32
  rw [e1]
  cases c
  · unfold decodeA; rw [e1]; unfold decodeR; rw [e2]; rw [g1, g2, g3, g4]; all_goals rfl
  · exact nomatch hc
  · unfold decodeM; rw [e1]; unfold decodeR; rw [e2]; rw [g1, g2, g3, g4]; all_goals rfl
  · unfold decodeS; rw [e1]; unfold decodeR; rw [e2]; rw [g1, g2, g3, g4]; all_goals rfl

theorem engineWait (cid : Nat) : Statement (.engineWait cid) := not_encoded rfl

theorem contextSwitch (core : Nat) : Statement (.contextSwitch core) := not_encoded rfl

theorem hoopNotification (cid : Nat) (hoop : Nat) : Statement (.hoopNotification cid hoop) := not_encoded rfl

theorem taskRetirement (cid : Nat) : Statement (.taskRetirement cid) := not_encoded rfl

theorem gangTermination (gang : Nat) : Statement (.gangTermination gang) := not_encoded rfl

theorem preemptionRequest (gang : Nat) : Statement (.preemptionRequest gang) := not_encoded rfl

theorem forcedStop (gang : Nat) : Statement (.forcedStop gang) := not_encoded rfl

theorem contextStop (cid : Nat) : Statement (.contextStop cid) := not_encoded rfl

theorem contextResumption (cid : Nat) : Statement (.contextResumption cid) := not_encoded rfl

theorem engineFaultDelivery (cid : Nat) : Statement (.engineFaultDelivery cid) := not_encoded rfl

theorem tileCommandExecution (quad : Nat) : Statement (.tileCommandExecution quad) := not_encoded rfl

theorem shuttleCommandBegin (cid : Nat) (ch : Bool) : Statement (.shuttleCommandBegin cid ch) := not_encoded rfl

theorem shuttleCompletion (cid : Nat) (ch : Bool) : Statement (.shuttleCompletion cid ch) := not_encoded rfl

theorem cutworkExecution (cid : Nat) : Statement (.cutworkExecution cid) := not_encoded rfl

theorem couchingExecution (cid : Nat) : Statement (.couchingExecution cid) := not_encoded rfl

theorem queueEngineExecution (cid : Nat) : Statement (.queueEngineExecution cid) := not_encoded rfl

theorem footsideExecution (cid : Nat) : Statement (.footsideExecution cid) := not_encoded rfl

theorem darningStripe (cid : Nat) : Statement (.darningStripe cid) := not_encoded rfl

theorem placementBoundary (interval : Bool) : Statement (.placementBoundary interval) := not_encoded rfl

theorem pageMigration (page : Nat) (frame : Nat) : Statement (.pageMigration page frame) := not_encoded rfl

theorem evictionStart (stack : Nat) : Statement (.evictionStart stack) := not_encoded rfl

theorem pageEviction (page : Nat) (capPage : Nat) : Statement (.pageEviction page capPage) := not_encoded rfl

theorem chainDemotion (chain : BitVec 8) : Statement (.chainDemotion chain) := not_encoded rfl

theorem launch (slot : Nat) : Statement (.launch slot) := not_encoded rfl

theorem gangPlacement (slot : Nat) : Statement (.gangPlacement slot) := not_encoded rfl

theorem gangReserving (slot : Nat) : Statement (.gangReserving slot) := not_encoded rfl

theorem waitsig (slot : Nat) : Statement (.waitsig slot) := not_encoded rfl

theorem setsig (slot : Nat) : Statement (.setsig slot) := not_encoded rfl

theorem mark (slot : Nat) : Statement (.mark slot) := not_encoded rfl

theorem nopPacket (slot : Nat) : Statement (.nopPacket slot) := not_encoded rfl

theorem packetReject (slot : Nat) : Statement (.packetReject slot) := not_encoded rfl

theorem priorityAging (slot : Nat) : Statement (.priorityAging slot) := not_encoded rfl

theorem faultHoldExpiry (slot : Nat) : Statement (.faultHoldExpiry slot) := not_encoded rfl

theorem qnotify (hart : Nat) (v : BitVec 64) : Statement (.qnotify hart v) := not_encoded rfl

theorem remoteNotify (src : BitVec 16) (msg : BitVec 192) : Statement (.remoteNotify src msg) := not_encoded rfl

theorem nqclr (hart : Nat) (qid : BitVec 16) (peer : BitVec 16) : Statement (.nqclr hart qid peer) := not_encoded rfl

theorem qmapcmdMap (hart : Nat) (v : BitVec 64) : Statement (.qmapcmdMap hart v) := not_encoded rfl

theorem qmapcmdUnmap (hart : Nat) (v : BitVec 64) : Statement (.qmapcmdUnmap hart v) := not_encoded rfl

theorem accevict (hart : Nat) (quad : Nat) (v : BitVec 64) : Statement (.accevict hart quad v) := not_encoded rfl

theorem xinvPage (hart : Nat) (v : BitVec 64) : Statement (.xinvPage hart v) := not_encoded rfl

theorem xinvAsid (hart : Nat) (v : BitVec 64) : Statement (.xinvAsid hart v) := not_encoded rfl

theorem xinvAll (hart : Nat) (v : BitVec 64) : Statement (.xinvAll hart v) := not_encoded rfl

theorem grpcfgForm (hart : Nat) (g : Nat) (v : BitVec 64) : Statement (.grpcfgForm hart g v) := not_encoded rfl

theorem grpcfgStby (hart : Nat) (g : Nat) (v : BitVec 64) : Statement (.grpcfgStby hart g v) := not_encoded rfl

theorem grpcfgAbrt (hart : Nat) (g : Nat) (v : BitVec 64) : Statement (.grpcfgAbrt hart g v) := not_encoded rfl

theorem grpmemWrite (hart : Nat) (g : Nat) (j : Nat) (v : BitVec 64) : Statement (.grpmemWrite hart g j v) := not_encoded rfl

theorem heartbeatTimer (g : Nat) : Statement (.heartbeatTimer g) := not_encoded rfl

theorem memberLoss (g : Nat) (j : Nat) : Statement (.memberLoss g j) := not_encoded rfl

theorem heartbeat (msg : GroupMsg) : Statement (.heartbeat msg) := not_encoded rfl

end Sys2Proof.Laws.RoundTrip

namespace Sys2Proof.Laws

open RoundTrip in
theorem RoundTrip.seal (msg : GroupMsg) : Statement (.seal msg) := not_encoded rfl

end Sys2Proof.Laws

namespace Sys2Proof.Laws.RoundTrip

theorem delta (msg : GroupMsg) : Statement (.delta msg) := not_encoded rfl

theorem dack (msg : GroupMsg) : Statement (.dack msg) := not_encoded rfl

theorem prepared (msg : GroupMsg) : Statement (.prepared msg) := not_encoded rfl

theorem abortreq (msg : GroupMsg) : Statement (.abortreq msg) := not_encoded rfl

theorem crec (msg : GroupMsg) : Statement (.crec msg) := not_encoded rfl

theorem crecack (msg : GroupMsg) : Statement (.crecack msg) := not_encoded rfl

theorem commit (msg : GroupMsg) : Statement (.commit msg) := not_encoded rfl

theorem abort (msg : GroupMsg) : Statement (.abort msg) := not_encoded rfl

theorem loss (msg : GroupMsg) : Statement (.loss msg) := not_encoded rfl

theorem query (msg : GroupMsg) : Statement (.query msg) := not_encoded rfl

theorem qreply (msg : GroupMsg) : Statement (.qreply msg) := not_encoded rfl

theorem shreq (msg : GroupMsg) : Statement (.shreq msg) := not_encoded rfl

theorem share (msg : GroupMsg) : Statement (.share msg) := not_encoded rfl

theorem join (msg : GroupMsg) : Statement (.join msg) := not_encoded rfl

theorem protectedLineRepair (g : Nat) (line : Nat) (shares : List GroupShare) : Statement (.protectedLineRepair g line shares) := not_encoded rfl

theorem uncorrectableError (site : ErrorSite) : Statement (.uncorrectableError site) := not_encoded rfl

theorem correctableError (stack : Nat) (row : Nat) : Statement (.correctableError stack row) := not_encoded rfl

theorem activationSaturation (bank : Nat) (row : Nat) : Statement (.activationSaturation bank row) := not_encoded rfl

theorem auditReplayEnd (task : Nat) (sig : BitVec 64) (core : Nat) (clean : Bool) : Statement (.auditReplayEnd task sig core clean) := not_encoded rfl

theorem remoteTimeout (cid : Nat) (idx : Nat) : Statement (.remoteTimeout cid idx) := not_encoded rfl

theorem ualinkRequest (req : FabricReq) : Statement (.ualinkRequest req) := not_encoded rfl

theorem uetPacket (secured : Bool) (reliable : Bool) (payload : UetPayload) : Statement (.uetPacket secured reliable payload) := not_encoded rfl

theorem leadcmdRenew (die : Nat) (v : BitVec 64) : Statement (.leadcmdRenew die v) := not_encoded rfl

theorem leadcmdTake (die : Nat) (v : BitVec 64) : Statement (.leadcmdTake die v) := not_encoded rfl

theorem leadcmdResign (die : Nat) (v : BitVec 64) : Statement (.leadcmdResign die v) := not_encoded rfl

theorem keycmdLoadMemoryKey (hart : Nat) (v : BitVec 64) : Statement (.keycmdLoadMemoryKey hart v) := not_encoded rfl

theorem keycmdZeroiseMemoryKey (hart : Nat) (v : BitVec 64) : Statement (.keycmdZeroiseMemoryKey hart v) := not_encoded rfl

theorem keycmdLoadNotifyKey (hart : Nat) (v : BitVec 64) : Statement (.keycmdLoadNotifyKey hart v) := not_encoded rfl

theorem keycmdZeroiseNotifyKey (hart : Nat) (v : BitVec 64) : Statement (.keycmdZeroiseNotifyKey hart v) := not_encoded rfl

theorem measext (hart : Nat) (i : Nat) (digest : BitVec 384) : Statement (.measext hart i digest) := not_encoded rfl

theorem signcmd (hart : Nat) (pa : BitVec 64) : Statement (.signcmd hart pa) := not_encoded rfl

theorem flashMailboxRead (hart : Nat) : Statement (.flashMailboxRead hart) := not_encoded rfl

theorem rstctlWarmReset (hart : Nat) : Statement (.rstctlWarmReset hart) := not_encoded rfl

theorem rstctlColdReset (hart : Nat) : Statement (.rstctlColdReset hart) := not_encoded rfl

theorem rstctlPtok (hart : Nat) : Statement (.rstctlPtok hart) := not_encoded rfl

theorem registerWrite (hart : Nat) (reg : MmioReg) (v : BitVec 64) : Statement (.registerWrite hart reg v) := not_encoded rfl

theorem writeLands (cid : Nat) : Statement (.writeLands cid) := not_encoded rfl

theorem globalAccessPerformed (cid : Nat) (idx : Nat) : Statement (.globalAccessPerformed cid idx) := not_encoded rfl

theorem shuttleElementMove (cid : Nat) (ch : Bool) : Statement (.shuttleElementMove cid ch) := not_encoded rfl

theorem podHoopArrival (entry : Nat) (leave : Bool) (armed : Bool) : Statement (.podHoopArrival entry leave armed) := not_encoded rfl

theorem periodicRefresh (bank : Nat) (row : Nat) : Statement (.periodicRefresh bank row) := not_encoded rfl

theorem supervisorHartAccess (die : Nat) (acc : HartAccess) : Statement (.supervisorHartAccess die acc) := not_encoded rfl

theorem powerInputOutOfRange (millivolts : Nat) : Statement (.powerInputOutOfRange millivolts) := not_encoded rfl

theorem phyTrainingComplete (full : BitVec 16) : Statement (.phyTrainingComplete full) := not_encoded rfl

theorem linkTrainingComplete (port : Nat) : Statement (.linkTrainingComplete port) := not_encoded rfl

theorem lifeEstimate (est : BitVec 64) : Statement (.lifeEstimate est) := not_encoded rfl

theorem thermalSample (watts : Nat) (temps : List Nat) (volts : List Nat) : Statement (.thermalSample watts temps volts) := not_encoded rfl

theorem leaseLapse : Statement (.leaseLapse) := not_encoded rfl

theorem powerOnReset : Statement (.powerOnReset) := not_encoded rfl

theorem powerLoss : Statement (.powerLoss) := not_encoded rfl

theorem memoryGateOpen : Statement (.memoryGateOpen) := not_encoded rfl

theorem lifetimeMerge : Statement (.lifetimeMerge) := not_encoded rfl

end Sys2Proof.Laws.RoundTrip
end

