-- ==== Sys2Proof/Tests/Slice0.lean ====
section
/-! SUPPORT. Tests of the model on small states: words of the spec decode to their instructions, ill-formed terms are refused, single
instructions give the results that the spec's entries and tables give, and every statement of Obligations.lean with hypotheses has a state that
meets them. -/

namespace Sys2Proof.Tests

set_option Elab.async false

open Sys2Proof.Machine Sys2Proof.Claims

/-! ## Ill-formed terms are refused, one for each check of WellFormed -/

theorem test_wrong_cluster_is_refused : check .V (.add false 5 6 7) = some .wrongCluster ∧ check .A (.vadd false 1 2 3 false) = some .wrongCluster ∧
    check .A (.accz false 0) = some .wrongCluster ∧ check .M (.knot false) = some .wrongCluster := by decide
theorem test_register_out_of_range_is_refused : check .M (.add false 16 0 0) = some .registerRange ∧ check .A (.add false 31 31 31) = none ∧
    check .M (.add false 15 15 15) = none ∧ check .V (.getsr false 56 0) = some .registerRange ∧ check .S (.bstat false 0 16) = some .registerRange ∧
    check .V (.btake false 0 0 true 0) = some .registerRange ∧ check .S (.brc false 0 16 4) = some .registerRange := by decide
theorem test_reserved_function_is_refused : check .A (.cmp false 0 0 0 6) = some .reservedFunction ∧ check .A (.cmp false 0 0 0 5) = none ∧
    check .V (.plog false 0 0 0 5) = some .reservedFunction ∧ check .A (.amo false 0 false 0 0 9 true 0 0) = some .reservedFunction ∧
    check .V (.brc false 4 0 4) = some .reservedFunction ∧ check .A (.rowlog false 0 0 0 5 0) = some .reservedFunction := by decide
theorem test_reserved_size_is_refused : check .A (.ld false 0 0 7 0 0) = some .reservedSize ∧ check .A (.ldb false 0 0 true 7 0 0) = none ∧
    check .S (.stsc false 0 0 0 0 3 0 false) = some .reservedSize ∧ check .V (.vpack false 0 0 0 3 false) = some .reservedSize := by decide
theorem test_reserved_scope_is_refused : check .A (.fence false 5) = some .reservedScope ∧ check .A (.fence false 4) = none ∧
    check .M (.adrain false 0 0 0 0 5 0) = some .reservedScope := by decide
theorem test_ordering_is_refused : check .A (.amo false 0 false 0 0 0 true 0 1) = some .ordering ∧
    check .A (.ldbOrdered false 0 0 0 0 2 0) = some .ordering ∧ check .A (.stOrdered false 0 0 0 0 1 0) = some .ordering := by decide
theorem test_vector_operand_is_refused : check .V (.vadd false 56 0 0 false) = some .vectorOperand ∧ check .V (.vadd false 55 0 0 false) = none ∧
    check .V (.vadd false 64 0 0 false) = none ∧ check .V (.vadd false 0 62 0 false) = some .vectorOperand ∧
    check .V (.vcmp false 16 0 0 false 0) = some .vectorOperand ∧ check .V (.vfill false 56 0 false) = some .vectorOperand := by decide
theorem test_type_or_part_is_refused : check .V (.vcvt false 0 0 13 0 0 false) = some .typeOrPart ∧
    check .V (.vcvt false 0 0 1 0 2 false) = some .typeOrPart ∧ check .V (.vcvt false 0 0 1 0 1 false) = none ∧
    check .V (.vunpk false 0 0 4 1 false) = some .typeOrPart := by decide
theorem test_field_that_must_be_zero_is_refused : check .V (.vfill false 0 1 true) = some .mustBeZero ∧
    check .A (.amo false 1 false 0 0 0 true 0 0) = some .mustBeZero ∧ check .A (.btake false 0 0 false 1) = some .mustBeZero ∧
    check .S (.amo false 0 true 0 0 0 true 0 0) = some .mustBeZero := by decide
theorem test_lane_count_is_refused : check .V (.vsetl false 0) = some .laneCount ∧ check .V (.vsetl false 65) = some .laneCount ∧
    check .V (.vsetl false 64) = none ∧ check .V (.pset false 0 65) = some .laneCount ∧ check .V (.pset false 0 64) = none := by decide
theorem test_events_have_no_encoding : check .A .powerLoss = some .notEncoded ∧ check .V (.writeLands 0) = some .notEncoded := by decide

/-! ## Words that the entries of the spec print -/

/-- A word of a cluster decodes to the instruction beside it. -/
def decodes (r : Cluster × Bool × Nat × Instr) : Bool :=
  match decodeWord r.1 r.2.1 r.2.2.1 with
  | .ok i => i == r.2.2.2
  | .error _ => false

/-- R316 to R463, the scalar subset. -/
theorem test_scalar_words_decode : (([(.A, true, 0x80531C00, .add false 5 6 7), (.A, false, 0x08A9, .add16 false 5 9), (.A, true, 0x82327F38, .addi false 3 4 (-200)),
     (.A, false, 0x0CBD, .addi16 false 5 (-3)), (.A, true, 0x80321420, .sub false 3 4 5), (.A, false, 0x10A9, .sub16 false 5 9),
     (.A, true, 0x803214C0, .and false 3 4 5), (.A, true, 0x80321520, .andn false 3 4 5), (.A, true, 0x803214E0, .or false 3 4 5),
     (.A, true, 0x80321500, .xor false 3 4 5), (.A, true, 0x80320240, .clz false 3 4), (.A, true, 0x80320260, .popc false 3 4),
     (.A, true, 0x803215A4, .cmp false 3 4 5 4), (.A, true, 0x80321480, .div false 3 4 5 false), (.A, true, 0x80321481, .div false 3 4 5 true),
     (.A, true, 0x803214A0, .rem false 3 4 5 false), (.A, true, 0x803214A1, .rem false 3 4 5 true), (.A, true, 0x80321440, .mul false 3 4 5),
     (.A, true, 0x80321460, .mulh false 3 4 5 false), (.A, true, 0x80321461, .mulh false 3 4 5 true), (.A, true, 0x803215E0, .max false 3 4 5 false),
     (.A, true, 0x803215E1, .max false 3 4 5 true), (.A, true, 0x803215C0, .min false 3 4 5 false), (.A, true, 0x803215C1, .min false 3 4 5 true),
     (.A, true, 0x80320200, .mov false 3 4), (.A, false, 0x0464, .mov16 false 3 4), (.A, true, 0x80321540, .shl false 3 4 5),
     (.A, true, 0x80321560, .shr false 3 4 5), (.A, true, 0x80321580, .sra false 3 4 5), (.A, true, 0x80321626, .sel false 3 4 5 6),
     (.A, true, 0x843003E8, .li false 3 1000), (.A, true, 0x843FFFFF, .li false 3 (-1)), (.A, true, 0x86487000, .lih false 4 2 0x7000)] : List (Cluster × Bool × Nat × Instr)).all decodes) = true := by decide +kernel

/-- Tables 4.12 and 4.13, system and special-register instructions. -/
theorem test_system_words_decode : (([(.A, true, 0xB4000000, .nop false), (.V, false, 0x3C00, .nop16 false), (.A, true, 0xB4100000, .halt false),
     (.S, false, 0x3C40, .halt16 false), (.A, true, 0xB4200042, .trap false 0x42), (.A, true, 0xB4401234, .brk false 0x1234),
     (.A, true, 0xF4300000, .tret true), (.A, true, 0xF4500000, .xret true), (.A, true, 0xF6000E00, .xcall true 0xE00),
     (.V, true, 0xF6000C00, .xcall true 0xC00), (.A, true, 0xB461C000, .chkerr false 7), (.A, true, 0xB4770000, .flset false 3 true),
     (.A, true, 0xB4760000, .flset false 3 false), (.A, false, 0x3D18, .flsetSet16 false 3), (.A, false, 0x3D58, .flsetClear16 false 3),
     (.A, true, 0xB4820000, .flwait false 1 false), (.A, true, 0xB4830000, .flwait false 1 true), (.A, false, 0x3D88, .flwait16 false 1),
     (.A, false, 0x3DC8, .flwaitClr16 false 1), (.M, true, 0xB4942480, .btake false 4 0 true 9), (.M, false, 0x3C90, .btake16 false 4),
     (.M, true, 0xB4A54000, .bgive false 5 1), (.M, false, 0x3CD4, .bgive16 false 5), (.A, true, 0xB4B60C00, .bstat false 6 3),
     (.A, true, 0xB4C40000, .harrive false 2 false), (.A, true, 0xB4D40000, .hwait false 2), (.A, true, 0xB20C1000, .getsr false 3 4),
     (.V, true, 0xB30C5C00, .setsr false 3 0x17), (.A, true, 0xB30C2C00, .setsr false 3 0x0B)] : List (Cluster × Bool × Nat × Instr)).all decodes) = true := by decide +kernel

/-- branches and block headers. -/
theorem test_control_words_decode : (([(.A, true, 0xBDFFFFD8, .br false (-40)), (.A, true, 0xBA09FFE8, .brc false 0 4 (-24)), (.A, true, 0xBE014700, .blk false 5 28 false 0 false)] : List (Cluster × Bool × Nat × Instr)).all decodes) = true := by decide +kernel

/-- loads, stores, atomics and fences. -/
theorem test_memory_words_decode : (([(.A, true, 0x88536802, .ld false 5 6 5 0 2), (.A, true, 0x8C43A804, .ldb false 2 7 false 5 0 4), (.A, true, 0x8C43B350, .ldbOrdered false 2 7 6 1 1 2),
     (.A, true, 0x8E626120, .ldg false 3 1 6 0 1 1 false), (.A, true, 0x9050000C, .ldlit false 5 12), (.A, true, 0x905FFFFD, .ldlit false 5 (-3)),
     (.A, true, 0x92529832, .amo false 2 true 5 6 0 true 2 2), (.A, true, 0x94643A3B, .cas false 3 4 7 8 true 3 3), (.A, true, 0x96000000, .fence false 0),
     (.A, true, 0x96020000, .fence false 1), (.A, true, 0x96040000, .fence false 2), (.A, true, 0x96060000, .fence false 3),
     (.A, true, 0x96080000, .fence false 4), (.A, true, 0x96100000, .knot false), (.A, true, 0x8A536002, .st false 5 6 true 4 0 2),
     (.A, true, 0x8A533190, .stOrdered false 5 6 6 0 2 2), (.S, true, 0x88450002, .stb false 2 5 false 0 2), (.S, true, 0x88451980, .stbOrdered false 2 5 0 2 3),
     (.S, true, 0x8A626240, .stsc false 3 1 6 0 2 2 false)] : List (Cluster × Bool × Nat × Instr)).all decodes) = true := by decide +kernel

/-- shuttle, Cutwork, Couching, state, queue and PROBE commands. -/
theorem test_engine_words_decode : (([(.A, true, 0x980214C0, .shgo false 4 5 6 false), (.A, true, 0x980214C1, .shgo false 4 5 6 true), (.A, true, 0x98100007, .shwm false false 7),
     (.A, true, 0x98100407, .shwm false true 7), (.A, true, 0x98228000, .recfl false 5), (.A, true, 0x9A0214DF, .rowcp false 4 5 6 31),
     (.A, true, 0x9A1214C7, .rowfill false 4 5 6 7), (.A, true, 0x9A2214C9, .rowlog false 4 5 6 2 1), (.A, true, 0x9A2214D0, .rowlog false 4 5 6 4 0),
     (.A, true, 0x9C0400C0, .nbenter false 8 6), (.A, true, 0x9C1424C0, .nbload false 8 9 6), (.A, true, 0x9C2400C1, .nbmac false 8 6 true),
     (.A, true, 0x9C3400C2, .nbread false 8 6 2), (.A, true, 0x9C4400C0, .nbexit false 8 6), (.A, true, 0x9E0214C1, .prot false 4 5 6 true),
     (.A, true, 0x9E0214C0, .prot false 4 5 6 false), (.A, true, 0x9E1280C0, .rndend false 5 6), (.A, true, 0x9E2214C0, .darn false 4 5 6),
     (.A, true, 0x9E3214C0, .lhint false 4 5 6), (.A, true, 0xA0021400, .signal false 4 5), (.A, true, 0xA01214C0, .enq false 4 5 6),
     (.A, true, 0xA253100C, .probe false 5 6 2 12), (.A, true, 0xA2031000, .probeCfg false 6 2)] : List (Cluster × Bool × Nat × Instr)).all decodes) = true := by decide +kernel

/-- the M cluster. -/
theorem test_array_words_decode : (([(.M, true, 0x88020001, .lease false 4 1), (.M, true, 0x88200005, .sclaim false 5), (.M, true, 0x8820002F, .sclaim false 47),
     (.M, true, 0x88300005, .sfree false 5), (.M, true, 0x88420000, .fwq false 4), (.M, true, 0x88500000, .aclaim false 0),
     (.M, true, 0x88600000, .afree false 0), (.M, true, 0x88700003, .accz false 3), (.M, true, 0x88828003, .lsflag false 5 false false 3),
     (.M, true, 0x88828063, .lsflag false 5 true true 3), (.M, true, 0x88900003, .accspill false 3), (.M, true, 0x88A00003, .accfill false 3),
     (.M, true, 0x8A429200, .mma false 2 5 9 false), (.M, true, 0x8A429300, .mma false 2 5 9 true), (.M, true, 0x8BF78100, .mma false 15 47 0 true),
     (.M, true, 0x8C442991, .adrain false 2 4 5 6 2 1)] : List (Cluster × Bool × Nat × Instr)).all decodes) = true := by decide +kernel

/-- integer and lane-moving V instructions. -/
theorem test_vector_words_decode : (([(.V, true, 0x840C2050, .vadd false 3 4 5 false), (.V, true, 0x840C2051, .vsub false 3 4 5 false), (.V, true, 0x840C2052, .vmul false 3 4 5 false),
     (.V, true, 0x840C2053, .vminS32 false 3 4 5 false), (.V, true, 0x840C2055, .vmaxS32 false 3 4 5 false), (.V, true, 0x860C2050, .vshl false 3 4 5 false),
     (.V, true, 0x860C2051, .vshr false 3 4 5 false), (.V, true, 0x860C2052, .vsra false 3 4 5 false), (.V, true, 0x860C2053, .vgfmul false 3 4 5 false),
     (.V, true, 0x860C2054, .vperm false 3 4 5 false), (.V, true, 0x8A082052, .vcmp false 2 4 5 false 2), (.V, true, 0x820C2060, .vpopc false 3 4 false),
     (.V, true, 0x820C2070, .vmov false 3 4 false), (.V, true, 0x900C2056, .vgfma false 3 4 5 6), (.V, true, 0x920C2056, .vsel false 3 4 5 6),
     (.V, true, 0x940C2056, .vfsh false 3 4 5 6), (.V, true, 0x96184596, .vlog3 false 3 4 5 0x96), (.V, true, 0x9A0C2058, .vpack false 3 4 5 2 false),
     (.V, true, 0x9A0C2026, .vunpk false 3 4 2 1 false), (.V, true, 0x9C0C2000, .vred false 3 4 false 0), (.V, true, 0x9E0C20A0, .vbcast false 3 4 5 false),
     (.V, true, 0x9E0C20A8, .vslideUp false 3 4 5 false), (.V, true, 0xA00C0120, .vfill false 3 2 false), (.V, true, 0xA00C0100, .vspill false 3 2 false),
     (.V, true, 0xA2C40000, .vsetl false 16)] : List (Cluster × Bool × Nat × Instr)).all decodes) = true := by decide +kernel

/-- floating-point V instructions. -/
theorem test_float_words_decode : (([(.V, true, 0x800C2050, .vfadd false 3 4 5 false), (.V, true, 0x800C2051, .vfsub false 3 4 5 false), (.V, true, 0x800C2052, .vfmul false 3 4 5 false),
     (.V, true, 0x800C2053, .vfmin false 3 4 5 false), (.V, true, 0x800C2054, .vfmax false 3 4 5 false), (.V, true, 0x800C2055, .vfdiv false 3 4 5 false),
     (.V, true, 0x820C2000, .vfsqrt false 3 4 false), (.V, true, 0x820C2010, .vfrcp false 3 4 false), (.V, true, 0x820C2020, .vfexp2 false 3 4 false),
     (.V, true, 0x820C2030, .vflog2 false 3 4 false), (.V, true, 0x820C2040, .vfabs false 3 4 false), (.V, true, 0x820C2050, .vfclass false 3 4 false),
     (.V, true, 0x88082052, .vfcmp false 2 4 5 false 2), (.V, true, 0x8C0C2056, .vfma false 3 4 5 6), (.V, true, 0x8C100823, .vfma false 4 1 2 3),
     (.V, true, 0x8E0C2056, .vfnma false 3 4 5 6), (.V, true, 0x980C2080, .vcvt false 3 4 1 0 0 false)] : List (Cluster × Bool × Nat × Instr)).all decodes) = true := by decide +kernel

/-- predicates. -/
theorem test_predicate_words_decode : (([(.V, true, 0xA2062400, .plog false 3 1 2 0), (.V, true, 0xA2062480, .plog false 3 1 2 2), (.V, true, 0xA2244000, .pset false 2 16),
     (.V, true, 0xA2420000, .ppack false 8 false), (.V, true, 0xA2422000, .ppack false 8 true), (.V, true, 0xA2620000, .punpk false 8 false),
     (.V, true, 0xA2622000, .punpk false 8 true), (.V, true, 0xA280D400, .pcnt false 3 5), (.V, true, 0xA2A0D400, .pfirst false 3 5)] : List (Cluster × Bool × Nat × Instr)).all decodes) = true := by decide +kernel

/-- R94: a reserved opcode, a reserved field and a field out of range are refused by name. -/
theorem test_reserved_words_are_refused : (decodeWord .A false 0).isOk = false ∧ (decodeWord .A true 0x803215A6).isOk = false ∧
    (decodeWord .V true 0x80531C00).isOk = true ∧ (decodeWord .M true 0xA0021400).isOk = false ∧ (decodeWord .A true 0xB4000001).isOk = false := by
  decide +kernel

/-- R94: the word of an event row is no instruction, and the encoder writes the words that the entries print. -/
theorem test_encoder_writes_the_words : encode (.add false 5 6 7) = 0x80531C00 ∧ encode (.brc false 0 4 (-24)) = 0xBA09FFE8 ∧
    encode (.vfma false 4 1 2 3) = 0x8C100823 ∧ encode (.adrain false 2 4 5 6 2 1) = 0x8C442991 ∧ encode (.xcall true 0xE00) = 0xF6000E00 := by decide +kernel

/-! ## Small states and what one instruction leaves -/

/-- A running task 1 of gang 1, at address 0x10000, with one active cluster. -/
def running (c : Cluster) : Ctx :=
  ({ Ctx.reset with cid := 1, gang := 1, asid := 3, life := .ready, running := true } : Ctx).modCl c
    (fun k => { k with active := true, pc := 0x10000 })

/-- The machine with the turn at cluster `c` of that task. -/
def onTurn (c : Cluster) : State := { State.reset with now := 10, plan := [c], ctx := running c }

/-- Values of the scalar registers of a cluster. -/
def withRegs (c : Cluster) (rs : List (Nat × W64)) (s : State) : State :=
  s.modCtx (fun x => { x with regs := rs.foldl (fun r p => r.setGpr c p.1 p.2) x.regs })

/-- The A cluster's turn with these scalar registers. -/
def scalarState (rs : List (Nat × W64)) : State := withRegs .A rs (onTurn .A)

/-- Vector registers, each with its first lanes. -/
def withVectors (vs : List (Nat × List W32)) (s : State) : State :=
  s.modCtx (fun x => { x with regs := vs.foldl (fun r p => { r with v := vset r.v p.1 (ofLanes (fun k => p.2.getD k 0)) }) x.regs })

/-- The V cluster's turn with VLEN and these vector registers. -/
def vectorState (vlen : BitVec 7) (vs : List (Nat × List W32)) : State :=
  withVectors vs ((onTurn .V).modCtx (fun x => { x with sr := { x.sr with vlen := vlen } }))

/-- Predicates. -/
def withPreds (ps : List (Nat × W64)) (s : State) : State :=
  s.modCtx (fun x => { x with regs := ps.foldl (fun r p => { r with p := vset r.p p.1 p.2 }) x.regs })

/-- The writes that an instruction leaves in flight: the cycles until they land, and their effects. -/
def leaves (i : Instr) (s : State) : List (Nat × Effect) :=
  match exec i s with
  | .next t => t.ctx.flight.map (fun w => (w.lands - s.now, w.eff))
  | .fault _ => []
  | .refused _ => []

/-- The scalar result of an instruction of the A cluster: its latency, register and value. -/
def result (i : Instr) (s : State) : Option (Nat × Nat × W64) :=
  match leaves i s with
  | [(n, .scalar .A r v)] => some (n, r, v)
  | _ => none

/-- The first lanes that a vector result writes and the latency, and the flags that land with it. -/
def lanes (n : Nat) (i : Instr) (s : State) : Option (Nat × List (Option W32) × BitVec 10) :=
  match leaves i s with
  | [(l, .vector _ m v)] => some (l, (List.range n).map (fun k => if lane m k = 0 then none else some (lane v k)), 0)
  | [(l, .vector _ m v), (_, .fcsrOr g)] => some (l, (List.range n).map (fun k => if lane m k = 0 then none else some (lane v k)), g)
  | _ => none

/-- An instruction leaves these first lanes after this latency, with these flags. -/
def gives (n : Nat) (i : Instr) (s : State) (lat : Nat) (ls : List (Option W32)) (g : BitVec 10) : Bool :=
  match lanes n i s with
  | some r => r.1 == lat && (r.2.1 == ls && r.2.2 == g)
  | none => false

/-- How the last issue attempt ended, with the stop record's cause and TVAL after a trap that is not delegated. -/
def outcome (i : Instr) (s : State) : Option (Verdict × Option (W64 × W64)) :=
  match exec i s with
  | .next t => some (t.verdict, t.ctx.stop.map (fun r => (r.cause, r.tval)))
  | .fault _ => none
  | .refused _ => none

/-- VSP and VSLIM of the example. -/
def stackState (vsp : BitVec 20) : State :=
  (vectorState 1 [(16, [5])]).modCtx (fun x => { x with sr := { x.sr with vsp := vsp, vslim := 0x3000 } })

/-! ## Scalar results (tables and examples of R336, R338, R361, R362, R379, R335, R387, R400) -/

theorem test_add_wraps_and_reads_a0_as_zero :
    result (.add false 5 6 7) (scalarState [(6, -1), (7, 3)]) = some (1, 5, 2) ∧
    result (.sub false 3 0 5) (scalarState [(5, 1)]) = some (1, 3, 0xFFFFFFFFFFFFFFFF) := by decide +kernel
theorem test_addi_sign_extends :
    result (.addi false 3 4 (-200)) (scalarState [(4, 100)]) = some (1, 3, 0xFFFFFFFFFFFFFF9C) ∧
    result (.addi16 false 5 (-3)) (scalarState [(5, 2)]) = some (1, 5, 0xFFFFFFFFFFFFFFFF) := by decide +kernel
theorem test_div_gives_the_quotients_of_its_table :
    result (.div false 3 4 5 false) (scalarState [(4, 7), (5, -2)]) = some (16, 3, 0xFFFFFFFFFFFFFFFD) ∧
    result (.div false 3 4 5 true) (scalarState [(4, -1), (5, 2)]) = some (16, 3, 0x7FFFFFFFFFFFFFFF) ∧
    result (.div false 3 4 5 false) (scalarState [(4, 0x8000000000000000), (5, -1)]) = some (16, 3, 0x8000000000000000) ∧
    result (.div false 3 4 5 true) (scalarState [(4, 0x2A)]) = some (16, 3, 0xFFFFFFFFFFFFFFFF) := by decide +kernel
theorem test_rem_gives_the_remainders_of_its_table :
    result (.rem false 3 4 5 false) (scalarState [(4, 7), (5, -2)]) = some (16, 3, 1) ∧
    result (.rem false 3 4 5 false) (scalarState [(4, -7), (5, 2)]) = some (16, 3, 0xFFFFFFFFFFFFFFFF) ∧
    result (.rem false 3 4 5 true) (scalarState [(4, -1), (5, 16)]) = some (16, 3, 15) ∧
    result (.rem false 3 4 5 false) (scalarState [(4, 0x8000000000000000), (5, -1)]) = some (16, 3, 0) ∧
    result (.rem false 3 4 5 false) (scalarState [(4, 0x2A)]) = some (16, 3, 0x2A) := by decide +kernel
theorem test_mulh_is_signed_or_unsigned :
    result (.mulh false 3 4 5 false) (scalarState [(4, -1), (5, 1)]) = some (3, 3, 0xFFFFFFFFFFFFFFFF) ∧
    result (.mulh false 3 4 5 true) (scalarState [(4, -1), (5, -1)]) = some (3, 3, 0xFFFFFFFFFFFFFFFE) ∧
    result (.mul false 3 4 5) (scalarState [(4, -1), (5, 7)]) = some (3, 3, 0xFFFFFFFFFFFFFFF9) := by decide +kernel
theorem test_comparisons_of_the_example :
    result (.cmp false 3 4 5 2) (scalarState [(4, -1), (5, 1)]) = some (1, 3, 1) ∧
    result (.cmp false 3 4 5 4) (scalarState [(4, -1), (5, 1)]) = some (1, 3, 0) ∧
    result (.max false 3 4 5 false) (scalarState [(4, -1), (5, 1)]) = some (1, 3, 1) ∧
    result (.max false 3 4 5 true) (scalarState [(4, -1), (5, 1)]) = some (1, 3, 0xFFFFFFFFFFFFFFFF) ∧
    result (.min false 3 4 5 false) (scalarState [(4, -1), (5, 1)]) = some (1, 3, 0xFFFFFFFFFFFFFFFF) ∧
    result (.min false 3 4 5 true) (scalarState [(4, -1), (5, 1)]) = some (1, 3, 1) := by decide +kernel
theorem test_counts_of_the_examples :
    result (.clz false 3 4) (scalarState []) = some (1, 3, 64) ∧
    result (.clz false 3 4) (scalarState [(4, 1)]) = some (1, 3, 63) ∧
    result (.popc false 3 4) (scalarState [(4, 0x80000000000000FF)]) = some (1, 3, 9) := by decide +kernel
theorem test_shifts_of_the_example :
    result (.shl false 3 4 5) (scalarState [(4, 0x80000000000000F0), (5, 0x44)]) = some (1, 3, 0xF00) ∧
    result (.shr false 3 4 5) (scalarState [(4, 0x80000000000000F0), (5, 0x44)]) = some (1, 3, 0x080000000000000F) ∧
    result (.sra false 3 4 5) (scalarState [(4, 0x80000000000000F0), (5, 0x44)]) = some (1, 3, 0xF80000000000000F) := by decide +kernel
theorem test_immediates_of_the_example :
    result (.li false 4 0x40) (scalarState []) = some (1, 4, 0x40) ∧
    result (.lih false 4 2 0x7000) (scalarState [(4, 0x40)]) = some (1, 4, 0x0000700000000040) ∧
    result (.li false 3 (-1)) (scalarState []) = some (1, 3, 0xFFFFFFFFFFFFFFFF) ∧
    result (.sel false 3 4 5 6) (scalarState [(4, 1), (5, 2), (6, 8)]) = some (1, 3, 1) ∧
    result (.andn false 3 4 5) (scalarState [(4, 0xFF), (5, 0x0F)]) = some (1, 3, 0xF0) := by decide +kernel

/-! ## Vector results -/

theorem test_vadd_leaves_inactive_lanes :
    gives 3 (.vadd false 3 4 5 true) (withPreds [(0, 0b101)] (vectorState 3 [(4, [1, 2, 0xFFFFFFFF]), (5, [10, 20, 2])])) 2 [some 11, none, some 1] 0 := by decide +kernel
theorem test_vfsh_of_the_example :
    gives 1 (.vfsh false 3 4 5 6) (vectorState 1 [(4, [1]), (5, [0x80000000]), (6, [1])]) 1 [some 0xC0000000] 0 ∧
    gives 1 (.vfsh false 3 4 5 6) (vectorState 1 [(4, [1]), (5, [0x80000000]), (6, [31])]) 1 [some 3] 0 ∧
    gives 1 (.vfsh false 3 5 4 6) (vectorState 1 [(4, [1]), (5, [0x80000000]), (6, [31])]) 1 [some 0] 0 := by decide +kernel
theorem test_vlog3_truth_tables :
    gives 1 (.vlog3 false 3 4 6 0x96) (vectorState 1 [(3, [0xF0]), (4, [0xCC]), (6, [0xAA])]) 1 [some 0x96] 0 ∧
    gives 1 (.vlog3 false 3 4 6 0xE8) (vectorState 1 [(3, [0xF0]), (4, [0xCC]), (6, [0xAA])]) 1 [some 0xE8] 0 ∧
    gives 1 (.vlog3 false 3 4 6 0xF0) (vectorState 1 [(3, [0x1234]), (4, [0xCC]), (6, [0xAA])]) 1 [some 0x1234] 0 := by decide +kernel
theorem test_vgfmul_uses_the_field_of_R270 :
    gives 1 (.vgfmul false 3 4 5 false) (vectorState 1 [(4, [0x0A800201]), (5, [0xDD02018E])]) 2 [some 0x011D028E] 0 := by decide +kernel
theorem test_lane_moves :
    gives 3 (.vslideUp false 3 4 1 false) (vectorState 3 [(4, [7, 8, 9])]) 3 [some 0, some 7, some 8] 0 ∧
    gives 3 (.vslideDown false 3 4 1 false) (vectorState 2 [(4, [7, 8, 9])]) 3 [some 8, some 9, none] 0 ∧
    gives 2 (.vbcast false 3 4 2 false) (vectorState 2 [(4, [7, 8, 9])]) 3 [some 9, some 9] 0 ∧
    gives 2 (.vperm false 3 4 5 false) (vectorState 2 [(4, [7, 8, 9]), (5, [2, 64])]) 3 [some 9, some 0] 0 := by decide +kernel
theorem test_vpack_shifts_the_image :
    gives 3 (.vpack false 3 4 5 2 false) (vectorState 2 [(3, [0xDEAD]), (4, [0x11111, 0x22222]), (5, [0x33333])]) 3 [some 0x22221111, some 0, some 0] 0 ∧
    gives 2 (.vunpk false 3 4 1 2 false) (vectorState 2 [(4, [0xAAAABBBB])]) 3 [some 0, some 0] 0 ∧
    gives 2 (.vunpk false 3 4 0 2 false) (vectorState 2 [(4, [0xAAAABBBB])]) 3 [some 0xBBBB, some 0xAAAA] 0 := by decide +kernel
theorem test_integer_minimum_and_maximum :
    gives 1 (.vminS32 false 3 4 5 false) (vectorState 1 [(4, [0xFFFFFFFF]), (5, [1])]) 2 [some 0xFFFFFFFF] 0 ∧
    gives 1 (.vminN32 false 3 4 5 false) (vectorState 1 [(4, [0xFFFFFFFF]), (5, [1])]) 2 [some 1] 0 ∧
    gives 1 (.vmaxS32 false 3 4 5 false) (vectorState 1 [(4, [0xFFFFFFFF]), (5, [1])]) 2 [some 1] 0 ∧
    gives 1 (.vsra false 3 4 5 false) (vectorState 1 [(4, [0x80000000]), (5, [33])]) 2 [some 0xC0000000] 0 := by decide +kernel

/-! ## Floating point (Table 21.1, the examples of R75, R109, R112, R421, R450) -/

theorem test_transcendentals_of_the_example :
    gives 1 (.vfrcp false 3 4 false) (vectorState 1 [(4, [0x40400000])]) 6 [some 0x3EAAAAAB] flagNX ∧
    gives 1 (.vfexp2 false 3 4 false) (vectorState 1 [(4, [0x3F000000])]) 6 [some 0x3FB504F3] flagNX ∧
    gives 1 (.vflog2 false 3 4 false) (vectorState 1 [(4, [0x41200000])]) 6 [some 0x40549A78] flagNX := by decide +kernel
theorem test_fused_and_plain_sums_of_the_example :
    gives 1 (.vfma false 4 1 2 3) (vectorState 1 [(1, [0x40000000]), (2, [0x40400000]), (3, [0x3F000000])]) 4 [some 0x40D00000] 0 ∧
    gives 1 (.vfadd false 4 2 3 false) (vectorState 1 [(2, [0x40400000]), (3, [0x3F000000])]) 4 [some 0x40600000] 0 ∧
    gives 1 (.vfmul false 6 4 1 false) (vectorState 1 [(4, [0x40600000]), (1, [0x40000000])]) 4 [some 0x40E00000] 0 ∧
    gives 1 (.vfdiv false 9 1 2 false) (vectorState 1 [(1, [0x3F800000]), (2, [0x40400000])]) 12 [some 0x3EAAAAAB] flagNX := by decide +kernel
theorem test_special_values_of_table_21_1 :
    gives 1 (.vfsqrt false 3 4 false) (vectorState 1 [(4, [0xBF800000])]) 12 [some 0x7FC00000] flagNV ∧
    gives 1 (.vfsqrt false 3 4 false) (vectorState 1 [(4, [0x80000000])]) 12 [some 0x80000000] 0 ∧
    gives 1 (.vfrcp false 3 4 false) (vectorState 1 [(4, [0xFF800000])]) 6 [some 0x80000000] 0 ∧
    gives 1 (.vflog2 false 3 4 false) (vectorState 1 [(4, [0x41000000])]) 6 [some 0x40400000] 0 := by decide +kernel
theorem test_vcvt_writes_one_part :
    leaves (.vcvt false 3 4 1 0 1 false) (vectorState 1 [(3, [0x12345678]), (4, [0x3F800000])]) =
      [(3, .vector (.v 3) 0xFFFF0000 0x3F800000)] ∧
    gives 1 (.vcvt false 3 4 0 3 3 false) (vectorState 1 [(4, [0x3F000000])]) 3 [some 0x3FF00000] 0 := by decide +kernel
theorem test_stochastic_rounding_of_the_example :
    leaves (.vcvt false 3 4 1 0 0 false) ((vectorState 1 [(4, [0x3F808000])]).modCtx (fun x => { x with sr := { x.sr with fcsr := 4 } })) =
      [(3, .vector (.v 3) 0xFFFF 0x3F81), (3, .fcsrOr flagNX), (1, .lfsrStep 0x80200003)] ∧
    lfsrNext 0x80200003 = 0xC0300002 := by decide +kernel
theorem test_vred_follows_the_tree :
    gives 5 (.vred false 3 4 false 0) (vectorState 4 [(4, [0x3F800000, 0x33800000, 0x33800000, 0])]) 8 [some 0x3F800000, some 0x3F800000, some 0x3F800000, some 0x3F800000, none] flagNX := by decide +kernel
theorem test_l8_conversions_of_the_example :
    gives 3 (.vcvt false 3 4 6 0 0 false) (vectorState 3 [(4, [0x476A6000, 0x47976000, 0x48435000])]) 3 [some 0x7D, some 0x7E, some 0x7E] (flagNX ||| flagOF) ∧
    expandL8 0x7D = 0x4756E000 ∧ expandL8 0x01 = 0x35863000 ∧ expandL8 0x78 = 0x447A0000 := by decide +kernel

/-! ## Predicates (the examples of R377 and R380) -/

theorem test_pcnt_and_pfirst_of_the_example :
    gives 1 (.pcnt false 3 5) (withPreds [(5, 0xA00)] (vectorState 64 [])) 1 [some 2] 0 ∧
    gives 1 (.pcnt false 3 5) (withPreds [(5, 0xA00)] (vectorState 10 [])) 1 [some 1] 0 ∧
    gives 1 (.pfirst false 3 5) (withPreds [(5, 0xA00)] (vectorState 10 [])) 1 [some 9] 0 ∧
    gives 1 (.pfirst false 3 5) (withPreds [(5, 0xA00)] (vectorState 8 [])) 1 [some 64] 0 := by decide +kernel
theorem test_ppack_of_the_example :
    gives 5 (.ppack false 8 true) (withPreds [(8, 0xFFFF0001), (9, 0x8000000000000000)] (vectorState 1 [])) 2 [some 0xFFFF0001, some 0, some 0, some 0x80000000, some 0] 0 ∧
    leaves (.plog false 3 1 2 3) (withPreds [(1, 0b1100), (2, 0b1010)] (vectorState 1 [])) = [(1, .pred 3 0b0100)] ∧
    leaves (.pset false 2 64) (vectorState 1 []) = [(1, .pred 2 0xFFFFFFFFFFFFFFFF)] := by decide +kernel
theorem test_comparison_into_a_predicate :
    leaves (.vcmp false 2 4 5 false 2) (vectorState 2 [(4, [0xFFFFFFFF, 1]), (5, [0, 0])]) = [(2, .pred 2 1)] ∧
    leaves (.vcmp false 2 4 5 false 4) (vectorState 2 [(4, [0xFFFFFFFF, 1]), (5, [0, 2])]) = [(2, .pred 2 2)] := by decide +kernel

/-! ## The vector stack (the example of R456) -/

theorem test_vspill_pushes_and_faults :
    (leaves (.vspill false 16 0 true) (stackState 0x3100)).map (·.1) = [1, 6] ∧
    (leaves (.vspill false 16 0 true) (stackState 0x3100)).head? = some (1, .vsp 0x3000) ∧
    outcome (.vspill false 16 0 true) (stackState 0x3000) = some (.trapped, some (0x09 + 64, 0x2F00)) := by decide +kernel

/-! ## Traps and special registers -/

theorem test_traps_stop_with_cause_and_tval :
    outcome (.trap false 0x42) (onTurn .A) = some (.trapped, some (0x20, 0x42)) ∧
    outcome (.cmp false 3 4 5 6) (onTurn .A) = some (.trapped, some (0x01, 0x803215A6)) ∧
    outcome (.setsr false 3 2) (onTurn .A) = some (.trapped, some (0x02, 2)) ∧
    outcome (.getsr false 3 0x3F) (onTurn .A) = some (.trapped, some (0x01, 0x3F)) := by decide +kernel
theorem test_special_registers_read_their_reset_values :
    (leaves (.getsr false 3 0x0B) (onTurn .A)) = [(2, .scalar .A 3 1)] ∧ (leaves (.getsr false 3 0x14) (onTurn .V)).map (·.1) = [2] ∧
    (onTurn .V).ctx.sreg .V 0x14 = some 0x40000 ∧ (onTurn .V).ctx.sreg .V 0x16 = some 64 ∧ (onTurn .A).ctx.sreg .A 0x3F = none := by decide +kernel
theorem test_scratchpad_bounds :
    outcome (.ld false 5 6 5 0 0) (scalarState [(6, 0x3FFFD)]) = some (.trapped, some (0x05, 0x3FFFD)) ∧
    outcome (.ld false 5 6 5 0 1) (scalarState [(6, 0x3FFFC)]) = some (.trapped, some (0x08, 0x40000)) ∧
    outcome (.ld false 5 6 5 0 0) (scalarState [(6, 0x3FFFC)]) = some (.issued, none) := by decide +kernel
theorem test_loads_extend_the_bytes :
    result (.ld false 5 6 1 0 1) ((scalarState [(6, 0x100)]).modCtx (fun x => x.spWrite 0x100 [0x7F, 0x80])) = some (6, 5, 0xFFFFFFFFFFFFFF80) ∧
    result (.ld false 5 6 4 0 0) ((scalarState [(6, 0x100)]).modCtx (fun x => x.spWrite 0x100 [0x7F, 0x80, 1, 0xFF])) = some (6, 5, 0xFF01807F) := by decide +kernel

/-! ## Witnesses: states and operands that meet the hypotheses of the statements -/

theorem witness_DecodeGivesBackEveryEncodedInstruction :
    wellFormed .A (.add false 31 31 31) = true ∧ wellFormed .S (.stsc true 15 15 15 3 2 7 true) = true ∧ wellFormed .V (.vadd false 127 61 127 true) = true ∧
    wellFormed .M (.adrain false 15 15 15 15 4 6) = true := by decide

theorem witness_ScalarArithmeticResults :
    Valid (.add false 31 0 31) (onTurn .A) ∧ Valid (.add16 false 5 9) (onTurn .M) ∧ Valid (.addi false 15 15 (-16384)) (onTurn .S) ∧
    Valid (.addi16 false 5 (-16)) (onTurn .A) ∧ Valid (.sub false 3 4 5) (onTurn .A) ∧ Valid (.sub16 false 5 9) (onTurn .A) ∧
    Valid (.mul false 3 4 5) (onTurn .A) ∧ Valid (.mulh false 3 4 5 true) (onTurn .A) ∧ Valid (.mulh false 3 4 5 false) (onTurn .A) ∧
    Valid (.div false 3 4 5 true) (onTurn .A) ∧ Valid (.rem false 3 4 5 false) (onTurn .A) ∧
    src (onTurn .A) 5 = 0 ∧ src (scalarState [(4, 0x8000000000000000), (5, -1)]) 5 ≠ 0 := by
  simp only [Valid]; decide +kernel

theorem witness_ScalarLogicAndShiftResults :
    Valid (.and false 3 4 5) (onTurn .A) ∧ Valid (.or false 15 4 5) (onTurn .M) ∧ Valid (.xor false 3 4 5) (onTurn .S) ∧
    Valid (.andn false 31 4 5) (onTurn .A) ∧ Valid (.shl false 3 4 5) (onTurn .A) ∧ Valid (.shr false 3 4 5) (onTurn .A) ∧
    Valid (.sra false 3 4 5) (onTurn .A) := by
  simp only [Valid]; decide

theorem witness_ScalarComparisonsMovesAndImmediates :
    Valid (.cmp false 3 4 5 0) (onTurn .A) ∧ Valid (.cmp false 3 4 5 5) (onTurn .A) ∧ Valid (.min false 3 4 5 true) (onTurn .A) ∧
    Valid (.min false 3 4 5 false) (onTurn .A) ∧ Valid (.max false 3 4 5 true) (onTurn .A) ∧ Valid (.max false 3 4 5 false) (onTurn .A) ∧
    Valid (.sel false 3 4 5 31) (onTurn .A) ∧ Valid (.clz false 3 4) (onTurn .A) ∧ Valid (.popc false 3 4) (onTurn .A) ∧
    Valid (.mov false 3 4) (onTurn .A) ∧ Valid (.mov16 false 3 4) (onTurn .A) ∧ Valid (.li false 3 (-1)) (onTurn .A) ∧
    Valid (.li16 false 3 (-1)) (onTurn .A) ∧ Valid (.lih false 3 3 0xFFFF) (onTurn .A) := by
  simp only [Valid]; decide

/-- The V cluster's turn with bobbin 0, of which V consumes two wide slots, and bobbin 1, into which it writes. -/
def bobbinState : State :=
  (vectorState 64 []).modCtx (fun x => { x with
    bob := vset (vset x.bob 0 { Bobbin.reset with en := true, cons := 1, prod := 0, sz := true, depth := 3, count := 2 })
      1 { Bobbin.reset with en := true, cons := 0, prod := 1, sz := true, depth := 1, base := 128 } })

theorem witness_VaddWritesLanewiseSums :
    (Valid (.vadd false 3 4 5 false) bobbinState ∧ Ready2 bobbinState 3 4 5) ∧
    (Valid (.vadd false 69 65 127 true) bobbinState ∧ Ready2 bobbinState 69 65 127) := by
  simp only [Valid, Ready2, UnderCap, SourceReady, DestReady]; decide +kernel

theorem witness_IntegerAndLogicLanes :
    Ready2 bobbinState 69 65 127 ∧
    (∀ m, Valid (.vsub false 69 65 127 m) bobbinState ∧ Valid (.vmul false 69 65 127 m) bobbinState ∧ Valid (.vminS32 false 69 65 127 m) bobbinState ∧
      Valid (.vminN32 false 69 65 127 m) bobbinState ∧ Valid (.vmaxS32 false 69 65 127 m) bobbinState ∧ Valid (.vmaxN32 false 69 65 127 m) bobbinState ∧
      Valid (.vshl false 69 65 127 m) bobbinState ∧ Valid (.vshr false 69 65 127 m) bobbinState ∧ Valid (.vsra false 69 65 127 m) bobbinState ∧
      Valid (.vgfmul false 69 65 127 m) bobbinState) ∧
    Valid (.vgfma false 69 65 127 15) bobbinState ∧ Valid (.vfsh false 69 65 127 15) bobbinState ∧ Valid (.vsel false 69 65 127 15) bobbinState ∧
    (Valid (.vlog3 false 55 65 15 0x96) bobbinState ∧ UnderCap bobbinState [(55 : BitVec 6).setWidth 7, 65] ∧ SourceReady bobbinState 65) := by
  simp only [Valid, Ready2, UnderCap, SourceReady, DestReady]; decide +kernel

theorem witness_LanesMoveAndPack :
    Ready1 bobbinState 69 65 ∧ Ready2 bobbinState 69 65 61 ∧
    (∀ m, Valid (.vmov false 69 65 m) bobbinState ∧ Valid (.vpopc false 69 65 m) bobbinState ∧ Valid (.vbcast false 69 65 63 m) bobbinState ∧
      Valid (.vslideUp false 69 65 63 m) bobbinState ∧ Valid (.vslideDown false 69 65 63 m) bobbinState ∧ Valid (.vperm false 69 65 61 m) bobbinState ∧
      Valid (.vunpk false 69 65 7 0 m) bobbinState ∧ Valid (.vfclass false 69 65 m) bobbinState ∧ Valid (.vpack false 69 65 61 2 m) bobbinState) := by
  simp only [Valid, Ready1, Ready2, UnderCap, SourceReady, DestReady]; decide +kernel

theorem witness_PredicatesAndTheVectorStack :
    (turn bobbinState = .V ∧ (64 : BitVec 7).toNat ≤ 64 ∧ 64 < (65 : BitVec 7).toNat) ∧
    (Valid (.vcmp false 15 65 127 true 5) bobbinState ∧ UnderCap bobbinState [65, 127] ∧ SourceReady bobbinState 65) ∧
    Valid (.plog false 15 15 15 4) bobbinState ∧
    (Valid (.pcnt false 69 15) bobbinState ∧ Valid (.pfirst false 69 15) bobbinState ∧ UnderCap bobbinState [69] ∧ DestReady bobbinState 69) ∧
    Valid (.ppack false 69 true) bobbinState ∧ (Valid (.punpk false 65 true) bobbinState ∧ UnderCap bobbinState [65]) ∧
    (Valid (.vfill false 55 0 true) (stackState 0x3100) ∧ UnderCap (stackState 0x3100) [55] ∧ wmHolds (stackState 0x3100).ctx 0x3100 256 = false ∧
      0x3100 + 256 ≤ (stackState 0x3100).ctx.spSize ∧ earlyWord (stackState 0x3100).ctx 0x3100 256 = none ∧
      (stackState 0x3100).ctx.spLost 0x3100 256 = false) ∧
    (Valid (.vspill false 31 0 true) (stackState 0x3100) ∧ UnderCap (stackState 0x3100) [31] ∧
      (stackState 0x3100).ctx.sr.vsp.toNat = 0x3000 + 256 ∧ (stackState 0x3100).ctx.sr.vslim.toNat ≤ 0x3000) ∧
    Valid (.vsetl false 64) bobbinState := by
  simp only [Valid, UnderCap, SourceReady, DestReady]; decide +kernel

theorem witness_FloatingPointLanes :
    Ready2 bobbinState 69 65 127 ∧ Ready1 bobbinState 69 65 ∧
    (∀ m, Valid (.vfadd false 69 65 127 m) bobbinState ∧ Valid (.vfsub false 69 65 127 m) bobbinState ∧ Valid (.vfmul false 69 65 127 m) bobbinState ∧
      Valid (.vfdiv false 69 65 127 m) bobbinState ∧ Valid (.vfmin false 69 65 127 m) bobbinState ∧ Valid (.vfmax false 69 65 127 m) bobbinState ∧
      Valid (.vfabs false 69 65 m) bobbinState ∧ Valid (.vfsqrt false 69 65 m) bobbinState ∧ Valid (.vfrcp false 69 65 m) bobbinState ∧
      Valid (.vfexp2 false 69 65 m) bobbinState ∧ Valid (.vflog2 false 69 65 m) bobbinState ∧ Valid (.vfcmp false 15 65 127 m 6) bobbinState ∧
      Valid (.vcvt false 69 65 3 4 3 m) bobbinState) ∧
    Valid (.vfma false 69 65 127 15) bobbinState ∧ Valid (.vfnma false 69 65 127 15) bobbinState ∧ UnderCap bobbinState [65, 127] := by
  simp only [Valid, Ready1, Ready2, UnderCap, SourceReady, DestReady]; decide +kernel

theorem witness_VredCombinesActiveLanes :
    Valid (.vred false 69 65 true 7) bobbinState ∧ Ready1 bobbinState 69 65 ∧ (List.range 64).countP (active bobbinState true) = 0 ∧
    0 < (List.range 64).countP (active bobbinState false) := by
  simp only [Valid, Ready1, UnderCap, SourceReady, DestReady]; decide +kernel

/-- The same task in handler mode. -/
def handling (s : State) : State := s.modCtx (fun x => { x with sr := { x.sr with handler := true } })

theorem witness_SpecialRegistersAreReadAndWritten :
    (Free6 (onTurn .A) 31 ∧ Valid (.getsr false 31 0) (onTurn .A) ∧ ((onTurn .A).ctx.sreg .A 0).isSome = true ∧ sregAllowed .A false 0 = true) ∧
    (Valid (.setsr false 3 2) (handling (onTurn .A)) ∧ ((onTurn .A).ctx.sreg .A 2).isSome = true ∧ sregAllowed .A true 2 = true ∧
      (handling (onTurn .A)).ctx.sr.handler = true ∧ valueFault (handling (onTurn .A)) 2 0 = none) ∧
    (Valid (.chkerr false 7) (onTurn .A) ∧ cirTaken (onTurn .A) = false) ∧ cirTaken ((onTurn .A).writeAt 1 .cirClear) = true ∧
    Valid (.bstat false 15 31) (onTurn .A) ∧
    ((onTurn .A).ctx.sreg .A 0x3F = none ∧ Valid (.getsr false 31 0x3F) (onTurn .A) ∧ Valid (.setsr false 31 0x3F) (onTurn .A)) ∧
    (Valid (.setsr false 31 6) (onTurn .A) ∧ (onTurn .A).ctx.sr.handler = false) ∧ (4 : W64).toNat % 8 < 5 ∧ 5 ≤ (7 : W64).toNat % 8 := by
  simp only [Valid, Free6]; decide +kernel

/-- The V cluster's turn with this value in o7, as which GETSR and SETSR name it by 55. -/
def valueIn (v : W32) : State := (onTurn .V).modCtx (fun x => { x with regs := { x.regs with o := vset x.regs.o 7 (BitVec.setWidth 2048 v) } })

/-- BCFG2 with EN = 1, PROD 4, DEPTH 7 and BASE 0, or BASE 8,191. -/
def bobbinWord : W64 := 0x1100E000
def highBobbin : W64 := 0x1100FFFF

theorem witness_SpecialRegisterValues :
    (Valid (.setsr false 55 0x16) (valueIn 65) ∧ Free6 (valueIn 65) 55 ∧ (rd6 (valueIn 65) .V 55).toNat = 65 ∧ rd6 (valueIn 0) .V 55 = 0) ∧
    (Valid (.setsr false 55 0x14) (valueIn 257) ∧ (rd6 (valueIn 257) .V 55).toNat % 256 = 1) ∧
    (let s := withRegs .A [(3, bobbinWord), (4, highBobbin), (5, 0)] (onTurn .A)
     Valid (.setsr false 3 0x22) s ∧ Valid (.setsr false 4 0x22) s ∧ Valid (.setsr false 5 0x2F) s ∧ Free6 s 5 ∧
     (rd6 s .A 4).getLsbD 28 = true ∧ 65536 < bits64 highBobbin 0 13 * 8 + (bits64 highBobbin 13 8 + 1) * 8 ∧ (rd6 s .A 5).getLsbD 28 = false ∧
     valueFault s 0x22 bobbinWord = none ∧ valueFault s 0x22 highBobbin ≠ none) := by
  simp only [Valid, Free6]; decide +kernel

theorem witness_bobbinRefused :
    bobbinRefused (onTurn .A) 2 highBobbin ∧ ¬bobbinRefused (onTurn .A) 2 bobbinWord ∧
    ((running .A).land (.sreg .A 0x2F bobbinWord)).sreg .A 0x2F = some bobbinWord := by
  refine ⟨.inr (.inr (.inl (by decide +kernel))), ?_, by decide +kernel⟩
  rintro (h | h | h | h | ⟨m, hm, -, h, -⟩)
  · exact absurd h (by decide +kernel)
  · exact absurd h.1 (by decide +kernel)
  · exact absurd h (by decide +kernel)
  · exact absurd h (by decide +kernel)
  · exact absurd h (by interval_cases m <;> decide +kernel)

/-! ### Code -/

/-- Address space 3 with a 2 MiB page at virtual address 0, the frame at 0x200000, and one at 0x200000, the frame at 0x400000: `leaf` and `leaf2` are their
leaf entries. The root table is the frame at 0x100000, and the tables below it follow. -/
def mapped (leaf leaf2 : Nat) (s : State) : State :=
  { s with
    roots := [(3, 0x100000)], power := { s.power with gate := true },
    mem := ((((s.mem.store 0x100000 8 0x404001).store 0x101000 8 0x408001).store 0x102000 8 0x40C001).store 0x103000 8 leaf).store 0x103008 8 leaf2 }

/-- A clear compute page and a clear page that can only be read and executed. -/
def mappedState (s : State) : State := mapped 0x80035D 0x1000255 s

theorem test_translation_of_the_mapped_pages :
    (lookup (mappedState (onTurn .A)) 0 3 0x1234).map (fun t => (t.base, t.size, physOf (mappedState (onTurn .A)) t 0x1234)) = some (0, 0x200000, 0x201234) ∧
    (lookup (mappedState (onTurn .A)) 0 3 0x3FFFFF).map (fun t => (t.base, t.size)) = some (0x200000, 0x200000) ∧
    lookup (mappedState (onTurn .A)) 0 3 0x400000 = none ∧ (walk (mappedState (onTurn .A)) 0x1234 4 0x100000).isSome = true := by
  decide +kernel

/-- Instructions of the A cluster, or raw bytes, placed as code at virtual addresses of the page at 0. -/
def withCode (cs : List (Nat × List Byte)) (s : State) : State :=
  (mappedState s).modCtx (fun x => { x with code := cs.foldl (fun m p => m.write (0x200000 + p.1) p.2) x.code })

/-- A header of an unstaged block of two words, run once. -/
def header : List Byte := encodeBytes (.blk false 2 1 false 0 false)

/-- Headers at 0x10100, at 0x20000 and at 0xFF00. -/
def branchState (s : State) : State := withCode [(0x10100, header), (0x20000, header), (0xFF00, header)] s

/-- Bobbin 2, of which the A cluster consumes one narrow slot that holds `v`, and bobbin 3, into which it writes. -/
def withNarrow (v : Byte) (s : State) : State :=
  s.modCtx (fun x => { x with
    bob := vset (vset x.bob 2 { Bobbin.reset with en := true, cons := 0, prod := 4, depth := 3, count := 1 })
      3 { Bobbin.reset with en := true, cons := 1, prod := 0, depth := 3, base := 64 },
    bmem := x.bmem.write 0 [v] })

theorem witness_SequentialFlowBranchesAndHalt :
    let s := branchState (withRegs .A [(4, 1)] (onTurn .A))
    let v := branchState (withPreds [(3, 1)] (onTurn .V))
    let t := branchState (withNarrow 1 (onTurn .A))
    let u := branchState (withNarrow 0 (onTurn .A))
    (Valid (.nop false) s ∧ Valid (.nop16 false) s ∧ Valid (.halt false) s ∧ Valid (.halt16 false) s ∧ s.ctx.sr.handler = false ∧
      (handling s).ctx.sr.handler = true ∧ Valid (.halt false) (handling s)) ∧
    (Valid (.br false 128) s ∧ targetFault s (halfwordTarget s (128 : BitVec 25)) = none) ∧
    (Valid (.brc false 4 4 128) s ∧ (src s 4).toInt = 1 ∧ targetFault s (halfwordTarget s (128 : BitVec 17)) = none) ∧
    (Valid (.brc false 5 4 128) s ∧ Valid (.brc false 0 4 128) s) ∧
    (Valid (.brc false 3 3 128) v ∧ onesBelow (vget v.ctx.regs.p 3 0) v.ctx.sr.vlen.toNat = 1 ∧
      targetFault v (halfwordTarget v (128 : BitVec 17)) = none) ∧
    (Valid (.brb false 2 128) t ∧ slotReadable (t.ctx.bobbin 2) (turn t) 0 false = true ∧ 0 < (t.ctx.bobbin 2).count ∧
      toW64 (t.ctx.slotValue 2 (t.ctx.bobbin 2).take) = 1 ∧ targetFault t (halfwordTarget t (128 : BitVec 21)) = none) ∧
    toW64 (u.ctx.slotValue 2 (u.ctx.bobbin 2).take) = 0 ∧
    (Valid (.br false 2) s ∧ targetFault s (halfwordTarget s (2 : BitVec 25)) = some (0x03, 0x10004)) ∧
    targetFault s (halfwordTarget s (0x200000 : BitVec 25)) = some (0x06, 0x410000) ∧
    targetFault s (halfwordTarget s (2 : BitVec 17)) = some (0x03, 0x10004) ∧
    targetFault t (halfwordTarget t (2 : BitVec 21)) = some (0x03, 0x10004) := by
  simp only [Valid]; decide +kernel

/-- R329: the witness states above meet and miss the conditions. -/
theorem witness_brcHolds : brcHolds (branchState (withRegs .A [(4, 1)] (onTurn .A))) 4 4 ∧ ¬brcHolds (branchState (withRegs .A [(4, 1)] (onTurn .A))) 5 4 ∧
    brcHolds (branchState (withPreds [(3, 1)] (onTurn .V))) 3 3 ∧ ¬brcHolds (branchState (withPreds [(3, 1)] (onTurn .V))) 2 3 := by
  refine ⟨?_, ?_, ?_, ?_⟩ <;> unfold brcHolds
  · rw [if_neg (by decide +kernel)]; decide +kernel
  · rw [if_neg (by decide +kernel)]; decide +kernel
  · rw [if_pos (by decide +kernel)]; decide +kernel
  · rw [if_pos (by decide +kernel)]; decide +kernel

/-- A staged block of three body words in stages 0, 1 and 2: its stage-map word, then three NOPs. -/
def stagedState (n0 : W32) : State :=
  (withCode [(0x10000, encodeBytes (.blk false 3 3 false 2 false)), (0x10004, [0x00, 0x80, 0x88, 0x00]),
    (0x10008, (List.replicate 3 (encodeBytes (.nop false))).flatten)] (onTurn .A)).modCtx
    (fun x => { x with regs := { x.regs with n := vset x.regs.n 0 n0 } })

/-- The entry of the block of R64's example in its pass with this mask and these iterations left. -/
def entryAt (mask : BitVec 8) (left : W32) : BlockEntry :=
  { header := 0x10000, start := 0x10008, stop := 0x10014, left := left, staged := true, nstages := 3, mask := mask,
    stages := [(0x10008, 0), (0x1000C, 1), (0x10010, 2)], pre := false }

theorem test_staged_block_enters_with_its_stages :
    (match exec (.blk false 3 3 false 2 false) (stagedState 0) with
      | .next t => (t.ctx.cl.a.blocks, t.ctx.cl.a.pc)
      | _ => ([], 0)) = ([entryAt 1 2], 0x10008) := by decide +kernel

/-- The table of R64's example, pass by pass: mask and left. -/
theorem test_staged_block_passes_of_the_example :
    blockEnds false 0 0x10014 [entryAt 1 2] = ([entryAt 0b011 1], 0x10008, false) ∧
    blockEnds false 0 0x10014 [entryAt 0b011 1] = ([entryAt 0b111 0], 0x10008, false) ∧
    blockEnds false 0 0x10014 [entryAt 0b111 0] = ([entryAt 0b110 0], 0x10008, false) ∧
    blockEnds false 0 0x10014 [entryAt 0b110 0] = ([entryAt 0b100 0], 0x10008, false) ∧
    blockEnds false 0 0x10014 [entryAt 0b100 0] = ([], 0x10014, false) := by decide +kernel

theorem witness_BlocksAreEnteredRepeatedAndLeft :
    let s := stagedState 0
    let t := stagedState 3
    let k := s.ctx.cl.get (turn s)
    (Valid (.blk false 3 0 false 0 false) s ∧ badHeader 3 0 false 0 false = false ∧
      badNesting k (k.pc + 4 + BitVec.ofNat 64 (4 * (3 : BitVec 11).toNat)) = false) ∧
    (Valid (.blk false 3 0 true 0 true) s ∧ badHeader 3 0 true 0 true = false ∧ badNesting k (bodyWords s 3 0 (k.pc + 4)).2 = false ∧
      vget s.ctx.regs.n 0 0 = 0 ∧ vget t.ctx.regs.n 0 0 = 3 ∧ k.blocks.length ≠ 4) ∧
    (Valid (.blk false 3 3 false 2 false) s ∧ badHeader 3 3 false 2 false = false ∧ (readMaps s (k.pc + 4) 1).toOption = some [0x80000088] ∧
      mapsOk [0x80000088] 3 3 = true ∧ badNesting k (bodyWords s 3 0 (k.pc + 8)).2 = false) ∧
    (({ entryAt 1 2 with staged := false } : BlockEntry).staged = false ∧ 1 < (entryAt 1 2).left.toNat ∧ (entryAt 1 1).left.toNat ≤ 1) ∧
    ((entryAt 1 2).staged = true ∧ (entryAt 1 2).left ≠ 0) ∧
    ((entryAt 0b100 0).left = 0 ∧ (∀ j, j < 2 → (entryAt 0b100 0).mask.getLsbD j = false)) ∧
    ((entryAt 0b110 0).left = 0 ∧ 1 + 1 < (entryAt 0b110 0).nstages ∧ (entryAt 0b110 0).mask.getLsbD 1 = true ∧ (entryAt 0b110 0).nstages ≤ 8) := by
  simp only [Valid]; decide +kernel

/-- The cluster of `stagedState` inside these blocks. -/
def within (bs : List BlockEntry) : State := (stagedState 0).modCtx (fun x => x.modCl .A (fun k => { k with blocks := bs }))

theorem witness_HeadersThatTrap :
    (Valid (.blk false 0 1 false 0 false) (stagedState 0) ∧ Valid (.blk false 3 4 true 0 false) (stagedState 0) ∧
      Valid (.blk false 3 0 false 1 false) (stagedState 0)) ∧
    (let s := within (List.replicate 4 { entryAt 1 2 with staged := false })
     Valid (.blk false 3 1 false 0 false) s ∧ (s.ctx.cl.get (turn s)).blocks.length = 4) ∧
    (let s := within [entryAt 1 2]
     Valid (.blk false 3 1 false 0 false) s ∧ ((s.ctx.cl.get (turn s)).enclosing.map (·.staged)) = some true) ∧
    (let s := within [{ entryAt 1 2 with staged := false }]
     Valid (.blk false 30 1 false 0 false) s ∧
       ((s.ctx.cl.get (turn s)).enclosing.map (fun b => decide (b.stop.toNat < (bodyWords s 30 0 0x10004).2.toNat))) = some true) ∧
    (let s := stagedState 0
     Valid (.blk false 3 3 false 1 false) s ∧ (readMaps s 0x10004 1).toOption = some [0x80000088] ∧ mapsOk [0x80000088] 3 2 = false) ∧
    (let s := { stagedState 0 with roots := [] }
     (readMaps s 0x10004 1).toOption = none) := by
  simp only [Valid]; decide +kernel

/-- Traps with cause 6 and 0x20 delegated to the record at 0x12000, which names the streams of all four clusters. -/
def delegatedState : State :=
  (withCode [(0x12000, (List.replicate 4 (natBytes 0x20000 8)).flatten), (0x20000, header)] (onTurn .A)).modCtx
    (fun x => { x with sr := { x.sr with deleg := 0x100000040, hentry := 0x12000 } })

theorem witness_TrapsAreTaken :
    (Valid (.trap false 0x42) delegatedState ∧ Valid (.brk false 0x1234) delegatedState) ∧
    ((landed delegatedState).ctx.sr.handler = false ∧ (landed delegatedState).ctx.sr.deleg.getLsbD 0x20 = true ∧
      (entryRecord (landed delegatedState) (landed delegatedState).ctx.sr.hentry).toOption = some [0x20000, 0x20000, 0x20000, 0x20000, 0]) ∧
    (delegatedState.ctx.entry ≠ .returned ∧ ({ delegatedState.ctx with entry := .returned } : Ctx).entry = .returned) ∧
    (delegatedState.plan.tail = [] ∧ delegatedState.trapDue = none ∧ ({ delegatedState with plan := [.A, .V] } : State).plan.tail ≠ []) ∧
    (landed (handling delegatedState)).ctx.sr.handler = true ∧ (landed delegatedState).ctx.sr.deleg.getLsbD 0x21 = false := by
  simp only [Valid]; decide +kernel

/-- R240, R241: what the handler finds. -/
theorem test_delegated_trap_saves_and_enters :
    (match exec (.trap false 0x42) delegatedState with
      | .next t => (t.ctx.sr.cause, t.ctx.sr.tval, t.ctx.cl.a.epc, t.ctx.cl.a.estat, t.ctx.cl.v.estat, t.ctx.cl.m.pc, t.ctx.cl.m.ready)
      | _ => (0, 0, 0, 0, 0, 0, 0)) = (0x20, 0x42, 0x10000, 0x08, 0, 0x20000, 18) := by decide +kernel

/-- The handler of a trap of the A cluster, which alone was active, at its return: EPC has bit 0 set. -/
def returning (estat : W64) : State :=
  (handling (onTurn .A)).modCtx (fun x => x.modCl .A (fun k => { k with taskActive := true, epc := 0x10105, estat := estat }))

theorem witness_TretReturnsOrTraps :
    (Valid (.tret true) (returning 8) ∧ (returning 8).ctx.sr.handler = true ∧ inGroup (returning 8) (turn (returning 8)) true (· == 0xF4300000) = true ∧
      badRet (returning 8).ctx = 0 ∧ (returning 8).plan.tail = []) ∧
    (badRet { returning 8 with plan := [.A, .V] }.ctx = 0 ∧ ({ returning 8 with plan := [.A, .V] } : State).plan.tail ≠ []) ∧
    (Valid (.tret true) (onTurn .A) ∧ (onTurn .A).ctx.sr.handler = false) ∧ badRet (returning 0x128).ctx = 1 := by
  simp only [Valid]; decide +kernel

theorem test_tret_clears_bit_0_of_epc :
    (match exec (.tret true) (returning 8) with
      | .next t => (t.ctx.sr.handler, t.ctx.cl.a.active, t.ctx.cl.a.pc)
      | _ => (true, false, 0)) = (false, true, 0x10104) ∧
    outcome (.tret true) (returning 0x128) = some (.trapped, some (0x0D, 1)) := by decide +kernel

/-- The caller of XCALL's example, for the A stream alone: a31 = 0x3F000, one enclosing block, a record at 0x12000. -/
def callState : State :=
  (withRegs .A [(31, 0x3F000)] (withCode [(0x12000, (List.replicate 4 (natBytes 0x20000 8)).flatten), (0x20000, header)] (onTurn .A))).modCtx
    (fun x => x.modCl .A (fun k => { k with blocks := [{ entryAt 1 2 with staged := false, stages := [], stop := 0x10800 }] }))

/-- The callee of XRET's example at its return. -/
def calleeState : State :=
  (withRegs .A [(30, 0x3EFE0), (31, 0x3EFE0)] (onTurn .A)).modCtx (fun x =>
    (x.spWrite 0x3EFE0 (natBytes 0x0200000000010404 8)).modCl .A (fun k => { k with blocks := [entryAt 1 2, entryAt 1 2] }))

theorem witness_CallsAndReturns :
    (Valid (.xcall true 0x1000) callState ∧ inGroup callState (turn callState) true isXcall = true ∧ activeClusters callState = [.A] ∧
      badXcallPlace callState.ctx.cl.a = false ∧ targetFault callState 0x20000 = none ∧ halfwordTarget callState (0x1000 : BitVec 25) = 0x12000 ∧
      (entryRecord callState 0x12000).toOption = some [0x20000, 0x20000, 0x20000, 0x20000, 0] ∧ 0x3EFE0 + 32 ≤ callState.ctx.spSize ∧
      callState.plan.tail = []) ∧
    (Valid (.xret true) calleeState ∧ inGroup calleeState (turn calleeState) true (· == 0xF4500000) = true ∧
      wmHolds calleeState.ctx 0x3EFE0 32 = false ∧ earlyWord calleeState.ctx 0x3EFE0 32 = none ∧ activeClusters calleeState = [.A] ∧
      badReturn calleeState.ctx.cl.a (returnEntry calleeState 0x3EFE0 .A) = false ∧ calleeState.plan.tail = []) := by
  simp only [Valid]; decide +kernel

/-- The entry that the call writes, and what the return restores. -/
theorem test_call_and_return_of_the_example :
    (leaves (.xcall true 0x1000) callState) =
      [(6, .spStore 0x3EFE0 (natBytes 0x0200000000010004 8 ++ List.replicate 24 0) false), (1, .scalar .A 31 0x3EFE0), (1, .scalar .A 30 0x3EFE0)] ∧
    (match exec (.xret true) calleeState with
      | .next t => (t.ctx.cl.a.pc, t.ctx.cl.a.blocks.length, t.ctx.cl.a.floor)
      | _ => (0, 0, 0)) = (0x10404, 1, 0) := by decide +kernel

theorem witness_HoopGenerationCompletes :
    ({ hoop := 0, group := 0, scope := 1, expect := 4, arrived := 4, gen := 0xFFFF, doneAt := 0 } : HoopInst).arrived = 4 ∧
    (({ hoop := 0, group := 0, scope := 1, expect := 0, arrived := 0, gen := 0, doneAt := 0 } : HoopInst).settle 5).gen = 0 ∧
    (({ hoop := 0, group := 0, scope := 1, expect := 4, arrived := 4, gen := 0xFFFF, doneAt := 0 } : HoopInst).settle 5).gen = 0 := by decide

/-- A placed gang of one task with hoop 0 at quad scope, of which `gen` generations are complete; the task's record is armed in generation 0 or not. -/
def hoopState (armed : Bool) (gen : W16) : State :=
  let s := (onTurn .A).modCtx (fun x => x.setHoop 0 { HoopRec.reset with scope := 1, member := true, armed := armed })
  { s with
    now := 100,
    tamb := { s.tamb with gangs := [
      { id := 1, qslot := 0, qid := 0, asid := 3, packet := 0, inputs := [], size := 1, placed := true, saved := false,
        hoops := [{ hoop := 0, group := 0, scope := 1, expect := 2, arrived := 0, gen := gen, doneAt := 96 }], frozen := false, preempt := none,
        retired := 0, abort := false, naborts := 0, terminated := false, done := false, replay := none }] } }

/-- The focused context as the replay of task 9's audit. -/
def replaying (s : State) : State :=
  s.modCtx (fun x => { x with audit := { x.audit with replay := some { task := 9, left := [], claims := [], differs := false } } })

theorem witness_CompletesLogged :
    (replaying (onTurn .A)).ctx.replays = true ∧ (onTurn .A).ctx.replays = false ∧ Free6 (replaying (onTurn .A)) 31 ∧
    Valid (.getsr false 31 6) (replaying (onTurn .A)) ∧ ((replaying (onTurn .A)).ctx.sreg .A 6).isSome = true ∧
    Valid (.bstat false 15 31) (replaying (onTurn .A)) := by
  simp only [Valid, Free6]; decide +kernel

/-- The flags of the task, of which flag 1 is set. -/
def flagState : State := (onTurn .A).modCtx (fun x => { x with flags := vset x.flags 1 true })

/-- The arrival at hoop 0 behind a store. -/
def arrivalBehind : State :=
  releaseHoop ((hoopState false 0).modCtx (fun x => { x with
    gq := [{ num := 0, loadQ := false, issuer := .A, kind := .store, elems := [⟨0x8000, 0x208000, 0x80035D, 0x200000⟩], size := 8, data := 0,
             cls := some 0, ord := 0, scope := 0, seen := false }], nextAcc := 1 })) .A 0 HoopRec.reset (.arrive 0)

theorem witness_FlagsAndHoops :
    (Valid (.flset false 7 true) flagState ∧ Valid (.flsetSet16 false 7) flagState ∧ Valid (.flsetClear16 false 7) flagState) ∧
    (vget flagState.ctx.flags (1 : BitVec 3).toNat false = true ∧ Valid (.flwait16 false 1) flagState ∧ Valid (.flwait false 1 true) flagState ∧
      flagTaken flagState 1 = false ∧ Valid (.flwaitClr16 false 1) flagState) ∧
    vget flagState.ctx.flags 2 false = false ∧ flagTaken (flagState.writeAt 1 (.flagTake 1)) 1 = true ∧
    (let s := hoopState false 0
     let r := vget s.ctx.hoops 0 .reset
     (hoopOf s s.ctx.gang 0 r).isSome = true ∧ r.scope ≠ 0 ∧ r.member = true ∧ hoopFrozen s r = false ∧ r.armed = false ∧ s.ctx.replays = false ∧
     Valid (.harrive false 0 false) s ∧ Valid (.harrive false 0 true) s ∧ Valid (.hwait false 0) s ∧ (vget s.ctx.hoops 1 .reset).member = false) ∧
    (let s := hoopState true 1
     let r := vget s.ctx.hoops 0 .reset
     r.armed = true ∧ ∃ i ∈ hoopOf s s.ctx.gang 0 r, GoesOn s r i) ∧
    (let s := hoopState true 0
     ∃ i ∈ hoopOf s s.ctx.gang 0 (vget s.ctx.hoops 0 .reset), ¬GoesOn s (vget s.ctx.hoops 0 .reset) i) ∧
    (let s := (hoopState true 1).modCtx (fun x => x.setHoop 0 { vget x.hoops 0 .reset with armedAt := 101 })
     (vget s.ctx.hoops 0 .reset).armedAt = s.now + 1 ∧ (vget (hoopState true 1).ctx.hoops 0 .reset).armedAt ≠ 101) ∧
    (let s := hoopState false 0
     s.ctx.gq = [] ∧ 0 < 8 ∧ (hoopOf s s.ctx.gang 0 (vget s.ctx.hoops 0 .reset)).isSome = true) ∧
    (let s := arrivalBehind
     s.ctx.gq ≠ [] ∧ (s.ctx.gq[1]?).map (·.kind) = some (.arrive 0) ∧ (s.ctx.gq.take 1).map (·.kind) = [.store] ∧ performable s 1 = false) ∧
    ((replaying (onTurn .A)).ctx.replays = true ∧ Valid (.harrive false 7 true) (replaying (onTurn .A)) ∧
      Valid (.hwait false 7) (replaying (onTurn .A))) := by
  simp only [Valid, GoesOn]; decide +kernel

theorem witness_BobbinTakesAndGives :
    let s := withNarrow 1 (onTurn .A)
    let bb := s.ctx.bobbin 2
    (bb.en = true ∧ bb.cons.toNat = cnum (turn s) ∧ Valid (.btake false 2 0 true 31) s ∧ bb.sz = false ∧ (0 : BitVec 2).toNat + 1 ≤ bb.count) ∧
    (Valid (.btake false 2 3 false 0) s ∧ (3 : BitVec 2).toNat + 1 ≤ bb.slots ∧ bb.count < (3 : BitVec 2).toNat + 1) ∧ Valid (.btake16 false 2) s ∧
    (let gg := s.ctx.bobbin 3
     gg.en = true ∧ gg.prod.toNat = cnum (turn s) ∧ Valid (.bgive false 3 3) s ∧ (3 : BitVec 2).toNat + 1 ≤ gg.slots - gg.count ∧
     Valid (.bgive16 false 3) s) ∧
    (let t := s.modCtx (·.giveSlots 3 3)
     (t.ctx.bobbin 3).slots - (t.ctx.bobbin 3).count < (1 : BitVec 2).toNat + 1 ∧ (t.ctx.bobbin 3).en = true) ∧
    ((s.ctx.bobbin 4).en = false ∧ Valid (.bgive false 4 0) s ∧ bb.prod.toNat ≠ cnum (turn s)) ∧
    (Valid (.btake false 4 0 false 0) s ∧ (s.ctx.bobbin 3).cons.toNat ≠ cnum (turn s) ∧ Valid (.btake16 false 3) s ∧ Valid (.bgive16 false 2) s) ∧
    (let t := s.modCtx (fun x => { x with bob := vset x.bob 2 { x.bobbin 2 with depth := 0, sz := true } })
     (t.ctx.bobbin 2).slots < (3 : BitVec 2).toNat + 1 ∧ (t.ctx.bobbin 2).sz = true ∧ Valid (.btake false 2 0 true 3) t) := by
  simp only [Valid]; decide +kernel

/-! ### Memory -/

/-- The translations of the two mapped pages for core 0. -/
def page0 : TlbEntry := { cache := 0, asid := 3, base := 0, size := 0x200000, pte := 0x80035D }
def page1 : TlbEntry := { cache := 0, asid := 3, base := 0x200000, size := 0x200000, pte := 0x1000255 }

/-- The mapped machine with the turn at a cluster, these registers, and bobbins: 2 narrow and 4 wide for reads by LDB, 5 and 6 wide with indices and
data for the cluster `c`, 7 narrow with data for it. Both translations are cached. -/
def memState (c : Cluster) (rs : List (Nat × W64)) : State :=
  { mappedState ((withRegs c rs (onTurn c)).modCtx (fun x => { x with
    bob := (((((vset x.bob 2 { Bobbin.reset with en := true, cons := 0, prod := 4, depth := 3, count := 1 })
      |> (vset · 4 { Bobbin.reset with en := true, cons := 0, prod := 4, sz := true, depth := 1, base := 64 }))
      |> (vset · 5 { Bobbin.reset with en := true, cons := BitVec.ofNat 2 (cnum c), prod := 5, sz := true, depth := 3, base := 128, count := 2 }))
      |> (vset · 6 { Bobbin.reset with en := true, cons := BitVec.ofNat 2 (cnum c), prod := 5, sz := true, depth := 1, base := 256, count := 1 }))
      |> (vset · 7 { Bobbin.reset with en := true, cons := BitVec.ofNat 2 (cnum c), prod := 5, depth := 1, base := 384, count := 1 })) })) with tlb := [page0, page1] }

/-- Without a pseudo-channel in all-bank mode no walk waits. -/
theorem walkFree_of_no_hold (s : State) (h : s.holds = []) (va : W64) : WalkFree s va := by
  simp only [WalkFree, walkHeld, h, List.isEmpty_nil, Bool.not_true, Bool.false_and]

/-- The addresses of the tests below wait for no walk; the walk for an address whose table's pseudo-channel another context holds does. -/
theorem witness_WalkFree (c : Cluster) (rs : List (Nat × W64)) (va : W64) :
    WalkFree (memState c rs) va ∧
    ¬WalkFree { mappedState (onTurn .A) with holds := [⟨pageChannel 0 4096 0x100000, 9⟩] } 0x40 := by
  refine ⟨walkFree_of_no_hold _ rfl va, ?_⟩
  have h : walkEntries { mappedState (onTurn .A) with holds := [⟨pageChannel 0 4096 0x100000, 9⟩] } 0x40 4 0x100000 =
    0x100000 :: walkEntries { mappedState (onTurn .A) with holds := [⟨pageChannel 0 4096 0x100000, 9⟩] } 0x40 3 0x101000 := by decide +kernel
  have hm : ∀ ch, missHeld { mappedState (onTurn .A) with holds := [⟨ch, 9⟩] } ch (0x100000 / 64) = true := by
    intro ch
    simp only [missHeld, List.any_cons, beq_self_eq_true, Bool.true_or, Bool.and_true, List.isEmpty_cons, Bool.not_false, Bool.true_and]
    decide +kernel
  have hw : ∀ (s : State), s.holds.isEmpty = false → tlbFind s s.ctx.coreId s.ctx.asid 0x40 = none → tabGet s.ctx.asid.toNat s.roots = some 0x100000 →
      (∃ l, walkEntries s 0x40 4 0x100000 = 0x100000 :: l) → missHeld s (pageChannel 0 4096 0x100000) (0x100000 / 64) = true → ¬WalkFree s 0x40 := by
    rintro s he ht hr ⟨l, hl⟩ hh hf
    simp only [WalkFree, walkHeld, he, ht, hr, show canonical 0x40 = true from by decide, show va57 0x40 = 0x40 from by decide, hl, walkOf, if_true, List.any_cons, hh,
      Bool.true_or, Option.isNone_none, Bool.not_false, Bool.and_true, Bool.true_eq_false] at hf
  exact hw _ rfl (by decide +kernel) (by decide +kernel) ⟨_, h⟩ (hm _)

/-- The last 8 bytes of the scratchpad can be read. -/
theorem witness_SpReadable : SpReadable (onTurn .A) 0x3FFF8 8 ∧ SpReadable (memState .A []) 0x40 1 ∧ SpReadable (memState .A []) 0x3FF00 256 := by
  simp only [SpReadable]; decide +kernel

theorem witness_LoadsLandOrReserveASlot :
    let s := memState .A [(6, 0x3FFF8)]
    (Valid (.ld false 5 6 6 3 0) s ∧ effective s 6 (0 : BitVec 8) (bytesOf 6) = 0x3FFF8) ∧
    (Valid (.ldlit false 5 (-3)) s ∧ (pcOf s + BitVec.ofInt 64 ((-3 : BitVec 20).toInt * 4)).toNat % 4 = 0 ∧
      (codeRead s (pcOf s + BitVec.ofInt 64 ((-3 : BitVec 20).toInt * 4)) 8).toOption = some [0, 0, 0, 0, 0, 0, 0, 0] ∧
      codeLost s (pcOf s + BitVec.ofInt 64 ((-3 : BitVec 20).toInt * 4)) = false ∧
      codeLost s (pcOf s + BitVec.ofInt 64 ((-3 : BitVec 20).toInt * 4) + 4) = false) ∧
    (Receives (s.ctx.bobbin 2) ∧ (s.ctx.bobbin 2).sz = false ∧ Valid (.ldb false 2 6 true 6 0 0) s ∧ Valid (.ldb false 2 6 true 7 0 0) s) ∧
    (Receives (s.ctx.bobbin 4) ∧ Valid (.ldb false 4 0 true 7 0 8) s) ∧
    (Valid (.ldb false 2 6 false 4 0 (-2)) s ∧ effective s 6 (-2 : BitVec 8) 4 = 0x3FFF0 ∧ (translate s 0 3 .read 0x3FFF0).toOption = some page0) ∧
    (Valid (.ldbOrdered false 2 6 6 1 3 4) s ∧ (src s 6).toNat % 8 = 0 ∧ (translate s 0 3 .read 0x3FFF8).toOption = some page0) := by
  simp only [Valid, Receives]; decide +kernel

theorem witness_StoresGathersAndScatters :
    let s := memState .A [(6, 0x3FFF8), (5, 0x1234)]
    let t := memState .S [(6, 0x8000)]
    (Valid (.st false 5 6 true 6 0 0) s ∧ 0x3FFF8 + 8 ≤ s.ctx.spSize) ∧
    (Valid (.st false 5 6 false 1 0 (-1)) s ∧ (translate s 0 3 .write 0x3FFF7).toOption = some page0) ∧
    (Valid (.stOrdered false 5 6 6 0 2 4) s ∧ (translate s 0 3 .write (src s 6)).toOption = some page0) ∧
    (Valid (.stb false 7 6 true 0 (-1)) t ∧ (t.ctx.bobbin 7).en = true ∧ (t.ctx.bobbin 7).cons.toNat = cnum (turn t) ∧ 0 < (t.ctx.bobbin 7).count ∧
      (effective t 6 (-1 : BitVec 12) 8).toNat = 0x7FF8) ∧
    (Valid (.stb false 5 6 false 0 0) t ∧ (t.ctx.bobbin 5).sz = true ∧ (src t 6).toNat % 256 = 0 ∧ (translate t 0 3 .write 0x8000).toOption = some page0) ∧
    (Valid (.stbOrdered false 5 6 0 2 0) t) ∧
    (elementsAt s 0 (s.ctx.slotValue 5 0) 7 = List.replicate 64 0 ∧ (s.ctx.bobbin 5).take = 0 ∧
      (0 : W64).toNat % 4 = 0 ∧ (0 : W64).toNat + 4 ≤ s.ctx.spSize ∧ Takeable s 5 1 ∧ Receives (s.ctx.bobbin 4) ∧
      (s.ctx.bobbin 4).sz = true ∧ Valid (.ldg false 4 5 0 0 2 7 true) s ∧ Valid (.ldg false 4 5 0 0 2 7 false) s ∧
      (globalAccesses s .read (List.replicate 64 0)).toOption = some (List.replicate 64 page0)) ∧
    (Takeable t 6 1 ∧ Takeable t 5 2 ∧ Valid (.stsc false 6 5 6 0 2 7 true) t ∧ Valid (.stsc false 5 5 6 0 0 0 false) t ∧
      elementsAt t 6 (t.ctx.slotValue 5 0) 7 = List.replicate 64 0x8000 ∧ 0x8000 + 4 ≤ t.ctx.spSize ∧
      (globalAccesses t .write (List.replicate 64 0x8000)).toOption = some (List.replicate 64 page0)) := by
  simp only [Valid, Receives, Takeable]; decide +kernel

theorem witness_AtomicsFencesAndKnotsEnterTheQueues :
    let s := memState .A [(6, 0x1FFFF8)]
    let t := memState .S [(6, 0x40)]
    ((src s 6).toNat % 8 = 0 ∧ (translate s 0 3 .write (src s 6)).toOption = some page0 ∧ Valid (.amo false 0 false 6 5 8 true 3 4) s ∧
      Valid (.amo false 2 true 6 5 0 true 0 0) s ∧ Receives (s.ctx.bobbin 2) ∧ (s.ctx.bobbin 2).sz = false ∧ Valid (.cas false 2 6 7 8 true 3 3) s) ∧
    ((src t 6).toNat % 4 = 0 ∧ (translate t 0 3 .write (src t 6)).toOption = some page0 ∧ Valid (.amo false 0 false 6 5 0 false 0 0) t) ∧
    (Valid (.fence false 4) s ∧ Valid (.fence false 0) t) ∧ (Valid (.knot false) s ∧ turn s = .A) ∧ (Valid (.knot false) t ∧ turn t = .S) := by
  simp only [Valid, Receives]; decide +kernel

/-- Registers for the row commands: two rows of the compute page, and a completion word. -/
def rowState : State := memState .A [(4, 0x8000), (5, 0x10000), (6, 0x40)]

/-- Whether rows translate and pass the checks. -/
def rowsPass (s : State) (want : List (W64 × List Need)) (n : Nat) (clear share : Bool) : Bool :=
  match translateRows s want with
  | .ok rs => (rowFaults s rs n clear share).all (fun f => !f.1)
  | .error _ => false

theorem witness_RowAndNearBankCommands :
    let s := rowState
    (Room s 2 ∧ Room s 3 ∧ (src s 6).toNat % 8 = 0 ∧ (src s 4).toNat % 1024 = 0 ∧ (src s 5).toNat % 1024 = 0) ∧
    (Valid (.rowcp false 4 5 6 31) s ∧ rowsPass s (rows (src s 4) 32 [.write] ++ rows (src s 5) 32 [.read]) 32 false false = true) ∧
    (Valid (.rowfill false 4 5 6 0) s ∧ rowsPass s (rows (src s 4) 1 [.write]) 1 false false = true) ∧
    (Valid (.rowlog false 4 4 6 4 3) s ∧ rowsPass s (rows (src s 4) 4 [.read, .write] ++ rows (src s 4) 4 [.read]) 4 true true = true) ∧
    (computePage s page0 true = true ∧ (translateRows s [(src s 4, [.read])]).toOption = some [(0x8000, page0)] ∧ Valid (.nbenter false 4 6) s ∧
      Valid (.nbread false 4 6 15) s ∧ Valid (.nbexit false 4 6) s ∧ Valid (.nbmac false 4 6 true) s ∧ (src s 4).toNat % 16384 = 0) ∧
    (Valid (.nbload false 4 5 6) s ∧ (src s 5).toNat % 64 = 0 ∧
      ((translateRows s ((src s 4, [.read]) :: (List.range 8).map (fun k => (src s 5 + BitVec.ofNat 64 (64 * k), [Need.read])))).toOption.map
        (·.map (·.2))) = some (List.replicate 9 page0)) := by
  simp only [Valid, Room]; decide +kernel

/-- An open round of group 0 with one protected region, whose page 0 (without CC) may be declared, and a page registered for signals. -/
def roundState (st : GrpState) : State :=
  let s := withRegs .A [(4, 0), (5, 0), (6, 0), (7, 0x40)] (onTurn .A)
  let t := mapped 0x80025D 0x1000255 s
  { t with
    groups := vset t.groups 0 { GroupSlot.reset with state := st, rcnt := 1, k := 2, m := 1, area := 0x800000 },
    tamb := { t.tamb with signals := [(3, 0)] } }

theorem witness_StateAndQueueCommands :
    let s := roundState .opened
    let page : TlbEntry := { page0 with pte := 0x80025D }
    (Valid (.prot false 4 5 6 true) s ∧ Room s 6 ∧ (src s 5).toNat ≤ 3 ∧ (src s 4).toNat % 2 ^ 21 = 0 ∧
      (translate s 0 3 .write (src s 4)).toOption = some page ∧ badRegion s (s.group 0) page 0 true = false ∧ (s.group 0).state = .opened) ∧
    (Valid (.rndend false 5 6) s ∧ (src s 6).toNat % 8 = 0) ∧ (∀ g, g < 4 → (rowState.group g).state = .idle) ∧
    (Valid (.darn false 4 5 6) (roundState .darning) ∧ Room (roundState .darning) 4 ∧ (src s 4).toNat < (s.group 0).rcnt ∧
      ((roundState .darning).group 0).state = .darning) ∧
    (Valid (.enq false 4 7 6) s ∧ Room s 7 ∧ (src s 7).toNat % 64 = 0 ∧ wmHolds s.ctx 0x40 64 = false ∧ earlyWord s.ctx 0x40 64 = none ∧
      s.ctx.spLost 0x40 64 = false) ∧
    (Valid (.signal false 4 5) s ∧ (s.ctx.asid, va57 (src s 4) / 4096) ∈ s.tamb.signals) := by
  simp only [Valid, Room]; decide +kernel

/-- A table of 16 sets of two ways of 256-byte blocks at 0x20000, with a filled entry for block 0 and a filling one for block 1. -/
def probeTable : ProbeTable :=
  { en := true, cwaddr := 0, spbase := 0x20000, blklg := 8, setlg := 4, ways := 2, tags := [(0, ⟨0, false, 1⟩), (1, ⟨0, true, 1⟩)], ptrs := [], gen := 1 }

/-- A scratchpad whose 80 bytes at 0x100 hold a pricking of one element of each level, and whose 32 bytes at 0x200 the descriptor of that table,
as which table 2 is set up. -/
def engineState (rs : List (Nat × W64)) : State :=
  (branchState (withRegs .A ([(4, 0x100), (5, 0x40), (6, 0x200), (7, 0x300)] ++ rs) (onTurn .A))).modCtx (fun x =>
    { (x.spWrite 0x100 (natBytes 0 8 ++ (List.replicate 6 (natBytes (2 ^ 48) 8)).flatten)).spWrite 0x208 (natBytes 0x0000002000008441 8) with
      eng := { x.eng with probes := vset x.eng.probes 2 probeTable } })

theorem witness_ShuttleInstructions :
    let s := engineState []
    let p : BitVec 640 := BitVec.ofNat 640 (leNat (s.ctx.sp.read 0x100 80))
    (Valid (.shgo false 4 5 6 true) s ∧ (s.ctx.eng.channel true).cmds.length < 8 ∧ wmHolds s.ctx 0x100 80 = false ∧ (src s 4).toNat % 16 = 0 ∧
      (src s 5).toNat % 64 = 0 ∧ (src s 6).toNat % 16 = 0 ∧ (src s 4).toNat + 80 ≤ s.ctx.spSize ∧ earlyWord s.ctx 0x100 80 = none ∧
      s.ctx.spLost 0x100 80 = false ∧ badPrick p = none ∧ prickBC p = false) ∧
    Valid (.shwm false false 31) s ∧ (Valid (.recfl false 5) s ∧ (src s 5).toNat % 64 = 0) := by
  simp only [Valid]; decide +kernel

theorem witness_ProbeInstructions :
    let s := engineState [(8, 0xFF), (9, 0x100), (10, 0x200)]
    let p := vget s.ctx.eng.probes 2 .reset
    (Valid (.probeCfg false 6 15) s ∧ SpReadable s (src s 6) 32 ∧ badTable 0x0000002000008441 0 0 0 = false ∧
      bits64 0x0000002000008441 20 20 + 2 ^ (bits64 0x0000002000008441 12 4 + bits64 0x0000002000008441 8 4) * 2 ^ bits64 0x0000002000008441 6 2 ≤
        s.ctx.spSize ∧ leNat (s.ctx.sp.read 0x208 8) = 0x0000002000008441) ∧
    s.ctx.replays = false ∧ (Valid (.probe false 5 8 2 128) s ∧ s.ctx.eng.sh1.cmds.length < 8 ∧ p.en = true ∧ tabGet 0 p.tags = some ⟨0, false, 1⟩) ∧
    (Valid (.probe false 5 9 2 128) s ∧ tabGet ((src s 9).toNat / 2 ^ p.blklg % 2 ^ p.setlg) p.tags = some ⟨0, true, 1⟩ ∧
      targetFault s (halfwordTarget s (128 : BitVec 11)) = none) ∧
    (Valid (.probe false 5 10 2 128) s ∧ (∀ v, v < 2 → tabGet (v * 16 + 2) p.tags = none)) := by
  simp only [Valid, SpReadable]; decide +kernel

/-- The values of PROBE's outcomes on those states: hit, and miss with a fill of the lowest invalid way. -/
theorem test_probe_hits_and_misses :
    (leaves (.probe false 5 8 2 128) (engineState [(8, 0xFF)])) = [(4, .scalar .A 5 0x200FF)] ∧
    (leaves (.probe false 5 10 2 128) (engineState [(10, 0x205)])) = [(4, .scalar .A 5 0x20205)] := by decide +kernel

/-! ### The array -/

/-- Changes the array of the focused context's quad. -/
def withQuad (f : QuadState → QuadState) (s : State) : State := { s with quads := tabSet s.ctx.quadId (f (s.quad s.ctx.quadId)) s.quads }

/-- The M cluster's turn with registers, on an array that the context has leased for another 16 commands, with slots 0 and 1 under the names 5 and 9 and one format word. -/
def arrayState (rs : List (Nat × W64)) : State :=
  (withQuad (fun q => { q with
      lease := some { cid := 1, left := 16, next := 0, cw := 0 },
      slots := vset (vset q.slots 0 { OpSlot.reset with holder := some 1 }) 1 { OpSlot.reset with holder := some 1 } })
    (withRegs .M rs (onTurn .M))).modEng (fun e => { e with names := [(5, 0), (9, 1)], formats := [(0x0000000300330000, none)] })

theorem witness_LeasesOperandSlotsAndFormats :
    let s := withRegs .M [(4, 0x40), (5, 0x0000000300330000)] (onTurn .M)
    let t := withQuad (fun q => { q with lease := some { cid := 7, left := 1, next := 0, cw := 0 } }) s
    (s.ctx.life ≠ .none ∧ Valid (.lease false 4 7) s ∧ (src s 4).toNat % 8 = 0 ∧ (s.quad s.ctx.quadId).reqs = [] ∧ (s.quad s.ctx.quadId).lease = none) ∧
    (Valid (.lease false 4 7) t ∧ (t.quad t.ctx.quadId).lease = some { cid := 7, left := 1, next := 0, cw := 0 } ∧ 7 ≠ t.ctx.cid) ∧
    (Valid (.lfree false) (arrayState []) ∧ ((arrayState []).quad (arrayState []).ctx.quadId).lease = some { cid := 1, left := 16, next := 0, cw := 0 } ∧
      (arrayState []).ctx.cid = 1) ∧
    (Valid (.sclaim false 47) s ∧ (47 : BitVec 6).toNat < 48 ∧ slotOfName s.ctx.eng 47 = none ∧ (vget (s.quad 0).slots 0 .reset).free = true ∧
      s.ctx.quadId = 0) ∧
    (Valid (.sclaim false 48) s ∧ 48 ≤ (48 : BitVec 6).toNat ∧ slotOfName (arrayState []).ctx.eng 5 ≠ none) ∧
    (Valid (.sfree false 5) (arrayState []) ∧ slotOfName (arrayState []).ctx.eng 5 = some 0) ∧
    (Valid (.fwq false 5) s ∧ s.ctx.eng.formats.length < 16 ∧ badFormat (src s 5) = false) := by
  simp only [Valid]; decide +kernel

theorem witness_LeasesAreSettledAtTheEndOfACycle :
    (let q := (arrayState []).quad 0
     q.lease = some { cid := 1, left := 16, next := 0, cw := 0 } ∧ 1 ∉ q.freed) ∧
    (let s := withQuad (fun q => { q with lease := some { cid := 7, left := 3, next := 0, cw := 0 }, freed := [7],
                                          reqs := [{ cid := 1, pos := 0, flag := 7, cw := 0 }] }) (onTurn .M)
     nextRequest (s.quad 0) = some { cid := 1, pos := 0, flag := 7, cw := 0 } ∧ 0 < (s.quad 0).leaseMax ∧ 1 ∉ (s.quad 0).freed ∧ s.ctx.isId 1 = true ∧
     (s.quad 0).lease = some { cid := 7, left := 3, next := 0, cw := 0 } ∧ 7 ∈ (s.quad 0).freed) ∧
    (let s := withQuad (fun q => { q with lease := some { cid := 7, left := 0, next := 0, cw := 0 } }) (onTurn .M)
     (s.quad 0).reqs = [] ∧ (s.quad 0).lease = some { cid := 7, left := 0, next := 0, cw := 0 }) := by decide +kernel

theorem witness_MemoryAndCommandTraps :
    let s := memState .A [(6, 0x3FFFD), (7, 0x3FFFC), (8, 0x400000), (9, 0x200000)]
    (Valid (.ld false 5 6 5 0 0) s ∧ wmHolds s.ctx 0x3FFFD 4 = false ∧ (effective s 6 (0 : BitVec 8) 4).toNat % 4 ≠ 0) ∧
    (Valid (.ld false 5 7 5 0 1) s ∧ s.ctx.spSize < (effective s 7 (1 : BitVec 8) 4).toNat + 4) ∧
    (let t := s.modEng (fun e => { e with sh0 := { e.sh0 with hi := 0x40000, wm := 0x100 } })
     wmHolds t.ctx 0x3FFFC 4 = true ∧ Valid (.ld false 5 7 5 0 0) t) ∧
    (let t := (s.modCtx (fun x => { x with sr := { x.sr with dbgt := true } })).writeAt 3 (.spStore 0x3FFFC [1, 2, 3, 4] true)
     earlyWord t.ctx 0x3FFFC 4 = some 0x3FFFC ∧ (effective t 7 (0 : BitVec 8) 4).toNat + 4 ≤ t.ctx.spSize) ∧
    (Valid (.st false 5 6 false 5 0 0) s ∧ Valid (.amo false 0 false 6 5 0 true 0 0) s ∧ (src s 6).toNat % 8 ≠ 0) ∧
    ((src s 8).toNat % 8 = 0 ∧ lookup s s.ctx.coreId s.ctx.asid (src s 8) = none) ∧
    ((src s 9).toNat % 8 = 0 ∧ lookup s s.ctx.coreId s.ctx.asid (src s 9) = some page1 ∧ pteW page1.pte = false) ∧
    (let u := roundState .sealing
     Valid (.prot false 4 5 6 true) u ∧ (u.group 0).state ≠ .opened ∧ Valid (.darn false 4 5 6) u ∧ (u.group 0).state ≠ .darning ∧
     (u.group 0).rcnt ≤ (src u 7).toNat) ∧
    (let u := roundState .darning
     Valid (.rndend false 5 6) u ∧ (u.group 0).state ≠ .opened ∧ (u.group 0).state ≠ .sealing ∧ (u.group 0).state ≠ .prepared ∧
     (u.group 0).state ≠ .idle) ∧
    (let u := onTurn .M
     Valid (.mma false 2 5 9 false) u ∧ (u.quad u.ctx.quadId).lease = none ∧ Valid (.accz false 15) u) ∧
    (let u := withQuad (fun q => { q with tiles := vset q.tiles 15 { Tile.reset with tag := some 7 } }) (arrayState [])
     Valid (.mma false 2 6 9 false) u ∧ slotOfName u.ctx.eng 6 = none ∧ tagOf u u 15 = some 7 ∧ u.ctx.eng.asaved.getLsbD 15 = false ∧
     Valid (.aclaim false 15) u) := by
  simp only [Valid]; decide +kernel

theorem witness_TileCommandsAndLifetimeHints :
    let s := arrayState [(4, 0x100), (5, 0), (6, 0x01004000)]
    ((s.quad s.ctx.quadId).lease = some { cid := 1, left := 16, next := 0, cw := 0 } ∧ s.ctx.eng.arrayRun = .run ∧ s.ctx.eng.held = [] ∧
      ownedTval s 15 = none ∧ tagOf s s 15 = none) ∧
    (Valid (.mma false 15 5 9 true) s ∧ slotOfName s.ctx.eng 5 = some 0 ∧ slotOfName s.ctx.eng 9 = some 1) ∧ Valid (.accz false 15) s ∧
    (Valid (.adrain false 15 4 5 6 4 6) s ∧ (src s 6).toNat < 2 ^ 32 ∧ bits64 (src s 6) 8 3 = 0 ∧ bits64 (src s 6) 12 3 = 4 ∧ (src s 4).toNat % 4 = 0 ∧
      bits64 (src s 6) 16 16 % 4 = 0 ∧ (src s 6).getLsbD 15 = false ∧ (src s 4).toNat + (63 * bits64 (src s 6) 16 16 + drainRow 6) ≤ s.ctx.spSize) ∧
    (Valid (.lsflag false 4 true false 15) s ∧ (src s 4).toNat + 512 ≤ s.ctx.spSize) ∧ Valid (.accspill false 15) s ∧ Valid (.accfill false 15) s ∧
    (Valid (.aclaim false 15) s ∧ Valid (.afree false 15) s) ∧
    (let h := memState .A [(4, 0x1FFFFF), (5, 2), (6, 0xFFFF0700), (7, 0x01FFFFFFFFFFFFFF), (8, 1)]
     Valid (.lhint false 4 5 6) h ∧ bits64 (src h 6) 40 24 = 0 ∧ bits64 (src h 6) 11 5 = 0 ∧ bits64 (src h 6) 0 8 = 0 ∧
     va57 (src h 4) + (src h 5).toNat ≤ 2 ^ 57 ∧ canonical (src h 4) = true ∧ canonical (src h 7) = false ∧ 2 ^ 57 < va57 (src h 7) + (src h 5).toNat ∧ bits64 (0x0100000000000000 : W64) 40 24 ≠ 0) := by
  simp only [Valid]; decide +kernel

/-! ### Events -/

/-- Two ready contexts of one core, the focused one (`run`: running, or not) and one that is not in focus. -/
def twoContexts (run : Bool) (life : Life) (other : Bool) : State :=
  let s := (onTurn .A).modCtx (fun x => ({ x with running := run, life := life, runSince := 0 } : Ctx).modCl .A
    (fun k => { k with wait := .queueFull, waitFrom := 36 }))
  { s with now := 1100, others := if other then [{ s.ctx with cid := 2, slot := 1, running := false, life := .ready }] else [] }

theorem witness_ContextsLeaveAndEnterTheReadySet :
    (let s := twoContexts true .ready false
     Focused s 1 ∧ s.ctx.life = .ready ∧ s.ctx.eng.faults = [] ∧ (s.ctx.cl.get .A).active = true ∧ (s.ctx.cl.get .A).waitFrom + 64 ≤ s.now ∧
     (s.ctx.cl.get .A).wait = .queueFull) ∧
    (let s := twoContexts false .ready true
     (coreCtxs s 0).any (·.running) = false ∧ ((coreCtxs s 0).find? (fun x => x.life == .ready)).map (·.cid) = some 1) ∧
    (let s := twoContexts true .ready true
     ((coreCtxs s 0).find? (·.running)).map (fun r => (r.cid, r.runnable)) = some (1, true) ∧
     ((coreCtxs s 0).find? (fun x => x.life == .ready && !x.running && decide (s.ctx.runSince + 1024 ≤ s.now))).map (·.cid) = some 2) ∧
    (let s := twoContexts true .stopping false
     (coreCtxs s 0).find? (·.running) = some s.ctx ∧ s.ctx.life ≠ .none ∧ s.ctx.runnable = false) := by
  simp only [Focused]; decide +kernel

/-- The task of `hoopState` waiting at a HWAIT of its pc, on a hoop of its gang or on the pod hoop 5. -/
def hoopWaiting (pod : Bool) : State :=
  let s := hoopState true (if pod then 0 else 1)
  let t := withCode [(0x10000, encodeBytes (.hwait false 0))] (s.modCtx (fun x => (({ x with life := .hoopWait } : Ctx).setHoop 0
    { HoopRec.reset with scope := if pod then 4 else 1, group := if pod then 5 else 0, member := true, armed := true }).modCl .A
      (fun k => { k with wait := .hoop })))
  { t with hub := { t.hub with podHoops := [(5, { hoop := 0, group := 5, scope := 4, expect := 2, arrived := 1, gen := 1, doneAt := 0 })] } }

theorem witness_HoopNotificationsAndPodArrivals :
    (let s := hoopWaiting false
     let r := vget s.ctx.hoops 0 .reset
     Focused s 1 ∧ (hoopOf s s.ctx.gang 0 r).map (hoopReached s.now r) = some true ∧ hoopFrozen s r = false ∧ r.member = true ∧ r.armed = true ∧
     s.ctx.runnable = true ∧ ({ s.ctx with life := .saved } : Ctx).runnable = false ∧ r.scope ≠ 4 ∧ waitsAtHoop s .A 0 = true ∧ s.ctx.life = .hoopWait) ∧
    (let s := hoopWaiting true
     let r := vget s.ctx.hoops 0 .reset
     (hoopOf s s.ctx.gang 0 r).map (·.gen) = some 1 ∧ hoopFrozen s r = false ∧ r.armed = true ∧ r.scope = 4 ∧ r.notified = false ∧ r.gen = 0 ∧
     (tabGet 5 s.hub.podHoops).map (·.expect) = some 2) := by
  simp only [Focused]; decide +kernel

/-- Two writes that are due and one that is not. -/
def flightState : State :=
  (onTurn .A).modCtx (fun x => { x with flight := [⟨10, .scalar .A 5 7⟩, ⟨9, .scalar .A 5 8⟩, ⟨11, .scalar .A 6 9⟩] })

theorem witness_DueWritesLand :
    Focused flightState 1 ∧
    pickDue flightState.now flightState.ctx.flight = some (⟨9, .scalar .A 5 8⟩, [⟨10, .scalar .A 5 7⟩, ⟨11, .scalar .A 6 9⟩]) := by
  simp only [Focused]; decide +kernel

/-- A load of 8 bytes for bobbin 2 in the load queue, of a page with these leaf bits. -/
def queuedState (pte : W64) : State :=
  (mappedState (onTurn .A)).modCtx (fun x => { x with
    bob := vset x.bob 2 { Bobbin.reset with en := true, cons := 0, prod := 4, depth := 3, count := 1, resv := [⟨0, none⟩], nextId := 1 },
    gq := [{ num := 0, loadQ := true, issuer := .A, kind := .load 2 0 6, elems := [⟨0x8000, 0x208000, pte, 0x200000⟩], size := 8, data := 0,
             cls := some 0, ord := 0, scope := 0, seen := false }], nextAcc := 1 })

theorem witness_QueuedAccessesAreMade :
    (Focused (queuedState 0x80035D) 1 ∧ (queuedState 0x80035D).ctx.gq[0]?.isSome = true ∧ performable (queuedState 0x80035D) 0 = true) ∧
    (let s := { queuedState 0x80235D with us := 2000, sent := [((1, 0x208000), 0)] }
     s.ctx.replays = false ∧ orderedNow s 0 = true ∧
     (s.ctx.gq[0]?).map (fun y => y.elems.any (fun e => pteRMT e.pte && unanswered s e.pa)) = some true) := by
  simp only [Focused]; decide +kernel

/-- An engine fault that waits for its cluster. -/
def faultedState : State :=
  (onTurn .A).modEng (fun e =>
    { e with sh0 := { e.sh0 with run := .pending }, faults := [{ arose := 9, cause := 0x12, tval := 0x40, clu := .A, eng := 0, idx := 0, estw := 0 }] })

theorem witness_EngineFaultsAreDelivered :
    Focused faultedState 1 ∧ faultedState.ctx.eng.faults.length = 1 ∧ faultedState.ctx.sr.handler = false ∧ faultedState.ctx.running = true ∧
    faultedState.ctx.runnable = true := by
  simp only [Focused]; decide +kernel

/-- A stop record of an A cluster at 0x10000. -/
def stoppedAt : StopRecord :=
  { cause := 0, tval := 0, ecmd := 0, epcs := [0x10000, 0, 0, 0], estats := [1, 0, 0, 0], handler := false, hoopWait := false, unreadable := false, save := 0 }

/-- The gang of `hoopState` with its task's context in this phase, at 40 µs, and a context area at 0x600000. -/
def gangState (life : Life) (request : Option Nat) : State :=
  let s := (hoopState true 0).modCtx (fun x => { x with life := life, running := life == .ready, stop := some stoppedAt })
  let t := mappedState s
  { t with us := 40, mem := t.mem.store 8 8 0x600000, tamb := { t.tamb with gangs := t.tamb.gangs.map (fun g => { g with preempt := request }) } }

theorem witness_TasksAndGangsEndAndStop :
    (let s := gangState .retiring none
     Focused s 1 ∧ s.ctx.life = .retiring ∧ s.holds = [] ∧ taskQuiet s s.ctx = true ∧ statusWaits s s.ctx = false) ∧
    (let s := { gangState .retiring none with holds := [⟨5, 1⟩] }
     Focused s 1 ∧ s.ctx.life = .retiring ∧ (s.holds.map (·.cid)) = [1] ∧ s.ctx.eng.couch.cmds = []) ∧
    ((gangState .ready none).gangOf 1).map (fun g => (g.done, g.placed, g.preempt)) = some (false, true, none) ∧
    (let s := gangState .ready (some 20)
     (s.gangOf 1).map (fun g => (g.placed, g.preempt)) = some (true, some 20) ∧ 20 + 20 * microsecondUnits ≤ s.time ∧ (allCtxs s).any (fun x => x.gang == 1 && x.runnable) = true) ∧
    (let s := gangState .stopping (some 20)
     let done := drainForStop s s.ctx.gq.length
     s.ctx.life = .stopping ∧ knotsPending s.ctx = false ∧ stopReady s = true ∧ s.holds = [] ∧ done.ctx.stop.isSome = true ∧ done.ctx.gq = []) ∧
    (let s := (gangState .stopping (some 20)).modCtx (fun x => ({ x with knotsA := 1 } : Ctx).modCl .S (fun k => { k with active := true }))
     Focused s 1 ∧ s.ctx.life = .stopping ∧ knotsPending s.ctx = true) ∧
    (let s := gangState .stopped none
     s.ctx.life = .stopped ∧ resumeWaits s s.ctx = false ∧ (s.ctx.stop.map (fun r => stopRecordOk s.ctx (areaStop s s.ctx r))) = some true) := by
  simp only [Focused]; decide +kernel

theorem witness_PreemptionRequestReachesEveryTask :
    ((gangState .ready none).gangOf 1).map (fun g => (allCtxs (requestPreemption (gangState .ready none) g)).map
      (fun x => (x.gang == g.id && x.resident, x.preempt))) = some [(true, some (gangState .ready none).time)] := by decide +kernel

/-- The focus on a task that is not the one that the event names. -/
def otherFocus : State :=
  { flightState with ctx := { flightState.ctx with cid := 2, gang := 2 }, others := [flightState.ctx] }

theorem witness_EventsActOnTheirContext :
    otherFocus.ctx.isId 1 = false ∧ otherFocus.others.findIdx? (·.isId 1) = some 0 ∧
    (match exec (.writeLands 1) (otherFocus.swapAt 0) with | .next t => t.verdict == .issued | _ => false) = true := by decide +kernel

theorem witness_AStepRunsTheDecodedInstruction :
    (let s := withCode [(0x10000, encodeBytes (.nop false) ++ [1, 2, 3, 4])] (onTurn .A)
     s.plan ≠ [] ∧ (s.ctx.cl.get (turn s)).invalidStage = false ∧ (codeRead s 0x10000 8).toOption = some (encodeBytes (.nop false) ++ [1, 2, 3, 4]) ∧
     (decode .A (encodeBytes (.nop false) ++ [1, 2, 3, 4])).toOption = some (.nop false, [1, 2, 3, 4])) ∧
    (let s := (stagedState 0).modCtx (fun x => x.modCl .A (fun k => { k with blocks := [entryAt 1 2], pc := 0x1000C }))
     s.plan ≠ [] ∧ (s.ctx.cl.get (turn s)).invalidStage = true ∧ (codeWord s 0x1000C).toOption.isSome = true) ∧
    (let s := withCode [(0x10000, [0xFF, 0xFF, 0xFF, 0xFF])] (onTurn .A)
     (s.ctx.cl.get (turn s)).invalidStage = false ∧ (codeWord s 0x10000).toOption = some (true, 0xFFFFFFFF) ∧
     (decodeWord .A true 0xFFFFFFFF).toOption = none) ∧
    (codeWord (onTurn .A) 0x10000).toOption = none ∧ (onTurn .A).plan ≠ [] := by decide +kernel

/-- The machine with the lease held by the hart of die 2. -/
def ledState (s : State) : State := { s with hub := { s.hub with holder := 2, remain := 5 } }

theorem witness_PlintHoldsThePlacementInterval :
    (let s := ledState State.reset
     2 = s.hub.holder ∧ 2 < 6 ∧ s.hub.remain ≠ 0 ∧ (match exec (.registerWrite 2 .plint 0) s with | .next t => t.hub.plint == 0 | _ => false) = true) ∧
    (let s := { State.reset with us := 10000 }
     s.hub.plintNow ≠ 0 ∧ s.hub.trigNow ≠ 0 ∧ s.boundary.1 + s.hub.plintNow.toNat ≤ s.us) ∧
    State.reset.us < State.reset.boundary.1 + State.reset.hub.plintNow.toNat ∧
    ({ State.reset with hub := { State.reset.hub with plintNow := 0 } } : State).hub.plintNow = 0 := by decide +kernel

theorem witness_EveryStepKeepsMemoryCanonical :
    State.reset.canonical ∧ (rowState.mem.wf = true ∧ rowState.cap.wf = true) ∧
    (match step rowState with | .next _ => true | _ => false) = true := by
  refine ⟨?_, ?_, ?_⟩
  · simp only [State.canonical]; decide +kernel
  · decide +kernel
  · decide +kernel

theorem witness_EveryEncodedInstructionAnswers :
    wordBytes (.add false 31 31 31) ≠ 0 ∧ wordBytes (.plog false 0 0 0 5) ≠ 0 ∧ (check .V (.plog false 0 0 0 5)).isSome = true ∧
    check .A (.add false 31 31 31) = none := by decide

theorem witness_AWaitingInstructionHasNoEffect :
    wordBytes (.flwait false 0 true) ≠ 0 ∧
    (match exec (.flwait false 0 true) (onTurn .A) with | .next t => t.verdict == .waited | _ => false) = true := by decide +kernel

theorem witness_ComputingInstructionsWriteOnlyTheirDestination :
    (destOf (.add false 3 4 5)).isSome = true ∧ (destOf (.vfma false 3 4 5 6)).isSome = true ∧ (destOf (.plog false 3 4 5 4)).isSome = true ∧
    (match exec (.add false 3 4 5) (onTurn .A) with | .next t => t.verdict == .issued | _ => false) = true ∧
    (match exec (.vfma false 3 4 5 6) (vectorState 1 []) with | .next t => t.verdict == .issued | _ => false) = true ∧
    (match exec (.plog false 3 4 5 4) (onTurn .V) with | .next t => t.verdict == .issued | _ => false) = true := by decide +kernel

theorem witness_LandingResultsWriteOnlyTheirDestination :
    (Cluster.M ≠ .V ∧ 15 < (if Cluster.M = .A then 32 else 16)) ∧ 47 < 48 ∧ 15 < 16 ∧ (running .A).sp.wf = true ∧
    ((running .A).land (.scalar .A 0 7)).regs.gpr .A 0 = 0 ∧ ((running .A).land (.scalar .A 31 7)).regs.gpr .A 31 = 7 ∧
    vget ((running .A).land (.vector (.v 47) 1 3)).regs.v 47 0 = 1 ∧
    ((running .A).land (.spStore 0x3FFFF [7] false)).sp.get 0x3FFFF = 7 ∧ 7 < 8 ∧
    vget ((running .A).land (.vector (.o 7) 1 3)).regs.o 7 0 = 1 ∧ (running .A).bmem.wf = true := by decide +kernel

/-- Two reserved slots of a PROD-4 bobbin of four, the second with its data there, FILL at the last slot. -/
def reserved : Ctx :=
  { running .A with bob := vset (running .A).bob 15 { Bobbin.reset with en := true, prod := 4, depth := 3, fill := 3, resv := [⟨4, none⟩, ⟨5, some 9⟩] } }

theorem witness_DataIsDeliveredInOrder :
    15 < 16 ∧ (reserved.bobbin 15).fill < (reserved.bobbin 15).slots ∧ reserved.bmem.wf = true ∧
    ((reserved.land (.deliver 15 4 7)).bobbin 15).count = 2 ∧ (reserved.land (.deliver 15 4 7)).bmem.get 24 = 7 ∧
    (reserved.land (.deliver 15 4 7)).bmem.get 0 = 9 ∧ ((reserved.land (.deliver 15 5 7)).bobbin 15).count = 0 := by decide +kernel

theorem witness_FlagsAndRegistersLand :
    7 < 8 ∧ (∀ e ∈ (running .A).flight, e.eff ≠ .cirClear) ∧ (running .A).sr.handler = false ∧
    ((running .A).land (.deactivate .A)).life = .retiring ∧ ((running .A).land (.deactivate .V)).life = .ready ∧
    (((running .A).land .abort).land .abort).sreg .V 6 = some 0x20001 := by decide +kernel

/-- A store of two bytes at the end of a line, at the head of its queue. -/
def storeQueued : State :=
  (mappedState (onTurn .A)).modCtx (fun x => { x with
    gq := [{ num := 0, loadQ := false, issuer := .A, kind := .store, elems := [⟨0x803E, 0x20803E, 0x80035D, 0x200000⟩], size := 2, data := 0x1234,
             cls := some 0, ord := 0, scope := 0, seen := false }], nextAcc := 1 })

/-- A modified line over a page of HBM. -/
def cachedLine : DieLine := { line := 0x8200, data := 7, dirty := true, chain := 0, demoted := false, key := 0, channel := 0 }

theorem witness_AnEvictedLineReadsAsBefore :
    let s := { mappedState (onTurn .A) with dcache := [cachedLine] }
    s.mem.wf = true ∧ findLine 0x8200 s.dcache = some cachedLine ∧ (∀ m ∈ s.dcache, m.line = 0x8200 → m = cachedLine) ∧ 0x8200 ∉ s.struck ∧
    cachedLine.dirty = true ∧ (protLine s (64 * 0x8200)).isNone = true ∧ (s.evictLine 0x8200).physByte 0x208000 = 7 := by decide +kernel

theorem witness_AGlobalStoreWritesOnlyItsBytes :
    Focused storeQueued 1 ∧ performable storeQueued 0 = true ∧ storeQueued.stamps = [] ∧
    (storeQueued.ctx.gq[0]?).map (fun y => (y.kind == .store, y.elems.length, y.elems.any (fun e => pteRMT e.pte), y.elems.any (fun e => ptePROT e.pte))) =
      some (true, 1, false, false) := by
  simp only [Focused]; decide +kernel

/-! ### Engines -/

/-- The state that an instruction leaves, once a cycle has passed. -/
def after (i : Instr) (s : State) : State :=
  match exec i s with
  | .next t => { t with now := t.now + 1 }
  | _ => s

/-- The head of an engine's queue, and what else its engine needs. -/
def headIs (s : State) (eng : Nat) (p : EngCmd → Bool) : Bool :=
  s.ctx.isId 1 && s.ctx.enginesRun && (s.ctx.eng.queue eng).run == .run && s.power.gate && (s.ctx.eng.queue eng).updates.isEmpty &&
    (match (s.ctx.eng.queue eng).cmds with
     | c :: _ => s.ctx.releasedTo c.after && p c
     | [] => false)

/-- The head of a shuttle channel. -/
def shuttleIs (s : State) (ch : Bool) (p : ShCmd → Bool) : Bool :=
  s.ctx.isId 1 && s.ctx.enginesRun && (s.ctx.eng.channel ch).run == .run && s.power.gate && (s.ctx.eng.channel ch).updates.isEmpty &&
    (match (s.ctx.eng.channel ch).cmds with
     | c :: _ => p c
     | [] => false)

/-- A copy, and a PROBE fill that has begun. -/
def copying : State := after (.shgo false 4 5 6 true) (engineState [])
def filling : State :=
  (after (.probe false 5 10 2 128) (engineState [(10, 0x200)])).modEng (fun e =>
    { e with sh1 := { e.sh1 with cmds := e.sh1.cmds.map (fun c => { c with begun := true }) } })

/-- A tile command at the head of its array's queue. -/
def tiling : State := after (.accz false 15) (arrayState [])

theorem witness_EnginesCarryOutTheirCommands_array :
    evictDue tiling 0 = none ∧ resumable tiling 0 = none ∧ ((tiling.quad 0).queue.map (fun tc => slotFilling (tiling.quad 0) tc)) = [false] ∧ (tiling.quad 0).started = none ∧
    ((tiling.quad 0).queue.map (fun tc => (tiling.ctxOf tc.cid).map (fun x => x.releasedTo tc.after))) = [some true] ∧
    (let s := { (withQuad (fun q => { q with started := some 11 }) tiling) with now := 100 }
     (s.quad 0).queue.map (fun tc => decide (11 + tc.op.cycles ≤ s.now) && !headWaits s tc) = [true]) := by decide +kernel

theorem witness_EnginesCarryOutTheirCommands_shuttle :
    shuttleIs copying true (fun c => !c.begun && copying.ctx.releasedTo c.after && channelFree copying true && !linkStops copying c) = true ∧
    shuttleIs filling true (fun c => c.begun && !c.finished && channelFree filling true &&
      (moveRun { filling with shLast := tabSet (channelKey filling.ctx true) filling.ctx.slot filling.shLast } true 1).2) = true ∧
    (let s := filling.modEng (fun e => { e with sh1 := { e.sh1 with cmds := e.sh1.cmds.map (fun c => { c with finished := true }) } })
     shuttleIs s true (·.finished)) = true := by decide +kernel

theorem witness_EnginesCarryOutTheirCommands_rows :
    (let s := after (.rowcp false 4 5 6 0) rowState
     headIs s 2 (fun c => c.elems.all (fun e => !rowHeld s (localPart e.pa)))) = true ∧
    (let s := after (.nbenter false 4 6) rowState
     headIs s 3 (fun c => couchReleased s c && (runCouching s c).2)) = true := by decide +kernel

theorem witness_EnginesCarryOutTheirCommands_queues :
    (let s := after (.enq false 4 7 6) (roundState .opened)
     headIs s 7 (fun c => (runEnq s c).2)) = true ∧
    (let s := after (.rndend false 5 6) (roundState .opened)
     headIs s 6 (fun _ => (owedBy s 1).isNone)) = true ∧
    (let s := after (.prot false 4 5 6 true) (roundState .opened)
     headIs s 6 (fun c => c.word.toNat / 2 ^ 20 % 32 = 0)) = true ∧
    (let s := (after (.darn false 4 5 6) (roundState .darning)).modGroup 0 (fun g => { g with state := .opened })
     headIs s 4 (fun c => (runDarn s c).2)) = true := by decide +kernel

/-- An ENQ for queue 0 of address space 3, whose ring of 16 entries is full. -/
def ringFull : State :=
  let s := after (.enq false 4 7 6) (roundState .opened)
  { s with mem := ((s.mem.store 0x300008 8 0x0003000000400003).store 0x300014 4 16), hub := { s.hub with qtbase := 0x300000 } }

theorem witness_ContextsLeaveForTheRing :
    Focused ringFull 1 ∧ ringFull.ctx.life = .ready ∧ ringFull.ctx.eng.faults = [] ∧ engineHeld ringFull = true := by
  simp only [Focused]; decide +kernel

theorem witness_CompletionWordsCountAndKeepTheFirstFailure :
    (let u : Update := { addr := 0x40, add := none, arrive := true, err := some 0x12, fb := false, idx := 3 }
     u.add = none ∧ u.arrive = true ∧ (0x00000000FFFFFFFF : W64).getLsbD 63 = false ∧ wordAfter u 0xFFFFFFFF = 0x9200000300000000) := by decide +kernel

theorem witness_SaturatedRowsAreRefreshedAround :
    let s := { State.reset with dies := vset State.reset.dies (bankDie 0) { DieState.reset with acts := [(0, 511, 0x1000)], opened := [(0, [511])] } }
    (vget s.dies (bankDie 0) .reset).actSat.toNat ≤ activations (vget s.dies (bankDie 0) .reset) 0 511 ∧
    511 ∈ openedRows (vget s.dies (bankDie 0) .reset) 0 ∧ 511 ∈ saturated (vget s.dies (bankDie 0) .reset) 0 ∧
    512 ∉ openedRows (vget s.dies (bankDie 0) .reset) 0 ∧
    (let d := { vget s.dies (bankDie 0) .reset with acts := [], failed := [(0, 511)] }
     511 ∈ openedRows d 0 ∧ (0, 511) ∈ d.failed) := by decide +kernel

/-! ### Pages -/

/-- No task; a page without CC in stack 0, whose leaf entry stands at 0x103000, and what is kept of it. -/
def pageState (mv : PageMove) : State :=
  { mapped 0x80025D 0 State.reset with
    us := 10000, boundary := (0, 1), freePages := vset State.reset.freePages 0 1, tamb := { State.reset.tamb with marks := [(7, [1])] },
    pages := [{ pteAddr := 0x103000, asid := 3, va := 0, size := 0x200000, pfn := 0x200, prio := 0, next := none, counts := vset (.replicate 6 0) 2 8, move := mv }] }

theorem witness_PagesMoveBetweenTheirTiers_boundary :
    (let s := pageState .idle
     s.hub.trigNow ≠ 0 ∧ s.hub.plintNow ≠ 0 ∧ s.boundary.1 + s.hub.plintNow.toNat ≤ s.us ∧ s.hub.plctl.getLsbD 0 = true ∧
     0 < s.boundary.2 ∧ (s.pages.find? (fun x => x.pteAddr == 0x103000)).map (fun q => vget q.counts 2 0) = some 8) ∧
    (7, [1]) ∈ (pageState .idle).tamb.marks ∧ (pageState .idle).tamb.gangs = [] := by decide +kernel

/-- Three pages: one that moves to stack 0, one that returns to it from the capacity page 0, and one that leaves for the capacity tier. -/
def movingState : State :=
  let s := mapped 0x80025D 0x125D (pageState .idle)
  let info := fun (pte : W64) (at' va : Nat) (m : PageMove) => ({ PageInfo.fresh 3 ⟨pte, at', va, 0x200000⟩ with move := m } : PageInfo)
  { s with mem := s.mem.store 0x103010 8 0x100025D,
           pages := [info 0x80025D 0x103000 0 (.migrating 0), info 0x125D 0x103008 0x200000 (.returning 0), info 0x100025D 0x103010 0x400000 .evicting] }

/-- The three pages of `movingState`. -/
def movingPages : List (W16 × Leaf × PageInfo) :=
  (leavesIn movingState (List.range 3) 4 0x100000 0).map (fun l => (3, l, pageInfo movingState 3 l))

theorem moving_pages : allPages movingState = movingPages := by
  have h : leavesFrom movingState 4 0x100000 0 = leavesIn movingState (List.range 3) 4 0x100000 0 :=
    leavesFrom_eq_leavesIn (by decide) rfl rfl rfl rfl (by decide +kernel) 4 0x100000 0 (by decide)
  rw [allPages_of_root (asid := 3) (root := 0x100000) rfl, h]
  rfl

theorem witness_PagesMoveBetweenTheirTiers_moves :
    let s := movingState
    ((pageAt s 0x103000).map (fun q => (q.2.2.move == .migrating 0, frameFits s q.2.1 0 0x600000, frameHeld s q.2.1 0x600000,
        frameHeld s q.2.1 (frameOf q.2.1))) = some (true, true, false, false) ∧
      (pageAt s 0x103000).map (fun q => pageLocked s (frameOf q.2.1) q.2.1.size) = some false) ∧
    (pageAt s 0x103008).map (fun q => (q.2.2.move == .returning 0, frameFits s q.2.1 0 0x600000, frameHeld s q.2.1 0x600000)) = some (true, true, false) ∧
    (s.mem.wf = true ∧ s.cap.wf = true ∧ s.lost = [] ∧ (s.evictRange 0x400000 0x200000).lost = [] ∧ (pageAt s 0x103010).map (fun q => (q.2.2.move == .evicting, capFits s q.2.1 512, frameHeld s q.2.1 (frameOf q.2.1),
      queuedAt s (frameOf q.2.1) q.2.1.size true || queuedAt s (frameOf q.2.1) q.2.1.size false)) = some (true, true, false, false)) := by
  simp only [pageAt, frameFits, capFits, moving_pages]
  decide +kernel

/-- Of one page or more, one is picked. -/
theorem pickEviction_isSome (s : State) (p : W16 × Leaf × PageInfo) (t : List (W16 × Leaf × PageInfo)) : (pickEviction s (p :: t)).isSome = true := by
  simp only [pickEviction]
  split
  · rfl
  · split <;> rfl

theorem evictable_idle : evictable (pageState .idle) 0 =
    ((leavesIn (pageState .idle) (List.range 2) 4 0x100000 0).map (fun l => ((3 : W16), l, pageInfo (pageState .idle) 3 l))).filter
      (fun p => !fixedPage p.2.1 && !ptePROT p.2.1.pte && stackOf (frameOf p.2.1) == 0 && p.2.2.move != .evicting) := by
  have h : leavesFrom (pageState .idle) 4 0x100000 0 = leavesIn (pageState .idle) (List.range 2) 4 0x100000 0 :=
    leavesFrom_eq_leavesIn (by decide) rfl rfl rfl rfl (by decide +kernel) 4 0x100000 0 (by decide)
  rw [evictable, allPages_of_root (asid := 3) (root := 0x100000) rfl, h]
  rfl

theorem witness_PagesMoveBetweenTheirTiers_eviction :
    let s := pageState .idle
    s.hub.tiercfg.getLsbD 0 = true ∧ vget s.freePages 0 0 < tierLow s ∧ vget s.freePages 0 0 < tierHigh s ∧
    (s.pages.any (fun x => x.move == .evicting)) = false ∧ (pickEviction s (evictable s 0)).isSome = true := by
  have h : (evictable (pageState .idle) 0).head?.isSome = true := by rw [evictable_idle]; decide +kernel
  refine ⟨by decide +kernel, by decide +kernel, by decide +kernel, by decide +kernel, ?_⟩
  cases he : evictable (pageState .idle) 0 with
  | nil => rw [he] at h; cases h
  | cons p t => exact pickEviction_isSome _ p t

/-! ### The Tambour -/

/-- The words of a packet. -/
def packetOf (ws : List Nat) : BitVec 512 := BitVec.ofNat 512 (leNat ((ws.map (natBytes · 8)).flatten))

/-- Slot 0, whose queue has its ring at 0x8000 in address space 3 and one packet in it. -/
def headSlot (valid : Option Nat) : HwSlot :=
  { qid := 9, asid := 3, ring := 0x8000, sizelg := 4, prio := 2, eff := 2, widx := 1, ridx := 0, seq := 0, devenq := false, remote := false, key := 0,
    hold := 0, waitsig := none, fault := none, aging := 0, headWait := 2000, reserving := false, valid := valid }

/-- The machine with that packet at the head of slot 0, an entry record at 0x12000, the value 5 at 0x8100, and areas for the ids 0 and 1. -/
def packetState (ws : List Nat) : State :=
  let s := mappedState State.reset
  { s with
    mem := ((((ws.zipIdx).foldl (fun (m : Memory) p => m.store (0x208000 + 8 * p.2) 8 p.1) s.mem).store 0x212000 8 0x10000).store 0x208100 8 5).write 0
      (natBytes 0x800000 8 ++ natBytes 0xA00000 8),
    tamb := { s.tamb with slots := [(0, headSlot none)] } }

/-- The words of a LAUNCH of one task from that record. -/
def launchWords : List Nat := [1 + 2 ^ 33, 0x12000, 7, 0x40000, 0, 0, 0, 0]

/-- That packet's gang, accepted and waiting at the head. -/
def acceptedState : State :=
  let s := packetState launchWords
  { s with tamb := { s.tamb with
      slots := [(0, headSlot (some 1))],
      gangs := [{ id := 1, qslot := 0, qid := 9, asid := 3, packet := packetOf launchWords, inputs := [], size := 1, placed := false, saved := false,
                  hoops := [], frozen := false, preempt := none, retired := 0, abort := false, naborts := 0, terminated := false, done := false, replay := none }] } }

/-- Whether `packetState ws` has a ready packet of this TYPE, well formed, at its head. -/
def headOk (s : State) (h : HwSlot) (type : Nat) : Bool :=
  match headReady s h with
  | some p => pkType p == type && (badPacket p).isNone
  | none => false

theorem witness_HeadPacketsAreCarriedOut_simple :
    (let s := packetState [0]
     headOk s (headSlot none) 0 && wins s 0 (headSlot none)) = true ∧
    (let s := packetState [4 + 2 ^ 9 + 2 ^ 10 + 7 * 2 ^ 16, 0x55]
     headOk s (headSlot none) 4 && wins s 0 (headSlot none)) = true ∧
    (let s := packetState [9]
     (match headReady s (headSlot none) with | some p => badPacket p == some 1 | none => false) && wins s 0 (headSlot none)) = true := by decide +kernel

theorem witness_HeadPacketsAreCarriedOut_signals :
    (let s := packetState [2, 0x8100, 5]
     headOk s (headSlot none) 2 && ((hubRead s 3 0x8100 8).map (fun r => leNat r.2) == some 5 && (signalTest (packetOf [2, 0x8100, 5]) 5 && wins s 0 (headSlot none)))) = true ∧
    (let s := packetState [2, 0x8100, 6]
     headOk s (headSlot none) 2 && !signalTest (packetOf [2, 0x8100, 6]) 5) = true ∧
    (let s := packetState [3, 0x8100, 6]
     headOk s (headSlot none) 3 && ((hubElem s 3 .write 0x8100 8).isSome && wins s 0 (headSlot none))) = true := by decide +kernel

theorem witness_HeadPacketsAreCarriedOut_launch :
    (let s := packetState launchWords
     headOk s (headSlot none) 1 && !launchWaits s 3 (packetOf launchWords) && ((checkLaunch s 3 (packetOf launchWords)).toOption == some [])) = true := by
  decide +kernel

theorem witness_HeadPacketsAreCarriedOut_reject :
    (let s := packetState [1, 0x12000, 7, 0x40000]
     headOk s (headSlot none) 1 && ((checkLaunch s 3 (packetOf [1, 0x12000, 7, 0x40000])).toOption.isNone &&
       (wins s 0 (headSlot none) && !launchWaits s 3 (packetOf [1, 0x12000, 7, 0x40000])))) = true := by decide +kernel

theorem witness_HeadPacketsAreCarriedOut_place :
    (headOk acceptedState (headSlot (some 1)) 1 && ((placementOf acceptedState 0 (headSlot (some 1))).isSome &&
      ((readEntry acceptedState 1 3 0x12000).map (·.1) == some [0x10000, 0, 0, 0] && wins acceptedState 0 (headSlot (some 1))))) = true ∧
    (let s := { acceptedState with mem := acceptedState.mem.store 0x212000 8 0 }
     headOk s (headSlot (some 1)) 1 && ((placementOf s 0 (headSlot (some 1))).isSome && (wins s 0 (headSlot (some 1)) && (!statusHeld s 3 0 &&
       (readEntry s 1 3 0x12000).map (·.1) == some [0, 0, 0, 0])))) = true := by decide +kernel

theorem witness_WaitingQueuesReserveAgeAndExpire :
    headOk acceptedState (headSlot (some 1)) 1 = true ∧ tabGet 0 acceptedState.tamb.slots = some (headSlot (some 1)) ∧
    (headSlot (some 1)).reserving = false ∧ 2000 ≤ (headSlot (some 1)).headWait ∧
    (let h := { headSlot none with aging := 1000, eff := 6, fault := some (true, 50) }
     1000 ≤ h.aging ∧ h.eff < 7 ∧ 50 + holdTime h ≤ 100 ∧ faultResolved (packetState [0]) h = true ∧
     faultResolved { packetState [0] with roots := [] } h = false) := by decide +kernel

/-! ### The supervisor -/

/-- The lease with the hart of die 2, the gate open, and descriptors of the queues 9 (in slot 0) and 10 (in no slot). -/
def queueState : State :=
  let s := ledState (packetState [0])
  { s with mem := (s.mem.store (64 * 9 + 8) 8 0x0003000000400001).store (64 * 10 + 8) 8 0x0003000000400001, tlb := [page0, page1] }

theorem witness_QueueAndTranslationCommands :
    let s := queueState
    (2 = s.hub.holder ∧ 2 < 6 ∧ s.hub.remain ≠ 0 ∧ s.power.gate = true ∧ slotOfQueue s 9 = some (0, headSlot none) ∧ (readDesc s 9).en = true ∧
      (readDesc s 9).devenq = false ∧ (readDesc s 9).bad = false ∧ 0 < ((2 : W32) - (headSlot none).widx).toInt ∧
      ((2 : W32) - (headSlot none).ridx).toNat ≤ 2 ^ (readDesc s 9).sizelg ∧ bits64 (0x0000000900000002 : W64) 32 16 = 9) ∧
    ((readDesc s 11).en = false) ∧
    (let v : W64 := 0x000000010000000A
     bits64 v 58 2 = 0 ∧ slotOfQueue s (bits64 v 0 16) = none ∧ tabGet (bits64 v 32 9) s.tamb.slots = none ∧ (readDesc s 10).bad = false ∧
     (readDesc s 10).en = true ∧ s.hub.qmapcmd.getLsbD 63 = false) ∧
    ((qmapResult s 9 0).hub.qmapcmd.getLsbD 63 = true) ∧
    (let v : W64 := 0x0400000000000009
     bits64 v 58 2 = 1 ∧ (slotOfQueue s (bits64 v 0 16)).isSome = true) ∧
    (bits64 (0x0000600000000000 : W64) 61 2 = 0 ∧ bits64 (0x0000600000000000 : W64) 45 16 = 3 ∧ bits64 (0x2000600000000000 : W64) 61 2 = 1 ∧
      bits64 (0x4000000000000000 : W64) 61 2 = 2 ∧ s.hub.xinv.getLsbD 63 = false) ∧
    1 ≠ s.hub.holder := by decide +kernel

theorem witness_TheLeaderLeaseIsHeldByOneDie :
    (let s := ledState State.reset
     s.power.recovery = false ∧ s.hub.leadAt.2 = 0 ∧ bits64 (0 : W64) 32 32 = s.hub.epoch.toNat ∧ bits64 (0 : W64) 2 30 = 0 ∧ s.hub.holder = 2 ∧ s.hub.remain ≠ 0) ∧
    State.reset.hub.holder = 7 ∧ bits64 (1 : W64) 0 2 = 1 ∧ bits64 (2 : W64) 0 2 = 2 ∧ bits64 (0x100000000 : W64) 32 32 ≠ State.reset.hub.epoch.toNat ∧
    (({ State.reset with hub := { State.reset.hub with holder := 2 } } : State).hub.remain = 0) := by decide +kernel

theorem read_write {m : Memory} (h : m.wf = true) (a : Nat) (bs : List Byte) : (m.write a bs).read a bs.length = bs := by
  apply List.ext_getElem
  · rw [Memory.read_length]
  · intro i h1 h2
    have := Memory.read_getD (m.write a bs) a bs.length i h2
    rw [List.getD_eq_getElem _ _ h1, Memory.get_write h, if_pos ⟨by omega, by omega⟩] at this
    rw [this, Nat.add_sub_cancel_left, List.getD_eq_getElem _ _ h2]

/-- A record page at 0x4000 that holds the identity of the device and its measurements. -/
def recordState : State :=
  { State.reset with mem := Memory.empty.write 0x4020 (liveIdentity State.reset), power := { State.reset.power with gate := true } }

theorem liveIdentity_length (s : State) : (liveIdentity s).length = 240 := by
  simp [liveIdentity, digestBytes, natBytes_length, List.range, List.range.loop]

theorem witness_SupervisorRegistersAndKeys_record :
    localPart (0x4000 : W64).toNat + 4096 ≤ hbmEnd ∧ hitsLost recordState 0x4000 512 = false ∧
    recordState.supRead (localPart (0x4000 : W64).toNat + 32) 240 = liveIdentity recordState := by
  refine ⟨by decide, rfl, ?_⟩
  have hub : recordState.hub = State.reset.hub := rfl
  have same : liveIdentity recordState = liveIdentity State.reset := by simp only [liveIdentity, hub]
  have at' : localPart (0x4000 : W64).toNat + 32 = 0x4020 := by decide
  have := read_write Memory.empty_wf 0x4020 (liveIdentity State.reset)
  rw [liveIdentity_length] at this
  rw [supRead_of_nothing_lost recordState rfl rfl, keyedRead_of_clear_caches recordState rfl rfl, same, at', show recordState.mem = Memory.empty.write 0x4020 (liveIdentity State.reset) from rfl,
    this]

/-- A blob that unwraps under the wrapping key stands at 0x4000: the state in which a key is loaded. Which blobs unwrap hangs on the device's
wrapping key, a value of the implementation. -/
theorem witness_SupervisorRegistersAndKeys_blob (bs key : List Byte) (n : Nat) (hn : n ≤ 4096) (hl : bs.length = n)
    (hu : unwrapKey (Config.wrappingKey State.reset.flash.owner) bs = some key) :
    let s := { State.reset with mem := Memory.empty.write 0x4000 bs, hub := { State.reset.hub with keyblob := 0x4000 } }
    readBlob s n = .ok key := by
  intro s
  have hk : s.hub.keyblob.toNat = 0x4000 := rfl
  have hr : s.supRead (localPart 0x4000) n = bs := by
    rw [supRead_of_nothing_lost s rfl rfl, keyedRead_of_clear_caches s rfl rfl, ← hl]
    exact read_write Memory.empty_wf 0x4000 bs
  have he : (0x4000 + n ≤ hbmEnd) := by have : hbmEnd = 16 * 0x12A0400000 := rfl; omega
  have hh : hitsLost s (localPart 0x4000) n = false := rfl
  have hu' : unwrapKey (Config.wrappingKey s.flash.owner) bs = some key := hu
  have hp : localPart 0x4000 = 0x4000 := by decide
  have hloc : isLocal s 0x4000 = true := rfl
  have hn' : ¬(hbmEnd < 0x4000 + n) := by omega
  rw [hp] at hr hh
  simp [readBlob, hk, hr, hu', hh, hp, hloc, hn']

theorem witness_SupervisorRegistersAndKeys :
    (27 / 28 = 0 ∧ 167 / 28 = 5 ∧ 1 ≤ bits64 (16 : W64) 0 5 ∧ bits64 (16 : W64) 0 5 ≤ 16) ∧
    (0x40 ≤ bits64 (0x00400004 : W64) 16 16 ∧ bits64 (0x00400004 : W64) 0 4 ≤ 4) ∧
    (2 = queueState.hub.holder ∧ queueState.hub.remain ≠ 0 ∧ 1 ≠ queueState.hub.holder) ∧
    (bits64 (0x0005000000000000 : W64) 58 2 = 0 ∧ bits64 (0x0005000000000000 : W64) 48 8 = 5 ∧ bits64 (0x0405000000000000 : W64) 58 2 = 1 ∧
      bits64 (0x0805000000000000 : W64) 58 2 = 2 ∧ bits64 (0x0C05000000000000 : W64) 58 2 = 3) ∧
    ((queueState.quad 0).evict = none ∧ tilesBusy queueState 0 1 = false ∧
      supHeld queueState (areaOf queueState 1 + tileOffset 0) (16 * 16896) = false ∧ tilesBusy tiling 0 1 = true) ∧
    (queueState.hub.keycmd.getLsbD 63 = false ∧ (match readBlob { queueState with hub := { queueState.hub with keyblob := 1 } } 72 with
      | .error e => e == 2
      | .ok _ => false) = true) ∧
    (queueState.power.recovery = false ∧ vget ({ queueState.hub with hartMode := vset queueState.hub.hartMode 2 0 } : Hub).hartMode 2 0 ≠ 1 ∧
      vget queueState.hub.hartMode 2 0 = 1) := by decide +kernel

theorem witness_LeaderRegisters :
    let s := queueState
    (2 = s.hub.holder ∧ 2 < 6 ∧ s.hub.remain ≠ 0) ∧ bits64 (0xC : W64) 2 2 = 3 ∧ bits64 (0x0000000000000100 : W64) 24 16 < bits64 (0x0000000000000100 : W64) 8 16 ∧
    bits64 (0x000B0000 : W64) 8 8 = 0 ∧ 10 < bits64 (0x000B0000 : W64) 16 5 ∧ (s.group 3).state = .idle ∧
    (0x8000000000000000 : W64).getLsbD 63 = true ∧ (s.tamb.signals.filter (· != (0, 0))).length < 4096 := by decide +kernel

/-- The gate open, a port of the pod fabric and one of the Ultra Ethernet side trained with keys. -/
def openState : State :=
  { State.reset with power := { State.reset.power with gate := true, links := [(0, true), (18, true)] } }

theorem witness_HartsAndPeersReachMemoryAtItsHome :
    let s := openState
    s.power.gate = true ∧ 0x1000 + 8 ≤ hbmEnd ∧ heldAway s (physElem s 0x1000 0) 8 = false ∧ writeWaits s (physElem s 0x1000 0) 8 = false ∧
    heldAway s (physElem s 0x1000 0x200) 256 = false ∧ writeWaits s (physElem s 0x1000 0x200) 256 = false ∧
    s.power.recovery = false ∧ 0x1000 % 8 = 0 ∧ vget s.hub.resv 2 none ≠ some (0x1000, 8) ∧
    ({ s.power with gate := false } : Power).gate = false ∧ reqSupported (.read 0 256) = true ∧ (reqRange (.read 0 256)).1 + (reqRange (.read 0 256)).2 ≤ hbmEnd ∧
    hbmEnd < 0x12A04000000 + 8 ∧ portOpen s 0 18 = true ∧ portOpen s 18 4 = true ∧ (8 : BitVec 4).toNat < 9 ∧ reqSupported (.read 0 257) = false := by
  decide +kernel

/-- The hart of die 2 in machine mode at 0x1000, where this word stands. -/
def hartAt (w : Nat) : State :=
  (({ openState with mem := Memory.empty.write 0x1000 (natBytes w 4) } : State).modHart 2 (fun h => { h with pc := 0x1000 })).setPriv 2 3

/-- What the RISC-V manual gives addi x1, x0, -1 and c.li x2, 5 (R283). -/
theorem test_hart_carries_out_an_instruction :
    (let h := (hartStep (hartAt 0xFFF00093) 2).1.hart 2; (h.get 1, h.pc)) = (0xFFFFFFFFFFFFFFFF, 0x1004) ∧
    (let h := (hartStep (hartAt 0x4115) 2).1.hart 2; (h.get 2, h.pc)) = (5, 0x1002) := by decide +kernel

/-- An ecall of machine mode traps with cause 11 and its address in mepc. -/
theorem test_hart_takes_a_trap :
    (let h := (hartStep (hartAt 0x00000073) 2).1.hart 2; (h.csr 0x342, h.csr 0x341)) = (11, 0x1000) := by decide +kernel

/-! ### Coding groups -/

/-- Slot 1 holds an open group 5 of k = 2 and m = 1, of which this is member 0, with its area at 0x800000; `f` changes the slot. -/
def groupState (f : GroupSlot → GroupSlot) : State :=
  let g : GroupSlot := { GroupSlot.reset with
    state := .opened, gid := 5, self := 0, k := 2, m := 1, rcnt := 1, area := 0x800000, live := (((Vector.replicate 16 false).set 0 true).set 1 true).set 2 true }
  { State.reset with us := 1000, power := { State.reset.power with gate := true, links := [(0, true)] }, groups := vset State.reset.groups 1 (f g) }

/-- A message of member 1 or another. -/
def messageOf (sender : Nat) (gid : W16) : GroupMsg :=
  { sender := sender, gid := gid, round := 0, seq := 0, stripe := 0, row := 0, payload := 0, member := 2, held := true, join := none }

/-- Whether a message is handled at once (`Heard`), as a Bool. -/
def hears (s : State) (m : GroupMsg) (joins : Bool) : Bool :=
  let g := s.group 1
  s.power.gate && linkUp s && groupSlotOf s m == some 1 && g.state != .broken && decide (m.sender < g.n) && m.sender != g.self && g.early.isEmpty &&
    ((vget g.live m.sender false && m.seq == vget g.seqIn m.sender 0) || (joins && !vget g.live m.sender false))

theorem heard_of_hears (s : State) (m : GroupMsg) (joins : Bool) (h : hears s m joins = true) : Heard s 1 m joins := by
  simp only [hears, Bool.and_eq_true, Bool.or_eq_true, beq_iff_eq, bne_iff_ne, decide_eq_true_eq, List.isEmpty_iff, Bool.not_eq_true'] at h
  obtain ⟨⟨⟨⟨⟨⟨⟨a, l⟩, b⟩, c⟩, d⟩, e⟩, f⟩, g⟩ := h
  exact ⟨a, l, b, c, d, e, f, g⟩

theorem witness_GroupMessagesAreHandled_heard :
    (let s := groupState id
     hears s (messageOf 1 5) false = true ∧ ((heard s 1 (messageOf 1 5)).group 1).state = .opened ∧
     (messageOf 1 5).round = headerRound (heard s 1 (messageOf 1 5)) ((heard s 1 (messageOf 1 5)).group 1) ∧
     (s.group 1).abortDue = false ∧ linkUp s = true ∧ nextRound s 1 3 (messageOf 1 5) = false ∧ nextRound s 1 3 { messageOf 1 5 with round := 1 } = true ∧
     1 ∉ ((heard s 1 (messageOf 1 5)).group 1).prepared) ∧
    hears (groupState (fun g => { g with recording := some 1, recorders := [1], queryRound := some 0, answers := [2] })) (messageOf 1 5) false = true ∧
    (let s := groupState (fun g => { g with queryRound := some 0, answers := [2] })
     ∀ x ∈ otherLive ((heard s 1 (messageOf 1 5)).group 1), x = 1 ∨ x ∈ ((heard s 1 (messageOf 1 5)).group 1).answers) ∧
    hears (groupState (fun g => { g with state := .recovering })) (messageOf 1 5) false = true ∧
    hears (groupState (fun g => { g with state := .forming, live := vset g.live 1 false })) (messageOf 1 5) true = true ∧
    hears (groupState (fun g => { g with state := .recovering, live := vset g.live 1 false })) (messageOf 1 5) true = true := by
  decide +kernel

theorem witness_GroupMessagesAreHandled_dropped :
    groupSlotOf (groupState id) (messageOf 1 6) = none ∧
    (let s := groupState (fun g => { g with live := vset g.live 2 false })
     groupSlotOf s (messageOf 2 5) = some 1 ∧ 2 < (s.group 1).n ∧ (s.group 1).self = 0 ∧ vget (s.group 1).live 2 false = false) ∧
    (((0 : W32) - vget ((groupState (fun g => { g with seqIn := vset g.seqIn 1 1 })).group 1).seqIn 1 0).toInt < 0) ∧
    (0 < (({ messageOf 1 5 with seq := 2 } : GroupMsg).seq - vget ((groupState id).group 1).seqIn 1 0).toInt ∧ ((groupState id).group 1).early = []) ∧
    ((.seal (messageOf 1 5), 2) : Instr × Nat) ∈ messageRows (messageOf 1 5) := by
  decide +kernel

/-- Slot 1 with the members' words, a lease for die 2, and this package's domains. -/
def formState (st : GrpState) (f : GroupSlot → GroupSlot) : State :=
  let s := ledState (groupState (fun g => f { g with
    state := st, mem := ((Vector.replicate 16 0).set 0 0x0000000100010000).set 1 0x0001000200020000 |>.set 2 0x0002000300030000 }))
  { s with hub := { s.hub with pkg := 0, pwrdom := 1, cooldom := 1 } }

/-- HBTO 1,000, RCNT 1, group 5, SELF 0, k 2, m 1. -/
def formValue : W64 := 0x0003E80100050021

theorem witness_GroupsFormBeatAndRepair :
    (let s := formState .idle id
     2 = s.hub.holder ∧ s.hub.remain ≠ 0 ∧ s.power.gate = true ∧ (s.group 1).state = .idle ∧
     badConfig s (((s.group 1).configure formValue).fresh) = false ∧ badConfig s (((s.group 1).configure 0).fresh) = true) ∧
    (((formState .idle id).group 1).state = .idle ∧ (formValue).getLsbD 58 = false ∧ (formValue).getLsbD 57 = false) ∧
    (let s := formState .sealing id
     coordinator (s.group 1) = (s.group 1).self ∧ hasCommit s (s.group 1) (headerRound s (s.group 1)) = false) ∧
    (let s := formState .prepared (fun g => { g with self := 1 })
     coordinator (s.group 1) ≠ (s.group 1).self) ∧
    (let s := formState .opened id
     (s.group 1).beat + 100 ≤ s.us ∧ linkUp s = true ∧ (s.group 1).unsent = [] ∧
     linkUp { s with power := { s.power with links := [] } } = false ∧ 2 ≠ (s.group 1).self ∧ vget (s.group 1).live 2 false = true) ∧
    (let s := formState .opened (fun g => { g with silent := vset g.silent 2 1000 })
     (s.group 1).hbto ≤ vget (s.group 1).silent 2 0) ∧
    (let s := formState .opened (fun g => { g with lockedStripe := some (stripeOf g 0 5) })
     let shares : List GroupShare := [⟨1, 7⟩, ⟨2, 9⟩]
     5 < (s.group 1).rcnt * 32768 ∧ (s.group 1).lockedStripe = some (stripeOf (s.group 1) (s.group 1).self 5) ∧
     (s.group 1).k ≤ ((List.range (s.group 1).n).filter (fun q => ((shares.filter (fun x => x.member != (s.group 1).self &&
       decide (x.member < (s.group 1).n))).map (fun x => (x.member, lineBytes x.chunk))).any (fun x => x.1 == q))).length) := by decide +kernel

theorem witness_AnyKChunksGiveBackTheStripe :
    let g : GroupSlot := { GroupSlot.reset with k := 14, m := 2 }
    2 ≤ g.k ∧ g.k ≤ 14 ∧ 1 ≤ g.m ∧ g.m ≤ 2 ∧ ((List.range 16).drop 2).Nodup ∧ (∀ j ∈ (List.range 16).drop 2, j < g.n) ∧
    g.k ≤ ((List.range 16).drop 2).length ∧ dataMembers g 0 = List.range 14 := by decide

/-! ### Errors, resets and power -/

/-- A clean line of the die caches, a task, and an audit that awaits its replays. -/
def errorState : State :=
  { onTurn .A with
    power := { State.reset.power with gate := true },
    dcache := [{ line := 0x40, data := 7, dirty := false, chain := 0, demoted := false, key := 0, channel := 0 }],
    audits := [{ task := 4, packet := 0, asid := 3, taskid := 0, inputs := [], log := [], core := 1, sig := 9, slots := [],
                 ended := some (112, 9, true), runs := [] }] }

theorem witness_ErrorsWithholdRecordAndRetire_audit :
    (replayOutcome errorState <$> errorState.audits.find? (fun b => b.task == 4)) = some (some (112, 9, true)) ∧
    (errorState.audits.find? (fun b => b.task == 4)).map (fun a => (a.runs.length, a.sig)) = some (0, 9) ∧
    (let t := errorState.modAudit 4 (fun b => { b with runs := [(224, 8, true)], ended := some (112, 8, true) })
     (t.audits.find? (fun b => b.task == 4)).map (fun a => (a.runs.head? == some (224, 8, true), replayOutcome t a == some (112, 8, true))) =
       some (true, true)) := by decide +kernel

theorem witness_ErrorsWithholdRecordAndRetire :
    let s := errorState
    64 * 0x41 < hbmEnd ∧ findLine 0x41 s.dcache = none ∧ (findLine 0x40 s.dcache).map (·.dirty) = some false ∧
    ((s.ctxOf 1).map (fun x => (decide (0x3FFFF < x.spSize), x.resident))) = some (true, true) ∧ 0xFFFF < 0x10000 ∧ 29 < 30 ∧
    (15 < 16 ∧ 78123007 * 1024 < stackBytes ∧ 1 < bits64 s.hub.smpcfg 8 8) ∧
    bits64 ({ s with hub := { s.hub with smpcfg := 0x100 } } : State).hub.smpcfg 8 8 ≤ 1 ∧
    frameLeaf s (5 * 4096) = none ∧
    (vget s.dies (ringDie s (homeDie (stackOf (64 * 0x40)))) .reset).errBase = 0 := by
  decide +kernel

theorem witness_ResetsAndPowerActAsTheTablesSay :
    2 = queueState.hub.holder ∧ queueState.hub.remain ≠ 0 ∧ State.reset.power.train = false ∧ State.reset.power.gate = false ∧
    (queueState.pages.any isMoving = false ∧ (pageState (.migrating 0)).pages.any isMoving = true) ∧
    (let p := { State.reset.power with last := 2, trained := vset State.reset.power.trained 15 (some 40), temps := vset State.reset.power.temps 5 (some 51) }
     homeDie 15 = 5 ∧ p.train = false ∧ p.last = 2 ∧ vget p.trained 15 none = some 40 ∧ vget p.temps (homeDie 15) none = some 51 ∧
     (0x8000 : W16).getLsbD 15 = decide (40 + 10 < 51 ∨ 51 + 10 < 40) ∧ (0 : W16).getLsbD 15 ≠ decide (40 + 10 < 51 ∨ 51 + 10 < 40)) ∧
    (({ State.reset.power with train := true, keys := true, ptok := true } : Power).gate = false) ∧
    (49999 < 50000 ∧ 58000 < 58001) ∧
    (let s := { State.reset with us := 3600000000 }
     { s with power := { s.power with on := false }, schedule := [.row .powerLoss] }.plan = [] ∧ s.power.sampled + 100 ≤ s.us ∧ s.pending.since + 900000000 ≤ s.us ∧ s.power.estimated + 3600000000 ≤ s.us ∧ bits64 (4 : W64) 0 4 ≤ 4) ∧
    (([104, 104, 104, 104, 104, 104, 104] : List Nat).all (· < 105)) ∧ (([0, 0, 0, 0, 0, 0, 105] : List Nat).any (fun x => 105 ≤ x)) := by decide +kernel

theorem witness_NoTaskInstructionReachesTheSupervisor :
    wordBytes (.harrive false 0 false) ≠ 0 ∧ (match exec (.harrive false 0 false) (hoopState false 0) with | .next _ => true | _ => false) = true := by
  decide +kernel

end Sys2Proof.Tests
end

section
/-! PROOFS. The placement interval (R16, R22, R23): what a write of PLINT and a boundary of the interval leave in the hub, and
O35. -/

namespace Sys2Proof.Proofs

open Sys2Proof.Machine Sys2Proof.Claims Sys2Proof.Laws

variable {s t : State} {hart : Nat} {v : W64}

/-! ## A write of PLINT -/

@[simp] theorem settleTrigger_hub_plint (s : State) : (settleTrigger s).hub.plint = s.hub.plint := by
  simp only [settleTrigger]
  split <;> rfl

/-- R23: while the present interval has a boundary to come, its values stand. -/
theorem settleTrigger_of_interval_runs (hplint : s.hub.plintNow ≠ 0) (htrig : s.hub.trigNow ≠ 0) : settleTrigger s = s := by
  have hruns : (s.hub.trigNow != 0 && s.hub.plintNow != 0) = true :=
    Bool.and_eq_true_iff.mpr ⟨bne_iff_ne.mpr htrig, bne_iff_ne.mpr hplint⟩
  simp only [settleTrigger, hruns, Bool.true_or, if_true]

theorem leaderWrite_of_leader (f : State → State) (hholder : hart = s.hub.holder) (hhart : hart < 6) (hlease : s.hub.remain ≠ 0) :
    leaderWrite s hart f = happens (f s) :=
  if_pos ⟨hholder, hhart, hlease⟩

/-- PLINT takes the low 32 bits of a written word; whether the present interval takes it too is for `settleTrigger`. -/
def withPlint (s : State) (v : W64) : State := s.modHub (fun h => { h with plint := v.setWidth 32 })

theorem exec_registerWrite_plint (hholder : hart = s.hub.holder) (hhart : hart < 6) (hlease : s.hub.remain ≠ 0) :
    exec (.registerWrite hart .plint v) s = happens (settleTrigger (withPlint s v)) :=
  leaderWrite_of_leader (leaderReg · .plint v) hholder hhart hlease

theorem setWidth_setWidth_32_eq_and (v : W64) : (v.setWidth 32).setWidth 64 = v &&& 0xFFFFFFFF := by
  apply BitVec.eq_of_toNat_eq
  have hmask : v.toNat &&& (0xFFFFFFFF : W64).toNat = v.toNat % 2 ^ 32 := Nat.and_two_pow_sub_one_eq_mod v.toNat 32
  rw [BitVec.toNat_and, hmask, BitVec.toNat_setWidth, BitVec.toNat_setWidth]
  omega

/-- R22: PLINT reads what was written into it. -/
theorem readReg_plint_of_write (s : State) (v : W64) : readReg (settleTrigger (withPlint s v)) .plint = v &&& 0xFFFFFFFF := by
  simp only [readReg, settleTrigger_hub_plint]
  exact setWidth_setWidth_32_eq_and v

/-- R23: a write of PLINT leaves the interval that runs its own value. -/
theorem plintNow_of_write (v : W64) (hplint : s.hub.plintNow ≠ 0) (htrig : s.hub.trigNow ≠ 0) :
    (settleTrigger (withPlint s v)).hub.plintNow = s.hub.plintNow := by
  rw [settleTrigger_of_interval_runs (s := withPlint s v) hplint htrig]
  rfl

/-! ## A boundary of the interval -/

/-- Starting the migrations of a boundary changes no register of the hub and no time of a boundary. -/
theorem startMoves_hub_boundary (s : State) (moves : Nat → Nat) (cands : List (W16 × Leaf × PageInfo × Nat × Nat)) :
    (startMoves s moves cands).hub = s.hub ∧ (startMoves s moves cands).boundary = s.boundary := by
  induction cands generalizing s moves with
  | nil => exact ⟨rfl, rfl⟩
  | cons c cands ih =>
    simp only [startMoves]
    split
    case h_1 => exact ih s moves
    case h_2 =>
      split
      · exact ih s moves
      · exact ih _ _

/-- R16, R22: the present interval has a boundary, and its microseconds have passed since the last one. -/
def intervalDue (s : State) : Bool :=
  s.hub.trigNow != 0 && s.hub.plintNow != 0 && decide (s.boundary.1 + s.hub.plintNow.toNat ≤ s.us)

theorem intervalDue_iff :
    intervalDue s = true ↔ s.hub.trigNow ≠ 0 ∧ s.hub.plintNow ≠ 0 ∧ s.boundary.1 + s.hub.plintNow.toNat ≤ s.us := by
  simp only [intervalDue, Bool.and_eq_true, bne_iff_ne, decide_eq_true_eq, and_assoc]

theorem exec_placementBoundary_of_not_due (h : ¬ intervalDue s = true) :
    exec (.placementBoundary true) s = .next { s with verdict := .waited } := by
  have hnot : (!intervalDue s) = true := by simpa using h
  exact if_pos hnot

/-- The next interval begins now, under the PLINT and the TRIG that stand in their registers (R23). -/
def nextInterval (s : State) : State := { s.takeTrigger with boundary := (s.us, s.boundary.2) }

/-- Steps 1 to 5 of R16: the migrations of a boundary start, unless PLCTL.FREEZE is set. -/
def movesStarted (s : State) : State :=
  if s.hub.plctl.getLsbD 1 then s
  else startMoves s (fun _ => 0) (((allPages s).filterMap (candidate s true)).foldl (fun acc c => insertRank c acc) [])

/-- Step 6 of R16: every counter shifts right by one bit. -/
def countersShifted (s : State) : State :=
  { s with pages := s.pages.map (fun p => { p with counts := p.counts.map (fun c => c / 2) }) }

theorem movesStarted_hub_boundary (s : State) :
    (movesStarted s).hub = s.hub ∧ (movesStarted s).boundary = s.boundary := by
  unfold movesStarted
  split
  · exact ⟨rfl, rfl⟩
  · exact startMoves_hub_boundary s _ _

theorem exec_placementBoundary_of_due (h : intervalDue s = true) :
    exec (.placementBoundary true) s =
      if !s.hub.plctl.getLsbD 0 then happens (nextInterval s)
      else happens (countersShifted (movesStarted (nextInterval s))) := by
  have hdue : ¬ (!intervalDue s) = true := by simp [h]
  exact if_neg hdue

/-- A boundary that is due happens, with the engines on or off and whatever pages they start to move. -/
theorem placementBoundary_occurs_of_due (h : intervalDue s = true) :
    Occurs (.placementBoundary true) s (fun u => u.boundary = (nextInterval s).boundary ∧ u.hub = (nextInterval s).hub) := by
  rw [Occurs, exec_placementBoundary_of_due h]
  split
  · exact ⟨_, rfl, rfl, rfl, rfl⟩
  · obtain ⟨hhub, hboundary⟩ := movesStarted_hub_boundary (nextInterval s)
    exact ⟨_, rfl, rfl, hboundary, hhub⟩

/-! ## O35 -/

/-- Settles O35: the leader's write is `settleTrigger` of the new PLINT, and a boundary of the
interval occurs exactly when it is due (`intervalDue`). -/
theorem plintHoldsThePlacementInterval : Obligations.PlintHoldsThePlacementInterval := by
  unfold Obligations.PlintHoldsThePlacementInterval
  refine ⟨rfl, fun s t hart v => ⟨?write, ?disabled, ?early, ?due⟩⟩
  case write =>
    intro hholder hhart hlease hexec
    rw [exec_registerWrite_plint hholder hhart hlease] at hexec
    cases hexec
    exact ⟨readReg_plint_of_write s v, plintNow_of_write v⟩
  case disabled =>
    intro hzero
    refine exec_placementBoundary_of_not_due (fun hdue => ?_)
    obtain ⟨-, hplint, -⟩ := intervalDue_iff.mp hdue
    exact hplint hzero
  case early =>
    intro hearly
    refine exec_placementBoundary_of_not_due (fun hdue => ?_)
    obtain ⟨-, -, hpassed⟩ := intervalDue_iff.mp hdue
    exact Nat.not_le.mpr hearly hpassed
  case due =>
    intro hplint htrig hus
    obtain ⟨u, hexec, hissued, hboundary, hhub⟩ := placementBoundary_occurs_of_due (intervalDue_iff.mpr ⟨htrig, hplint, hus⟩)
    exact ⟨u, hexec, hissued, hboundary, congrArg Hub.plintNow hhub, congrArg Hub.trigNow hhub⟩

end Sys2Proof.Proofs
end

section
/-! PROOFS. The hoop generation (R40): what `HoopInst.settle` does to an instance, and O17. -/

namespace Sys2Proof.Proofs

open Sys2Proof.Machine

variable {i : HoopInst}

/-! ## The two cases of `HoopInst.settle` -/

theorem settle_of_all_arrived (now : Nat) (harrived : i.arrived = i.expect) (hexpect : i.expect ≠ 0) :
    i.settle now = { i with gen := i.gen + 1, arrived := 0, doneAt := now } :=
  if_pos ⟨harrived, hexpect⟩

/-- R40: an instance that still expects an arrival, or expects none at all, keeps its generation and its arrivals. -/
theorem settle_of_not_all_arrived (now : Nat) (hpending : ¬(i.arrived = i.expect ∧ i.expect ≠ 0)) : i.settle now = i :=
  if_neg hpending

/-! ## O17 -/

/-- Settles O17, by the two cases of `HoopInst.settle`. -/
theorem hoopGenerationCompletes : Obligations.HoopGenerationCompletes := by
  unfold Obligations.HoopGenerationCompletes
  refine fun i now => ⟨fun harrived hexpect => ?completes, settle_of_not_all_arrived now⟩
  case completes =>
    rw [settle_of_all_arrived now harrived hexpect]
    exact ⟨rfl, rfl⟩

end Sys2Proof.Proofs
end

section
/-! PROOFS. The bitwise operations and the shifts of the scalar subset (R323, R324, R375, R401, R402, R405, R463): the word that
each one lands, that word bit by bit or as a number, and O3. -/

namespace Sys2Proof.Proofs

open Sys2Proof.Machine Sys2Proof.Claims Sys2Proof.Laws

variable {s : State} {st : Bool} {dst rs1 rs2 : BitVec 5}

/-! ## The word that lands -/

/-- A valid instruction whose meaning is `scalarResult` lands the value that it computes in the cluster whose turn it is. (A use
of this lemma is closed by `:)`, so that the value comes from the instruction's own equation.) -/
theorem scalar_of_exec_eq {i : Instr} {lat : Nat} {v : State → Cluster → W64} (hvalid : Valid i s)
    (hexec : exec i s = scalarResult i lat dst v s) : Scalar i s lat dst (v s (turn s)) :=
  hexec.trans (scalarResult_completes hvalid)

theorem scalar_and (hvalid : Valid (.and st dst rs1 rs2) s) :
    Scalar (.and st dst rs1 rs2) s 1 dst (src s rs1 &&& src s rs2) :=
  (scalar_of_exec_eq hvalid exec_and :)

theorem scalar_or (hvalid : Valid (.or st dst rs1 rs2) s) :
    Scalar (.or st dst rs1 rs2) s 1 dst (src s rs1 ||| src s rs2) :=
  (scalar_of_exec_eq hvalid exec_or :)

theorem scalar_xor (hvalid : Valid (.xor st dst rs1 rs2) s) :
    Scalar (.xor st dst rs1 rs2) s 1 dst (src s rs1 ^^^ src s rs2) :=
  (scalar_of_exec_eq hvalid exec_xor :)

theorem scalar_andn (hvalid : Valid (.andn st dst rs1 rs2) s) :
    Scalar (.andn st dst rs1 rs2) s 1 dst (src s rs1 &&& ~~~src s rs2) :=
  (scalar_of_exec_eq hvalid exec_andn :)

theorem scalar_shl (hvalid : Valid (.shl st dst rs1 rs2) s) :
    Scalar (.shl st dst rs1 rs2) s 1 dst (src s rs1 <<< ((src s rs2).toNat % 64)) :=
  (scalar_of_exec_eq hvalid exec_shl :)

theorem scalar_shr (hvalid : Valid (.shr st dst rs1 rs2) s) :
    Scalar (.shr st dst rs1 rs2) s 1 dst (src s rs1 >>> ((src s rs2).toNat % 64)) :=
  (scalar_of_exec_eq hvalid exec_shr :)

theorem scalar_sra (hvalid : Valid (.sra st dst rs1 rs2) s) :
    Scalar (.sra st dst rs1 rs2) s 1 dst ((src s rs1).sshiftRight ((src s rs2).toNat % 64)) :=
  (scalar_of_exec_eq hvalid exec_sra :)

/-! ## Its bits -/

theorem getLsbD_and_not_of_lt (a b : W64) {k : Nat} (hk : k < 64) :
    (a &&& ~~~b).getLsbD k = (a.getLsbD k && !b.getLsbD k) := by
  rw [BitVec.getLsbD_and, BitVec.getLsbD_not, decide_eq_true hk, Bool.true_and]

/-! ## A shifted word as a number -/

theorem toNat_word64_natCast (n : Nat) : (word64 n).toNat = n % 2 ^ 64 := by
  rw [word64, BitVec.ofInt_natCast, BitVec.toNat_ofNat]

theorem shiftLeft_eq_word64 (a : W64) (n : Nat) : a <<< n = word64 (a.toNat * 2 ^ n) := by
  apply BitVec.eq_of_toNat_eq
  have hcast : (a.toNat * 2 ^ n : Int) = (a.toNat * 2 ^ n : Nat) := by norm_cast
  rw [hcast, toNat_word64_natCast, BitVec.toNat_shiftLeft, Nat.shiftLeft_eq]

/-- R402: the quotient is below 2^64, so taking it modulo 2^64 loses nothing. -/
theorem ushiftRight_eq_word64 (a : W64) (n : Nat) : a >>> n = word64 (a.toNat / 2 ^ n) := by
  apply BitVec.eq_of_toNat_eq
  have hcast : (a.toNat / 2 ^ n : Int) = (a.toNat / 2 ^ n : Nat) := by norm_cast
  have hlt : a.toNat / 2 ^ n < 2 ^ 64 := (Nat.div_le_self _ _).trans_lt a.isLt
  rw [hcast, toNat_word64_natCast, Nat.mod_eq_of_lt hlt, BitVec.toNat_ushiftRight, Nat.shiftRight_eq_div_pow]

/-- R405: filling with bit 63 rounds the signed quotient down, as `Int` division by a positive number does. -/
theorem sshiftRight_eq_word64 (a : W64) (n : Nat) : a.sshiftRight n = word64 (a.toInt / 2 ^ n) := by
  rw [BitVec.sshiftRight_eq, Int.shiftRight_eq_div_pow, Nat.cast_pow, Nat.cast_ofNat, word64]

/-! ## O3 -/

theorem andLandsNextCycle : AndLandsNextCycle :=
  fun _ _ _ _ _ hvalid => ⟨_, scalar_and hvalid, fun _ => BitVec.getLsbD_and⟩

theorem bitwiseResultsLandNextCycle : BitwiseResultsLandNextCycle := by
  intro s st dst rs1 rs2
  refine ⟨?or, ?xor, ?andn⟩
  case or => exact fun hvalid => ⟨_, scalar_or hvalid, fun _ => BitVec.getLsbD_or⟩
  case xor => exact fun hvalid => ⟨_, scalar_xor hvalid, fun _ => BitVec.getLsbD_xor⟩
  case andn => exact fun hvalid => ⟨_, scalar_andn hvalid, fun _ hk => getLsbD_and_not_of_lt _ _ hk⟩

theorem shiftsLandNextCycle : ShiftsLandNextCycle := by
  intro s st dst rs1 rs2
  refine ⟨fun hvalid => ?shl, fun hvalid => ?shr, fun hvalid => ?sra⟩
  case shl => exact shiftLeft_eq_word64 _ _ ▸ scalar_shl hvalid
  case shr => exact ushiftRight_eq_word64 _ _ ▸ scalar_shr hvalid
  case sra => exact sshiftRight_eq_word64 _ _ ▸ scalar_sra hvalid

/-- Settles O3: each instruction lands one word (`scalar_and` to `scalar_sra`), of which the statement gives the bits or, for a
shift, the value as a number. -/
theorem scalarLogicAndShiftResults : Obligations.ScalarLogicAndShiftResults :=
  ⟨andLandsNextCycle, bitwiseResultsLandNextCycle, shiftsLandNextCycle⟩

end Sys2Proof.Proofs
end

section
/-! PROOFS. Predicates, the vector stack and VLEN (R376 to R378, R380, R384, R385, R420, R429, R452, R456): the bits of a
predicate that is built lane by lane, what each instruction completes with, and O8. -/

namespace Sys2Proof.Proofs

open Sys2Proof.Machine Sys2Proof.Claims Sys2Proof.Laws

variable {i : Instr} {s u : State} {act : State → Cluster → Act} {st m g p : Bool} {d a b r n : BitVec 7} {pd pa pb : BitVec 4}
  {cond : BitVec 3} {slot : BitVec 11}

/-! ## Completion and operand checks -/

/-- A valid instruction whose meaning attempts to issue, and whose action goes on, completes. -/
theorem completes_of_issue_go (hvalid : Valid i s) (hexec : exec i s = issue i act s) (hact : act s (turn s) = .go u) :
    Completes i s u :=
  hexec.trans (issue_go hvalid hact)

theorem vectorChecks_source {fs : List (BitVec 7)} {c : Act} (hcap : UnderCap s fs) (hsource : SourceReady s a) :
    vectorChecks i s (turn s) fs [a] [] c = c :=
  vectorChecks_pass hcap (List.forall_mem_singleton.2 hsource) (List.forall_mem_nil _)

theorem vectorChecks_dest {fs : List (BitVec 7)} {c : Act} (hcap : UnderCap s fs) (hdest : DestReady s d) :
    vectorChecks i s (turn s) fs [] [d] c = c :=
  vectorChecks_pass hcap (List.forall_mem_nil _) (List.forall_mem_singleton.2 hdest)

theorem firstError_eq_none_iff {l : List (Bool × IllFormed)} : firstError l = none ↔ ∀ x ∈ l, x.1 = true := by
  induction l with
  | nil => exact ⟨fun _ => List.forall_mem_nil _, fun _ => rfl⟩
  | cons x l ih =>
    obtain ⟨ok, e⟩ := x
    cases ok with
    | true => rw [firstError, if_pos rfl, ih, List.forall_mem_cons, eq_self, true_and]
    | false => exact ⟨nofun, fun h => absurd (h _ List.mem_cons_self) nofun⟩

/-- R94: a valid instruction breaks none of its limits. -/
theorem valid_iff : Valid i s ↔ ∀ x ∈ limits (turn s) i, x.1 = true := firstError_eq_none_iff

/-! ## Numbers given bit by bit -/

/-- The number below 2^n whose bits are `q`. -/
def bitsBelow (q : Nat → Bool) (n : Nat) : Nat := (List.range n).foldl (fun v k => if q k then v + 2 ^ k else v) 0

theorem bitsBelow_succ (q : Nat → Bool) (n : Nat) : bitsBelow q (n + 1) = 2 ^ n * (q n).toNat + bitsBelow q n := by
  rw [bitsBelow, List.range_succ, List.foldl_append, List.foldl_cons, List.foldl_nil, ← bitsBelow]
  cases q n with
  | true => rw [if_pos rfl, Bool.toNat_true, mul_one, add_comm]
  | false => rw [if_neg Bool.false_ne_true, Bool.toNat_false, mul_zero, zero_add]

theorem bitsBelow_lt (q : Nat → Bool) (n : Nat) : bitsBelow q n < 2 ^ n := by
  induction n with
  | zero => exact Nat.one_pos
  | succ n ih =>
    have hbit : 2 ^ n * (q n).toNat ≤ 2 ^ n := (Nat.mul_le_mul_left _ (Bool.toNat_le _)).trans_eq (mul_one _)
    rw [bitsBelow_succ, pow_succ]
    omega

theorem testBit_bitsBelow (q : Nat → Bool) {n k : Nat} (hk : k < n) : (bitsBelow q n).testBit k = q k := by
  induction n with
  | zero => exact absurd hk (Nat.not_lt_zero k)
  | succ n ih =>
    rw [bitsBelow_succ, Nat.testBit_two_pow_mul_add _ (bitsBelow_lt q n)]
    rcases Nat.lt_succ_iff_lt_or_eq.1 hk with hlt | rfl
    · rw [if_pos hlt, ih hlt]
    · rw [if_neg (lt_irrefl k), Nat.sub_self]
      cases q k <;> rfl

theorem predicateOf_eq (s : State) (m : Bool) (f : Nat → Bool) :
    predicateOf s m f = BitVec.ofNat 64 (bitsBelow (fun k => active s m k && f k) 64) := rfl

/-- R415: a predicate result holds the bit of each active lane and 0 in every other. -/
theorem getLsbD_predicateOf (f : Nat → Bool) {k : Nat} (hk : k < 64) :
    (predicateOf s m f).getLsbD k = (active s m k && f k) := by
  rw [predicateOf_eq, BitVec.getLsbD_ofNat, testBit_bitsBelow _ hk, decide_eq_true hk, Bool.true_and]

theorem getLsbD_ofNat_two_pow_sub_one (n : Nat) {k : Nat} (hk : k < 64) :
    (BitVec.ofNat 64 (2 ^ n - 1)).getLsbD k = decide (k < n) := by
  rw [BitVec.getLsbD_ofNat, Nat.testBit_two_pow_sub_one, decide_eq_true hk, Bool.true_and]

theorem countOnes_eq_onesBelow (w : W64) (n : Nat) : countOnes w n = onesBelow w n := by
  induction n with
  | zero => rfl
  | succ n ih =>
    rw [countOnes, ih, onesBelow, onesBelow, List.range_succ, List.countP_append, List.countP_singleton]
    cases w.getLsbD n <;> rfl

/-! ## Conditions and operations -/

theorem condition_cases : ∀ {c : BitVec 3}, c.toNat < 6 → c = 0 ∨ c = 1 ∨ c = 2 ∨ c = 3 ∨ c = 4 ∨ c = 5 := by decide

/-- R420: each of the six conditions is the comparison that it names. -/
theorem compare32_eq (hcond : cond.toNat < 6) (x y : W32) :
    compare32 cond.toNat x y =
      ((cond == 0 && x == y) || (cond == 1 && x != y) || (cond == 2 && decide (x.toInt < y.toInt)) ||
        (cond == 3 && decide (y.toInt ≤ x.toInt)) || (cond == 4 && decide (x.toNat < y.toNat)) ||
        (cond == 5 && decide (y.toNat ≤ x.toNat))) := by
  rcases condition_cases hcond with rfl | rfl | rfl | rfl | rfl | rfl <;> simp [compare32]

theorem operation_cases : ∀ op : BitVec 3, op = 0 ∨ op = 1 ∨ op = 2 ∨ op = 3 ∨ op = 4 ∨ op = 5 ∨ op = 6 ∨ op = 7 := by decide

/-- R378: PLOG acts on each bit. -/
theorem getLsbD_predicateLogic (op : BitVec 3) (v w : W64) {k : Nat} (hk : k < 64) :
    (predicateLogic op.toNat v w).getLsbD k =
      if op = 0 then v.getLsbD k && w.getLsbD k else if op = 1 then v.getLsbD k || w.getLsbD k
      else if op = 2 then v.getLsbD k != w.getLsbD k else if op = 3 then v.getLsbD k && !w.getLsbD k else !v.getLsbD k := by
  rcases operation_cases op with rfl | rfl | rfl | rfl | rfl | rfl | rfl | rfl <;> simp [predicateLogic, hk]

/-! ## Predicate results -/

theorem predBits_pset_of_le (hturn : turn s = .V) (hn : n.toNat ≤ 64) :
    PredBits (.pset st pd n) s 1 pd (fun k => decide (k < n.toNat)) := by
  have hvalid : Valid (.pset st pd n) s := valid_iff.2 (by simp [limits, hturn, hn])
  exact ⟨_, fun _ hk => getLsbD_ofNat_two_pow_sub_one _ hk, completes_of_issue_go hvalid exec_pset rfl⟩

theorem traps_pset_of_lt (hturn : turn s = .V) (hn : 64 < n.toNat) :
    Traps (.pset st pd n) s 0x01 (wordTval (.pset st pd n)) := by
  have hcheck : check (turn s) (.pset st pd n) = some .laneCount := by
    simp [check, limits, firstError, hturn, Nat.not_le.2 hn]
  exact exec_pset.trans (issue_invalid hcheck)

theorem vcmp_limits_of_valid (hvalid : Valid (.vcmp st d a b m cond) s) : d.toNat < 16 ∧ cond.toNat < 6 := by
  have h := valid_iff.1 hvalid
  simp only [limits, List.forall_mem_cons, decide_eq_true_eq] at h
  obtain ⟨-, hd, -, hcond, -⟩ := h
  exact ⟨hd, hcond⟩

theorem completes_vcmp (hvalid : Valid (.vcmp st d a b m cond) s) (hcap : UnderCap s [a, b]) (hsource : SourceReady s a) :
    Completes (.vcmp st d a b m cond) s
      (s.writeAt 2 (.pred d.toNat (predicateOf s m (fun k => compare32 cond.toNat (laneA s a k) (laneB s b k))))) :=
  completes_of_issue_go hvalid exec_vcmp (vectorChecks_source hcap hsource)

theorem completes_plog (hvalid : Valid (.plog st pd pa pb cond) s) :
    Completes (.plog st pd pa pb cond) s
      (s.writeAt 1 (.pred pd.toNat (predicateLogic cond.toNat (predicate s pa) (predicate s pb)))) :=
  completes_of_issue_go hvalid exec_plog rfl

/-! ## Vector results -/

theorem lanes_of_completes {lat : Nat} {f : Nat → W32} (h : Completes i s (writeLanes s lat d m f)) : Lanes i s lat d m f :=
  ⟨_, _, fun _ hk => lane_laneMask _ hk, fun _ hk _ => lane_ofLanes f hk, h⟩

theorem lanes_of_laneFill {v : State → W32} (hvalid : Valid i s) (hcap : UnderCap s [d]) (hdest : DestReady s d)
    (hexec : exec i s = laneFill i d v s) : Lanes i s 1 d false (fun _ => v s) :=
  lanes_of_completes (completes_of_issue_go hvalid hexec (vectorChecks_dest hcap hdest))

/-- R377: the lowest number below `n` that `q` holds for, or else 64. -/
theorem find_range_getD_spec (q : Nat → Bool) (n : Nat) :
    (((List.range n).find? q).getD 64 = 64 ∧ ∀ k, k < n → q k = false) ∨
    (((List.range n).find? q).getD 64 < n ∧ q (((List.range n).find? q).getD 64) = true ∧
      ∀ k, k < ((List.range n).find? q).getD 64 → q k = false) := by
  cases hfind : (List.range n).find? q with
  | none => exact .inl ⟨rfl, by simpa using hfind⟩
  | some j =>
    obtain ⟨hq, hmem, hbelow⟩ := List.find?_range_eq_some.1 hfind
    exact .inr ⟨List.mem_range.1 hmem, hq, by simpa using hbelow⟩

theorem groupBase_eq (g : Bool) : groupBase g = 8 * g.toNat := by cases g <;> rfl

theorem extractLsb'_eq_ofNat_div {w : Nat} (v : BitVec w) (start len : Nat) :
    v.extractLsb' start len = BitVec.ofNat len (v.toNat / 2 ^ start) := by
  rw [BitVec.extractLsb', Nat.shiftRight_eq_div_pow]

theorem allLanes_of_completes {lat : Nat} {f : Nat → W32} (h : Completes i s (writeAll s lat (dstV s d) (ofLanes f))) :
    AllLanes i s lat d f :=
  ⟨_, fun _ hk => lane_ofLanes f hk, h⟩

theorem allLanes_ppack (hvalid : Valid (.ppack st d g) s) (hcap : UnderCap s [d]) (hdest : DestReady s d) :
    AllLanes (.ppack st d g) s 2 d (fun k =>
      if k < 16 then (vget s.ctx.regs.p (8 * g.toNat + k / 2) 0).extractLsb' (32 * (k % 2)) 32 else 0) := by
  simp only [extractLsb'_eq_ofNat_div, ← groupBase_eq]
  exact allLanes_of_completes (completes_of_issue_go hvalid exec_ppack (vectorChecks_dest hcap hdest))

/-! ## Predicates from a vector image -/

theorem append_eq_ofNat (hi lo : W32) : (hi ++ lo : W64) = BitVec.ofNat 64 (lo.toNat + hi.toNat * 2 ^ 32) := by
  apply BitVec.eq_of_toNat_eq
  have hhi := hi.isLt
  have hlo := lo.isLt
  rw [BitVec.toNat_append, ← Nat.shiftLeft_add_eq_or_of_lt hlo, Nat.shiftLeft_eq, BitVec.toNat_ofNat,
    Nat.mod_eq_of_lt (by omega), add_comm]

/-- Effects scheduled one after the other for one cycle join those in flight in that order. -/
theorem foldl_writeAt {α : Type} (lat : Nat) (e : α → Effect) (l : List α) (s : State) :
    l.foldl (fun t j => t.writeAt lat (e j)) s =
      s.modCtx (fun x => { x with flight := x.flight ++ l.map (fun j => ⟨s.now + lat, e j⟩) }) := by
  induction l generalizing s with
  | nil => simp [State.modCtx]
  | cons j l ih =>
    rw [List.foldl_cons, ih]
    simp [State.writeAt, State.modCtx]

theorem completes_punpk (hvalid : Valid (.punpk st a g) s) (hcap : UnderCap s [a]) (hsource : SourceReady s a) :
    Completes (.punpk st a g) s (s.modCtx (fun x => { x with flight := x.flight ++ (List.range 8).map (fun j =>
      ⟨s.now + 2, .pred (8 * g.toNat + j) (laneA s a (2 * j + 1) ++ laneA s a (2 * j))⟩) })) := by
  simp only [append_eq_ofNat, ← groupBase_eq]
  rw [← foldl_writeAt]
  exact completes_of_issue_go hvalid exec_punpk (vectorChecks_source hcap hsource)

/-! ## The vector stack -/

theorem spOut_eq_false {x : Ctx} {k size : Nat} (hfits : k + size ≤ x.spSize) : spOut x k size = false :=
  decide_eq_false (Nat.not_lt.2 hfits)

theorem earlyFault_eq_of_none {x : Ctx} {k size : Nat} (hearly : earlyWord x k size = none) :
    earlyFault x k size = (false, 0, 0) := by
  rw [earlyFault, hearly]

theorem spRead_of_not_lost {x : Ctx} {k size : Nat} (hlost : x.spLost k size = false) : x.spRead k size = x.sp.read k size :=
  if_neg (ne_true_of_eq_false hlost)

theorem completes_vfill {k : Nat} (hk : k = s.ctx.sr.vsp.toNat + (if p then 0 else 256 * slot.toNat))
    (hvalid : Valid (.vfill st r slot p) s) (hcap : UnderCap s [r]) (hwm : wmHolds s.ctx k 256 = false)
    (hfits : k + 256 ≤ s.ctx.spSize) (hearly : earlyWord s.ctx k 256 = none) (hlost : s.ctx.spLost k 256 = false) :
    Completes (.vfill st r slot p) s
      ((if p then s.writeAt 1 (.vsp (s.ctx.sr.vsp + 256)) else s).writeAt 6
        (.vector (dstV s r) (BitVec.allOnes 2048) (ofImage (s.ctx.sp.read k 256)))) := by
  subst hk
  refine completes_of_issue_go hvalid exec_vfill ?_
  simp only [capFault_none hcap, hwm, spOut_eq_false hfits, earlyFault_eq_of_none hearly, hlost, spRead_of_not_lost hlost,
    faultsThen_pass, faultsThen_nil, State.abortAt, writeAll, Bool.false_eq_true, if_false]

/-- R456: the address of a spill as VSPILL computes it. -/
theorem spill_address {k : Nat} {vsp : BitVec 20} (hpush : p = true → vsp.toNat = k + 256)
    (hslot : p = false → k = vsp.toNat + 256 * slot.toNat) :
    (if p then (vsp.toNat : Int) - 256 else vsp.toNat + 256 * slot.toNat) = (k : Int) := by
  cases p with
  | true => rw [if_pos rfl, hpush rfl]; omega
  | false => rw [if_neg Bool.false_ne_true, hslot rfl]; omega

theorem completes_vspill {k : Nat} (hpush : p = true → s.ctx.sr.vsp.toNat = k + 256)
    (hslot : p = false → k = s.ctx.sr.vsp.toNat + 256 * slot.toNat) (hvalid : Valid (.vspill st r slot p) s)
    (hcap : UnderCap s [r]) (hlimit : s.ctx.sr.vslim.toNat ≤ k) (hfits : k + 256 ≤ s.ctx.spSize) :
    Completes (.vspill st r slot p) s
      ((if p then s.writeAt 1 (.vsp (BitVec.ofNat 20 k)) else s).writeAt 6
        (.spStore k (imageBytes (plainSource s.ctx.regs r.toNat)) s.ctx.sr.dbgt)) := by
  have hlim : decide ((k : Int) < s.ctx.sr.vslim.toNat) = false := decide_eq_false (by omega)
  refine completes_of_issue_go hvalid exec_vspill ?_
  simp only [capFault_none hcap, spill_address hpush hslot, hlim, Int.toNat_natCast, spOut_eq_false hfits, faultsThen_pass,
    faultsThen_nil, BitVec.ofInt_natCast]

theorem completes_vsetl (hvalid : Valid (.vsetl st n) s) : Completes (.vsetl st n) s (s.writeAt 1 (.vlen n)) :=
  completes_of_issue_go hvalid exec_vsetl rfl

/-! ## O8 -/

theorem psetSetsTheLowBits : PsetSetsTheLowBits :=
  fun _ _ _ _ hturn => ⟨predBits_pset_of_le hturn, traps_pset_of_lt hturn⟩

theorem predicateResults : PredicateResults := by
  intro s st m g d a b p q r cond
  refine ⟨?vcmp, ?plog, ?pcnt, ?pfirst, ?ppack, ?punpk⟩
  case vcmp =>
    intro hvalid hcap hsource
    obtain ⟨hd, hcond⟩ := vcmp_limits_of_valid hvalid
    have hname : (d.setWidth 4).toNat = d.toNat := by rw [BitVec.toNat_setWidth, Nat.mod_eq_of_lt hd]
    refine ⟨_, fun k hk => ?_, hname ▸ completes_vcmp hvalid hcap hsource⟩
    rw [getLsbD_predicateOf _ hk, compare32_eq hcond]
  case plog => exact fun hvalid => ⟨_, fun _ hk => getLsbD_predicateLogic _ _ _ hk, completes_plog hvalid⟩
  case pcnt =>
    intro hvalid hcap hdest
    rw [← countOnes_eq_onesBelow]
    exact lanes_of_laneFill hvalid hcap hdest exec_pcnt
  case pfirst =>
    exact fun hvalid hcap hdest => ⟨_, lanes_of_laneFill hvalid hcap hdest exec_pfirst, find_range_getD_spec _ _⟩
  case ppack => exact allLanes_ppack
  case punpk => exact fun hvalid hcap hsource => ⟨_, completes_punpk hvalid hcap hsource, rfl, rfl⟩

theorem vectorStackAndLength : VectorStackAndLength :=
  fun _ _ _ _ _ _ => ⟨fun _ => completes_vfill, fun _ => completes_vspill, completes_vsetl⟩

/-- Settles O8: the predicates bit by bit (`getLsbD_predicateOf`, `getLsbD_predicateLogic`), the counts and images lane by lane,
and the vector stack at the address that its entry gives. -/
theorem predicatesAndTheVectorStack : Obligations.PredicatesAndTheVectorStack :=
  ⟨psetSetsTheLowBits, predicateResults, vectorStackAndLength⟩

end Sys2Proof.Proofs
end

section
/-! PROOFS. The integer, field, logic and selecting V instructions (R418, R437, R440 to R444, R446, R451, R453, R454, R457,
R458): what each shape of V instruction lands, the result of each operation as a number, and O5 and O6. -/

namespace Sys2Proof.Proofs

open Sys2Proof.Machine Sys2Proof.Claims Sys2Proof.Laws

variable {i : Instr} {s : State} {st m : Bool} {d a b : BitVec 7} {c : BitVec 4} {lat : Nat} {g : Nat → W32}

/-! ## The lanes that land -/

theorem vectorChecks_source_dest {fs : List (BitVec 7)} {act : Act} (hcap : UnderCap s fs) (hsource : SourceReady s a)
    (hdest : DestReady s d) : vectorChecks i s (turn s) fs [a] [d] act = act :=
  vectorChecks_pass hcap (List.forall_mem_singleton.2 hsource) (List.forall_mem_singleton.2 hdest)

theorem vectorChecks_of_ready1 {act : Act} (hready : Ready1 s d a) : vectorChecks i s (turn s) [d, a] [a] [d] act = act := by
  obtain ⟨hcap, hsource, hdest⟩ := hready
  exact vectorChecks_source_dest hcap hsource hdest

theorem vectorChecks_of_ready2 {act : Act} (hready : Ready2 s d a b) :
    vectorChecks i s (turn s) [d, a, b] [a] [d] act = act := by
  obtain ⟨hcap, hsource, hdest⟩ := hready
  exact vectorChecks_source_dest hcap hsource hdest

/-- A valid instruction of one source completes, and each active lane takes the value of its result function. -/
theorem lanes_of_lanes1 {f : VReg → Nat → W32} (hvalid : Valid i s) (hready : Ready1 s d a)
    (hexec : exec i s = lanes1 i lat d a m f s) (hvalue : ∀ k, f (srcA s a) k = g k) : Lanes i s lat d m g :=
  funext hvalue ▸ lanes_of_completes (completes_of_issue_go hvalid hexec (vectorChecks_of_ready1 hready))

/-- A valid instruction of two sources completes, and each active lane takes its function of the two source lanes. -/
theorem lanes_of_lanes2 {f : W32 → W32 → W32} (hvalid : Valid i s) (hready : Ready2 s d a b)
    (hexec : exec i s = lanes2 i lat d a b m f s) (hvalue : ∀ k, f (laneA s a k) (laneB s b k) = g k) : Lanes i s lat d m g :=
  funext hvalue ▸ lanes_of_completes (completes_of_issue_go hvalid hexec (vectorChecks_of_ready2 hready))

/-- A valid instruction of three sources completes, and each lane below VLEN takes its function of the three source lanes. -/
theorem lanes_of_lanes3 {f : W32 → W32 → W32 → W32} (hvalid : Valid i s) (hready : Ready2 s d a b)
    (hexec : exec i s = lanes3 i lat d a b c f s)
    (hvalue : ∀ k, f (laneA s a k) (laneB s b k) (laneC s c k) = g k) : Lanes i s lat d false g :=
  funext hvalue ▸ lanes_of_completes (completes_of_issue_go hvalid hexec (vectorChecks_of_ready2 hready))

theorem lanes_vsel (hvalid : Valid (.vsel st d a b c) s) (hready : Ready2 s d a b) :
    Lanes (.vsel st d a b c) s 2 d false
      (fun k => if (predicate s c).getLsbD k then laneA s a k else laneB s b k) :=
  lanes_of_completes (completes_of_issue_go hvalid exec_vsel (vectorChecks_of_ready2 hready))

/-! ## Results as numbers -/

theorem add_eq_ofNat (x y : W32) : x + y = BitVec.ofNat 32 ((x.toNat + y.toNat) % 2 ^ 32) :=
  BitVec.eq_of_toNat_eq (by rw [BitVec.toNat_add, BitVec.toNat_ofNat, Nat.mod_mod])

theorem sub_eq_ofInt (x y : W32) : x - y = BitVec.ofInt 32 (x.toNat - y.toNat) := by
  apply BitVec.eq_of_toInt_eq
  rw [BitVec.toInt_sub, BitVec.toInt_ofInt, BitVec.toInt_eq_toNat_bmod x, BitVec.toInt_eq_toNat_bmod y, Int.sub_bmod_bmod,
    Int.bmod_sub_bmod]

theorem mul_eq_ofNat (x y : W32) : x * y = BitVec.ofNat 32 (x.toNat * y.toNat) :=
  BitVec.eq_of_toNat_eq (by rw [BitVec.toNat_mul, BitVec.toNat_ofNat])

theorem signedMin_eq_ofInt (x y : W32) : signedMin x y = BitVec.ofInt 32 (min x.toInt y.toInt) := by
  rw [min_comm, min_def_lt, apply_ite (BitVec.ofInt 32), BitVec.ofInt_toInt, BitVec.ofInt_toInt, signedMin]

theorem signedMax_eq_ofInt (x y : W32) : signedMax x y = BitVec.ofInt 32 (max x.toInt y.toInt) := by
  rw [max_def_lt, apply_ite (BitVec.ofInt 32), BitVec.ofInt_toInt, BitVec.ofInt_toInt, signedMax]

theorem ofNat_toNat_lane (x : W32) : BitVec.ofNat 32 x.toNat = x := by
  rw [BitVec.ofNat_toNat, BitVec.setWidth_eq]

theorem unsignedMin_eq_ofNat (x y : W32) : unsignedMin x y = BitVec.ofNat 32 (min x.toNat y.toNat) := by
  rw [min_comm, min_def_lt, apply_ite (BitVec.ofNat 32), ofNat_toNat_lane, ofNat_toNat_lane, unsignedMin]

theorem unsignedMax_eq_ofNat (x y : W32) : unsignedMax x y = BitVec.ofNat 32 (max x.toNat y.toNat) := by
  rw [max_def_lt, apply_ite (BitVec.ofNat 32), ofNat_toNat_lane, ofNat_toNat_lane, unsignedMax]

theorem shiftLeft_eq_ofNat (x : W32) (n : Nat) : x <<< n = BitVec.ofNat 32 (x.toNat * 2 ^ n) :=
  BitVec.eq_of_toNat_eq (by rw [BitVec.toNat_shiftLeft, BitVec.toNat_ofNat, Nat.shiftLeft_eq])

/-- R454: the quotient is below 2^32, so taking it modulo 2^32 loses nothing. -/
theorem ushiftRight_eq_ofNat (x : W32) (n : Nat) : x >>> n = BitVec.ofNat 32 (x.toNat / 2 ^ n) := by
  apply BitVec.eq_of_toNat_eq
  have hlt : x.toNat / 2 ^ n < 2 ^ 32 := (Nat.div_le_self _ _).trans_lt x.isLt
  rw [BitVec.toNat_ushiftRight, BitVec.toNat_ofNat, Nat.mod_eq_of_lt hlt, Nat.shiftRight_eq_div_pow]

/-- R457: filling with bit 31 rounds the signed quotient down, as `Int` division by a positive number does. -/
theorem sshiftRight_eq_ofInt (x : W32) (n : Nat) : x.sshiftRight n = BitVec.ofInt 32 (x.toInt / 2 ^ n) := by
  rw [BitVec.sshiftRight_eq, Int.shiftRight_eq_div_pow, Nat.cast_pow, Nat.cast_ofNat]

/-- R440, R441: the field product of a lane is the word of the products of its bytes. -/
theorem gfLane_eq_fourBytes (x y : W32) : gfLane x y = fourBytes (fun j => gfMul (byteOf x j) (byteOf y j)) := by
  refine congrArg (BitVec.ofNat 32) ?_
  simp only [List.range, List.range.loop, List.map, leNat]
  ring

/-- R437: the 64 bits of two lanes as a number, the first lane above the second. -/
theorem toNat_append_lanes (hi lo : W32) : (hi ++ lo : BitVec 64).toNat = hi.toNat * 2 ^ 32 + lo.toNat := by
  have hhi := hi.isLt
  have hlo := lo.isLt
  rw [append_eq_ofNat, BitVec.toNat_ofNat, Nat.mod_eq_of_lt (by omega), add_comm]

theorem funnelShift_eq_append (hi lo : W32) (n : Nat) :
    BitVec.ofNat 32 ((hi.toNat * 2 ^ 32 + lo.toNat) / 2 ^ n) = BitVec.ofNat 32 ((hi ++ lo : BitVec 64) >>> n).toNat := by
  rw [BitVec.toNat_ushiftRight, Nat.shiftRight_eq_div_pow, toNat_append_lanes]

/-- R442: each bit of VLOG3 is the truth table's bit that the three inputs' bits name. -/
theorem getLsbD_logicLane (tt : BitVec 8) (z x y : W32) {j : Nat} (hj : j < 32) :
    (logicLane tt z x y).getLsbD j =
      tt.getLsbD (4 * (z.getLsbD j).toNat + 2 * (x.getLsbD j).toNat + (y.getLsbD j).toNat) := by
  rw [logicLane, BitVec.getLsbD_ofNat, decide_eq_true hj, Bool.true_and]
  exact testBit_bitsBelow _ hj

theorem completes_vlog3 {d6 : BitVec 6} {tt : BitVec 8} (hvalid : Valid (.vlog3 st d6 a c tt) s)
    (hcap : UnderCap s [d6.setWidth 7, a]) (hsource : SourceReady s a) :
    Completes (.vlog3 st d6 a c tt) s (writeLanes s 1 (d6.setWidth 7) false
      (fun k => logicLane tt (lane (plainSource s.ctx.regs d6.toNat) k) (laneA s a k) (laneC s c k))) :=
  completes_of_issue_go hvalid exec_vlog3 (vectorChecks_source hcap hsource)

/-! ## O5 -/

/-- Settles O5: the lanes that a two-source instruction lands (`lanes_of_lanes2`), each a sum modulo 2^32. -/
theorem vaddWritesLanewiseSums : Obligations.VaddWritesLanewiseSums :=
  fun _ _ _ _ _ _ hvalid hready => lanes_of_lanes2 hvalid hready exec_vadd (fun _ => add_eq_ofNat _ _)

/-! ## O6 -/

theorem integerLanesLandAfterTwoCycles : IntegerLanesLandAfterTwoCycles := by
  intro s st m d a b hready
  refine ⟨fun hvalid => ?vsub, fun hvalid => ?vmul, fun hvalid => ?vminS32, fun hvalid => ?vminN32, fun hvalid => ?vmaxS32,
    fun hvalid => ?vmaxN32, fun hvalid => ?vshl, fun hvalid => ?vshr, fun hvalid => ?vsra⟩
  case vsub => exact lanes_of_lanes2 hvalid hready exec_vsub (fun _ => sub_eq_ofInt _ _)
  case vmul => exact lanes_of_lanes2 hvalid hready exec_vmul (fun _ => mul_eq_ofNat _ _)
  case vminS32 => exact lanes_of_lanes2 hvalid hready exec_vminS32 (fun _ => signedMin_eq_ofInt _ _)
  case vminN32 => exact lanes_of_lanes2 hvalid hready exec_vminN32 (fun _ => unsignedMin_eq_ofNat _ _)
  case vmaxS32 => exact lanes_of_lanes2 hvalid hready exec_vmaxS32 (fun _ => signedMax_eq_ofInt _ _)
  case vmaxN32 => exact lanes_of_lanes2 hvalid hready exec_vmaxN32 (fun _ => unsignedMax_eq_ofNat _ _)
  case vshl => exact lanes_of_lanes2 hvalid hready exec_vshl (fun _ => shiftLeft_eq_ofNat _ _)
  case vshr => exact lanes_of_lanes2 hvalid hready exec_vshr (fun _ => ushiftRight_eq_ofNat _ _)
  case vsra => exact lanes_of_lanes2 hvalid hready exec_vsra (fun _ => sshiftRight_eq_ofInt _ _)

theorem funnelFieldAndLogicLanes : FunnelFieldAndLogicLanes := by
  intro s st m d a b c d6 tt
  refine ⟨fun hvalid hready => ?vgfmul, fun hvalid hready => ?vgfma, fun hvalid hready => ?vfsh, lanes_vsel, ?vlog3⟩
  case vgfmul => exact lanes_of_lanes2 hvalid hready exec_vgfmul (fun _ => gfLane_eq_fourBytes _ _)
  case vgfma =>
    exact lanes_of_lanes3 hvalid hready exec_vgfma (fun _ => congrArg (· ^^^ _) (gfLane_eq_fourBytes _ _))
  case vfsh => exact lanes_of_lanes3 hvalid hready exec_vfsh (fun _ => funnelShift_eq_append _ _ _)
  case vlog3 =>
    intro hvalid hcap hsource
    refine ⟨_, _, fun _ hk => lane_laneMask _ hk, fun k j hk hj _ => ?_, completes_vlog3 hvalid hcap hsource⟩
    rw [lane_ofLanes _ hk, getLsbD_logicLane _ _ _ _ hj]

/-- Settles O6: each instruction lands its function of the source lanes (`lanes_of_lanes2`, `lanes_of_lanes3`, `lanes_vsel`), of
which the statement gives the value as a number, byte by byte or, for VLOG3, bit by bit. -/
theorem integerAndLogicLanes : Obligations.IntegerAndLogicLanes :=
  ⟨integerLanesLandAfterTwoCycles, funnelFieldAndLogicLanes⟩

end Sys2Proof.Proofs
end

section
/-! PROOFS. Moves across lanes and VPACK (R419, R425, R445, R447 to R449, R455, R459): the lane that each result lane takes, the
elements of a packed image, and O7. -/

namespace Sys2Proof.Proofs

open Sys2Proof.Machine Sys2Proof.Claims Sys2Proof.Laws

variable {s : State} {st m : Bool} {d a b : BitVec 7} {w : BitVec 2}

/-! ## Lanes and elements of a source -/

theorem countOnes_eq_countP {n : Nat} (v : BitVec n) (k : Nat) : countOnes v k = (List.range k).countP v.getLsbD := by
  induction k with
  | zero => rfl
  | succ k ih =>
    rw [countOnes, ih, List.range_succ, List.countP_append, List.countP_singleton]
    cases v.getLsbD k <;> rfl

/-- R455: lanes below N take zero, the others the lane N below. -/
theorem slideUp_eq (x : VReg) (n k : Nat) :
    (if n ≤ k then lane x (k - n) else 0) = if k < n then 0 else lane x (k - n) := by
  rw [← ite_not]
  simp only [not_le]

/-- R455: lanes whose source is beyond lane 63 take zero, the others the lane N above. -/
theorem slideDown_eq (x : VReg) (n k : Nat) :
    (if k + n ≤ 63 then lane x (k + n) else 0) = if 63 < k + n then 0 else lane x (k + n) := by
  rw [← ite_not]
  simp only [not_le]

theorem lanes_vperm (hvalid : Valid (.vperm st d a b m) s) (hready : Ready2 s d a b) :
    Lanes (.vperm st d a b m) s 3 d m
      (fun k => if (laneB s b k).toNat < 64 then laneA s a (laneB s b k).toNat else 0) :=
  lanes_of_completes (completes_of_issue_go hvalid exec_vperm (vectorChecks_of_ready2 hready))

/-- R459: an element of a source, as VUNPK computes it. -/
theorem ofNat_div_mod_eq_extractLsb' (x : VReg) (start len : Nat) :
    BitVec.ofNat 32 (x.toNat / 2 ^ start % 2 ^ len) = (x.extractLsb' start len).setWidth 32 := by
  rw [extractLsb'_eq_ofNat_div]
  apply BitVec.eq_of_toNat_eq
  rw [BitVec.toNat_setWidth, BitVec.toNat_ofNat, BitVec.toNat_ofNat]

/-! ## Elements packed one above the other -/

/-- The number whose element of `len` bits at place k is the low `len` bits of `e k` where `q` holds, else 0, for the places below
`n`. -/
def packedBelow (q : Nat → Bool) (e : Nat → Nat) (len n : Nat) : Nat :=
  (List.range n).foldl (fun v k => if q k then v + e k % 2 ^ len * 2 ^ (len * k) else v) 0

/-- The element that `packedBelow` puts at place k. -/
def elementAt (q : Nat → Bool) (e : Nat → Nat) (len k : Nat) : Nat := if q k then e k % 2 ^ len else 0

section

variable (q : Nat → Bool) (e : Nat → Nat) (len : Nat)

theorem elementAt_lt (k : Nat) : elementAt q e len k < 2 ^ len := by
  rw [elementAt]
  split
  · exact Nat.mod_lt _ (Nat.two_pow_pos len)
  · exact Nat.two_pow_pos len

theorem packedBelow_succ (n : Nat) :
    packedBelow q e len (n + 1) = 2 ^ (len * n) * elementAt q e len n + packedBelow q e len n := by
  rw [packedBelow, List.range_succ, List.foldl_append, List.foldl_cons, List.foldl_nil, ← packedBelow, elementAt]
  cases q n with
  | true => rw [if_pos rfl, if_pos rfl, add_comm, mul_comm]
  | false => rw [if_neg Bool.false_ne_true, if_neg Bool.false_ne_true, mul_zero, zero_add]

theorem packedBelow_lt (n : Nat) : packedBelow q e len n < 2 ^ (len * n) := by
  induction n with
  | zero => exact Nat.one_pos
  | succ n ih =>
    rw [packedBelow_succ, Nat.mul_succ, pow_add]
    calc 2 ^ (len * n) * elementAt q e len n + packedBelow q e len n
        < 2 ^ (len * n) * (elementAt q e len n + 1) := by rw [Nat.mul_succ]; exact Nat.add_lt_add_left ih _
      _ ≤ 2 ^ (len * n) * 2 ^ len := Nat.mul_le_mul_left _ (elementAt_lt q e len n)

theorem place_lt {n k j : Nat} (hk : k < n) (hj : j < len) : len * k + j < len * n :=
  calc len * k + j < len * (k + 1) := by rw [Nat.mul_succ]; exact Nat.add_lt_add_left hj _
    _ ≤ len * n := Nat.mul_le_mul_left _ hk

theorem testBit_packedBelow {n k j : Nat} (hk : k < n) (hj : j < len) :
    (packedBelow q e len n).testBit (len * k + j) = (q k && (e k).testBit j) := by
  induction n with
  | zero => exact absurd hk (Nat.not_lt_zero k)
  | succ n ih =>
    rw [packedBelow_succ, Nat.testBit_two_pow_mul_add _ (packedBelow_lt q e len n)]
    rcases Nat.lt_succ_iff_lt_or_eq.1 hk with hlt | rfl
    · rw [if_pos (place_lt len hlt hj), ih hlt]
    · rw [if_neg (Nat.not_lt.2 (Nat.le_add_right _ _)), Nat.add_sub_cancel_left, elementAt]
      cases q k with
      | true => rw [if_pos rfl, Nat.testBit_mod_two_pow, decide_eq_true hj]
      | false => rw [if_neg Bool.false_ne_true, Nat.zero_testBit, Bool.false_and]

end

theorem packed_eq (s : State) (m : Bool) (len : Nat) (x : VReg) :
    packed s m len x = packedBelow (active s m) (fun k => (lane x k).toNat) len 64 := rfl

theorem packed_lt (len : Nat) (x : VReg) : packed s m len x < 2 ^ (64 * len) := by
  rw [packed_eq, mul_comm]
  exact packedBelow_lt _ _ _ _

/-- R447: a bit of an element that VPACK takes from one source. -/
theorem testBit_packed {len k j : Nat} (x : VReg) (hk : k < 64) (hj : j < len) :
    (packed s m len x).testBit (len * k + j) = (active s m k && (lane x k).getLsbD j) :=
  testBit_packedBelow _ _ _ hk hj

/-! ## The image of VPACK -/

/-- R447: two packed sources of `64 * len` bits each, and above them what the destination held. -/
def packedImage (s : State) (m : Bool) (len : Nat) (x y old : VReg) : VReg :=
  BitVec.ofNat 2048 (packed s m len x + packed s m len y * 2 ^ (64 * len) + old.toNat * 2 ^ (128 * len))

theorem completes_vpack (hvalid : Valid (.vpack st d a b w m) s) (hready : Ready2 s d a b) :
    Completes (.vpack st d a b w m) s (writeAll s 3 (dstV s d)
      (packedImage s m (packWidth w) (srcA s a) (srcB s b) (destValue s (dstV s d)))) :=
  completes_of_issue_go hvalid exec_vpack (vectorChecks_of_ready2 hready)

theorem packWidth_le_of_valid (hvalid : Valid (.vpack st d a b w m) s) : packWidth w ≤ 16 := by
  have h := valid_iff.1 hvalid
  simp only [limits, List.forall_mem_cons, decide_eq_true_eq] at h
  obtain ⟨-, -, hw, -⟩ := h
  calc 4 * 2 ^ w.toNat ≤ 4 * 2 ^ 2 := Nat.mul_le_mul_left _ (Nat.pow_le_pow_right two_pos (Nat.le_of_lt_succ hw))
    _ = 16 := rfl

section

variable {len : Nat} (x y old : VReg)

theorem getLsbD_packedImage {j : Nat} (hj : j < 2048) :
    (packedImage s m len x y old).getLsbD j =
      if j < 64 * len then (packed s m len x).testBit j
      else if j - 64 * len < 64 * len then (packed s m len y).testBit (j - 64 * len)
      else old.getLsbD (j - 64 * len - 64 * len) := by
  have hsum : packed s m len x + packed s m len y * 2 ^ (64 * len) + old.toNat * 2 ^ (128 * len) =
      2 ^ (64 * len) * (2 ^ (64 * len) * old.toNat + packed s m len y) + packed s m len x := by
    rw [show 128 * len = 64 * len + 64 * len by omega, pow_add]
    ring
  rw [packedImage, hsum, BitVec.getLsbD_ofNat, decide_eq_true hj, Bool.true_and, Nat.testBit_two_pow_mul_add _ (packed_lt len x),
    Nat.testBit_two_pow_mul_add _ (packed_lt len y), ← BitVec.getLsbD]

/-- A field whose bits are those of an active lane, or zero in an inactive one, is the low bits of that lane. -/
theorem extractLsb'_eq_of_bits {v : VReg} {start k : Nat}
    (hbits : ∀ j, j < len → v.getLsbD (start + j) = (active s m k && (lane x k).getLsbD j)) :
    v.extractLsb' start len = if active s m k then (lane x k).setWidth len else 0 := by
  apply BitVec.eq_of_getLsbD_eq
  intro j hj
  rw [BitVec.getLsbD_extractLsb', decide_eq_true hj, Bool.true_and, hbits j hj]
  cases active s m k with
  | true => rw [if_pos rfl, BitVec.getLsbD_setWidth, decide_eq_true hj]
  | false => rw [if_neg Bool.false_ne_true, BitVec.ofNat_eq_ofNat, BitVec.getLsbD_zero, Bool.false_and]

theorem extractLsb'_packedImage_first {k : Nat} (hlen : len ≤ 16) (hk : k < 64) :
    (packedImage s m len x y old).extractLsb' (len * k) len = if active s m k then (lane x k).setWidth len else 0 := by
  refine extractLsb'_eq_of_bits x (fun j hj => ?_)
  have hplace := place_lt len hk hj
  rw [getLsbD_packedImage x y old (by omega), if_pos (by omega), testBit_packed x hk hj]

theorem extractLsb'_packedImage_second {k : Nat} (hlen : len ≤ 16) (hk : k < 64) :
    (packedImage s m len x y old).extractLsb' (len * (64 + k)) len = if active s m k then (lane y k).setWidth len else 0 := by
  refine extractLsb'_eq_of_bits y (fun j hj => ?_)
  have hplace := place_lt len hk hj
  have hsub : len * (64 + k) + j - 64 * len = len * k + j := by rw [mul_add, mul_comm len 64]; omega
  rw [getLsbD_packedImage x y old (by rw [mul_add]; omega), if_neg (by rw [mul_add]; omega), hsub, if_pos (by omega),
    testBit_packed y hk hj]

theorem getLsbD_packedImage_above {j : Nat} (hj : 128 * len + j < 2048) :
    (packedImage s m len x y old).getLsbD (128 * len + j) = old.getLsbD j := by
  rw [getLsbD_packedImage x y old hj, if_neg (by omega), if_neg (by omega),
    show 128 * len + j - 64 * len - 64 * len = j by omega]

end

/-! ## O7 -/

theorem movesAcrossLanes : MovesAcrossLanes := by
  intro s st m d a b n w
  refine ⟨fun hvalid hready => ?vmov, fun hvalid hready => ?vpopc, fun hvalid hready => ?vbcast, fun hvalid hready => ?vslideUp,
    fun hvalid hready => ?vslideDown, fun hvalid hready => ?vperm, fun hvalid hready => ?vunpk, fun hvalid hready => ?vfclass⟩
  case vmov => exact lanes_of_lanes1 hvalid hready exec_vmov (fun _ => rfl)
  case vpopc => exact lanes_of_lanes1 hvalid hready exec_vpopc (fun _ => congrArg _ (countOnes_eq_countP _ _))
  case vbcast => exact lanes_of_lanes1 hvalid hready exec_vbcast (fun _ => rfl)
  case vslideUp => exact lanes_of_lanes1 hvalid hready exec_vslideUp (fun _ => slideUp_eq _ _ _)
  case vslideDown => exact lanes_of_lanes1 hvalid hready exec_vslideDown (fun _ => slideDown_eq _ _ _)
  case vperm =>
    simp only [← not_lt, ite_not]
    exact lanes_vperm hvalid hready
  case vunpk => exact lanes_of_lanes1 hvalid hready exec_vunpk (fun _ => ofNat_div_mod_eq_extractLsb' _ _ _)
  case vfclass => exact lanes_of_lanes1 hvalid hready exec_vfclass (fun _ => rfl)

theorem vpackFillsTheLowBits : VpackFillsTheLowBits := by
  intro s st m d a b w hvalid hready
  have hlen := packWidth_le_of_valid hvalid
  exact ⟨_, completes_vpack hvalid hready, fun _ hk => extractLsb'_packedImage_first _ _ _ hlen hk,
    fun _ hk => extractLsb'_packedImage_second _ _ _ hlen hk, fun _ hj => getLsbD_packedImage_above _ _ _ hj⟩

/-- Settles O7: the lane or element that each result lane takes (`lanes_of_lanes1`, `lanes_vperm`), and the image of VPACK element by
element (`extractLsb'_packedImage_first`, `extractLsb'_packedImage_second`) and bit by bit above them. -/
theorem lanesMoveAndPack : Obligations.LanesMoveAndPack :=
  ⟨movesAcrossLanes, vpackFillsTheLowBits⟩

end Sys2Proof.Proofs
end

section
/-! PROOFS. O1, from the round-trip law of each constructor. -/

namespace Sys2Proof.Proofs

open Sys2Proof.Laws

/-- R86 to R94, for every constructor: its own law of the family `RoundTrip`. -/
theorem roundTrip_statement (i : Instr) : RoundTrip.Statement i := by
  cases i with
  | accfill => exact RoundTrip.accfill _ _
  | accspill => exact RoundTrip.accspill _ _
  | accz => exact RoundTrip.accz _ _
  | aclaim => exact RoundTrip.aclaim _ _
  | add => exact RoundTrip.add _ _ _ _
  | add16 => exact RoundTrip.add16 _ _ _
  | addi => exact RoundTrip.addi _ _ _ _
  | addi16 => exact RoundTrip.addi16 _ _ _
  | adrain => exact RoundTrip.adrain _ _ _ _ _ _ _
  | afree => exact RoundTrip.afree _ _
  | amo => exact RoundTrip.amo _ _ _ _ _ _ _ _ _
  | and => exact RoundTrip.and _ _ _ _
  | andn => exact RoundTrip.andn _ _ _ _
  | bgive => exact RoundTrip.bgive _ _ _
  | bgive16 => exact RoundTrip.bgive16 _ _
  | blk => exact RoundTrip.blk _ _ _ _ _ _
  | br => exact RoundTrip.br _ _
  | brb => exact RoundTrip.brb _ _ _
  | brc => exact RoundTrip.brc _ _ _ _
  | brk => exact RoundTrip.brk _ _
  | bstat => exact RoundTrip.bstat _ _ _
  | btake => exact RoundTrip.btake _ _ _ _ _
  | btake16 => exact RoundTrip.btake16 _ _
  | cas => exact RoundTrip.cas _ _ _ _ _ _ _ _
  | chkerr => exact RoundTrip.chkerr _ _
  | clz => exact RoundTrip.clz _ _ _
  | cmp => exact RoundTrip.cmp _ _ _ _ _
  | darn => exact RoundTrip.darn _ _ _ _
  | div => exact RoundTrip.div _ _ _ _ _
  | enq => exact RoundTrip.enq _ _ _ _
  | fence => exact RoundTrip.fence _ _
  | flset => exact RoundTrip.flset _ _ _
  | flsetSet16 => exact RoundTrip.flsetSet16 _ _
  | flsetClear16 => exact RoundTrip.flsetClear16 _ _
  | flwait => exact RoundTrip.flwait _ _ _
  | flwait16 => exact RoundTrip.flwait16 _ _
  | flwaitClr16 => exact RoundTrip.flwaitClr16 _ _
  | fwq => exact RoundTrip.fwq _ _
  | getsr => exact RoundTrip.getsr _ _ _
  | halt => exact RoundTrip.halt _
  | halt16 => exact RoundTrip.halt16 _
  | harrive => exact RoundTrip.harrive _ _ _
  | hwait => exact RoundTrip.hwait _ _
  | knot => exact RoundTrip.knot _
  | ld => exact RoundTrip.ld _ _ _ _ _ _
  | ldb => exact RoundTrip.ldb _ _ _ _ _ _ _
  | ldbOrdered => exact RoundTrip.ldbOrdered _ _ _ _ _ _ _
  | ldg => exact RoundTrip.ldg _ _ _ _ _ _ _ _
  | ldlit => exact RoundTrip.ldlit _ _ _
  | lease => exact RoundTrip.lease _ _ _
  | lfree => exact RoundTrip.lfree _
  | lhint => exact RoundTrip.lhint _ _ _ _
  | li => exact RoundTrip.li _ _ _
  | li16 => exact RoundTrip.li16 _ _ _
  | lih => exact RoundTrip.lih _ _ _ _
  | lsflag => exact RoundTrip.lsflag _ _ _ _ _
  | max => exact RoundTrip.max _ _ _ _ _
  | min => exact RoundTrip.min _ _ _ _ _
  | mma => exact RoundTrip.mma _ _ _ _ _
  | mov => exact RoundTrip.mov _ _ _
  | mov16 => exact RoundTrip.mov16 _ _ _
  | mul => exact RoundTrip.mul _ _ _ _
  | mulh => exact RoundTrip.mulh _ _ _ _ _
  | nbenter => exact RoundTrip.nbenter _ _ _
  | nbexit => exact RoundTrip.nbexit _ _ _
  | nbload => exact RoundTrip.nbload _ _ _ _
  | nbmac => exact RoundTrip.nbmac _ _ _ _
  | nbread => exact RoundTrip.nbread _ _ _ _
  | nop => exact RoundTrip.nop _
  | nop16 => exact RoundTrip.nop16 _
  | or => exact RoundTrip.or _ _ _ _
  | pcnt => exact RoundTrip.pcnt _ _ _
  | pfirst => exact RoundTrip.pfirst _ _ _
  | plog => exact RoundTrip.plog _ _ _ _ _
  | popc => exact RoundTrip.popc _ _ _
  | ppack => exact RoundTrip.ppack _ _ _
  | probe => exact RoundTrip.probe _ _ _ _ _
  | probeCfg => exact RoundTrip.probeCfg _ _ _
  | prot => exact RoundTrip.prot _ _ _ _ _
  | pset => exact RoundTrip.pset _ _ _
  | punpk => exact RoundTrip.punpk _ _ _
  | recfl => exact RoundTrip.recfl _ _
  | rem => exact RoundTrip.rem _ _ _ _ _
  | rndend => exact RoundTrip.rndend _ _ _
  | rowcp => exact RoundTrip.rowcp _ _ _ _ _
  | rowfill => exact RoundTrip.rowfill _ _ _ _ _
  | rowlog => exact RoundTrip.rowlog _ _ _ _ _ _
  | sclaim => exact RoundTrip.sclaim _ _
  | sel => exact RoundTrip.sel _ _ _ _ _
  | setsr => exact RoundTrip.setsr _ _ _
  | sfree => exact RoundTrip.sfree _ _
  | shgo => exact RoundTrip.shgo _ _ _ _ _
  | shl => exact RoundTrip.shl _ _ _ _
  | shr => exact RoundTrip.shr _ _ _ _
  | shwm => exact RoundTrip.shwm _ _ _
  | signal => exact RoundTrip.signal _ _ _
  | sra => exact RoundTrip.sra _ _ _ _
  | st => exact RoundTrip.st _ _ _ _ _ _ _
  | stOrdered => exact RoundTrip.stOrdered _ _ _ _ _ _ _
  | stb => exact RoundTrip.stb _ _ _ _ _ _
  | stbOrdered => exact RoundTrip.stbOrdered _ _ _ _ _ _
  | stsc => exact RoundTrip.stsc _ _ _ _ _ _ _ _
  | sub => exact RoundTrip.sub _ _ _ _
  | sub16 => exact RoundTrip.sub16 _ _ _
  | trap => exact RoundTrip.trap _ _
  | tret => exact RoundTrip.tret _
  | vadd => exact RoundTrip.vadd _ _ _ _ _
  | vbcast => exact RoundTrip.vbcast _ _ _ _ _
  | vcmp => exact RoundTrip.vcmp _ _ _ _ _ _
  | vcvt => exact RoundTrip.vcvt _ _ _ _ _ _ _
  | vfabs => exact RoundTrip.vfabs _ _ _ _
  | vfadd => exact RoundTrip.vfadd _ _ _ _ _
  | vfclass => exact RoundTrip.vfclass _ _ _ _
  | vfcmp => exact RoundTrip.vfcmp _ _ _ _ _ _
  | vfdiv => exact RoundTrip.vfdiv _ _ _ _ _
  | vfexp2 => exact RoundTrip.vfexp2 _ _ _ _
  | vfill => exact RoundTrip.vfill _ _ _ _
  | vflog2 => exact RoundTrip.vflog2 _ _ _ _
  | vfma => exact RoundTrip.vfma _ _ _ _ _
  | vfmax => exact RoundTrip.vfmax _ _ _ _ _
  | vfmin => exact RoundTrip.vfmin _ _ _ _ _
  | vfmul => exact RoundTrip.vfmul _ _ _ _ _
  | vfnma => exact RoundTrip.vfnma _ _ _ _ _
  | vfrcp => exact RoundTrip.vfrcp _ _ _ _
  | vfsh => exact RoundTrip.vfsh _ _ _ _ _
  | vfsqrt => exact RoundTrip.vfsqrt _ _ _ _
  | vfsub => exact RoundTrip.vfsub _ _ _ _ _
  | vgfma => exact RoundTrip.vgfma _ _ _ _ _
  | vgfmul => exact RoundTrip.vgfmul _ _ _ _ _
  | vlog3 => exact RoundTrip.vlog3 _ _ _ _ _
  | vmaxS32 => exact RoundTrip.vmaxS32 _ _ _ _ _
  | vmaxN32 => exact RoundTrip.vmaxN32 _ _ _ _ _
  | vminS32 => exact RoundTrip.vminS32 _ _ _ _ _
  | vminN32 => exact RoundTrip.vminN32 _ _ _ _ _
  | vmov => exact RoundTrip.vmov _ _ _ _
  | vmul => exact RoundTrip.vmul _ _ _ _ _
  | vpack => exact RoundTrip.vpack _ _ _ _ _ _
  | vperm => exact RoundTrip.vperm _ _ _ _ _
  | vpopc => exact RoundTrip.vpopc _ _ _ _
  | vred => exact RoundTrip.vred _ _ _ _ _
  | vsel => exact RoundTrip.vsel _ _ _ _ _
  | vsetl => exact RoundTrip.vsetl _ _
  | vshl => exact RoundTrip.vshl _ _ _ _ _
  | vshr => exact RoundTrip.vshr _ _ _ _ _
  | vslideUp => exact RoundTrip.vslideUp _ _ _ _ _
  | vslideDown => exact RoundTrip.vslideDown _ _ _ _ _
  | vspill => exact RoundTrip.vspill _ _ _ _
  | vsra => exact RoundTrip.vsra _ _ _ _ _
  | vsub => exact RoundTrip.vsub _ _ _ _ _
  | vunpk => exact RoundTrip.vunpk _ _ _ _ _ _
  | xcall => exact RoundTrip.xcall _ _
  | xret => exact RoundTrip.xret _
  | xor => exact RoundTrip.xor _ _ _ _
  | engineWait => exact RoundTrip.engineWait _
  | contextSwitch => exact RoundTrip.contextSwitch _
  | hoopNotification => exact RoundTrip.hoopNotification _ _
  | taskRetirement => exact RoundTrip.taskRetirement _
  | gangTermination => exact RoundTrip.gangTermination _
  | preemptionRequest => exact RoundTrip.preemptionRequest _
  | forcedStop => exact RoundTrip.forcedStop _
  | contextStop => exact RoundTrip.contextStop _
  | contextResumption => exact RoundTrip.contextResumption _
  | engineFaultDelivery => exact RoundTrip.engineFaultDelivery _
  | tileCommandExecution => exact RoundTrip.tileCommandExecution _
  | shuttleCommandBegin => exact RoundTrip.shuttleCommandBegin _ _
  | shuttleCompletion => exact RoundTrip.shuttleCompletion _ _
  | cutworkExecution => exact RoundTrip.cutworkExecution _
  | couchingExecution => exact RoundTrip.couchingExecution _
  | queueEngineExecution => exact RoundTrip.queueEngineExecution _
  | footsideExecution => exact RoundTrip.footsideExecution _
  | darningStripe => exact RoundTrip.darningStripe _
  | placementBoundary => exact RoundTrip.placementBoundary _
  | pageMigration => exact RoundTrip.pageMigration _ _
  | evictionStart => exact RoundTrip.evictionStart _
  | pageEviction => exact RoundTrip.pageEviction _ _
  | chainDemotion => exact RoundTrip.chainDemotion _
  | launch => exact RoundTrip.launch _
  | gangPlacement => exact RoundTrip.gangPlacement _
  | gangReserving => exact RoundTrip.gangReserving _
  | waitsig => exact RoundTrip.waitsig _
  | setsig => exact RoundTrip.setsig _
  | mark => exact RoundTrip.mark _
  | nopPacket => exact RoundTrip.nopPacket _
  | packetReject => exact RoundTrip.packetReject _
  | priorityAging => exact RoundTrip.priorityAging _
  | faultHoldExpiry => exact RoundTrip.faultHoldExpiry _
  | qnotify => exact RoundTrip.qnotify _ _
  | remoteNotify => exact RoundTrip.remoteNotify _ _
  | nqclr => exact RoundTrip.nqclr _ _ _
  | qmapcmdMap => exact RoundTrip.qmapcmdMap _ _
  | qmapcmdUnmap => exact RoundTrip.qmapcmdUnmap _ _
  | accevict => exact RoundTrip.accevict _ _ _
  | xinvPage => exact RoundTrip.xinvPage _ _
  | xinvAsid => exact RoundTrip.xinvAsid _ _
  | xinvAll => exact RoundTrip.xinvAll _ _
  | grpcfgForm => exact RoundTrip.grpcfgForm _ _ _
  | grpcfgStby => exact RoundTrip.grpcfgStby _ _ _
  | grpcfgAbrt => exact RoundTrip.grpcfgAbrt _ _ _
  | grpmemWrite => exact RoundTrip.grpmemWrite _ _ _ _
  | heartbeatTimer => exact RoundTrip.heartbeatTimer _
  | memberLoss => exact RoundTrip.memberLoss _ _
  | heartbeat => exact RoundTrip.heartbeat _
  | delta => exact RoundTrip.delta _
  | dack => exact RoundTrip.dack _
  | prepared => exact RoundTrip.prepared _
  | abortreq => exact RoundTrip.abortreq _
  | crec => exact RoundTrip.crec _
  | crecack => exact RoundTrip.crecack _
  | commit => exact RoundTrip.commit _
  | abort => exact RoundTrip.abort _
  | loss => exact RoundTrip.loss _
  | query => exact RoundTrip.query _
  | qreply => exact RoundTrip.qreply _
  | shreq => exact RoundTrip.shreq _
  | share => exact RoundTrip.share _
  | join => exact RoundTrip.join _
  | protectedLineRepair => exact RoundTrip.protectedLineRepair _ _ _
  | uncorrectableError => exact RoundTrip.uncorrectableError _
  | correctableError => exact RoundTrip.correctableError _ _
  | activationSaturation => exact RoundTrip.activationSaturation _ _
  | auditReplayEnd => exact RoundTrip.auditReplayEnd _ _ _ _
  | remoteTimeout => exact RoundTrip.remoteTimeout _ _
  | ualinkRequest => exact RoundTrip.ualinkRequest _
  | uetPacket => exact RoundTrip.uetPacket _ _ _
  | leadcmdRenew => exact RoundTrip.leadcmdRenew _ _
  | leadcmdTake => exact RoundTrip.leadcmdTake _ _
  | leadcmdResign => exact RoundTrip.leadcmdResign _ _
  | keycmdLoadMemoryKey => exact RoundTrip.keycmdLoadMemoryKey _ _
  | keycmdZeroiseMemoryKey => exact RoundTrip.keycmdZeroiseMemoryKey _ _
  | keycmdLoadNotifyKey => exact RoundTrip.keycmdLoadNotifyKey _ _
  | keycmdZeroiseNotifyKey => exact RoundTrip.keycmdZeroiseNotifyKey _ _
  | measext => exact RoundTrip.measext _ _ _
  | signcmd => exact RoundTrip.signcmd _ _
  | flashMailboxRead => exact RoundTrip.flashMailboxRead _
  | rstctlWarmReset => exact RoundTrip.rstctlWarmReset _
  | rstctlColdReset => exact RoundTrip.rstctlColdReset _
  | rstctlPtok => exact RoundTrip.rstctlPtok _
  | registerWrite => exact RoundTrip.registerWrite _ _ _
  | writeLands => exact RoundTrip.writeLands _
  | globalAccessPerformed => exact RoundTrip.globalAccessPerformed _ _
  | shuttleElementMove => exact RoundTrip.shuttleElementMove _ _
  | podHoopArrival => exact RoundTrip.podHoopArrival _ _ _
  | periodicRefresh => exact RoundTrip.periodicRefresh _ _
  | supervisorHartAccess => exact RoundTrip.supervisorHartAccess _ _
  | powerInputOutOfRange => exact RoundTrip.powerInputOutOfRange _
  | phyTrainingComplete => exact RoundTrip.phyTrainingComplete _
  | linkTrainingComplete => exact RoundTrip.linkTrainingComplete _
  | lifeEstimate => exact RoundTrip.lifeEstimate _
  | thermalSample => exact RoundTrip.thermalSample _ _ _
  | leaseLapse => exact RoundTrip.leaseLapse
  | powerOnReset => exact RoundTrip.powerOnReset
  | powerLoss => exact RoundTrip.powerLoss
  | memoryGateOpen => exact RoundTrip.memoryGateOpen
  | lifetimeMerge => exact RoundTrip.lifetimeMerge
  | _ => exact RoundTrip.seal _

/-- Settles O1, by cases over the constructors of `Instr`. -/
theorem decodeGivesBackEveryEncodedInstruction : Obligations.DecodeGivesBackEveryEncodedInstruction :=
  fun c i rest hwf => roundTrip_statement i c rest hwf

end Sys2Proof.Proofs
end

section
/-! PROOFS. Sums, products, quotients and remainders of the scalar subset (R316, R317, R338, R366, R367, R387, R409): the word that
each one lands as a number modulo 2^64, and O2. -/

namespace Sys2Proof.Proofs

set_option Elab.async false

open Sys2Proof.Machine Sys2Proof.Claims Sys2Proof.Laws

variable {s : State} {st u : Bool} {dst rs1 rs2 : BitVec 5}

/-! ## Words as numbers modulo 2^64 -/

theorem word64_toNat (a : W64) : word64 a.toNat = a := by
  rw [word64, BitVec.ofInt_natCast, BitVec.ofNat_toNat, BitVec.setWidth_eq]

theorem word64_toInt (a : W64) : word64 a.toInt = a := BitVec.ofInt_toInt

theorem word64_add (x y : Int) : word64 (x + y) = word64 x + word64 y := BitVec.ofInt_add x y

theorem word64_sub (x y : Int) : word64 (x - y) = word64 x - word64 y := by
  rw [Int.sub_eq_add_neg, word64_add, word64, word64, word64, BitVec.ofInt_neg, BitVec.sub_eq_add_neg]

theorem word64_mul (x y : Int) : word64 (x * y) = word64 x * word64 y := BitVec.ofInt_mul x y

theorem add_eq_word64 (a b : W64) : a + b = word64 (a.toNat + b.toNat) := by rw [word64_add, word64_toNat, word64_toNat]

theorem sub_eq_word64 (a b : W64) : a - b = word64 (a.toNat - b.toNat) := by rw [word64_sub, word64_toNat, word64_toNat]

theorem mul_eq_word64 (a b : W64) : a * b = word64 (a.toNat * b.toNat) := by rw [word64_mul, word64_toNat, word64_toNat]

theorem add_signExtend_eq_word64 {n : Nat} (a : W64) (imm : BitVec n) :
    a + imm.signExtend 64 = word64 (a.toNat + imm.toInt) := by
  rw [word64_add, word64_toNat]
  rfl

/-! ## MULH -/

theorem toInt_word64 {x : Int} (hlow : -2 ^ 63 ≤ x) (hhigh : x < 2 ^ 63) : (word64 x).toInt = x := by
  rw [word64, BitVec.toInt_ofInt]
  exact Int.bmod_eq_of_le (by omega) (by omega)

theorem toInt_bounds (a : W64) : -2 ^ 63 ≤ a.toInt ∧ a.toInt < 2 ^ 63 :=
  ⟨BitVec.le_toInt a, BitVec.toInt_lt⟩

/-- R367: the high half of a signed product fits a register. -/
theorem product_fdiv_bounds (a b : W64) :
    -2 ^ 63 ≤ (a.toInt * b.toInt).fdiv (2 ^ 64) ∧ (a.toInt * b.toInt).fdiv (2 ^ 64) < 2 ^ 63 := by
  obtain ⟨ha, ha'⟩ := toInt_bounds a
  obtain ⟨hb, hb'⟩ := toInt_bounds b
  have habs : |a.toInt * b.toInt| ≤ 2 ^ 63 * 2 ^ 63 := by
    rw [abs_mul]
    exact mul_le_mul (abs_le.2 ⟨ha, ha'.le⟩) (abs_le.2 ⟨hb, hb'.le⟩) (abs_nonneg _) (by norm_num)
  obtain ⟨hlow, hhigh⟩ := abs_le.1 habs
  rw [Int.fdiv_eq_ediv_of_nonneg _ (by norm_num)]
  omega

/-- R366: the low half of the product is its residue, of whichever reading. -/
theorem toNat_mul_eq_emod (a b : W64) : ((a * b).toNat : Int) = a.toInt * b.toInt % 2 ^ 64 := by
  have hprod : a * b = word64 (a.toInt * b.toInt) := by rw [word64_mul, word64_toInt, word64_toInt]
  rw [hprod, word64, BitVec.toNat_ofInt, Int.toNat_of_nonneg (Int.emod_nonneg _ (by norm_num))]
  rfl

theorem product_eq_mulHigh (a b : W64) :
    a.toInt * b.toInt = 2 ^ 64 * (mulHigh false a b).toInt + (a * b).toNat := by
  obtain ⟨hlow, hhigh⟩ := product_fdiv_bounds a b
  rw [toNat_mul_eq_emod, mulHigh, if_neg Bool.false_ne_true, ← word64, toInt_word64 hlow hhigh,
    Int.fdiv_eq_ediv_of_nonneg _ (by norm_num), Int.mul_ediv_add_emod]

/-! ## DIV and REM -/

theorem divide_zero (u : Bool) (a : W64) : divide u a 0 = BitVec.allOnes 64 := if_pos rfl

theorem toNat_divide_unsigned (a : W64) {b : W64} (hb : b ≠ 0) : (divide true a b).toNat = a.toNat / b.toNat := by
  rw [divide, if_neg hb, if_pos rfl, BitVec.toNat_ofNat, Nat.mod_eq_of_lt ((Nat.div_le_self _ _).trans_lt a.isLt)]

/-- R338: signed overflow gives the dividend, which is the quotient modulo 2^64 too. -/
theorem divide_signed (a : W64) {b : W64} (hb : b ≠ 0) : divide false a b = word64 (a.toInt.tdiv b.toInt) := by
  rw [divide, if_neg hb, if_neg Bool.false_ne_true]
  split
  case isTrue hoverflow =>
    obtain ⟨rfl, rfl⟩ := hoverflow
    decide
  case isFalse => rfl

theorem remainder_zero (u : Bool) (a : W64) : remainder u a 0 = a := if_pos rfl

theorem toNat_remainder_unsigned (a : W64) {b : W64} (hb : b ≠ 0) : (remainder true a b).toNat = a.toNat % b.toNat := by
  rw [remainder, if_neg hb, if_pos rfl, BitVec.toNat_ofNat, Nat.mod_eq_of_lt ((Nat.mod_le _ _).trans_lt a.isLt)]

theorem remainder_signed (a : W64) {b : W64} (hb : b ≠ 0) : remainder false a b = word64 (a.toInt.tmod b.toInt) := by
  rw [remainder, if_neg hb, if_neg Bool.false_ne_true]
  split
  case isTrue hoverflow =>
    obtain ⟨rfl, rfl⟩ := hoverflow
    decide
  case isFalse => rfl

/-! ## O2 -/

theorem sumsAndDifferencesLandNextCycle : SumsAndDifferencesLandNextCycle := by
  intro s st dst rs1 rs2 imm imm5
  refine ⟨fun hvalid => ?add, fun hvalid => ?add16, fun hvalid => ?addi, fun hvalid => ?addi16, fun hvalid => ?sub,
    fun hvalid => ?sub16⟩
  case add => exact add_eq_word64 _ _ ▸ (scalar_of_exec_eq hvalid exec_add :)
  case add16 => exact add_eq_word64 _ _ ▸ (scalar_of_exec_eq hvalid exec_add16 :)
  case addi => exact add_signExtend_eq_word64 _ imm ▸ (scalar_of_exec_eq hvalid exec_addi :)
  case addi16 => exact add_signExtend_eq_word64 _ imm5 ▸ (scalar_of_exec_eq hvalid exec_addi16 :)
  case sub => exact sub_eq_word64 _ _ ▸ (scalar_of_exec_eq hvalid exec_sub :)
  case sub16 => exact sub_eq_word64 _ _ ▸ (scalar_of_exec_eq hvalid exec_sub16 :)

theorem productsLandAfterThreeCycles : ProductsLandAfterThreeCycles := by
  intro s st dst rs1 rs2
  refine ⟨fun hvalid => ?mul, fun hvalid => ?mulhUnsigned, fun hvalid => ?mulhSigned⟩
  case mul => exact mul_eq_word64 _ _ ▸ (scalar_of_exec_eq hvalid exec_mul :)
  case mulhUnsigned => exact (scalar_of_exec_eq hvalid exec_mulh :)
  case mulhSigned => exact ⟨_, (scalar_of_exec_eq hvalid exec_mulh :), product_eq_mulHigh _ _⟩

theorem quotientsAndRemaindersLandAfterSixteenCycles : QuotientsAndRemaindersLandAfterSixteenCycles := by
  intro s st dst rs1 rs2 u
  refine ⟨fun hvalid => ⟨_, (scalar_of_exec_eq hvalid exec_div :), ?div⟩,
    fun hvalid => ⟨_, (scalar_of_exec_eq hvalid exec_rem :), ?rem⟩⟩
  case div =>
    refine ⟨fun hzero => ?_, ?_, ?_⟩
    · rw [show rd s (turn s) rs2 = 0 from hzero, divide_zero]
    · rintro hnonzero rfl
      exact toNat_divide_unsigned _ hnonzero
    · rintro hnonzero rfl
      exact divide_signed _ hnonzero
  case rem =>
    refine ⟨fun hzero => ?_, ?_, ?_⟩
    · rw [show rd s (turn s) rs2 = 0 from hzero, remainder_zero]
      rfl
    · rintro hnonzero rfl
      exact toNat_remainder_unsigned _ hnonzero
    · rintro hnonzero rfl
      exact remainder_signed _ hnonzero

/-- Settles O2: each instruction lands one word, of which the statement gives the number modulo 2^64, the exact high half
(`product_eq_mulHigh`), or the quotient and remainder by the three cases of the divisor. -/
theorem scalarArithmeticResults : Obligations.ScalarArithmeticResults :=
  ⟨sumsAndDifferencesLandNextCycle, productsLandAfterThreeCycles, quotientsAndRemaindersLandAfterSixteenCycles⟩

end Sys2Proof.Proofs
end

section
/-! PROOFS. Comparisons, minima and maxima, selection, counts, moves and immediates of the scalar subset (R335, R336, R356, R357,
R361, R362, R365, R379, R395): the word that each one lands, and O4. -/

namespace Sys2Proof.Proofs

set_option Elab.async false

open Sys2Proof.Machine Sys2Proof.Claims Sys2Proof.Laws

variable {s : State} {cond : BitVec 3} {u : Bool}

/-! ## Comparisons -/

/-- R336: each of the six conditions is the comparison that it names. -/
theorem compare64_iff (hcond : cond.toNat < 6) (a b : W64) :
    compare64 cond.toNat a b = true ↔
      (cond = 0 ∧ a = b) ∨ (cond = 1 ∧ a ≠ b) ∨ (cond = 2 ∧ a.toInt < b.toInt) ∨ (cond = 3 ∧ b.toInt ≤ a.toInt) ∨
        (cond = 4 ∧ a.toNat < b.toNat) ∨ (cond = 5 ∧ b.toNat ≤ a.toNat) := by
  rcases condition_cases hcond with rfl | rfl | rfl | rfl | rfl | rfl <;> simp [compare64]

theorem cmp_condition_of_valid {st : Bool} {dst rs1 rs2 : BitVec 5} (hvalid : Valid (.cmp st dst rs1 rs2 cond) s) :
    cond.toNat < 6 := by
  have h := valid_iff.1 hvalid
  simp only [limits, List.forall_mem_cons, decide_eq_true_eq] at h
  obtain ⟨-, -, hcond, -⟩ := h
  exact hcond

/-- What MIN and MAX compare by: below as an unsigned or as a signed number. -/
theorem compare64_below (u : Bool) (a b : W64) :
    compare64 (if u then 4 else 2) a b = if u then decide (a.toNat < b.toNat) else decide (a.toInt < b.toInt) := by
  cases u <;> rfl

/-- R362: the lesser of two words. -/
def lesser (u : Bool) (a b : W64) : W64 := if compare64 (if u then 4 else 2) a b then a else b

/-- R361: the greater of two words. -/
def greater (u : Bool) (a b : W64) : W64 := if compare64 (if u then 4 else 2) a b then b else a

theorem toNat_lesser (a b : W64) : (lesser true a b).toNat = min a.toNat b.toNat := by
  rw [lesser, compare64_below, if_pos rfl, apply_ite BitVec.toNat]
  simp only [decide_eq_true_eq]
  split <;> omega

theorem toInt_lesser (a b : W64) : (lesser false a b).toInt = min a.toInt b.toInt := by
  rw [lesser, compare64_below, if_neg Bool.false_ne_true, apply_ite BitVec.toInt]
  simp only [decide_eq_true_eq]
  split <;> omega

theorem toNat_greater (a b : W64) : (greater true a b).toNat = max a.toNat b.toNat := by
  rw [greater, compare64_below, if_pos rfl, apply_ite BitVec.toNat]
  simp only [decide_eq_true_eq]
  split <;> omega

theorem toInt_greater (a b : W64) : (greater false a b).toInt = max a.toInt b.toInt := by
  rw [greater, compare64_below, if_neg Bool.false_ne_true, apply_ite BitVec.toInt]
  simp only [decide_eq_true_eq]
  split <;> omega

/-! ## Leading zeros -/

theorem bitLength_le (v : W64) (k : Nat) : bitLength v k ≤ k := by
  induction k with
  | zero => exact le_rfl
  | succ k ih =>
    rw [bitLength]
    split
    · exact le_rfl
    · exact ih.trans (Nat.le_succ k)

theorem getLsbD_bitLength_pred {v : W64} {k : Nat} (hpos : 0 < bitLength v k) : v.getLsbD (bitLength v k - 1) = true := by
  induction k with
  | zero => exact absurd hpos (lt_irrefl 0)
  | succ k ih =>
    rw [bitLength] at hpos ⊢
    split
    case isTrue hbit => exact hbit
    case isFalse hbit =>
      rw [if_neg hbit] at hpos
      exact ih hpos

theorem getLsbD_of_bitLength_le {v : W64} {k j : Nat} (hj : bitLength v k ≤ j) (hk : j < k) : v.getLsbD j = false := by
  induction k with
  | zero => exact absurd hk (Nat.not_lt_zero j)
  | succ k ih =>
    rw [bitLength] at hj
    split at hj
    case isTrue => omega
    case isFalse hbit =>
      rcases Nat.lt_succ_iff_lt_or_eq.1 hk with hlt | rfl
      · exact ih hj hlt
      · exact Bool.eq_false_of_not_eq_true hbit

theorem toNat_lt_two_pow_bitLength (v : W64) : v.toNat < 2 ^ bitLength v 64 := by
  refine Nat.lt_pow_two_of_testBit _ (fun j hj => ?_)
  rcases Nat.lt_or_ge j 64 with hlt | hge
  · exact getLsbD_of_bitLength_le hj hlt
  · exact BitVec.getLsbD_of_ge v j hge

theorem two_pow_le_toNat_of_bitLength {v : W64} (hpos : 0 < bitLength v 64) : 2 ^ (bitLength v 64 - 1) ≤ v.toNat :=
  Nat.ge_two_pow_of_testBit (getLsbD_bitLength_pred hpos)

/-! ## LIH -/

theorem getLsbD_halfMask (n : Nat) {k : Nat} (hk : k < 64) :
    ((0xFFFF : W64) <<< n).getLsbD k = (decide (n ≤ k) && decide (k - n < 16)) := by
  have hmask : ∀ j, (0xFFFF : W64).getLsbD j = decide (j < 16) := fun j => by
    rw [show (0xFFFF : W64) = BitVec.ofNat 64 (2 ^ 16 - 1) from rfl, BitVec.getLsbD_ofNat, Nat.testBit_two_pow_sub_one,
      Bool.and_eq_right_iff_imp, decide_eq_true_eq, decide_eq_true_eq]
    omega
  rw [BitVec.getLsbD_shiftLeft, hmask, decide_eq_true hk, Bool.true_and]
  by_cases hn : k < n
  · rw [decide_eq_true hn, decide_eq_false (by omega : ¬ n ≤ k)]; rfl
  · rw [decide_eq_false hn, decide_eq_true (by omega : n ≤ k)]; rfl

/-- R357: the bits of the replaced halfword are the immediate's, the others stay. -/
theorem getLsbD_insertHalf (v : W64) (h : BitVec 2) (half : BitVec 16) {k : Nat} (hk : k < 64) :
    (insertHalf v h half).getLsbD k = if k / 16 = h.toNat then half.getLsbD (k % 16) else v.getLsbD k := by
  rw [insertHalf, BitVec.getLsbD_or, BitVec.getLsbD_and, BitVec.getLsbD_not, getLsbD_halfMask _ hk, BitVec.getLsbD_shiftLeft,
    BitVec.getLsbD_setWidth, decide_eq_true hk, Bool.true_and, Bool.true_and]
  split
  case isTrue hplace =>
    have hge : 16 * h.toNat ≤ k := by omega
    have hoff : k - 16 * h.toNat = k % 16 := by omega
    have hlt : k % 16 < 16 := Nat.mod_lt _ (by decide)
    rw [hoff, decide_eq_true hge, decide_eq_true hlt, decide_eq_false (Nat.not_lt.2 hge),
      decide_eq_true (hlt.trans (by decide : 16 < 64))]
    simp
  case isFalse hplace =>
    rcases Nat.lt_or_ge k (16 * h.toNat) with hlt | hge
    · rw [decide_eq_true hlt, decide_eq_false (by omega : ¬ 16 * h.toNat ≤ k)]
      simp
    · have hfar : 16 ≤ k - 16 * h.toNat := by omega
      rw [decide_eq_false (by omega : ¬ k - 16 * h.toNat < 16), BitVec.getLsbD_of_ge half _ hfar]
      simp

/-! ## O4 -/

theorem comparisonsAndCountsLandNextCycle : ComparisonsAndCountsLandNextCycle := by
  intro s st dst rs1 rs2 rc cond u
  refine ⟨fun hvalid => ?cmp, fun hvalid => ?min, fun hvalid => ?max, fun hvalid => ?sel, fun hvalid => ?clz, fun hvalid => ?popc⟩
  case cmp =>
    simp only [← compare64_iff (cmp_condition_of_valid hvalid)]
    exact (scalar_of_exec_eq hvalid exec_cmp :)
  case min =>
    refine ⟨lesser u (src s rs1) (src s rs2), (scalar_of_exec_eq hvalid exec_min :), ?_, ?_⟩
    · rintro rfl
      exact toNat_lesser _ _
    · rintro rfl
      exact toInt_lesser _ _
  case max =>
    refine ⟨greater u (src s rs1) (src s rs2), (scalar_of_exec_eq hvalid exec_max :), ?_, ?_⟩
    · rintro rfl
      exact toNat_greater _ _
    · rintro rfl
      exact toInt_greater _ _
  case sel =>
    rw [← ite_not]
    exact (scalar_of_exec_eq hvalid exec_sel :)
  case clz =>
    have hle := bitLength_le (src s rs1) 64
    refine ⟨64 - bitLength (src s rs1) 64, (scalar_of_exec_eq hvalid exec_clz :), Nat.sub_le _ _, ?_, fun hn => ?_⟩
    · rw [Nat.sub_sub_self hle]
      exact toNat_lt_two_pow_bitLength _
    · rw [show 63 - (64 - bitLength (src s rs1) 64) = bitLength (src s rs1) 64 - 1 by omega]
      exact two_pow_le_toNat_of_bitLength (by omega)
  case popc =>
    rw [← countOnes_eq_onesBelow]
    exact (scalar_of_exec_eq hvalid exec_popc :)

theorem movesAndImmediatesLandNextCycle : MovesAndImmediatesLandNextCycle := by
  intro s st dst rs1 imm5 imm h half
  refine ⟨fun hvalid => ?mov, fun hvalid => ?mov16, fun hvalid => ?li, fun hvalid => ?li16, fun hvalid => ?lih⟩
  case mov => exact (scalar_of_exec_eq hvalid exec_mov :)
  case mov16 => exact (scalar_of_exec_eq hvalid exec_mov16 :)
  case li => exact (scalar_of_exec_eq hvalid exec_li :)
  case li16 => exact (scalar_of_exec_eq hvalid exec_li16 :)
  case lih => exact ⟨_, (scalar_of_exec_eq hvalid exec_lih :), fun _ hk => getLsbD_insertHalf _ _ _ hk⟩

/-- Settles O4: each instruction lands one word, of which the statement gives the condition, the number or the bits. -/
theorem scalarComparisonsMovesAndImmediates : Obligations.ScalarComparisonsMovesAndImmediates :=
  ⟨comparisonsAndCountsLandNextCycle, movesAndImmediatesLandNextCycle⟩

end Sys2Proof.Proofs
end

section
/-! PROOFS. Floating-point lanes (R107 to R116, R414, R421 to R439): what the fold over the lanes leaves, lane by lane, in the flags
and in the LFSR, what each shape of instruction completes with, and O9. -/

namespace Sys2Proof.Proofs

set_option Elab.async false

open Sys2Proof.Machine Sys2Proof.Claims Sys2Proof.Laws

variable {i : Instr} {s : State} {st m steps : Bool} {d a b : BitVec 7} {c : BitVec 4} {lat : Nat}

/-! ## The fold over the lanes -/

/-- The lanes below `n` of a floating-point instruction (R109). -/
def lanesBelow (s : State) (m steps : Bool) (f : RoundEnv → Nat → W32 × BitVec 10) (n : Nat) : LaneAcc :=
  (List.range n).foldl (laneStep (roundEnv s) steps (active s m) f) { out := [], flags := 0, lfsr := curLfsr s }

variable {f : RoundEnv → Nat → W32 × BitVec 10}

theorem fpLanes_eq_lanesBelow (s : State) (m steps : Bool) (f : RoundEnv → Nat → W32 × BitVec 10) :
    fpLanes s m steps f = lanesBelow s m steps f 64 := rfl

theorem lfsrAtLane_zero : lfsrAtLane s m steps 0 = curLfsr s := by
  rw [lfsrAtLane]
  split <;> rfl

theorem lfsrAtLane_succ_of_active {n : Nat} (hactive : active s m n = true) :
    lfsrAtLane s m steps (n + 1) =
      if steps = true ∧ (roundEnv s).rm = 4 then lfsrNext (lfsrAtLane s m steps n) else lfsrAtLane s m steps n := by
  simp only [lfsrAtLane, List.range_succ, List.countP_append, List.countP_singleton, hactive, if_pos]
  split
  · rw [Function.iterate_succ_apply']
  · rfl

theorem lfsrAtLane_succ_of_inactive {n : Nat} (hactive : active s m n = false) :
    lfsrAtLane s m steps (n + 1) = lfsrAtLane s m steps n := by
  simp only [lfsrAtLane, List.range_succ, List.countP_append, List.countP_singleton, hactive, Bool.false_eq_true, if_false,
    add_zero]

/-- What an active lane leaves of the lanes before it. -/
theorem laneStep_of_active {acc : LaneAcc} {n : Nat} (hlfsr : acc.lfsr = lfsrAtLane s m steps n) (hactive : active s m n = true) :
    laneStep (roundEnv s) steps (active s m) f acc n =
      { out := acc.out ++ [(f (laneEnv s m steps n) n).1], flags := acc.flags ||| (f (laneEnv s m steps n) n).2,
        lfsr := lfsrAtLane s m steps (n + 1) } := by
  simp only [laneStep, hactive, if_true, laneEnv, hlfsr, lfsrAtLane_succ_of_active hactive]

theorem laneStep_of_inactive {acc : LaneAcc} {n : Nat} (hactive : active s m n = false) :
    laneStep (roundEnv s) steps (active s m) f acc n = { acc with out := acc.out ++ [0] } := by
  simp only [laneStep, hactive, Bool.false_eq_true, if_false]

theorem lanesBelow_succ (n : Nat) :
    lanesBelow s m steps f (n + 1) = laneStep (roundEnv s) steps (active s m) f (lanesBelow s m steps f n) n := by
  rw [lanesBelow, List.range_succ, List.foldl_append, List.foldl_cons, List.foldl_nil, ← lanesBelow]

theorem lanesBelow_lfsr (n : Nat) : (lanesBelow s m steps f n).lfsr = lfsrAtLane s m steps n := by
  induction n with
  | zero => exact lfsrAtLane_zero.symm
  | succ n ih =>
    rw [lanesBelow_succ]
    cases hactive : active s m n with
    | true => rw [laneStep_of_active ih hactive]
    | false => rw [laneStep_of_inactive hactive, lfsrAtLane_succ_of_inactive hactive]; exact ih

theorem lanesBelow_succ_of_active {n : Nat} (hactive : active s m n = true) :
    lanesBelow s m steps f (n + 1) =
      { out := (lanesBelow s m steps f n).out ++ [(f (laneEnv s m steps n) n).1],
        flags := (lanesBelow s m steps f n).flags ||| (f (laneEnv s m steps n) n).2, lfsr := lfsrAtLane s m steps (n + 1) } := by
  rw [lanesBelow_succ, laneStep_of_active (lanesBelow_lfsr n) hactive]

theorem lanesBelow_succ_of_inactive {n : Nat} (hactive : active s m n = false) :
    lanesBelow s m steps f (n + 1) =
      { lanesBelow s m steps f n with out := (lanesBelow s m steps f n).out ++ [0] } := by
  rw [lanesBelow_succ, laneStep_of_inactive hactive]

theorem lanesBelow_out (n : Nat) :
    (lanesBelow s m steps f n).out =
      (List.range n).map (fun k => if active s m k then (f (laneEnv s m steps k) k).1 else 0) := by
  induction n with
  | zero => rfl
  | succ n ih =>
    rw [List.range_succ, List.map_append, List.map_singleton]
    cases hactive : active s m n with
    | true => rw [lanesBelow_succ_of_active hactive, ih, if_pos rfl]
    | false => rw [lanesBelow_succ_of_inactive hactive, ih, if_neg Bool.false_ne_true]

/-- R116: the flags are exactly those that some active lane raises. -/
theorem lanesBelow_flags (n j : Nat) :
    (lanesBelow s m steps f n).flags.getLsbD j = true ↔
      ∃ k, k < n ∧ active s m k = true ∧ (f (laneEnv s m steps k) k).2.getLsbD j = true := by
  induction n with
  | zero => simp [lanesBelow]
  | succ n ih =>
    simp only [Nat.lt_succ_iff_lt_or_eq, or_and_right, exists_or, exists_eq_left, ← ih]
    cases hactive : active s m n with
    | true => rw [lanesBelow_succ_of_active hactive, BitVec.getLsbD_or, Bool.or_eq_true, eq_self, true_and]
    | false =>
      rw [lanesBelow_succ_of_inactive hactive]
      simp

theorem fpLanes_out_getD {k : Nat} (hk : k < 64) :
    (fpLanes s m steps f).out.getD k 0 = if active s m k then (f (laneEnv s m steps k) k).1 else 0 := by
  rw [fpLanes_eq_lanesBelow, lanesBelow_out, List.getD_eq_getElem _ _ (by simpa using hk)]
  simp

theorem fpLanes_out_of_active {k : Nat} (hk : k < 64) (hactive : active s m k = true) :
    (fpLanes s m steps f).out.getD k 0 = (f (laneEnv s m steps k) k).1 := by
  rw [fpLanes_out_getD hk, if_pos hactive]

theorem fpLanes_lfsr : (fpLanes s m steps f).lfsr = lfsrAtLane s m steps 64 := lanesBelow_lfsr 64

theorem fpLanes_flagsOf : FlagsOf s m (fun k => (f (laneEnv s m steps k) k).2) (fpLanes s m steps f).flags :=
  lanesBelow_flags 64

/-! ## The shapes of instruction -/

theorem fpLanes_of_completes (h : Completes i s (writeFp s lat d m steps f)) : FpLanes i s lat d m steps f := by
  rw [writeFp, fpLanes_lfsr] at h
  refine ⟨_, _, _, fun _ hk => lane_laneMask _ hk, fun k hk hactive => ?_, fpLanes_flagsOf, h⟩
  rw [lane_ofLanes _ hk, fpLanes_out_of_active hk hactive]

theorem fpLanes_of_fp1 {g : RoundEnv → W32 → W32 × BitVec 10} (hvalid : Valid i s) (hready : Ready1 s d a)
    (hexec : exec i s = fp1 i lat d a m steps g s) : FpLanes i s lat d m steps (fun e k => g e (laneA s a k)) :=
  fpLanes_of_completes (completes_of_issue_go hvalid hexec (vectorChecks_of_ready1 hready))

theorem fpLanes_of_fp2 {g : RoundEnv → W32 → W32 → W32 × BitVec 10} (hvalid : Valid i s) (hready : Ready2 s d a b)
    (hexec : exec i s = fp2 i lat d a b m steps g s) :
    FpLanes i s lat d m steps (fun e k => g e (laneA s a k) (laneB s b k)) :=
  fpLanes_of_completes (completes_of_issue_go hvalid hexec (vectorChecks_of_ready2 hready))

theorem fpLanes_of_fp3 {g : RoundEnv → W32 → W32 → W32 → W32 × BitVec 10} (hvalid : Valid i s) (hready : Ready2 s d a b)
    (hexec : exec i s = fp3 i d a b c g s) :
    FpLanes i s 4 d false true (fun e k => g e (laneA s a k) (laneB s b k) (laneC s c k)) :=
  fpLanes_of_completes (completes_of_issue_go hvalid hexec (vectorChecks_of_ready2 hready))

/-! ## VFCMP and VCVT -/

/-- What VFCMP computes in a lane: its condition as a word, and its flags. -/
def comparisonLane (s : State) (a b : BitVec 7) (cond : BitVec 3) (e : RoundEnv) (k : Nat) : W32 × BitVec 10 :=
  (if (fpCompare e cond.toNat (laneA s a k) (laneB s b k)).1 then 1 else 0,
    (fpCompare e cond.toNat (laneA s a k) (laneB s b k)).2)

/-- The predicate that VFCMP writes. -/
def comparisonPredicate (s : State) (a b : BitVec 7) (m : Bool) (cond : BitVec 3) : W64 :=
  predicateOf s m (fun k => (fpLanes s m false (comparisonLane s a b cond)).out.getD k 0 == 1)

theorem getLsbD_comparisonPredicate {cond : BitVec 3} {k : Nat} (hk : k < 64) :
    (comparisonPredicate s a b m cond).getLsbD k =
      (active s m k && (fpCompare (laneEnv s m false k) cond.toNat (laneA s a k) (laneB s b k)).1) := by
  rw [comparisonPredicate, getLsbD_predicateOf _ hk, fpLanes_out_getD hk]
  cases active s m k with
  | true =>
    rw [if_pos rfl, comparisonLane]
    cases (fpCompare (laneEnv s m false k) cond.toNat (laneA s a k) (laneB s b k)).1 <;> rfl
  | false => rfl

theorem completes_vfcmp {cond : BitVec 3} (hvalid : Valid (.vfcmp st d a b m cond) s) (hcap : UnderCap s [a, b])
    (hsource : SourceReady s a) :
    Completes (.vfcmp st d a b m cond) s
      (withFlags (s.writeAt 2 (.pred d.toNat (comparisonPredicate s a b m cond))) 2
        (fpLanes s m false (comparisonLane s a b cond)).flags (fpLanes s m false (comparisonLane s a b cond)).lfsr) :=
  completes_of_issue_go hvalid exec_vfcmp (vectorChecks_source hcap hsource)

/-- What VCVT computes in a lane: the converted part at its place, and its flags. -/
def conversionLane (s : State) (a : BitVec 7) (dty sty : BitVec 4) (part : BitVec 2) (e : RoundEnv) (k : Nat) : W32 × BitVec 10 :=
  (BitVec.ofNat 32 ((convert e dty.toNat sty.toNat ((laneA s a k).toNat / 2 ^ partShift sty.toNat part.toNat)).1 *
      2 ^ partShift dty.toNat part.toNat),
    (convert e dty.toNat sty.toNat ((laneA s a k).toNat / 2 ^ partShift sty.toNat part.toNat)).2)

theorem completes_vcvt {dty sty : BitVec 4} {part : BitVec 2} (hvalid : Valid (.vcvt st d a dty sty part m) s)
    (hready : Ready1 s d a) :
    Completes (.vcvt st d a dty sty part m) s
      (withFlags (s.writeAt 3 (.vector (dstV s d) (ofLanes (fun k => if active s m k then partMask dty.toNat part.toNat else 0))
          (ofLanes (fun k => (fpLanes s m (convRounds dty.toNat sty.toNat) (conversionLane s a dty sty part)).out.getD k 0)))) 3
        (fpLanes s m (convRounds dty.toNat sty.toNat) (conversionLane s a dty sty part)).flags
        (fpLanes s m (convRounds dty.toNat sty.toNat) (conversionLane s a dty sty part)).lfsr) :=
  completes_of_issue_go hvalid exec_vcvt (vectorChecks_of_ready1 hready)

/-! ## O9 -/

theorem floatArithmeticLanes : FloatArithmeticLanes := by
  intro s st m d a b c hready
  refine ⟨fun hvalid => ?vfadd, fun hvalid => ?vfsub, fun hvalid => ?vfmul, fun hvalid => ?vfdiv, fun hvalid => ?vfma,
    fun hvalid => ?vfnma⟩
  case vfadd => exact fpLanes_of_fp2 hvalid hready exec_vfadd
  case vfsub => exact fpLanes_of_fp2 hvalid hready exec_vfsub
  case vfmul => exact fpLanes_of_fp2 hvalid hready exec_vfmul
  case vfdiv => exact fpLanes_of_fp2 hvalid hready exec_vfdiv
  case vfma => exact fpLanes_of_fp3 hvalid hready exec_vfma
  case vfnma => exact fpLanes_of_fp3 hvalid hready exec_vfnma

theorem floatFunctionLanes : FloatFunctionLanes := by
  intro s st m d a b cond
  refine ⟨fun hvalid hready => ?vfabs, fun hvalid hready => ?vfmin, fun hvalid hready => ?vfmax, fun hvalid hready => ?vfsqrt,
    fun hvalid hready => ?vfrcp, fun hvalid hready => ?vfexp2, fun hvalid hready => ?vflog2, fun hvalid hcap hsource => ?vfcmp⟩
  case vfabs => exact fpLanes_of_fp1 hvalid hready exec_vfabs
  case vfmin => exact fpLanes_of_fp2 hvalid hready exec_vfmin
  case vfmax => exact fpLanes_of_fp2 hvalid hready exec_vfmax
  case vfsqrt => exact fpLanes_of_fp1 hvalid hready exec_vfsqrt
  case vfrcp => exact fpLanes_of_fp1 hvalid hready exec_vfrcp
  case vfexp2 => exact fpLanes_of_fp1 hvalid hready exec_vfexp2
  case vflog2 => exact fpLanes_of_fp1 hvalid hready exec_vflog2
  case vfcmp =>
    exact ⟨_, _, fun _ hk => getLsbD_comparisonPredicate hk, fpLanes_flagsOf (f := comparisonLane s a b cond),
      fpLanes_lfsr ▸ completes_vfcmp hvalid hcap hsource⟩

theorem vcvtConvertsOnePart : VcvtConvertsOnePart := by
  intro s st m d a dty sty part hvalid hready
  refine ⟨_, _, _, fun _ hk => lane_ofLanes _ hk, fun k hk hactive => ?_,
    fpLanes_flagsOf (f := conversionLane s a dty sty part), fpLanes_lfsr ▸ completes_vcvt hvalid hready⟩
  rw [lane_ofLanes _ hk, fpLanes_out_of_active hk hactive]
  rfl

/-- Settles O9: the fold over the lanes leaves each active lane its value under its own environment, the flags of the active lanes as
one OR, and the LFSR stepped in lane order (`fpLanes_out_of_active`, `fpLanes_flagsOf`, `fpLanes_lfsr`). -/
theorem floatingPointLanes : Obligations.FloatingPointLanes :=
  ⟨floatArithmeticLanes, floatFunctionLanes, vcvtConvertsOnePart⟩

end Sys2Proof.Proofs
end

section
/-! PROOFS. VRED (R103, R450): the levels of the reduction tree as nodes over the active lanes, the flags and the LFSR steps of its
combine steps, and O10. -/

namespace Sys2Proof.Proofs

set_option Elab.async false

open Sys2Proof.Machine Sys2Proof.Claims Sys2Proof.Laws

variable {s : State} {st m : Bool} {d a : BitVec 7} {op : BitVec 3} {env : RoundEnv} {o : Nat} {f : BitVec 10} {l : W32}
  {t : List (Option W32)}

/-! ## One level of the tree, two nodes at a time -/

/-- The LFSR after `k` combine steps: each one of a sum under stochastic rounding steps it (R109, R450). -/
def lfsrAfter (env : RoundEnv) (o k : Nat) (l : W32) : W32 := if o = 0 ∧ env.rm = 4 then Nat.iterate lfsrNext k l else l

theorem lfsrAfter_zero : lfsrAfter env o 0 l = l := by
  rw [lfsrAfter]
  split <;> rfl

theorem lfsrAfter_add (j k : Nat) : lfsrAfter env o k (lfsrAfter env o j l) = lfsrAfter env o (k + j) l := by
  simp only [lfsrAfter]
  split
  · rw [Function.iterate_add_apply]
  · rfl

/-- A combine step with the draw that the LFSR gives it. -/
def combineStep (env : RoundEnv) (o : Nat) (l x y : W32) : W32 × BitVec 10 :=
  combine { env with draw := (lfsrAfter env o 1 l).toNat % 65536 } o x y

theorem treeLevel_of_both (x y : W32) :
    treeLevel env o (some x :: some y :: t) f l =
      (some (combineStep env o l x y).1 :: (treeLevel env o t (f ||| (combineStep env o l x y).2) (lfsrAfter env o 1 l)).1,
        (treeLevel env o t (f ||| (combineStep env o l x y).2) (lfsrAfter env o 1 l)).2) := rfl

theorem treeLevel_of_not_both {x y : Option W32} (h : x = none ∨ y = none) :
    treeLevel env o (x :: y :: t) f l =
      ((if x.isSome then x else y) :: (treeLevel env o t f l).1, (treeLevel env o t f l).2) := by
  cases x with
  | none => rfl
  | some x =>
    cases y with
    | none => rfl
    | some y => exact absurd h nofun

theorem treeLevel_singleton (x : Option W32) : treeLevel env o [x] f l = ([x], f, l) := by cases x <;> rfl

theorem both_or_not (x y : Option W32) : (∃ v w, x = some v ∧ y = some w) ∨ x = none ∨ y = none := by
  cases x with
  | none => exact .inr (.inl rfl)
  | some v =>
    cases y with
    | none => exact .inr (.inr rfl)
    | some w => exact .inl ⟨v, w, rfl, rfl⟩

/-! ## How many nodes are left, and how often the LFSR has stepped -/

/-- How many nodes of a level are present. -/
def presentCount (t : List (Option W32)) : Nat := t.countP Option.isSome

/-- What a level, or some levels, make of the nodes `t`: `k` combine steps leave `k` nodes fewer, and at least one of some. -/
def Reduces (env : RoundEnv) (o : Nat) (t : List (Option W32)) (l : W32) (r : List (Option W32) × BitVec 10 × W32) : Prop :=
  ∃ k, presentCount t = presentCount r.1 + k ∧ r.2.2 = lfsrAfter env o k l ∧ (presentCount t ≠ 0 → presentCount r.1 ≠ 0)

theorem presentCount_pair_of_not_both {x y : Option W32} (h : x = none ∨ y = none) :
    presentCount (x :: y :: t) = presentCount ((if x.isSome then x else y) :: t) := by
  rcases h with rfl | rfl
  · simp [presentCount]
  · cases x <;> simp [presentCount]

theorem treeLevel_reduces (t : List (Option W32)) (f : BitVec 10) (l : W32) : Reduces env o t l (treeLevel env o t f l) := by
  induction t using List.twoStepInduction generalizing f l with
  | nil => exact ⟨0, rfl, lfsrAfter_zero.symm, id⟩
  | singleton x => rw [treeLevel_singleton]; exact ⟨0, rfl, lfsrAfter_zero.symm, id⟩
  | cons_cons x y t ih _ =>
    rcases both_or_not x y with ⟨v, w, rfl, rfl⟩ | h
    · obtain ⟨k, hcount, hlfsr, -⟩ := ih (f ||| (combineStep env o l v w).2) (lfsrAfter env o 1 l)
      rw [treeLevel_of_both]
      refine ⟨k + 1, ?_, hlfsr.trans (lfsrAfter_add 1 k), fun _ => ?_⟩
      · simp only [presentCount, List.countP_cons, Option.isSome_some, if_true] at hcount ⊢
        omega
      · simp [presentCount]
    · obtain ⟨k, hcount, hlfsr, hpresent⟩ := ih f l
      rw [treeLevel_of_not_both h, Reduces, presentCount_pair_of_not_both h]
      refine ⟨k, ?_, hlfsr, ?_⟩
      · simp only [presentCount, List.countP_cons] at hcount ⊢
        omega
      · simp only [presentCount, List.countP_cons] at hpresent ⊢
        omega

theorem tree_reduces (n : Nat) (t : List (Option W32)) (f : BitVec 10) (l : W32) : Reduces env o t l (tree env o n t f l) := by
  induction n generalizing t f l with
  | zero => exact ⟨0, rfl, lfsrAfter_zero.symm, id⟩
  | succ n ih =>
    obtain ⟨j, hcount, hlfsr, hpresent⟩ := treeLevel_reduces (env := env) (o := o) t f l
    obtain ⟨k, hcount', hlfsr', hpresent'⟩ :=
      ih (treeLevel env o t f l).1 (treeLevel env o t f l).2.1 (treeLevel env o t f l).2.2
    refine ⟨k + j, ?_, ?_, fun h => hpresent' (hpresent h)⟩
    · rw [hcount, hcount', Nat.add_assoc]
      rfl
    · exact hlfsr'.trans (by rw [hlfsr, lfsrAfter_add])

/-! ## The number of nodes of a level -/

theorem treeLevel_length (t : List (Option W32)) (f : BitVec 10) (l : W32) :
    (treeLevel env o t f l).1.length = (t.length + 1) / 2 := by
  induction t using List.twoStepInduction generalizing f l with
  | nil => rfl
  | singleton x => simp [treeLevel_singleton]
  | cons_cons x y t ih _ =>
    have hlen : (t.length + 1 + 1 + 1) / 2 = (t.length + 1) / 2 + 1 := by omega
    rcases both_or_not x y with ⟨v, w, rfl, rfl⟩ | h
    · rw [treeLevel_of_both, List.length_cons, ih, List.length_cons, List.length_cons, hlen]
    · rw [treeLevel_of_not_both h, List.length_cons, ih, List.length_cons, List.length_cons, hlen]

theorem tree_length (n : Nat) (t : List (Option W32)) (f : BitVec 10) (l : W32) (h : t.length = 2 ^ n) :
    (tree env o n t f l).1.length = 1 := by
  induction n generalizing t f l with
  | zero => exact h
  | succ n ih =>
    refine ih _ _ _ ?_
    rw [treeLevel_length, h, pow_succ]
    omega

/-- Six levels leave the one root, which is present when a leaf is; the combine steps are one fewer than the present leaves. -/
theorem tree_root {env : RoundEnv} {o : Nat} {t : List (Option W32)} {l : W32} (h : t.length = 64) :
    (presentCount t = 0 → (tree env o 6 t 0 l).1.headD none = none) ∧
    (0 < presentCount t → (∃ v, (tree env o 6 t 0 l).1.headD none = some v) ∧
      (tree env o 6 t 0 l).2.2 = lfsrAfter env o (presentCount t - 1) l) := by
  obtain ⟨r, hroot⟩ := List.length_eq_one_iff.1 (tree_length (env := env) (o := o) 6 t 0 l h)
  obtain ⟨k, hcount, hlfsr, hpresent⟩ := tree_reduces (env := env) (o := o) 6 t 0 l
  rw [hroot] at hcount hpresent ⊢
  cases r with
  | none =>
    simp only [presentCount, List.countP_cons, List.countP_nil] at hcount hpresent ⊢
    exact ⟨fun _ => rfl, fun hpos => absurd rfl (hpresent (by omega))⟩
  | some v =>
    simp only [presentCount, List.countP_cons, List.countP_nil] at hcount hpresent ⊢
    refine ⟨fun hzero => absurd hcount (by simp; omega), fun _ => ⟨⟨v, rfl⟩, ?_⟩⟩
    rw [hlfsr, hcount]
    simp

/-! ## The nodes of a level, where no combine step draws -/

/-- One node of the next level. -/
def joined (e : RoundEnv) (o : Nat) (x y : Option W32) : Option W32 :=
  match x, y with
  | some x, some y => some (combine e o x y).1
  | some x, none => some x
  | none, y => y

theorem node_succ (e : RoundEnv) (o : Nat) (leaf : Nat → Option W32) (n j : Nat) :
    node e o leaf (n + 1) j = joined e o (node e o leaf n (2 * j)) (node e o leaf n (2 * j + 1)) := by
  rw [node]
  cases node e o leaf n (2 * j) <;> cases node e o leaf n (2 * j + 1) <;> rfl

theorem joined_of_not_both {e : RoundEnv} {x y : Option W32} (h : x = none ∨ y = none) :
    joined e o x y = if x.isSome then x else y := by
  rcases h with rfl | rfl
  · rfl
  · cases x <;> rfl

/-- The environment of every combine step that does not step the LFSR. -/
def drawnEnv (env : RoundEnv) (l : W32) : RoundEnv := { env with draw := l.toNat % 65536 }

theorem combineStep_of_not_stochastic (h : ¬(o = 0 ∧ env.rm = 4)) (x y : W32) :
    combineStep env o l x y = combine (drawnEnv env l) o x y := by
  rw [combineStep, lfsrAfter, if_neg h]
  rfl

/-- Bit `b` is raised by the combine step of the nodes `2 * j` and `2 * j + 1` of a level. -/
def Raises (e : RoundEnv) (o : Nat) (g : Nat → Option W32) (b j : Nat) : Prop :=
  ∃ x y, g (2 * j) = some x ∧ g (2 * j + 1) = some y ∧ (combine e o x y).2.getLsbD b = true

theorem exists_lt_succ_iff {p : Nat → Prop} (n : Nat) : (∃ j, j < n + 1 ∧ p j) ↔ p 0 ∨ ∃ j, j < n ∧ p (j + 1) := by
  constructor
  · rintro ⟨j, hj, hp⟩
    cases j with
    | zero => exact .inl hp
    | succ j => exact .inr ⟨j, by omega, hp⟩
  · rintro (hp | ⟨j, hj, hp⟩)
    · exact ⟨0, Nat.succ_pos n, hp⟩
    · exact ⟨j + 1, by omega, hp⟩

theorem range_map_two_mul_succ {α : Type} (g : Nat → α) (n : Nat) :
    (List.range (2 * (n + 1))).map g = g 0 :: g 1 :: (List.range (2 * n)).map (fun k => g (k + 2)) := by
  rw [show 2 * (n + 1) = 2 * n + 1 + 1 by ring, List.range_succ_eq_map, List.range_succ_eq_map]
  simp [List.map_map, Function.comp_def]

/-- One level of `2 * n` nodes: each pair joined, with the flags that its combine steps raise. -/
theorem treeLevel_of_not_stochastic (h : ¬(o = 0 ∧ env.rm = 4)) (n : Nat) (g : Nat → Option W32) (f : BitVec 10) (l : W32) :
    (treeLevel env o ((List.range (2 * n)).map g) f l).1 =
        (List.range n).map (fun j => joined (drawnEnv env l) o (g (2 * j)) (g (2 * j + 1))) ∧
      (treeLevel env o ((List.range (2 * n)).map g) f l).2.2 = l ∧
      ∀ b, (treeLevel env o ((List.range (2 * n)).map g) f l).2.1.getLsbD b = true ↔
        f.getLsbD b = true ∨ ∃ j, j < n ∧ Raises (drawnEnv env l) o g b j := by
  induction n generalizing g f with
  | zero => exact ⟨rfl, rfl, by simp [treeLevel]⟩
  | succ n ih =>
    rw [range_map_two_mul_succ]
    have hlfsr : lfsrAfter env o 1 l = l := if_neg h
    rcases both_or_not (g 0) (g 1) with ⟨x, y, hx, hy⟩ | hnot
    · obtain ⟨hnodes, hstep, hflags⟩ := ih (fun k => g (k + 2)) (f ||| (combineStep env o l x y).2)
      rw [hx, hy, treeLevel_of_both, hlfsr]
      refine ⟨?_, hstep, fun b => ?_⟩
      · rw [List.range_succ_eq_map, List.map_cons, List.map_map, hnodes, combineStep_of_not_stochastic h, Nat.mul_zero, hx,
          Nat.zero_add, hy]
        rfl
      · have hfirst : Raises (drawnEnv env l) o g b 0 ↔ (combineStep env o l x y).2.getLsbD b = true := by
          rw [combineStep_of_not_stochastic h, Raises, Nat.mul_zero, hx, Nat.zero_add, hy]
          simp
        rw [hflags b, exists_lt_succ_iff, hfirst, BitVec.getLsbD_or, Bool.or_eq_true, or_assoc]
        rfl
    · obtain ⟨hnodes, hstep, hflags⟩ := ih (fun k => g (k + 2)) f
      rw [treeLevel_of_not_both hnot]
      refine ⟨?_, hstep, fun b => ?_⟩
      · rw [List.range_succ_eq_map, List.map_cons, List.map_map, hnodes, Nat.mul_zero, Nat.zero_add, joined_of_not_both hnot]
        rfl
      · have hfirst : ¬Raises (drawnEnv env l) o g b 0 := by
          rintro ⟨x, y, hx, hy, -⟩
          rcases hnot with hnone | hnone
          · exact nomatch hnone.symm.trans hx
          · exact nomatch hnone.symm.trans hy
        rw [hflags b, exists_lt_succ_iff, or_iff_right hfirst]
        rfl

theorem nodes_of_level : ∀ n, n < 6 → 64 / 2 ^ n = 2 * (64 / 2 ^ (n + 1)) := by decide

/-- The levels from `n` up to the root: the root's node, and the flags of their combine steps. -/
theorem tree_of_not_stochastic (h : ¬(o = 0 ∧ env.rm = 4)) (leaf : Nat → Option W32) (k n : Nat) (hlevels : n + k = 6)
    (f : BitVec 10) (l : W32) :
    (tree env o k ((List.range (64 / 2 ^ n)).map (node (drawnEnv env l) o leaf n)) f l).1 =
        [node (drawnEnv env l) o leaf 6 0] ∧
      ∀ b, (tree env o k ((List.range (64 / 2 ^ n)).map (node (drawnEnv env l) o leaf n)) f l).2.1.getLsbD b = true ↔
        f.getLsbD b = true ∨ ∃ i j, n ≤ i ∧ i < 6 ∧ j < 64 / 2 ^ (i + 1) ∧
          Raises (drawnEnv env l) o (node (drawnEnv env l) o leaf i) b j := by
  induction k generalizing n f with
  | zero =>
    obtain rfl : n = 6 := hlevels
    refine ⟨rfl, fun b => ?_⟩
    rw [or_iff_left]
    · rfl
    · rintro ⟨i, j, hle, hlt, -⟩
      omega
  | succ k ih =>
    have hn : n < 6 := by omega
    obtain ⟨hnodes, hstep, hflags⟩ :=
      treeLevel_of_not_stochastic h (64 / 2 ^ (n + 1)) (node (drawnEnv env l) o leaf n) f l
    rw [nodes_of_level n hn]
    simp only [← node_succ] at hnodes
    obtain ⟨hroot, hflags'⟩ := ih (n + 1) (by omega)
      (treeLevel env o ((List.range (2 * (64 / 2 ^ (n + 1)))).map (node (drawnEnv env l) o leaf n)) f l).2.1
    rw [tree]
    simp only [hnodes, hstep]
    refine ⟨hroot, fun b => ?_⟩
    rw [hflags' b, hflags b, or_assoc]
    refine or_congr_right ⟨?_, ?_⟩
    · rintro (⟨j, hj, hraises⟩ | ⟨i, j, hle, hrest⟩)
      · exact ⟨n, j, le_rfl, hn, hj, hraises⟩
      · exact ⟨i, j, by omega, hrest⟩
    · rintro ⟨i, j, hle, hlt, hj, hraises⟩
      rcases Nat.eq_or_lt_of_le hle with rfl | hlt'
      · exact .inl ⟨j, hj, hraises⟩
      · exact .inr ⟨i, j, hlt', hlt, hj, hraises⟩

/-! ## What VRED completes with -/

/-- The leaves of the tree: the active lanes of the source. -/
def activeLeaf (s : State) (a : BitVec 7) (m : Bool) (k : Nat) : Option W32 := if active s m k then some (laneA s a k) else none

/-- The tree of VRED. -/
def reduction (s : State) (a : BitVec 7) (m : Bool) (o : Nat) : List (Option W32) × BitVec 10 × W32 :=
  tree (roundEnv s) o 6 ((List.range 64).map (activeLeaf s a m)) 0 (curLfsr s)

theorem presentCount_leaves : presentCount ((List.range 64).map (activeLeaf s a m)) = (List.range 64).countP (active s m) := by
  rw [presentCount, List.countP_map]
  refine List.countP_congr (fun k _ => ?_)
  rw [Function.comp_apply, activeLeaf]
  cases active s m k <;> simp

theorem leaves_length : ((List.range 64).map (activeLeaf s a m)).length = 64 := by
  rw [List.length_map, List.length_range]

/-- What VRED does once its operands are checked. -/
def vredAct (s : State) (d : BitVec 7) (m : Bool) (o : Nat) (r : List (Option W32) × BitVec 10 × W32) : Act :=
  match r.1.headD none with
  | some v => .go (landFlags (writeLanes s 8 d m (fun _ => redResult o v)) 8 r.2.1 r.2.2)
  | none => .go s

theorem vredAct_of_none {r : List (Option W32) × BitVec 10 × W32} (hroot : r.1.headD none = none) :
    vredAct s d m o r = .go s := by
  rw [vredAct, hroot]

theorem vredAct_of_some {r : List (Option W32) × BitVec 10 × W32} {v : W32} (hroot : r.1.headD none = some v) :
    vredAct s d m o r = .go (withFlags (writeLanes s 8 d m (fun _ => redResult o v)) 8 r.2.1 r.2.2) := by
  rw [vredAct, hroot]
  rfl

theorem completes_of_vredAct {u : State} (hvalid : Valid (.vred st d a m op) s) (hready : Ready1 s d a)
    (hact : vredAct s d m op.toNat (reduction s a m op.toNat) = .go u) : Completes (.vred st d a m op) s u := by
  generalize hr : reduction s a m op.toNat = r at hact
  have hr' : tree (roundEnv s) op.toNat 6
      ((List.range 64).map (fun k => if active s m k then some (lane (srcA s a) k) else none)) 0 (curLfsr s) = r := hr
  refine completes_of_issue_go hvalid exec_vred ?_
  simp only [hr']
  exact (vectorChecks_of_ready1 hready).trans hact

theorem completes_vred_of_none (hvalid : Valid (.vred st d a m op) s) (hready : Ready1 s d a)
    (hroot : (reduction s a m op.toNat).1.headD none = none) : Completes (.vred st d a m op) s s :=
  completes_of_vredAct hvalid hready (vredAct_of_none hroot)

theorem completes_vred_of_some {v : W32} (hvalid : Valid (.vred st d a m op) s) (hready : Ready1 s d a)
    (hroot : (reduction s a m op.toNat).1.headD none = some v) :
    Completes (.vred st d a m op) s
      (withFlags (writeLanes s 8 d m (fun _ => redResult op.toNat v)) 8 (reduction s a m op.toNat).2.1
        (reduction s a m op.toNat).2.2) :=
  completes_of_vredAct hvalid hready (vredAct_of_some hroot)

/-! ## O10 -/

theorem op_eq_zero_iff (op : BitVec 3) : op.toNat = 0 ↔ op = 0 := by
  rw [← BitVec.toNat_inj]
  rfl

/-- Settles O10: the root of the tree is present when a lane is active (`tree_root`), its LFSR has stepped once for each combine step,
and where none draws the root and the flags are those of the nodes (`tree_of_not_stochastic`). -/
theorem vredCombinesActiveLanes : Obligations.VredCombinesActiveLanes := by
  intro s st m d a op hvalid hready leaf count e
  obtain ⟨hnone, hsome⟩ := tree_root (env := roundEnv s) (o := op.toNat) (l := curLfsr s) (leaves_length (s := s) (a := a) (m := m))
  rw [presentCount_leaves] at hnone hsome
  refine ⟨fun hzero => completes_vred_of_none hvalid hready (hnone hzero), fun hpos => ?_⟩
  obtain ⟨⟨v, hroot⟩, hlfsr⟩ := hsome hpos
  have hcompletes := completes_vred_of_some hvalid hready hroot
  rw [reduction, hlfsr, lfsrAfter] at hcompletes
  simp only [op_eq_zero_iff] at hcompletes
  refine ⟨_, _, _, redResult op.toNat v, fun _ hk => lane_laneMask _ hk, fun _ hk => lane_ofLanes _ hk, hcompletes, fun h => ?_⟩
  rw [← op_eq_zero_iff] at h
  obtain ⟨hnode, hflags⟩ := tree_of_not_stochastic h leaf 6 0 rfl 0 (curLfsr s)
  have hleaves : (List.range (64 / 2 ^ 0)).map (node (drawnEnv (roundEnv s) (curLfsr s)) op.toNat leaf 0) =
      (List.range 64).map (activeLeaf s a m) := rfl
  rw [hleaves] at hnode hflags
  refine ⟨?_, fun b => ?_⟩
  · rw [hnode] at hroot
    exact congrArg (Option.map (redResult op.toNat)) hroot
  · rw [hflags b, BitVec.ofNat_eq_ofNat, BitVec.getLsbD_zero, Bool.false_eq_true, false_or]
    constructor
    · rintro ⟨i, j, -, hi, hj, x, y, hx, hy, hbit⟩
      exact ⟨i, j, x, y, hi, hj, hx, hy, hbit⟩
    · rintro ⟨i, j, x, y, hi, hj, hx, hy, hbit⟩
      exact ⟨i, j, Nat.zero_le i, hi, hj, x, y, hx, hy, hbit⟩

end Sys2Proof.Proofs
end

section
/-! PROOFS. Special registers (R66, R67, R79 to R81, R277, R279, R331, R334, R344, R396, R397): what GETSR, SETSR, CHKERR and BSTAT
complete with, where they trap, what each register reads as after a write, and O11. -/

namespace Sys2Proof.Proofs

set_option Elab.async false

open Sys2Proof.Machine Sys2Proof.Claims Sys2Proof.Laws

variable {i : Instr} {s t : State} {x : Ctx} {st : Bool} {r : BitVec 6} {n : BitVec 8} {b : BitVec 4} {v w : W64} {c : Cluster}
  {k lat : Nat} {act : State → Cluster → Act}

/-! ## Completion and traps -/

theorem traps_of_issue_trap {code : Nat} {tval : W64} (hvalid : Valid i s) (hexec : exec i s = issue i act s)
    (hact : act s (turn s) = .trap code tval) : Traps i s code tval :=
  hexec.trans (issue_trap hvalid hact)

theorem capFault6_none (hfree : Free6 s r) : capFault6 s (turn s) r = none :=
  if_neg (fun ⟨hturn, hcap⟩ => ne_true_of_eq_false (hfree hturn) hcap)

theorem ofW64_eq_setWidth (v : W64) : ofW64 v = v.setWidth 2048 := BitVec.ofNat_toNat 2048 v

theorem write6_eq_to6 (hturn : turn t = c) : write6 t c lat r v = to6 t lat r v := by
  subst hturn
  rw [to6]
  cases hc : turn t with
  | V => rw [if_pos rfl, ← ofW64_eq_setWidth]; rfl
  | A => rw [if_neg nofun]; rfl
  | M => rw [if_neg nofun]; rfl
  | S => rw [if_neg nofun]; rfl

/-! ## Results that depend on timing -/

theorem logResult_of_live (hlive : s.ctx.replays = false) : s.logResult (turn s) v = (logged s v, v) := by
  rw [State.logResult, if_neg (ne_true_of_eq_false hlive), logged]
  split <;> rfl

theorem logResult_of_replay (hreplay : s.ctx.replays = true) :
    s.logResult (turn s) v = ({ s with ctx := (s.ctx.takeLogged (cnum (turn s)) 0 8).1.tick },
      BitVec.ofNat 64 (leNat (s.ctx.takeLogged (cnum (turn s)) 0 8).2)) := by
  rw [State.logResult, if_pos hreplay]

theorem turn_logged : turn (logged s v) = turn s := by
  rw [logged]
  split <;> rfl

/-- An instruction that writes a timing-dependent result to a register of R87 completes as the log has it. -/
theorem completesLogged_of_issue (hvalid : Valid i s) (hexec : exec i s = issue i act s)
    (hact : act s (turn s) = .go (write6 (s.logResult (turn s) v).1 (turn s) lat r (s.logResult (turn s) v).2)) :
    CompletesLogged i s v (fun t w => to6 t lat r w) := by
  refine ⟨fun hlive => ?live, fun hreplay => ?replay⟩
  case live =>
    rw [logResult_of_live hlive, write6_eq_to6 turn_logged] at hact
    exact completes_of_issue_go hvalid hexec hact
  case replay =>
    rw [logResult_of_replay hreplay] at hact
    exact completes_of_issue_go hvalid hexec (hact.trans (congrArg Act.go (write6_eq_to6 rfl)))

/-! ## What each instruction does once its operands are checked -/

theorem completes_getsr (hvalid : Valid (.getsr st r n) s) (hfree : Free6 s r)
    (hreg : s.ctx.sreg (turn s) n.toNat = some v) (hallowed : sregAllowed (turn s) false n.toNat = true)
    (htimed : ¬(n = 0x06 ∨ n = 0x18)) : Completes (.getsr st r n) s (to6 s 2 r v) := by
  rw [← write6_eq_to6 (c := turn s) rfl]
  refine completes_of_issue_go hvalid exec_getsr ?_
  simp only [hreg, hallowed, capFault6_none hfree, if_neg htimed, Bool.not_true, Bool.false_eq_true, if_false]

theorem completesLogged_getsr (hvalid : Valid (.getsr st r n) s) (hfree : Free6 s r)
    (hreg : s.ctx.sreg (turn s) n.toNat = some v) (hallowed : sregAllowed (turn s) false n.toNat = true)
    (htimed : n = 0x06 ∨ n = 0x18) : CompletesLogged (.getsr st r n) s v (fun t w => to6 t 2 r w) := by
  refine completesLogged_of_issue hvalid exec_getsr ?_
  simp only [hreg, hallowed, capFault6_none hfree, if_pos htimed, Bool.not_true, Bool.false_eq_true, if_false]

theorem traps_getsr_unnamed (hvalid : Valid (.getsr st r n) s)
    (hunnamed : s.ctx.sreg (turn s) n.toNat = none ∨ sregAllowed (turn s) false n.toNat = false) :
    Traps (.getsr st r n) s 0x01 (n.setWidth 64) := by
  refine traps_of_issue_trap hvalid exec_getsr ?_
  rcases hunnamed with hnone | hforbidden
  · simp only [hnone]
  · cases s.ctx.sreg (turn s) n.toNat with
    | none => rfl
    | some v => simp only [hforbidden, Bool.not_false, if_true]

theorem setsr_unnamed_iff :
    ((s.ctx.sreg (turn s) n.toNat).isNone || !sregAllowed (turn s) true n.toNat) = true ↔
      s.ctx.sreg (turn s) n.toNat = none ∨ sregAllowed (turn s) true n.toNat = false := by
  rw [Bool.or_eq_true, Option.isNone_iff_eq_none, Bool.not_eq_true']

theorem traps_setsr_unnamed (hvalid : Valid (.setsr st r n) s)
    (hunnamed : s.ctx.sreg (turn s) n.toNat = none ∨ sregAllowed (turn s) true n.toNat = false) :
    Traps (.setsr st r n) s 0x01 (n.setWidth 64) :=
  traps_of_issue_trap hvalid exec_setsr (if_pos (setsr_unnamed_iff.2 hunnamed))

/-- The special register that a SETSR names is one that its cluster may write. -/
def Named (s : State) (n : BitVec 8) : Prop :=
  (s.ctx.sreg (turn s) n.toNat).isSome = true ∧ sregAllowed (turn s) true n.toNat = true

theorem not_unnamed (hnamed : Named s n) :
    ¬((s.ctx.sreg (turn s) n.toNat).isNone || !sregAllowed (turn s) true n.toNat) = true := by
  obtain ⟨hreg, hallowed⟩ := hnamed
  rw [setsr_unnamed_iff]
  rintro (hnone | hforbidden)
  · rw [hnone] at hreg
    exact nomatch hreg
  · exact ne_true_of_eq_false hforbidden hallowed

theorem traps_setsr_privileged (hvalid : Valid (.setsr st r n) s) (hnamed : Named s n) (hpriv : privileged n.toNat = true)
    (htask : s.ctx.sr.handler = false) : Traps (.setsr st r n) s 0x02 (n.setWidth 64) := by
  refine traps_of_issue_trap hvalid exec_setsr ?_
  simp only [if_neg (not_unnamed hnamed), hpriv, htask, Bool.not_false, Bool.and_self, if_true]

theorem not_privileged_write (hmode : privileged n.toNat = true → s.ctx.sr.handler = true) :
    (privileged n.toNat && !s.ctx.sr.handler) = false := by
  cases hpriv : privileged n.toNat with
  | false => rfl
  | true => rw [hmode hpriv]; rfl

theorem traps_setsr_value {code : Nat} (hvalid : Valid (.setsr st r n) s) (hfree : Free6 s r) (hnamed : Named s n)
    (hmode : privileged n.toNat = true → s.ctx.sr.handler = true)
    (hvalue : valueFault s n.toNat (rd6 s (turn s) r) = some code) : Traps (.setsr st r n) s code (rd6 s (turn s) r) := by
  refine traps_of_issue_trap hvalid exec_setsr ?_
  simp only [if_neg (not_unnamed hnamed), not_privileged_write hmode, capFault6_none hfree, hvalue, Bool.false_eq_true, if_false]

theorem completes_setsr (hvalid : Valid (.setsr st r n) s) (hfree : Free6 s r) (hnamed : Named s n)
    (hmode : privileged n.toNat = true → s.ctx.sr.handler = true)
    (hvalue : valueFault s n.toNat (rd6 s (turn s) r) = none) :
    Completes (.setsr st r n) s (s.writeAt 1 (.sreg (turn s) n (rd6 s (turn s) r))) := by
  refine completes_of_issue_go hvalid exec_setsr ?_
  simp only [if_neg (not_unnamed hnamed), not_privileged_write hmode, capFault6_none hfree, hvalue, Bool.false_eq_true, if_false]

theorem completes_chkerr (hvalid : Valid (.chkerr st r) s) (hfree : Free6 s r) :
    Completes (.chkerr st r) s ((to6 s 2 r (if cirTaken s then 0 else s.ctx.sr.cir)).writeAt 1 .cirClear) := by
  rw [← write6_eq_to6 (c := turn s) rfl]
  refine completes_of_issue_go hvalid exec_chkerr ?_
  simp only [capFault6_none hfree]

theorem completesLogged_bstat (hvalid : Valid (.bstat st b r) s) (hfree : Free6 s r) :
    CompletesLogged (.bstat st b r) s (BitVec.ofNat 64 (s.ctx.bobbin b.toNat).count) (fun t w => to6 t 1 r w) := by
  refine completesLogged_of_issue hvalid exec_bstat ?_
  simp only [capFault6_none hfree]

/-! ## The registers by number -/

theorem number_of_privileged : ∀ {n : BitVec 8}, 1 ≤ n.toNat → n.toNat ≤ 6 →
    n = 1 ∨ n = 2 ∨ n = 3 ∨ n = 4 ∨ n = 5 ∨ n = 6 := by decide

theorem named_of_privileged (h1 : 1 ≤ n.toNat) (h6 : n.toNat ≤ 6) : Named s n := by
  rcases number_of_privileged h1 h6 with rfl | rfl | rfl | rfl | rfl | rfl <;> exact ⟨rfl, rfl⟩

theorem sreg_bobbin (x : Ctx) (c : Cluster) (hk : k < 16) : x.sreg c (0x20 + k) = some (x.bobbin k).image := by
  interval_cases k <;> rfl

theorem setSreg_bobbin (x : Ctx) (c : Cluster) (v : W64) (hk : k < 16) :
    x.setSreg c (0x20 + k) v = { x with bob := vset x.bob k ((x.bobbin k).configure v) } := by
  interval_cases k <;> rfl

theorem sregAllowed_bobbin (c : Cluster) (hk : k < 16) : sregAllowed c true (0x20 + k) = true := by
  interval_cases k <;> rfl

theorem privileged_bobbin (hk : k < 16) : privileged (0x20 + k) = false := by
  interval_cases k <;> rfl

theorem valueFault_bobbin (hk : k < 16) : valueFault s (0x20 + k) v = if badBobbin s k v then some 0x01 else none := by
  rw [valueFault, if_neg (by omega), if_neg (by omega), if_pos (by omega), Nat.add_sub_cancel_left]

/-! ## Fields of a word -/

theorem setWidth_setWidth_eq_and_mask (v : W64) (n : Nat) :
    (v.setWidth n).setWidth 64 = v &&& BitVec.ofNat 64 (2 ^ n - 1) := by
  apply BitVec.eq_of_getLsbD_eq
  intro j hj
  rw [BitVec.getLsbD_setWidth, BitVec.getLsbD_setWidth, BitVec.getLsbD_and, getLsbD_ofNat_two_pow_sub_one n hj,
    decide_eq_true hj, Bool.true_and, Bool.and_comm]

theorem and_mask_eq_zero_iff (v : W64) : v &&& 0xFFFFFFFF = 0 ↔ v.setWidth 32 = 0 := by
  rw [← setWidth_setWidth_32_eq_and]
  constructor
  · intro h
    have hback := congrArg (BitVec.setWidth 32) h
    rw [BitVec.setWidth_setWidth_of_le _ (by decide), BitVec.setWidth_eq] at hback
    exact hback
  · intro h
    rw [h]
    rfl

/-- Table 4.3: STAT with another DBGT keeps its other bits. -/
theorem stat_bits : ∀ (handler dbgt cap d : Bool) (actives : Fin 16),
    (BitVec.ofNat 64 (handler.toNat + 2 * d.toNat + 4 * cap.toNat + 256 * actives.val) : W64) =
      (BitVec.ofNat 64 (handler.toNat + 2 * dbgt.toNat + 4 * cap.toNat + 256 * actives.val) &&& 0xFFFFFFFFFFFFFFFD) |||
        BitVec.ofNat 64 (2 * d.toNat) := by decide

theorem activeBits_lt (k : Clusters) : k.activeBits < 16 := by
  have ha := k.a.active.toNat_le
  have hv := k.v.active.toNat_le
  have hm := k.m.active.toNat_le
  have hs := k.s.active.toNat_le
  rw [Clusters.activeBits]
  omega

theorem and_two_eq (v : W64) : v &&& 2 = BitVec.ofNat 64 (2 * (v.getLsbD 1).toNat) := by
  apply BitVec.eq_of_getLsbD_eq
  intro j hj
  rw [BitVec.getLsbD_and, BitVec.getLsbD_ofNat, decide_eq_true hj, Bool.true_and]
  have htwo : (2 : W64).getLsbD j = decide (j = 1) := by
    rw [show (2 : W64) = BitVec.ofNat 64 (2 ^ 1) from rfl, BitVec.getLsbD_ofNat, Nat.testBit_two_pow, decide_eq_true hj,
      Bool.true_and]
    exact decide_eq_decide.2 eq_comm
  rw [htwo]
  by_cases h1 : j = 1
  · subst h1
    cases v.getLsbD 1 <;> rfl
  · cases v.getLsbD 1 with
    | false => simp [h1]
    | true =>
      have hbit : Nat.testBit (2 ^ 1) j = false := by rw [Nat.testBit_two_pow]; exact decide_eq_false (fun h => h1 h.symm)
      simpa [h1] using hbit.symm

theorem stat_of_dbgt (x : Ctx) (v : W64) (f : List Write) :
    ({ x with sr := { x.sr with dbgt := v.getLsbD 1 }, flight := f } : Ctx).stat =
      (x.stat &&& 0xFFFFFFFFFFFFFFFD) ||| (v &&& 2) := by
  rw [and_two_eq]
  exact stat_bits x.sr.handler x.sr.dbgt x.cap48 (v.getLsbD 1) ⟨x.cl.activeBits, activeBits_lt x.cl⟩

theorem cirMask_bits : ∀ j, j < 64 →
    (0xFFFF0001 : W64).getLsbD j = if j < 16 then decide (j = 0) else decide (j - 16 < 16) := by decide

/-- Table 4.7: CIR reads its flag and its count where they were written. -/
theorem cir_of_write (v : W64) :
    (BitVec.ofNat 64 ((v.getLsbD 0).toNat + (BitVec.ofNat 16 (bits64 v 16 16)).toNat * 2 ^ 16) : W64) = v &&& 0xFFFF0001 := by
  apply BitVec.eq_of_getLsbD_eq
  intro j hj
  have hflag : (v.getLsbD 0).toNat < 2 ^ 16 := (v.getLsbD 0).toNat_lt.trans (by decide)
  have hcount : (BitVec.ofNat 16 (bits64 v 16 16)).toNat = v.toNat / 2 ^ 16 % 2 ^ 16 := by
    rw [bits64, BitVec.toNat_ofNat, Nat.mod_mod]
  rw [BitVec.getLsbD_and, cirMask_bits j hj, BitVec.getLsbD_ofNat, decide_eq_true hj, Bool.true_and, hcount, Nat.add_comm,
    Nat.mul_comm, Nat.testBit_two_pow_mul_add _ hflag]
  split
  case isTrue hlow =>
    by_cases hzero : j = 0
    · subst hzero
      cases v.getLsbD 0 <;> rfl
    · rw [decide_eq_false hzero, Bool.and_false]
      exact Nat.testBit_lt_two_pow ((v.getLsbD 0).toNat_lt.trans_le (Nat.pow_le_pow_right two_pos (Nat.pos_of_ne_zero hzero)))
  case isFalse hhigh =>
    rw [Nat.testBit_mod_two_pow, Nat.testBit_div_two_pow, Nat.sub_add_cancel (Nat.not_lt.1 hhigh), Bool.and_comm]
    rfl

/-- An RM of 5 to 7 leaves that field of FCSR (Table 20.2). -/
theorem fcsr_of_reserved_rm (v : W64) (old : BitVec 10) :
    ((v.setWidth 10 &&& 0x3F8) ||| (old &&& 7) : BitVec 10).setWidth 64 = (v &&& 0x3F8) ||| (old.setWidth 64 &&& 7) := by
  rw [BitVec.setWidth_or, BitVec.setWidth_and, BitVec.setWidth_and, setWidth_setWidth_eq_and_mask]
  congr 1
  rw [BitVec.and_assoc]
  rfl

/-- R108: an LFSR written as 0 holds 1. -/
theorem lfsr_of_write (v : W64) :
    ((if v.setWidth 32 = (0 : W32) then 1 else v.setWidth 32 : W32)).setWidth 64 =
      if v &&& 0xFFFFFFFF = 0 then (1 : W64) else v &&& 0xFFFFFFFF := by
  rw [apply_ite (BitVec.setWidth 64), setWidth_setWidth_32_eq_and]
  simp only [← and_mask_eq_zero_iff]
  rfl

theorem bits64_low (v : W64) (n : Nat) : bits64 v 0 n = v.toNat % 2 ^ n := by rw [bits64, pow_zero, Nat.div_one]

theorem toNat_getLsbD (v : W64) (j : Nat) : (v.getLsbD j).toNat = v.toNat / 2 ^ j % 2 := by
  rw [BitVec.getLsbD, Nat.toNat_testBit]

/-- Table 3.2: a bobbin's register image after its configuration is the fields of the word. -/
theorem image_configure (b : Bobbin) (v : W64) : (b.configure v).image = v &&& 0x1FFFFFFF := by
  rw [show v &&& 0x1FFFFFFF = (v.setWidth 29).setWidth 64 from (setWidth_setWidth_eq_and_mask v 29).symm]
  apply BitVec.eq_of_toNat_eq
  simp only [Bobbin.image, Bobbin.configure, bits64, toNat_getLsbD, BitVec.toNat_ofNat, BitVec.toNat_setWidth]
  omega

/-! ## What a register reads as after a write -/

@[simp] theorem Clusters_get_set_same (k : Clusters) (c : Cluster) (y : ClusterState) : (k.set c y).get c = y := by
  cases c <;> rfl

theorem Clusters_get_set_of_ne (k : Clusters) {c d : Cluster} (y : ClusterState) (h : d ≠ c) : (k.set c y).get d = k.get d := by
  cases c <;> cases d <;> first | rfl | exact absurd rfl h

theorem vget_vset_same {α : Type} {n : Nat} (xs : Vector α n) {j : Nat} (y d : α) (hj : j < n) :
    vget (vset xs j y) j d = y := by
  simp [vget, vset, hj]

theorem vget_vset_of_ne {α : Type} {n : Nat} (xs : Vector α n) {j k : Nat} (y d : α) (h : k ≠ j) :
    vget (vset xs j y) k d = vget xs k d := by
  simp [vget, vset, h.symm]

theorem constant_numbers : ∀ {n : BitVec 8}, 0x10 ≤ n.toNat → n.toNat < 0x14 → n = 0x10 ∨ n = 0x11 ∨ n = 0x12 ∨ n = 0x13 := by
  decide

/-- R80: each of the four loop registers keeps the low 32 bits. -/
theorem sreg_n_of_write (x : Ctx) (c : Cluster) (v : W64) (hlow : 0x10 ≤ n.toNat) (hhigh : n.toNat < 0x14) :
    (x.land (.sreg c n v)).sreg c n.toNat = some (v &&& 0xFFFFFFFF) := by
  rw [← setWidth_setWidth_32_eq_and]
  rcases constant_numbers hlow hhigh with rfl | rfl | rfl | rfl <;>
    exact congrArg (fun w : W32 => some (w.setWidth 64)) (vget_vset_same _ _ _ (by decide))

theorem specialRegistersReadWhatWasWritten : SpecialRegistersReadWhatWasWritten := by
  intro x c v
  refine ⟨congrArg some (stat_of_dbgt x v _), rfl, ?epc, ?estat, fun d hd => ⟨?epcs, ?estats⟩, rfl, rfl, ?cir, ?lfsr,
    fun n => sreg_n_of_write x c v, ?vsp, ?vslim, ?vlen, fun hrm => ?fcsr, fun hrm => ?fcsrReserved⟩
  case epc => exact congrArg (some ·.epc) (Clusters_get_set_same _ _ _)
  case estat => exact congrArg (some ·.estat) (Clusters_get_set_same _ _ _)
  case epcs => exact congrArg (some ·.epc) (Clusters_get_set_of_ne _ _ hd)
  case estats => exact congrArg (some ·.estat) (Clusters_get_set_of_ne _ _ hd)
  case cir => exact congrArg some (cir_of_write v)
  case lfsr => exact congrArg some (lfsr_of_write v)
  case vsp => exact congrArg some (setWidth_setWidth_eq_and_mask v 20)
  case vslim => exact congrArg some (setWidth_setWidth_eq_and_mask v 20)
  case vlen => exact congrArg some (setWidth_setWidth_eq_and_mask v 7)
  case fcsr =>
    have hsmall : bits64 v 0 3 < 5 := (bits64_low v 3).trans_lt hrm
    refine (congrArg (fun f : BitVec 10 => some (f.setWidth 64)) (if_pos hsmall)).trans ?_
    exact congrArg some (setWidth_setWidth_eq_and_mask v 10)
  case fcsrReserved =>
    have hlarge : ¬ bits64 v 0 3 < 5 := Nat.not_lt.2 (hrm.trans_eq (bits64_low v 3).symm)
    refine (congrArg (fun f : BitVec 10 => some (f.setWidth 64)) (if_neg hlarge)).trans ?_
    exact congrArg some (fcsr_of_reserved_rm v x.sr.fcsr)

/-! ## Bobbins -/

theorem bobbinsReadAsConfigured : BobbinsReadAsConfigured := by
  intro x c v n k hk hn y
  have hy : y = { x with bob := vset x.bob k ((x.bobbin k).configure v) } := by
    rw [← setSreg_bobbin x c v hk, ← hn]
    rfl
  have hbobbin : y.bobbin k = (x.bobbin k).configure v := by
    rw [hy]
    exact vget_vset_same _ _ _ hk
  have hother : ∀ m, m ≠ k → y.bobbin m = x.bobbin m := fun m hm => by
    rw [hy]
    exact vget_vset_of_ne _ _ _ hm
  rw [hn, sreg_bobbin y c hk, hbobbin, image_configure]
  exact ⟨rfl, rfl, rfl, rfl, rfl, rfl, hy ▸ rfl, hother⟩

theorem configure_en (b : Bobbin) (v : W64) : (b.configure v).en = v.getLsbD 28 := rfl

theorem configure_base (b : Bobbin) (v : W64) : (b.configure v).base.toNat = bits64 v 0 13 :=
  (BitVec.toNat_ofNat _ _).trans (Nat.mod_mod _ _)

theorem configure_prod (b : Bobbin) (v : W64) : (b.configure v).prod.toNat = bits64 v 22 4 :=
  (BitVec.toNat_ofNat _ _).trans (Nat.mod_mod _ _)

theorem configure_depth (b : Bobbin) (v : W64) : (b.configure v).depth.toNat = bits64 v 13 8 :=
  (BitVec.toNat_ofNat _ _).trans (Nat.mod_mod _ _)

theorem configure_lo (b : Bobbin) (v : W64) : (b.configure v).lo = bits64 v 0 13 * 8 := by
  rw [Bobbin.lo, configure_base]

theorem configure_hi (b : Bobbin) (v : W64) :
    (b.configure v).hi = bits64 v 0 13 * 8 + (bits64 v 13 8 + 1) * (if v.getLsbD 21 then 256 else 8) := by
  rw [Bobbin.hi, configure_lo, Bobbin.slots, configure_depth]
  rfl

theorem configure_sz (b : Bobbin) (v : W64) : (b.configure v).sz = v.getLsbD 21 := rfl

/-- R67: the checks of a write of BCFGk with EN = 1. -/
theorem badBobbin_iff : badBobbin s k v = true ↔ v.getLsbD 28 = true ∧ bobbinRefused s k v := by
  simp only [badBobbin, bobbinRefused, rangesMeet, configure_en, configure_sz, configure_base, configure_prod, configure_lo,
    configure_hi, Bool.and_eq_true, Bool.or_eq_true, decide_eq_true_eq, bne_iff_ne, ne_eq, List.any_eq_true, List.mem_range,
    or_assoc, and_assoc]
  rw [and_congr_right_iff]
  intro _
  simp only [and_comm (a := (bobbinAfter s _).lo < _)]

theorem named_bobbin (hk : k < 16) (hn : n.toNat = 0x20 + k) : Named s n := by
  rw [Named, hn, sreg_bobbin _ _ hk, sregAllowed_bobbin _ hk]
  exact ⟨rfl, rfl⟩

theorem task_write_of_bobbin (hk : k < 16) (hn : n.toNat = 0x20 + k) :
    privileged n.toNat = true → s.ctx.sr.handler = true := by
  rw [hn, privileged_bobbin hk]
  exact nofun

theorem named_vector (hturn : turn s = .V) (hn : n = 0x14 ∨ n = 0x15 ∨ n = 0x16) : Named s n := by
  rcases hn with rfl | rfl | rfl <;> exact ⟨rfl, by rw [hturn]; rfl⟩

/-! ## O11 -/

theorem specialRegisterInstructions : SpecialRegisterInstructions := by
  intro s st r n b v hfree
  refine ⟨fun hvalid hreg hallowed => ⟨fun hcir hfqcnt => ?getsr, ?getsrTimed⟩, fun hvalid hreg hallowed hmode hvalue => ?setsr,
    fun hvalid htaken => ?chkerr, fun hvalid htaken => ?chkerrTaken, fun hvalid => completesLogged_bstat hvalid hfree⟩
  case getsr => exact completes_getsr hvalid hfree hreg hallowed (not_or.2 ⟨hcir, hfqcnt⟩)
  case getsrTimed => exact completesLogged_getsr hvalid hfree hreg hallowed
  case setsr => exact completes_setsr hvalid hfree ⟨hreg, hallowed⟩ hmode hvalue
  case chkerr =>
    have hcompletes := completes_chkerr hvalid hfree
    rwa [if_neg (ne_true_of_eq_false htaken)] at hcompletes
  case chkerrTaken =>
    have hcompletes := completes_chkerr hvalid hfree
    rwa [if_pos htaken] at hcompletes

theorem privileged_of_number {k : Nat} (h1 : 1 ≤ k) (h6 : k ≤ 6) : privileged k = true := by
  rw [privileged, decide_eq_true h1, decide_eq_true h6]
  rfl

theorem specialRegisterTraps : SpecialRegisterTraps :=
  fun _ _ _ _ => ⟨traps_getsr_unnamed, traps_setsr_unnamed, fun hvalid h1 h6 htask =>
    traps_setsr_privileged hvalid (named_of_privileged h1 h6) (privileged_of_number h1 h6) htask⟩

theorem specialRegisterValues : SpecialRegisterValues := by
  intro s st r n k v i hvalid hfree
  refine ⟨fun hn hturn hv => ?vlen, fun hn hturn hv => ?stack, fun hk hn hen hrefused => ?refused, fun hk hn hmade => ?made⟩
  case vlen =>
    refine traps_setsr_value hvalid hfree (named_vector hturn (.inr (.inr hn))) (by rw [hn]; exact nofun) ?_
    rw [hn]
    exact if_pos hv
  case stack =>
    have hlow : bits64 v 0 8 ≠ 0 := (bits64_low v 8).trans_ne hv
    refine traps_setsr_value hvalid hfree (named_vector hturn (hn.imp_right .inl)) ?_ ?_
    · rcases hn with rfl | rfl <;> exact nofun
    · rcases hn with rfl | rfl <;> exact if_pos hlow
  case refused =>
    refine traps_setsr_value hvalid hfree (named_bobbin hk hn) (task_write_of_bobbin hk hn) ?_
    rw [hn, valueFault_bobbin hk]
    exact if_pos (badBobbin_iff.2 ⟨hen, hrefused⟩)
  case made =>
    refine completes_setsr hvalid hfree (named_bobbin hk hn) (task_write_of_bobbin hk hn) ?_
    rw [hn, valueFault_bobbin hk]
    refine if_neg (fun hbad => ?_)
    obtain ⟨hen, hrefused⟩ := badBobbin_iff.1 hbad
    rcases hmade with hoff | hfine
    · exact ne_true_of_eq_false hoff hen
    · exact hfine hrefused

/-- Settles O11: what each instruction does once its register is named and its value taken, the traps before that in their order, and
the fields of each register after a write (`specialRegistersReadWhatWasWritten`, `image_configure`). -/
theorem specialRegistersAreReadAndWritten : Obligations.SpecialRegistersAreReadAndWritten :=
  ⟨specialRegisterInstructions, specialRegisterTraps, specialRegistersReadWhatWasWritten, specialRegisterValues,
    bobbinsReadAsConfigured⟩

end Sys2Proof.Proofs
end

section
/-! PROOFS. NOP, HALT and the branches (R60, R327 to R329, R345, R374), and O12. -/

namespace Sys2Proof.Proofs

open Sys2Proof.Machine Sys2Proof.Claims Sys2Proof.Laws

variable {i : Instr} {s u : State} {st : Bool} {act : State → Cluster → Act} {o25 : BitVec 25} {o21 : BitVec 21} {o17 : BitVec 17}
  {b : BitVec 4} {cond : BitVec 3} {reg : BitVec 5}

/-! ## The other ends of a turn -/

theorem jumps_of_issue_jump (hvalid : Valid i s) (hexec : exec i s = issue i act s) (hact : act s (turn s) = .jump u) :
    Jumps i s u :=
  hexec.trans (issue_jump hvalid hact)

theorem waits_of_issue_wait {k : WaitKind} (hvalid : Valid i s) (hexec : exec i s = issue i act s)
    (hact : act s (turn s) = .wait k) : Waits i s k :=
  hexec.trans (issue_wait hvalid hact)

/-! ## HALT -/

theorem haltAct_in_task_mode (h : s.ctx.sr.handler = false) (c : Cluster) :
    haltAct i s c = .go (s.writeAt 1 (.deactivate c)) :=
  if_neg (ne_true_of_eq_false h)

theorem haltAct_in_handler_mode (h : s.ctx.sr.handler = true) (c : Cluster) : haltAct i s c = .trap 0x01 (wordTval i) :=
  if_pos h

theorem nopAndHalt : NopAndHalt :=
  fun _ _ => ⟨fun hvalid => completes_of_issue_go hvalid exec_nop rfl, fun hvalid => completes_of_issue_go hvalid exec_nop16 rfl,
    fun hvalid h => completes_of_issue_go hvalid exec_halt (haltAct_in_task_mode h _),
    fun hvalid h => completes_of_issue_go hvalid exec_halt16 (haltAct_in_task_mode h _),
    fun hvalid h => traps_of_issue_trap hvalid exec_halt (haltAct_in_handler_mode h _),
    fun hvalid h => traps_of_issue_trap hvalid exec_halt16 (haltAct_in_handler_mode h _)⟩

/-! ## Targets -/

theorem halfwordTarget_eq_target {w : Nat} (s : State) (off : BitVec w) : halfwordTarget s off = target s (turn s) off := rfl

theorem takeBranch_of_header {va : W64} {pre : State → State} (h : targetFault s va = none) (c : Cluster) :
    takeBranch s c va pre = .jump ((pre s).branchTo c va) := by
  rw [takeBranch, h]

theorem takeBranch_of_fault {va tval : W64} {code : Nat} {pre : State → State} (h : targetFault s va = some (code, tval))
    (c : Cluster) : takeBranch s c va pre = .trap code tval := by
  rw [takeBranch, h]

/-! ## The condition of BRC -/

theorem brc_condition_of_valid (hvalid : Valid (.brc st cond reg o17) s) :
    if turn s = .V then cond.toNat < 4 else cond.toNat < 6 := by
  have h := valid_iff.1 hvalid
  simp only [limits, List.forall_mem_cons] at h
  obtain ⟨hcond, -⟩ := h
  split
  case isTrue hturn => simpa [hturn] using hcond
  case isFalse hturn => simpa [hturn] using hcond

theorem predicate_condition_cases : ∀ {c : BitVec 3}, c.toNat < 4 → c = 0 ∨ c = 1 ∨ c = 2 ∨ c = 3 := by decide

/-- R329 in V: the four conditions of a predicate's active lanes. -/
theorem branchCond_V_iff (hcond : cond.toNat < 4) :
    branchCond s .V cond reg = true ↔
      (cond = 0 ∧ onesBelow (vget s.ctx.regs.p reg.toNat 0) s.ctx.sr.vlen.toNat ≠ 0) ∨
      (cond = 1 ∧ onesBelow (vget s.ctx.regs.p reg.toNat 0) s.ctx.sr.vlen.toNat = 0) ∨
      (cond = 2 ∧ onesBelow (vget s.ctx.regs.p reg.toNat 0) s.ctx.sr.vlen.toNat = s.ctx.sr.vlen.toNat) ∨
      (cond = 3 ∧ onesBelow (vget s.ctx.regs.p reg.toNat 0) s.ctx.sr.vlen.toNat ≠ s.ctx.sr.vlen.toNat) := by
  rw [← countOnes_eq_onesBelow]
  rcases predicate_condition_cases hcond with rfl | rfl | rfl | rfl <;> simp [branchCond]

theorem getLsbD_sign_iff (v : W64) : v.getLsbD 63 = true ↔ v.toInt < 0 := by
  rw [← BitVec.msb_eq_getLsbD_last v, BitVec.msb_eq_toInt, decide_eq_true_eq]

theorem eq_zero_iff_toInt (v : W64) : v = 0 ↔ v.toInt = 0 := by
  rw [← BitVec.toInt_inj]
  rfl

/-- R329 in the scalar clusters: the six conditions of a register against zero. -/
theorem branchCond_scalar_iff {c : Cluster} (hc : c ≠ .V) (hcond : cond.toNat < 6) :
    branchCond s c cond reg = true ↔
      (cond = 0 ∧ (rd s c reg).toInt ≠ 0) ∨ (cond = 1 ∧ (rd s c reg).toInt = 0) ∨ (cond = 2 ∧ (rd s c reg).toInt < 0) ∨
      (cond = 3 ∧ 0 ≤ (rd s c reg).toInt) ∨ (cond = 4 ∧ 0 < (rd s c reg).toInt) ∨ (cond = 5 ∧ (rd s c reg).toInt ≤ 0) := by
  have hscalar : branchCond s c cond reg =
      match cond.toNat with
      | 0 => rd s c reg != 0
      | 1 => rd s c reg == 0
      | 2 => (rd s c reg).getLsbD 63
      | 3 => !(rd s c reg).getLsbD 63
      | 4 => decide (0 < (rd s c reg).toInt)
      | _ => decide ((rd s c reg).toInt ≤ 0) := by
    cases c with
    | V => exact absurd rfl hc
    | A => rfl
    | M => rfl
    | S => rfl
  have hsign := getLsbD_sign_iff (rd s c reg)
  have hzero := eq_zero_iff_toInt (rd s c reg)
  rw [hscalar]
  rcases condition_cases hcond with rfl | rfl | rfl | rfl | rfl | rfl
  · simpa using not_congr hzero
  · simpa using hzero
  · simpa using hsign
  · simpa using not_congr hsign
  · simp
  · simp

theorem branchCond_iff_brcHolds (hvalid : Valid (.brc st cond reg o17) s) :
    branchCond s (turn s) cond reg = true ↔ brcHolds s cond reg := by
  have hcond := brc_condition_of_valid hvalid
  rw [brcHolds]
  split
  case isTrue hturn =>
    rw [if_pos hturn] at hcond
    rw [hturn]
    exact branchCond_V_iff hcond
  case isFalse hturn =>
    rw [if_neg hturn] at hcond
    exact branchCond_scalar_iff hturn hcond

theorem brc_act_of_holds (hvalid : Valid (.brc st cond reg o17) s) (hholds : brcHolds s cond reg) {a b : Act} :
    (if branchCond s (turn s) cond reg then a else b) = a :=
  if_pos ((branchCond_iff_brcHolds hvalid).2 hholds)

theorem brc_act_of_not_holds (hvalid : Valid (.brc st cond reg o17) s) (hholds : ¬brcHolds s cond reg) {a b : Act} :
    (if branchCond s (turn s) cond reg then a else b) = b :=
  if_neg (mt (branchCond_iff_brcHolds hvalid).1 hholds)

/-! ## BRB -/

/-- R72: the checks of a narrow slot that a cluster consumes pass. -/
theorem consumer_checks {bb : Bobbin} {c : Cluster} (h : slotReadable bb c 0 false = true) :
    (!bb.en || bb.cons.toNat != cnum c || bb.sz) = false := by
  simp only [slotReadable, Bool.and_eq_true, beq_iff_eq] at h
  obtain ⟨⟨⟨hen, hcons⟩, -⟩, hsz⟩ := h
  simp [hen, hcons, hsz]

/-! ## O12 -/

theorem branchesGoToHeaders : BranchesGoToHeaders := by
  intro s st o25 o21 o17 b cond reg
  refine ⟨fun hvalid htarget => ?br, fun hvalid hholds htarget => ?brc, fun hvalid hholds => ?brcNot,
    fun hvalid hslot hfilled => ⟨fun hvalue htarget => ?brb, fun hvalue => ?brbNot⟩, fun hvalid code tval htarget => ?brFault,
    fun hvalid hholds code tval htarget => ?brcFault, fun hvalid hslot hfilled hvalue code tval htarget => ?brbFault⟩
  case br => exact jumps_of_issue_jump hvalid exec_br (takeBranch_of_header htarget _)
  case brc =>
    exact jumps_of_issue_jump hvalid exec_brc ((brc_act_of_holds hvalid hholds).trans (takeBranch_of_header htarget _))
  case brcNot => exact completes_of_issue_go hvalid exec_brc (brc_act_of_not_holds hvalid hholds)
  case brb =>
    refine jumps_of_issue_jump hvalid exec_brb ?_
    simp only [consumer_checks hslot, hfilled.ne', hvalue, Bool.false_eq_true, if_false]
    exact takeBranch_of_header htarget _
  case brbNot =>
    refine completes_of_issue_go hvalid exec_brb ?_
    simp only [consumer_checks hslot, hfilled.ne', hvalue, Bool.false_eq_true, if_false, if_true]
  case brFault => exact traps_of_issue_trap hvalid exec_br (takeBranch_of_fault htarget _)
  case brcFault =>
    exact traps_of_issue_trap hvalid exec_brc ((brc_act_of_holds hvalid hholds).trans (takeBranch_of_fault htarget _))
  case brbFault =>
    refine traps_of_issue_trap hvalid exec_brb ?_
    simp only [consumer_checks hslot, hfilled.ne', hvalue, Bool.false_eq_true, if_false]
    exact takeBranch_of_fault htarget _

/-- Settles O12: each branch by its condition (`branchCond_iff_brcHolds`) and by what stands at its target. -/
theorem sequentialFlowBranchesAndHalt : Obligations.SequentialFlowBranchesAndHalt := ⟨nopAndHalt, branchesGoToHeaders⟩

end Sys2Proof.Proofs
end

section
/-! PROOFS. Block headers and the ends of passes (R57 to R65, R326): what a header comes to by the checks in their order, what an
entry is at the end of a pass, and O13. -/

namespace Sys2Proof.Proofs

set_option Elab.async false

open Sys2Proof.Machine Sys2Proof.Claims Sys2Proof.Laws

variable {s : State} {st : Bool} {len : BitVec 11} {rep : BitVec 8} {rsrc : Bool} {stg : BitVec 3} {pre : Bool} {c : Cluster}

/-! ## What a header says -/

/-- R61: a header of a data block. -/
def dataHeader (rep : BitVec 8) (rsrc : Bool) : Bool := rep == 0 && !rsrc

/-- R63: how many stage-map words follow a header. -/
def mapCount (len : BitVec 11) (stg : BitVec 3) : Nat := if stg = 0 then 0 else (len.toNat + 9) / 10

/-- Where the body of a header at `pc` starts. -/
def bodyStart (pc : W64) (len : BitVec 11) (stg : BitVec 3) : W64 := pc + BitVec.ofNat 64 (4 + 4 * mapCount len stg)

/-- The words of a body and the address after it (R57, R61). -/
def headerBody (s : State) (pc : W64) (len : BitVec 11) (rep : BitVec 8) (rsrc : Bool) (stg : BitVec 3) : List W64 × W64 :=
  if dataHeader rep rsrc then ([], bodyStart pc len stg + BitVec.ofNat 64 (4 * len.toNat))
  else bodyWords s len.toNat 0 (bodyStart pc len stg)

/-- The entry of a block (R58, R63). -/
def headerEntry (s : State) (pc : W64) (len : BitVec 11) (rep : BitVec 8) (rsrc : Bool) (stg : BitVec 3) (pre : Bool)
    (maps : List Nat) : BlockEntry :=
  { header := pc, start := bodyStart pc len stg, stop := (headerBody s pc len rep rsrc stg).2,
    left := if stg = 0 then repeatCount s rep rsrc else repeatCount s rep rsrc - 1, staged := stg != 0,
    nstages := stg.toNat + 1, mask := 1,
    stages := if stg = 0 then [] else stageList maps 0 (headerBody s pc len rep rsrc stg).1, pre := pre }

/-- What a header comes to once its fields, the depth and its place are in order: the maps are read, and the block is entered or passed
over. -/
def mappedAct (s : State) (c : Cluster) (len : BitVec 11) (rep : BitVec 8) (rsrc : Bool) (stg : BitVec 3) (pre : Bool) : Act :=
  match readMaps s ((s.ctx.cl.get c).pc + 4) (mapCount len stg) with
  | .error (code, va) => .trap code va
  | .ok maps =>
    if stg ≠ 0 ∧ !mapsOk maps len.toNat (stg.toNat + 1) then .trap 0x01 (s.ctx.cl.get c).pc
    else
      enterBlock s c (dataHeader rep rsrc || repeatCount s rep rsrc == 0)
        (headerBody s (s.ctx.cl.get c).pc len rep rsrc stg).2
        (headerEntry s (s.ctx.cl.get c).pc len rep rsrc stg pre maps)

/-- What a header comes to, by the checks in their order (log 35). -/
def headerAct (s : State) (c : Cluster) (len : BitVec 11) (rep : BitVec 8) (rsrc : Bool) (stg : BitVec 3) (pre : Bool) : Act :=
  if badHeader len rep rsrc stg pre then .trap 0x01 (s.ctx.cl.get c).pc
  else if !dataHeader rep rsrc && repeatCount s rep rsrc != 0 && (s.ctx.cl.get c).blocks.length == 4 then
    .trap 0x04 (s.ctx.cl.get c).pc
  else if badNesting (s.ctx.cl.get c) (headerBody s (s.ctx.cl.get c).pc len rep rsrc stg).2 then .trap 0x01 (s.ctx.cl.get c).pc
  else mappedAct s c len rep rsrc stg pre

theorem exec_blk_headerAct :
    exec (.blk st len rep rsrc stg pre) s =
      issue (.blk st len rep rsrc stg pre) (fun s c => headerAct s c len rep rsrc stg pre) s := by
  rw [exec_blk]
  rfl

/-! ## The checks of a header as conditions -/

theorem dataHeader_iff : dataHeader rep rsrc = true ↔ rep = 0 ∧ rsrc = false := by
  rw [dataHeader, Bool.and_eq_true, beq_iff_eq, Bool.not_eq_true']

theorem dataHeader_eq_false (h : ¬(rep = 0 ∧ rsrc = false)) : dataHeader rep rsrc = false :=
  Bool.eq_false_of_not_eq_true (mt dataHeader_iff.1 h)

/-- R62: the fields of which Table 3.1 says ILLEGAL. -/
theorem badHeader_iff :
    badHeader len rep rsrc stg pre = true ↔
      len = 0 ∨ (rsrc = true ∧ 4 ≤ rep.toNat) ∨ ((rep = 0 ∧ rsrc = false) ∧ (stg ≠ 0 ∨ pre = true)) := by
  have hfield : rep.toNat / 4 ≠ 0 ↔ 4 ≤ rep.toNat := by omega
  simp only [badHeader, Bool.or_eq_true, Bool.and_eq_true, beq_iff_eq, bne_iff_ne, Bool.not_eq_true', hfield, or_assoc]

theorem tooDeep_iff (k : ClusterState) :
    (!dataHeader rep rsrc && repeatCount s rep rsrc != 0 && k.blocks.length == 4) = true ↔
      ¬(rep = 0 ∧ rsrc = false) ∧ repeatCount s rep rsrc ≠ 0 ∧ k.blocks.length = 4 := by
  rw [Bool.and_eq_true, Bool.and_eq_true, Bool.not_eq_true', ← Bool.not_eq_true, dataHeader_iff, bne_iff_ne, beq_iff_eq, and_assoc]

theorem badNesting_iff (k : ClusterState) (stop : W64) :
    badNesting k stop = true ↔ ∃ b, k.enclosing = some b ∧ (b.staged = true ∨ b.stop.toNat < stop.toNat) := by
  rw [badNesting]
  cases k.enclosing with
  | none => simp
  | some b => simp

theorem headerBody_stop (pc : W64) :
    (headerBody s pc len rep rsrc stg).2 =
      if rep = 0 ∧ rsrc = false then bodyStart pc len stg + BitVec.ofNat 64 (4 * len.toNat)
      else (bodyWords s len.toNat 0 (bodyStart pc len stg)).2 := by
  rw [headerBody, apply_ite Prod.snd]
  simp only [dataHeader_iff]

theorem headerBody_of_instructions (h : ¬(rep = 0 ∧ rsrc = false)) (pc : W64) :
    headerBody s pc len rep rsrc stg = bodyWords s len.toNat 0 (bodyStart pc len stg) :=
  if_neg (ne_true_of_eq_false (dataHeader_eq_false h))

theorem mapCount_of_unstaged : mapCount len 0 = 0 := rfl

theorem mapCount_of_staged (h : stg ≠ 0) : mapCount len stg = (len.toNat + 9) / 10 := if_neg h

theorem bodyStart_of_unstaged (pc : W64) : bodyStart pc len 0 = pc + 4 := rfl

theorem stg_of_data (h : badHeader len 0 false stg pre = false) : stg = 0 := by
  by_contra hstg
  exact ne_true_of_eq_false h (badHeader_iff.2 (.inr (.inr ⟨⟨rfl, rfl⟩, .inl hstg⟩)))

/-! ## What a header comes to -/

theorem headerAct_of_bad (h : badHeader len rep rsrc stg pre = true) :
    headerAct s c len rep rsrc stg pre = .trap 0x01 (s.ctx.cl.get c).pc :=
  if_pos h

theorem headerAct_of_deep (hgood : badHeader len rep rsrc stg pre = false)
    (hdeep : ¬(rep = 0 ∧ rsrc = false) ∧ repeatCount s rep rsrc ≠ 0 ∧ (s.ctx.cl.get c).blocks.length = 4) :
    headerAct s c len rep rsrc stg pre = .trap 0x04 (s.ctx.cl.get c).pc := by
  rw [headerAct, if_neg (ne_true_of_eq_false hgood), if_pos ((tooDeep_iff _).2 hdeep)]

section

variable (hgood : badHeader len rep rsrc stg pre = false)
  (hdepth : ¬(¬(rep = 0 ∧ rsrc = false) ∧ repeatCount s rep rsrc ≠ 0 ∧ (s.ctx.cl.get c).blocks.length = 4))
include hgood hdepth

theorem headerAct_of_nested
    (hnested : badNesting (s.ctx.cl.get c) (headerBody s (s.ctx.cl.get c).pc len rep rsrc stg).2 = true) :
    headerAct s c len rep rsrc stg pre = .trap 0x01 (s.ctx.cl.get c).pc := by
  rw [headerAct, if_neg (ne_true_of_eq_false hgood), if_neg (mt (tooDeep_iff _).1 hdepth), if_pos hnested]

theorem headerAct_of_placed
    (hnested : badNesting (s.ctx.cl.get c) (headerBody s (s.ctx.cl.get c).pc len rep rsrc stg).2 = false) :
    headerAct s c len rep rsrc stg pre = mappedAct s c len rep rsrc stg pre := by
  rw [headerAct, if_neg (ne_true_of_eq_false hgood), if_neg (mt (tooDeep_iff _).1 hdepth), if_neg (ne_true_of_eq_false hnested)]

end

theorem mappedAct_of_unread_map {code : Nat} {va : W64}
    (h : readMaps s ((s.ctx.cl.get c).pc + 4) (mapCount len stg) = .error (code, va)) :
    mappedAct s c len rep rsrc stg pre = .trap code va := by
  rw [mappedAct, h]

theorem mappedAct_of_bad_map {maps : List Nat} (hstg : stg ≠ 0)
    (h : readMaps s ((s.ctx.cl.get c).pc + 4) (mapCount len stg) = .ok maps)
    (hmaps : mapsOk maps len.toNat (stg.toNat + 1) = false) :
    mappedAct s c len rep rsrc stg pre = .trap 0x01 (s.ctx.cl.get c).pc := by
  rw [mappedAct, h]
  exact if_pos ⟨hstg, by rw [hmaps]; rfl⟩

theorem mappedAct_of_maps {maps : List Nat} (h : readMaps s ((s.ctx.cl.get c).pc + 4) (mapCount len stg) = .ok maps)
    (hmaps : stg ≠ 0 → mapsOk maps len.toNat (stg.toNat + 1) = true) :
    mappedAct s c len rep rsrc stg pre =
      enterBlock s c (dataHeader rep rsrc || repeatCount s rep rsrc == 0)
        (headerBody s (s.ctx.cl.get c).pc len rep rsrc stg).2
        (headerEntry s (s.ctx.cl.get c).pc len rep rsrc stg pre maps) := by
  rw [mappedAct, h]
  refine if_neg (fun ⟨hstg, hbad⟩ => ?_)
  rw [hmaps hstg] at hbad
  exact nomatch hbad

/-! ## A header that is in order -/

section

variable {maps : List Nat} (hgood : badHeader len rep rsrc stg pre = false)
  (hplaced : badNesting (s.ctx.cl.get c) (headerBody s (s.ctx.cl.get c).pc len rep rsrc stg).2 = false)
  (hread : readMaps s ((s.ctx.cl.get c).pc + 4) (mapCount len stg) = .ok maps)
  (hmaps : stg ≠ 0 → mapsOk maps len.toNat (stg.toNat + 1) = true)
include hgood hplaced hread hmaps

/-- R58, R61: a header of a data block or of no passes passes over its body, at any depth. -/
theorem headerAct_passes (hskip : (rep = 0 ∧ rsrc = false) ∨ repeatCount s rep rsrc = 0) :
    headerAct s c len rep rsrc stg pre = .jump (s.flowTo c (headerBody s (s.ctx.cl.get c).pc len rep rsrc stg).2) := by
  rw [headerAct_of_placed hgood (fun ⟨hdata, hn, _⟩ => hskip.elim hdata hn) hplaced, mappedAct_of_maps hread hmaps]
  refine if_pos ?_
  rw [Bool.or_eq_true, dataHeader_iff, beq_iff_eq]
  exact hskip

/-- R58: any other header enters its body. -/
theorem headerAct_enters (hdata : ¬(rep = 0 ∧ rsrc = false)) (hcount : repeatCount s rep rsrc ≠ 0)
    (hdepth : (s.ctx.cl.get c).blocks.length ≠ 4) :
    headerAct s c len rep rsrc stg pre =
      .jump (s.modCtx (fun x => x.modCl c (fun k =>
        { k with blocks := headerEntry s (s.ctx.cl.get c).pc len rep rsrc stg pre maps :: k.blocks,
                 pc := (headerEntry s (s.ctx.cl.get c).pc len rep rsrc stg pre maps).start }))) := by
  rw [headerAct_of_placed hgood (fun ⟨_, _, hfour⟩ => hdepth hfour) hplaced, mappedAct_of_maps hread hmaps]
  refine if_neg ?_
  rw [Bool.or_eq_true, dataHeader_iff, beq_iff_eq]
  exact not_or.2 ⟨hdata, hcount⟩

end

theorem headerEntry_of_unstaged (hdata : ¬(rep = 0 ∧ rsrc = false)) (pc : W64) :
    headerEntry s pc len rep rsrc 0 pre [] =
      { header := pc, start := pc + 4, stop := (bodyWords s len.toNat 0 (pc + 4)).2, left := repeatCount s rep rsrc, staged := false,
        nstages := 1, mask := 1, stages := [], pre := pre } := by
  rw [headerEntry, headerBody_of_instructions hdata]
  rfl

theorem headerEntry_of_staged (hdata : ¬(rep = 0 ∧ rsrc = false)) (hstg : stg ≠ 0) (pc : W64) (maps : List Nat) :
    headerEntry s pc len rep rsrc stg pre maps =
      { header := pc, start := bodyStart pc len stg, stop := (bodyWords s len.toNat 0 (bodyStart pc len stg)).2,
        left := repeatCount s rep rsrc - 1, staged := true, nstages := stg.toNat + 1, mask := 1,
        stages := stageList maps 0 (bodyWords s len.toNat 0 (bodyStart pc len stg)).1, pre := pre } := by
  rw [headerEntry, headerBody_of_instructions hdata, if_neg hstg, if_neg hstg, bne_iff_ne.2 hstg]

theorem bodyStart_of_staged (hstg : stg ≠ 0) (pc : W64) :
    bodyStart pc len stg = pc + BitVec.ofNat 64 (4 + 4 * ((len.toNat + 9) / 10)) := by
  rw [bodyStart, mapCount_of_staged hstg]

/-! ## O13 -/

theorem headersEnterTheirBlocks : HeadersEnterTheirBlocks := by
  intro s st len rep rsrc stg pre k i n hvalid hgood
  refine ⟨?data, ?unstaged, ?staged⟩
  case data =>
    rintro rfl rfl hplaced
    obtain rfl := stg_of_data hgood
    exact jumps_of_issue_jump hvalid exec_blk_headerAct
      (headerAct_passes (maps := []) hgood hplaced rfl (fun h => absurd rfl h) (.inl ⟨rfl, rfl⟩))
  case unstaged =>
    rintro hdata rfl body hplaced
    have hbody : headerBody s k.pc len rep rsrc 0 = body := headerBody_of_instructions hdata k.pc
    rw [← hbody] at hplaced ⊢
    refine ⟨fun hn => ?_, fun hn hdepth => ?_⟩
    · exact jumps_of_issue_jump hvalid exec_blk_headerAct
        (headerAct_passes (maps := []) hgood hplaced rfl (fun h => absurd rfl h) (.inr hn))
    · have hact := headerAct_enters (maps := []) hgood hplaced rfl (fun h => absurd rfl h) hdata hn hdepth
      rw [headerEntry_of_unstaged hdata] at hact
      rw [hbody]
      exact jumps_of_issue_jump hvalid exec_blk_headerAct hact
  case staged =>
    intro hdata hstg nmaps start body maps hread hmaps hplaced
    have hstart : bodyStart k.pc len stg = start := bodyStart_of_staged hstg k.pc
    have hbody : headerBody s k.pc len rep rsrc stg = body := by
      rw [headerBody_of_instructions hdata, hstart]
    have hread' : readMaps s (k.pc + 4) (mapCount len stg) = .ok maps := by
      rw [mapCount_of_staged hstg]
      exact hread
    rw [← hbody] at hplaced
    refine ⟨fun hn => ?_, fun hn hdepth => ?_⟩
    · rw [← hbody]
      exact jumps_of_issue_jump hvalid exec_blk_headerAct (headerAct_passes hgood hplaced hread' (fun _ => hmaps) (.inr hn))
    · have hact := headerAct_enters hgood hplaced hread' (fun _ => hmaps) hdata hn hdepth
      rw [headerEntry_of_staged hdata hstg, hstart] at hact
      exact jumps_of_issue_jump hvalid exec_blk_headerAct hact

theorem headersThatTrap : HeadersThatTrap := by
  intro s st len rep rsrc stg pre k i data n nmaps start stop bad deep nested hvalid
  have hstop : (headerBody s k.pc len rep rsrc stg).2 = stop := headerBody_stop k.pc
  have hnested : badNesting k (headerBody s k.pc len rep rsrc stg).2 = true ↔ nested := by
    rw [hstop]
    exact badNesting_iff k stop
  refine ⟨fun hbad => ?bad, fun hgood hdeep => ?deep, fun hgood hdepth hnest => ?nested, fun hgood hdepth hplaced hstg => ?maps⟩
  case bad => exact traps_of_issue_trap hvalid exec_blk_headerAct (headerAct_of_bad (badHeader_iff.2 hbad))
  case deep =>
    have hfields := Bool.eq_false_of_not_eq_true (mt badHeader_iff.1 hgood)
    exact traps_of_issue_trap hvalid exec_blk_headerAct (headerAct_of_deep hfields hdeep)
  case nested =>
    have hfields := Bool.eq_false_of_not_eq_true (mt badHeader_iff.1 hgood)
    exact traps_of_issue_trap hvalid exec_blk_headerAct (headerAct_of_nested hfields hdepth (hnested.2 hnest))
  case maps =>
    have hfields := Bool.eq_false_of_not_eq_true (mt badHeader_iff.1 hgood)
    have hact := headerAct_of_placed hfields hdepth (Bool.eq_false_of_not_eq_true (mt hnested.1 hplaced))
    exact ⟨fun code va hread => traps_of_issue_trap hvalid exec_blk_headerAct (hact.trans (mappedAct_of_unread_map hread)),
      fun maps hread hmaps => traps_of_issue_trap hvalid exec_blk_headerAct (hact.trans (mappedAct_of_bad_map hstg hread hmaps))⟩

/-! ## The end of a pass -/

/-- At the end of the innermost block above the call floor the entry repeats, or it leaves and the blocks around it reach theirs. -/
theorem blockEnds_of_repeat {b b' : BlockEntry} {t : List BlockEntry} {floor : Nat} (hfloor : floor ≤ t.length)
    (hpass : endPass false b = (some b', false)) : blockEnds false floor b.stop (b :: t) = (b' :: t, b'.start, false) := by
  rw [blockEnds, if_neg (fun h => h.elim (Nat.not_lt.2 hfloor) (absurd rfl)), hpass]

theorem blockEnds_of_leave {b : BlockEntry} {t : List BlockEntry} {floor : Nat} (hfloor : floor ≤ t.length)
    (hpass : endPass false b = (none, false)) :
    blockEnds false floor b.stop (b :: t) = blockEnds false floor b.stop t := by
  rw [blockEnds, if_neg (fun h => h.elim (Nat.not_lt.2 hfloor) (absurd rfl)), hpass]
  rfl

theorem endPass_unstaged_repeats {b : BlockEntry} (hstaged : b.staged = false) (hleft : 1 < b.left.toNat) :
    endPass false b = (some { b with left := b.left - 1 }, false) := by
  rw [endPass, if_neg (ne_true_of_eq_false hstaged), if_pos hleft, Bool.and_false]

theorem endPass_unstaged_leaves {b : BlockEntry} (hstaged : b.staged = false) (hleft : b.left.toNat ≤ 1) :
    endPass false b = (none, false) := by
  rw [endPass, if_neg (ne_true_of_eq_false hstaged), if_neg (Nat.not_lt.2 hleft), Bool.and_false]

/-- R64: the stages move on by one, and the first is empty. -/
def shiftedMask (b : BlockEntry) : BitVec 8 := (b.mask <<< 1) &&& BitVec.ofNat 8 (2 ^ b.nstages - 1)

theorem getLsbD_shiftedMask (b : BlockEntry) {j : Nat} (hj : j < 8) :
    (shiftedMask b).getLsbD j = (decide (0 < j) && b.mask.getLsbD (j - 1) && decide (j < b.nstages)) := by
  rw [shiftedMask, BitVec.getLsbD_and, BitVec.getLsbD_shiftLeft, BitVec.getLsbD_ofNat, Nat.testBit_two_pow_sub_one, decide_eq_true hj,
    Bool.true_and, Bool.true_and]
  congr 2
  rw [← decide_not]
  exact decide_eq_decide.2 (by omega)

theorem started_mask_ne_zero (m : BitVec 8) : m ||| 1 ≠ 0 := by
  intro h
  have hbit := congrArg (BitVec.getLsbD · 0) h
  simp at hbit

theorem endPass_staged_starts {b : BlockEntry} (hstaged : b.staged = true) (hleft : b.left ≠ 0) :
    endPass false b = (some { b with mask := shiftedMask b ||| 1, left := b.left - 1 }, false) := by
  have hpos : 0 < b.left.toNat := Nat.pos_of_ne_zero (fun h => hleft (BitVec.eq_of_toNat_eq h))
  rw [endPass, if_pos hstaged]
  simp only [nextPass, Bool.and_false, Bool.not_false, Bool.and_true, decide_eq_true hpos, if_true]
  exact if_neg (started_mask_ne_zero _)

theorem endPass_staged_drains {b : BlockEntry} (hstaged : b.staged = true) (hleft : b.left = 0) (hmask : shiftedMask b ≠ 0) :
    endPass false b = (some { b with mask := shiftedMask b }, false) := by
  rw [endPass, if_pos hstaged]
  simp only [nextPass, hleft, BitVec.ofNat_eq_ofNat, BitVec.toNat_ofNat, Nat.zero_mod, lt_irrefl, decide_false, Bool.false_and,
    Bool.false_eq_true, if_false]
  refine (if_neg hmask).trans ?_
  rw [← BitVec.ofNat_eq_ofNat, ← hleft]
  rfl

theorem endPass_staged_leaves {b : BlockEntry} (hstaged : b.staged = true) (hleft : b.left = 0) (hmask : shiftedMask b = 0) :
    endPass false b = (none, false) := by
  rw [endPass, if_pos hstaged]
  simp only [nextPass, hleft, BitVec.ofNat_eq_ofNat, BitVec.toNat_ofNat, Nat.zero_mod, lt_irrefl, decide_false, Bool.false_and,
    Bool.false_eq_true, if_false, if_true, Bool.and_false]
  exact if_pos hmask

/-- R64: the stages have drained when none but the last was valid. -/
theorem shiftedMask_eq_zero_iff {b : BlockEntry} (hstages : b.nstages ≤ 8) :
    shiftedMask b = 0 ↔ ∀ j, j + 1 < b.nstages → b.mask.getLsbD j = false := by
  constructor
  · intro h j hj
    have hbit := getLsbD_shiftedMask b (j := j + 1) (by omega)
    rw [h, Nat.add_sub_cancel, decide_eq_true (Nat.succ_pos j), decide_eq_true hj, Bool.true_and, Bool.and_true] at hbit
    rw [← hbit]
    exact BitVec.getLsbD_zero
  · intro h
    apply BitVec.eq_of_getLsbD_eq
    intro j hj
    rw [getLsbD_shiftedMask b hj, BitVec.ofNat_eq_ofNat, BitVec.getLsbD_zero]
    by_cases hstage : 0 < j ∧ j < b.nstages
    · rw [h (j - 1) (by omega), Bool.and_false, Bool.false_and]
    · rcases not_and_or.1 hstage with hzero | hbeyond
      · rw [decide_eq_false hzero, Bool.false_and, Bool.false_and]
      · rw [decide_eq_false hbeyond, Bool.and_false]

theorem getLsbD_one_byte {j : Nat} (hj : j < 8) : (1 : BitVec 8).getLsbD j = (j == 0) := by
  rw [show (1 : BitVec 8) = BitVec.ofNat 8 (2 ^ 0) from rfl, BitVec.getLsbD_ofNat, decide_eq_true hj, Bool.true_and,
    Nat.testBit_two_pow, beq_eq_decide]
  exact decide_eq_decide.2 eq_comm

theorem getLsbD_started_mask (b : BlockEntry) {j : Nat} (hj : j < 8) :
    (shiftedMask b ||| 1).getLsbD j = (j == 0 || (b.mask.getLsbD (j - 1) && decide (j < b.nstages))) := by
  rw [BitVec.getLsbD_or, getLsbD_shiftedMask b hj, getLsbD_one_byte hj]
  cases j with
  | zero => simp
  | succ j => simp

theorem passEndsRepeatOrLeave : PassEndsRepeatOrLeave := by
  intro b t floor hfloor
  refine ⟨fun hstaged hleft => blockEnds_of_repeat hfloor (endPass_unstaged_repeats hstaged hleft),
    fun hstaged hleft => blockEnds_of_leave hfloor (endPass_unstaged_leaves hstaged hleft),
    fun hstaged hleft => ⟨{ b with mask := shiftedMask b ||| 1, left := b.left - 1 },
      blockEnds_of_repeat hfloor (endPass_staged_starts hstaged hleft), rfl, rfl, rfl, fun _ hj => getLsbD_started_mask b hj⟩,
    fun hstaged hleft hdrained hstages => ?leaves, fun hstaged hleft hvalid hstages => ?drains⟩
  case leaves =>
    exact blockEnds_of_leave hfloor (endPass_staged_leaves hstaged hleft ((shiftedMask_eq_zero_iff hstages).2 hdrained))
  case drains =>
    obtain ⟨j, hj, hbit⟩ := hvalid
    have hmask : shiftedMask b ≠ 0 := fun hzero =>
      ne_true_of_eq_false ((shiftedMask_eq_zero_iff hstages).1 hzero j hj) hbit
    exact ⟨{ b with mask := shiftedMask b }, blockEnds_of_repeat hfloor (endPass_staged_drains hstaged hleft hmask), hleft, rfl, rfl,
      fun _ hj => getLsbD_shiftedMask b hj⟩

/-- Settles O13: a header by its checks in their order (`headerAct`), and the end of a pass by what the pass leaves of its entry
(`endPass`). -/
theorem blocksAreEnteredRepeatedAndLeft : Obligations.BlocksAreEnteredRepeatedAndLeft :=
  ⟨headersEnterTheirBlocks, headersThatTrap, passEndsRepeatOrLeave⟩

end Sys2Proof.Proofs
end

section
/-! PROOFS. What a walk leaves behind (R158, R159, R161): the translation caches, the walks, the hint errors and the free values, and
nothing else. -/

namespace Sys2Proof.Proofs

set_option Elab.async false

open Sys2Proof.Machine

variable {s t u : State}

/-- `t` is `s` but for what translations leave: cached entries, walks, hint errors and used free values. -/
def WalkedOnly (s t : State) : Prop :=
  t = { s with tlb := t.tlb, walks := t.walks, hintErrors := t.hintErrors, free := t.free }

theorem WalkedOnly.refl (s : State) : WalkedOnly s s := rfl

theorem WalkedOnly.trans (hst : WalkedOnly s t) (htu : WalkedOnly t u) : WalkedOnly s u := by
  rw [WalkedOnly] at htu ⊢
  rw [htu, hst]

theorem WalkedOnly.ctx_eq (h : WalkedOnly s t) : t.ctx = s.ctx := (congrArg State.ctx h :)

theorem cacheEntry_walkedOnly (s : State) (e : TlbEntry) : WalkedOnly s (s.cacheEntry e) := by
  rw [State.cacheEntry]
  split
  · exact WalkedOnly.refl s
  · dsimp only
    split <;> rfl

theorem walked_walkedOnly (s : State) (asid : W16) (va : W64) : WalkedOnly s (s.walked asid va) := rfl

theorem countHint_walkedOnly (s : State) (e : W64) (size : Nat) : WalkedOnly s (s.countHint e size) := by
  rw [State.countHint]
  split
  · rfl
  · exact WalkedOnly.refl s

theorem foldl_cacheEntry_walkedOnly (f : Nat → TlbEntry) (l : List Nat) (s : State) :
    WalkedOnly s (l.foldl (fun u c => u.cacheEntry (f c)) s) := by
  induction l generalizing s with
  | nil => exact WalkedOnly.refl s
  | cons c l ih => exact (cacheEntry_walkedOnly s (f c)).trans (ih _)

theorem remember_walkedOnly (s : State) (e : TlbEntry) : WalkedOnly s (s.remember e) := by
  have hcaches := foldl_cacheEntry_walkedOnly (fun c => { e with cache := c }) (cachePath e.cache) s
  rw [State.remember]
  split
  · exact hcaches
  · exact (hcaches.trans (walked_walkedOnly _ _ _)).trans (countHint_walkedOnly _ _ _)

theorem noteWalk_walkedOnly (s : State) (c : Nat) (asid : W16) (va : W64) : WalkedOnly s (s.noteWalk c asid va) := by
  rw [State.noteWalk]
  split
  · exact remember_walkedOnly _ _
  · split
    · exact (walked_walkedOnly _ _ _).trans (countHint_walkedOnly _ _ _)
    · exact walked_walkedOnly _ _ _

theorem fetched_walkedOnly (s : State) (va : W64) : WalkedOnly s (s.fetched va) := noteWalk_walkedOnly _ _ _ _

theorem rememberAll_walkedOnly (s : State) (l : List TlbEntry) : WalkedOnly s (s.rememberAll l) := by
  induction l generalizing s with
  | nil => exact WalkedOnly.refl s
  | cons e l ih => exact (remember_walkedOnly s e).trans (ih _)

end Sys2Proof.Proofs
end

section
/-! PROOFS. Traps (R239 to R245, R330, R410, R411): what landing every write leaves of a context, what taking a trap records, the handler
and the stop, and O14. -/

namespace Sys2Proof.Proofs

set_option Elab.async false

open Sys2Proof.Machine Sys2Proof.Claims Sys2Proof.Laws

variable {s : State} {x y z : Ctx} {clu : Cluster} {code : Nat} {tval ecmd : W64}

/-! ## What landing leaves as it was -/

/-- `y` is `x` but for what writes that land can change. -/
def LandedOnly (x y : Ctx) : Prop :=
  y = { x with life := y.life, regs := y.regs, sr := y.sr, cl := y.cl, flags := y.flags, bob := y.bob, bmem := y.bmem, sp := y.sp,
               spBad := y.spBad, bmBad := y.bmBad, flight := y.flight, audit := y.audit }

theorem LandedOnly.refl (x : Ctx) : LandedOnly x x := rfl

theorem LandedOnly.trans (hxy : LandedOnly x y) (hyz : LandedOnly y z) : LandedOnly x z := by
  rw [LandedOnly] at hyz ⊢
  rw [hyz, hxy]

theorem LandedOnly.entry_eq (h : LandedOnly x y) : y.entry = x.entry := (congrArg Ctx.entry h :)

theorem pump_landedOnly (n : Nat) (l : List Reservation) (x : Ctx) : LandedOnly x (x.pump n l) := by
  induction l generalizing x with
  | nil => rfl
  | cons r l ih =>
    rw [Ctx.pump]
    split
    · rfl
    · exact LandedOnly.trans (y := x.fillNext n _) rfl (ih _)

theorem retireIfDone_landedOnly (x : Ctx) : LandedOnly x x.retireIfDone := by
  rw [Ctx.retireIfDone]
  split <;> rfl

theorem consumeAbort_landedOnly (x : Ctx) : LandedOnly x x.consumeAbort := by
  rw [Ctx.consumeAbort]
  split <;> rfl

theorem landVector_landedOnly (d : VDest) (mask v : VReg) (x : Ctx) : LandedOnly x (x.landVector d mask v) := by
  cases d <;> rfl

theorem setSreg_landedOnly (c : Cluster) (n : Nat) (v : W64) (x : Ctx) : LandedOnly x (x.setSreg c n v) := by
  unfold Ctx.setSreg
  split
  case h_17 => split <;> rfl
  all_goals rfl

theorem land_landedOnly (x : Ctx) (e : Effect) : LandedOnly x (x.land e) := by
  cases e with
  | vector d mask v => exact landVector_landedOnly d mask v x
  | deliver b id v => exact pump_landedOnly b _ x
  | sreg c n v => exact setSreg_landedOnly c n.toNat v x
  | deactivate c => exact LandedOnly.trans (y := x.modCl c _) rfl (retireIfDone_landedOnly _)
  | abort => exact consumeAbort_landedOnly x
  | _ => rfl

theorem foldl_land_landedOnly (l : List Write) (x : Ctx) : LandedOnly x (l.foldl (fun y w => y.land w.eff) x) := by
  induction l generalizing x with
  | nil => exact LandedOnly.refl x
  | cons w l ih => exact (land_landedOnly x w.eff).trans (ih _)

theorem landAll_landedOnly (x : Ctx) : LandedOnly x x.landAll :=
  LandedOnly.trans (y := { x with flight := [] }) rfl (foldl_land_landedOnly _ _)

theorem landed_entry (s : State) : (landed s).ctx.entry = s.ctx.entry := (landAll_landedOnly s.ctx).entry_eq

/-! ## Which trap of a cycle is taken -/

theorem trapAndBrkRaiseTheirTraps : TrapAndBrkRaiseTheirTraps :=
  fun _ _ _ => ⟨fun hvalid => traps_of_issue_trap hvalid exec_trap rfl, fun hvalid => traps_of_issue_trap hvalid exec_brk rfl⟩

/-- The state that raising a trap leaves, but for the trap: the walk behind an XLATE or a PERM has left its translation. -/
def raised (s : State) (code : Nat) (tval : W64) : State := if code = 0x06 ∨ code = 0x07 then s.fetched tval else s

theorem takeTrap_eq (s : State) (clu : Cluster) (code : Nat) (tval ecmd : W64) :
    takeTrap s clu code tval ecmd =
      if s.plan.tail = [] then (s.trapDue.getD ⟨clu, code, tval, ecmd⟩).enter (raised s code tval)
      else { raised s code tval with plan := s.plan.tail, verdict := .trapped,
                                     trapDue := some (s.trapDue.getD ⟨clu, code, tval, ecmd⟩) } := rfl

theorem theFirstTrapOfACycleIsTaken : TheFirstTrapOfACycleIsTaken := by
  intro s clu code tval ecmd u
  rw [takeTrap_eq]
  refine ⟨fun hlast hnone => ?_, fun hlast hnone => ?_, fun t hdue => ⟨fun hlast => ?_, fun hlast => ?_⟩⟩
  · rw [if_pos hlast, hnone]
    rfl
  · rw [if_neg hlast, hnone]
    rfl
  · rw [if_pos hlast, hdue]
    rfl
  · rw [if_neg hlast, hdue]
    rfl

/-! ## What taking a trap records -/

/-- CAUSE of a trap (Table 4.5). -/
def causeWord (clu : Cluster) (code : Nat) : W64 := BitVec.ofNat 64 (code + 64 * cnum clu)

theorem cnum_lt (c : Cluster) : cnum c < 4 := by cases c <;> decide

theorem bits64_causeWord (hcode : code < 64) :
    bits64 (causeWord clu code) 0 6 = code ∧ bits64 (causeWord clu code) 6 2 = cnum clu := by
  have hclu := cnum_lt clu
  rw [bits64, bits64, causeWord, BitVec.toNat_ofNat]
  omega

theorem clusters_get_map (k : Clusters) (f : Cluster → ClusterState → ClusterState) (c : Cluster) :
    (k.map f).get c = f c (k.get c) := by cases c <;> rfl

/-- What R240 step 3 leaves of one cluster. -/
def recordedCluster (s : State) (k : ClusterState) : ClusterState :=
  if s.ctx.entry = .returned then k
  else { k with epc := if k.active then k.pc else 0, estat := estatOf s.ctx (stwOf s k) true k }

theorem recordTrap_ctx (s : State) (cause tval ecmd : W64) :
    (recordTrap s cause tval ecmd).ctx =
      { s.ctx with cl := s.ctx.cl.map (fun _ k => recordedCluster s k),
                   sr := { s.ctx.sr with cause := cause, tval := tval, ecmd := ecmd } } := rfl

/-- R240 step 4 on one cluster. -/
def handlerCluster (now : Nat) (a : W64) (k : ClusterState) : ClusterState :=
  { k with taskActive := k.active, active := a != 0, pc := a, savedBlocks := k.blocks, savedFloor := k.floor, blocks := [], floor := 0,
           ready := now + 8, wait := .none, parked := false }

theorem enterHandler_get (s : State) (streams : List W64) (c : Cluster) :
    (enterHandler s streams).ctx.cl.get c = handlerCluster s.now (streams.getD (cnum c) 0) (s.ctx.cl.get c) :=
  clusters_get_map s.ctx.cl _ c

/-! ## ESTAT -/

theorem estatOf_of_inactive {k : ClusterState} (stw forced : Bool) (h : k.active = false) : estatOf x stw forced k = 0 :=
  if_neg (ne_true_of_eq_false h)

/-- The fields of ESTAT of an active cluster that a trap in task mode stops (R241). -/
theorem estatOf_fields {k : ClusterState} (stw : Bool) (htask : x.sr.handler = false) (hactive : k.active = true)
    (hdepth : k.blocks.length < 8) :
    (estatOf x stw true k).getLsbD 0 = false ∧ (estatOf x stw true k).getLsbD 3 = true ∧
      bits64 (estatOf x stw true k) 5 3 = k.blocks.length := by
  have hstw := stw.toNat_le
  have hstaged := (inStaged k.pc k.blocks).toNat_le
  have hnat : (estatOf x stw true k).toNat =
      4 * stw.toNat + 8 + 16 * (inStaged k.pc k.blocks).toNat + 32 * k.blocks.length := by
    rw [estatOf, if_pos hactive, htask, BitVec.toNat_ofNat, Nat.mod_eq_of_lt]
    · simp only [Bool.toNat_true, Bool.toNat_false]
      omega
    · simp only [Bool.toNat_true, Bool.toNat_false]
      omega
  refine ⟨?_, ?_, ?_⟩
  · rw [BitVec.getLsbD, hnat, Nat.testBit_eq_decide_div_mod_eq]
    exact decide_eq_false (by omega)
  · rw [BitVec.getLsbD, hnat, Nat.testBit_eq_decide_div_mod_eq]
    exact decide_eq_true (by omega)
  · rw [bits64, hnat]
    omega

/-! ## The two ways of taking a trap -/

/-- What a delegated trap comes to, by what its handler entry record gives. -/
def delegated (s : State) (cause tval ecmd : W64) : Except Nat (List W64) → State
  | .ok streams => (enterHandler (recordTrap s cause tval ecmd) streams).fetched s.ctx.sr.hentry
  | .error _ => stopForSupervisor (recordTrap s cause tval ecmd) cause tval ecmd true

theorem enterTrap_eq (s : State) (clu : Cluster) (code : Nat) (tval ecmd : W64) :
    enterTrap s clu code tval ecmd =
      if (landed s).ctx.sr.handler then stopForSupervisor (landed s) (causeWord clu code) tval ecmd false
      else if (landed s).ctx.sr.deleg.getLsbD code ∧ code ≠ 0x0D then
        delegated (landed s) (causeWord clu code) tval ecmd (entryRecord (landed s) (landed s).ctx.sr.hentry)
      else stopForSupervisor (recordTrap (landed s) (causeWord clu code) tval ecmd) (causeWord clu code) tval ecmd false := rfl

theorem enterTrap_of_delegated {streams : List W64} (htask : (landed s).ctx.sr.handler = false)
    (hdeleg : (landed s).ctx.sr.deleg.getLsbD code = true) (hbadret : code ≠ 0x0D)
    (hrecord : entryRecord (landed s) (landed s).ctx.sr.hentry = .ok streams) :
    enterTrap s clu code tval ecmd =
      (enterHandler (recordTrap (landed s) (causeWord clu code) tval ecmd) streams).fetched (landed s).ctx.sr.hentry := by
  rw [enterTrap_eq, if_neg (ne_true_of_eq_false htask), if_pos ⟨hdeleg, hbadret⟩, hrecord, delegated]

theorem enterTrap_of_others
    (h : (landed s).ctx.sr.handler = true ∨ code = 0x0D ∨ (landed s).ctx.sr.deleg.getLsbD code = false) :
    enterTrap s clu code tval ecmd =
      stopForSupervisor (if (landed s).ctx.sr.handler then landed s else recordTrap (landed s) (causeWord clu code) tval ecmd)
        (causeWord clu code) tval ecmd false := by
  rw [enterTrap_eq]
  cases hmode : (landed s).ctx.sr.handler with
  | true => rw [if_pos rfl, if_pos rfl]
  | false =>
    rw [if_neg Bool.false_ne_true, if_neg Bool.false_ne_true, if_neg]
    rintro ⟨hdeleg, hbadret⟩
    rcases h with hhandler | hcode | hundelegated
    · exact ne_true_of_eq_false hmode hhandler
    · exact hbadret hcode
    · exact ne_true_of_eq_false hundelegated hdeleg

theorem delegatedTrapEntersTheHandler : DelegatedTrapEntersTheHandler := by
  intro s clu code tval ecmd streams htask hdeleg hcode hbadret hrecord t x
  have ht : WalkedOnly (enterHandler (recordTrap (landed s) (causeWord clu code) tval ecmd) streams) t := by
    rw [show t = _ from enterTrap_of_delegated htask hdeleg hbadret hrecord]
    exact fetched_walkedOnly _ _
  have hctx := ht.ctx_eq
  have hverdict : t.verdict = .trapped := (congrArg State.verdict ht :)
  have hplan : t.plan = [] := (congrArg State.plan ht :)
  obtain ⟨hcause, hclu⟩ := bits64_causeWord (clu := clu) hcode
  rw [hctx]
  refine ⟨hverdict, hplan, rfl, rfl, rfl, hcause, hclu, rfl, rfl, fun c => ?_⟩
  have hget : (enterHandler (recordTrap (landed s) (causeWord clu code) tval ecmd) streams).ctx.cl.get c =
      handlerCluster s.now (streams.getD (cnum c) 0) (recordedCluster (landed s) (x.cl.get c)) := by
    rw [enterHandler_get, recordTrap_ctx]
    exact congrArg _ (clusters_get_map _ _ c)
  rw [hget, recordedCluster, landed_entry]
  split
  case isTrue hreturned =>
    exact ⟨fun hnot => absurd hreturned hnot, fun _ => ⟨rfl, rfl⟩, rfl, rfl, rfl, rfl, rfl, rfl, rfl⟩
  case isFalse hissued =>
    refine ⟨fun _ => ⟨rfl, fun hinactive => ?_, fun hactive hdepth => ?_⟩, fun hreturned => absurd hreturned hissued, rfl, rfl, rfl,
      rfl, rfl, rfl, rfl⟩
    · exact estatOf_of_inactive _ _ hinactive
    · exact estatOf_fields _ htask hactive hdepth

theorem otherTrapsStopTheContext : OtherTrapsStopTheContext := by
  intro s clu code tval ecmd h t
  rw [show t = _ from enterTrap_of_others h]
  refine ⟨rfl, ?_, ?_, ?_, ⟨_, rfl, rfl, rfl, rfl, ?_⟩⟩
  all_goals split <;> rfl

/-- Settles O14: which trap of a cycle is taken (`takeTrap_eq`), and what taking it does by its two ways (`enterTrap_of_delegated`,
`enterTrap_of_others`). -/
theorem trapsAreTaken : Obligations.TrapsAreTaken :=
  ⟨trapAndBrkRaiseTheirTraps, theFirstTrapOfACycleIsTaken, delegatedTrapEntersTheHandler, otherTrapsStopTheContext⟩

end Sys2Proof.Proofs
end

section
/-! PROOFS. TRET (R244, R411): the return to task mode, its traps, and O15. -/

namespace Sys2Proof.Proofs

set_option Elab.async false

open Sys2Proof.Machine Sys2Proof.Claims Sys2Proof.Laws

variable {s u : State} {st : Bool} {c d : Cluster} {x : Ctx}

/-! ## What the end of a turn leaves of a cluster -/

/-- The context after an instruction has issued is as its effect left it, but for the wait of the cluster and the ready set (R37). -/
theorem settle_eq (x : Ctx) (now : Nat) : x.settle now = { x with life := (x.settle now).life } := by
  rw [Ctx.settle]
  split <;> rfl

theorem finish_ctx (u : State) (c : Cluster) :
    (finish u c).ctx =
      { u.ctx.modCl c (fun k => { k with wait := .none }) with life := (finish u c).ctx.life } :=
  settle_eq _ _

/-- The end of a turn changes no cluster but in its wait. -/
theorem finish_get (u : State) (c d : Cluster) : ∃ w, (finish u c).ctx.cl.get d = { u.ctx.cl.get d with wait := w } := by
  have hcl : (finish u c).ctx.cl = u.ctx.cl.set c { u.ctx.cl.get c with wait := .none } := by
    rw [finish_ctx]
    rfl
  rw [hcl]
  by_cases h : d = c
  · subst h
    exact ⟨.none, Clusters_get_set_same _ _ _⟩
  · exact ⟨(u.ctx.cl.get d).wait, Clusters_get_set_of_ne _ _ h⟩

/-! ## The last of a group -/

theorem groupAct_of_last {effect : State → State} (h : s.plan.tail = []) : groupAct s effect = .jump (effect s) := if_pos h

theorem groupAct_of_earlier {effect : State → State} (h : s.plan.tail ≠ []) : groupAct s effect = .jump s := if_neg h

/-! ## The return -/

/-- What the return leaves of a cluster (R244). -/
def returnedCluster (now : Nat) (k : ClusterState) : ClusterState :=
  if k.taskActive then
    { k with active := true, pc := k.epc &&& ~~~(1 : W64), blocks := k.savedBlocks.drop (k.savedBlocks.length - bits64 k.estat 5 3),
             floor := min k.savedFloor (k.savedBlocks.drop (k.savedBlocks.length - bits64 k.estat 5 3)).length,
             savedBlocks := [], savedFloor := 0, wait := .none, ready := now + 1, parked := false }
  else
    { k with active := false, blocks := [], floor := 0, savedBlocks := [], savedFloor := 0, wait := .none, ready := now + 1,
             parked := false }

theorem retireIfDone_eq (x : Ctx) : x.retireIfDone = { x with life := x.retireIfDone.life } := by
  rw [Ctx.retireIfDone]
  split <;> rfl

theorem returnFromTrap_ctx (s : State) :
    (returnFromTrap s).ctx =
      { s.ctx with sr := { s.ctx.sr with handler := false }, entry := .returned, eng := s.ctx.eng.resume,
                   cl := s.ctx.cl.map (fun _ k => returnedCluster s.now k), life := (returnFromTrap s).ctx.life } :=
  retireIfDone_eq _

theorem returnFromTrap_get (s : State) (c : Cluster) :
    (returnFromTrap s).ctx.cl.get c = returnedCluster s.now (s.ctx.cl.get c) := by
  rw [returnFromTrap_ctx]
  exact clusters_get_map _ _ c

theorem returnedCluster_active (now : Nat) (k : ClusterState) : (returnedCluster now k).active = k.taskActive := by
  rw [returnedCluster]
  cases hactive : k.taskActive <;> rfl

theorem returnedCluster_savedBlocks (now : Nat) (k : ClusterState) : (returnedCluster now k).savedBlocks = [] := by
  rw [returnedCluster]
  split <;> rfl

theorem returnedCluster_of_active (now : Nat) {k : ClusterState} (h : k.taskActive = true) :
    (returnedCluster now k).pc = k.epc &&& 0xFFFFFFFFFFFFFFFE ∧
      (returnedCluster now k).blocks = k.savedBlocks.drop (k.savedBlocks.length - bits64 k.estat 5 3) := by
  rw [returnedCluster, if_pos h]
  exact ⟨rfl, rfl⟩

/-! ## What TRET comes to -/

/-- What TRET does in a cluster of a context that is in handler mode or not. -/
def tretAct (st : Bool) (s : State) (c : Cluster) : Act :=
  if !s.ctx.sr.handler || !inGroup s c st (· == 0xF4300000) then illegalWord (.tret st)
  else if badRet s.ctx ≠ 0 then .trap 0x0D (BitVec.ofNat 64 (badRet s.ctx))
  else groupAct s returnFromTrap

theorem exec_tret_tretAct : exec (.tret st) s = issue (.tret st) (tretAct st) s := by
  rw [exec_tret]
  rfl

theorem tretAct_in_task_mode (h : s.ctx.sr.handler = false) : tretAct st s c = illegalWord (.tret st) := by
  rw [tretAct, h]
  rfl

section

variable (hhandler : s.ctx.sr.handler = true) (hgroup : inGroup s c st (· == 0xF4300000) = true)
include hhandler hgroup

theorem tretAct_of_group :
    tretAct st s c = if badRet s.ctx ≠ 0 then .trap 0x0D (BitVec.ofNat 64 (badRet s.ctx)) else groupAct s returnFromTrap := by
  rw [tretAct, hhandler, hgroup]
  rfl

theorem tretAct_of_good_estats (hgood : badRet s.ctx = 0) : tretAct st s c = groupAct s returnFromTrap := by
  rw [tretAct_of_group hhandler hgroup]
  exact if_neg (not_not.2 hgood)

theorem tretAct_of_bad_estats (hbad : badRet s.ctx ≠ 0) :
    tretAct st s c = .trap 0x0D (BitVec.ofNat 64 (badRet s.ctx)) := by
  rw [tretAct_of_group hhandler hgroup]
  exact if_pos hbad

end

/-! ## O15 -/

theorem tretReturnsToTaskMode : TretReturnsToTaskMode := by
  intro s st hvalid hhandler hgroup hgood
  have hact := tretAct_of_good_estats hhandler hgroup hgood
  refine ⟨fun hearlier => ?earlier, fun hlast => ?last⟩
  case earlier => exact jumps_of_issue_jump hvalid exec_tret_tretAct (hact.trans (groupAct_of_earlier hearlier))
  case last =>
    have hjumps := jumps_of_issue_jump hvalid exec_tret_tretAct (hact.trans (groupAct_of_last hlast))
    refine ⟨_, hjumps, rfl, ?_, ?_, ?_, fun c => ?_⟩
    · rw [finish_ctx, returnFromTrap_ctx]
      rfl
    · rw [finish_ctx, returnFromTrap_ctx]
      rfl
    · rw [finish_ctx, returnFromTrap_ctx]
      rfl
    · obtain ⟨w, hget⟩ := finish_get (returnFromTrap s) (turn s) c
      rw [hget, returnFromTrap_get]
      exact ⟨returnedCluster_active _ _, returnedCluster_savedBlocks _ _, returnedCluster_of_active _⟩

theorem tretTraps : TretTraps :=
  fun _ _ hvalid =>
    ⟨fun htask => traps_of_issue_trap hvalid exec_tret_tretAct (tretAct_in_task_mode htask),
      fun hhandler hgroup hbad => traps_of_issue_trap hvalid exec_tret_tretAct (tretAct_of_bad_estats hhandler hgroup hbad)⟩

/-- Settles O15: TRET by its checks in their order (`tretAct`), and what the return leaves of each cluster (`returnedCluster`). -/
theorem tretReturnsOrTraps : Obligations.TretReturnsOrTraps := ⟨tretReturnsToTaskMode, tretTraps⟩

end Sys2Proof.Proofs
end

section
/-! PROOFS. XCALL and XRET (R460, R462): that no fault of a group applies, the call and the return as they leave the clusters and the
writes in flight, and O16. -/

namespace Sys2Proof.Proofs

set_option Elab.async false

open Sys2Proof.Machine Sys2Proof.Claims Sys2Proof.Laws

variable {s : State} {st : Bool} {c : Cluster} {act : Act}

/-! ## Faults of a group -/

theorem firstWith_eq_none_iff {p : Cluster → Bool} : firstWith s p = none ↔ ∀ d ∈ activeClusters s, p d = false := by
  simp [firstWith, List.find?_eq_none]

theorem groupFaults_nil : groupFaults s c [] act = act := rfl

theorem groupFaults_pass {code : Nat} {tval : W64} {fs : List (Option Cluster × Nat × W64)} {o : Option Cluster} (h : o = none) :
    groupFaults s c ((o, code, tval) :: fs) act = groupFaults s c fs act := by
  subst h
  rfl

theorem map_fst_any_of_none {o : Option (Nat × W64)} (h : o = none) (p : Nat → Bool) : (o.map (·.1)).any p = false := by
  rw [h]
  rfl

/-! ## The records of a call and of a return -/

theorem return_entries_drop_take (f : Cluster → W64) (c : Cluster) :
    (((allClusters.map f).flatMap (fun e => natBytes e.toNat 8)).drop (8 * cnum c)).take 8 = natBytes (f c).toNat 8 := by
  have hlen : ∀ d, (natBytes (f d).toNat 8).length = 8 := fun d => natBytes_length _ _
  have htake : ∀ (l r : List Byte) (h : l.length = 8), (l ++ r).take 8 = l := fun l r h => by
    rw [← h, List.take_left]
  have hdrop : ∀ (l r : List Byte) (n : Nat) (h : l.length = 8), (l ++ r).drop (8 + n) = r.drop n := fun l r n h => by
    rw [← h, List.drop_append, List.drop_eq_nil_of_le (Nat.le_add_right _ _), Nat.add_sub_cancel_left, List.nil_append]
  simp only [allClusters, List.map_cons, List.map_nil, List.flatMap_cons, List.flatMap_nil]
  cases c with
  | A => exact htake _ _ (hlen _)
  | V => exact (congrArg (List.take 8) (hdrop _ _ 0 (hlen .A))).trans (htake _ _ (hlen _))
  | M =>
    exact (congrArg (List.take 8) ((hdrop _ _ 8 (hlen .A)).trans (hdrop _ _ 0 (hlen .V)))).trans (htake _ _ (hlen _))
  | S =>
    exact (congrArg (List.take 8) ((hdrop _ _ 16 (hlen .A)).trans ((hdrop _ _ 8 (hlen .V)).trans (hdrop _ _ 0 (hlen .M))))).trans
      (htake _ _ (hlen _))

theorem return_entries_length (f : Cluster → W64) : ((allClusters.map f).flatMap (fun e => natBytes e.toNat 8)).length = 32 := by
  simp [allClusters, natBytes_length]

/-- R460: the return entry of a cluster as it stands in the record. -/
theorem leNat_callEntry (s : State) (c : Cluster) :
    leNat ((((allClusters.map (callEntry s)).flatMap (fun e => natBytes e.toNat 8)).drop (8 * cnum c)).take 8) =
      if (s.ctx.cl.get c).active then
        (((s.ctx.cl.get c).pc + 4).toNat % 2 ^ 57 + (s.ctx.cl.get c).blocks.length * 2 ^ 57 + (s.ctx.cl.get c).floor * 2 ^ 60) % 2 ^ 64
      else 0 := by
  rw [return_entries_drop_take, leNat_natBytes, show 256 ^ 8 = 2 ^ 64 from rfl, Nat.mod_eq_of_lt (callEntry s c).isLt, callEntry, apply_ite BitVec.toNat,
    BitVec.toNat_ofNat]
  rfl

/-! ## What a call leaves -/

/-- The bytes that XCALL stores. -/
def callRecord (s : State) : List Byte := (allClusters.map (callEntry s)).flatMap (fun e => natBytes e.toNat 8)

/-- A cluster after an XCALL (R460). -/
def calledCluster (stream : W64) (k : ClusterState) : ClusterState :=
  if k.active then { k with floor := k.blocks.length, pc := stream } else k

theorem callEffect_flight (t : W64) (streams : List W64) :
    (callEffect t streams s).ctx.flight = s.ctx.flight ++ [⟨s.now + 6, .spStore t.toNat (callRecord s) s.ctx.sr.dbgt⟩,
      ⟨s.now + 1, .scalar .A 31 t⟩, ⟨s.now + 1, .scalar .A 30 t⟩] := by
  simp only [callEffect, State.writeAt, State.modCtx_ctx, State.modCtx_now, List.append_assoc, List.cons_append, List.nil_append,
    callRecord]

theorem callEffect_get (t : W64) (streams : List W64) (c : Cluster) :
    (callEffect t streams s).ctx.cl.get c = calledCluster (streams.getD (cnum c) 0) (s.ctx.cl.get c) :=
  clusters_get_map s.ctx.cl _ c

/-- A cluster after an XRET whose entry is `e` (R462). -/
def returningCluster (e : W64) (k : ClusterState) : ClusterState :=
  if k.active then
    { k with blocks := k.blocks.drop (k.blocks.length - bits64 e 57 3), floor := bits64 e 60 3,
             pc := (BitVec.ofNat 57 e.toNat).signExtend 64 }
  else k

theorem returnEffect_flight (t : W64) :
    (returnEffect t s).ctx.flight =
      s.ctx.flight ++ [⟨s.now + 1, .scalar .A 31 (t + 32)⟩, ⟨s.now + 1, .scalar .A 30 (t + 32)⟩] := by
  simp only [returnEffect, State.writeAt, State.modCtx_ctx, State.modCtx_now, List.append_assoc, List.cons_append, List.nil_append]

theorem returnEffect_get (t : W64) (c : Cluster) :
    (returnEffect t s).ctx.cl.get c = returningCluster (returnEntry s t.toNat c) (s.ctx.cl.get c) :=
  clusters_get_map s.ctx.cl _ c

/-! ## XCALL -/

/-- A callable XCALL raises no fault, and comes to the call, which the last of its group carries out. -/
theorem jumps_of_callable {off : BitVec 25} {streams : List W64} {u : State} (hvalid : Valid (.xcall st off) s)
    (h : Callable s st (halfwordTarget s off) (s.ctx.regs.gpr .A 31 - 32) streams)
    (hu : groupAct s (callEffect (s.ctx.regs.gpr .A 31 - 32) streams) = .jump u) : Jumps (.xcall st off) s u := by
  obtain ⟨hgroup, hactive, hrecord, hframe, hfits, hstreams⟩ := h
  have hother : (activeClusters s).any (fun d => d != turn s && xcallRecord s d != halfwordTarget s off) = false := by
    rw [List.any_eq_false]
    intro d hd
    obtain ⟨hsame | hsame, -⟩ := hactive d hd <;> simp [hsame]
  have hplace : firstWith s (fun d => badXcallPlace (s.ctx.cl.get d)) = none :=
    firstWith_eq_none_iff.2 (fun d hd => (hactive d hd).2.1)
  have hnonzero : firstWith s (fun d => streams.getD (cnum d) 0 == 0) = none :=
    firstWith_eq_none_iff.2 (fun d hd => beq_eq_false_iff_ne.2 (hactive d hd).2.2.1)
  have htarget : ∀ p : Nat → Bool, firstWith s (fun d => ((targetFault s (streams.getD (cnum d) 0)).map (·.1)).any p) = none :=
    fun p => firstWith_eq_none_iff.2 (fun d hd => map_fst_any_of_none (hactive d hd).2.2.2 p)
  refine jumps_of_issue_jump hvalid exec_xcall (Eq.trans ?_ hu)
  simp only [← halfwordTarget_eq_target, hstreams, hgroup, Bool.not_true, Bool.false_eq_true, if_false, Except.toOption,
    Option.getD_some, hother, hplace, hnonzero, htarget, hrecord, hframe, ne_eq, not_true_eq_false, Option.isSome_none,
    spOut_eq_false hfits]
  rfl

theorem xcallCallsTheStreams : XcallCallsTheStreams := by
  intro s st off streams t hvalid hcallable
  refine ⟨fun hearlier => jumps_of_callable hvalid hcallable (groupAct_of_earlier hearlier), fun hlast => ?last⟩
  refine ⟨callEffect t streams s, callRecord s, jumps_of_callable hvalid hcallable (groupAct_of_last hlast),
    return_entries_length _, callEffect_flight t streams, fun c => ?_⟩
  rw [callEffect_get, calledCluster]
  refine ⟨leNat_callEntry s c, fun hactive => ?_, fun hinactive => if_neg (ne_true_of_eq_false hinactive)⟩
  rw [if_pos hactive]
  exact ⟨rfl, rfl, rfl⟩

/-! ## XRET -/

/-- An XRET with a good record raises no fault, and comes to the return, which the last of its group carries out. -/
theorem jumps_of_returnable {u : State} (hvalid : Valid (.xret st) s)
    (hgroup : inGroup s (turn s) st (· == 0xF4500000) = true)
    (hwm : wmHolds s.ctx (s.ctx.regs.gpr .A 30).toNat 32 = false) (hframe : (s.ctx.regs.gpr .A 30).toNat % 8 = 0)
    (hfits : (s.ctx.regs.gpr .A 30).toNat + 32 ≤ s.ctx.spSize) (hearly : earlyWord s.ctx (s.ctx.regs.gpr .A 30).toNat 32 = none)
    (hgood : ∀ d ∈ activeClusters s, badReturn (s.ctx.cl.get d) (returnEntry s (s.ctx.regs.gpr .A 30).toNat d) = false)
    (hu : groupAct s (returnEffect (s.ctx.regs.gpr .A 30)) = .jump u) : Jumps (.xret st) s u := by
  have hbad : firstWith s (fun d => badReturn (s.ctx.cl.get d) (returnEntry s (s.ctx.regs.gpr .A 30).toNat d)) = none :=
    firstWith_eq_none_iff.2 hgood
  refine jumps_of_issue_jump hvalid exec_xret (Eq.trans ?_ hu)
  simp only [hgroup, hwm, hframe, spOut_eq_false hfits, earlyFault_eq_of_none hearly, hbad, Bool.not_true, Bool.false_eq_true,
    if_false, ne_eq, not_true_eq_false]
  rfl

theorem ofNat_toNat_eq_setWidth (e : W64) : (BitVec.ofNat 57 e.toNat) = e.setWidth 57 := BitVec.ofNat_toNat 57 e

theorem xretReturnsToTheCallers : XretReturnsToTheCallers := by
  intro s st t hvalid hgroup hwm hframe hfits hearly hgood
  refine ⟨fun hearlier => jumps_of_returnable hvalid hgroup hwm hframe hfits hearly hgood (groupAct_of_earlier hearlier),
    fun hlast => ?last⟩
  refine ⟨returnEffect t s, jumps_of_returnable hvalid hgroup hwm hframe hfits hearly hgood (groupAct_of_last hlast),
    returnEffect_flight t, fun c => ?_⟩
  rw [returnEffect_get, returningCluster]
  refine ⟨fun hactive => ?_, fun hinactive => if_neg (ne_true_of_eq_false hinactive)⟩
  rw [if_pos hactive, ← ofNat_toNat_eq_setWidth]
  exact ⟨rfl, rfl, rfl⟩

/-- Settles O16: where no fault of the group applies, the call and the return by what they leave of each cluster and of the writes in
flight. -/
theorem callsAndReturns : Obligations.CallsAndReturns := ⟨xcallCallsTheStreams, xretReturnsToTheCallers⟩

end Sys2Proof.Proofs
end

section
/-! PROOFS. BTAKE and BGIVE (R69, R325, R332), and O19. -/

namespace Sys2Proof.Proofs

set_option Elab.async false

open Sys2Proof.Machine Sys2Proof.Claims Sys2Proof.Laws

variable {i : Instr} {s : State} {c : Cluster} {b : BitVec 4} {n : Nat} {reg : Option (BitVec 6)}

/-! ## A take -/

/-- What makes BTAKE illegal (R332). -/
def BadTake (bb : Bobbin) (c : Cluster) (n : Nat) (reg : Option (BitVec 6)) : Prop :=
  bb.en = false ∨ bb.cons.toNat ≠ cnum c ∨ bb.slots < n ∨ (reg.isSome = true ∧ bb.sz = true)

theorem badTake_iff (bb : Bobbin) :
    (!bb.en || bb.cons.toNat != cnum c || decide (bb.slots < n) || (reg.isSome && bb.sz)) = true ↔ BadTake bb c n reg := by
  simp only [BadTake, Bool.or_eq_true, Bool.not_eq_true', bne_iff_ne, decide_eq_true_eq, Bool.and_eq_true, or_assoc]

theorem takeAct_of_bad (h : BadTake (s.ctx.bobbin b.toNat) c n reg) : takeAct i b n reg s c = illegalWord i :=
  if_pos ((badTake_iff _).2 h)

theorem takeAct_waits (hgood : ¬BadTake (s.ctx.bobbin b.toNat) c n reg) (h : (s.ctx.bobbin b.toNat).count < n) :
    takeAct i b n reg s c = .wait (sourceWait (s.ctx.bobbin b.toNat)) :=
  (if_neg (mt (badTake_iff _).1 hgood)).trans (if_pos h)

theorem takeAct_takes (hgood : ¬BadTake (s.ctx.bobbin b.toNat) c n none) (h : n ≤ (s.ctx.bobbin b.toNat).count) :
    takeAct i b n none s c = .go (s.writeAt 1 (.take b.toNat n)) :=
  (if_neg (mt (badTake_iff _).1 hgood)).trans (if_neg (Nat.not_lt.2 h))

theorem takeAct_takes_register {r : BitVec 6} (hgood : ¬BadTake (s.ctx.bobbin b.toNat) c n (some r))
    (h : n ≤ (s.ctx.bobbin b.toNat).count) :
    takeAct i b n (some r) s c = .go (((s.writeAt 1 (.take b.toNat n)).readsNext b.toNat).writeAt 1
      (.scalar c r.toNat (toW64 (s.ctx.slotValue b.toNat (s.ctx.bobbin b.toNat).take)))) :=
  (if_neg (mt (badTake_iff _).1 hgood)).trans (if_neg (Nat.not_lt.2 h))

/-! ## A give -/

/-- What makes BGIVE illegal (R325). -/
def BadGive (bb : Bobbin) (c : Cluster) (n : Nat) : Prop := bb.en = false ∨ bb.prod.toNat ≠ cnum c ∨ bb.slots < n

theorem badGive_iff (bb : Bobbin) : (!bb.en || bb.prod.toNat != cnum c || decide (bb.slots < n)) = true ↔ BadGive bb c n := by
  simp only [BadGive, Bool.or_eq_true, Bool.not_eq_true', bne_iff_ne, decide_eq_true_eq, or_assoc]

theorem giveAct_of_bad (h : BadGive (s.ctx.bobbin b.toNat) c n) : giveAct i b n s c = illegalWord i :=
  if_pos ((badGive_iff _).2 h)

theorem giveAct_waits (hgood : ¬BadGive (s.ctx.bobbin b.toNat) c n)
    (h : (s.ctx.bobbin b.toNat).slots - (s.ctx.bobbin b.toNat).count < n) : giveAct i b n s c = .wait .bobbinRoom :=
  (if_neg (mt (badGive_iff _).1 hgood)).trans (if_pos h)

theorem giveAct_gives (hgood : ¬BadGive (s.ctx.bobbin b.toNat) c n)
    (h : n ≤ (s.ctx.bobbin b.toNat).slots - (s.ctx.bobbin b.toNat).count) :
    giveAct i b n s c = .go (s.writeAt 1 (.give b.toNat n)) :=
  (if_neg (mt (badGive_iff _).1 hgood)).trans (if_neg (Nat.not_lt.2 h))

theorem Bobbin_slots_pos (bb : Bobbin) : 1 ≤ bb.slots := Nat.le_add_left 1 _

/-! ## O19 -/

/-- Settles O19: what makes the instruction illegal is excluded or given, and the count decides between the wait and the move. -/
theorem bobbinTakesAndGives : Obligations.BobbinTakesAndGives := by
  intro s st r b n reg bb
  refine ⟨fun hen hcons => ⟨fun hvalid hwide hslots => ?_, fun hvalid hcount => ?_⟩,
    fun hen hprod => ⟨fun hvalid hslots => ?_, fun hvalid hcount => ?_⟩, fun hvalid hbad => ?_, fun hvalid hbad => ?_,
    fun hvalid hbad => ?_, fun hvalid hbad => ?_⟩
  · have hgood : ¬BadTake bb (turn s) (n.toNat + 1) (if r then some reg else none) := by
      cases r <;> simp_all [BadTake]
    refine ⟨fun hcount => completes_of_issue_go hvalid exec_btake ?_,
      fun hcount => waits_of_issue_wait hvalid exec_btake (takeAct_waits hgood hcount)⟩
    cases r
    case false => exact takeAct_takes hgood hcount
    case true => exact takeAct_takes_register hgood hcount
  · have hgood : ¬BadTake bb (turn s) 1 none := by simpa [BadTake, hen, hcons] using Nat.ne_of_gt (Bobbin_slots_pos bb)
    exact completes_of_issue_go hvalid exec_btake16 (takeAct_takes hgood hcount)
  · have hgood : ¬BadGive bb (turn s) (n.toNat + 1) := by simpa [BadGive, hen, hprod] using hslots
    exact ⟨fun hroom => completes_of_issue_go hvalid exec_bgive (giveAct_gives hgood hroom),
      fun hfull => waits_of_issue_wait hvalid exec_bgive (giveAct_waits hgood hfull)⟩
  · have hgood : ¬BadGive bb (turn s) 1 := by simpa [BadGive, hen, hprod] using Nat.ne_of_gt (Bobbin_slots_pos bb)
    exact completes_of_issue_go hvalid exec_bgive16 (giveAct_gives hgood hcount)
  · exact traps_of_issue_trap hvalid exec_bgive (giveAct_of_bad hbad)
  · refine traps_of_issue_trap hvalid exec_btake (takeAct_of_bad ?_)
    cases r <;> simpa [BadTake] using hbad
  · exact traps_of_issue_trap hvalid exec_btake16 (takeAct_of_bad (hbad.imp_right Or.inl))
  · exact traps_of_issue_trap hvalid exec_bgive16 (giveAct_of_bad (hbad.imp_right Or.inl))

end Sys2Proof.Proofs
end

section
/-! PROOFS. Sync flags and hoops (R39 to R44, R56, R194, R341, R342, R346, R347), and O18. -/

namespace Sys2Proof.Proofs

open Sys2Proof.Machine Sys2Proof.Claims Sys2Proof.Laws

variable {s : State} {c : Cluster} {st clr leave : Bool} {f : BitVec 3} {r : HoopRec} {i : HoopInst}

/-! ## Flags -/

theorem flagWaitAct_waits (h : vget s.ctx.flags f.toNat false = false ∨ (clr = true ∧ flagTaken s f.toNat = true)) :
    flagWaitAct f clr s c = .wait .flag :=
  if_pos (by simpa using h)

theorem flagWaitAct_goes (hset : vget s.ctx.flags f.toNat false = true) (hfree : clr = true → flagTaken s f.toNat = false) :
    flagWaitAct f clr s c = .go (if clr then s.writeAt 1 (.flagTake f.toNat) else s) := by
  have hpass : ¬(!vget s.ctx.flags f.toNat false || (clr && flagTaken s f.toNat)) = true := by
    cases clr <;> simp_all
  rw [flagWaitAct, if_neg hpass, apply_ite Act.go]

theorem flagInstructions : FlagInstructions :=
  fun _ _ _ _ _ => ⟨fun hvalid => completes_of_issue_go hvalid exec_flset rfl,
    fun hvalid => completes_of_issue_go hvalid exec_flsetSet16 rfl,
    fun hvalid => completes_of_issue_go hvalid exec_flsetClear16 rfl,
    fun hset => ⟨fun hvalid => completes_of_issue_go hvalid exec_flwait16 (flagWaitAct_goes hset Bool.noConfusion),
      fun hvalid hfree => completes_of_issue_go hvalid exec_flwait (flagWaitAct_goes hset hfree),
      fun hvalid hfree => completes_of_issue_go hvalid exec_flwaitClr16 (flagWaitAct_goes hset fun _ => hfree)⟩,
    fun hvalid h => waits_of_issue_wait hvalid exec_flwait (flagWaitAct_waits h)⟩

/-! ## What HARRIVE and HWAIT do -/

/-- HARRIVE at a hoop (R346). -/
def arriveAct (h : BitVec 3) (leave : Bool) (s : State) (c : Cluster) : Act :=
  unlessReplay s <|
  match hoopOf s s.ctx.gang h.toNat (hoopRec s.ctx h.toNat) with
  | none => .trap 0x01 (h.setWidth 64)
  | some i =>
    let r := hoopRec s.ctx h.toNat
    if r.scope = 0 || !r.member then .trap 0x01 (h.setWidth 64)
    else if hoopFrozen s r then .wait .hoop
    else if leave then .go (releaseHoop s c h.toNat r.left (.leave h.toNat r.scope r.group r.armed r.gen))
    else if hoopHolds s c r i || (r.armed && r.armedAt == s.now + 1) then .wait .hoop
    else
      let s1 := releaseHoop s c h.toNat (r.arrives i s.now) (.arrive h.toNat)
      .go (if r.armed then s1.selfInvalidate else s1)

/-- HWAIT at a hoop (R347). -/
def waitAct (h : BitVec 3) (s : State) (c : Cluster) : Act :=
  unlessReplay s <|
  match hoopOf s s.ctx.gang h.toNat (hoopRec s.ctx h.toNat) with
  | none => .trap 0x01 (h.setWidth 64)
  | some i =>
    let r := hoopRec s.ctx h.toNat
    if r.scope = 0 || !r.member then .trap 0x01 (h.setWidth 64)
    else if hoopHolds s c r i then .wait .hoop
    else .go (s.modCtx (·.setHoop h.toNat { r with armed := false, notified := false })).selfInvalidate

theorem exec_harrive_arriveAct {h : BitVec 3} : exec (.harrive st h leave) s = issue (.harrive st h leave) (arriveAct h leave) s := by
  rw [exec_harrive]; rfl

theorem exec_hwait_waitAct {h : BitVec 3} : exec (.hwait st h) s = issue (.hwait st h) (waitAct h) s := by
  rw [exec_hwait]; rfl

theorem arriveAct_of_replay (hreplay : s.ctx.replays = true) (h : BitVec 3) : arriveAct h leave s c = .go s := if_pos hreplay

theorem waitAct_of_replay (hreplay : s.ctx.replays = true) (h : BitVec 3) : waitAct h s c = .go s := if_pos hreplay

theorem unlessReplay_of_live (hlive : s.ctx.replays = false) (act : Act) : unlessReplay s act = act :=
  if_neg (ne_true_of_eq_false hlive)

theorem hoopHolds_iff : hoopHolds s (turn s) r i = true ↔ r.armed = true ∧ ¬GoesOn s r i := by
  simp only [hoopHolds, GoesOn, Bool.and_eq_true, Bool.or_eq_true, beq_iff_eq, Bool.not_eq_true', Classical.not_and_iff_not_or_not,
    ne_eq, Classical.not_not, Classical.not_imp, Bool.not_eq_true]

section Member

variable {h : BitVec 3} (hlive : s.ctx.replays = false)

include hlive in
theorem arriveAct_of_not_member (hmember : (hoopRec s.ctx h.toNat).member = false) :
    arriveAct h leave s c = .trap 0x01 (h.setWidth 64) := by
  rw [arriveAct, unlessReplay_of_live hlive]
  cases hoopOf s s.ctx.gang h.toNat (hoopRec s.ctx h.toNat)
  case none => rfl
  case some => exact if_pos (by simp [hmember])

include hlive in
theorem waitAct_of_not_member (hmember : (hoopRec s.ctx h.toNat).member = false) :
    waitAct h s c = .trap 0x01 (h.setWidth 64) := by
  rw [waitAct, unlessReplay_of_live hlive]
  cases hoopOf s s.ctx.gang h.toNat (hoopRec s.ctx h.toNat)
  case none => rfl
  case some => exact if_pos (by simp [hmember])

variable (hinst : hoopOf s s.ctx.gang h.toNat (hoopRec s.ctx h.toNat) = some i) (hscope : (hoopRec s.ctx h.toNat).scope ≠ 0)
  (hmember : (hoopRec s.ctx h.toNat).member = true)

include hlive hinst hscope hmember

theorem arriveAct_of_member (hfrozen : hoopFrozen s (hoopRec s.ctx h.toNat) = false) :
    arriveAct h leave s c =
      if leave then .go (releaseHoop s c h.toNat (hoopRec s.ctx h.toNat).left (.leave h.toNat (hoopRec s.ctx h.toNat).scope
        (hoopRec s.ctx h.toNat).group (hoopRec s.ctx h.toNat).armed (hoopRec s.ctx h.toNat).gen))
      else if hoopHolds s c (hoopRec s.ctx h.toNat) i ||
          ((hoopRec s.ctx h.toNat).armed && (hoopRec s.ctx h.toNat).armedAt == s.now + 1) then .wait .hoop
      else .go (if (hoopRec s.ctx h.toNat).armed
        then (releaseHoop s c h.toNat ((hoopRec s.ctx h.toNat).arrives i s.now) (.arrive h.toNat)).selfInvalidate
        else releaseHoop s c h.toNat ((hoopRec s.ctx h.toNat).arrives i s.now) (.arrive h.toNat)) := by
  rw [arriveAct, unlessReplay_of_live hlive, hinst]
  exact (if_neg (by simp [hscope, hmember])).trans (if_neg (ne_true_of_eq_false hfrozen))

theorem waitAct_of_member :
    waitAct h s c = if hoopHolds s c (hoopRec s.ctx h.toNat) i then .wait .hoop
      else .go (s.modCtx (·.setHoop h.toNat { hoopRec s.ctx h.toNat with armed := false, notified := false })).selfInvalidate := by
  rw [waitAct, unlessReplay_of_live hlive, hinst]
  exact if_neg (by simp [hscope, hmember])

end Member

/-- Whether a HARRIVE waits at its hoop (R346). -/
theorem arrival_waits_iff :
    (hoopHolds s (turn s) r i || (r.armed && r.armedAt == s.now + 1)) = true ↔ r.armed = true ∧ (¬GoesOn s r i ∨ r.armedAt = s.now + 1) := by
  rw [Bool.or_eq_true, hoopHolds_iff, Bool.and_eq_true, beq_iff_eq, and_or_left]

theorem hoopInstructions : HoopInstructions := by
  intro s st h i r arrives again leaves
  refine ⟨fun hlive hinst hscope hmember => ⟨fun hvalid hfrozen => ?_, fun hvalid hfrozen => ?_, fun hvalid => ?_⟩,
    fun hlive hmember => ⟨fun hvalid => ?_, fun leave hvalid => ?_⟩⟩
  · have hact := arriveAct_of_member (c := turn s) (leave := false) hlive hinst hscope hmember hfrozen
    refine ⟨fun harmed => ?_, fun harmed hgoes hagain => ?_, fun harmed hwaits => ?_⟩
    · have hgo : r.armed ≠ true := ne_true_of_eq_false harmed
      exact completes_of_issue_go hvalid exec_harrive_arriveAct
        (hact.trans ((if_neg (mt arrival_waits_iff.1 fun h => hgo h.1)).trans (congrArg Act.go (if_neg hgo))))
    · have hgo : ¬(r.armed = true ∧ (¬GoesOn s r i ∨ r.armedAt = s.now + 1)) :=
        fun h => h.2.elim (fun hn => hn hgoes) hagain
      exact completes_of_issue_go hvalid exec_harrive_arriveAct
        (hact.trans ((if_neg (mt arrival_waits_iff.1 hgo)).trans (congrArg Act.go (if_pos harmed))))
    · exact waits_of_issue_wait hvalid exec_harrive_arriveAct (hact.trans (if_pos (arrival_waits_iff.2 ⟨harmed, hwaits⟩)))
  · exact completes_of_issue_go hvalid exec_harrive_arriveAct (arriveAct_of_member hlive hinst hscope hmember hfrozen)
  · have hact := waitAct_of_member (c := turn s) hlive hinst hscope hmember
    refine ⟨fun hgoes => ?_, fun harmed hholds => ?_⟩
    · have hpass : ¬(r.armed = true ∧ ¬GoesOn s r i) :=
        fun h => hgoes.elim (fun hfree => Bool.noConfusion (hfree.symm.trans h.1)) h.2
      exact completes_of_issue_go hvalid exec_hwait_waitAct (hact.trans (if_neg (mt hoopHolds_iff.1 hpass)))
    · exact waits_of_issue_wait hvalid exec_hwait_waitAct (hact.trans (if_pos (hoopHolds_iff.2 ⟨harmed, hholds⟩)))
  · exact traps_of_issue_trap hvalid exec_hwait_waitAct (waitAct_of_not_member hlive hmember)
  · exact traps_of_issue_trap hvalid exec_harrive_arriveAct (arriveAct_of_not_member hlive hmember)

theorem replaysPassHoops : ReplaysPassHoops :=
  fun _ _ _ h hreplay => ⟨fun hvalid => completes_of_issue_go hvalid exec_harrive_arriveAct (arriveAct_of_replay hreplay h),
    fun hvalid => completes_of_issue_go hvalid exec_hwait_waitAct (waitAct_of_replay hreplay h)⟩

/-! ## Instances of hoops -/

theorem hoopOf_congr {t : State} (hhub : t.hub = s.hub) (htamb : t.tamb = s.tamb) (g h : Nat) (r : HoopRec) :
    hoopOf t g h r = hoopOf s g h r := by
  rw [hoopOf, hoopOf, State.gangOf, State.gangOf, hhub, htamb]

theorem find?_map_of_preserved {α : Type} {p : α → Bool} {f : α → α} (hp : ∀ a, p (f a) = p a) (l : List α) :
    (l.map f).find? p = (l.find? p).map f := by
  rw [List.find?_map, show p ∘ f = p from funext hp]

theorem gangOf_setGang {g : Nat} {w v : Gang} (hfound : s.gangOf g = some w) (hid : v.id = w.id) : (s.setGang v).gangOf g = some v := by
  have hkept : ∀ a : Gang, ((if a.id = v.id then v else a).id == g) = (a.id == g) := by
    intro a
    split
    case isTrue heq => rw [heq]
    case isFalse => rfl
  rw [State.gangOf] at hfound ⊢
  exact (find?_map_of_preserved hkept _).trans (by rw [hfound]; exact congrArg some (if_pos hid.symm))

/-- A gang with a hoop count put in the place of its number and group. -/
def gangWithHoop (w : Gang) (h : Nat) (r : HoopRec) (j : HoopInst) : Gang :=
  { w with hoops := w.hoops.map (fun k => if k.hoop = h ∧ k.group = r.group then j else k) }

theorem gangWithHoop_id (w : Gang) (h : Nat) (r : HoopRec) (j : HoopInst) : (gangWithHoop w h r j).id = w.id := rfl

/-- A hoop count put in the place of one with the same number and group is the one found there. -/
theorem hoopOf_putHoop {g h : Nat} {i j : HoopInst} (hfound : hoopOf s g h r = some i) (hhoop : j.hoop = i.hoop) (hgroup : j.group = i.group) :
    hoopOf (s.putHoop g h r j) g h r = some j := by
  by_cases hpod : r.scope = 4
  case pos => rw [State.putHoop, if_pos hpod, hoopOf, if_pos hpod, tabGet_tabSet, if_pos rfl]
  case neg =>
    rw [hoopOf, if_neg hpod] at hfound
    obtain ⟨w, hgang, hinst⟩ := Option.bind_eq_some_iff.1 hfound
    have hplace : i.hoop = h ∧ i.group = r.group := by simpa using List.find?_some hinst
    have hkept : ∀ a : HoopInst, (fun k : HoopInst => k.hoop == h && k.group == r.group) (if a.hoop = h ∧ a.group = r.group then j else a) =
        (fun k : HoopInst => k.hoop == h && k.group == r.group) a := by
      intro a
      by_cases ha : a.hoop = h ∧ a.group = r.group
      case pos => simp [ha, hhoop, hgroup, hplace]
      case neg => rw [if_neg ha]
    have hput : s.putHoop g h r j = s.setGang (gangWithHoop w h r j) := by
      rw [State.putHoop, if_neg hpod, hgang]
      rfl
    rw [hput, hoopOf, if_neg hpod, gangOf_setGang hgang (gangWithHoop_id w h r j)]
    exact (find?_map_of_preserved hkept _).trans (by rw [hinst]; exact congrArg some (if_pos hplace))

theorem settle_hoop (i : HoopInst) (now : Nat) : (i.settle now).hoop = i.hoop := by
  rw [HoopInst.settle]; split <;> rfl

theorem settle_group (i : HoopInst) (now : Nat) : (i.settle now).group = i.group := by
  rw [HoopInst.settle]; split <;> rfl

theorem putHoop_ctx (g h : Nat) (r : HoopRec) (i : HoopInst) : (s.putHoop g h r i).ctx = s.ctx := by
  rw [State.putHoop]
  split
  · rfl
  · cases s.gangOf g <;> rfl

/-! ## An arrival or a leave that nothing keeps back -/

/-- The queue entry of an arrival or a leave before it has its number. -/
def hoopAccess (c : Cluster) (k : AccKind) : Access :=
  { num := 0, loadQ := false, issuer := c, kind := k, elems := [], size := 0, data := 0, cls := none, ord := 0, scope := 0, seen := false }

/-- A context in whose queues an arrival or a leave stands last, and whose record of the hoop is `r`. -/
def withHoopAccess (c : Cluster) (h : Nat) (r : HoopRec) (k : AccKind) (x : Ctx) : Ctx :=
  { x with
    hoops := vset x.hoops h r, nextAcc := x.nextAcc + 1, gq := x.gq ++ [{ hoopAccess c k with num := x.nextAcc }],
    audit := { x.audit with replay := x.audit.replay.map (Replay.claim (cnum c) x.nextAcc 0) } }

theorem withHoopAccess_gang {x : Ctx} {h : Nat} {k : AccKind} : (withHoopAccess c h r k x).gang = x.gang := by rw [withHoopAccess]

theorem releaseHoop_eq {k : AccKind} (hentries : (hoopAccess c k).entries = 0) (h : Nat) :
    releaseHoop s c h r k = if s.ctx.gq.isEmpty then (s.modCtx (withHoopAccess c h r k)).performAt 0
      else s.modCtx (withHoopAccess c h r k) := by
  have hqueued : (s.modCtx (·.setHoop h r)).enqueue (hoopAccess c k) = s.modCtx (withHoopAccess c h r k) := by
    rw [State.enqueue, hentries]
    simp only [State.modCtx, withHoopAccess, Ctx.setHoop, Ctx.tick, Ctx.modReplay, hoopAccess]
  exact (if_congr Iff.rfl (congrArg (·.performAt 0) hqueued) hqueued)

/-- The kinds of access that count at a hoop. -/
def CountsAtHoop (k : AccKind) : Prop := (∃ h, k = .arrive h) ∨ ∃ h scope group armed gen, k = .leave h scope group armed gen

theorem entries_of_countsAtHoop {k : AccKind} (hk : CountsAtHoop k) : (hoopAccess c k).entries = 0 := by
  obtain ⟨_, rfl⟩ | ⟨_, _, _, _, _, rfl⟩ := hk <;> rfl

theorem ne_fence_of_countsAtHoop {k : AccKind} (hk : CountsAtHoop k) : k ≠ .fence := by
  obtain ⟨_, rfl⟩ | ⟨_, _, _, _, _, rfl⟩ := hk <;> exact AccKind.noConfusion

theorem arrive_countsAtHoop (h : Nat) : CountsAtHoop (.arrive h) := .inl ⟨h, rfl⟩

/-- What the entry of a leave keeps of its task's record. -/
def leavingRec (r : HoopRec) : HoopRec :=
  { scope := r.scope, group := r.group, member := false, armed := r.armed, gen := r.gen, notified := false, armedAt := 0 }

theorem hoopOf_leavingRec (g h : Nat) : hoopOf s g h (leavingRec r) = hoopOf s g h r := rfl

theorem putHoop_leavingRec (g h : Nat) (j : HoopInst) : s.putHoop g h (leavingRec r) j = s.putHoop g h r j := rfl

theorem leave_countsAtHoop {h scope group : Nat} {armed : Bool} {gen : W16} : CountsAtHoop (.leave h scope group armed gen) :=
  .inr ⟨h, scope, group, armed, gen, rfl⟩

theorem releaseHoop_of_empty {h : Nat} {k : AccKind} (hempty : s.ctx.gq = []) (hk : CountsAtHoop k) :
    releaseHoop s c h r k =
      (performAccess (s.modCtx (withHoopAccess c h r k)) { hoopAccess c k with num := s.ctx.nextAcc }).modCtx
        (·.dropAccess s.ctx.nextAcc) := by
  have hfirst : (s.modCtx (withHoopAccess c h r k)).ctx.gq = [{ hoopAccess c k with num := s.ctx.nextAcc }] := by
    rw [State.modCtx_ctx, withHoopAccess, hempty, List.nil_append]
  have hkind : (acquires { hoopAccess c k with num := s.ctx.nextAcc } || k == .fence) = false :=
    beq_false_of_ne (ne_fence_of_countsAtHoop hk)
  rw [releaseHoop_eq (entries_of_countsAtHoop hk), hempty, if_pos List.isEmpty_nil, State.performAt, hfirst]
  exact if_neg (ne_true_of_eq_false hkind)

theorem releaseHoop_of_outstanding {h : Nat} {k : AccKind} (hqueued : s.ctx.gq ≠ []) (hk : CountsAtHoop k) :
    releaseHoop s c h r k = s.modCtx (withHoopAccess c h r k) := by
  rw [releaseHoop_eq (entries_of_countsAtHoop hk), if_neg (mt List.isEmpty_iff.1 hqueued)]

theorem dropAccess_withHoopAccess_gq {x : Ctx} {h : Nat} {k : AccKind} (hempty : x.gq = []) :
    ((withHoopAccess c h r k x).dropAccess x.nextAcc).gq = [] := by
  simp [Ctx.dropAccess, withHoopAccess, hempty]

theorem hoopRec_withHoopAccess {x : Ctx} {h : Nat} (hh : h < 8) (k : AccKind) : hoopRec (withHoopAccess c h r k x) h = r :=
  vget_vset_same _ _ _ hh

theorem hoopOf_modCtx (f : Ctx → Ctx) (g h : Nat) (r : HoopRec) : hoopOf (s.modCtx f) g h r = hoopOf s g h r :=
  hoopOf_congr (State.modCtx_hub s f) (State.modCtx_tamb s f) g h r

theorem putHoop_modCtx (f : Ctx → Ctx) (g h : Nat) (r : HoopRec) (j : HoopInst) :
    (s.modCtx f).putHoop g h r j = (s.putHoop g h r j).modCtx f := by
  have hgang : (s.modCtx f).gangOf g = s.gangOf g := by rw [State.gangOf, State.gangOf, State.modCtx_tamb]
  rw [State.putHoop, State.putHoop, hgang]
  split
  · rfl
  · cases s.gangOf g <;> rfl

/-- R43: the hoop count once a task whose record was `r` has left. -/
def afterLeave (r : HoopRec) (i : HoopInst) : HoopInst :=
  { i with expect := i.expect - 1, arrived := i.arrived - (if r.armed ∧ i.gen = r.gen then 1 else 0) }

/-- R41: the hoop count after one arrival more. -/
def afterArrival (i : HoopInst) : HoopInst := { i with arrived := i.arrived + 1 }

theorem countArrival_of_found {h : Nat} (hfound : hoopOf s s.ctx.gang h (hoopRec s.ctx h) = some i) :
    countArrival s h = s.putHoop s.ctx.gang h (hoopRec s.ctx h) ((afterArrival i).settle s.now) := by
  rw [countArrival, hfound]; rfl

theorem countLeave_of_found {h : Nat} (hfound : hoopOf s s.ctx.gang h r = some i) :
    countLeave s h r = s.putHoop s.ctx.gang h r ((afterLeave r i).settle s.now) := by
  rw [countLeave, hfound]; rfl

theorem arrival_counts {h : Nat} (hempty : s.ctx.gq = []) (hh : h < 8) (hfound : hoopOf s s.ctx.gang h r = some i) :
    releaseHoop s c h r (.arrive h) = ((s.putHoop s.ctx.gang h r ((afterArrival i).settle s.now)).modCtx
      (withHoopAccess c h r (.arrive h))).modCtx (·.dropAccess s.ctx.nextAcc) := by
  have hrec : hoopRec (s.modCtx (withHoopAccess c h r (.arrive h))).ctx h = r := hoopRec_withHoopAccess hh _
  have hthere : hoopOf (s.modCtx (withHoopAccess c h r (.arrive h))) s.ctx.gang h
      (hoopRec (s.modCtx (withHoopAccess c h r (.arrive h))).ctx h) = some i := by
    rw [hrec, hoopOf_modCtx, hfound]
  rw [releaseHoop_of_empty hempty (arrive_countsAtHoop h), performAccess]
  refine congrArg (State.modCtx · _) ((countArrival_of_found hthere).trans ?_)
  rw [hrec, putHoop_modCtx, State.modCtx_ctx, withHoopAccess_gang, State.modCtx_now]

theorem leave_counts {h : Nat} (hempty : s.ctx.gq = []) (hfound : hoopOf s s.ctx.gang h r = some i) :
    releaseHoop s c h r (.leave h r.scope r.group r.armed r.gen) = ((s.putHoop s.ctx.gang h r ((afterLeave r i).settle s.now)).modCtx
      (withHoopAccess c h r (.leave h r.scope r.group r.armed r.gen))).modCtx (·.dropAccess s.ctx.nextAcc) := by
  rw [releaseHoop_of_empty hempty leave_countsAtHoop, performAccess]
  have hthere : hoopOf (s.modCtx (withHoopAccess c h r (.leave h r.scope r.group r.armed r.gen)))
      (s.modCtx (withHoopAccess c h r (.leave h r.scope r.group r.armed r.gen))).ctx.gang h (leavingRec r) = some i := by
    rw [State.modCtx_ctx, withHoopAccess_gang, hoopOf_modCtx, hoopOf_leavingRec, hfound]
  refine congrArg (State.modCtx · _) ((countLeave_of_found hthere).trans ?_)
  rw [putHoop_modCtx, putHoop_leavingRec, State.modCtx_ctx, withHoopAccess_gang, State.modCtx_now]
  rfl

/-- The hoop count and the queues after a count at once. -/
theorem counted {h : Nat} {k : AccKind} {j : HoopInst} (hempty : s.ctx.gq = []) (hfound : hoopOf s s.ctx.gang h r = some i)
    (hhoop : j.hoop = i.hoop) (hgroup : j.group = i.group) :
    let t := ((s.putHoop s.ctx.gang h r (j.settle s.now)).modCtx (withHoopAccess c h r k)).modCtx (·.dropAccess s.ctx.nextAcc)
    hoopOf t t.ctx.gang h r = some (j.settle s.now) ∧ t.ctx.gq = [] := by
  intro t
  have hctx : t.ctx = (withHoopAccess c h r k s.ctx).dropAccess s.ctx.nextAcc :=
    congrArg (fun x => (withHoopAccess c h r k x).dropAccess s.ctx.nextAcc) (putHoop_ctx _ _ _ _)
  have htask : t.ctx.gang = s.ctx.gang := by rw [hctx, Ctx.dropAccess, withHoopAccess_gang]
  rw [htask, hctx, hoopOf_modCtx, hoopOf_modCtx]
  exact ⟨hoopOf_putHoop hfound ((settle_hoop _ _).trans hhoop) ((settle_group _ _).trans hgroup), dropAccess_withHoopAccess_gq hempty⟩

/-! ## An arrival or a leave behind other accesses -/

theorem blocksAccess_of_hoop {alone : Access → Nat → Bool} {x : Ctx} {a y : Access} (hy : y.ofHoop = true) (ha : ∀ n, a.kind ≠ .knot n) :
    blocksAccess alone x a y = true := by
  rw [blocksAccess]
  cases hkind : a.kind
  case knot n => exact absurd hkind (ha n)
  all_goals simp [hy]

theorem not_orderedNow_of_blocked {idx : Nat} {y a : Access} (hy : s.ctx.gq[idx]? = some y) (hknot : ∀ n, y.kind ≠ .knot n)
    (ha : a ∈ s.ctx.gq.take idx) (hblocks : blocksAccess (loneScope s) s.ctx a y = true) : orderedNow s idx = false := by
  have hany : (s.ctx.gq.take idx).any (fun a => blocksAccess (loneScope s) s.ctx a y) = true := List.any_eq_true.2 ⟨a, ha, hblocks⟩
  rw [orderedNow, hy]
  cases hkind : y.kind
  case knot n => exact absurd hkind (hknot n)
  all_goals simp [hany]

theorem not_performable_of_blocked {idx : Nat} {y a : Access} (hy : s.ctx.gq[idx]? = some y) (hknot : ∀ n, y.kind ≠ .knot n)
    (ha : a ∈ s.ctx.gq.take idx) (hblocks : blocksAccess (loneScope s) s.ctx a y = true) : performable s idx = false := by
  rw [performable, hy, not_orderedNow_of_blocked hy hknot ha hblocks]
  rfl

theorem arrivalsCountBehindTheirAccesses : ArrivalsCountBehindTheirAccesses := by
  intro s c h idx r i kind y a kinds
  refine ⟨fun hempty hh hfound => ⟨?_, ?_⟩, fun hqueued hkind => ?_, fun hy hkind ha hknot => ?_⟩
  · rw [arrival_counts hempty hh hfound]
    obtain ⟨hinst, hgq⟩ := counted (c := c) (k := .arrive h) (j := afterArrival i) hempty hfound rfl rfl
    refine ⟨hinst, hgq, Eq.trans ?_ (hoopRec_withHoopAccess (c := c) (x := s.ctx) hh (.arrive h))⟩
    rw [State.modCtx_ctx, State.modCtx_ctx, putHoop_ctx]
    rfl
  · rw [leave_counts hempty hfound]
    exact counted (j := afterLeave r i) hempty hfound rfl rfl
  · have hcounts : CountsAtHoop kind := by
      rcases List.mem_cons.1 hkind with rfl | hleave
      · exact arrive_countsAtHoop h
      · exact List.mem_singleton.1 hleave ▸ leave_countsAtHoop
    rw [releaseHoop_of_outstanding hqueued hcounts]
    exact ⟨State.modCtx_hub s _, State.modCtx_tamb s _, { hoopAccess c kind with num := s.ctx.nextAcc }, rfl, rfl⟩
  · have hkinds : y.kind = .arrive h ∨ y.kind = .leave h r.scope r.group r.armed r.gen := by simpa [kinds] using hkind
    have hhoop : y.ofHoop = true := by
      rw [Access.ofHoop]
      rcases hkinds with hk | hk <;> rw [hk]
    have hnoknot : ∀ n, y.kind ≠ .knot n := by
      intro n
      rcases hkinds with hk | hk <;> simp [hk]
    exact not_performable_of_blocked hy hnoknot ha (blocksAccess_of_hoop hhoop hknot)

/-! ## O18 -/

/-- Settles O18: the flags by their checks, the hoops by the branches of HARRIVE and HWAIT, and an arrival or a leave by the entry it makes
in the queues. -/
theorem flagsAndHoops : Obligations.FlagsAndHoops :=
  ⟨flagInstructions, hoopInstructions, arrivalsCountBehindTheirAccesses, replaysPassHoops⟩

end Sys2Proof.Proofs
end

section
/-! PROOFS. The checks that loads and stores share (R90, R95, R142, R144, R159, R160, R174, R322, R349), and O20. -/

namespace Sys2Proof.Proofs

open Sys2Proof.Machine Sys2Proof.Claims Sys2Proof.Laws

variable {s : State} {st : Bool} {a : W64} {n : Nat} {act : Act} {need : Need} {t : TlbEntry} {b : BitVec 4} {sz : BitVec 3}
  {cls ord : BitVec 2} {scope : BitVec 3} {i : Instr}

/-! ## Addresses and sizes -/

theorem sizeOf_eq_bytesOf : ∀ sz : BitVec 3, Machine.sizeOf sz = bytesOf sz := by decide

theorem bytesOf_pos : ∀ sz : BitVec 3, 0 < bytesOf sz := by decide

theorem add_scaled_eq_effective {w : Nat} (base : BitVec 5) (off : BitVec w) (size : Nat) :
    rd s (turn s) base + scaled off size = effective s base off size := by
  rw [effective, scaled]
  exact ((word64_add _ _).trans (congrArg (· + _) (word64_toNat _))).symm

theorem add_memOffset_eq_effective (hsz : sz ≠ 7) (base : BitVec 5) (off : BitVec 8) :
    rd s (turn s) base + memOffset sz off = effective s base off (bytesOf sz) := by
  rw [memOffset, if_neg hsz, add_scaled_eq_effective, sizeOf_eq_bytesOf]

theorem toInt_ofNat_of_lt {w v : Nat} (hw : 0 < w) (hv : v < 2 ^ w) :
    (BitVec.ofNat w v).toInt = if 2 ^ (w - 1) ≤ v then (v : Int) - 2 ^ w else v := by
  have hpow : 2 ^ w = 2 * 2 ^ (w - 1) := by rw [← pow_succ']; congr 1; omega
  have hint : ((2 ^ w : Nat) : Int) = 2 ^ w := by push_cast; rfl
  rw [BitVec.toInt_eq_toNat_cond, BitVec.toNat_ofNat, Nat.mod_eq_of_lt hv, hint]
  by_cases h : 2 ^ (w - 1) ≤ v
  · rw [if_neg (by omega), if_pos h]
  · rw [if_pos (by omega), if_neg h]

theorem extend_eq_extended (sz : BitVec 3) {v : Nat} (hv : v < 256 ^ bytesOf sz) : extend sz v = extended sz v := by
  have hlt : v < 2 ^ (8 * bytesOf sz) := by rw [pow_mul]; exact hv
  have hbits : 0 < 8 * bytesOf sz := by have := bytesOf_pos sz; omega
  rw [extend, extended, sizeOf_eq_bytesOf]
  by_cases hsigned : sz.toNat % 2 = 1
  · rw [if_pos hsigned, toInt_ofNat_of_lt hbits hlt]
    by_cases hhigh : 2 ^ (8 * bytesOf sz - 1) ≤ v
    · rw [if_pos hhigh, if_pos ⟨hsigned, hhigh⟩]
    · rw [if_neg hhigh, if_neg (hhigh ·.2)]
      exact BitVec.ofInt_natCast _ _
  · rw [if_neg hsigned, if_neg (hsigned ·.1)]

theorem leNat_read_lt (m : Memory) (a n : Nat) : leNat (m.read a n) < 256 ^ n :=
  lt_of_lt_of_eq (leNat_lt _) (congrArg _ (Memory.read_length m a n))

/-! ## The scratchpad -/

theorem spReadChecks_of_readable (h : SpReadable s a n) : spReadChecks s a n act = act := by
  obtain ⟨hfree, haligned, hfits, hearly, -⟩ := h
  rw [spReadChecks, if_neg (ne_true_of_eq_false hfree), earlyFault_eq_of_none hearly, spOut_eq_false hfits]
  simp [haligned, faultsThen_pass, faultsThen_nil]

theorem spReadChecks_waits (h : wmHolds s.ctx a.toNat n = true) : spReadChecks s a n act = .wait .watermark := if_pos h

theorem spReadChecks_align (hfree : wmHolds s.ctx a.toNat n = false) (h : a.toNat % n ≠ 0) :
    spReadChecks s a n act = .trap 0x05 a := by
  rw [spReadChecks, if_neg (ne_true_of_eq_false hfree)]
  simp [h, faultsThen_hit]

theorem spReadChecks_range (hfree : wmHolds s.ctx a.toNat n = false) (haligned : a.toNat % n = 0) (h : s.ctx.spSize < a.toNat + n) :
    spReadChecks s a n act = .trap 0x08 a := by
  rw [spReadChecks, if_neg (ne_true_of_eq_false hfree)]
  simp [haligned, spOut, h, faultsThen_hit, faultsThen_pass]

theorem spReadChecks_early {w : Nat} (hfree : wmHolds s.ctx a.toNat n = false) (haligned : a.toNat % n = 0)
    (hfits : a.toNat + n ≤ s.ctx.spSize) (h : earlyWord s.ctx a.toNat n = some w) :
    spReadChecks s a n act = .trap 0x0A (BitVec.ofNat 64 w) := by
  rw [spReadChecks, if_neg (ne_true_of_eq_false hfree), spOut_eq_false hfits, earlyFault, h]
  simp [haligned, faultsThen_hit, faultsThen_pass]

theorem spLoad_of_readable (h : SpReadable s a n) : s.ctx.spLoad a.toNat n = leNat (s.ctx.sp.read a.toNat n) := by
  obtain ⟨-, -, -, -, hkept⟩ := h
  rw [Ctx.spLoad, spRead_of_not_lost hkept]

/-! ## Translation -/

theorem globalAccess_of_translate (h : translate s s.ctx.coreId s.ctx.asid need a = .ok t) : globalAccess s need a = .ok t := by
  rw [globalAccess, h]

theorem withElems_of_translations {vas : List W64} {ts : List TlbEntry} {f : State → List Elem → Act}
    (h : globalAccesses s need vas = .ok ts) (hwalks : ∀ va ∈ vas, WalkFree s va) :
    withElems s need vas f = f (s.rememberAll ts) ((vas.zip ts).map (fun p => elem s p.1 p.2)) := by
  have hheld : ¬vas.any (walkHeld s s.ctx.coreId s.ctx.asid) = true := by
    simpa [WalkFree] using hwalks
  rw [withElems, h]
  exact if_neg hheld

theorem withElems_of_translates {f : State → List Elem → Act} (h : Translates s need a t) :
    withElems s need [a] f = f (s.remember t) [elem s a t] := by
  obtain ⟨htranslate, hwalk⟩ := h
  have hone : globalAccesses s need [a] = .ok [t] := by
    rw [globalAccesses, globalAccess_of_translate htranslate]
    rfl
  exact withElems_of_translations hone (List.forall_mem_singleton.2 hwalk)

theorem withElems_of_fault {code : Nat} {f : State → List Elem → Act} (h : translate s s.ctx.coreId s.ctx.asid need a = .error code) :
    withElems s need [a] f = if walkHeld s s.ctx.coreId s.ctx.asid a then .wait .none else .trap code a := by
  rw [withElems, globalAccesses, globalAccess, h]

theorem withElems_of_walk_held {f : State → List Elem → Act} (h : ¬WalkFree s a) : withElems s need [a] f = .wait .none := by
  have hheld : walkHeld s s.ctx.coreId s.ctx.asid a = true := by simpa [WalkFree] using h
  cases htranslate : translate s s.ctx.coreId s.ctx.asid need a
  case error code => rw [withElems_of_fault htranslate, if_pos hheld]
  case ok t =>
    rw [withElems, globalAccesses, globalAccess_of_translate htranslate]
    exact if_pos (by simp [hheld])

/-! ## Bobbins that receive -/

theorem readTarget_of_receives {bb : Bobbin} {wide : Option Bool} (h : Receives bb) (hwide : ∀ w, wide = some w → bb.sz = w) :
    readTarget bb wide = true := by
  obtain ⟨hen, hprod, -⟩ := h
  cases wide
  case none => simp [readTarget, hen, hprod]
  case some w => simp [readTarget, hen, hprod, hwide w rfl]

theorem room_of_receives {bb : Bobbin} (h : Receives bb) : bb.room = true := decide_eq_true h.2.2

/-! ## LD and LDLIT -/

/-- LD at an address (R349). -/
def loadAct (dst : BitVec 5) (sz : BitVec 3) (a : W64) (s : State) (c : Cluster) : Act :=
  let bad := s.ctx.spLost a.toNat (Machine.sizeOf sz)
  let v := if bad then BitVec.allOnes 64 else extend sz (s.ctx.spLoad a.toNat (Machine.sizeOf sz))
  spReadChecks s a (Machine.sizeOf sz) (.go ((s.writeAt 6 (.scalar c dst.toNat v)).abortAt 6 bad))

theorem exec_ld_loadAct {dst base : BitVec 5} {off : BitVec 8} :
    exec (.ld st dst base sz cls off) s =
      issue (.ld st dst base sz cls off) (fun s c => loadAct dst sz (rd s c base + memOffset sz off) s c) s := by
  rw [exec_ld]; rfl

theorem loadAct_of_readable {dst : BitVec 5} {c : Cluster} (h : SpReadable s a (bytesOf sz)) :
    loadAct dst sz a s c = .go (s.writeAt 6 (.scalar c dst.toNat (extended sz (leNat (s.ctx.sp.read a.toNat (bytesOf sz)))))) := by
  have hkept : s.ctx.spLost a.toNat (bytesOf sz) = false := h.2.2.2.2
  simp only [loadAct, sizeOf_eq_bytesOf, hkept, Bool.false_eq_true, if_false, State.abortAt]
  rw [spReadChecks_of_readable h, spLoad_of_readable h, extend_eq_extended sz (leNat_read_lt _ _ _)]

theorem size_of_valid_ld {dst base : BitVec 5} {off : BitVec 8} (h : Valid (.ld st dst base sz cls off) s) : sz ≠ 7 := by
  have hlimits := valid_iff.1 h
  simp only [limits, List.forall_mem_cons, decide_eq_true_eq] at hlimits
  obtain ⟨-, -, hsize, -⟩ := hlimits
  rintro rfl
  exact absurd hsize (by decide)

theorem completes_ld {dst base : BitVec 5} {off : BitVec 8} (hvalid : Valid (.ld st dst base sz cls off) s)
    (h : SpReadable s (effective s base off (bytesOf sz)) (bytesOf sz)) :
    Scalar (.ld st dst base sz cls off) s 6 dst
      (extended sz (leNat (s.ctx.sp.read (effective s base off (bytesOf sz)).toNat (bytesOf sz)))) := by
  refine completes_of_issue_go hvalid exec_ld_loadAct ?_
  rw [add_memOffset_eq_effective (size_of_valid_ld hvalid)]
  exact loadAct_of_readable h

/-- LDLIT at an address (R352). -/
def literalAct (dst : BitVec 5) (a : W64) (s : State) (c : Cluster) : Act :=
  if a.toNat % 4 ≠ 0 then .trap 0x05 a
  else
    match codeRead s a 8 with
    | .error e => .trap e a
    | .ok bs =>
      let bad := codeLost s a || codeLost s (a + 4)
      let v := if bad then BitVec.allOnes 64 else BitVec.ofNat 64 (leNat bs)
      let s1 := if bad then (s.fetched a).fetchError (if codeLost s a then a else a + 4) else s.fetched a
      .go ((s1.writeAt 6 (.scalar c dst.toNat v)).abortAt 6 bad)

theorem exec_ldlit_literalAct {dst : BitVec 5} {off : BitVec 20} :
    exec (.ldlit st dst off) s =
      issue (.ldlit st dst off) (fun s c => literalAct dst ((s.ctx.cl.get c).pc + scaled off 4) s c) s := by
  rw [exec_ldlit]; rfl

theorem literalAct_of_read {dst : BitVec 5} {c : Cluster} {bs : List Byte} (haligned : a.toNat % 4 = 0) (hread : codeRead s a 8 = .ok bs)
    (hlow : codeLost s a = false) (hhigh : codeLost s (a + 4) = false) :
    literalAct dst a s c = .go ((s.fetched a).writeAt 6 (.scalar c dst.toNat (BitVec.ofNat 64 (leNat bs)))) := by
  rw [literalAct, if_neg (not_not.2 haligned), hread]
  simp only [hlow, hhigh, Bool.or_self, Bool.false_eq_true, if_false, State.abortAt]

theorem scalarLoadsLandAfterSixCycles : ScalarLoadsLandAfterSixCycles :=
  fun _ _ _ _ _ _ _ _ => ⟨completes_ld, fun _ hvalid haligned hread hlow hhigh =>
    completes_of_issue_go hvalid exec_ldlit_literalAct (literalAct_of_read haligned hread hlow hhigh)⟩

/-! ## LDB -/

/-- The bytes of an LDB: the slot's for SZ 7. -/
def slotSize (bb : Bobbin) (sz : BitVec 3) : Nat := if sz = 7 then (if bb.sz then 256 else 8) else bytesOf sz

section Receiving

variable {c : Cluster} (hreceives : Receives (s.ctx.bobbin b.toNat)) (hwide : sz ≠ 7 → (s.ctx.bobbin b.toNat).sz = false)

include hreceives hwide

theorem ldbAct_of_receives (sp : Bool) :
    ldbAct i b a sp sz cls ord scope s c =
      if sp then
        spReadChecks s a (slotSize (s.ctx.bobbin b.toNat) sz)
          (.go (((s.modCtx (·.reserve b.toNat)).writeAt 6 (.deliver b.toNat (s.ctx.bobbin b.toNat).nextId
            (if s.ctx.spLost a.toNat (slotSize (s.ctx.bobbin b.toNat) sz) then BitVec.allOnes 2048
             else slotOf sz (s.ctx.spRead a.toNat (slotSize (s.ctx.bobbin b.toNat) sz))))).abortAt 6
              (s.ctx.spLost a.toNat (slotSize (s.ctx.bobbin b.toNat) sz))))
      else if a.toNat % slotSize (s.ctx.bobbin b.toNat) sz ≠ 0 then .trap 0x05 a
      else
        withElems s .read [a] (fun s1 es =>
          .go ((s1.modCtx (·.reserve b.toNat)).enqueue
            { num := 0, loadQ := true, issuer := c, kind := .load b.toNat (s.ctx.bobbin b.toNat).nextId sz, elems := es,
              size := slotSize (s.ctx.bobbin b.toNat) sz, data := 0, cls := some cls, ord := ord, scope := scope, seen := false })) := by
  have htarget : readTarget (s.ctx.bobbin b.toNat) (ldbWide sz) = true := by
    refine readTarget_of_receives hreceives fun w hw => ?_
    rw [ldbWide] at hw
    split at hw
    · exact absurd hw (by simp)
    case isFalse hsz => exact (hwide hsz).trans (Option.some.inj hw)
  have hsize : (if sz = 7 then (s.ctx.bobbin b.toNat).slotBytes else Machine.sizeOf sz) = slotSize (s.ctx.bobbin b.toNat) sz := by
    rw [sizeOf_eq_bytesOf, slotSize, Bobbin.slotBytes]
  simp only [ldbAct, htarget, room_of_receives hreceives, hsize, Bool.not_true, Bool.false_eq_true, if_false]

theorem ldbAct_scratchpad (h : SpReadable s a (slotSize (s.ctx.bobbin b.toNat) sz)) :
    ldbAct i b a true sz cls ord scope s c = .go ((s.modCtx (·.reserve b.toNat)).writeAt 6 (.deliver b.toNat (s.ctx.bobbin b.toNat).nextId
      (slotOf sz (s.ctx.sp.read a.toNat (slotSize (s.ctx.bobbin b.toNat) sz))))) := by
  have hkept : s.ctx.spLost a.toNat (slotSize (s.ctx.bobbin b.toNat) sz) = false := h.2.2.2.2
  rw [ldbAct_of_receives hreceives hwide, if_pos rfl, spReadChecks_of_readable h]
  simp only [hkept, Bool.false_eq_true, if_false, State.abortAt, spRead_of_not_lost hkept]

theorem ldbAct_global (haligned : a.toNat % slotSize (s.ctx.bobbin b.toNat) sz = 0) (h : Translates s .read a t) :
    ldbAct i b a false sz cls ord scope s (turn s) =
      .go (((s.remember t).modCtx (·.reserve b.toNat)).enqueue
        (access s true (.load b.toNat (s.ctx.bobbin b.toNat).nextId sz) [elem s a t] (slotSize (s.ctx.bobbin b.toNat) sz) 0 (some cls) ord
          scope)) := by
  rw [ldbAct_of_receives hreceives hwide, if_neg Bool.false_ne_true, if_neg (not_not.2 haligned), withElems_of_translates h]
  rfl

end Receiving

theorem add_memOffset_eq_effective_of_slot (base : BitVec 5) (off : BitVec 8) :
    rd s (turn s) base + memOffset sz off = effective s base off (if sz = 7 then 8 else bytesOf sz) := by
  rw [memOffset, add_scaled_eq_effective, sizeOf_eq_bytesOf]

theorem slotOf_eq (bs : List Byte) (hbs : sz ≠ 7 → leNat bs < 256 ^ bytesOf sz) :
    slotOf sz bs = if sz = 7 then ofImage bs else (extended sz (leNat bs)).setWidth 2048 := by
  rw [slotOf]
  split
  · rfl
  case isFalse hsz => rw [extend_eq_extended sz (hbs hsz)]; exact BitVec.ofNat_toNat _ _

theorem bobbinLoadsReserveASlot : BobbinLoadsReserveASlot := by
  intro s st b base sz cls ord scope off t bb n a hreceives hwide
  refine ⟨fun hvalid h => completes_of_issue_go hvalid exec_ldb ?_, fun hvalid haligned h => completes_of_issue_go hvalid exec_ldb ?_,
    fun hvalid haligned h => completes_of_issue_go hvalid exec_ldbOrdered (ldbAct_global hreceives hwide haligned h)⟩
  · have hbytes : sz ≠ 7 → leNat (s.ctx.sp.read a.toNat n) < 256 ^ bytesOf sz := fun hsz => by
      rw [show n = bytesOf sz from if_neg hsz]
      exact leNat_read_lt _ _ _
    rw [add_memOffset_eq_effective_of_slot, ← slotOf_eq _ hbytes]
    exact ldbAct_scratchpad hreceives hwide h
  · rw [add_memOffset_eq_effective_of_slot]
    exact ldbAct_global hreceives hwide haligned h

/-! ## O20 -/

/-- Settles O20: the checks of each form pass, and then it makes its write or its access. -/
theorem loadsLandOrReserveASlot : Obligations.LoadsLandOrReserveASlot := ⟨scalarLoadsLandAfterSixCycles, bobbinLoadsReserveASlot⟩

end Sys2Proof.Proofs
end

section
/-! PROOFS. Stores, gathers and scatters (R351, R406 to R408), and O21. -/

namespace Sys2Proof.Proofs

open Sys2Proof.Machine Sys2Proof.Claims Sys2Proof.Laws

variable {s : State} {st : Bool} {a : W64} {n : Nat} {t : TlbEntry} {b : BitVec 4} {sz : BitVec 3} {cls ord : BitVec 2}
  {scope : BitVec 3} {i : Instr} {data : VReg} {pre : State → State}

/-! ## Stores -/

theorem storeAct_scratchpad {c : Cluster} (haligned : a.toNat % n = 0) (hfits : a.toNat + n ≤ s.ctx.spSize) :
    storeAct s c a n data true cls ord scope pre =
      .go ((pre s).writeAt 6 (.spStore a.toNat (natBytes data.toNat n) s.ctx.sr.dbgt)) := by
  simp [storeAct, haligned, spOut_eq_false hfits, faultsThen_pass, faultsThen_nil]

theorem storeAct_global (haligned : a.toNat % n = 0) (h : Translates s .write a t) :
    storeAct s (turn s) a n data false cls ord scope pre =
      .go ((pre (s.remember t)).enqueue (access s false .store [elem s a t] n data (some cls) ord scope)) := by
  rw [storeAct, if_neg Bool.false_ne_true, withElems_of_translates h]
  simp only [haligned, ne_eq, not_true_eq_false, decide_false, Bool.false_and, faultsThen_pass, faultsThen_nil]
  rfl

theorem size_of_valid_st {dst base : BitVec 5} {sp : Bool} {off : BitVec 8} (h : Valid (.st st dst base sp sz cls off) s) : sz ≠ 7 := by
  have hlimits := valid_iff.1 h
  simp only [limits, List.forall_mem_cons, decide_eq_true_eq] at hlimits
  obtain ⟨-, hsize, -⟩ := hlimits
  rintro rfl
  exact absurd hsize (by decide)

theorem toNat_ofW64 (v : W64) : (ofW64 v).toNat = v.toNat := by
  rw [ofW64_eq_setWidth, BitVec.toNat_setWidth_of_le (by omega)]

theorem stbAct_of_slot {c : Cluster} {sp : Bool} (hen : (s.ctx.bobbin b.toNat).en = true) (hcons : (s.ctx.bobbin b.toNat).cons.toNat = cnum c)
    (hcount : 0 < (s.ctx.bobbin b.toNat).count) :
    stbAct i b a sp cls ord scope s c =
      storeAct s c a (if (s.ctx.bobbin b.toNat).sz then 256 else 8) (s.ctx.slotValue b.toNat (s.ctx.bobbin b.toNat).take) sp cls ord scope
        (fun t => (t.readsNext b.toNat).writeAt 1 (.take b.toNat 1)) := by
  have hgood : ¬(!(s.ctx.bobbin b.toNat).en || (s.ctx.bobbin b.toNat).cons.toNat != cnum c) = true := by simp [hen, hcons]
  exact (if_neg hgood).trans (if_neg (Nat.pos_iff_ne_zero.1 hcount))

theorem storesLandOrEnterTheQueue : StoresLandOrEnterTheQueue := by
  intro s st dst base sz cls ord scope off o12 b t
  constructor
  · intro n a v
    have haddr : ∀ {sp : Bool}, Valid (.st st dst base sp sz cls off) s → rd s (turn s) base + memOffset sz off = a :=
      fun hvalid => add_memOffset_eq_effective (size_of_valid_st hvalid) base off
    refine ⟨fun hvalid haligned hfits => completes_of_issue_go hvalid exec_st ?_,
      fun hvalid haligned h => completes_of_issue_go hvalid exec_st ?_,
      fun hvalid haligned h => completes_of_issue_go hvalid exec_stOrdered ?_⟩
    · rw [haddr hvalid, sizeOf_eq_bytesOf, storeAct_scratchpad haligned hfits, toNat_ofW64]
      rfl
    · rw [haddr hvalid, sizeOf_eq_bytesOf]
      exact storeAct_global haligned h
    · rw [sizeOf_eq_bytesOf]
      exact storeAct_global haligned h
  · intro bb n a v hen hcons hcount
    refine ⟨fun hvalid haligned hfits => completes_of_issue_go hvalid exec_stb ?_,
      fun hvalid haligned h => completes_of_issue_go hvalid exec_stb ?_,
      fun hvalid haligned h => completes_of_issue_go hvalid exec_stbOrdered ?_⟩
    · rw [stbAct_of_slot hen hcons hcount, add_scaled_eq_effective]
      exact storeAct_scratchpad haligned hfits
    · rw [stbAct_of_slot hen hcons hcount, add_scaled_eq_effective]
      exact storeAct_global haligned h
    · rw [stbAct_of_slot hen hcons hcount]
      exact storeAct_global haligned h

/-! ## The elements of a gather or scatter -/

theorem elementAddrs_eq_elementsAt (base : BitVec 5) (index : VReg) (sh : BitVec 3) :
    elementAddrs (rd s (turn s) base) index sh = elementsAt s base index sh :=
  List.map_congr_left fun _ _ => ((word64_add _ _).trans (congrArg (· + _) (word64_toNat _))).symm

section Elements

variable {vas : List W64} {e : Nat} {act : Act} {rest : List (Bool × Nat × W64)} (haligned : ∀ va ∈ vas, va.toNat % e = 0)

include haligned

theorem find?_misaligned : vas.find? (fun a => decide (a.toNat % e ≠ 0)) = none :=
  List.find?_eq_none.2 fun va hva => by simp [haligned va hva]

theorem faultsThen_elementFaults_global : faultsThen (elementFaults s vas e false ++ rest) act = faultsThen rest act := by
  rw [elementFaults, find?_misaligned haligned]
  rfl

theorem faultsThen_elementFaults_scratchpad (hfits : ∀ va ∈ vas, va.toNat + e ≤ s.ctx.spSize) :
    faultsThen (elementFaults s vas e true ++ rest) act = faultsThen rest act := by
  have hin : vas.find? (fun a => spOut s.ctx a.toNat e) = none :=
    List.find?_eq_none.2 fun va hva => by simp [spOut_eq_false (hfits va hva)]
  rw [elementFaults, find?_misaligned haligned, hin]
  rfl

end Elements

theorem firstEarly_of_readable {vas : List W64} {e : Nat} (h : ∀ va ∈ vas, SpReadable s va e) : firstEarly s vas e = (false, 0, 0) := by
  have hnone : vas.findSome? (fun a => earlyWord s.ctx a.toNat e) = none :=
    List.findSome?_eq_none_iff.2 fun va hva => (h va hva).2.2.2.1
  rw [firstEarly, hnone]

/-! ## LDG -/

/-- The slot of indices that a gather takes, and the one that it reserves for its data. -/
def gatherTakes (bd bi : BitVec 4) (u : State) : State :=
  ((u.readsNext bi.toNat).modCtx (·.reserve bd.toNat)).writeAt 1 (.take bi.toNat 1)

/-- The data of a gather from the scratchpad. -/
def gathered (s : State) (vas : List W64) (e : Nat) : VReg :=
  ofLanes (fun i => if s.ctx.spLost (vas.getD i 0).toNat e then 0xFFFFFFFF else BitVec.ofNat 32 (s.ctx.spLoad (vas.getD i 0).toNat e))

/-- LDG at 64 addresses (R351). -/
def gatherAct (i : Instr) (bd bi : BitVec 4) (cls : BitVec 2) (e : Nat) (sp : Bool) (vas : List W64) (s : State) (c : Cluster) : Act :=
  let d := s.ctx.bobbin bd.toNat
  let x := s.ctx.bobbin bi.toNat
  if !x.en || x.cons.toNat != cnum c || !x.sz || !readTarget d (some true) then illegalWord i
  else if x.count = 0 then .wait (sourceWait x)
  else if !d.room then .wait .bobbinRoom
  else if sp && vas.any (fun a => wmHolds s.ctx a.toNat e) then .wait .watermark
  else
    faultsThen (elementFaults s vas e sp ++ (if sp then [firstEarly s vas e] else []))
      (if sp then
        .go (((gatherTakes bd bi s).writeAt 6 (.deliver bd.toNat d.nextId (gathered s vas e))).abortAt 6
          (vas.any (fun a => s.ctx.spLost a.toNat e)))
      else
        withElems s .read vas (fun s1 es =>
          .go ((gatherTakes bd bi s1).enqueue
            { num := 0, loadQ := true, issuer := c, kind := .gather bd.toNat d.nextId, elems := es, size := e, data := 0,
              cls := some cls, ord := 0, scope := 0, seen := false })))

theorem exec_ldg_gatherAct {bd bi : BitVec 4} {base : BitVec 5} {esz : BitVec 2} {sh : BitVec 3} {sp : Bool} :
    exec (.ldg st bd bi base cls esz sh sp) s = issue (.ldg st bd bi base cls esz sh sp) (fun s c =>
      gatherAct (.ldg st bd bi base cls esz sh sp) bd bi cls (2 ^ esz.toNat) sp (elementAddrs (rd s c base) (nextSlot s bi) sh) s c) s := by
  rw [exec_ldg]; rfl

section Gather

variable {bd bi : BitVec 4} {e : Nat} {vas : List W64} (hindices : Takeable s bi 1) (hreceives : Receives (s.ctx.bobbin bd.toNat))
  (hwide : (s.ctx.bobbin bd.toNat).sz = true) (haligned : ∀ va ∈ vas, va.toNat % e = 0)

include hindices hreceives hwide

theorem gather_checks_pass :
    (!(s.ctx.bobbin bi.toNat).en || (s.ctx.bobbin bi.toNat).cons.toNat != cnum (turn s) || !(s.ctx.bobbin bi.toNat).sz ||
      !readTarget (s.ctx.bobbin bd.toNat) (some true)) = false := by
  obtain ⟨hen, hcons, hsz, -⟩ := hindices
  have htarget : readTarget (s.ctx.bobbin bd.toNat) (some true) = true :=
    readTarget_of_receives hreceives fun w hw => hwide.trans (Option.some.inj hw)
  simp [hen, hcons, hsz, htarget]

include haligned

theorem gatherAct_scratchpad (h : ∀ va ∈ vas, SpReadable s va e) :
    gatherAct i bd bi cls e true vas s (turn s) =
      .go ((gatherTakes bd bi s).writeAt 6 (.deliver bd.toNat (s.ctx.bobbin bd.toNat).nextId (gathered s vas e))) := by
  have hcount : (s.ctx.bobbin bi.toNat).count ≠ 0 := Nat.pos_iff_ne_zero.1 hindices.2.2.2
  have hfree : vas.any (fun a => wmHolds s.ctx a.toNat e) = false := List.any_eq_false.2 fun va hva => by simp [(h va hva).1]
  have hkept : vas.any (fun a => s.ctx.spLost a.toNat e) = false := List.any_eq_false.2 fun va hva => by simp [(h va hva).2.2.2.2]
  simp only [gatherAct, gather_checks_pass hindices hreceives hwide, hcount, room_of_receives hreceives, hfree, hkept, if_true, if_false,
    Bool.true_and, Bool.not_true, Bool.false_eq_true]
  rw [faultsThen_elementFaults_scratchpad haligned (fun va hva => (h va hva).2.2.1), firstEarly_of_readable h]
  rfl

theorem gatherAct_global {ts : List TlbEntry} (h : globalAccesses s .read vas = .ok ts) (hwalks : ∀ va ∈ vas, WalkFree s va) :
    gatherAct i bd bi cls e false vas s (turn s) =
      .go ((gatherTakes bd bi (s.rememberAll ts)).enqueue
        (access s true (.gather bd.toNat (s.ctx.bobbin bd.toNat).nextId) ((vas.zip ts).map (fun p => elem s p.1 p.2)) e 0 (some cls) 0 0)) := by
  have hcount : (s.ctx.bobbin bi.toNat).count ≠ 0 := Nat.pos_iff_ne_zero.1 hindices.2.2.2
  simp only [gatherAct, gather_checks_pass hindices hreceives hwide, hcount, room_of_receives hreceives, if_false,
    Bool.false_and, Bool.not_true, Bool.false_eq_true]
  rw [faultsThen_elementFaults_global haligned, faultsThen_nil, withElems_of_translations h hwalks]
  rfl

end Gather

theorem lane_gathered {vas : List W64} {e k : Nat} (hlength : vas.length = 64) (h : ∀ va ∈ vas, SpReadable s va e) (hk : k < 64) :
    lane (gathered s vas e) k = BitVec.ofNat 32 (leNat (s.ctx.sp.read (vas.getD k 0).toNat e)) := by
  have hmem : vas.getD k 0 ∈ vas := by
    rw [List.getD_eq_getElem _ _ (by omega)]
    exact List.getElem_mem _
  have hkept : s.ctx.spLost (vas.getD k 0).toNat e = false := (h _ hmem).2.2.2.2
  rw [gathered, lane_ofLanes _ hk, if_neg (ne_true_of_eq_false hkept), spLoad_of_readable (h _ hmem)]

/-! ## STSC -/

/-- The slots that a scatter takes. -/
def scatterTakes (bd bi : BitVec 4) (u : State) : State :=
  (((u.readsNext bd.toNat).readsNext bi.toNat).writeAt 1 (.take bd.toNat 1)).writeAt 1 (.take bi.toNat 1)

theorem readsNext_now (u : State) (b : Nat) : (u.readsNext b).now = u.now := by
  rw [State.readsNext, State.readsLost]
  split <;> rfl

theorem scatterTakes_now (bd bi : BitVec 4) (u : State) : (scatterTakes bd bi u).now = u.now := by
  rw [scatterTakes, State.writeAt_now, State.writeAt_now, readsNext_now, readsNext_now]

/-- STSC at 64 addresses (R408). -/
def scatterAct (i : Instr) (bd bi : BitVec 4) (cls : BitVec 2) (e : Nat) (sp : Bool) (vas : List W64) (data : VReg) (s : State) (c : Cluster) :
    Act :=
  let d := s.ctx.bobbin bd.toNat
  let x := s.ctx.bobbin bi.toNat
  let needed := if bd = bi then 2 else 1
  let usable := fun (b : Bobbin) => b.en && b.cons.toNat == cnum c && b.sz
  if !usable d || !usable x then illegalWord i
  else if d.count < needed then .wait (sourceWait d)
  else if x.count < needed then .wait (sourceWait x)
  else
    faultsThen (elementFaults s vas e sp)
      (if sp then
        .go ((List.range 64).foldl (fun t i =>
          t.writeAt 6 (.spStore (vas.getD i 0).toNat (natBytes (lane data i).toNat e) s.ctx.sr.dbgt)) (scatterTakes bd bi s))
       else
        withElems s .write vas (fun s1 es =>
          .go ((scatterTakes bd bi s1).enqueue
            { num := 0, loadQ := false, issuer := c, kind := .scatter, elems := es, size := e, data := data,
              cls := some cls, ord := 0, scope := 0, seen := false })))

theorem exec_stsc_scatterAct {bd bi : BitVec 4} {base : BitVec 5} {esz : BitVec 2} {sh : BitVec 3} {sp : Bool} :
    exec (.stsc st bd bi base cls esz sh sp) s = issue (.stsc st bd bi base cls esz sh sp) (fun s c =>
      scatterAct (.stsc st bd bi base cls esz sh sp) bd bi cls (2 ^ esz.toNat) sp (elementAddrs (rd s c base) (nextSlot s bi) sh)
        (nextSlot s bd) s c) s := by
  rw [exec_stsc]; rfl

theorem scatterAct_of_takeable {bd bi : BitVec 4} {e : Nat} {sp : Bool} {vas : List W64} (hdata : Takeable s bd (if bd = bi then 2 else 1))
    (hindices : Takeable s bi (if bd = bi then 2 else 1)) :
    scatterAct i bd bi cls e sp vas data s (turn s) =
      faultsThen (elementFaults s vas e sp)
        (if sp then
          .go ((List.range 64).foldl (fun t i =>
            t.writeAt 6 (.spStore (vas.getD i 0).toNat (natBytes (lane data i).toNat e) s.ctx.sr.dbgt)) (scatterTakes bd bi s))
         else
          withElems s .write vas (fun s1 es =>
            .go ((scatterTakes bd bi s1).enqueue (access s false .scatter es e data (some cls) 0 0)))) := by
  obtain ⟨hden, hdcons, hdsz, hdcount⟩ := hdata
  obtain ⟨hxen, hxcons, hxsz, hxcount⟩ := hindices
  have husable : ¬(!((s.ctx.bobbin bd.toNat).en && (s.ctx.bobbin bd.toNat).cons.toNat == cnum (turn s) && (s.ctx.bobbin bd.toNat).sz) ||
      !((s.ctx.bobbin bi.toNat).en && (s.ctx.bobbin bi.toNat).cons.toNat == cnum (turn s) && (s.ctx.bobbin bi.toNat).sz)) = true := by
    simp [hden, hdcons, hdsz, hxen, hxcons, hxsz]
  exact (if_neg husable).trans ((if_neg (Nat.not_lt.2 hdcount)).trans (if_neg (Nat.not_lt.2 hxcount)))

theorem elementsAt_length (base : BitVec 5) (index : VReg) (sh : BitVec 3) : (elementsAt s base index sh).length = 64 := by
  rw [elementsAt, List.length_map, List.length_range]

theorem gathersAndScatters : GathersAndScatters := by
  intro s st bd bi base cls esz sh ts e d x vas haligned
  have haddrs : elementAddrs (rd s (turn s) base) (nextSlot s bi) sh = vas := elementAddrs_eq_elementsAt _ _ _
  refine ⟨fun hindices hreceives hwide => ⟨fun hvalid h => ⟨gathered s vas e, fun k hk => ?_, ?_⟩, fun hvalid h hwalks => ?_⟩,
    fun hdata hindices => ?_⟩
  · exact lane_gathered (elementsAt_length _ _ _) h hk
  · refine completes_of_issue_go hvalid exec_ldg_gatherAct ?_
    rw [haddrs]
    exact gatherAct_scratchpad hindices hreceives hwide haligned h
  · refine completes_of_issue_go hvalid exec_ldg_gatherAct ?_
    rw [haddrs]
    exact gatherAct_global hindices hreceives hwide haligned h hwalks
  · intro data taken
    refine ⟨fun hvalid hfits => completes_of_issue_go hvalid exec_stsc_scatterAct ?_,
      fun hvalid h hwalks => completes_of_issue_go hvalid exec_stsc_scatterAct ?_⟩
    · rw [haddrs, scatterAct_of_takeable hdata hindices, ← List.append_nil (elementFaults _ _ _ _),
        faultsThen_elementFaults_scratchpad haligned hfits, faultsThen_nil, if_pos rfl, foldl_writeAt, scatterTakes_now]
      rfl
    · rw [haddrs, scatterAct_of_takeable hdata hindices, ← List.append_nil (elementFaults _ _ _ _),
        faultsThen_elementFaults_global haligned, faultsThen_nil, if_neg Bool.false_ne_true, withElems_of_translations h hwalks]
      rfl

/-! ## O21 -/

/-- Settles O21: the addresses are the statement's own, the checks pass, and then the write or the access is made. -/
theorem storesGathersAndScatters : Obligations.StoresGathersAndScatters := ⟨storesLandOrEnterTheQueue, gathersAndScatters⟩

end Sys2Proof.Proofs
end

section
/-! PROOFS. AMO, CAS, FENCE and KNOT (R182, R184, R321, R333, R340, R348), and O22. -/

namespace Sys2Proof.Proofs

open Sys2Proof.Machine Sys2Proof.Claims Sys2Proof.Laws

variable {s : State} {st w : Bool} {b op : BitVec 4} {base rs new exp : BitVec 5} {ord : BitVec 2} {scope : BitVec 3} {t : TlbEntry}
  {i : Instr} {a : W64} {n : Nat}

/-- An atomic at an address: the bobbin's checks and room when a value returns, ALIGN, then the translation for writing (R321, R333). -/
def atomicAct (i : Instr) (b : BitVec 4) (ret : Bool) (a : W64) (n : Nat) (loadQ : Bool) (kind : AccKind) (data : VReg) (ord : BitVec 2)
    (scope : BitVec 3) (s : State) (c : Cluster) : Act :=
  if ret && !readTarget (s.ctx.bobbin b.toNat) (some false) then illegalWord i
  else if ret && !(s.ctx.bobbin b.toNat).room then .wait .bobbinRoom
  else if a.toNat % n ≠ 0 then .trap 0x05 a
  else
    withElems s .write [a] (fun s1 es =>
      .go ((if ret then s1.modCtx (·.reserve b.toNat) else s1).enqueue
        { num := 0, loadQ := loadQ, issuer := c, kind := kind, elems := es, size := n, data := data, cls := none, ord := ord,
          scope := scope, seen := false }))

theorem exec_amo_atomicAct {ret : Bool} :
    exec (.amo st b ret base rs op w ord scope) s = issue (.amo st b ret base rs op w ord scope) (fun s c =>
      atomicAct (.amo st b ret base rs op w ord scope) b ret (rd s c base) (if w then 8 else 4) (c == .A)
        (.amo (if ret then some (b.toNat, (s.ctx.bobbin b.toNat).nextId) else none) op) (ofW64 (rd s c rs)) ord scope s c) s := by
  rw [exec_amo]; rfl

theorem exec_cas_atomicAct :
    exec (.cas st b base new exp w ord scope) s = issue (.cas st b base new exp w ord scope) (fun s c =>
      atomicAct (.cas st b base new exp w ord scope) b true (rd s c base) (if w then 8 else 4) true
        (.cas b.toNat (s.ctx.bobbin b.toNat).nextId (rd s c exp)) (ofW64 (rd s c new)) ord scope s c) s := by
  rw [exec_cas]; rfl

section Atomic

variable {kind : AccKind} {loadQ : Bool} {data : VReg} (haligned : a.toNat % n = 0)

include haligned

theorem atomicAct_of_no_value (h : Translates s .write a t) :
    atomicAct i b false a n loadQ kind data ord scope s (turn s) =
      .go ((s.remember t).enqueue (access s loadQ kind [elem s a t] n data none ord scope)) := by
  rw [atomicAct, withElems_of_translates h]
  exact (if_neg Bool.false_ne_true).trans ((if_neg Bool.false_ne_true).trans (if_neg (not_not.2 haligned)))

theorem atomicAct_of_value (h : Translates s .write a t) (hreceives : Receives (s.ctx.bobbin b.toNat))
    (hnarrow : (s.ctx.bobbin b.toNat).sz = false) :
    atomicAct i b true a n loadQ kind data ord scope s (turn s) =
      .go (((s.remember t).modCtx (·.reserve b.toNat)).enqueue (access s loadQ kind [elem s a t] n data none ord scope)) := by
  have htarget : readTarget (s.ctx.bobbin b.toNat) (some false) = true :=
    readTarget_of_receives hreceives fun w hw => hnarrow.trans (Option.some.inj hw)
  rw [atomicAct, withElems_of_translates h, htarget, room_of_receives hreceives]
  exact (if_neg Bool.false_ne_true).trans ((if_neg Bool.false_ne_true).trans (if_neg (not_not.2 haligned)))

end Atomic

/-- Settles O22: the checks of an atomic pass and its access is queued; FENCE and KNOT have none. -/
theorem atomicsFencesAndKnotsEnterTheQueues : Obligations.AtomicsFencesAndKnotsEnterTheQueues := by
  intro s st w b op base rs new exp ord scope t n bb a
  refine ⟨fun haligned h => ⟨fun hvalid => ?_, fun hvalid hreceives hnarrow => ?_, fun hvalid hreceives hnarrow => ?_⟩,
    fun hvalid => completes_of_issue_go hvalid exec_fence rfl, fun hvalid hturn => completes_of_issue_go hvalid exec_knot ?_,
    fun hvalid hturn => completes_of_issue_go hvalid exec_knot ?_⟩
  · refine completes_of_issue_go hvalid exec_amo_atomicAct ((atomicAct_of_no_value haligned h).trans ?_)
    rw [ofW64_eq_setWidth]
    rfl
  · refine completes_of_issue_go hvalid exec_amo_atomicAct ((atomicAct_of_value haligned h hreceives hnarrow).trans ?_)
    rw [ofW64_eq_setWidth]
    rfl
  · refine completes_of_issue_go hvalid exec_cas_atomicAct ((atomicAct_of_value haligned h hreceives hnarrow).trans ?_)
    rw [ofW64_eq_setWidth]
    rfl
  · simp only [hturn, access]
    rfl
  · simp only [hturn, access]
    rfl

end Sys2Proof.Proofs
end

section
/-! PROOFS. The commands of the engines with queues at issue (R201, R204, R210, R279, R369 to R373, R391 to R393), and O23. -/

namespace Sys2Proof.Proofs

set_option Elab.async false

open Sys2Proof.Machine Sys2Proof.Claims Sys2Proof.Laws

variable {s u : State} {i : Instr} {st : Bool} {eng w n : Nat} {c : Cluster} {regs : List W64} {cmd : EngCmd} {act : Act}
  {ra rb rc n1 : BitVec 5} {a b v aw : W64} {rs : List (W64 × TlbEntry)}

/-! ## Queues -/

theorem queue_setQueue (e : Engines) (eng : Nat) (q : EngQueue) : (e.setQueue eng q).queue eng = q := by
  unfold Engines.setQueue Engines.queue
  split <;> simp_all

theorem whenRoom_of_room (h : Room s eng) : whenRoom s eng act = act := by
  have hfull : (s.ctx.eng.queue eng).full = false := decide_eq_false (Nat.not_le.2 h.1)
  rw [whenRoom, hfull, if_neg Bool.false_ne_true]

theorem sign_eq (x : Ctx) (c : Cluster) (place : Nat) (bs : List Byte) :
    x.sign c place bs = { x with audit := (x.sign c place bs).audit } := by
  rw [Ctx.sign]
  split <;> rfl

/-- The context once a command has been signed, and taken its place in issue order. -/
theorem signCommand_ctx (s : State) (c : Cluster) (w : Nat) (regs : List W64) :
    (signCommand s c w regs).ctx =
      { s.ctx with nextAcc := s.ctx.nextAcc + 1, audit := (signCommand s c w regs).ctx.audit } := by
  rw [signCommand, State.modCtx_ctx, sign_eq]
  rfl

theorem enterQueue_of_live (hlive : s.ctx.replays = false) :
    enterQueue s c eng w regs cmd = (signCommand s c w regs).modEng (fun e => e.setQueue eng ((e.queue eng).push cmd)) :=
  if_neg (ne_true_of_eq_false hlive)

/-- The engines once a command has entered its queue. -/
theorem enterQueue_eng (hlive : s.ctx.replays = false) :
    (enterQueue s c eng w regs cmd).ctx.eng = s.ctx.eng.setQueue eng ((s.ctx.eng.queue eng).push cmd) := by
  have heng : (signCommand s c w regs).ctx.eng = s.ctx.eng := by rw [signCommand_ctx]
  rw [enterQueue_of_live hlive, State.modEng, State.modCtx_ctx, heng]

/-- An instruction that goes on with its command in the queue issues that command, whatever translations it leaves behind. -/
theorem commands_of_enterQueue {f : State → Cluster → Act} {es : List Elem} {pk : BitVec 512} {s1 : State} (hvalid : Valid i s)
    (hexec : exec i s = issue i f s) (hwalk : WalkedOnly s s1) (hlive : s.ctx.replays = false)
    (hact : f s (turn s) = .go (enterQueue s1 (turn s) eng (encode i) regs { engCmd s (encode i) a b aw with elems := es, packet := pk })) :
    Commands i s eng a b aw es pk := by
  have hctx := hwalk.ctx_eq
  have hlive1 : s1.ctx.replays = false := by rw [hctx, hlive]
  refine ⟨_, { engCmd s (encode i) a b aw with elems := es, packet := pk, idx := (s.ctx.eng.queue eng).next % 2 ^ 24 },
    completes_of_issue_go hvalid hexec hact, ?_, ?_, rfl, rfl, rfl, rfl, rfl, rfl, rfl, rfl, ?_, ?_, ?_, ?_⟩
  · rw [enterQueue_eng hlive1, queue_setQueue, hctx]; rfl
  · rw [enterQueue_eng hlive1, queue_setQueue, hctx]; rfl
  · rw [enterQueue_of_live hlive1, State.modEng, State.modCtx_ctx, signCommand_ctx, hctx]
  · rw [enterQueue_of_live hlive1, State.modEng, State.modCtx_ctx, signCommand_ctx, hctx]
  · rw [enterQueue_of_live hlive1]; exact (congrArg State.mem hwalk :)
  · rw [enterQueue_of_live hlive1]; exact (congrArg State.dcache hwalk :)

/-! ## Rows -/

theorem withRows_of_translated {want : List (W64 × List Need)} {f : List (W64 × TlbEntry) → Act} (h : translateRows s want = .ok rs)
    (hwalks : ∀ r ∈ want, WalkFree s r.1) : withRows s want f = f rs := by
  have hheld : ¬want.any (fun r => walkHeld s s.ctx.coreId s.ctx.asid r.1) = true := by
    simpa [WalkFree] using hwalks
  rw [withRows, h]
  exact if_neg hheld

theorem faultsThen_of_none {fs : List (Bool × Nat × W64)} (h : ∀ f ∈ fs, f.1 = false) : faultsThen fs act = act := by
  obtain ⟨hact, -⟩ | ⟨f, hf, hbad, -⟩ := faultsThen_cases fs act
  · exact hact
  · exact absurd hbad (ne_true_of_eq_false (h f hf))

theorem rowsAt_map_eq_rows (needs : List Need) : (rowsAt a n).map (fun v => (v, needs)) = rows a n needs := by
  rw [rowsAt, List.map_map]
  rfl

theorem cutCommand_enters {source log : Bool} (hroom : Room s 2) (hword : aw.toNat % 8 = 0) (hrow : a.toNat % 1024 = 0)
    (hsource : source = true → b.toNat % 1024 = 0)
    (hrows : RowsOk s (rows a n (if log then [.read, .write] else [.write]) ++ if source then rows b n [.read] else []) rs n log log) :
    cutCommand i s c (a, b, aw) n source log =
      .go (enterQueue (s.rememberAll (rs.map (·.2))) c 2 (encode i) [a, b, aw]
        { engCmd s (encode i) a b aw with elems := elems s rs }) := by
  obtain ⟨htranslate, hwalks, hfaults⟩ := hrows
  have haligned : (source && b.toNat % 1024 != 0) = false := by
    cases source
    case false => rfl
    case true => simp [hsource rfl]
  rw [cutCommand, whenRoom_of_room hroom, rowsAt_map_eq_rows, rowsAt_map_eq_rows]
  simp only [hword, hrow, haligned, ne_eq, not_true_eq_false, decide_false, faultsThen_pass, faultsThen_nil]
  rw [withRows_of_translated htranslate hwalks, faultsThen_of_none hfaults]
  rfl

theorem rowCommandsEnterTheCutworkQueue : RowCommandsEnterTheCutworkQueue := by
  intro s st ra rb rc n1 op n2 rs a b aw hroom hword hrow
  have hwalked := rememberAll_walkedOnly s (rs.map (·.2))
  refine ⟨fun hvalid hsource hrows => ?_, fun hvalid hrows => ?_, fun hvalid hsource hrows => ?_⟩
  · exact commands_of_enterQueue hvalid exec_rowcp hwalked hroom.2 (cutCommand_enters hroom hword hrow (fun _ => hsource) hrows)
  · refine commands_of_enterQueue hvalid exec_rowfill hwalked hroom.2
      (cutCommand_enters hroom hword hrow Bool.noConfusion ?_)
    rw [if_neg Bool.false_ne_true, if_neg Bool.false_ne_true, List.append_nil]
    exact hrows
  · exact commands_of_enterQueue hvalid exec_rowlog hwalked hroom.2 (cutCommand_enters hroom hword hrow (fun _ => hsource) hrows)

/-! ## Near-bank commands -/

/-- The lines of a vector that a near-bank command reads. -/
def vectorLines (vec : Option W64) : List (W64 × List Need) :=
  match vec with
  | some v => (List.range 8).map (fun k => (v + BitVec.ofNat 64 (64 * k), [Need.read]))
  | none => []

theorem couchCommand_eq (vec : Option W64) (align : Nat) (enter : State → Cluster → Nat → List W64 → EngCmd → State) :
    couchCommand i s c a aw vec align regs enter = whenRoom s 3
      (faultsThen
        [(aw.toNat % 8 ≠ 0, 0x05, aw), ((vec.map (fun v => v.toNat % 64 != 0)).getD false, 0x05, vec.getD 0), (a.toNat % align ≠ 0, 0x14, a)]
        (withRows s ((a, [Need.read]) :: vectorLines vec) (fun rows =>
          match rows with
          | [] => illegalWord i
          | page :: _ =>
            if !computePage s page.2 true then .trap 0x16 a
            else .go (enter (s.rememberAll (rows.map (·.2))) c (encode i) regs
              { engCmd s (encode i) a (vec.getD 0) aw with elems := rows.map (fun r => elemOf s r.1 r.2) })))) := rfl

theorem couchCommand_enters {vec : Option W64} {align : Nat} {p : W64 × TlbEntry} {ls : List (W64 × TlbEntry)}
    {enter : State → Cluster → Nat → List W64 → EngCmd → State} (hroom : Room s 3) (hword : aw.toNat % 8 = 0)
    (hvec : ∀ v, vec = some v → v.toNat % 64 = 0) (halign : a.toNat % align = 0)
    (htranslate : translateRows s ((a, [.read]) :: vectorLines vec) = .ok (p :: ls))
    (hwalks : ∀ r ∈ (a, [Need.read]) :: vectorLines vec, WalkFree s r.1) (hpage : computePage s p.2 true = true) :
    couchCommand i s c a aw vec align regs enter =
      .go (enter (s.rememberAll ((p :: ls).map (·.2))) c (encode i) regs
        { engCmd s (encode i) a (vec.getD 0) aw with elems := elems s (p :: ls) }) := by
  have hvector : (vec.map (fun v => v.toNat % 64 != 0)).getD false = false := by
    cases vec
    case none => rfl
    case some v => simp [hvec v rfl]
  rw [couchCommand_eq, whenRoom_of_room hroom]
  simp only [hword, halign, hvector, ne_eq, not_true_eq_false, decide_false, faultsThen_pass, faultsThen_nil]
  rw [withRows_of_translated htranslate hwalks]
  simp only [hpage, Bool.not_true, Bool.false_eq_true, if_false]
  rfl

theorem enterNbread_of_live (hlive : s.ctx.replays = false) : enterNbread s c w regs cmd = enterQueue s c 3 w regs cmd :=
  if_neg (ne_true_of_eq_false hlive)

theorem nearBankCommandsEnterTheCouchingQueue : NearBankCommandsEnterTheCouchingQueue := by
  intro s st h ra rb rc b p ls a v aw hroom hword hpage hwalk
  refine ⟨fun htranslate => ?_, fun hvalid hvector hlines htranslate => ?_⟩
  · have hwalked := rememberAll_walkedOnly s ([p].map (·.2))
    have hwalks : ∀ r ∈ (a, [Need.read]) :: vectorLines none, WalkFree s r.1 := List.forall_mem_singleton.2 hwalk
    have hlive : (s.rememberAll ([p].map (·.2))).ctx.replays = false := by rw [hwalked.ctx_eq, hroom.2]
    refine ⟨fun hvalid => ?_, fun hvalid => ?_, fun hvalid => ?_, fun hvalid haligned => ?_⟩
    · exact commands_of_enterQueue hvalid exec_nbenter hwalked hroom.2
        (couchCommand_enters hroom hword (by simp) (Nat.mod_one _) htranslate hwalks hpage)
    · refine commands_of_enterQueue (regs := [a, aw]) hvalid exec_nbread hwalked hroom.2
        ((couchCommand_enters hroom hword (by simp) (Nat.mod_one _) htranslate hwalks hpage).trans ?_)
      exact congrArg Act.go (enterNbread_of_live hlive)
    · exact commands_of_enterQueue hvalid exec_nbexit hwalked hroom.2
        (couchCommand_enters hroom hword (by simp) (Nat.mod_one _) htranslate hwalks hpage)
    · exact commands_of_enterQueue hvalid exec_nbmac hwalked hroom.2
        (couchCommand_enters hroom hword (by simp) haligned htranslate hwalks hpage)
  · have hwalks : ∀ r ∈ (a, [Need.read]) :: vectorLines (some v), WalkFree s r.1 := by
      refine List.forall_mem_cons.2 ⟨hwalk, fun r hr => ?_⟩
      obtain ⟨k, hk, rfl⟩ := List.mem_map.1 hr
      exact hlines k (List.mem_range.1 hk)
    exact commands_of_enterQueue hvalid exec_nbload (rememberAll_walkedOnly s ((p :: ls).map (·.2))) hroom.2
      (couchCommand_enters hroom hword (fun _ hv => Option.some.inj hv ▸ hvector) (Nat.mod_one _) htranslate hwalks hpage)

/-! ## O23 -/

/-- Settles O23: the checks pass, and the command enters its queue. -/
theorem rowAndNearBankCommands : Obligations.RowAndNearBankCommands :=
  ⟨rowCommandsEnterTheCutworkQueue, nearBankCommandsEnterTheCouchingQueue⟩

end Sys2Proof.Proofs
end

section
/-! PROOFS. PROT, RNDEND, DARN, ENQ and SIGNAL at issue (R234, R235, R257, R258, R261, R270), and O24. -/

namespace Sys2Proof.Proofs

open Sys2Proof.Machine Sys2Proof.Claims Sys2Proof.Laws

variable {s : State} {i : Instr} {st set : Bool} {ra rb rc : BitVec 5} {t : TlbEntry} {a g r aw : W64} {c : Cluster}

/-! ## The actions of the state group's instructions -/

/-- PROT with its three registers (R258). -/
def protectAct (i : Instr) (set : Bool) (a ag ar : W64) (s : State) (c : Cluster) : Act :=
  whenRoom s 6
    (if 3 < ag.toNat then .trap 0x01 ag
     else if a.toNat % 2 ^ 21 ≠ 0 then .trap 0x05 a
     else
       match translate s s.ctx.coreId s.ctx.asid .write a with
       | .error e => if walkHeld s s.ctx.coreId s.ctx.asid a then .wait .none else .trap e a
       | .ok t =>
         if walkHeld s s.ctx.coreId s.ctx.asid a then .wait .none
         else if badRegion s (s.group ag.toNat) t ar.toNat set then .trap 0x19 a
         else if (s.group ag.toNat).state ≠ .opened then .trap 0x1A (roundTval s ag.toNat)
         else .go (enterQueue (s.remember t) c 6 (encode i) [a, ag, ar] (engCmd s (encode i) a ag ar)))

/-- RNDEND with its two registers (R261). -/
def roundEndAct (i : Instr) (ag aw : W64) (s : State) (c : Cluster) : Act :=
  whenRoom s 6
    (if 3 < ag.toNat then .trap 0x01 ag
     else if aw.toNat % 8 ≠ 0 then .trap 0x05 aw
     else if (s.group ag.toNat).state ≠ .opened ∧ (s.group ag.toNat).state ≠ .sealing ∧ (s.group ag.toNat).state ≠ .prepared ∧ !allIdle s
       then .trap 0x1A (roundTval s ag.toNat)
     else .go (enterQueue s c 6 (encode i) [ag, aw] (engCmd s (encode i) ag 0 aw)))

/-- DARN with its three registers (R270). -/
def darnAct (i : Instr) (ar ag aw : W64) (s : State) (c : Cluster) : Act :=
  whenRoom s 4
    (if 3 < ag.toNat then .trap 0x01 ag
     else if aw.toNat % 8 ≠ 0 then .trap 0x05 aw
     else if (s.group ag.toNat).rcnt ≤ ar.toNat then .trap 0x19 ar
     else if (s.group ag.toNat).state ≠ .darning then .trap 0x1A (roundTval s ag.toNat)
     else .go (enterQueue s c 4 (encode i) [ar, ag, aw] (engCmd s (encode i) ar ag aw)))

theorem exec_prot_protectAct : exec (.prot st ra rb rc set) s = issue (.prot st ra rb rc set) (fun s c =>
    protectAct (.prot st ra rb rc set) set (rd s c ra) (rd s c rb) (rd s c rc) s c) s := by
  rw [exec_prot]; rfl

theorem exec_rndend_roundEndAct : exec (.rndend st ra rc) s = issue (.rndend st ra rc) (fun s c =>
    roundEndAct (.rndend st ra rc) (rd s c ra) (rd s c rc) s c) s := by
  rw [exec_rndend]; rfl

theorem exec_darn_darnAct : exec (.darn st ra rb rc) s = issue (.darn st ra rb rc) (fun s c =>
    darnAct (.darn st ra rb rc) (rd s c ra) (rd s c rb) (rd s c rc) s c) s := by
  rw [exec_darn]; rfl

/-! ## PROT -/

section Protect

variable (hroom : Room s 6) (hgroup : g.toNat ≤ 3) (haligned : a.toNat % 2 ^ 21 = 0) (htranslates : Translates s .write a t)
  (hregion : badRegion s (s.group g.toNat) t r.toNat set = false)

include hroom hgroup haligned htranslates hregion

theorem protectAct_of_region :
    protectAct i set a g r s c =
      if (s.group g.toNat).state ≠ .opened then .trap 0x1A (roundTval s g.toNat)
      else .go (enterQueue (s.remember t) c 6 (encode i) [a, g, r] (engCmd s (encode i) a g r)) := by
  obtain ⟨htranslate, hwalk⟩ := htranslates
  rw [protectAct, whenRoom_of_room hroom, if_neg (Nat.not_lt.2 hgroup), if_neg (not_not.2 haligned), htranslate]
  exact (if_neg (ne_true_of_eq_false hwalk)).trans (if_neg (ne_true_of_eq_false hregion))

theorem protectAct_enters (hopen : (s.group g.toNat).state = .opened) :
    protectAct i set a g r s c = .go (enterQueue (s.remember t) c 6 (encode i) [a, g, r] (engCmd s (encode i) a g r)) :=
  (protectAct_of_region hroom hgroup haligned htranslates hregion).trans (if_neg (not_not.2 hopen))

theorem protectAct_traps (hclosed : (s.group g.toNat).state ≠ .opened) : protectAct i set a g r s c = .trap 0x1A (roundTval s g.toNat) :=
  (protectAct_of_region hroom hgroup haligned htranslates hregion).trans (if_pos hclosed)

end Protect

/-! ## RNDEND -/

theorem allIdle_iff : allIdle s = true ↔ ∀ g, g < 4 → (s.group g).state = .idle := by
  simp [allIdle, List.all_eq_true]

/-- The states of a slot in which RNDEND may be issued (R261). -/
def TakesRoundEnd (s : State) (g : Nat) : Prop :=
  (s.group g).state = .opened ∨ (s.group g).state = .sealing ∨ (s.group g).state = .prepared ∨ ∀ g, g < 4 → (s.group g).state = .idle

theorem not_takesRoundEnd_iff {g : Nat} :
    ¬TakesRoundEnd s g ↔ (s.group g).state ≠ .opened ∧ (s.group g).state ≠ .sealing ∧ (s.group g).state ≠ .prepared ∧
      (!allIdle s) = true := by
  rw [TakesRoundEnd, ← allIdle_iff, not_or, not_or, not_or, Bool.not_eq_true, Bool.not_eq_true']

section RoundEnd

variable (hroom : Room s 6) (hgroup : g.toNat ≤ 3) (haligned : aw.toNat % 8 = 0)

include hroom hgroup haligned

theorem roundEndAct_enters (htakes : TakesRoundEnd s g.toNat) :
    roundEndAct i g aw s c = .go (enterQueue s c 6 (encode i) [g, aw] (engCmd s (encode i) g 0 aw)) := by
  rw [roundEndAct, whenRoom_of_room hroom, if_neg (Nat.not_lt.2 hgroup), if_neg (not_not.2 haligned)]
  exact if_neg (mt not_takesRoundEnd_iff.2 (not_not.2 htakes))

theorem roundEndAct_traps (htakes : ¬TakesRoundEnd s g.toNat) : roundEndAct i g aw s c = .trap 0x1A (roundTval s g.toNat) := by
  rw [roundEndAct, whenRoom_of_room hroom, if_neg (Nat.not_lt.2 hgroup), if_neg (not_not.2 haligned)]
  exact if_pos (not_takesRoundEnd_iff.1 htakes)

end RoundEnd

/-! ## DARN -/

section Darn

variable (hroom : Room s 4) (hgroup : g.toNat ≤ 3) (haligned : aw.toNat % 8 = 0)

include hroom hgroup haligned

theorem darnAct_of_operands :
    darnAct i r g aw s c =
      if (s.group g.toNat).rcnt ≤ r.toNat then .trap 0x19 r
      else if (s.group g.toNat).state ≠ .darning then .trap 0x1A (roundTval s g.toNat)
      else .go (enterQueue s c 4 (encode i) [r, g, aw] (engCmd s (encode i) r g aw)) := by
  rw [darnAct, whenRoom_of_room hroom, if_neg (Nat.not_lt.2 hgroup), if_neg (not_not.2 haligned)]

theorem darnAct_enters (hregion : r.toNat < (s.group g.toNat).rcnt) (hstate : (s.group g.toNat).state = .darning) :
    darnAct i r g aw s c = .go (enterQueue s c 4 (encode i) [r, g, aw] (engCmd s (encode i) r g aw)) :=
  (darnAct_of_operands hroom hgroup haligned).trans ((if_neg (Nat.not_le.2 hregion)).trans (if_neg (not_not.2 hstate)))

theorem darnAct_traps (hregion : r.toNat < (s.group g.toNat).rcnt) (hstate : (s.group g.toNat).state ≠ .darning) :
    darnAct i r g aw s c = .trap 0x1A (roundTval s g.toNat) :=
  (darnAct_of_operands hroom hgroup haligned).trans ((if_neg (Nat.not_le.2 hregion)).trans (if_pos hstate))

theorem darnAct_beyond_regions (hregion : (s.group g.toNat).rcnt ≤ r.toNat) : darnAct i r g aw s c = .trap 0x19 r :=
  (darnAct_of_operands hroom hgroup haligned).trans (if_pos hregion)

end Darn

theorem roundStateTraps : RoundStateTraps := by
  intro s st set ra rb rc t a b c tval
  exact ⟨fun hvalid hroom hgroup haligned htranslates hregion hstate =>
      traps_of_issue_trap hvalid exec_prot_protectAct (protectAct_traps hroom hgroup haligned htranslates hregion hstate),
    fun hvalid hroom hgroup haligned hopen hsealing hprepared hbusy =>
      traps_of_issue_trap hvalid exec_rndend_roundEndAct (roundEndAct_traps hroom hgroup haligned
        (fun htakes => htakes.elim hopen (·.elim hsealing (·.elim hprepared fun hidle => hbusy.elim fun g hg => hg.2 (hidle g hg.1))))),
    fun hvalid hroom hgroup haligned hregion hstate =>
      traps_of_issue_trap hvalid exec_darn_darnAct (darnAct_traps hroom hgroup haligned hregion hstate),
    fun hvalid hroom hgroup haligned hregion =>
      traps_of_issue_trap hvalid exec_darn_darnAct (darnAct_beyond_regions hroom hgroup haligned hregion)⟩

/-! ## ENQ and SIGNAL -/

/-- ENQ with its three registers (R235). -/
def enqAct (i : Instr) (aq ap aw : W64) (s : State) (c : Cluster) : Act :=
  whenRoom s 7
    (if wmHolds s.ctx ap.toNat 64 then .wait .watermark
     else
       faultsThen
         [(bits64 aq 16 48 != 0, 0x01, aq), (ap.toNat % 64 ≠ 0, 0x05, ap), (aw.toNat % 8 ≠ 0, 0x05, aw),
          (spOut s.ctx ap.toNat 64, 0x08, ap), earlyFault s.ctx ap.toNat 64]
         (.go (enterQueue s c 7 (encode i) [aq, ap, aw]
           { engCmd s (encode i) aq ap aw with packet := BitVec.ofNat 512 (s.ctx.spLoad ap.toNat 64) })))

theorem exec_enq_enqAct : exec (.enq st ra rb rc) s = issue (.enq st ra rb rc) (fun s c =>
    enqAct (.enq st ra rb rc) (rd s c ra) (rd s c rb) (rd s c rc) s c) s := by
  rw [exec_enq]; rfl

theorem enqAct_enters {aq ap : W64} (hroom : Room s 7) (hqueue : aq.toNat < 2 ^ 16) (hpacket : ap.toNat % 64 = 0) (hword : aw.toNat % 8 = 0)
    (h : SpReadable s ap 64) :
    enqAct i aq ap aw s c = .go (enterQueue s c 7 (encode i) [aq, ap, aw]
      { engCmd s (encode i) aq ap aw with packet := BitVec.ofNat 512 (leNat (s.ctx.sp.read ap.toNat 64)) }) := by
  have hid : (bits64 aq 16 48 != 0) = false := by
    rw [bits64, Nat.div_eq_of_lt hqueue]
    rfl
  rw [enqAct, whenRoom_of_room hroom, spLoad_of_readable h]
  obtain ⟨hfree, -, hfits, hearly, -⟩ := h
  rw [if_neg (ne_true_of_eq_false hfree), spOut_eq_false hfits, earlyFault_eq_of_none hearly, hid]
  simp [hpacket, hword, faultsThen_pass, faultsThen_nil]

theorem completes_signal (hvalid : Valid (.signal st ra rb) s) (haligned : (src s ra).toNat % 8 = 0)
    (h : Translates s .write (src s ra) t) (hpage : (s.ctx.asid, va57 (src s ra) / 4096) ∈ s.tamb.signals) :
    Completes (.signal st ra rb) s
      ((s.remember t).enqueue (access s true .signal [elem s (src s ra) t] 8 ((src s rb).setWidth 2048) none 2 4)) := by
  have hregistered : s.tamb.signals.any (fun p => p.1 == s.ctx.asid && p.2 == va57 (src s ra) / 4096) = true :=
    List.any_eq_true.2 ⟨_, hpage, by simp⟩
  refine completes_of_issue_go hvalid exec_signal ?_
  refine (if_neg (not_not.2 haligned)).trans ((withElems_of_translates h).trans ?_)
  rw [← ofW64_eq_setWidth]
  exact if_neg (by rw [show rd s (turn s) ra = src s ra from rfl, hregistered]; decide)

/-! ## O24 -/

/-- Settles O24: the checks of each instruction pass, and its command enters the queue of its engine, or its access the load queue. -/
theorem stateAndQueueCommands : Obligations.StateAndQueueCommands := by
  intro s st set ra rb rc t a b c
  refine ⟨fun hvalid hroom hgroup haligned htranslates hregion hopen => ?_, fun hvalid hroom hgroup haligned htakes => ?_,
    fun hvalid hroom hgroup haligned hregion hstate => ?_, fun hvalid hroom hqueue hpacket hword hreadable => ?_, completes_signal⟩
  · exact commands_of_enterQueue hvalid exec_prot_protectAct (remember_walkedOnly s t) hroom.2
      (protectAct_enters hroom hgroup haligned htranslates hregion hopen)
  · exact commands_of_enterQueue hvalid exec_rndend_roundEndAct (WalkedOnly.refl s) hroom.2
      (roundEndAct_enters hroom hgroup haligned htakes)
  · exact commands_of_enterQueue hvalid exec_darn_darnAct (WalkedOnly.refl s) hroom.2
      (darnAct_enters hroom hgroup haligned hregion hstate)
  · exact commands_of_enterQueue hvalid exec_enq_enqAct (WalkedOnly.refl s) hroom.2
      (enqAct_enters hroom hqueue hpacket hword hreadable)

end Sys2Proof.Proofs
end

section
/-! PROOFS. SHGO, SHWM and RECFL (R165, R172, R175, R386, R399, R403), and O25. -/

namespace Sys2Proof.Proofs

open Sys2Proof.Machine Sys2Proof.Claims Sys2Proof.Laws

variable {s t u : State} {i : Instr} {st ch : Bool} {ra rb rc : BitVec 5} {ap ah aw : W64} {c : Cluster} {cmd : ShCmd}

/-! ## Channels -/

theorem channel_setChannel (e : Engines) (ch : Bool) (q : ShQueue) : (e.setChannel ch q).channel ch = q := by
  cases ch <;> rfl

theorem pushShuttle_channel :
    (s.pushShuttle ch cmd).ctx.eng.channel ch =
      { s.ctx.eng.channel ch with
        cmds := (s.ctx.eng.channel ch).cmds ++ [{ cmd with idx := (s.ctx.eng.channel ch).next % 2 ^ 24 }]
        next := (s.ctx.eng.channel ch).next + 1 } :=
  channel_setChannel _ _ _

/-- A fresh command that is pushed behind what a state's channel holds is queued as the statement says. -/
theorem shuttleQueued_of_push (hchannel : t.ctx.eng.channel ch = s.ctx.eng.channel ch) (hissued : cmd.issued = s.now)
    (hafter : cmd.after = s.ctx.nextAcc) (hfresh : cmd.begun = false ∧ cmd.finished = false) :
    ShuttleQueued s (t.pushShuttle ch cmd) ch { cmd with idx := (s.ctx.eng.channel ch).next % 2 ^ 24 } := by
  rw [ShuttleQueued, pushShuttle_channel, hchannel]
  exact ⟨rfl, rfl, rfl, hissued, hafter, hfresh.1, hfresh.2⟩

/-! ## SHGO -/

/-- The slot that a command fills, if it fills an operand slot. -/
def slotFilled (s : State) (p : BitVec 640) : Option Nat := if prickKind p = 1 then slotOfName s.ctx.eng (prickIdx p) else none

/-- The command of an SHGO (R165). -/
def shuttleCommand (s : State) (p : BitVec 640) (ah aw : W64) : ShCmd :=
  { emptyShCmd with issued := s.now, after := s.ctx.nextAcc, pricking := p, handle := ah, aw := aw, phys := slotFilled s p }

/-- The state from which an SHGO's command is queued: it has been signed, and the slot that it fills counts it. -/
def beforePush (s : State) (c : Cluster) (w : Nat) (regs : List W64) (p : BitVec 640) : State :=
  let s1 := if prickKind p = 3 then s.modCtx Ctx.tick else signCommand s c w regs
  match slotFilled s p with
  | some q => s1.markFill q s.now true
  | none => s1

/-- SHGO with its registers and the pricking as read (R165, R399). -/
def goAct (i : Instr) (ch : Bool) (ap ah aw : W64) (p : BitVec 640) (lost : Bool) (s : State) (c : Cluster) : Act :=
  if 8 ≤ (s.ctx.eng.channel ch).cmds.length then .wait .queueFull
  else if wmHolds s.ctx ap.toNat 80 then .wait .watermark
  else
    faultsThen
      [(ap.toNat % 16 ≠ 0, 0x05, ap), (ah.toNat % 64 ≠ 0, 0x05, ah), (aw.toNat % 8 ≠ 0, 0x05, aw),
       (spOut s.ctx ap.toNat 80, 0x08, ap), earlyFault s.ctx ap.toNat 80,
       (!lost && prickBC p && aw.toNat % 16 != 0, 0x05, aw),
       (!lost && (badPrick p).isSome, 0x01, ap + BitVec.ofNat 64 (8 * (badPrick p).getD 0))]
      (if lost then
         .go ((signCommand s c (encode i) [ap, ah, aw]).pushShuttle ch
           { emptyShCmd with issued := s.now, after := s.ctx.nextAcc, handle := ah, aw := aw, begun := true, finished := true, failed := true })
       else .go ((beforePush s c (encode i) [ap, ah, aw] p).pushShuttle ch (shuttleCommand s p ah aw)))

theorem exec_shgo_goAct : exec (.shgo st ra rb rc ch) s = issue (.shgo st ra rb rc ch) (fun s c =>
    goAct (.shgo st ra rb rc ch) ch (rd s c ra) (rd s c rb) (rd s c rc) (BitVec.ofNat 640 (s.ctx.spLoad (rd s c ra).toNat 80))
      (s.ctx.spLost (rd s c ra).toNat 80) s c) s := by
  rw [exec_shgo]; rfl

theorem goAct_queues {p : BitVec 640} (hroom : (s.ctx.eng.channel ch).cmds.length < 8) (hfree : wmHolds s.ctx ap.toNat 80 = false)
    (hap : ap.toNat % 16 = 0) (hah : ah.toNat % 64 = 0) (haw : aw.toNat % 8 = 0) (hword : prickBC p = true → aw.toNat % 16 = 0)
    (hfits : ap.toNat + 80 ≤ s.ctx.spSize) (hearly : earlyWord s.ctx ap.toNat 80 = none) (hgood : badPrick p = none) :
    goAct i ch ap ah aw p false s c =
      .go ((beforePush s c (encode i) [ap, ah, aw] p).pushShuttle ch (shuttleCommand s p ah aw)) := by
  have hcounted : (!false && prickBC p && aw.toNat % 16 != 0) = false := by
    cases hbc : prickBC p
    case false => rfl
    case true => simp [hword hbc]
  rw [goAct, if_neg (Nat.not_le.2 hroom), if_neg (ne_true_of_eq_false hfree), spOut_eq_false hfits, earlyFault_eq_of_none hearly, hcounted,
    hgood]
  simp [hap, hah, haw, faultsThen_pass, faultsThen_nil]

theorem markFill_ctx (p n : Nat) (on : Bool) : (s.markFill p n on).ctx = s.ctx := rfl

/-- Before the command is queued only its signature and its place in issue order have changed in the context. -/
theorem beforePush_ctx (s : State) (c : Cluster) (w : Nat) (regs : List W64) (p : BitVec 640) :
    (beforePush s c w regs p).ctx = { s.ctx with nextAcc := s.ctx.nextAcc + 1, audit := (beforePush s c w regs p).ctx.audit } := by
  have hsigned : (if prickKind p = 3 then s.modCtx Ctx.tick else signCommand s c w regs).ctx = { s.ctx with
      nextAcc := s.ctx.nextAcc + 1, audit := (if prickKind p = 3 then s.modCtx Ctx.tick else signCommand s c w regs).ctx.audit } := by
    split
    · rfl
    · exact signCommand_ctx s c w regs
  rw [beforePush]
  cases slotFilled s p
  case none => exact hsigned
  case some q => rw [markFill_ctx]; exact hsigned

theorem shgoQueuesItsCommand {p : BitVec 640} (hvalid : Valid (.shgo st ra rb rc ch) s) (hkept : s.ctx.spLost (src s ra).toNat 80 = false)
    (hp : BitVec.ofNat 640 (s.ctx.spLoad (src s ra).toNat 80) = p)
    (hact : goAct (.shgo st ra rb rc ch) ch (src s ra) (src s rb) (src s rc) p false s (turn s) =
      .go ((beforePush s (turn s) (encode (.shgo st ra rb rc ch)) [src s ra, src s rb, src s rc] p).pushShuttle ch
        (shuttleCommand s p (src s rb) (src s rc)))) :
    ∃ u cmd, Completes (.shgo st ra rb rc ch) s u ∧ ShuttleQueued s u ch cmd ∧ cmd.fill = none ∧ cmd.pricking = p ∧
      cmd.handle = src s rb ∧ cmd.aw = src s rc ∧ cmd.phys = slotFilled s p ∧ u.ctx.flight = s.ctx.flight := by
  have hctx := beforePush_ctx s (turn s) (encode (.shgo st ra rb rc ch)) [src s ra, src s rb, src s rc] p
  refine ⟨_, _, completes_of_issue_go hvalid exec_shgo_goAct ?_, shuttleQueued_of_push (cmd := shuttleCommand s p (src s rb) (src s rc)) (by rw [hctx]) rfl rfl ⟨rfl, rfl⟩, rfl, rfl, rfl, rfl,
    rfl, ?_⟩
  · have hlost : s.ctx.spLost (rd s (turn s) ra).toNat 80 = false := hkept
    have hread : BitVec.ofNat 640 (s.ctx.spLoad (rd s (turn s) ra).toNat 80) = p := hp
    rw [hread, hlost]
    exact hact
  · exact (congrArg Ctx.flight hctx :)

/-! ## SHWM -/

theorem ofNat_watermark (wm lo act : Nat) (hwm : wm < 2 ^ 20) (hlo : lo < 2 ^ 20) (_ : act < 2) :
    bits64 (BitVec.ofNat 64 (wm + lo * 2 ^ 32 + act * 2 ^ 63)) 0 20 = wm ∧
      bits64 (BitVec.ofNat 64 (wm + lo * 2 ^ 32 + act * 2 ^ 63)) 32 20 = lo := by
  simp only [bits64, BitVec.toNat_ofNat]
  constructor <;> omega

theorem watermarkImage_fields (q : ShQueue) :
    bits64 (watermarkImage q) 0 20 = q.wm % 2 ^ 20 ∧ bits64 (watermarkImage q) 32 20 = q.lo % 2 ^ 20 :=
  ofNat_watermark _ _ _ (Nat.mod_lt _ (by decide)) (Nat.mod_lt _ (by decide)) (Bool.toNat_lt _)

theorem completesLogged_shwm {dst : BitVec 5} (hvalid : Valid (.shwm st ch dst) s) :
    CompletesLogged (.shwm st ch dst) s (watermarkImage (s.ctx.eng.channel ch)) (fun t w => t.writeAt 2 (.scalar (turn s) dst.toNat w)) := by
  refine ⟨fun hlive => completes_of_issue_go hvalid exec_shwm ?_, fun hreplay => completes_of_issue_go hvalid exec_shwm ?_⟩
  · simp only [logResult_of_live hlive]
  · simp only [logResult_of_replay hreplay]

/-! ## RECFL -/

theorem recordsOf_dropRecords {asid : W16} {h : W64} {d : Nat} (hd : d < 6) :
    (vget (s.dropRecords asid h).dies d .reset).records =
      (vget s.dies d .reset).records.filter (fun r => r.1 != asid.toNat || r.2.1 != h) := by
  simp [State.dropRecords, vget, hd]

theorem recflDropsTheRecord (hvalid : Valid (.recfl st ra) s) (haligned : (src s ra).toNat % 64 = 0) :
    ∃ u : State, Completes (.recfl st ra) s (u.enqueue (access s false (.recfl (src s ra)) [] 0 0 none 2 4)) ∧ u.ctx = s.ctx ∧
      ∀ d, d < 6 → ∀ r, r ∈ (vget u.dies d .reset).records ↔
        r ∈ (vget s.dies d .reset).records ∧ ¬(r.1 = s.ctx.asid.toNat ∧ r.2.1 = src s ra) := by
  refine ⟨s.dropRecords s.ctx.asid (src s ra), completes_of_issue_go hvalid exec_recfl (if_neg (not_not.2 haligned)), rfl,
    fun d hd r => ?_⟩
  rw [recordsOf_dropRecords hd, List.mem_filter, Bool.or_eq_true, bne_iff_ne, bne_iff_ne, not_and_or]

/-! ## O25 -/

/-- Settles O25: SHGO by the state from which its command is pushed, SHWM by the fields of the watermark, RECFL by what its filter keeps. -/
theorem shuttleInstructions : Obligations.ShuttleInstructions := by
  intro s st ch ra rb rc ap ah aw p
  refine ⟨fun hvalid hroom hfree hap hah haw hword hfits hearly hkept hgood => ?_,
    fun hvalid => ⟨_, completesLogged_shwm hvalid, watermarkImage_fields _⟩, recflDropsTheRecord⟩
  have hp : BitVec.ofNat 640 (s.ctx.spLoad (src s ra).toNat 80) = p := by rw [Ctx.spLoad, spRead_of_not_lost hkept]
  exact shgoQueuesItsCommand hvalid hkept hp (goAct_queues hroom hfree hap hah haw hword hfits hearly hgood)

end Sys2Proof.Proofs
end

section
/-! PROOFS. PROBE: the configuration of a table, and its lookups (R149, R150, R381, R382), and O26. -/

namespace Sys2Proof.Proofs

set_option Elab.async false

open Sys2Proof.Machine Sys2Proof.Claims Sys2Proof.Laws

variable {s u : State} {i : Instr} {st : Bool} {dst ra : BitVec 5} {t : BitVec 4} {off : BitVec 11} {a va : W64} {c : Cluster}
  {p : ProbeTable} {n w : Nat}

/-! ## The configuration form -/

theorem spLost_of_part {x : Ctx} {a n b m : Nat} (h : x.spLost a n = false) (hlow : a ≤ b) (hhigh : b + m ≤ a + n) :
    x.spLost b m = false := by
  rw [Ctx.spLost, List.any_eq_false] at h ⊢
  intro k hk
  have hout := h k hk
  simp only [Bool.and_eq_true, decide_eq_true_eq] at hout ⊢
  omega

theorem spLoad_of_readable_part (h : SpReadable s a n) {k m : Nat} (hpart : k + m ≤ n) :
    s.ctx.spLoad (a.toNat + k) m = leNat (s.ctx.sp.read (a.toNat + k) m) := by
  obtain ⟨-, -, -, -, hkept⟩ := h
  rw [Ctx.spLoad, spRead_of_not_lost (spLost_of_part hkept (by omega) (by omega))]

/-- The table that the words of a descriptor set up (R149). -/
def tableOf (w cw : W64) (gen : Nat) : ProbeTable :=
  { en := w.getLsbD 0, cwaddr := cw, spbase := bits64 w 20 20, blklg := bits64 w 12 4, setlg := bits64 w 8 4,
    ways := 2 ^ bits64 w 6 2, tags := [], ptrs := [], gen := gen + 1 }

/-- PROBE's configuration form, with the descriptor's four words (R382). -/
def configAct (t : BitVec 4) (a : W64) (word : Nat → W64) (s : State) : Act :=
  if wmHolds s.ctx a.toNat 32 then .wait .watermark
  else
    faultsThen
      [(a.toNat % 32 ≠ 0, 0x05, a), (spOut s.ctx a.toNat 32, 0x08, a), earlyFault s.ctx a.toNat 32,
       (!s.ctx.spLost a.toNat 32 && badTable (word 1) (word 0) (word 2) (word 3), 0x01, word 1),
       (!s.ctx.spLost a.toNat 32 && (word 1).getLsbD 0 &&
         spOut s.ctx (bits64 (word 1) 20 20) (2 ^ (bits64 (word 1) 12 4 + bits64 (word 1) 8 4) * 2 ^ bits64 (word 1) 6 2), 0x08,
         BitVec.ofNat 64 (bits64 (word 1) 20 20))]
      (if s.ctx.spLost a.toNat 32 then .go (s.abortAt 0 true)
       else .go (s.setProbe t.toNat (tableOf (word 1) (word 0) (vget s.ctx.eng.probes t.toNat .reset).gen)))

theorem exec_probeCfg_configAct : exec (.probeCfg st ra t) s = issue (.probeCfg st ra t) (fun s c =>
    configAct t (rd s c ra) (fun k => BitVec.ofNat 64 (s.ctx.spLoad ((rd s c ra).toNat + 8 * k) 8)) s) s := by
  rw [exec_probeCfg]; rfl

theorem configAct_sets {word : Nat → W64} (h : SpReadable s a 32) (hgood : badTable (word 1) (word 0) (word 2) (word 3) = false)
    (hfits : (word 1).getLsbD 0 = true →
      bits64 (word 1) 20 20 + 2 ^ (bits64 (word 1) 12 4 + bits64 (word 1) 8 4) * 2 ^ bits64 (word 1) 6 2 ≤ s.ctx.spSize) :
    configAct t a word s = .go (s.setProbe t.toNat (tableOf (word 1) (word 0) (vget s.ctx.eng.probes t.toNat .reset).gen)) := by
  obtain ⟨hfree, haligned, hin, hearly, hkept⟩ := h
  have hregion : ((word 1).getLsbD 0 &&
      spOut s.ctx (bits64 (word 1) 20 20) (2 ^ (bits64 (word 1) 12 4 + bits64 (word 1) 8 4) * 2 ^ bits64 (word 1) 6 2)) = false := by
    cases hen : (word 1).getLsbD 0
    case false => rfl
    case true => exact spOut_eq_false (hfits hen)
  rw [configAct, if_neg (ne_true_of_eq_false hfree), spOut_eq_false hin, earlyFault_eq_of_none hearly, hkept, hgood]
  simp only [Bool.not_false, Bool.true_and, hregion, haligned, ne_eq, not_true_eq_false, decide_false, faultsThen_pass, faultsThen_nil,
    Bool.false_eq_true, if_false]

theorem configAct_congr {word word' : Nat → W64} (h : ∀ k, k < 4 → word k = word' k) : configAct t a word s = configAct t a word' s := by
  simp only [configAct, h 0 (by decide), h 1 (by decide), h 2 (by decide), h 3 (by decide)]

theorem completes_probeCfg {word : Nat → W64} (hword : ∀ k, k < 4 → BitVec.ofNat 64 (s.ctx.spLoad ((src s ra).toNat + 8 * k) 8) = word k)
    (hvalid : Valid (.probeCfg st ra t) s) (h : SpReadable s (src s ra) 32)
    (hgood : badTable (word 1) (word 0) (word 2) (word 3) = false)
    (hfits : (word 1).getLsbD 0 = true →
      bits64 (word 1) 20 20 + 2 ^ (bits64 (word 1) 12 4 + bits64 (word 1) 8 4) * 2 ^ bits64 (word 1) 6 2 ≤ s.ctx.spSize) :
    Completes (.probeCfg st ra t) s
      (s.setProbe t.toNat (tableOf (word 1) (word 0) (vget s.ctx.eng.probes t.toNat .reset).gen)) :=
  completes_of_issue_go hvalid exec_probeCfg_configAct ((configAct_congr hword).trans (configAct_sets h hgood hfits))

/-! ## Lookups -/

/-- The place of an address's entry in way `w` of a table. -/
def entryAt (p : ProbeTable) (a : W64) (w : Nat) : Nat := w * 2 ^ p.setlg + a.toNat / 2 ^ p.blklg % 2 ^ p.setlg

def tagAt (p : ProbeTable) (a : W64) : Nat := a.toNat / 2 ^ p.blklg / 2 ^ p.setlg

/-- The address in the scratchpad of an address's data in way `w`. -/
def blockAt (p : ProbeTable) (a : W64) (w : Nat) : Nat := p.spbase + entryAt p a w * 2 ^ p.blklg

theorem lookupTable_hit {filling : Bool} {g : Nat} (hw : w < p.ways) (hentry : tabGet (entryAt p a w) p.tags = some ⟨tagAt p a, filling, g⟩)
    (hfirst : ∀ v, v < w → (tabGet (entryAt p a v) p.tags).map (·.tag) ≠ some (tagAt p a)) :
    lookupTable p n a = { value := blockAt p a w + a.toNat % 2 ^ p.blklg, outcome := if filling then 1 else 0, table := p, fill := none } := by
  have hfind : (List.range p.ways).find? (fun v => ((tabGet (entryAt p a v) p.tags).map (·.tag)) == some (tagAt p a)) = some w := by
    rw [List.find?_range_eq_some]
    refine ⟨by simp [hentry], List.mem_range.2 hw, fun v hv => by simpa using hfirst v hv⟩
  simp only [entryAt, tagAt] at hfind hentry
  simp only [lookupTable, hfind, hentry]
  rfl

/-- The fill of a miss that takes way `w`. -/
def fillOf (p : ProbeTable) (t : Nat) (a : W64) (w : Nat) : Fill :=
  { table := t, entry := entryAt p a w, gen := p.gen, dst := blockAt p a w, len := 2 ^ p.blklg }

theorem lookupTable_miss (hw : w < p.ways) (hmiss : ∀ v, v < p.ways → (tabGet (entryAt p a v) p.tags).map (·.tag) ≠ some (tagAt p a))
    (hfree : tabGet (entryAt p a w) p.tags = none) (hfirst : ∀ v, v < w → tabGet (entryAt p a v) p.tags ≠ none) :
    lookupTable p n a =
      { value := blockAt p a w + a.toNat % 2 ^ p.blklg, outcome := 2,
        table := { p with tags := tabSet (entryAt p a w) { tag := tagAt p a, filling := true, gen := p.gen } p.tags },
        fill := some (fillOf p n a w) } := by
  have hnone : (List.range p.ways).find? (fun v => ((tabGet (entryAt p a v) p.tags).map (·.tag)) == some (tagAt p a)) = none :=
    List.find?_eq_none.2 fun v hv => by simpa using hmiss v (List.mem_range.1 hv)
  have hvictim : victim p (a.toNat / 2 ^ p.blklg % 2 ^ p.setlg) = some (w, false) := by
    have hfind : (List.range p.ways).find? (fun v => (tabGet (entryAt p a v) p.tags).isNone) = some w := by
      rw [List.find?_range_eq_some]
      exact ⟨by simp [hfree], List.mem_range.2 hw, fun v hv => by simpa [Option.isSome_iff_ne_none] using hfirst v hv⟩
    simp only [entryAt] at hfind
    simp only [victim, hfind]
  simp only [entryAt, tagAt] at hnone
  simp only [lookupTable, hnone, hvictim]
  rfl

/-- What a lookup leaves besides its log: the address lands, and a fill enters channel 1 (R150). -/
def lookupEffect (s s0 : State) (i : Instr) (dst : BitVec 5) (t : BitVec 4) (a : W64) (c : Cluster) (r : Lookup) : State :=
  let s1 := s0.writeAt 4 (.scalar c dst.toNat (BitVec.ofNat 64 r.value))
  match r.fill with
  | none => s1
  | some f =>
    ((signCommand s1 c (encode i) [a]).setProbe t.toNat r.table).pushShuttle true
      { emptyShCmd with
        issued := s.now, after := s.ctx.nextAcc, fill := some f, aw := (vget s.ctx.eng.probes t.toNat .reset).cwaddr,
        handle := BitVec.ofNat 64 (a.toNat / f.len * f.len) }

/-- PROBE's lookup form, with what the lookup comes to (R381). -/
def lookupAct (i : Instr) (dst : BitVec 5) (t : BitVec 4) (a va : W64) (r : Lookup) (s : State) (c : Cluster) : Act :=
  if 8 ≤ s.ctx.eng.sh1.cmds.length then .wait .queueFull
  else if !(vget s.ctx.eng.probes t.toNat .reset).en then .trap 0x01 (t.setWidth 64)
  else
    let (s0, seen) := s.logResult c (BitVec.ofNat 64 r.outcome)
    match (if seen = 0 then none else targetFault s va) with
    | some (code, tval) => .trap code tval
    | none => if seen = 0 then .go (lookupEffect s s0 i dst t a c r) else .jump ((lookupEffect s s0 i dst t a c r).branchTo c va)

theorem exec_probe_lookupAct : exec (.probe st dst ra t off) s = issue (.probe st dst ra t off) (fun s c =>
    lookupAct (.probe st dst ra t off) dst t (rd s c ra) (target s c off)
      (lookupTable (vget s.ctx.eng.probes t.toNat .reset) t.toNat (rd s c ra)) s c) s := by
  rw [exec_probe]; rfl

section Live

variable {r : Lookup} (hlive : s.ctx.replays = false) (hroom : s.ctx.eng.sh1.cmds.length < 8)
  (hen : (vget s.ctx.eng.probes t.toNat .reset).en = true)

include hlive hroom hen

theorem lookupAct_goes (hhit : r.outcome = 0) :
    lookupAct i dst t a va r s (turn s) = .go (lookupEffect s (logged s 0) i dst t a (turn s) r) := by
  rw [lookupAct, if_neg (Nat.not_le.2 hroom), hen, if_neg (by decide), logResult_of_live hlive, hhit]
  rfl

theorem lookupAct_jumps (hother : BitVec.ofNat 64 r.outcome ≠ 0) (htarget : targetFault s va = none) :
    lookupAct i dst t a va r s (turn s) =
      .jump ((lookupEffect s (logged s (BitVec.ofNat 64 r.outcome)) i dst t a (turn s) r).branchTo (turn s) va) := by
  rw [lookupAct, if_neg (Nat.not_le.2 hroom), hen, if_neg (by decide), logResult_of_live hlive]
  simp only [hother, if_false, htarget]

end Live

theorem logged_eng (s : State) (v : W64) : (logged s v).ctx.eng = s.ctx.eng := by
  rw [logged]
  split
  · rw [State.modCtx_ctx, Ctx.tick_eng, Ctx.logRead]
    split <;> rfl
  · rfl

/-- The state from which a lookup's fill is queued. -/
theorem lookupEffect_of_fill {s0 : State} {r : Lookup} {f : Fill} (hfill : r.fill = some f) :
    lookupEffect s s0 i dst t a c r =
      ((signCommand (s0.writeAt 4 (.scalar c dst.toNat (BitVec.ofNat 64 r.value))) c (encode i) [a]).setProbe t.toNat r.table).pushShuttle true
        { emptyShCmd with
          issued := s.now, after := s.ctx.nextAcc, fill := some f, aw := (vget s.ctx.eng.probes t.toNat .reset).cwaddr,
          handle := BitVec.ofNat 64 (a.toNat / f.len * f.len) } := by
  rw [lookupEffect, hfill]

theorem lookupEffect_of_no_fill {s0 : State} {r : Lookup} (hfill : r.fill = none) :
    lookupEffect s s0 i dst t a c r = s0.writeAt 4 (.scalar c dst.toNat (BitVec.ofNat 64 r.value)) := by
  rw [lookupEffect, hfill]

/-- A miss queues its fill on channel 1 and puts the table that marks it in place. -/
theorem lookupEffect_queues {s0 : State} {r : Lookup} {f : Fill} (hfill : r.fill = some f) (heng : s0.ctx.eng = s.ctx.eng) :
    ∃ cmd, ShuttleQueued s (lookupEffect s s0 i dst t a c r) true cmd ∧ cmd.fill = some f ∧
      vget (lookupEffect s s0 i dst t a c r).ctx.eng.probes t.toNat .reset = r.table := by
  have hsigned : (signCommand (s0.writeAt 4 (.scalar c dst.toNat (BitVec.ofNat 64 r.value))) c (encode i) [a]).ctx.eng = s.ctx.eng := by
    rw [signCommand_ctx]
    exact heng
  rw [lookupEffect_of_fill hfill]
  refine ⟨_, shuttleQueued_of_push ?_ rfl rfl ⟨rfl, rfl⟩, rfl, ?_⟩
  · exact (congrArg Engines.sh1 hsigned :)
  · exact vget_vset_same _ _ _ t.isLt

/-! ## O26 -/

/-- Settles O26: the configuration by its checks, and a lookup by what the table's ways hold. -/
theorem probeInstructions : Obligations.ProbeInstructions := by
  intro s st dst ra t off a p
  constructor
  · intro word w hvalid _ h hgood hfits table
    exact completes_probeCfg (word := word) (fun k hk => by rw [spLoad_of_readable_part h (by omega)]) hvalid h hgood hfits
  · intro set tag entry hvalid hroom hen hlive
    refine ⟨fun w g hw hentry hfirst => ?_, fun w g hw hentry hfirst htarget => ?_, fun w hw hmiss hfree hfirst htarget => ?_⟩
    · have hlookup := lookupTable_hit (n := t.toNat) hw hentry hfirst
      have hout : (lookupTable p t.toNat a).outcome = 0 := congrArg Lookup.outcome hlookup
      refine completes_of_issue_go hvalid exec_probe_lookupAct ((lookupAct_goes hlive hroom hen hout).trans (congrArg Act.go ?_))
      exact (lookupEffect_of_no_fill (congrArg Lookup.fill hlookup)).trans
        (congrArg (fun v => (logged s 0).writeAt 4 (.scalar (turn s) dst.toNat (BitVec.ofNat 64 v))) (congrArg Lookup.value hlookup))
    · have hlookup := lookupTable_hit (n := t.toNat) hw hentry hfirst
      have hout : BitVec.ofNat 64 (lookupTable p t.toNat a).outcome = 1 := congrArg (fun r => BitVec.ofNat 64 r.outcome) hlookup
      refine jumps_of_issue_jump hvalid exec_probe_lookupAct
        ((lookupAct_jumps hlive hroom hen (hout.trans_ne (by decide)) htarget).trans (congrArg Act.jump ?_))
      refine congrArg (State.branchTo · (turn s) (halfwordTarget s off)) ((lookupEffect_of_no_fill (congrArg Lookup.fill hlookup)).trans ?_)
      exact congrArg₂ (fun l v => (logged s l).writeAt 4 (.scalar (turn s) dst.toNat (BitVec.ofNat 64 v))) hout
        (congrArg Lookup.value hlookup)
    · have hlookup := lookupTable_miss (n := t.toNat) hw hmiss hfree hfirst
      have hout : BitVec.ofNat 64 (lookupTable p t.toNat a).outcome = 2 := congrArg (fun r => BitVec.ofNat 64 r.outcome) hlookup
      have hfill := congrArg Lookup.fill hlookup
      obtain ⟨cmd, hqueued, hcmd, htable⟩ := lookupEffect_queues (i := .probe st dst ra t off) (dst := dst) (t := t) (a := a) (c := turn s)
        hfill (logged_eng s (BitVec.ofNat 64 (lookupTable p t.toNat a).outcome))
      refine ⟨_, cmd, jumps_of_issue_jump hvalid exec_probe_lookupAct (lookupAct_jumps hlive hroom hen (hout.trans_ne (by decide)) htarget), hqueued, hcmd, ?_⟩
      refine (congrArg (fun q => tabGet (entryAt p a w) q.tags) (htable.trans (congrArg Lookup.table hlookup))).trans ?_
      exact (tabGet_tabSet _ _ _ _).trans (if_pos rfl)

end Sys2Proof.Proofs
end

section
/-! PROOFS. The lease of an array, operand slots and format words (R117, R118, R122, R123, R126, R343, R353, R354, R394, R398), and O27. -/

namespace Sys2Proof.Proofs

set_option Elab.async false

open Sys2Proof.Machine Sys2Proof.Claims Sys2Proof.Laws

variable {s u : State} {i : Instr} {st : Bool} {n : Nat} {q : QuadState} {l : Lease} {r : LeaseReq}

/-! ## Quads -/

theorem quad_setQuad (s : State) (n : Nat) (q : QuadState) : (s.setQuad n q).quad n = q := by
  rw [State.quad, State.setQuad_quads, tabGet_tabSet, if_pos rfl]
  rfl

/-! ## LEASE and LFREE -/

theorem myLease_eq_some_iff : myLease s = some l ↔ Leased s l := by
  rw [myLease, Option.filter_eq_some_iff, beq_iff_eq]
  rfl

theorem myLease_eq_none_iff : myLease s = none ↔ ∀ k, ¬Leased s k := by
  rw [Option.eq_none_iff_forall_ne_some]
  exact forall_congr' fun k => not_congr myLease_eq_some_iff

/-- Whether the context holds the array's lease or has asked for it. -/
def Asks (s : State) : Prop := (∃ l, Leased s l) ∨ ∃ x ∈ (s.quad s.ctx.quadId).reqs, x.cid = s.ctx.cid

theorem asks_iff : ((myLease s).isSome || (myQuad s).reqs.any (fun r => r.cid == s.ctx.cid)) = true ↔ Asks s := by
  rw [Bool.or_eq_true, Option.isSome_iff_exists, List.any_eq_true, Asks]
  simp only [myLease_eq_some_iff, beq_iff_eq]
  rfl

theorem holds_or_requests_iff :
    ((s.quad s.ctx.quadId).lease.any (fun l => l.cid == s.ctx.cid) || (s.quad s.ctx.quadId).reqs.any (fun r => r.cid == s.ctx.cid)) = true ↔
      Asks s := by
  rw [Bool.or_eq_true, Option.any_eq_true, List.any_eq_true, Asks]
  simp only [beq_iff_eq, Leased]

theorem giveUpLease_of_asks (h : Asks s) : s.giveUpLease s.ctx.quadId s.ctx.cid =
    s.setQuad s.ctx.quadId { s.quad s.ctx.quadId with freed := s.ctx.cid :: (s.quad s.ctx.quadId).freed } :=
  if_pos (holds_or_requests_iff.2 h)

theorem giveUpLease_of_not_asks (h : ¬Asks s) : s.giveUpLease s.ctx.quadId s.ctx.cid = s := if_neg (mt holds_or_requests_iff.1 h)

theorem leaseAndLfree : LeaseAndLfree := by
  intro s st ma f w q r asks
  refine ⟨fun hvalid haligned hfree => completes_of_issue_go hvalid exec_lease ?_,
    fun hvalid h => traps_of_issue_trap hvalid exec_lease (if_pos (asks_iff.2 h)),
    fun hvalid hfree hodd => traps_of_issue_trap hvalid exec_lease ((if_neg (mt asks_iff.1 hfree)).trans (if_pos hodd)),
    fun hvalid h => completes_of_issue_go hvalid exec_lfree (congrArg Act.go (giveUpLease_of_asks h)),
    fun hvalid h => completes_of_issue_go hvalid exec_lfree (congrArg Act.go (giveUpLease_of_not_asks h))⟩
  exact (if_neg (mt asks_iff.1 hfree)).trans (if_neg (not_not.2 haligned))

/-! ## The end of a cycle -/

/-- Whether a lease ends with the cycle: its run is used up, or its holder gives it up. -/
def LeaseEnds (q : QuadState) (l : Lease) : Prop := l.left = 0 ∨ l.cid ∈ q.freed

/-- A quad whose lease has ended. -/
def unleased (q : QuadState) : QuadState := { q with lease := none }

theorem settleLease_of_kept (hlease : (s.quad n).lease = some l) (hkept : ¬LeaseEnds (s.quad n) l) (fuel : Nat) :
    settleLease n fuel s = s := by
  cases fuel
  case zero => rfl
  case succ fuel =>
    rw [settleLease]
    simp only [hlease]
    exact if_neg (by simpa [LeaseEnds] using hkept)

theorem settleLease_of_ending (hlease : (s.quad n).lease = some l) (hends : LeaseEnds (s.quad n) l) (fuel : Nat) :
    settleLease n (fuel + 1) s = settleLease n fuel (s.setQuad n (unleased (s.quad n))) := by
  rw [settleLease]
  simp only [hlease]
  exact if_pos (by simpa [LeaseEnds] using hends)

theorem settleLease_of_request (hlease : (s.quad n).lease = none) (hnext : nextRequest (s.quad n) = some r) (fuel : Nat) :
    settleLease n (fuel + 1) s = settleLease n fuel (s.grant n r) := by
  rw [settleLease]
  simp only [hlease, hnext]

theorem settleLease_of_no_request (hlease : (s.quad n).lease = none) (hnext : nextRequest (s.quad n) = none) (fuel : Nat) :
    settleLease n (fuel + 1) s = s := by
  rw [settleLease]
  simp only [hlease, hnext]

theorem nextRequest_of_no_requests (h : q.reqs = []) : nextRequest q = none := by
  rw [nextRequest, List.findSome?_eq_none_iff]
  intro p _
  rw [h, List.find?_nil]

theorem nextRequest_congr {q' : QuadState} (hlast : q'.last = q.last) (hreqs : q'.reqs = q.reqs) : nextRequest q' = nextRequest q := by
  rw [nextRequest, nextRequest, hlast, hreqs]

/-- A quad that a request has been granted in. -/
def granted (q : QuadState) (r : LeaseReq) : QuadState :=
  { q with lease := some { cid := r.cid, left := q.leaseMax, next := 0, cw := r.cw }, last := r.pos,
           reqs := q.reqs.filter (fun t => t.cid != r.cid) }

theorem grant_of_focused (hfocus : s.ctx.isId r.cid = true) :
    s.grant n r = (s.setQuad n (granted (s.quad n) r)).writeAt 1 (.flagGrant r.flag) := if_pos hfocus

/-- What the end of a cycle leaves of a quad after the leases are settled. -/
def withdrawn (q : QuadState) : QuadState := { q with reqs := q.reqs.filter (fun r => !q.freed.contains r.cid), freed := [] }

theorem settleQuad_of_idle (h : ((s.quad n).freed.isEmpty && (s.quad n).reqs.isEmpty && !(s.quad n).lease.any (fun l => l.left == 0)) = true) :
    s.settleQuad n = s := if_pos h

theorem settleQuad_of_busy (h : ((s.quad n).freed.isEmpty && (s.quad n).reqs.isEmpty && !(s.quad n).lease.any (fun l => l.left == 0)) ≠ true) :
    s.settleQuad n = (settleLease n (2 * (s.quad n).reqs.length + 3) s).setQuad n
      (withdrawn ((settleLease n (2 * (s.quad n).reqs.length + 3) s).quad n)) := if_neg h

theorem settleQuad_of_kept (hlease : (s.quad n).lease = some l) (hkept : ¬LeaseEnds (s.quad n) l) :
    (s.settleQuad n).quad n = withdrawn (s.quad n) ∧ (s.settleQuad n).ctx = s.ctx := by
  by_cases hidle : ((s.quad n).freed.isEmpty && (s.quad n).reqs.isEmpty && !(s.quad n).lease.any (fun l => l.left == 0)) = true
  case pos =>
    rw [settleQuad_of_idle hidle]
    simp only [Bool.and_eq_true, List.isEmpty_iff] at hidle
    obtain ⟨⟨hfreed, hreqs⟩, -⟩ := hidle
    refine ⟨?_, rfl⟩
    rw [withdrawn, hreqs, List.filter_nil, ← hfreed, ← hreqs]
  case neg =>
    rw [settleQuad_of_busy hidle, settleLease_of_kept hlease hkept, quad_setQuad]
    exact ⟨rfl, rfl⟩

/-- A free array grants the next request, and the new lease goes on. -/
theorem settleLease_grants (hlease : (s.quad n).lease = none) (hnext : nextRequest (s.quad n) = some r) (hmax : 0 < (s.quad n).leaseMax)
    (hstays : r.cid ∉ (s.quad n).freed) (hfocus : s.ctx.isId r.cid = true) (fuel : Nat) :
    settleLease n (fuel + 1) s = (s.setQuad n (granted (s.quad n) r)).writeAt 1 (.flagGrant r.flag) := by
  have hquad : ((s.setQuad n (granted (s.quad n) r)).writeAt 1 (.flagGrant r.flag)).quad n = granted (s.quad n) r := quad_setQuad _ _ _
  rw [settleLease_of_request hlease hnext, grant_of_focused hfocus]
  refine settleLease_of_kept (l := { cid := r.cid, left := (s.quad n).leaseMax, next := 0, cw := r.cw }) (congrArg QuadState.lease hquad) ?_ fuel
  rw [hquad]
  rintro (hleft | hfreed)
  · exact hmax.ne' hleft
  · exact hstays hfreed

theorem settleQuad_of_request (hnext : nextRequest (s.quad n) = some r)
    (hsettled : settleLease n (2 * (s.quad n).reqs.length + 3) s = u) : s.settleQuad n = u.setQuad n (withdrawn (u.quad n)) := by
  have hbusy : ((s.quad n).freed.isEmpty && (s.quad n).reqs.isEmpty && !(s.quad n).lease.any (fun l => l.left == 0)) ≠ true := by
    intro hidle
    simp only [Bool.and_eq_true, List.isEmpty_iff] at hidle
    exact Option.some_ne_none r (hnext.symm.trans (nextRequest_of_no_requests hidle.1.2))
  rw [settleQuad_of_busy hbusy, hsettled]

/-- The quad and the context after a grant has been settled. -/
theorem granted_settles {v : State} (hquad : v.quad n = granted q r) (hctx : v.ctx = { s.ctx with
    flight := s.ctx.flight ++ [⟨s.now + 1, .flagGrant r.flag⟩] }) :
    let u := v.setQuad n (withdrawn (v.quad n))
    (u.quad n).lease = some { cid := r.cid, left := q.leaseMax, next := 0, cw := r.cw } ∧ (u.quad n).last = r.pos ∧
      (∀ x ∈ (u.quad n).reqs, x.cid ≠ r.cid) ∧ u.ctx.flight = s.ctx.flight ++ [⟨s.now + 1, .flagGrant r.flag⟩] := by
  intro u
  have hu : u.quad n = withdrawn (granted q r) := by rw [quad_setQuad, hquad]
  rw [hu]
  refine ⟨rfl, rfl, fun x hx => ?_, (congrArg Ctx.flight hctx :)⟩
  have hasked : x ∈ q.reqs.filter (fun t => t.cid != r.cid) := List.mem_of_mem_filter hx
  exact bne_iff_ne.1 (List.mem_filter.1 hasked).2

theorem leasesAreSettledAtTheEndOfACycle : LeasesAreSettledAtTheEndOfACycle := by
  intro s n r l q u
  refine ⟨fun hlease hleft hholds => settleQuad_of_kept hlease (not_or.2 ⟨hleft.ne', hholds⟩),
    fun hnext hmax hstays hfocus hfree => ?_, fun hreqs hlease hends => ?_⟩
  · rcases hfree with hnone | ⟨hsome, hends⟩
    · have hu : u = _ := settleQuad_of_request hnext (settleLease_grants hnone hnext hmax hstays hfocus _)
      rw [hu]
      exact granted_settles (quad_setQuad _ _ _) rfl
    · have hquad : (s.setQuad n (unleased q)).quad n = unleased q := quad_setQuad _ _ _
      have hgrant := fun fuel => settleLease_grants (s := s.setQuad n (unleased q)) (n := n) (r := r) (by rw [hquad]; rfl)
        (by rw [hquad]; exact (nextRequest_congr rfl rfl).trans hnext) (by rw [hquad]; exact hmax) (by rw [hquad]; exact hstays) hfocus fuel
      have hu : u = _ := settleQuad_of_request hnext ((settleLease_of_ending hsome hends _).trans (hgrant _))
      rw [hu, hquad]
      exact granted_settles (q := unleased q) (quad_setQuad _ _ _) rfl
  · have hquad : (s.setQuad n (unleased q)).quad n = unleased q := quad_setQuad _ _ _
    have hnone : nextRequest (unleased q) = none := nextRequest_of_no_requests hreqs
    have hbusy : (q.freed.isEmpty && q.reqs.isEmpty && !q.lease.any (fun l => l.left == 0)) ≠ true := by
      rw [hlease]
      rcases hends with hleft | hfreed
      · simp [hleft]
      · simp [List.ne_nil_of_mem hfreed]
    have hu : u = _ := settleQuad_of_busy hbusy
    rw [hu, quad_setQuad, settleLease_of_ending hlease hends,
      settleLease_of_no_request (s := s.setQuad n (unleased q)) (by rw [hquad]; rfl) (by rw [hquad]; exact hnone), hquad]
    rfl

/-! ## Operand slots and format words -/

theorem claimedBytes_get (a : Nat) : claimedBytes.get a = if 6144 ≤ a ∧ a < 6208 then 0x7F else 0 := by
  rw [claimedBytes, Memory.get_write rfl, List.length_replicate, Memory.get_empty]
  split
  case isTrue h => rw [List.getD_eq_getElem _ _ (by rw [List.length_replicate]; omega), List.getElem_replicate]
  case isFalse => rfl

/-- SCLAIM of a slot (R394). -/
def claimed (s : State) (n : BitVec 6) (p : Nat) : State :=
  (s.setMyQuad { myQuad s with slots := vset (myQuad s).slots p { OpSlot.reset with holder := some s.ctx.cid, bytes := claimedBytes } }).modEng
    (fun e => { e with names := tabSet n.toNat p e.names })

/-- SCLAIM of a name (R394). -/
def claimAct (n : BitVec 6) (s : State) : Act :=
  match (List.range 48).find? (fun p => (vget (myQuad s).slots p .reset).free) with
  | none => .trap 0x12 (n.setWidth 64)
  | some p => if 48 ≤ n.toNat || (slotOfName s.ctx.eng n.toNat).isSome then .trap 0x12 (n.setWidth 64) else .go (claimed s n p)

theorem exec_sclaim_claimAct {n : BitVec 6} : exec (.sclaim st n) s = issue (.sclaim st n) (fun s _ => claimAct n s) s := by
  rw [exec_sclaim]; rfl

theorem claimAct_claims {n : BitVec 6} {p : Nat} (hn : n.toNat < 48) (hname : slotOfName s.ctx.eng n.toNat = none) (hp : p < 48)
    (hfree : (vget (myQuad s).slots p .reset).free = true) (hfirst : ∀ o, o < p → (vget (myQuad s).slots o .reset).free = false) :
    claimAct n s = .go (claimed s n p) := by
  have hfind : (List.range 48).find? (fun p => (vget (myQuad s).slots p .reset).free) = some p := by
    rw [List.find?_range_eq_some]
    exact ⟨hfree, List.mem_range.2 hp, fun o ho => by simp [hfirst o ho]⟩
  rw [claimAct, hfind]
  exact if_neg (by simp [hname, hn])

theorem claimAct_traps {n : BitVec 6} (h : 48 ≤ n.toNat ∨ slotOfName s.ctx.eng n.toNat ≠ none ∨
    ∀ o, o < 48 → (vget (myQuad s).slots o .reset).free = false) : claimAct n s = .trap 0x12 (n.setWidth 64) := by
  rw [claimAct]
  cases hfind : (List.range 48).find? (fun p => (vget (myQuad s).slots p .reset).free)
  case none => rfl
  case some p =>
    refine if_pos ?_
    rcases h with hrange | hname | hfull
    · simp [hrange]
    · simp [Option.isSome_iff_ne_none, hname]
    · have hfound := List.find?_some hfind
      exact absurd hfound (ne_true_of_eq_false (hfull p (List.mem_range.1 (List.mem_of_find?_eq_some hfind))))

/-- A slot that is being released, or is free again. -/
def ReleasesOrFree (o : OpSlot) : Prop := o.draining = true ∨ o = .reset

/-- One step of the settling of slots (R398). -/
def settleSlot (s : State) (quad : Nat) (v : Vector OpSlot 48) (p : Nat) : Vector OpSlot 48 :=
  let o := vget v p .reset
  if o.draining && o.fills.isEmpty && !slotNamed s quad p then vset v p .reset else v

theorem settleSlot_releases (v : Vector OpSlot 48) (k : Nat) {p : Nat} (hp : p < 48) (h : ReleasesOrFree (vget v p .reset)) :
    ReleasesOrFree (vget (settleSlot s n v k) p .reset) := by
  rw [settleSlot]
  split
  case isTrue =>
    by_cases hk : k = p
    case pos => exact hk ▸ .inr (vget_vset_same _ _ _ (hk ▸ hp))
    case neg => rw [vget_vset_of_ne _ _ _ (Ne.symm hk)]; exact h
  case isFalse => exact h

theorem settleSlots_releases (v : Vector OpSlot 48) (ks : List Nat) {p : Nat} (hp : p < 48) (h : ReleasesOrFree (vget v p .reset)) :
    ReleasesOrFree (vget (ks.foldl (settleSlot s n) v) p .reset) := by
  induction ks generalizing v with
  | nil => exact h
  | cons k ks ih => exact ih _ (settleSlot_releases v k hp h)

theorem vget_of_length_le {α : Type} {k : Nat} (v : Vector α k) {p : Nat} (d : α) (hp : k ≤ p) : vget v p d = d := by
  simp [vget, hp]

/-- The slots of a quad once they are settled. -/
def settledSlots (s : State) (n : Nat) : Vector OpSlot 48 := (List.range 48).foldl (settleSlot s n) (s.quad n).slots

theorem settleSlots_eq (s : State) (n : Nat) : s.settleSlots n = s.setQuad n { s.quad n with slots := settledSlots s n } := rfl

theorem settleSlots_slots (s : State) (n : Nat) : ((s.settleSlots n).quad n).slots = settledSlots s n := by
  rw [settleSlots_eq, quad_setQuad]

/-- SFREE's name unmapped and its slot released, before what is free again is settled. -/
def unclaimed (s : State) (n : BitVec 6) (p : Nat) : State :=
  (s.setMyQuad { myQuad s with slots := vset (myQuad s).slots p { vget (myQuad s).slots p .reset with draining := true } }).modEng
    (fun e => { e with names := tabDel n.toNat e.names })

theorem unclaimed_quad (n : BitVec 6) (p : Nat) :
    ((unclaimed s n p).quad s.ctx.quadId).slots = vset (myQuad s).slots p { vget (myQuad s).slots p .reset with draining := true } :=
  congrArg QuadState.slots (quad_setQuad _ _ _)

theorem completes_sfree {n : BitVec 6} {p : Nat} (hvalid : Valid (.sfree st n) s) (hname : slotOfName s.ctx.eng n.toNat = some p) :
    Completes (.sfree st n) s ((unclaimed s n p).settleSlots s.ctx.quadId) := by
  refine completes_of_issue_go hvalid exec_sfree ?_
  simp only [hname]
  rfl

theorem operandSlotsAndFormats : OperandSlotsAndFormats := by
  intro s st n ma p q
  refine ⟨fun hvalid hn hname hp hfree hfirst => ?_, fun hvalid h => traps_of_issue_trap hvalid exec_sclaim_claimAct (claimAct_traps h),
    fun hvalid hname => ?_, fun hvalid hroom hgood => completes_of_issue_go hvalid exec_fwq (if_neg ?_)⟩
  · have hquad : ((claimed s n p).quad s.ctx.quadId).slots =
        vset q.slots p { OpSlot.reset with holder := some s.ctx.cid, bytes := claimedBytes } := congrArg QuadState.slots (quad_setQuad _ _ _)
    refine ⟨claimed s n p, completes_of_issue_go hvalid exec_sclaim_claimAct (claimAct_claims hn hname hp hfree hfirst),
      (tabGet_tabSet _ _ _ _).trans (if_pos rfl), ?_, fun o ho => ?_⟩
    · rw [hquad, vget_vset_same _ _ _ hp]
      exact ⟨rfl, rfl, rfl, claimedBytes_get⟩
    · rw [hquad, vget_vset_of_ne _ _ _ ho]
  · refine ⟨_, completes_sfree hvalid hname, rfl, ?_⟩
    rw [settleSlots_slots, settledSlots, unclaimed_quad]
    by_cases hp : p < 48
    case pos => exact settleSlots_releases _ _ hp (.inl (by rw [vget_vset_same _ _ _ hp]))
    case neg => exact .inr (vget_of_length_le _ _ (Nat.not_lt.1 hp))
  · have hword : badFormat (rd s (turn s) ma) = false := hgood
    simpa [hword] using hroom

/-! ## O27 -/

/-- Settles O27: the lease by its request, its run and the withdrawals of the cycle; slots and format words by the checks of their
instructions. -/
theorem leasesOperandSlotsAndFormats : Obligations.LeasesOperandSlotsAndFormats :=
  ⟨leaseAndLfree, leasesAreSettledAtTheEndOfACycle, operandSlotsAndFormats⟩

end Sys2Proof.Proofs
end

section
/-! PROOFS. Where loads, stores, atomics and tile commands trap or wait (R95, R122, R129, R134, R159 to R161, R349, R406), and O28. -/

namespace Sys2Proof.Proofs

open Sys2Proof.Machine Sys2Proof.Claims Sys2Proof.Laws

variable {s : State} {st : Bool} {a : W64} {n : Nat} {t : TlbEntry} {sz : BitVec 3} {cls : BitVec 2} {need : Need}

/-! ## LD -/

theorem loadAct_of_checks {dst : BitVec 5} {c : Cluster} {stop : Act} (h : ∀ act, spReadChecks s a (bytesOf sz) act = stop) :
    loadAct dst sz a s c = stop := by
  simp only [loadAct, sizeOf_eq_bytesOf, h]

theorem scratchpadLoadTraps : ScratchpadLoadTraps := by
  intro s st dst base sz cls off a hvalid
  have haddr : rd s (turn s) base + memOffset sz off = a := add_memOffset_eq_effective (size_of_valid_ld hvalid) base off
  refine ⟨fun hwm => waits_of_issue_wait hvalid exec_ld_loadAct ?_, fun hfree hodd => traps_of_issue_trap hvalid exec_ld_loadAct ?_,
    fun hfree haligned hout => traps_of_issue_trap hvalid exec_ld_loadAct ?_,
    fun w hfree haligned hfits hearly => traps_of_issue_trap hvalid exec_ld_loadAct ?_⟩
  all_goals rw [haddr]
  · exact loadAct_of_checks fun _ => spReadChecks_waits hwm
  · exact loadAct_of_checks fun _ => spReadChecks_align hfree hodd
  · exact loadAct_of_checks fun _ => spReadChecks_range hfree haligned hout
  · exact loadAct_of_checks fun _ => spReadChecks_early hfree haligned hfits hearly

/-! ## Global writes -/

theorem translate_of_no_leaf (h : lookup s s.ctx.coreId s.ctx.asid a = none) : translate s s.ctx.coreId s.ctx.asid need a = .error 0x06 := by
  rw [Machine.translate, h]

theorem translate_of_denied (h : lookup s s.ctx.coreId s.ctx.asid a = some t) (hdenied : pteW t.pte = false) :
    translate s s.ctx.coreId s.ctx.asid .write a = .error 0x07 := by
  rw [Machine.translate, h]
  exact if_neg (ne_true_of_eq_false hdenied)

theorem withElems_of_walk_free_fault {code : Nat} {f : State → List Elem → Act} (hwalk : WalkFree s a)
    (h : translate s s.ctx.coreId s.ctx.asid need a = .error code) : withElems s need [a] f = .trap code a :=
  (withElems_of_fault h).trans (if_neg (ne_true_of_eq_false hwalk))

/-- What an act comes to that first checks its alignment and then translates its address for writing. -/
def WritesAt (s : State) (a : W64) (n : Nat) (act : Act) : Prop :=
  ∃ f, act = if a.toNat % n ≠ 0 then .trap 0x05 a else withElems s .write [a] f

section Writes

variable {act : Act} (hact : WritesAt s a n act)

include hact

theorem writesAt_misaligned (h : a.toNat % n ≠ 0) : act = .trap 0x05 a := by
  obtain ⟨f, rfl⟩ := hact
  exact if_pos h

theorem writesAt_waits (haligned : a.toNat % n = 0) (hwalk : ¬WalkFree s a) : act = .wait .none := by
  obtain ⟨f, rfl⟩ := hact
  exact (if_neg (not_not.2 haligned)).trans (withElems_of_walk_held hwalk)

theorem writesAt_fault {code : Nat} (haligned : a.toNat % n = 0) (hwalk : WalkFree s a)
    (h : translate s s.ctx.coreId s.ctx.asid .write a = .error code) : act = .trap code a := by
  obtain ⟨f, rfl⟩ := hact
  exact (if_neg (not_not.2 haligned)).trans (withElems_of_walk_free_fault hwalk h)

end Writes

/-- The traps and the wait of an instruction that writes at an address. -/
theorem writeTraps {i : Instr} {g : State → Cluster → Act} (hvalid : Valid i s) (hexec : exec i s = issue i g s)
    (hact : WritesAt s a n (g s (turn s))) :
    (a.toNat % n ≠ 0 → Traps i s 0x05 a) ∧
    (a.toNat % n = 0 → ¬WalkFree s a → Waits i s .none) ∧
    (a.toNat % n = 0 → WalkFree s a → lookup s s.ctx.coreId s.ctx.asid a = none → Traps i s 0x06 a) ∧
    (∀ t, a.toNat % n = 0 → WalkFree s a → lookup s s.ctx.coreId s.ctx.asid a = some t → pteW t.pte = false → Traps i s 0x07 a) :=
  ⟨fun h => traps_of_issue_trap hvalid hexec (writesAt_misaligned hact h),
    fun haligned hwalk => waits_of_issue_wait hvalid hexec (writesAt_waits hact haligned hwalk),
    fun haligned hwalk h => traps_of_issue_trap hvalid hexec (writesAt_fault hact haligned hwalk (translate_of_no_leaf h)),
    fun _ haligned hwalk h hdenied =>
      traps_of_issue_trap hvalid hexec (writesAt_fault hact haligned hwalk (translate_of_denied h hdenied))⟩

theorem faultsThen_one {p : Prop} [Decidable p] {code code' : Nat} {tval tval' : W64} {act : Act} :
    faultsThen [(decide p, code, tval), (false, code', tval')] act = if p then .trap code tval else act := by
  by_cases h : p <;> simp [h, faultsThen_hit, faultsThen_pass, faultsThen_nil]

theorem storeAct_writesAt {c : Cluster} {data : VReg} {ord : BitVec 2} {scope : BitVec 3} {pre : State → State} :
    WritesAt s a n (storeAct s c a n data false cls ord scope pre) := by
  refine ⟨?global, ?eq⟩
  case eq =>
    rw [storeAct, if_neg Bool.false_ne_true]
    exact faultsThen_one (p := a.toNat % n ≠ 0)

theorem atomicAct_writesAt {i : Instr} {b : BitVec 4} {loadQ : Bool} {kind : AccKind} {data : VReg} {ord : BitVec 2} {scope : BitVec 3}
    {c : Cluster} : WritesAt s a n (atomicAct i b false a n loadQ kind data ord scope s c) :=
  ⟨_, (if_neg Bool.false_ne_true).trans (if_neg Bool.false_ne_true)⟩

theorem globalAccessTraps : GlobalAccessTraps := by
  intro s st w dst base rs sz cls off b op ord scope
  constructor
  · intro n a hvalid
    refine writeTraps hvalid exec_st ?_
    rw [add_memOffset_eq_effective (size_of_valid_st hvalid), sizeOf_eq_bytesOf]
    exact storeAct_writesAt
  · intro n a hvalid
    exact writeTraps hvalid exec_amo_atomicAct atomicAct_writesAt

/-! ## Tile commands -/

theorem tileCommand_without_lease {i : Instr} {f : Lease → Act} (h : ∀ k, ¬Leased s k) : tileCommand i s f = .trap 0x13 (wordTval i) := by
  rw [tileCommand, myLease_eq_none_iff.2 h]
  rfl

theorem tileCommand_of_leased {i : Instr} {l : Lease} {f : Lease → Act} (h : Leased s l) : tileCommand i s f = f l := by
  rw [tileCommand, myLease_eq_some_iff.2 h]

theorem ownedTval_of_other {n : BitVec 4} {o : Nat} (htag : tagOf s s n = some o) (hother : o ≠ s.ctx.cid)
    (hsaved : s.ctx.eng.asaved.getLsbD n.toNat = false) : ownedTval s n.toNat = some (BitVec.ofNat 64 (n.toNat + 256)) := by
  have htile : (vget (myQuad s).tiles n.toNat .reset).tag = some o := htag
  have hne : (o != s.ctx.cid) = true := bne_iff_ne.2 hother
  simp [ownedTval, htile, hne, hsaved]

theorem tileCommandTraps : TileCommandTraps := by
  intro s st z n xa xb l
  refine ⟨fun hvalid h => traps_of_issue_trap hvalid exec_mma (tileCommand_without_lease h),
    fun hvalid h => traps_of_issue_trap hvalid exec_accz (tileCommand_without_lease h),
    fun hvalid h hname => traps_of_issue_trap hvalid exec_mma ((tileCommand_of_leased h).trans ?_),
    fun o htag hother hsaved => ⟨fun hvalid h => traps_of_issue_trap hvalid exec_accz ((tileCommand_of_leased h).trans ?_),
      fun hvalid => traps_of_issue_trap hvalid exec_aclaim ?_⟩⟩
  · simp only [hname]
  · simp only [ownedTval_of_other htag hother hsaved]
  · simp only [ownedTval_of_other htag hother hsaved]

/-! ## O28 -/

/-- Settles O28: the first check that fails decides, in the order of the rules. -/
theorem memoryAndCommandTraps : Obligations.MemoryAndCommandTraps :=
  ⟨scratchpadLoadTraps, globalAccessTraps, roundStateTraps, tileCommandTraps⟩

end Sys2Proof.Proofs
end

section
/-! PROOFS. Tile commands at issue and LHINT (R129 to R138, R152, R311 to R315, R318, R320, R355, R358, R363), and O29. -/

namespace Sys2Proof.Proofs

open Sys2Proof.Machine Sys2Proof.Claims Sys2Proof.Laws

variable {s u p : State} {i : Instr} {st : Bool} {n m : BitVec 4} {l : Lease} {counted : Bool} {op : TileOp} {c : Cluster}

/-! ## Acceptance -/

/-- `p` is `s` on the way to accepting a tile command: the command has been signed, and the array's queue is as it was. -/
def Signed (s p : State) : Prop :=
  p.now = s.now ∧ p.ctx.quadId = s.ctx.quadId ∧ p.ctx.cid = s.ctx.cid ∧ p.ctx.nextAcc = s.ctx.nextAcc + 1 ∧ behindHeld p = behindHeld s ∧
    (p.quad s.ctx.quadId).queue = (s.quad s.ctx.quadId).queue

theorem behindHeld_eq_false (hrun : s.ctx.eng.arrayRun = .run) (hheld : s.ctx.eng.held = []) : behindHeld s = false := by
  simp [behindHeld, hrun, hheld]

/-- The command that an acceptance makes. -/
def acceptedCommand (p : State) (l : Lease) (tile : Nat) (op : TileOp) : TileCmd :=
  { cid := p.ctx.cid, num := l.next, tile := tile, cw := l.cw, issued := p.now, after := p.ctx.nextAcc, retry := false, op := op }

/-- The quad once a command has been accepted. -/
def acceptedQuad (p : State) (l : Lease) (counted : Bool) (tile : Nat) (op : TileOp) : QuadState :=
  { myQuad p with
    lease := some { l with left := if counted then l.left - 1 else l.left, next := l.next + 1 }
    queue := (myQuad p).queue ++ [acceptedCommand p l tile op] }

/-- The state in which the lease's run goes on behind an accepted command, before the command is queued. -/
def runGone (p : State) (l : Lease) (counted : Bool) : State :=
  (p.setMyQuad { myQuad p with lease := some { l with left := if counted then l.left - 1 else l.left, next := l.next + 1 } }).modCtx Ctx.tick

theorem myQuad_runGone : myQuad (runGone p l counted) =
    { myQuad p with lease := some { l with left := if counted then l.left - 1 else l.left, next := l.next + 1 } } := quad_setQuad _ _ _

theorem queueTile_of_running {cmd : TileCmd} (hrun : behindHeld p = false) :
    p.queueTile cmd = p.setMyQuad { myQuad p with queue := (myQuad p).queue ++ [cmd] } := if_neg (ne_true_of_eq_false hrun)

theorem accept_eq (tile : Nat) : p.accept l counted tile op = (runGone p l counted).queueTile (acceptedCommand p l tile op) := rfl

theorem accept_of_running (hrun : behindHeld p = false) (tile : Nat) :
    (p.accept l counted tile op).quad p.ctx.quadId = acceptedQuad p l counted tile op ∧
      (p.accept l counted tile op).ctx = p.ctx.tick := by
  have hlive : behindHeld (runGone p l counted) = false := hrun
  rw [accept_eq, queueTile_of_running hlive, myQuad_runGone]
  exact ⟨quad_setQuad _ _ _, rfl⟩

/-- What an accepted command leaves: its place in the queue, the run of the lease, the tags, and the context but for its place in issue order. -/
theorem accepted_of_signed (hsigned : Signed s p) (hrun : behindHeld s = false) :
    Accepted s (p.accept l counted n.toNat op) l n (s.ctx.nextAcc + 1) op ∧ RunGoesOn s (p.accept l counted n.toNat op) l counted ∧
      tagOf s (p.accept l counted n.toNat op) m = tagOf s p m ∧ (p.accept l counted n.toNat op).ctx = p.ctx.tick := by
  obtain ⟨hnow, hquadId, hcid, hnext, hbehind, hqueue⟩ := hsigned
  obtain ⟨hquad, hctx⟩ := accept_of_running (l := l) (counted := counted) (op := op) (hbehind.trans hrun) n.toNat
  rw [hquadId] at hquad
  have hmine : myQuad p = p.quad s.ctx.quadId := by rw [myQuad, hquadId]
  rw [Accepted, RunGoesOn, Claims.tagOf, Claims.tagOf, hquad, acceptedQuad, acceptedCommand, hmine, hqueue, hnow, hcid, hnext]
  exact ⟨rfl, rfl, rfl, hctx⟩

/-! ## Signatures and tags -/

theorem signTile_signed (s : State) (c : Cluster) (i : Instr) (regs : List W64) : Signed s (signTile s c i regs) := by
  have hctx := signCommand_ctx s c (encode i) regs
  refine ⟨rfl, ?_, ?_, ?_, ?_, rfl⟩
  · rw [signTile, hctx]; rfl
  · rw [signTile, hctx]
  · rw [signTile, hctx]
  · rw [signTile, behindHeld, hctx]; rfl

theorem signTile_eng (s : State) (c : Cluster) (i : Instr) (regs : List W64) : (signTile s c i regs).ctx.eng = s.ctx.eng := by
  rw [signTile, signCommand_ctx]

theorem signTile_flight (s : State) (c : Cluster) (i : Instr) (regs : List W64) : (signTile s c i regs).ctx.flight = s.ctx.flight := by
  rw [signTile, signCommand_ctx]

theorem signTile_nextAcc (s : State) (c : Cluster) (i : Instr) (regs : List W64) : (signTile s c i regs).ctx.nextAcc = s.ctx.nextAcc + 1 := by
  rw [signTile, signCommand_ctx]

theorem tagTile_quad (p : State) (n : Nat) (tag : Option Nat) :
    (p.tagTile n tag).quad p.ctx.quadId =
      { myQuad p with tiles := vset (myQuad p).tiles n { vget (myQuad p).tiles n .reset with tag := tag } } := quad_setQuad _ _ _

theorem tagTile_ctx (p : State) (n : Nat) (tag : Option Nat) : (p.tagTile n tag).ctx = p.ctx := rfl

theorem tagOf_tagTile (hquadId : p.ctx.quadId = s.ctx.quadId) (n : BitVec 4) (tag : Option Nat) : tagOf s (p.tagTile n.toNat tag) n = tag := by
  rw [Claims.tagOf, ← hquadId, tagTile_quad, vget_vset_same _ _ _ n.isLt]

theorem Signed.tagTile (h : Signed s p) (n : Nat) (tag : Option Nat) : Signed s (p.tagTile n tag) := by
  obtain ⟨hnow, hquadId, hcid, hnext, hbehind, hqueue⟩ := h
  have htagged := congrArg QuadState.queue (tagTile_quad p n tag)
  rw [hquadId] at htagged
  exact ⟨hnow, hquadId, hcid, hnext, hbehind, htagged.trans ((congrArg (fun k => (p.quad k).queue) hquadId).trans hqueue)⟩

theorem Signed.modEng {f : Engines → Engines} (h : Signed s p) (hf : ∀ e, (f e).arrayRun = e.arrayRun ∧ (f e).held = e.held) :
    Signed s (p.modEng f) := by
  obtain ⟨hnow, hquadId, hcid, hnext, hbehind, hqueue⟩ := h
  refine ⟨hnow, hquadId, hcid, hnext, Eq.trans ?_ hbehind, hqueue⟩
  rw [behindHeld, behindHeld, State.modEng, State.modCtx_ctx, (hf _).1, (hf _).2]

theorem Signed.writeAt (h : Signed s p) (k : Nat) (e : Effect) : Signed s (p.writeAt k e) := h

/-! ## The instructions -/

section Commands

variable (hleased : Leased s l) (hrun : behindHeld s = false)

include hleased hrun

theorem completes_accz (hfree : ownedTval s n.toNat = none) (hvalid : Valid (.accz st n) s) :
    ∃ u, Completes (.accz st n) s u ∧ Accepted s u l n (s.ctx.nextAcc + 1) .accz ∧ RunGoesOn s u l true ∧ tagOf s u n = some s.ctx.cid := by
  have hsigned := (signTile_signed s (turn s) (.accz st n) []).tagTile n.toNat (some s.ctx.cid)
  obtain ⟨haccepted, hgoes, htag, -⟩ := accepted_of_signed (l := l) (counted := true) (n := n) (m := n) (op := .accz) hsigned hrun
  refine ⟨_, completes_of_issue_go hvalid exec_accz ((tileCommand_of_leased hleased).trans ?_), haccepted, hgoes,
    htag.trans (tagOf_tagTile (signTile_signed s (turn s) (.accz st n) []).2.1 n _)⟩
  simp only [hfree]

theorem completes_lsflag {ma : BitVec 5} {clr sum : Bool} (hfree : ownedTval s n.toNat = none) (hvalid : Valid (.lsflag st ma clr sum n) s)
    (haligned : (src s ma).toNat % 8 = 0) (hfits : (src s ma).toNat + (if sum then 8 else 512) ≤ s.ctx.spSize) :
    ∃ u, Completes (.lsflag st ma clr sum n) s u ∧ Accepted s u l n (s.ctx.nextAcc + 1) (.lsflag (src s ma) sum clr) ∧ RunGoesOn s u l true := by
  obtain ⟨haccepted, hgoes, -⟩ := accepted_of_signed (l := l) (counted := true) (n := n) (m := n) (op := .lsflag (src s ma) sum clr)
    (signTile_signed s (turn s) (.lsflag st ma clr sum n) [src s ma]) hrun
  refine ⟨_, completes_of_issue_go hvalid exec_lsflag ((tileCommand_of_leased hleased).trans ?_), haccepted, hgoes⟩
  have halign : (rd s (turn s) ma).toNat % 8 = 0 := haligned
  have hin : spOut s.ctx (rd s (turn s) ma).toNat (if sum then 8 else 512) = false := spOut_eq_false hfits
  simp only [hfree, halign, hin, ne_eq, not_true_eq_false, decide_false, faultsThen_pass, faultsThen_nil]
  rfl

theorem completes_accspill (hown : tagOf s s n = none ∨ tagOf s s n = some s.ctx.cid) (hvalid : Valid (.accspill st n) s) :
    ∃ u, Completes (.accspill st n) s u ∧ Accepted s u l n (s.ctx.nextAcc + 1) (.spill none) ∧ RunGoesOn s u l false ∧
      tagOf s u n = some s.ctx.cid := by
  have hsigned := (signTile_signed s (turn s) (.accspill st n) []).tagTile n.toNat (some s.ctx.cid)
  obtain ⟨haccepted, hgoes, htag, -⟩ := accepted_of_signed (l := l) (counted := false) (n := n) (m := n) (op := .spill none) hsigned hrun
  have howner : (vget (myQuad s).tiles n.toNat .reset).tag.filter (· != s.ctx.cid) = none := by
    change (tagOf s s n).filter (· != s.ctx.cid) = none
    rcases hown with h | h <;> simp [h]
  refine ⟨_, completes_of_issue_go hvalid exec_accspill ((tileCommand_of_leased hleased).trans ?_), haccepted, hgoes,
    htag.trans (tagOf_tagTile (signTile_signed s (turn s) (.accspill st n) []).2.1 n _)⟩
  simp only [howner]

theorem completes_mma {xa xb : BitVec 6} {z : Bool} {a b : Nat} (hfree : ownedTval s n.toNat = none) (hvalid : Valid (.mma st n xa xb z) s)
    (ha : slotOfName s.ctx.eng xa.toNat = some a) (hb : slotOfName s.ctx.eng xb.toNat = some b) :
    ∃ u, Completes (.mma st n xa xb z) s u ∧
      Accepted s u l n (s.ctx.nextAcc + 1) (.mma a b z (bindFormat (s.ctx.nextAcc + 1) s.ctx.eng.formats).1) ∧ RunGoesOn s u l true ∧
      tagOf s u n = some s.ctx.cid ∧ u.ctx.eng.formats = (bindFormat (s.ctx.nextAcc + 1) s.ctx.eng.formats).2 := by
  have hbound := (signTile_signed s (turn s) (.mma st n xa xb z) []).modEng
    (f := fun e => { e with formats := (bindFormat (s.ctx.nextAcc + 1) s.ctx.eng.formats).2 }) (fun _ => ⟨rfl, rfl⟩)
  have hsigned := hbound.tagTile n.toNat (some s.ctx.cid)
  obtain ⟨haccepted, hgoes, htag, hctx⟩ := accepted_of_signed (l := l) (counted := true) (n := n) (m := n)
    (op := .mma a b z (bindFormat (s.ctx.nextAcc + 1) s.ctx.eng.formats).1) hsigned hrun
  refine ⟨_, completes_of_issue_go hvalid exec_mma ((tileCommand_of_leased hleased).trans ?_), haccepted, hgoes,
    htag.trans (tagOf_tagTile hbound.2.1 n _), (congrArg (fun x : Ctx => x.eng.formats) hctx :)⟩
  simp only [ha, hb, hfree, signTile_eng, signTile_nextAcc]

/-- What an ADRAIN under stochastic rounding schedules: the LFSR after the draws of a tile's elements (R318). -/
def drainWrites (s : State) (w : W64) : List Write :=
  if bits64 w 12 3 = 4 then [⟨s.now + 1, .lfsrStep (Nat.iterate lfsrNext 4096 (curLfsr s))⟩] else []

omit hleased hrun in
theorem lfsrAfter_eq_iterate (v : W32) (k : Nat) : Machine.lfsrAfter v k = Nat.iterate lfsrNext k v := by
  induction k generalizing v with
  | zero => rfl
  | succ k ih => exact ih _

omit hleased hrun in
/-- An ADRAIN's signature and its scheduled LFSR. -/
theorem drain_signed (w : W64) (regs : List W64) :
    ∃ p, p = (if drainMode w = 4 then (signTile s c i regs).writeAt 1 (.lfsrStep (Machine.lfsrAfter (curLfsr s) 4096)) else signTile s c i regs) ∧
      Signed s p ∧ p.ctx.flight = s.ctx.flight ++ drainWrites s w := by
  refine ⟨_, rfl, ?_, ?_⟩
  · split
    · exact (signTile_signed s c i regs).writeAt _ _
    · exact signTile_signed s c i regs
  · rw [drainWrites, ← lfsrAfter_eq_iterate]
    by_cases hmode : drainMode w = 4
    · have hfield : bits64 w 12 3 = 4 := hmode
      rw [if_pos hmode, if_pos hfield]
      exact congrArg (· ++ _) (signTile_flight s c i regs)
    · have hfield : bits64 w 12 3 ≠ 4 := hmode
      rw [if_neg hmode, if_neg hfield, List.append_nil, signTile_flight]

theorem completes_adrain {ma mb mc : BitVec 5} {scope ty : BitVec 3} (hfree : ownedTval s n.toNat = none)
    (hvalid : Valid (.adrain st n ma mb mc scope ty) s) (hword : (src s mc).toNat < 2 ^ 32) (hreserved : bits64 (src s mc) 8 3 = 0)
    (hmode : bits64 (src s mc) 12 3 ≤ 4) (ha : (src s ma).toNat % 4 = 0) (hstride : bits64 (src s mc) 16 16 % 4 = 0)
    (hb : (src s mc).getLsbD 15 = true → (src s mb).toNat % 4 = 0)
    (hfits : (src s ma).toNat + (63 * bits64 (src s mc) 16 16 + drainRow ty) ≤ s.ctx.spSize) :
    ∃ u, Completes (.adrain st n ma mb mc scope ty) s u ∧
      Accepted s u l n (s.ctx.nextAcc + 1) (.drain (src s ma) (src s mb) (src s mc) ty scope (curLfsr s) none) ∧ RunGoesOn s u l true ∧
      u.ctx.flight = s.ctx.flight ++ drainWrites s (src s mc) := by
  obtain ⟨p, hp, hsigned, hflight⟩ := drain_signed (s := s) (c := turn s) (i := .adrain st n ma mb mc scope ty) (src s mc)
    [src s ma, src s mb, src s mc]
  obtain ⟨haccepted, hgoes, -, hctx⟩ := accepted_of_signed (l := l) (counted := true) (n := n) (m := n)
    (op := .drain (src s ma) (src s mb) (src s mc) ty scope (curLfsr s) none) hsigned hrun
  have hgood : ¬(bits64 (src s mc) 32 32 ≠ 0 ∨ bits64 (src s mc) 8 3 ≠ 0 ∨ 4 < drainMode (src s mc)) := by
    have hhigh : bits64 (src s mc) 32 32 = 0 := by rw [bits64, Nat.div_eq_of_lt hword, Nat.zero_mod]
    have hlow : ¬4 < drainMode (src s mc) := Nat.not_lt.2 hmode
    simp [hhigh, hreserved, hlow]
  have hsums : ((src s mc).getLsbD 15 && decide ((src s mb).toNat % 4 ≠ 0)) = false := by
    cases hbit : (src s mc).getLsbD 15
    · rfl
    · simp [hb hbit]
  refine ⟨_, completes_of_issue_go hvalid exec_adrain ((if_neg hgood).trans ((tileCommand_of_leased hleased).trans ?_)), haccepted, hgoes,
    (congrArg Ctx.flight hctx).trans hflight⟩
  have hfaults : ∀ act, faultsThen
      [(decide ((src s ma).toNat % 4 ≠ 0), 0x05, src s ma), (decide (drainStride (src s mc) % 4 ≠ 0), 0x05, src s mc),
        ((src s mc).getLsbD 15 && decide ((src s mb).toNat % 4 ≠ 0), 0x05, src s mb),
        (spOut s.ctx (src s ma).toNat (63 * drainStride (src s mc) + drainRow ty), 0x08, src s ma)] act = act := by
    intro act
    have hin : spOut s.ctx (src s ma).toNat (63 * drainStride (src s mc) + drainRow ty) = false := spOut_eq_false hfits
    have hrows : drainStride (src s mc) % 4 = 0 := hstride
    rw [hsums, hin]
    simp [ha, hrows, faultsThen_pass, faultsThen_nil]
  simp only [hfree]
  exact (hfaults _).trans (congrArg (fun q : State =>
    Act.go (q.accept l true n.toNat (.drain (src s ma) (src s mb) (src s mc) ty scope (curLfsr s) none))) hp.symm)

/-- The mask of saved tiles without tile `n`. -/
def unsaved (e : Engines) (n : BitVec 4) : Engines := { e with asaved := e.asaved &&& ~~~(BitVec.ofNat 16 (2 ^ n.toNat)) }

omit hleased hrun in
theorem unsaved_bit (e : Engines) (n : BitVec 4) : (unsaved e n).asaved.getLsbD n.toNat = false := by
  have hbit : (BitVec.ofNat 16 (2 ^ n.toNat)).getLsbD n.toNat = true := by
    have hn : n.toNat < 16 := n.isLt
    rw [BitVec.getLsbD_ofNat, Nat.testBit_two_pow_self, decide_eq_true hn]
    rfl
  rw [unsaved, BitVec.getLsbD_and, BitVec.getLsbD_not, hbit]
  simp

/-- The state from which an ACCFILL is accepted: the values that it fills with count as saved no longer (R312). -/
def fillFrom (s : State) (c : Cluster) (i : Instr) (n : BitVec 4) : State :=
  if s.ctx.eng.asaved.getLsbD n.toNat then ((signTile s c i []).tagTile n.toNat (some s.ctx.cid)).modEng (unsaved · n) else signTile s c i []

omit hleased hrun in
theorem fillFrom_signed (c : Cluster) (i : Instr) (n : BitVec 4) :
    Signed s (fillFrom s c i n) ∧ (fillFrom s c i n).ctx.eng.asaved.getLsbD n.toNat = false := by
  rw [fillFrom]
  split
  case isTrue =>
    exact ⟨((signTile_signed s c i []).tagTile n.toNat _).modEng (fun _ => ⟨rfl, rfl⟩), unsaved_bit _ n⟩
  case isFalse hsaved =>
    refine ⟨signTile_signed s c i [], ?_⟩
    rw [signTile_eng]
    exact Bool.eq_false_iff.2 hsaved

theorem completes_accfill (hown : tagOf s s n = none ∨ tagOf s s n = some s.ctx.cid) (hvalid : Valid (.accfill st n) s) :
    ∃ u, Completes (.accfill st n) s u ∧ Accepted s u l n (s.ctx.nextAcc + 1) (.fill (s.ctx.eng.asaved.getLsbD n.toNat)) ∧
      RunGoesOn s u l false ∧ u.ctx.eng.asaved.getLsbD n.toNat = false := by
  obtain ⟨hsigned, hbit⟩ := fillFrom_signed (s := s) (turn s) (.accfill st n) n
  obtain ⟨haccepted, hgoes, -, hctx⟩ := accepted_of_signed (l := l) (counted := false) (n := n) (m := n)
    (op := .fill (s.ctx.eng.asaved.getLsbD n.toNat)) hsigned hrun
  have hmine : ¬((tagOf s s n).isSome && tagOf s s n != some s.ctx.cid) = true := by
    rcases hown with h | h <;> simp [h]
  exact ⟨_, completes_of_issue_go hvalid exec_accfill ((tileCommand_of_leased hleased).trans (if_neg hmine)), haccepted, hgoes,
    (congrArg (fun x : Ctx => x.eng.asaved.getLsbD n.toNat) hctx).trans hbit⟩

end Commands

theorem completes_aclaim (hvalid : Valid (.aclaim st n) s) (hfree : ownedTval s n.toNat = none) :
    ∃ u, Completes (.aclaim st n) s u ∧ tagOf s u n = some s.ctx.cid ∧ u.ctx = s.ctx := by
  refine ⟨s.tagTile n.toNat (some s.ctx.cid), completes_of_issue_go hvalid exec_aclaim ?_, tagOf_tagTile rfl n _, tagTile_ctx _ _ _⟩
  simp only [hfree]

/-! ## AFREE -/

/-- What makes the contents of a freed tile undefined for the commands behind it (R320). -/
def forgetCommand (s : State) (n : BitVec 4) : TileCmd :=
  { cid := s.ctx.cid, num := 0, tile := n.toNat, cw := 0, issued := s.now, after := 0, retry := false, op := .forget }

/-- The state that AFREE leaves. -/
def freed (s : State) (n : BitVec 4) : State :=
  if tagOf s s n = some s.ctx.cid then ((s.modEng (unsaved · n)).tagTile n.toNat none).queueTile (forgetCommand s n)
  else s.modEng (unsaved · n)

theorem completes_afree (hvalid : Valid (.afree st n) s) : Completes (.afree st n) s (freed s n) := by
  refine completes_of_issue_go hvalid exec_afree (Eq.trans ?_ (apply_ite Act.go _ _ _).symm)
  rfl

theorem queueTile_asaved (p : State) (cmd : TileCmd) : (p.queueTile cmd).ctx.eng.asaved = p.ctx.eng.asaved := by
  rw [State.queueTile]
  split <;> rfl

theorem queueTile_tiles (p : State) (cmd : TileCmd) : ((p.queueTile cmd).quad p.ctx.quadId).tiles = (myQuad p).tiles := by
  rw [State.queueTile]
  split
  · rfl
  · exact (congrArg QuadState.tiles (quad_setQuad p p.ctx.quadId { myQuad p with queue := (myQuad p).queue ++ [cmd] }) :)

theorem freed_asaved (s : State) (n : BitVec 4) : (freed s n).ctx.eng.asaved.getLsbD n.toNat = false := by
  rw [freed]
  split
  · rw [queueTile_asaved]
    exact unsaved_bit _ n
  · exact unsaved_bit _ n

theorem freed_of_own (hown : tagOf s s n = some s.ctx.cid) :
    tagOf s (freed s n) n = none ∧ (behindHeld s = false → ((freed s n).quad s.ctx.quadId).queue =
      (s.quad s.ctx.quadId).queue ++ [forgetCommand s n]) := by
  rw [freed, if_pos hown]
  have htagged := tagTile_quad (s.modEng (unsaved · n)) n.toNat none
  constructor
  · have htiles := queueTile_tiles ((s.modEng (unsaved · n)).tagTile n.toNat none) (forgetCommand s n)
    refine (congrArg (fun v => (vget v n.toNat .reset).tag) (htiles.trans (congrArg QuadState.tiles htagged))).trans ?_
    exact congrArg Tile.tag (vget_vset_same _ _ _ n.isLt)
  · intro hlive
    have hrun : behindHeld ((s.modEng (unsaved · n)).tagTile n.toNat none) = false := hlive
    rw [queueTile_of_running hrun]
    refine (congrArg QuadState.queue (quad_setQuad _ _ _)).trans ?_
    have hqueue : (myQuad ((s.modEng (unsaved · n)).tagTile n.toNat none)).queue = (s.quad s.ctx.quadId).queue :=
      (congrArg QuadState.queue htagged :)
    exact congrArg (· ++ [forgetCommand s n]) hqueue

theorem freed_of_not_own (hother : tagOf s s n ≠ some s.ctx.cid) : tagOf s (freed s n) n = tagOf s s n := by
  rw [freed, if_neg hother]
  rfl

theorem tileCommandsAreAccepted : TileCommandsAreAccepted := by
  intro s st z clr sum n xa xb ma mb mc scope ty l a b free signed own w
  refine ⟨fun hleased hrun hheld => ?_, completes_aclaim, fun hvalid => ⟨freed s n, completes_afree hvalid, freed_asaved s n,
    fun hown => ?_, freed_of_not_own⟩⟩
  · have hlive := behindHeld_eq_false hrun hheld
    exact ⟨fun hvalid ha hb hfree => completes_mma hleased hlive hfree hvalid ha hb,
      fun hvalid hfree => completes_accz hleased hlive hfree hvalid,
      fun hvalid hfree hword hreserved hmode ha hstride hb hfits =>
        completes_adrain hleased hlive hfree hvalid hword hreserved hmode ha hstride hb hfits,
      fun hvalid hfree haligned hfits => completes_lsflag hleased hlive hfree hvalid haligned hfits,
      fun hvalid hown => completes_accspill hleased hlive hown hvalid,
      fun hvalid hown => completes_accfill hleased hlive hown hvalid⟩
  · obtain ⟨htag, hqueue⟩ := freed_of_own hown
    exact ⟨htag, fun hrun hheld => hqueue (behindHeld_eq_false hrun hheld)⟩

/-! ## LHINT -/

/-- What the device keeps for a page names the page. -/
theorem pageInfo_names (s : State) (asid : W16) (f : Leaf) :
    (pageInfo s asid f).pteAddr = leafHome f ∧ (pageInfo s asid f).pfn = leafId f.pte := by
  rw [pageInfo]
  cases hfind : s.pages.find? (fun p => p.pteAddr == leafHome f && p.pfn == leafId f.pte)
  case none => exact ⟨rfl, rfl⟩
  case some p => simpa using List.find?_some hfind

theorem pageInfo_putPage {q : PageInfo} {f : Leaf} (asid : W16) (hq : q.pteAddr = leafHome f ∧ q.pfn = leafId f.pte) :
    pageInfo (s.putPage q) asid f = q := by
  have hfirst : (q.pteAddr == leafHome f && q.pfn == leafId f.pte) = true := by simp [hq]
  exact congrArg (Option.getD · _)
    (List.find?_cons_of_pos (p := fun p : PageInfo => p.pteAddr == leafHome f && p.pfn == leafId f.pte) hfirst)

/-- LHINT with its registers (R355). -/
def hintAct (a : W64) (n : Nat) (w : W64) (s : State) : Act :=
  if bits64 w 40 24 ≠ 0 ∨ bits64 w 11 5 ≠ 0 ∨ bits64 w 0 8 ≠ 0 then .trap 0x01 w
  else if (0 < n ∧ !canonical a) ∨ 2 ^ 57 < va57 a + n then .trap 0x05 a
  else
    .go (((leavesOf s s.ctx.asid.toNat).filter (fun l =>
      decide (0 < n) && decide (l.base < va57 a + n) && decide (va57 a < l.base + l.size) && !pteRMT l.pte)).foldl
        (fun t l => hintPage t s.ctx.asid l w) s)

theorem exec_lhint_hintAct {ra rb rc : BitVec 5} : exec (.lhint st ra rb rc) s = issue (.lhint st ra rb rc) (fun s c =>
    hintAct (rd s c ra) (rd s c rb).toNat (rd s c rc) s) s := by
  rw [exec_lhint]; rfl

theorem lhintSetsPriorityAndNextUse : LhintSetsPriorityAndNextUse := by
  intro s st ra rb rc a n w hvalid
  refine ⟨fun hhigh hmid hlow hspace hcanonical => completes_of_issue_go hvalid exec_lhint_hintAct ((if_neg ?_).trans (if_neg ?_)),
    fun f => pageInfo_putPage _ (pageInfo_names s _ f),
    fun hhigh => traps_of_issue_trap hvalid exec_lhint_hintAct (if_pos (.inl hhigh)),
    fun hhigh hmid hlow hout => traps_of_issue_trap hvalid exec_lhint_hintAct ((if_neg ?_).trans (if_pos ?_))⟩
  · exact not_or.2 ⟨not_not.2 hhigh, not_or.2 ⟨not_not.2 hmid, not_not.2 hlow⟩⟩
  · rintro (⟨hpos, hnot⟩ | hbeyond)
    · rcases hcanonical with hzero | hcanonical
      · exact hpos.ne' hzero
      · rw [show canonical (rd s (turn s) ra) = true from hcanonical] at hnot
        exact Bool.noConfusion hnot
    · exact absurd hspace (Nat.not_le.2 hbeyond)
  · exact not_or.2 ⟨not_not.2 hhigh, not_or.2 ⟨not_not.2 hmid, not_not.2 hlow⟩⟩
  · exact hout.symm.imp_left fun ⟨hpos, hnot⟩ => ⟨hpos, by rw [show canonical (rd s (turn s) ra) = false from hnot]; rfl⟩

/-! ## O29 -/

/-- Settles O29: each tile command from the state that its signature leaves, and LHINT by its checks and the page that it puts. -/
theorem tileCommandsAndLifetimeHints : Obligations.TileCommandsAndLifetimeHints := ⟨tileCommandsAreAccepted, lhintSetsPriorityAndNextUse⟩

end Sys2Proof.Proofs
end

section
/-! PROOFS. Events of one context; contexts that leave and enter the ready set, switches and hoop notifications (R37, R38, R42, R43, R211, R235,
R347), and O30. -/

namespace Sys2Proof.Proofs

set_option Elab.async false

open Sys2Proof.Machine Sys2Proof.Claims Sys2Proof.Laws

variable {s t u : State} {i : Instr} {cid core : Nat} {f : State → State × Bool} {P : State → Prop}

/-! ## Events -/

theorem occurs_of_exec (h : exec i s = .next { u with verdict := .issued }) (hP : P { u with verdict := .issued }) : Occurs i s P :=
  ⟨_, h, rfl, hP⟩

theorem onCtx_of_focused (hfocus : Focused s cid) (g : State → State) : s.onCtx cid g = g s := if_pos hfocus

theorem ctxOf_of_focused (hfocus : Focused s cid) : s.ctxOf cid = some s.ctx := if_pos hfocus

theorem eventOn_of_focused (hfocus : Focused s cid) (h : f s = (u, true)) : eventOn s cid f = .next { u with verdict := .issued } := by
  rw [eventOn, ctxOf_of_focused hfocus, onCtx_of_focused hfocus, h]
  rfl

/-- An event of the focused context that happens leaves what its operation leaves. -/
theorem happens_of_focused (hfocus : Focused s cid) (hexec : exec i s = eventOn s cid f) (h : f s = (u, true)) :
    exec i s = .next { u with verdict := .issued } :=
  hexec.trans (eventOn_of_focused hfocus h)

/-! ## Engine waits -/

theorem mem_allClusters (c : Cluster) : c ∈ allClusters := by cases c <;> simp [allClusters]

theorem engineWaits_iff (k : ClusterState) (now : Nat) :
    k.engineWaits now = true ↔
      k.active = true ∧ k.waitFrom + 64 ≤ now ∧ (k.wait = .watermark ∨ k.wait = .bobbinEngine ∨ k.wait = .queueFull) := by
  simp only [ClusterState.engineWaits, Bool.and_eq_true, Bool.or_eq_true, beq_iff_eq, decide_eq_true_eq]
  tauto

theorem engineWait_occurs (hfocus : Focused s cid) (hready : s.ctx.life = .ready) (hfaults : s.ctx.eng.faults = [])
    (hwaits : (∃ c, (s.ctx.cl.get c).engineWaits s.now = true) ∨ engineHeld s = true) :
    exec (.engineWait cid) s = .next { s.modCtx (fun x => { x with life := .engineWait }) with verdict := .issued } := by
  have hany : (allClusters.any (fun c => (s.ctx.cl.get c).engineWaits s.now) || engineHeld s) = true := by
    rw [Bool.or_eq_true, List.any_eq_true]
    exact hwaits.imp_left fun ⟨c, hc⟩ => ⟨c, mem_allClusters c, hc⟩
  exact happens_of_focused hfocus exec_engineWait (if_pos ⟨hready, hany, by rw [hfaults]; rfl⟩)

/-! ## Switches -/

/-- The selection of a context by its core (R38). -/
def selected (s : State) (core : Nat) (y : Ctx) (served : Nat) : State :=
  s.mapCtxs (fun x =>
    if x.resident ∧ x.coreId = core then
      { x with running := x.cid == y.cid, runSince := if x.cid = y.cid then s.now else x.runSince,
               served := if x.cid = y.cid then max served x.served else x.served }
    else x)

theorem execContextSwitch_of_running {r y : Ctx} (hrunning : (coreCtxs s core).find? (·.running) = some r) (hrunnable : r.runnable = true)
    (hnext : (coreCtxs s core).find? (switches s.now r) = some y) : execContextSwitch core s = happens (selected s core y r.served) := by
  simp only [execContextSwitch, hrunning, hrunnable, hnext, Bool.not_true, Bool.false_eq_true, if_false]
  rfl

theorem execContextSwitch_of_idle {y : Ctx} (hidle : (coreCtxs s core).find? (·.running) = none)
    (hnext : (coreCtxs s core).find? (fun x => x.life == .ready) = some y) : execContextSwitch core s = happens (selected s core y 0) := by
  simp only [execContextSwitch, hidle, hnext]
  rfl

theorem execContextSwitch_of_not_runnable {r : Ctx} (hrunning : (coreCtxs s core).find? (·.running) = some r) (hstopped : r.runnable = false) :
    execContextSwitch core s = happens (s.onCtx r.cid (fun t => t.modCtx (fun x => { x with running := false }))) := by
  simp only [execContextSwitch, hrunning, hstopped, Bool.not_false, if_true]

/-- What a selection makes of one context. -/
def afterSelection (s : State) (core : Nat) (y : Ctx) (served : Nat) (x : Ctx) : Ctx :=
  if x.resident ∧ x.coreId = core then
    { x with running := x.cid == y.cid, runSince := if x.cid = y.cid then s.now else x.runSince,
             served := if x.cid = y.cid then max served x.served else x.served }
  else x

theorem allCtxs_selected (y : Ctx) (served : Nat) : allCtxs (selected s core y served) = (allCtxs s).map (afterSelection s core y served) := rfl

/-- After a selection exactly the selected context runs on the core. -/
theorem running_after_selection (y : Ctx) (served : Nat) :
    ∀ x ∈ coreCtxs { selected s core y served with verdict := .issued } core, x.running = true ↔ x.cid = y.cid := by
  intro x hx
  obtain ⟨hmem, hcore⟩ := List.mem_filter.1 hx
  obtain ⟨x0, -, rfl⟩ := List.mem_map.1 (show x ∈ (allCtxs s).map (afterSelection s core y served) from hmem)
  by_cases hcond : x0.resident ∧ x0.coreId = core
  case pos =>
    have hselected : (afterSelection s core y served x0).running = (x0.cid == y.cid) ∧ (afterSelection s core y served x0).cid = x0.cid := by
      rw [afterSelection, if_pos hcond]
      exact ⟨rfl, rfl⟩
    rw [hselected.1, hselected.2]
    exact beq_iff_eq
  case neg =>
    have hkept : afterSelection s core y served x0 = x0 := if_neg hcond
    rw [hkept, Bool.and_eq_true, beq_iff_eq] at hcore
    exact absurd hcore hcond

theorem contextsLeaveAndEnterTheReadySet : ContextsLeaveAndEnterTheReadySet := by
  intro s cid core r y
  refine ⟨fun hfocus hready hfaults hwaits => ?_, fun hidle hnext => ?_, fun hrunning hrunnable hnext => ?_,
    fun hrunning hlife hstopped => ?_⟩
  · exact occurs_of_exec (engineWait_occurs hfocus hready hfaults
      (hwaits.imp_left fun ⟨c, hc⟩ => ⟨c, (engineWaits_iff _ _).2 hc⟩)) ⟨rfl, rfl⟩
  · have hnone : (coreCtxs s core).find? (·.running) = none := List.find?_eq_none.2 fun x hx => by simp [hidle x hx]
    exact occurs_of_exec (exec_contextSwitch.trans (execContextSwitch_of_idle hnone hnext)) (running_after_selection y 0)
  · exact occurs_of_exec (exec_contextSwitch.trans (execContextSwitch_of_running hrunning hrunnable hnext)) (running_after_selection y r.served)
  · have hfocus : Focused s s.ctx.cid := by simp [Focused, Ctx.isId, hlife]
    have hstop := execContextSwitch_of_not_runnable hrunning hstopped
    rw [onCtx_of_focused hfocus] at hstop
    exact occurs_of_exec (exec_contextSwitch.trans hstop) ⟨rfl, rfl⟩

/-! ## Hoop notifications -/

/-- The clusters of a context once those that wait at a hoop have been woken. -/
def wokenClusters (s : State) (h : Nat) (k : Clusters) : Clusters :=
  k.map (fun c k => if waitsAtHoop s c h then { k with wait := .none } else k)

/-- The context that a notification wakes (R42), where `x` is the context that takes note of it. -/
def wokenCtx (s : State) (h : Nat) (x : Ctx) : Ctx := ({ x with cl := wokenClusters s h x.cl } : Ctx).settle s.now

theorem settle_life_eq (x : Ctx) (now : Nat) : x.settle now = { x with life := (x.settle now).life } := by
  rw [Ctx.settle]
  split <;> rfl

theorem wokenCtx_eq (h : Nat) (x : Ctx) :
    wokenCtx s h x = { x with cl := wokenClusters s h x.cl, life := (wokenCtx s h x).life } := settle_life_eq _ _

theorem wokenClusters_get (h : Nat) (k : Clusters) (c : Cluster) :
    (wokenClusters s h k).get c = if waitsAtHoop s c h = true then { k.get c with wait := .none } else k.get c := clusters_get_map _ _ _

/-- A context none of whose clusters waits any longer is ready. -/
theorem settle_ready {x : Ctx} {now : Nat} (hlife : x.life = .hoopWait ∨ x.life = .engineWait)
    (hhoop : ∀ c, (x.cl.get c).hoopWaits = false) (hengine : ∀ c, (x.cl.get c).engineWaits now = false) : (x.settle now).life = .ready := by
  have hnohoop : (allClusters.map x.cl.get).any ClusterState.hoopWaits = false := by
    rw [List.any_map, List.any_eq_false]
    exact fun c _ => ne_true_of_eq_false (hhoop c)
  have hnoengine : (allClusters.map x.cl.get).any (·.engineWaits now) = false := by
    rw [List.any_map, List.any_eq_false]
    exact fun c _ => ne_true_of_eq_false (hengine c)
  rw [Ctx.settle, if_pos hlife, hnohoop, hnoengine]
  rfl

theorem woken_of_ctx {h : Nat} {x : Ctx} (hx : x.cl = s.ctx.cl ∧ x.life = s.ctx.life) (ht : t.ctx = wokenCtx s h x) : Woken s t h := by
  have hclusters : t.ctx.cl = wokenClusters s h s.ctx.cl := by rw [ht, wokenCtx_eq, hx.1]
  refine ⟨fun c => by rw [hclusters, wokenClusters_get], fun hlife hall hengine => ?_⟩
  rw [ht]
  refine settle_ready (by rw [hx.2]; exact hlife) (fun c => ?_) (fun c => ?_)
  · rw [hx.1, wokenClusters_get]
    split
    case isTrue => exact Bool.and_false _
    case isFalse hstays => exact Bool.eq_false_iff.2 fun hwaits => hstays (hall c hwaits)
  · rw [hx.1, wokenClusters_get]
    split
    case isTrue => simp [ClusterState.engineWaits]
    case isFalse => exact hengine c

/-- What HOOP_NOTIFICATION does in the focused context (R42, R347). -/
def notify (hoop : Nat) (t : State) : State × Bool :=
  let x := t.ctx
  let r := hoopRec x hoop
  match hoopOf t x.gang hoop r with
  | none => (t, false)
  | some i =>
    let waits := allClusters.any (fun c => waitsAtHoop t c hoop)
    let wake := fun (u : State) => if u.ctx.runnable then u.modCtx (wokenCtx t hoop) else u
    if hoopFrozen t r || !r.member || !r.armed then (t, false)
    else if r.scope = 4 ∧ !r.notified ∧ i.gen ≠ r.gen then
      (wake (t.modCtx (·.setHoop hoop { r with notified := true })), true)
    else if hoopReached t.now r i && waits && x.runnable then (wake t, true)
    else (t, false)

theorem exec_hoopNotification_notify {hoop : Nat} : exec (.hoopNotification cid hoop) s = eventOn s cid (notify hoop) :=
  exec_hoopNotification

section Notify

variable {h : Nat} {j : HoopInst} (hinst : hoopOf s s.ctx.gang h (hoopRec s.ctx h) = some j)
  (hfrozen : hoopFrozen s (hoopRec s.ctx h) = false) (hmember : (hoopRec s.ctx h).member = true) (harmed : (hoopRec s.ctx h).armed = true)

include hinst hfrozen hmember harmed

theorem notify_of_local (hscope : (hoopRec s.ctx h).scope ≠ 4) (hreached : hoopReached s.now (hoopRec s.ctx h) j = true)
    (hwaits : ∃ c, waitsAtHoop s c h = true) (hrunnable : s.ctx.runnable = true) : notify h s = (s.modCtx (wokenCtx s h), true) := by
  have hany : allClusters.any (fun c => waitsAtHoop s c h) = true :=
    List.any_eq_true.2 (hwaits.imp fun c hc => ⟨mem_allClusters c, hc⟩)
  simp [notify, hinst, hfrozen, hmember, harmed, hscope, hreached, hany, hrunnable]

theorem notify_of_pod (hscope : (hoopRec s.ctx h).scope = 4) (hnew : (hoopRec s.ctx h).notified = false) (hgen : j.gen ≠ (hoopRec s.ctx h).gen) :
    notify h s = (if s.ctx.runnable then (s.modCtx (·.setHoop h { hoopRec s.ctx h with notified := true })).modCtx (wokenCtx s h)
      else s.modCtx (·.setHoop h { hoopRec s.ctx h with notified := true }), true) := by
  have hlive : ¬ (hoopFrozen s (hoopRec s.ctx h) || !(hoopRec s.ctx h).member || !(hoopRec s.ctx h).armed) = true := by
    simp [hfrozen, hmember, harmed]
  rw [notify, hinst]
  refine (if_neg hlive).trans ((if_pos ⟨hscope, by rw [hnew]; rfl, hgen⟩).trans ?_)
  rfl

end Notify

/-- What an arrival or a leave of another package makes of a pod hoop (R43). -/
def podHoopAfter (leave armed : Bool) (j : HoopInst) : HoopInst :=
  if leave then { j with expect := j.expect - 1, arrived := j.arrived - armed.toNat } else { j with arrived := j.arrived + 1 }

theorem execPodHoopArrival_of_entry {entry : Nat} {j : HoopInst} {leave armed : Bool} (hinst : tabGet entry s.hub.podHoops = some j)
    (hexpect : j.expect ≠ 0) :
    execPodHoopArrival entry leave armed s = happens { s with
      hub := { s.hub with podHoops := tabSet entry ((podHoopAfter leave armed j).settle s.now) s.hub.podHoops } } := by
  simp only [execPodHoopArrival, hinst, hexpect, if_false]
  rfl

theorem hoopNotificationsAndPodArrivals : HoopNotificationsAndPodArrivals := by
  intro s cid h entry i leave armed r
  refine ⟨fun hfocus hinst hfrozen hmember harmed hscope hreached hwaits hrunnable => ?_,
    fun hfocus hinst hfrozen hmember harmed hscope hnew hgen hh => ?_, fun hinst hexpect => ?_⟩
  · have hnotify := notify_of_local hinst hfrozen hmember harmed hscope hreached hwaits hrunnable
    refine occurs_of_exec (happens_of_focused hfocus exec_hoopNotification_notify hnotify)
      ⟨woken_of_ctx (x := s.ctx) ⟨rfl, rfl⟩ rfl, ?_⟩
    exact (congrArg Ctx.hoops (wokenCtx_eq h s.ctx) :)
  · have hnotify := notify_of_pod hinst hfrozen hmember harmed hscope hnew hgen
    refine occurs_of_exec (happens_of_focused hfocus exec_hoopNotification_notify hnotify) ?_
    have hrec : vget (s.ctx.setHoop h { r with notified := true }).hoops h .reset = { r with notified := true } := vget_vset_same _ _ _ hh
    cases hrunnable : s.ctx.runnable
    case true =>
      refine ⟨Eq.trans ?_ hrec, fun _ => woken_of_ctx (x := s.ctx.setHoop h { r with notified := true }) ⟨rfl, rfl⟩ rfl, Bool.noConfusion⟩
      exact (congrArg (fun x : Ctx => vget x.hoops h .reset) (wokenCtx_eq h _) :)
    case false => exact ⟨hrec, Bool.noConfusion, fun _ => rfl⟩
  · refine occurs_of_exec (exec_podHoopArrival.trans (execPodHoopArrival_of_entry hinst hexpect)) ?_
    refine (tabGet_tabSet _ _ _ _).trans ((if_pos rfl).trans (congrArg some ?_))
    cases leave <;> rfl

/-! ## O30 -/

/-- Settles O30: the ready set and the switches by their events, and the wakes by what a notification does in its context. -/
theorem contextsWaitAndSwitch : Obligations.ContextsWaitAndSwitch := ⟨contextsLeaveAndEnterTheReadySet, hoopNotificationsAndPodArrivals⟩

end Sys2Proof.Proofs
end

section
/-! PROOFS. Due writes land, queued accesses are performed or aborted, and engine faults are delivered (R73, R75, R182, R186, R243, R251,
R301), and O31. -/

namespace Sys2Proof.Proofs

open Sys2Proof.Machine Sys2Proof.Claims Sys2Proof.Laws

variable {s t : State} {x : Ctx} {y : Access} {w v : Write} {l : List Write} {cid idx : Nat}

/-! ## The landing order -/

theorem mem_insertWrite : v ∈ insertWrite w l ↔ v = w ∨ v ∈ l := by
  induction l with
  | nil => simp [insertWrite]
  | cons y l ih =>
    rw [insertWrite]
    split
    · exact List.mem_cons
    · rw [List.mem_cons, ih, List.mem_cons]
      tauto

theorem mem_foldl_insertWrite (l acc : List Write) : v ∈ l.foldl (fun acc y => insertWrite y acc) acc ↔ v ∈ l ∨ v ∈ acc := by
  induction l generalizing acc with
  | nil => simp
  | cons y l ih =>
    rw [List.foldl_cons, ih, mem_insertWrite, List.mem_cons]
    tauto

theorem mem_landingOrder : v ∈ landingOrder l ↔ v ∈ l := by
  induction l with
  | nil => rfl
  | cons w l ih =>
    rw [landingOrder, mem_foldl_insertWrite, ih, List.mem_singleton, List.mem_cons]
    tauto

theorem before_iff : w.before v = true ↔ w.lands < v.lands ∨ w.lands = v.lands ∧ w.eff.rank < v.eff.rank := by
  simp [Write.before]

/-- A list in which no write comes before an earlier one. -/
def InLandingOrder (l : List Write) : Prop := l.Pairwise (fun a b => b.before a = false)

theorem insertWrite_inLandingOrder (h : InLandingOrder l) : InLandingOrder (insertWrite w l) := by
  induction l with
  | nil => exact List.pairwise_singleton _ _
  | cons y l ih =>
    obtain ⟨hy, hl⟩ := List.pairwise_cons.1 h
    rw [insertWrite]
    split
    case isTrue hwy =>
      refine List.pairwise_cons.2 ⟨fun v hv => ?_, h⟩
      rcases List.mem_cons.1 hv with rfl | hv
      · have := before_iff.1 hwy
        rw [Bool.eq_false_iff, ne_eq, before_iff]
        omega
      · have hvy := Bool.eq_false_iff.1 (hy v hv)
        have := before_iff.1 hwy
        rw [ne_eq, before_iff] at hvy
        rw [Bool.eq_false_iff, ne_eq, before_iff]
        omega
    case isFalse hwy =>
      refine List.pairwise_cons.2 ⟨fun v hv => ?_, ih hl⟩
      rcases mem_insertWrite.1 hv with rfl | hv
      · exact Bool.eq_false_iff.2 hwy
      · exact hy v hv

theorem foldl_insertWrite_inLandingOrder (l acc : List Write) (h : InLandingOrder acc) :
    InLandingOrder (l.foldl (fun acc y => insertWrite y acc) acc) := by
  induction l generalizing acc with
  | nil => exact h
  | cons y l ih => exact ih _ (insertWrite_inLandingOrder h)

theorem landingOrder_inLandingOrder (l : List Write) : InLandingOrder (landingOrder l) := by
  cases l with
  | nil => exact List.Pairwise.nil
  | cons w l => exact foldl_insertWrite_inLandingOrder _ _ (List.pairwise_singleton _ _)

theorem before_self : w.before w = false := by
  rw [Bool.eq_false_iff, ne_eq, before_iff]
  omega

/-- The first due write: it is due and in flight, it leaves alone, and no due write comes before it. -/
theorem pickDue_spec {now : Nat} {flight rest : List Write} (h : pickDue now flight = some (w, rest)) :
    w.lands ≤ now ∧ w ∈ flight ∧ rest = flight.erase w ∧ ∀ v ∈ flight, v.lands ≤ now → v.before w = false := by
  rw [pickDue] at h
  split at h
  case h_1 => exact absurd h (by simp)
  case h_2 first others horder =>
    obtain ⟨rfl, rfl⟩ := Prod.mk.inj (Option.some.inj h)
    have hmem : ∀ v, v ∈ flight ∧ v.lands ≤ now ↔ v ∈ first :: others := fun v => by
      rw [← horder, mem_landingOrder, List.mem_filter, decide_eq_true_eq]
    have hsorted := landingOrder_inLandingOrder (flight.filter (fun w => w.lands ≤ now))
    rw [horder] at hsorted
    obtain ⟨hmine, hdue⟩ := (hmem first).2 List.mem_cons_self
    refine ⟨hdue, hmine, rfl, fun v hv hvdue => ?_⟩
    rcases List.mem_cons.1 ((hmem v).1 ⟨hv, hvdue⟩) with rfl | hlater
    · exact before_self
    · exact (List.pairwise_cons.1 hsorted).1 v hlater

theorem dueWritesLand : DueWritesLand := by
  intro s cid w rest hfocus hpick
  obtain ⟨hdue, hmem, hrest, hfirst⟩ := pickDue_spec hpick
  have hlands : exec (.writeLands cid) s =
      .next { s.modCtx (fun x => ({ x with flight := rest } : Ctx).land w.eff) with verdict := .issued } := by
    refine happens_of_focused hfocus exec_writeLands ?_
    rw [hpick]
  exact occurs_of_exec hlands ⟨rfl, rfl, hdue, hmem, hrest, hfirst⟩

/-! ## Accesses -/

theorem selfInvalidate_ctx (s : State) : s.selfInvalidate.ctx = s.ctx := by
  rw [State.selfInvalidate]
  split <;> rfl

theorem ne_of_mem_dropAccess {a : Access} {n : Nat} (h : a ∈ (x.dropAccess n).gq) : a.num ≠ n :=
  bne_iff_ne.1 (List.mem_filter.1 h).2

/-- A performed access has left the queues. -/
theorem ne_of_mem_performAt (hy : s.ctx.gq[idx]? = some y) {a : Access} (ha : a ∈ (s.performAt idx).ctx.gq) : a.num ≠ y.num := by
  rw [State.performAt, hy] at ha
  dsimp only at ha
  split at ha
  · rw [selfInvalidate_ctx] at ha
    exact ne_of_mem_dropAccess ha
  · exact ne_of_mem_dropAccess ha

theorem arrive_landedOnly (n id : Nat) (v : VReg) (x : Ctx) : LandedOnly x (x.arrive n id v) := pump_landedOnly _ _ _

theorem logRead_landedOnly (source place : Nat) (a : W64) (bs : List Byte) (x : Ctx) : LandedOnly x (x.logRead source place a bs) := by
  rw [Ctx.logRead]
  split <;> rfl

theorem foldl_landedOnly {α : Type} (f : Ctx → α → Ctx) (hf : ∀ x a, LandedOnly x (f x a)) (l : List α) (x : Ctx) :
    LandedOnly x (l.foldl f x) := by
  induction l generalizing x with
  | nil => exact LandedOnly.refl x
  | cons a l ih => exact (hf x a).trans (ih _)

theorem logElems_landedOnly (source place n : Nat) (es : List Elem) (bs : List Byte) (x : Ctx) :
    LandedOnly x (x.logElems source place n es bs) :=
  foldl_landedOnly _ (fun _ _ => logRead_landedOnly _ _ _ _ _) _ _

theorem aborted_landedOnly (source place n : Nat) (es : List Elem) (bs : List Byte) (x : Ctx) :
    LandedOnly x (x.logElems source place n es bs).consumeAbort :=
  (logElems_landedOnly _ _ _ _ _ _).trans (consumeAbort_landedOnly _)

theorem abortEffect_landedOnly (s : State) (y : Access) : LandedOnly s.ctx (abortEffect s y).ctx := by
  rw [abortEffect]
  split
  case h_1 => exact (aborted_landedOnly _ _ _ _ _ _).trans (arrive_landedOnly _ _ _ _)
  case h_2 => exact (aborted_landedOnly _ _ _ _ _ _).trans (arrive_landedOnly _ _ _ _)
  case h_3 => exact (aborted_landedOnly _ _ _ _ _ _).trans (arrive_landedOnly _ _ _ _)
  case h_4 => exact aborted_landedOnly _ _ _ _ _ _
  case h_5 => exact (aborted_landedOnly _ _ _ _ _ _).trans (arrive_landedOnly _ _ _ _)
  case h_6 => exact consumeAbort_landedOnly _
  case h_7 => exact LandedOnly.refl _

theorem abortAccess_ctx (s : State) (y : Access) : (abortAccess s y).ctx = (abortEffect (s.modCtx (·.dropAccess y.num)) y).ctx := by
  unfold abortAccess
  split
  · exact selfInvalidate_ctx _
  · rfl

theorem ne_of_mem_abortAccess {a : Access} (ha : a ∈ (abortAccess s y).ctx.gq) : a.num ≠ y.num := by
  have hkept : (abortAccess s y).ctx.gq = (s.ctx.dropAccess y.num).gq := by
    rw [abortAccess_ctx]
    exact (congrArg Ctx.gq (abortEffect_landedOnly _ y) :)
  exact ne_of_mem_dropAccess (hkept ▸ ha)

/-- What an aborted load leaves in its context. -/
theorem abortAccess_load {b id : Nat} {sz : BitVec 3} (hkind : y.kind = .load b id sz) :
    (abortAccess s y).ctx = (((s.ctx.dropAccess y.num).logElems (cnum y.issuer) y.num y.size (y.elems.take 1)
      (List.replicate y.size 0xFF)).consumeAbort).arrive b id (BitVec.allOnes 2048) := by
  rw [abortAccess_ctx, abortEffect, hkind]
  rfl

/-- What REMOTE_TIMEOUT does in the focused context. -/
theorem remoteTimeout_of_late (hfocus : Focused s cid) (hy : s.ctx.gq[idx]? = some y) (hordered : orderedNow s idx = true)
    (hlate : ∃ e ∈ y.elems, pteRMT e.pte = true ∧ unanswered s e.pa = true) (hlive : s.ctx.replays = false) :
    exec (.remoteTimeout cid idx) s = .next { abortAccess s y with verdict := .issued } := by
  have hany : y.elems.any (fun e => pteRMT e.pte && unanswered s e.pa) = true := by
    obtain ⟨e, he, hremote, hnone⟩ := hlate
    exact List.any_eq_true.2 ⟨e, he, by rw [hremote, hnone]; rfl⟩
  refine happens_of_focused hfocus exec_remoteTimeout ?_
  rw [hy]
  exact if_pos (by rw [hordered, hany, hlive]; rfl)

theorem queuedAccessesAreMade : QueuedAccessesAreMade := by
  intro s cid idx y hfocus hy hperformable
  refine ⟨?_, fun hordered hlate hlive => ?_⟩
  · exact occurs_of_exec (happens_of_focused hfocus exec_globalAccessPerformed (if_pos hperformable))
      ⟨rfl, fun a ha => ne_of_mem_performAt hy ha⟩
  · exact occurs_of_exec (remoteTimeout_of_late hfocus hy hordered hlate hlive)
      ⟨fun a ha => ne_of_mem_abortAccess ha, fun b id sz hkind => abortAccess_load hkind⟩

/-! ## Engine faults -/

theorem deliverable_of_waiting (hmode : x.sr.handler = false) (hruns : (x.running = true ∧ x.runnable = true) ∨ x.life = .retiring)
    (hfault : x.eng.faults.isEmpty = false) : deliverable x = true := by
  have hhere : (x.running && x.runnable || x.life == .retiring) = true := by simpa using hruns
  rw [deliverable, hmode, hhere, hfault]
  rfl

theorem engineFaultsAreDelivered : EngineFaultsAreDelivered := by
  intro s cid f rest hfocus hfaults hmode hruns
  have hdeliverable : deliverable s.ctx = true := deliverable_of_waiting hmode hruns (by rw [hfaults]; rfl)
  refine happens_of_focused hfocus exec_engineFaultDelivery ?_
  rw [hfaults]
  exact if_neg (by rw [hdeliverable]; exact Bool.noConfusion)

/-- Settles O31: the landing order puts a due write first before which none comes; the events are read off their operations. -/
theorem writesLandAndAccessesArePerformed : Obligations.WritesLandAndAccessesArePerformed :=
  ⟨dueWritesLand, queuedAccessesAreMade, engineFaultsAreDelivered⟩

end Sys2Proof.Proofs
end

section
/-! PROOFS. Events of a context that is not in focus, and O33. -/

namespace Sys2Proof.Proofs

open Sys2Proof.Machine Sys2Proof.Claims Sys2Proof.Laws

variable {s t : State} {i : Instr} {cid n : Nat} {f : State → State × Bool}

theorem listSet_eq_set {α : Type} (l : List α) (n : Nat) (x : α) : listSet l n x = l.set n x := by
  induction l generalizing n with
  | nil => rfl
  | cons y l ih =>
    cases n with
    | zero => rfl
    | succ n => exact congrArg (y :: ·) (ih n)

theorem swapAt_of_lt (hn : n < s.others.length) :
    s.swapAt n = { s with ctx := s.others[n], others := s.others.set n s.ctx } := by
  rw [State.swapAt, List.getElem?_eq_getElem hn]
  dsimp only
  rw [listSet_eq_set]

theorem swapAt_swapAt (hn : n < s.others.length) (v : Verdict) :
    ({ s.swapAt n with verdict := v } : State).swapAt n = { s with verdict := v } := by
  rw [swapAt_of_lt hn, swapAt_of_lt (by simpa using hn)]
  simp

section Aside

variable (haside : s.ctx.isId cid = false) (hplace : s.others.findIdx? (·.isId cid) = some n)

include hplace

theorem aside_lt : n < s.others.length := (List.findIdx?_eq_some_iff_getElem.1 hplace).1

theorem focused_swapAt : Focused (s.swapAt n) cid := by
  obtain ⟨hn, hid, -⟩ := List.findIdx?_eq_some_iff_getElem.1 hplace
  rw [swapAt_of_lt hn]
  exact hid

theorem notNow_of_swapped (h : notNow (s.swapAt n) = .next t) : notNow s = .next (t.swapAt n) := by
  obtain rfl := Host.Outcome.next.inj h
  rw [swapAt_swapAt (aside_lt hplace)]
  rfl

include haside

theorem ctxOf_of_aside : s.ctxOf cid = some (s.swapAt n).ctx := by
  obtain ⟨hn, hid, hfirst⟩ := List.findIdx?_eq_some_iff_getElem.1 hplace
  rw [State.ctxOf, haside, swapAt_of_lt hn]
  exact List.find?_eq_some_iff_getElem.2 ⟨hid, n, hn, rfl, fun j hj => by simpa using hfirst j hj⟩

/-- An event of a context held aside is that event with the context in focus, and the focus put back. -/
theorem eventOn_of_swapped (h : eventOn (s.swapAt n) cid f = .next t) : eventOn s cid f = .next (t.swapAt n) := by
  have hthere := focused_swapAt hplace
  rw [eventOn, ctxOf_of_focused hthere, onCtx_of_focused hthere] at h
  obtain rfl := Host.Outcome.next.inj h
  rw [eventOn, ctxOf_of_aside haside hplace, State.onCtx, haside, hplace]
  rfl

theorem queueEvent_of_swapped {eng : Nat} {c : Cluster} {run : State → EngCmd → State × Bool}
    (h : queueEvent cid eng c (s.swapAt n) run = .next t) : queueEvent cid eng c s run = .next (t.swapAt n) := by
  have hgate : (s.swapAt n).power = s.power := by rw [swapAt_of_lt (aside_lt hplace)]
  unfold queueEvent at h ⊢
  rw [ctxOf_of_focused (focused_swapAt hplace), hgate] at h
  rw [ctxOf_of_aside haside hplace]
  dsimp only at h ⊢
  split at h
  case isTrue hstill => exact (if_pos hstill).trans (notNow_of_swapped hplace h)
  case isFalse hruns =>
    refine (if_neg hruns).trans ?_
    split at h
    case isTrue howes => exact (if_pos howes).trans (eventOn_of_swapped haside hplace h)
    case isFalse hnone =>
      refine (if_neg hnone).trans ?_
      split at h
      case h_1 =>
        exact notNow_of_swapped hplace h
      case h_2 =>
        exact eventOn_of_swapped haside hplace h

end Aside

theorem exec_of_swapped (hexec : ∀ s, exec i s = eventOn s cid f) (haside : s.ctx.isId cid = false)
    (hplace : s.others.findIdx? (·.isId cid) = some n) (h : exec i (s.swapAt n) = .next t) : exec i s = .next (t.swapAt n) := by
  rw [hexec] at h ⊢
  exact eventOn_of_swapped haside hplace h

/-- Settles O33: each of these events is one operation run on its context, wherever that is held. -/
theorem eventsActOnTheirContext : Obligations.EventsActOnTheirContext := by
  intro s t cid n i hevent haside hplace h
  rcases hevent with hlisted | ⟨k, rfl⟩ | ⟨k, rfl⟩ | ⟨hoop, rfl⟩
  · simp only [List.mem_cons, List.not_mem_nil, or_false] at hlisted
    rcases hlisted with rfl | rfl | rfl | rfl | rfl
    · exact exec_of_swapped (fun _ => exec_engineWait) haside hplace h
    · exact exec_of_swapped (fun _ => exec_writeLands) haside hplace h
    · exact exec_of_swapped (fun _ => exec_engineFaultDelivery) haside hplace h
    · exact queueEvent_of_swapped haside hplace h
    · exact queueEvent_of_swapped haside hplace h
  · exact exec_of_swapped (fun _ => exec_globalAccessPerformed) haside hplace h
  · exact exec_of_swapped (fun _ => exec_remoteTimeout) haside hplace h
  · exact exec_of_swapped (fun _ => exec_hoopNotification) haside hplace h

end Sys2Proof.Proofs
end

section
/-! PROOFS. The turn of a cluster: what its fetch comes to (R51, R86, R94, R159), and O34. -/

namespace Sys2Proof.Proofs

set_option Elab.async false

open Sys2Proof.Machine Sys2Proof.Claims Sys2Proof.Laws

variable {s : State} {c : Cluster} {i : Instr} {n m w : Nat} {long : Bool} {bs rest : List Byte} {va : W64}

/-! ## Reading code -/

theorem length_of_codeRead (h : codeRead s va n = .ok bs) : bs.length = n := by
  induction n generalizing va bs with
  | zero =>
    obtain rfl := Except.ok.inj h
    rfl
  | succ n ih =>
    rw [codeRead] at h
    split at h
    · exact absurd h (by simp)
    · split at h
      · exact absurd h (by simp)
      case h_2 t ht =>
        obtain rfl := Except.ok.inj h
        rw [List.length_cons, ih ht]

/-- The bytes of a range are those of its first part, then those of the rest. -/
theorem codeRead_add (h : codeRead s va (n + m) = .ok bs) :
    codeRead s va n = .ok (bs.take n) ∧ codeRead s (va + BitVec.ofNat 64 n) m = .ok (bs.drop n) := by
  induction n generalizing va bs with
  | zero => exact ⟨rfl, by simpa using h⟩
  | succ n ih =>
    rw [Nat.add_right_comm, codeRead] at h
    split at h
    · exact absurd h (by simp)
    case h_2 b hb =>
      split at h
      · exact absurd h (by simp)
      case h_2 t ht =>
        obtain rfl := Except.ok.inj h
        obtain ⟨hfirst, hrest⟩ := ih ht
        refine ⟨by rw [codeRead, hb, hfirst]; rfl, ?_⟩
        rw [show va + BitVec.ofNat 64 (n + 1) = va + 1 + BitVec.ofNat 64 n by bv_omega]
        exact hrest

theorem leNat_pair (b0 b1 : Byte) : leNat [b0, b1] = b0.toNat + b1.toNat * 2 ^ 8 := by simp [leNat, Nat.mul_comm]

/-- What the first word of some bytes is: their first two, or their first four. -/
theorem firstWord_cases (h : firstWord bs = some (long, w, rest)) :
    (∃ b0 b1, bs = b0 :: b1 :: rest ∧ b1.toNat < 128 ∧ long = false ∧ w = b0.toNat + b1.toNat * 2 ^ 8) ∨
    ∃ b0 b1 b2 b3, bs = b0 :: b1 :: b2 :: b3 :: rest ∧ ¬ b1.toNat < 128 ∧ long = true ∧
      w = b0.toNat * 2 ^ 16 + b1.toNat * 2 ^ 24 + b2.toNat + b3.toNat * 2 ^ 8 := by
  unfold firstWord at h
  split at h
  case h_1 b0 b1 tail =>
    split at h
    case isTrue hshort =>
      obtain ⟨rfl, rfl, rfl⟩ : false = long ∧ b0.toNat + b1.toNat * 2 ^ 8 = w ∧ tail = rest := by simpa using h
      exact .inl ⟨b0, b1, rfl, hshort, rfl, rfl⟩
    case isFalse hlong =>
      split at h
      case h_1 b2 b3 more =>
        obtain ⟨rfl, rfl, rfl⟩ : true = long ∧ b0.toNat * 2 ^ 16 + b1.toNat * 2 ^ 24 + b2.toNat + b3.toNat * 2 ^ 8 = w ∧ more = rest := by
          simpa using h
        exact .inr ⟨b0, b1, b2, b3, rfl, hlong, rfl, rfl⟩
      case h_2 => exact absurd h (by simp)
  case h_2 => exact absurd h (by simp)

/-- The word that some bytes begin with is the word at their address. -/
theorem codeWord_of_firstWord (hread : codeRead s va n = .ok bs) (hfirst : firstWord bs = some (long, w, rest)) :
    codeWord s va = .ok (long, w) := by
  have hlength := length_of_codeRead hread
  rcases firstWord_cases hfirst with ⟨b0, b1, rfl, hshort, rfl, rfl⟩ | ⟨b0, b1, b2, b3, rfl, hlong, rfl, rfl⟩
  · obtain rfl : n = 2 + rest.length := by simp only [List.length_cons] at hlength; omega
    have hpair : codeRead s va 2 = .ok [b0, b1] := (codeRead_add hread).1
    rw [codeWord, hpair]
    dsimp only
    rw [leNat_pair, if_pos (by omega)]
  · obtain rfl : n = 2 + (2 + rest.length) := by simp only [List.length_cons] at hlength; omega
    obtain ⟨hhigh, hrest⟩ := codeRead_add hread
    have hpair : codeRead s va 2 = .ok [b0, b1] := hhigh
    have hlow : codeRead s (va + 2) 2 = .ok [b2, b3] := (codeRead_add hrest).1
    rw [codeWord, hpair, hlow]
    dsimp only
    rw [leNat_pair, leNat_pair, if_neg (by omega)]
    exact congrArg (fun w => Except.ok (true, w)) (by omega)

/-- The instruction that some bytes decode to is that of the word at their address. -/
theorem codeWord_of_decode (hread : codeRead s va n = .ok bs) (hdecode : decode c bs = .ok (i, rest)) :
    ∃ long w, codeWord s va = .ok (long, w) ∧ decodeWord c long w = .ok i := by
  rw [decode] at hdecode
  split at hdecode
  · exact absurd hdecode (by simp)
  case h_2 long w rest' hfirst =>
    refine ⟨long, w, codeWord_of_firstWord hread hfirst, ?_⟩
    cases hword : decodeWord c long w with
    | error e => simp [hword, Except.map] at hdecode
    | ok j =>
      rw [hword] at hdecode
      obtain ⟨rfl, -⟩ : j = i ∧ rest' = rest := by simpa [Except.map] using hdecode
      rfl

/-! ## A turn -/

theorem step_of_turn (hplan : s.plan ≠ []) : step s = match runCluster s with
    | .next t => .next (afterTurn t)
    | r => r := if_neg hplan

section Turn

variable (hwalk : WalkFree s ((s.ctx.cl.get (turn s)).pc &&& ~~~(1 : W64)))

theorem runCluster_of_walk_held (hheld : ¬WalkFree s ((s.ctx.cl.get (turn s)).pc &&& ~~~(1 : W64))) :
    runCluster s = .next (hold s (turn s) false .none) :=
  if_pos (Bool.not_eq_false _ ▸ hheld)

include hwalk

theorem runCluster_of_fault {code : Nat} (hword : codeWord s ((s.ctx.cl.get (turn s)).pc &&& ~~~(1 : W64)) = .error code) :
    runCluster s = .next (takeTrap s (turn s) code (s.ctx.cl.get (turn s)).pc 0) := by
  refine (if_neg (ne_true_of_eq_false hwalk)).trans ?_
  rw [hword]

variable (hword : codeWord s ((s.ctx.cl.get (turn s)).pc &&& ~~~(1 : W64)) = .ok (long, w))

include hword

theorem runCluster_of_invalid_stage (hstage : (s.ctx.cl.get (turn s)).invalidStage = true) :
    runCluster s = .next (finish ((noteFetch s ((s.ctx.cl.get (turn s)).pc &&& ~~~(1 : W64))).flowTo (turn s)
      ((s.ctx.cl.get (turn s)).pc + if long then 4 else 2)) (turn s)) := by
  refine (if_neg (ne_true_of_eq_false hwalk)).trans ?_
  rw [hword]
  exact if_pos hstage

theorem runCluster_of_instruction (hstage : (s.ctx.cl.get (turn s)).invalidStage = false) (hdecode : decodeWord (turn s) long w = .ok i) :
    runCluster s = exec i (noteFetch s ((s.ctx.cl.get (turn s)).pc &&& ~~~(1 : W64))) := by
  refine (if_neg (ne_true_of_eq_false hwalk)).trans ?_
  rw [hword]
  refine (if_neg (ne_true_of_eq_false hstage)).trans ?_
  rw [hdecode]

theorem runCluster_of_undecoded {e : DecodeError} (hstage : (s.ctx.cl.get (turn s)).invalidStage = false)
    (hdecode : decodeWord (turn s) long w = .error e) :
    runCluster s = .next (takeTrap (noteFetch s ((s.ctx.cl.get (turn s)).pc &&& ~~~(1 : W64))) (turn s) 0x01
      (undecodedTval (s.ctx.cl.get (turn s)).pc long w) 0) := by
  refine (if_neg (ne_true_of_eq_false hwalk)).trans ?_
  rw [hword]
  refine (if_neg (ne_true_of_eq_false hstage)).trans ?_
  rw [hdecode]

end Turn

/-- Settles O34: the bytes at the program counter give the word of the fetch; each case is a branch of the turn. -/
theorem aStepRunsTheDecodedInstruction : Obligations.AStepRunsTheDecodedInstruction := by
  intro s i n w long e bs rest k at' fetched hplan
  rw [step_of_turn hplan]
  refine ⟨fun hwalk hstage hread hdecode => ?_, fun hwalk hstage hword => ?_, fun hwalk hstage hword hdecode => ?_,
    fun code hwalk hword => ?_, fun hheld => ?_⟩
  · obtain ⟨long, w, hword, hi⟩ := codeWord_of_decode hread hdecode
    rw [runCluster_of_instruction hwalk hword hstage hi]
    rfl
  · rw [runCluster_of_invalid_stage hwalk hword hstage]
  · rw [runCluster_of_undecoded hwalk hword hstage hdecode]
    rfl
  · rw [runCluster_of_fault hwalk hword]
  · rw [runCluster_of_walk_held hheld]

end Sys2Proof.Proofs
end

section
/-! PROOFS. What reset leaves, and O36. -/

namespace Sys2Proof.Proofs

open Sys2Proof.Machine Sys2Proof.Claims Sys2Proof.Laws

theorem vget_replicate {α : Type} {n i : Nat} (x : α) : vget (Vector.replicate n x) i x = x := by
  by_cases hi : i < n <;> simp [vget, hi]

theorem reset_die (d : Nat) : vget State.reset.dies d .reset = .reset := vget_replicate _

theorem reset_group (g : Nat) : State.reset.group g = .reset := vget_replicate _

theorem reset_measurement (i : Nat) : vget State.reset.hub.meas i 0 = 0 := vget_replicate _

theorem reset_physByte (a : Nat) : State.reset.physByte a = 0 := rfl

theorem reset_canonical : State.reset.canonical := ⟨Memory.empty_wf, Memory.empty_wf⟩

/-- Settles O36: the reset state is written out; the arrays of dies, groups and measurements are uniform. -/
theorem resetLeavesTheResetValues : Obligations.ResetLeavesTheResetValues := by
  unfold Obligations.ResetLeavesTheResetValues
  refine ⟨by decide, by decide, rfl, rfl, rfl, by decide, rfl, by decide, by decide, by decide, by decide, fun q => rfl, fun d _ => ?_, fun g _ => ?_, fun i => ?_,
    rfl, rfl, rfl, rfl, rfl, reset_canonical, reset_physByte⟩
  · simp only [readReg, reset_die]
    exact ⟨by decide, by decide⟩
  · simp only [readReg, reset_group]
    exact ⟨by decide, by decide⟩
  · rw [readReg, reset_measurement]
    exact BitVec.setWidth_zero _ _

end Sys2Proof.Proofs
end

section
/-! PROOFS. Words that the spec writes out, and O59. -/

namespace Sys2Proof.Proofs

open Sys2Proof.Machine

variable {c : Cluster} {i : Instr} {bs : List Byte}

/-- A word stands for the instruction that it encodes (O1). -/
theorem decode_of_encodeBytes (hwell : wellFormed c i = true ∧ encodeBytes i = bs) : decode c bs = .ok (i, []) := by
  obtain ⟨hform, rfl⟩ := hwell
  simpa using decodeGivesBackEveryEncodedInstruction c i [] hform

theorem decode16_zero : decode16 .A 0 = none := by decide

/-- The all-zero halfword is no instruction. -/
theorem decode_zero : decode .A [0x00, 0x00] = .error .reservedOpcode := by
  simp [decode, firstWord, decodeWord, decode16_zero, Except.map]

/-- Settles O59: each word is the encoding of its instruction, which O1 decodes. -/
theorem writtenWordsDecodeToTheirInstructions : Obligations.WrittenWordsDecodeToTheirInstructions := by
  refine ⟨?_, ?_, ?_, ?_, ?_, ?_, ?_, ?_, ?_, ?_, ?_, ?_, ?_, ?_, ?_, ?_, ?_, ?_, decode_zero⟩
  all_goals exact decode_of_encodeBytes (by decide)

end Sys2Proof.Proofs
end

section
/-! PROOFS. Completion words (R177, Table 8.6), and O44. -/

namespace Sys2Proof.Proofs

open Sys2Proof.Machine

variable {u : Update} {old : Nat} {count info : Nat} {fb err : Bool}

/-- The layout of a completion word (Table 8.6): the count, the first failure's code and index, FB and ERR. -/
def completionWord (count info : Nat) (fb err : Bool) : Nat := count + info * 2 ^ 32 + fb.toNat * 2 ^ 62 + err.toNat * 2 ^ 63

section Layout

variable (hcount : count < 2 ^ 32) (hinfo : info < 2 ^ 30)

include hcount

theorem completionWord_count : completionWord count info fb err % 2 ^ 32 = count := by
  unfold completionWord
  omega

include hinfo

theorem completionWord_lt : completionWord count info fb err < 2 ^ 64 := by
  have := Bool.toNat_lt fb
  have := Bool.toNat_lt err
  unfold completionWord
  omega

theorem completionWord_info : completionWord count info fb err / 2 ^ 32 % 2 ^ 30 = info := by
  have := Bool.toNat_lt fb
  unfold completionWord
  omega

theorem completionWord_fb : completionWord count info fb err / 2 ^ 62 % 2 = fb.toNat := by
  have := Bool.toNat_lt fb
  unfold completionWord
  omega

theorem completionWord_err : completionWord count info fb err / 2 ^ 63 % 2 = err.toNat := by
  have := Bool.toNat_lt fb
  have := Bool.toNat_lt err
  unfold completionWord
  omega

end Layout

/-- The code and the index of the first failure. -/
def failureInfo (u : Update) (old : Nat) : Nat :=
  if old / 2 ^ 63 % 2 = 1 then old / 2 ^ 32 % 2 ^ 30
  else match u.err with
    | some code => u.idx % 2 ^ 24 + code.toNat * 2 ^ 24
    | none => old / 2 ^ 32 % 2 ^ 30

theorem failureInfo_lt : failureInfo u old < 2 ^ 30 := by
  unfold failureInfo
  split
  · omega
  · split
    case h_1 code _ => have := code.isLt; omega
    case h_2 => omega

theorem toNat_testBit (n i : Nat) : (n.testBit i).toNat = n / 2 ^ i % 2 := by
  rw [Nat.testBit_eq_decide_div_mod_eq]
  have := Nat.mod_lt (n / 2 ^ i) (show 0 < 2 by omega)
  by_cases h : n / 2 ^ i % 2 = 1
  · simp [h]
  · simp [h]; omega

theorem max_toNat (a b : Bool) : max a.toNat b.toNat = (a || b).toNat := by cases a <;> cases b <;> rfl

/-- What an update that arrives makes of a completion word. -/
theorem wordAfter_of_arrive (harrive : u.arrive = true) :
    wordAfter u old = completionWord ((old + 1) % 2 ^ 32) (failureInfo u old) (old.testBit 62 || u.fb) (old.testBit 63 || u.err.isSome) := by
  have hcount : (old % 2 ^ 32 + if u.arrive then 1 else 0) % 2 ^ 32 = (old + 1) % 2 ^ 32 := by
    rw [if_pos harrive]
    omega
  have hfb : max (old / 2 ^ 62 % 2) u.fb.toNat = (old.testBit 62 || u.fb).toNat := by rw [← toNat_testBit, max_toNat]
  have hwas := toNat_testBit old 63
  rw [wordAfter, hcount, hfb, ← hwas]
  unfold completionWord failureInfo
  rw [← hwas]
  cases u.err with
  | none => cases old.testBit 63 <;> simp
  | some code =>
    cases old.testBit 63
    case false => simp [Nat.add_mul, Nat.mul_assoc, Nat.add_assoc]
    case true => simp

theorem toNat_wordAfter {old : W64} (harrive : u.arrive = true) : (BitVec.ofNat 64 (wordAfter u old.toNat)).toNat = wordAfter u old.toNat := by
  rw [BitVec.toNat_ofNat, wordAfter_of_arrive harrive]
  exact Nat.mod_eq_of_lt (completionWord_lt (Nat.mod_lt _ (by omega)) failureInfo_lt)

theorem getLsbD_of_div {w : W64} {i : Nat} {b : Bool} (h : w.toNat / 2 ^ i % 2 = b.toNat) : w.getLsbD i = b := by
  rw [← toNat_testBit] at h
  have hbit : w.toNat.testBit i = b := by revert h; cases w.toNat.testBit i <;> cases b <;> decide
  exact hbit

theorem failureInfo_of_kept {old : W64} (h : old.getLsbD 63 = true ∨ u.err = none) :
    failureInfo u old.toNat = old.toNat / 2 ^ 32 % 2 ^ 30 := by
  unfold failureInfo
  rw [← toNat_testBit]
  rcases h with hfailed | hnone
  · exact if_pos (congrArg Bool.toNat hfailed)
  · rw [hnone, ite_self]

theorem failureInfo_of_first {old : W64} {code : BitVec 6} (hfirst : old.getLsbD 63 = false) (herr : u.err = some code) :
    failureInfo u old.toNat = u.idx % 2 ^ 24 + code.toNat * 2 ^ 24 := by
  have hclear : old.toNat.testBit 63 = false := hfirst
  rw [failureInfo, ← toNat_testBit, hclear, herr]
  rfl

/-- Settles O44: the word's fields are laid out apart; each is read back. -/
theorem completionWordsCountAndKeepTheFirstFailure : Obligations.CompletionWordsCountAndKeepTheFirstFailure := by
  intro u old _ harrive new
  have hnew : new.toNat = completionWord ((old.toNat + 1) % 2 ^ 32) (failureInfo u old.toNat) (old.toNat.testBit 62 || u.fb)
      (old.toNat.testBit 63 || u.err.isSome) := (toNat_wordAfter harrive).trans (wordAfter_of_arrive harrive)
  have hcount : (old.toNat + 1) % 2 ^ 32 < 2 ^ 32 := Nat.mod_lt _ (by omega)
  have hinfo : new.toNat / 2 ^ 32 % 2 ^ 30 = failureInfo u old.toNat := by rw [hnew, completionWord_info hcount failureInfo_lt]
  refine ⟨?_, ?_, ?_, ?_, fun hkept => ?_, fun code hfirst herr => ?_⟩
  · rw [wordAfter_of_arrive harrive]
    exact completionWord_lt hcount failureInfo_lt
  · apply BitVec.eq_of_toNat_eq
    rw [BitVec.toNat_setWidth, hnew, completionWord_count hcount]
    simp
  · exact getLsbD_of_div (by rw [hnew, completionWord_fb hcount failureInfo_lt]; rfl)
  · exact getLsbD_of_div (by rw [hnew, completionWord_err hcount failureInfo_lt]; rfl)
  · rw [failureInfo_of_kept hkept] at hinfo
    apply BitVec.eq_of_toNat_eq
    simpa only [BitVec.extractLsb'_toNat, Nat.shiftRight_eq_div_pow] using hinfo
  · rw [failureInfo_of_first hfirst herr] at hinfo
    have := code.isLt
    constructor
    · apply BitVec.eq_of_toNat_eq
      rw [BitVec.extractLsb'_toNat, Nat.shiftRight_eq_div_pow]
      omega
    · rw [BitVec.extractLsb'_toNat, Nat.shiftRight_eq_div_pow]
      omega

end Sys2Proof.Proofs
end

section
/-! PROOFS. What operations on lines leave as they were (R146, R147, R260, R295): they change HBM, the die caches and what the errors of
their lines leave, the key stamps, the messages of groups and the reservations of harts, and nothing else; and they keep HBM canonical. -/

namespace Sys2Proof.Proofs

open Sys2Proof.Machine

variable {s t u : State}

/-- `t` is `s` but for what operations on lines change. -/
def StoredOnly (s t : State) : Prop :=
  t = { s with mem := t.mem, dcache := t.dcache, struck := t.struck, lost := t.lost, wounds := t.wounds, stamps := t.stamps, walks := t.walks,
               groups := t.groups, hub := { s.hub with resv := t.hub.resv } } ∧
  (s.mem.wf = true → t.mem.wf = true)

theorem StoredOnly.refl (s : State) : StoredOnly s s := ⟨rfl, id⟩

theorem StoredOnly.trans (hst : StoredOnly s t) (htu : StoredOnly t u) : StoredOnly s u := by
  obtain ⟨hst, hwf⟩ := hst
  obtain ⟨htu, hwf'⟩ := htu
  refine ⟨?_, hwf' ∘ hwf⟩
  rw [htu, hst]

theorem StoredOnly.dies_eq (h : StoredOnly s t) : t.dies = s.dies := (congrArg State.dies h.1 :)

theorem foldl_storedOnly {α : Type} {f : State → α → State} (hf : ∀ s a, StoredOnly s (f s a)) (l : List α) (s : State) :
    StoredOnly s (l.foldl f s) := by
  induction l generalizing s with
  | nil => exact StoredOnly.refl s
  | cons a l ih => exact (hf s a).trans (ih _)

/-! ## Messages -/

theorem setGroup_storedOnly (s : State) (i : Nat) (g : GroupSlot) : StoredOnly s (s.setGroup i g) := ⟨rfl, id⟩

theorem flushGroup_storedOnly (s : State) (i : Nat) : StoredOnly s (s.flushGroup i) := by
  rw [State.flushGroup]
  split
  · exact setGroup_storedOnly _ _ _
  · exact StoredOnly.refl s

theorem send_storedOnly (s : State) (i dest type : Nat) (m : GroupMsg) : StoredOnly s (s.send i dest type m) :=
  (setGroup_storedOnly _ _ _).trans (flushGroup_storedOnly _ _)

theorem sendDelta_storedOnly (s : State) (i line : Nat) (old new : BitVec 512) : StoredOnly s (s.sendDelta i line old new) :=
  (foldl_storedOnly (fun _ _ => send_storedOnly _ _ _ _ _) _ _).trans (setGroup_storedOnly _ _ _)

/-! ## Write-back -/

theorem putLine_storedOnly (s : State) (l : DieLine) : StoredOnly s (s.putLine l) := ⟨rfl, id⟩

theorem dropStruck_storedOnly (s : State) (l : DieLine) : StoredOnly s (s.dropStruck l) := ⟨rfl, id⟩

theorem wound_storedOnly (s : State) (l : DieLine) (reported : Bool) : StoredOnly s (s.wound l reported) := by
  rw [State.wound]
  split
  · exact ⟨rfl, id⟩
  · exact StoredOnly.refl s

theorem writeMem_storedOnly (s : State) (a : Nat) (bs : List Byte) : StoredOnly s { s with mem := s.mem.write a bs } :=
  ⟨rfl, fun h => Memory.write_wf h _ _⟩

theorem writeBack_storedOnly (s : State) (line : Nat) : StoredOnly s (s.writeBack line) := by
  have hput : ∀ (t : State) (l : DieLine), StoredOnly t
      (({ t with mem := t.mem.write (64 * line) (natBytes l.data.toNat 64) } : State).putLine { l with dirty := false }) := fun t l =>
    (writeMem_storedOnly _ _ _).trans (putLine_storedOnly _ _)
  rw [State.writeBack]
  split
  · exact StoredOnly.refl s
  · split
    · exact StoredOnly.refl s
    · split
      · exact (dropStruck_storedOnly _ _).trans (wound_storedOnly _ _ _)
      · dsimp only
        split
        · exact hput _ _
        · split
          · exact (sendDelta_storedOnly _ _ _ _ _).trans (hput _ _)
          · exact hput _ _

theorem cleanLine_storedOnly (s : State) (line : Nat) : StoredOnly s (s.cleanLine line) := by
  rw [State.cleanLine]
  split
  · exact StoredOnly.refl s
  · exact writeBack_storedOnly _ _

theorem dropClean_storedOnly (s : State) (line : Nat) : StoredOnly s (s.dropClean line) := ⟨rfl, id⟩

theorem evictLine_storedOnly (s : State) (line : Nat) : StoredOnly s (s.evictLine line) :=
  (cleanLine_storedOnly _ _).trans (dropClean_storedOnly _ _)

theorem pushOut_storedOnly (s : State) (line : Nat) : StoredOnly s (s.pushOut line) :=
  (writeBack_storedOnly _ _).trans (dropClean_storedOnly _ _)

theorem cleanRange_storedOnly (s : State) (a n : Nat) : StoredOnly s (s.cleanRange a n) :=
  foldl_storedOnly cleanLine_storedOnly _ _

theorem evictRange_storedOnly (s : State) (a n : Nat) : StoredOnly s (s.evictRange a n) :=
  foldl_storedOnly evictLine_storedOnly _ _

/-! ## Lines and bytes -/

theorem putInDcache_storedOnly (s : State) (ls : List DieLine) : StoredOnly s { s with dcache := ls } := ⟨rfl, id⟩

theorem touchLine_storedOnly (s : State) (line : Nat) (g : LineTag) : StoredOnly s (s.touchLine line g).1 := by
  rw [State.touchLine]
  split
  · exact putInDcache_storedOnly _ _
  · dsimp only
    split
    · exact (pushOut_storedOnly _ _).trans (putInDcache_storedOnly _ _)
    · exact putInDcache_storedOnly _ _

theorem physSet_storedOnly (s : State) (g : LineTag) (a : Nat) (b : Byte) : StoredOnly s (s.physSet g a b) :=
  (touchLine_storedOnly _ _ _).trans (putLine_storedOnly _ _)

theorem physWrite_storedOnly (s : State) (g : LineTag) (a : Nat) (bs : List Byte) : StoredOnly s (s.physWrite g a bs) := by
  induction bs generalizing s a with
  | nil => exact StoredOnly.refl s
  | cons b bs ih => exact (physSet_storedOnly _ _ _ _).trans (ih _ _)

/-- Whether a line carries the stamp of another key. -/
def foreignStamp (s : State) (line key : Nat) : Bool :=
  match tabGet line s.stamps with
  | some k => k != key
  | none => false

/-- A line that a writer under another key is to share is first written as that writer reads it (R295). -/
def rekeyed (s : State) (e : W64) (page a : Nat) : State :=
  if foreignStamp s (a / 64) (keySerial s e) = true then
    s.physWrite (tagOf e page a) (64 * (a / 64)) (s.keyedRead (keySerial s e) (64 * (a / 64)) 64)
  else s

/-- A line takes the stamp of a key; key 0 has none. -/
def stamped (s : State) (line key : Nat) : State :=
  if key = 0 then { s with stamps := tabDel line s.stamps } else { s with stamps := tabSet line key s.stamps }

theorem keyedSet_eq (s : State) (e : W64) (page a : Nat) (b : Byte) :
    s.keyedSet e page a b = (stamped (rekeyed s e page a) (a / 64) (keySerial s e)).physSet (tagOf e page a) a b := rfl

theorem rekeyed_storedOnly (s : State) (e : W64) (page a : Nat) : StoredOnly s (rekeyed s e page a) := by
  rw [rekeyed]
  split
  · exact physWrite_storedOnly _ _ _ _
  · exact StoredOnly.refl s

theorem stamped_storedOnly (s : State) (line key : Nat) : StoredOnly s (stamped s line key) := by
  rw [stamped]
  split <;> exact ⟨rfl, id⟩

theorem keyedSet_storedOnly (s : State) (e : W64) (page a : Nat) (b : Byte) : StoredOnly s (s.keyedSet e page a b) := by
  rw [keyedSet_eq]
  exact ((rekeyed_storedOnly _ _ _ _).trans (stamped_storedOnly _ _ _)).trans (physSet_storedOnly _ _ _ _)

theorem keyedBytes_storedOnly (s : State) (e : W64) (page a : Nat) (bs : List Byte) : StoredOnly s (s.keyedBytes e page a bs) := by
  induction bs generalizing s a with
  | nil => exact StoredOnly.refl s
  | cons b bs ih => exact (keyedSet_storedOnly _ _ _ _ _).trans (ih _ _)

theorem dropResv_storedOnly (s : State) (a n : Nat) : StoredOnly s (s.dropResv a n) := ⟨rfl, id⟩

theorem keyedWrite_storedOnly (s : State) (e : W64) (page a : Nat) (bs : List Byte) : StoredOnly s (s.keyedWrite e page a bs) :=
  (dropResv_storedOnly _ _ _).trans (keyedBytes_storedOnly _ _ _ _ _)

theorem supWrite_storedOnly (s : State) (a : Nat) (bs : List Byte) : StoredOnly s (s.supWrite a bs) := keyedWrite_storedOnly _ _ _ _ _

theorem putLocal_storedOnly (s : State) (a n v : Nat) : StoredOnly s (s.putLocal a n v) := supWrite_storedOnly _ _ _

theorem logLine_storedOnly (s : State) (i line pa : Nat) : StoredOnly s (s.logLine i line pa) := by
  rw [State.logLine]
  split
  · exact StoredOnly.refl s
  · exact (supWrite_storedOnly _ _ _).trans (putLocal_storedOnly _ _ _ _)

theorem touchWalked_storedOnly (s : State) : StoredOnly s s.touchWalked := by
  have hclear : StoredOnly s { s with walks := [] } := ⟨rfl, id⟩
  exact hclear.trans (foldl_storedOnly (fun _ _ => touchLine_storedOnly _ _ _) _ _)

end Sys2Proof.Proofs
end

section
/-! PROOFS. Activation counters, and the rows that are refreshed around a saturated one (R207), and O45. -/

namespace Sys2Proof.Proofs

set_option Elab.async false

open Sys2Proof.Machine Sys2Proof.Claims Sys2Proof.Laws

variable {s : State} {d e : DieState} {b r n : Nat}

/-! ## Counters -/

theorem find?_filter_of_implies {α : Type} {p q : α → Bool} (l : List α) (h : ∀ x ∈ l, p x = true → q x = true) :
    (l.filter q).find? p = l.find? p := by
  rw [List.find?_filter]
  refine List.find?_congr fun x hx => ?_
  cases hp : p x
  · simp
  · simp [h x hx hp]

theorem activations_setActs (b' r' : Nat) : activations (d.setActs b r n) b' r' = if b' = b ∧ r' = r then n else activations d b' r' := by
  unfold activations DieState.setActs
  dsimp only
  by_cases hsame : b' = b ∧ r' = r
  case pos =>
    obtain ⟨rfl, rfl⟩ := hsame
    have hgone : (d.acts.filter (fun x => x.1 != b' || x.2.1 != r')).find? (fun x => x.1 == b' && x.2.1 == r') = none := by
      rw [List.find?_eq_none]
      intro x hx
      simpa [imp_iff_or_not, or_comm] using (List.mem_filter.1 hx).2
    by_cases hn : n = 0 <;> simp [hn, hgone]
  case neg =>
    have hkept : (d.acts.filter (fun x => x.1 != b || x.2.1 != r)).find? (fun x => x.1 == b' && x.2.1 == r') =
        d.acts.find? (fun x => x.1 == b' && x.2.1 == r') := by
      refine find?_filter_of_implies _ fun x _ hx => ?_
      obtain ⟨hb, hr⟩ : x.1 = b' ∧ x.2.1 = r' := by simpa using hx
      have : ¬ (x.1 = b ∧ x.2.1 = r) := by rwa [hb, hr]
      simpa [imp_iff_not_or] using this
    have hother : ¬ (b = b' ∧ r = r') := fun h => hsame ⟨h.1.symm, h.2.symm⟩
    have hmiss : (b == b' && r == r') = false := by simpa using hother
    by_cases hn : n = 0 <;> simp [hn, hkept, hsame, hmiss]

theorem activations_resetCounter (b' r' : Nat) :
    activations (d.resetCounter b r) b' r' = if b' = b ∧ r' = r then 0 else activations d b' r' := activations_setActs b' r'

theorem activations_foldl_resetCounter (rows : List Nat) (d : DieState) (b' r' : Nat) :
    activations (rows.foldl (fun e r => e.resetCounter b r) d) b' r' = if b' = b ∧ r' ∈ rows then 0 else activations d b' r' := by
  induction rows generalizing d with
  | nil => simp
  | cons r rows ih =>
    rw [List.foldl_cons, ih, activations_resetCounter]
    by_cases hb : b' = b <;> by_cases hr : r' = r <;> by_cases hmem : r' ∈ rows <;> simp [hb, hr, hmem]

theorem mem_saturated : r ∈ saturated d b ↔ r ∈ openedRows d b ∧ (d.actSat.toNat ≤ activations d b r ∨ (b, r) ∈ d.failed) := by
  simp [saturated, List.mem_mergeSort, List.mem_filter, List.mem_eraseDups]

/-! ## Neighbours -/

theorem mem_neighbours {x : Nat} : x ∈ neighbours b r n ↔ Near n b r x := by
  unfold neighbours Near
  split
  case isTrue hrow =>
    simp only [List.mem_filterMap, List.mem_range, Option.ite_none_right_eq_some, Option.some.injEq]
    constructor
    · rintro ⟨i, hi, ⟨hlow, hne, hsub⟩, rfl⟩
      exact ⟨by omega, by omega, by omega, hsub⟩
    · rintro ⟨hne, hhigh, hlow, hsub⟩
      refine ⟨x + n - r, by omega, ⟨by omega, by omega, ?_⟩, by omega⟩
      rw [show r + (x + n - r) - n = x by omega]
      exact hsub
  case isFalse hrow =>
    simp only [List.mem_filterMap, List.mem_range, Option.ite_none_right_eq_some, Option.some.injEq]
    constructor
    · rintro ⟨i, hi, ⟨hlow, hhigh⟩, rfl⟩
      exact ⟨by omega, by omega, by omega⟩
    · rintro ⟨hlow, hhigh, hsub⟩
      refine ⟨x + n - (512 * ((r - 2 ^ 32) / 2) + Config.controlPlace b ((r - 2 ^ 32) / 2) % 513), by omega, ⟨by omega, by omega⟩, by omega⟩

/-! ## The precharge of a bank -/

theorem putLocal_dies (s : State) (a n v : Nat) : (s.putLocal a n v).dies = s.dies := (putLocal_storedOnly _ _ _ _).dies_eq

theorem modLife_dies (s : State) (f : Lifetime → Lifetime) : (s.modLife f).dies = s.dies := rfl

theorem recordError_dies (s : State) (e : ErrorInfo) : (s.recordError e).dies = s.dies := by
  simp only [State.recordError]
  split_ifs <;> simp only [modLife_dies, putLocal_dies]

theorem foldl_recordError_dies {α : Type} (l : List α) (e : α → ErrorInfo) (s : State) :
    (l.foldl (fun t a => t.recordError (e a)) s).dies = s.dies := by
  induction l generalizing s with
  | nil => rfl
  | cons a l ih => exact (ih _).trans (recordError_dies _ _)

/-- The die of a bank after a precharge that finds saturated rows. -/
def prechargedDie (d : DieState) (b : Nat) : DieState :=
  { (saturated d b).foldl (fun e r => e.resetCounter b r) { d with opened := tabDel b d.opened } with
    refreshed := (((saturated d b).flatMap (fun r => neighbours b r d.actNbr)).eraseDups).map (fun r => (b, r)) }

theorem precharge_dies (h : saturated (vget s.dies (bankDie b) .reset) b ≠ []) :
    (s.precharge b).dies = vset s.dies (bankDie b) (prechargedDie (vget s.dies (bankDie b) .reset) b) := by
  unfold State.precharge
  dsimp only
  split
  case h_1 hnone => exact absurd hnone h
  case h_2 rows _ => exact foldl_recordError_dies _ _ _

theorem activations_prechargedDie (d : DieState) (b b' r' : Nat) :
    activations (prechargedDie d b) b' r' = if b' = b ∧ r' ∈ saturated d b then 0 else activations d b' r' :=
  activations_foldl_resetCounter _ _ _ _

theorem mem_refreshed_prechargedDie (d : DieState) (b b' x : Nat) :
    (b', x) ∈ (prechargedDie d b).refreshed ↔ b' = b ∧ ∃ r' ∈ saturated d b, Near d.actNbr b r' x := by
  simp [prechargedDie, mem_neighbours, eq_comm, and_comm]

theorem bankDie_lt (b : Nat) : bankDie b < 6 := by
  unfold bankDie homeDie
  split_ifs <;> omega

/-- Settles O45: a precharge resets each saturated row's counter and refreshes its neighbours; reports leave the dies alone. -/
theorem saturatedRowsAreRefreshedAround : Obligations.SaturatedRowsAreRefreshedAround := by
  intro s b r die d
  refine ⟨fun hclosed => ?_, fun hopen hfull => ?_, ?_⟩
  · have hunsaturated : (saturated d b).contains r = false := by simpa using fun h => hclosed (mem_saturated.1 h).1
    rw [exec_activationSaturation, execActivationSaturation, hunsaturated]
    rfl
  · have hmem : r ∈ saturated d b := mem_saturated.2 ⟨hopen, hfull⟩
    have hdies := precharge_dies (s := s) (List.ne_nil_of_mem hmem)
    have hexec : exec (.activationSaturation b r) s = .next { s.precharge b with verdict := .issued } := by
      rw [exec_activationSaturation, execActivationSaturation, List.contains_iff_mem.2 hmem]
      rfl
    have hdie : vget (s.precharge b).dies die .reset = prechargedDie d b := by rw [hdies, vget_vset_same _ _ _ (bankDie_lt b)]
    refine ⟨_, hexec, rfl, hmem, fun r' hr' => ?_, fun b' r' hother => ?_, fun b' x => ?_, fun k hk => ?_⟩
    · rw [hdie, activations_prechargedDie, if_pos ⟨rfl, hr'⟩]
    · rw [hdie, activations_prechargedDie, if_neg]
      exact fun h => hother.elim (· h.1) (· h.2)
    · rw [hdie]
      exact mem_refreshed_prechargedDie d b b' x
    · rw [hdies, vget_vset_of_ne _ _ _ hk]
  · have hdie : vget (vset s.dies die (d.setActs b r 0)) die .reset = d.setActs b r 0 := vget_vset_same _ _ _ (bankDie_lt b)
    refine occurs_of_exec exec_periodicRefresh ⟨?_, fun b' r' hother => ?_, ?_⟩
    · rw [hdie, activations_setActs, if_pos ⟨rfl, rfl⟩]
    · rw [hdie, activations_setActs, if_neg]
      exact fun h => hother.elim (· h.1) (· h.2)
    · rw [hdie]
      rfl

end Sys2Proof.Proofs
end

section
/-! PROOFS. What landing results change (R69 to R76, R322), and O41. -/

namespace Sys2Proof.Proofs

set_option Elab.async false

open Sys2Proof.Machine Sys2Proof.Claims Sys2Proof.Laws

variable {x y z : Ctx} {c c' k : Cluster} {r r' size b n : Nat} {v : W64} {mask new : VReg} {bs : List Byte} {rs : List Reservation}

/-! ## Results -/

theorem vget_vset {α : Type} {m : Nat} (xs : Vector α m) (w d : α) (h : r < m) : vget (vset xs r w) r' d = if r' = r then w else vget xs r' d := by
  split
  case isTrue hsame => rw [hsame, vget_vset_same _ _ _ h]
  case isFalse hother => exact vget_vset_of_ne _ _ _ hother

theorem gpr_setGpr (regs : Regs) (hc : c ≠ .V) (hr : r < if c = .A then 32 else 16) :
    (regs.setGpr c r v).gpr c' r' = if c' = .A ∧ r' = 0 then 0 else if c' = c ∧ r' = r then v else regs.gpr c' r' := by
  cases c with
  | V => exact absurd rfl hc
  | A =>
    have hin : r < 32 := hr
    by_cases hr0 : r = 0 <;> by_cases hr' : r' = 0 <;> cases c' <;> simp [Regs.setGpr, Regs.gpr, hr0, hr', vget_vset _ _ _ hin]
  | M =>
    have hin : r < 16 := hr
    by_cases hr' : r' = 0 <;> cases c' <;> simp [Regs.setGpr, Regs.gpr, hr', vget_vset _ _ _ hin]
  | S =>
    have hin : r < 16 := hr
    by_cases hr' : r' = 0 <;> cases c' <;> simp [Regs.setGpr, Regs.gpr, hr', vget_vset _ _ _ hin]

theorem land_scalar_keeps (hc : c ≠ .V) : keepsAllBut x (x.land (.scalar c r v)) 0 ∧ (x.land (.scalar c r v)).sp = x.sp := by
  have hregs : ∀ regs : Regs, regs.setGpr c r v = { regs with a := (regs.setGpr c r v).a, m := (regs.setGpr c r v).m, s := (regs.setGpr c r v).s } := by
    intro regs
    unfold Regs.setGpr
    split
    · split <;> rfl
    all_goals rfl
  rw [Ctx.land, hregs]
  simp [keepsAllBut]

theorem getLsbD_merge (mask new old : VReg) (j : Nat) : (merge mask new old).getLsbD j = if mask.getLsbD j then new.getLsbD j else old.getLsbD j := by
  have hold : old.getLsbD j = (decide (j < 2048) && old.getLsbD j) := by
    by_cases hj : j < 2048
    · simp [hj]
    · simp [BitVec.getLsbD_of_ge old j (by omega)]
  rw [merge, BitVec.getLsbD_or, BitVec.getLsbD_and, BitVec.getLsbD_and, BitVec.getLsbD_not, hold]
  cases mask.getLsbD j <;> cases decide (j < 2048) <;> simp

theorem vget_pushLast (regs : Regs) (w : VReg) : vget (regs.pushLast w).l 0 0 = w ∧ ∀ n, n < 3 → vget (regs.pushLast w).l (n + 1) 0 = vget regs.l n 0 := by
  refine ⟨rfl, fun n hn => ?_⟩
  have hcase : n = 0 ∨ n = 1 ∨ n = 2 := by omega
  rcases hcase with rfl | rfl | rfl <;> rfl

theorem resultsLand : ResultsLand := by
  intro x c c' r r' size v mask new bs dbg
  refine ⟨fun hc hr => ?_, fun hr => ?_, fun hr => ?_, fun hwf => ?_, fun hr => ?_, fun hwf => ?_⟩
  · exact ⟨(land_scalar_keeps hc).1, (land_scalar_keeps hc).2, gpr_setGpr x.regs hc hr⟩
  · intro y
    have hnew : vget y.regs.v r 0 = merge mask new (vget x.regs.v r 0) := vget_vset_same _ _ _ hr
    have hkeeps : keepsAllBut x y 1 := ⟨.inr ⟨rfl, rfl, rfl⟩, .inl rfl, .inr rfl, rfl, rfl, rfl, rfl, rfl, rfl, rfl, rfl, rfl, rfl, rfl⟩
    refine ⟨hkeeps, rfl, rfl, fun j => by rw [hnew, getLsbD_merge], fun n hn => vget_vset_of_ne _ _ _ hn, ?_, ?_⟩
    · rw [hnew]; exact (vget_pushLast _ _).1
    · exact fun n hn => (vget_pushLast { x.regs with v := _ } _).2 n hn
  · intro y
    have hnew : vget y.regs.o r 0 = merge mask new (vget x.regs.o r 0) := vget_vset_same _ _ _ hr
    have hkeeps : keepsAllBut x y 1 := ⟨.inr ⟨rfl, rfl, rfl⟩, .inl rfl, .inr rfl, rfl, rfl, rfl, rfl, rfl, rfl, rfl, rfl, rfl, rfl, rfl⟩
    refine ⟨hkeeps, rfl, rfl, fun j => by rw [hnew, getLsbD_merge], fun n hn => vget_vset_of_ne _ _ _ hn, ?_, ?_⟩
    · rw [hnew]; exact (vget_pushLast _ _).1
    · exact fun n hn => (vget_pushLast { x.regs with o := _ } _).2 n hn
  · intro y all
    refine ⟨rfl, rfl, fun n hn => (vget_pushLast x.regs _).2 n hn, fun a => ?_⟩
    have hbytes := Memory.get_write hwf r a (natBytes all.toNat size)
    rw [natBytes_length] at hbytes
    exact hbytes
  · refine ⟨by simp [keepsAllBut, Ctx.land], rfl, fun n => ?_⟩
    exact vget_vset _ _ _ hr
  · exact ⟨by simp [keepsAllBut, Ctx.land, Ctx.spWrite], rfl, fun a => Memory.get_write hwf r a bs⟩

/-! ## Bobbin pointers -/

theorem bobbin_put_same (x : Ctx) (hb : b < 16) (o : Bobbin) : ({ x with bob := vset x.bob b o } : Ctx).bobbin b = o :=
  vget_vset_same _ _ _ hb

theorem bobbin_put_of_ne (x : Ctx) (o : Bobbin) (h : n ≠ b) : ({ x with bob := vset x.bob b o } : Ctx).bobbin n = x.bobbin n :=
  vget_vset_of_ne _ _ _ h

theorem pointersMove : PointersMove := fun x _ _ hb =>
  ⟨⟨rfl, bobbin_put_same x hb _, fun _ hk => bobbin_put_of_ne x _ hk⟩, ⟨rfl, bobbin_put_same x hb _, fun _ hk => bobbin_put_of_ne x _ hk⟩⟩

/-! ## Deliveries -/

/-- The first byte of the slot that lies `j` behind FILL. -/
def slotBehind (o : Bobbin) (j : Nat) : Nat := o.lo + (o.fill + j) % o.slots * o.slotBytes

/-- Different slots share no byte. -/
theorem slots_disjoint {sb p q : Nat} (h : p ≠ q) {i : Nat} (hi : i < sb) : p * sb + i < q * sb ∨ q * sb + sb ≤ p * sb + i := by
  rcases Nat.lt_or_gt_of_ne h with hlt | hgt
  · have := Nat.mul_le_mul_right sb (show p + 1 ≤ q from hlt)
    rw [Nat.add_mul, Nat.one_mul] at this
    omega
  · have := Nat.mul_le_mul_right sb (show q + 1 ≤ p from hgt)
    rw [Nat.add_mul, Nat.one_mul] at this
    omega

theorem mod_add_ne {f j n : Nat} (hj : 0 < j) (hn : j < n) : (f + j) % n ≠ f % n := by
  intro h
  have hdvd := (Nat.modEq_iff_dvd' (Nat.le_add_right f j)).1 h.symm
  rw [Nat.add_sub_cancel_left] at hdvd
  exact absurd (Nat.le_of_dvd hj hdvd) (by omega)

/-- How many reservations at the head have their data. -/
def readyCount (rs : List Reservation) : Nat := (rs.takeWhile (·.data.isSome)).length

/-- What `y` has of bobbin `b` once the reservations `rs` of `x` have been written as far as their data is there. -/
def Delivered (b : Nat) (rs : List Reservation) (x y : Ctx) : Prop :=
  y = { x with bob := y.bob, bmem := y.bmem, bmBad := y.bmBad } ∧
  y.bobbin b = { x.bobbin b with fill := ((x.bobbin b).fill + readyCount rs) % (x.bobbin b).slots,
                                 count := (x.bobbin b).count + readyCount rs, resv := rs.drop (readyCount rs) } ∧
  (∀ k, k ≠ b → y.bobbin k = x.bobbin k) ∧
  (∀ j r w i, (rs.takeWhile (·.data.isSome))[j]? = some r → r.data = some w → i < (x.bobbin b).slotBytes →
    y.bmem.get (slotBehind (x.bobbin b) j + i) = (natBytes w.toNat (x.bobbin b).slotBytes).getD i 0) ∧
  (∀ a, (∀ j < readyCount rs, a < slotBehind (x.bobbin b) j ∨ slotBehind (x.bobbin b) j + (x.bobbin b).slotBytes ≤ a) →
    y.bmem.get a = x.bmem.get a)

theorem fillNext_bobbin (hb : b < 16) (w : VReg) : (x.fillNext b w).bobbin b =
    { x.bobbin b with fill := ((x.bobbin b).fill + 1) % (x.bobbin b).slots, count := (x.bobbin b).count + 1 } :=
  bobbin_put_same _ hb _

theorem fillNext_bobbin_of_ne (w : VReg) (h : n ≠ b) : (x.fillNext b w).bobbin n = x.bobbin n := bobbin_put_of_ne _ _ h

theorem fillNext_bmem (w : VReg) : (x.fillNext b w).bmem =
    x.bmem.write (slotBehind (x.bobbin b) 0) (natBytes w.toNat (x.bobbin b).slotBytes) := rfl

theorem slotBehind_fillNext (hb : b < 16) (w : VReg) (j : Nat) :
    slotBehind ((x.fillNext b w).bobbin b) j = slotBehind (x.bobbin b) (j + 1) := by
  rw [fillNext_bobbin hb]
  show (x.bobbin b).lo + (((x.bobbin b).fill + 1) % (x.bobbin b).slots + j) % (x.bobbin b).slots * (x.bobbin b).slotBytes = _
  rw [Nat.mod_add_mod, slotBehind, Nat.add_assoc, Nat.add_comm 1 j]

/-- Reservations whose first one still waits only take their place again. -/
theorem delivered_of_waiting (hb : b < 16) (hfill : (x.bobbin b).fill < (x.bobbin b).slots) (hwait : rs.takeWhile (·.data.isSome) = []) :
    Delivered b rs x { x with bob := vset x.bob b { x.bobbin b with resv := rs } } := by
  have hnone : readyCount rs = 0 := by rw [readyCount, hwait]; rfl
  refine ⟨rfl, ?_, fun k hk => bobbin_put_of_ne _ _ hk, fun j r w i hr => ?_, fun a _ => rfl⟩
  · simp only [bobbin_put_same _ hb, hnone, Nat.add_zero, Nat.mod_eq_of_lt hfill, List.drop_zero]
  · rw [hwait] at hr
    exact absurd hr (by simp)

theorem readyCount_cons {r : Reservation} {w : VReg} (h : r.data = some w) : readyCount (r :: rs) = readyCount rs + 1 := by
  simp [readyCount, h]

/-- Reservations whose first one has its data: it is written to the next slot, then those behind it. -/
theorem delivered_of_ready (hb : b < 16) {r : Reservation} {w : VReg} (hr : r.data = some w)
    (hroom : readyCount (r :: rs) ≤ (x.bobbin b).slots) (hwf : x.bmem.wf = true) (hrest : Delivered b rs (x.fillNext b w) y) :
    Delivered b (r :: rs) x y := by
  obtain ⟨hframe, hbobbin, hothers, hslots, hbytes⟩ := hrest
  rw [readyCount_cons hr] at hroom
  have hmem : ∀ a, (x.fillNext b w).bmem.get a =
      if slotBehind (x.bobbin b) 0 ≤ a ∧ a < slotBehind (x.bobbin b) 0 + (x.bobbin b).slotBytes then
        (natBytes w.toNat (x.bobbin b).slotBytes).getD (a - slotBehind (x.bobbin b) 0) 0 else x.bmem.get a := fun a => by
    rw [fillNext_bmem, Memory.get_write hwf, natBytes_length]
  have hlater : ∀ a, (∀ j < readyCount rs, a < slotBehind (x.bobbin b) (j + 1) ∨
      slotBehind (x.bobbin b) (j + 1) + (x.bobbin b).slotBytes ≤ a) → y.bmem.get a = (x.fillNext b w).bmem.get a := fun a ha =>
    hbytes a fun j hj => by
      rw [slotBehind_fillNext hb, fillNext_bobbin hb]
      exact ha j hj
  refine ⟨?_, ?_, fun k hk => (hothers k hk).trans (fillNext_bobbin_of_ne w hk), fun j q w' i hq hdata hi => ?_, fun a ha => ?_⟩
  · rw [hframe]
    rfl
  · have hcount : (x.bobbin b).count + (readyCount rs + 1) = (x.bobbin b).count + 1 + readyCount rs := by omega
    have hnext : ((x.bobbin b).fill + (readyCount rs + 1)) % (x.bobbin b).slots =
        (((x.bobbin b).fill + 1) % (x.bobbin b).slots + readyCount rs) % (x.bobbin b).slots := by
      rw [Nat.mod_add_mod, Nat.add_assoc, Nat.add_comm 1]
    rw [hbobbin, fillNext_bobbin hb, readyCount_cons hr, hnext, hcount]
    rfl
  · rw [List.takeWhile_cons_of_pos (by rw [hr]; rfl)] at hq
    cases j with
    | zero =>
      obtain rfl : r = q := by simpa using hq
      obtain rfl : w = w' := by simpa [hr] using hdata
      rw [hlater _ fun j hj => ?_, hmem, if_pos ⟨by omega, by omega⟩, Nat.add_sub_cancel_left]
      have hne : ((x.bobbin b).fill + 0) % (x.bobbin b).slots ≠ ((x.bobbin b).fill + (j + 1)) % (x.bobbin b).slots :=
        (mod_add_ne (Nat.succ_pos j) (by omega)).symm
      have := slots_disjoint hne hi
      simp only [slotBehind]
      omega
    | succ j =>
      have hthere := hslots j q w' i (by simpa using hq) hdata (by rw [fillNext_bobbin hb]; exact hi)
      rw [slotBehind_fillNext hb, fillNext_bobbin hb] at hthere
      exact hthere
  · rw [hlater a fun j hj => ha (j + 1) (by rw [readyCount_cons hr]; omega), hmem, if_neg]
    have := ha 0 (by rw [readyCount_cons hr]; omega)
    omega

theorem pump_delivered (hb : b < 16) (rs : List Reservation) (x : Ctx) (hfill : (x.bobbin b).fill < (x.bobbin b).slots)
    (hroom : readyCount rs ≤ (x.bobbin b).slots) (hwf : x.bmem.wf = true) : Delivered b rs x (x.pump b rs) := by
  induction rs generalizing x with
  | nil => exact delivered_of_waiting hb hfill rfl
  | cons r rs ih =>
    rw [Ctx.pump]
    split
    case h_1 hnone => exact delivered_of_waiting hb hfill (by rw [List.takeWhile_cons, hnone]; rfl)
    case h_2 w hw =>
      have hslots : ((x.fillNext b w).bobbin b).slots = (x.bobbin b).slots := by rw [fillNext_bobbin hb]; rfl
      refine delivered_of_ready hb hw hroom hwf (ih _ ?_ ?_ ?_)
      · rw [hslots, fillNext_bobbin hb]
        exact Nat.mod_lt _ (by omega)
      · rw [readyCount_cons hw] at hroom
        omega
      · rw [fillNext_bmem]
        exact Memory.write_wf hwf _ _

theorem dataIsDeliveredInOrder : DataIsDeliveredInOrder := by
  intro x b id v o rs ready slot y hb hfill hroom hwf
  exact pump_delivered hb rs x hfill hroom hwf

/-! ## Flags and special registers -/

theorem sreg_of_ne_vsp {num : Nat} (sp : BitVec 20) (h : num ≠ 0x14) :
    ({ x with sr := { x.sr with vsp := sp } } : Ctx).sreg c num = x.sreg c num := by
  unfold Ctx.sreg
  split
  case h_17 => exact absurd rfl h
  all_goals rfl

theorem sreg_of_ne_vlen {num : Nat} (len : BitVec 7) (h : num ≠ 0x16) :
    ({ x with sr := { x.sr with vlen := len } } : Ctx).sreg c num = x.sreg c num := by
  unfold Ctx.sreg
  split
  case h_19 => exact absurd rfl h
  all_goals rfl

theorem sreg_of_ne_fcsr {num : Nat} (f : BitVec 10) (h : num ≠ 0x17) :
    ({ x with sr := { x.sr with fcsr := f } } : Ctx).sreg c num = x.sreg c num := by
  unfold Ctx.sreg
  split
  case h_20 => exact absurd rfl h
  all_goals rfl

theorem sreg_of_ne_lfsr {num : Nat} (w : W32) (h : num ≠ 0x0B) :
    ({ x with sr := { x.sr with lfsr := w } } : Ctx).sreg c num = x.sreg c num := by
  unfold Ctx.sreg
  split
  case h_12 => exact absurd rfl h
  all_goals rfl

theorem sreg_of_ne_cir {num : Nat} (abort : Bool) (count : W16) (audit : Audit) (h : num ≠ 0x06) :
    ({ x with sr := { x.sr with cirAbort := abort, cirCount := count }, audit := audit } : Ctx).sreg c num = x.sreg c num := by
  unfold Ctx.sreg
  split
  case h_7 => exact absurd rfl h
  all_goals rfl

/-- The count of CIR stops at its greatest value. -/
theorem toNat_cirCount_succ (n : W16) : (if n = 0xFFFF then 0xFFFF else n + 1 : W16).toNat = min (n.toNat + 1) 0xFFFF := by
  split
  case isTrue h => subst h; rfl
  case isFalse h =>
    have hne : n.toNat ≠ 0xFFFF := fun he => h (BitVec.eq_of_toNat_eq he)
    have := n.isLt
    rw [BitVec.toNat_add, show (1 : W16).toNat = 1 from rfl, Nat.mod_eq_of_lt (by omega)]
    omega

theorem consumeAbort_of_no_clear (h : ∀ e ∈ x.flight, e.eff ≠ .cirClear) :
    x.consumeAbort = { x with
      sr := { x.sr with cirAbort := true, cirCount := if x.sr.cirCount = 0xFFFF then 0xFFFF else x.sr.cirCount + 1 },
      audit := { x.audit with aborted := true } } := by
  have hnone : x.flight.find? (fun w => w.eff == .cirClear) = none := List.find?_eq_none.2 fun w hw => by simpa using h w hw
  rw [Ctx.consumeAbort, hnone]

theorem activeBits_eq_zero_iff (k : Clusters) : k.activeBits = 0 ↔ ∀ c, (k.get c).active = false := by
  have hbits : ∀ b : Bool, b.toNat = 0 ↔ b = false := by decide
  constructor
  · intro h c
    unfold Clusters.activeBits at h
    obtain ⟨ha, hv, hm, hs⟩ : k.a.active.toNat = 0 ∧ k.v.active.toNat = 0 ∧ k.m.active.toNat = 0 ∧ k.s.active.toNat = 0 := by omega
    cases c with
    | A => exact (hbits _).1 ha
    | V => exact (hbits _).1 hv
    | M => exact (hbits _).1 hm
    | S => exact (hbits _).1 hs
  · intro h
    have ha := h .A
    have hv := h .V
    have hm := h .M
    have hs := h .S
    simp only [Clusters.get] at ha hv hm hs
    simp [Clusters.activeBits, ha, hv, hm, hs]

/-- The clusters of a context once one of them has halted. -/
def haltedCtx (x : Ctx) (c : Cluster) : Ctx := x.modCl c (fun k => { k with active := false, taskActive := false, blocks := [], floor := 0 })

theorem land_deactivate (x : Ctx) (c : Cluster) : x.land (.deactivate c) = (haltedCtx x c).retireIfDone := rfl

theorem retireIfDone_cl (x : Ctx) : x.retireIfDone.cl = x.cl := by
  rw [Ctx.retireIfDone]
  split <;> rfl

theorem haltedCtx_retireIfDone_eq (x : Ctx) (c : Cluster) :
    (haltedCtx x c).retireIfDone = { x with cl := (haltedCtx x c).retireIfDone.cl, life := (haltedCtx x c).retireIfDone.life } := by
  rw [Ctx.retireIfDone]
  split <;> rfl

theorem retireIfDone_of_done (h : ∀ c, (x.cl.get c).active = false) (hmode : x.sr.handler = false) : x.retireIfDone.life = .retiring := by
  rw [Ctx.retireIfDone, if_pos ⟨(activeBits_eq_zero_iff _).2 h, by rw [hmode]; rfl⟩]

theorem retireIfDone_of_going (h : (∃ c, (x.cl.get c).active = true) ∨ x.sr.handler = true) : x.retireIfDone.life = x.life := by
  rw [Ctx.retireIfDone, if_neg]
  rintro ⟨hnone, hmode⟩
  rcases h with ⟨c, hc⟩ | hhandler
  · exact absurd ((activeBits_eq_zero_iff _).1 hnone c) (by rw [hc]; exact Bool.noConfusion)
  · rw [hhandler] at hmode
    exact Bool.noConfusion hmode

theorem flagsAndRegistersLand : FlagsAndRegistersLand := by
  intro x c k f num b sp len fl w only flagged
  have hzero : ({ x.sr with cirAbort := false, cirCount := 0 } : SRegs).cir = 0 := by simp [SRegs.cir]
  refine ⟨fun hf => ⟨⟨rfl, fun n => vget_vset _ _ _ hf⟩, ⟨rfl, fun n => vget_vset _ _ _ hf⟩, ⟨rfl, fun n => vget_vset _ _ _ hf⟩⟩,
    ⟨rfl, rfl, sreg_of_ne_vsp sp⟩, ⟨rfl, rfl, sreg_of_ne_vlen len⟩, ⟨rfl, rfl, sreg_of_ne_fcsr _⟩, ⟨rfl, rfl, sreg_of_ne_lfsr w⟩,
    ⟨rfl, congrArg some hzero, sreg_of_ne_cir false 0 x.audit⟩, fun hclear => ?_, ?_⟩
  · show only x.consumeAbort _ _
    rw [consumeAbort_of_no_clear hclear]
    refine ⟨rfl, congrArg some ?_, sreg_of_ne_cir _ _ _⟩
    rw [SRegs.cir, toNat_cirCount_succ]
    rfl
  · intro y
    have hcl : y.cl = (haltedCtx x c).cl := retireIfDone_cl _
    refine ⟨?_, ?_, fun hk => ?_, fun hnone hmode => ?_, fun hgoing => ?_⟩
    · exact haltedCtx_retireIfDone_eq x c
    · rw [hcl]
      exact Clusters_get_set_same _ _ _
    · rw [hcl]
      exact Clusters_get_set_of_ne _ _ hk
    · rw [hcl] at hnone
      exact retireIfDone_of_done hnone hmode
    · rw [hcl] at hgoing
      exact retireIfDone_of_going hgoing

/-- Settles O41: results, pointers, deliveries and registers, each by what its landing writes; deliveries by induction on the reservations. -/
theorem landingResultsWriteOnlyTheirDestination : Obligations.LandingResultsWriteOnlyTheirDestination :=
  ⟨resultsLand, pointersMove, dataIsDeliveredInOrder, flagsAndRegistersLand⟩

end Sys2Proof.Proofs
end

section
/-! PROOFS. The leader lease (R285, Table 15.2), and O51. -/

namespace Sys2Proof.Proofs

open Sys2Proof.Machine Sys2Proof.Claims Sys2Proof.Laws

variable {s : State} {die : Nat} {v : W64} {f : Hub → Hub}

/-- What a LEADCMD leaves: the lease, and the mark of the last command of the cycle. -/
def leadWritten (s : State) (die : Nat) (f : Hub → Hub) : State := { s with hub := { f s.hub with leadAt := (s.now, die) } }

theorem leadWrite_of_ok {ok : Bool} (hturn : ¬(s.hub.leadAt.1 = s.now ∧ die < s.hub.leadAt.2)) (hok : ok = true) :
    leadWrite s die ok f = happens (leadWritten s die f) := by
  rw [leadWrite, if_neg hturn, hok]
  rfl

theorem leadWrite_of_failed {ok : Bool} (hturn : ¬(s.hub.leadAt.1 = s.now ∧ die < s.hub.leadAt.2)) (hok : ok = false) :
    leadWrite s die ok f = happens (leadWritten s die id) := by
  rw [leadWrite, if_neg hturn, hok]
  rfl

theorem leadOk_iff (hdie : die < 6) (hruns : s.power.recovery = false) :
    leadOk s die v = true ↔ bits64 v 32 32 = s.hub.epoch.toNat ∧ bits64 v 2 30 = 0 := by
  simp [leadOk, hdie, hruns, and_comm]

theorem foldl_irq_hub (l : List Nat) (info : W64) (s : State) :
    (l.foldl (fun t d => t.irq d info) s).hub = { s.hub with irqs := s.hub.irqs ++ l.map (fun d => (d, info)) } := by
  induction l generalizing s with
  | nil => simp
  | cons d l ih =>
    rw [List.foldl_cons, ih]
    simp [State.irq]

/-- Settles O51: each command is one write of the hub's lease, which its conditions allow or refuse. -/
theorem theLeaderLeaseIsHeldByOneDie : Obligations.TheLeaderLeaseIsHeldByOneDie := by
  intro s die v hdie hruns hturn present written
  have hok := leadOk_iff (s := s) (v := v) hdie hruns
  refine ⟨fun hop hpresent hholder hlease => ?_, fun hop hpresent hfree => ?_, fun hop hpresent hholder hlease => ?_, fun hop hfail => ?_,
    fun hop hfail => ?_, fun hop hfail => ?_, fun hheld hlapsed => ?_⟩
  · rw [Happens, exec_leadcmdRenew, execLeadcmdRenew, if_neg (not_not.2 hop),
      leadWrite_of_ok hturn (by rw [hok.2 hpresent, hholder]; simpa using hlease)]
    rfl
  · rw [Happens, exec_leadcmdTake, execLeadcmdTake, if_neg (not_not.2 hop), leadWrite_of_ok hturn (by rw [hok.2 hpresent, hfree]; rfl)]
    rfl
  · rw [Happens, exec_leadcmdResign, execLeadcmdResign, if_neg (by omega),
      leadWrite_of_ok hturn (by rw [hok.2 hpresent, hholder, hop]; simpa using hlease)]
    rfl
  · rw [Happens, exec_leadcmdRenew, execLeadcmdRenew, if_neg (not_not.2 hop), leadWrite_of_failed hturn]
    · rfl
    · rw [Bool.eq_false_iff]
      intro h
      simp only [Bool.and_eq_true, hok, beq_iff_eq, bne_iff_ne] at h
      exact hfail ⟨h.1.1, h.1.2, h.2⟩
  · rw [Happens, exec_leadcmdTake, execLeadcmdTake, if_neg (not_not.2 hop), leadWrite_of_failed hturn]
    · rfl
    · rw [Bool.eq_false_iff]
      intro h
      simp only [Bool.and_eq_true, hok, beq_iff_eq] at h
      exact hfail h
  · rw [Happens, exec_leadcmdResign, execLeadcmdResign, if_neg (by omega), leadWrite_of_failed hturn]
    · rfl
    · rw [Bool.eq_false_iff]
      intro h
      simp only [Bool.and_eq_true, hok, beq_iff_eq, bne_iff_ne] at h
      exact hfail ⟨h.1.1.1, h.1.1.2, h.1.2, h.2⟩
  · have hlapse : ¬(s.hub.holder = 7 ∨ s.hub.remain ≠ 0) := by simp [hheld, hlapsed]
    refine occurs_of_exec (exec_leaseLapse.trans (if_neg hlapse)) ⟨?_, ?_⟩
    · exact (congrArg Hub.holder (foldl_irq_hub _ _ _) :)
    · exact (congrArg Hub.irqs (foldl_irq_hub _ _ _) :)

end Sys2Proof.Proofs
end

section
/-! PROOFS. O52: the registers of the supervisor. The statement takes every state, also one whose list of pod hoops names an entry twice. -/

namespace Sys2Proof.Proofs

open Sys2Proof.Machine Sys2Proof.Claims Sys2Proof.Laws

/-- A registered pod hoop. -/
def podEntry : HoopInst := { hoop := 0, group := 0, scope := 4, expect := 1, arrived := 0, gen := 0, doneAt := 0 }

/-- Die 0 leads, and the list of pod hoops holds entry 0 twice. -/
def twiceListed : State :=
  { State.reset with hub := { State.reset.hub with holder := 0, remain := 1, podHoops := [(0, podEntry), (0, podEntry)] } }

theorem twiceListed_leader : Leader twiceListed 0 := ⟨rfl, by decide, by decide⟩

/-- A write of 0 takes out the first of the two, and the second is then found. -/
theorem twiceListed_podHoop :
    exec (.registerWrite 0 (.podHoop 0) 0) twiceListed = happens (podHoopWrite twiceListed 0 0) := by
  rw [exec_registerWrite]
  exact leaderWrite_of_leader (leaderReg · (.podHoop 0) 0) twiceListed_leader.1 twiceListed_leader.2.1 twiceListed_leader.2.2

theorem twiceListed_still_registered : tabGet 0 (podHoopWrite twiceListed 0 0).hub.podHoops = some podEntry := by decide

/-- Refutes O52: a PODHOOP write of 0 drops one entry of its number; in a state that lists the number twice it stays registered. -/
theorem not_supervisorRegistersAndKeys : ¬ Obligations.SupervisorRegistersAndKeys := by
  intro h
  obtain ⟨-, -, -, -, -, -, hpodHoop, -⟩ := h.2 twiceListed 0 0 0 0 twiceListed_leader
  obtain ⟨t, hexec, -, hgone, -⟩ := hpodHoop
  rw [twiceListed_podHoop] at hexec
  obtain rfl := Host.Outcome.next.inj hexec
  have hnone : tabGet 0 (podHoopWrite twiceListed 0 0).hub.podHoops = none := hgone
  rw [twiceListed_still_registered] at hnone
  exact absurd hnone (by simp)

end Sys2Proof.Proofs
end

section
/-! PROOFS. Queues that wait (R34, R228, R232), and O48. -/

namespace Sys2Proof.Proofs

open Sys2Proof.Machine Sys2Proof.Claims Sys2Proof.Laws

variable {s : State} {k type : Nat} {h : HwSlot} {p : BitVec 512} {f : HwSlot → BitVec 512 → Result}

/-- The packet at the head of a ready queue, of its TYPE and well formed, is acted on. -/
theorem atHead_of_packet (hp : PacketAt s k type h p) : atHead s k type f = f h p := by
  obtain ⟨hslot, hready, htype, hgood⟩ := hp
  simp [atHead, hslot, hready, htype, hgood]

theorem tabGet_setHwSlot (s : State) (k : Nat) (h : HwSlot) : tabGet k (s.setHwSlot k h).tamb.slots = some h :=
  (tabGet_tabSet _ _ _ _).trans (if_pos rfl)

/-- A change of the entries that keeps their numbers changes what stands under a number. -/
theorem tabGet_map {α : Type} (g : Nat × α → Nat × α) (hkeys : ∀ q, (g q).1 = q.1) {l : List (Nat × α)} {x : α} (hx : tabGet k l = some x) :
    tabGet k (l.map g) = some (g (k, x)).2 := by
  induction l with
  | nil => exact absurd hx (by simp [tabGet])
  | cons q l ih =>
    rw [List.map_cons, tabGet.eq_def]
    dsimp only
    rw [tabGet.eq_def] at hx
    dsimp only at hx
    rw [hkeys]
    split at hx
    case isTrue hq =>
      obtain rfl := Option.some.inj hx
      obtain rfl := hq
      exact if_pos rfl
    case isFalse hq => exact (if_neg hq).trans (ih hx)

/-- A slot once the gangs that reserve at one level have been settled. -/
def settledSlot (s : State) (p : Nat × HwSlot) : Nat × HwSlot :=
  if p.2.reserving && s.tamb.slots.any (fun q => q.1 != p.1 && q.2.reserving && q.2.eff == p.2.eff && reservesFirst q p) then
    (p.1, { p.2 with reserving := false })
  else p

theorem settleReserving_slots (s : State) : (settleReserving s).tamb.slots = s.tamb.slots.map (settledSlot s) := rfl

theorem settledSlot_fst (s : State) (p : Nat × HwSlot) : (settledSlot s p).1 = p.1 := by
  rw [settledSlot]
  split <;> rfl

/-- A settled slot keeps its reservation or loses it. -/
theorem settledSlot_snd (s : State) (p : Nat × HwSlot) : ∃ r, (settledSlot s p).2 = { p.2 with reserving := r } ∧ (r = true → p.2.reserving = true) := by
  rw [settledSlot]
  split
  · exact ⟨false, rfl, Bool.noConfusion⟩
  · exact ⟨p.2.reserving, rfl, id⟩

/-- A slot whose queue has risen one level. -/
def risen (h : HwSlot) : HwSlot := { h with eff := h.eff + 1, aging := 0 }

/-- Settles O48: each event finds its conditions and changes its slot; a level that settles its reservations only takes some back. -/
theorem waitingQueuesReserveAgeAndExpire : Obligations.WaitingQueuesReserveAgeAndExpire := by
  intro s k f h p
  refine ⟨fun hp hvalid hfree hwait hrivals => ?_, fun hslot haging heff => ?_, fun hslot hfault hheld hstill => ?_,
    fun hslot hfault hheld hover => ?_⟩
  · have hrival : (s.tamb.slots.any (fun p => p.1 != k && p.2.eff == h.eff &&
        (p.2.reserving || (p.2.valid.isSome && decide (2000 ≤ p.2.headWait) && reservesFirst p (k, h))))) = false := by
      rw [List.any_eq_false]
      intro x hx hbad
      simp only [Bool.and_eq_true, Bool.or_eq_true, bne_iff_ne, beq_iff_eq, decide_eq_true_eq] at hbad
      obtain ⟨⟨hne, hlevel⟩, hrivals'⟩ := hbad
      obtain ⟨hnot, hlater⟩ := hrivals x hx hne hlevel
      rcases hrivals' with hres | ⟨⟨hv, hw⟩, hfirst⟩
      · exact absurd hres (by rw [hnot]; exact Bool.noConfusion)
      · exact absurd hfirst (by rw [hlater hv hw]; exact Bool.noConfusion)
    have hexec : exec (.gangReserving k) s = .next { s.setHwSlot k { h with reserving := true } with verdict := .issued } := by
      rw [exec_gangReserving, execGangReserving, atHead_of_packet hp]
      refine if_neg ?_
      rw [hrival, hfree, Option.isNone_eq_false_iff.2 hvalid]
      simpa using hwait
    exact ⟨_, hexec, rfl, tabGet_setHwSlot _ _ _⟩
  · have hexec : exec (.priorityAging k) s = .next { settleReserving (s.setHwSlot k (risen h)) with verdict := .issued } := by
      rw [exec_priorityAging, execPriorityAging, hslot]
      exact if_neg (by omega)
    have hthere := tabGet_map (settledSlot (s.setHwSlot k (risen h))) (settledSlot_fst _) (tabGet_setHwSlot s k (risen h))
    obtain ⟨r, hr, hkept⟩ := settledSlot_snd (s.setHwSlot k (risen h)) (k, risen h)
    exact ⟨_, hexec, rfl, r, hthere.trans (congrArg some hr), hkept⟩
  · rw [Happens, exec_faultHoldExpiry, execFaultHoldExpiry, hslot]
    simp only [hfault]
    exact (if_neg (by omega)).trans (if_neg (by rw [hstill]; exact Bool.noConfusion))
  · rw [Happens, exec_faultHoldExpiry, execFaultHoldExpiry, hslot]
    simp only [hfault]
    exact (if_neg (by omega)).trans (if_pos hover)

end Sys2Proof.Proofs
end

section
/-! PROOFS. The state in which a placed task starts (R35, R36), and O49. -/

namespace Sys2Proof.Proofs

open Sys2Proof.Machine Sys2Proof.Claims Sys2Proof.Laws

variable {s : State} {g : Gang} {code : Memory} {streams : List W64} {ks : List W32} {drawn : Bool} {w : Seat}

/-- A cluster of a starting task, whose stream begins at `a`. -/
def startedCluster (s : State) (a : W64) : ClusterState :=
  { ClusterState.reset with active := a != 0, taskActive := a != 0, pc := a, ready := s.now + 1 }

theorem startCtx_cl (c : Cluster) : (startCtx s g code streams ks drawn w).cl.get c = startedCluster s (streams.getD (cnum c) 0) := by
  cases c <;> rfl

theorem startCtx_gpr_A (n : Nat) : (startCtx s g code streams ks drawn w).regs.gpr .A n =
    if n = 1 then pkArg g.packet else if n = 31 then BitVec.ofNat 64 (pkSp g.packet) else 0 := by
  show (if n = 0 then 0 else vget (vset (vset Regs.reset.a 1 (pkArg g.packet)) 31 (BitVec.ofNat 64 (pkSp g.packet))) n 0) = _
  rw [vget_vset _ _ _ (by decide), vget_vset _ _ _ (by decide), show vget Regs.reset.a n 0 = 0 from vget_replicate _]
  by_cases h0 : n = 0 <;> by_cases h1 : n = 1 <;> by_cases h31 : n = 31 <;> simp_all

/-- Settles O49: the starting context is written out field by field; its arrays are uniform but for a1 and a31. -/
theorem tasksStartInTheirInitialState : Obligations.TasksStartInTheirInitialState := by
  intro s g code streams ks drawn w x size
  have hcir : x.sr.cir = 0 := show BitVec.ofNat 64 (false.toNat + (0 : W16).toNat * 2 ^ 16) = 0 by decide
  refine ⟨fun n _ => startCtx_gpr_A n, fun n => ⟨vget_replicate _, vget_replicate _, vget_replicate _, vget_replicate _⟩, fun a => rfl, rfl, rfl, rfl,
    rfl, rfl, hcir, rfl, rfl, rfl, fun n => ?_, fun f => vget_replicate _, rfl, rfl, rfl, rfl, fun c => ?_⟩
  · have hbobbin : x.bobbin n = .reset := vget_replicate _
    rw [hbobbin]
    exact ⟨rfl, rfl⟩
  · rw [startCtx_cl]
    exact ⟨rfl, rfl, bne_iff_ne, rfl⟩

end Sys2Proof.Proofs
end

section
/-! PROOFS. The code of a stripe (R254, R270): arithmetic in GF(2^8), chunks byte by byte, the members that can be missing, and O56. -/

namespace Sys2Proof.Proofs

set_option Elab.async false

open Sys2Proof.Machine Sys2Proof.Claims

variable {g : GroupSlot} {o r t : Nat} {d : Nat → List Byte} {have' : List Nat}

/-! ## GF(2^8) -/

theorem gfMulBits_xor_right (a b b' k : Nat) : gfMulBits a (b ^^^ b') k = gfMulBits a b k ^^^ gfMulBits a b' k := by
  induction k generalizing a b b' with
  | zero => exact (Nat.xor_self 0).symm
  | succ k ih =>
    have hlow : (if (b ^^^ b') % 2 = 1 then a else 0) = (if b % 2 = 1 then a else 0) ^^^ (if b' % 2 = 1 then a else 0) := by
      rw [Nat.xor_mod_two_eq]
      rcases Nat.mod_two_eq_zero_or_one b with hb | hb <;> rcases Nat.mod_two_eq_zero_or_one b' with hb' | hb' <;>
        simp [hb, hb', Nat.add_mod]
    rw [gfMulBits, gfMulBits, gfMulBits, hlow, Nat.xor_div_two, ih]
    ac_rfl

theorem gfMul_xor_right (c x y : Byte) : gfMul c (x ^^^ y) = gfMul c x ^^^ gfMul c y := by
  rw [gfMul, BitVec.toNat_xor, gfMulBits_xor_right, BitVec.ofNat_xor]
  rfl

/-- A map of bytes that keeps sums. -/
def Additive (f : Byte → Byte) : Prop := ∀ x y, f (x ^^^ y) = f x ^^^ f y

theorem gfMul_additive (c : Byte) : Additive (gfMul c) := gfMul_xor_right c

theorem Additive.comp {f f' : Byte → Byte} (hf : Additive f) (hf' : Additive f') : Additive (fun x => f (f' x)) := fun x y =>
  (congrArg f (hf' x y)).trans (hf _ _)

theorem Additive.map_zero {f : Byte → Byte} (hf : Additive f) : f 0 = 0 := by
  have h := hf 0 0
  rwa [BitVec.xor_self, BitVec.xor_self] at h

/-- A byte's bit `k`, in its place. -/
def bitPart (x : Byte) (k : Nat) : Byte := if x.getLsbD k then BitVec.ofNat 8 (2 ^ k) else 0

theorem eq_xor_bitParts : ∀ x : Byte, x = bitPart x 0 ^^^ bitPart x 1 ^^^ bitPart x 2 ^^^ bitPart x 3 ^^^ bitPart x 4 ^^^ bitPart x 5 ^^^
    bitPart x 6 ^^^ bitPart x 7 := by decide +kernel

/-- Two such maps are the same when they are so on the eight bytes of one bit. -/
theorem Additive.ext {f f' : Byte → Byte} (hf : Additive f) (hf' : Additive f')
    (hbits : ∀ k < 8, f (BitVec.ofNat 8 (2 ^ k)) = f' (BitVec.ofNat 8 (2 ^ k))) (x : Byte) : f x = f' x := by
  have hpart : ∀ k < 8, f (bitPart x k) = f' (bitPart x k) := fun k hk => by
    rw [bitPart]
    split
    · exact hbits k hk
    · rw [hf.map_zero, hf'.map_zero]
  rw [eq_xor_bitParts x]
  simp only [hf _ _, hf' _ _]
  rw [hpart 0 (by decide), hpart 1 (by decide), hpart 2 (by decide), hpart 3 (by decide), hpart 4 (by decide), hpart 5 (by decide),
    hpart 6 (by decide), hpart 7 (by decide)]

/-- Twice a byte. -/
def doubled (a : Byte) : Byte := (a <<< 1) ^^^ (if a.getLsbD 7 then 0x1D else 0)

theorem doubled_additive : Additive doubled := fun x y => by
  have htop : (if (x ^^^ y).getLsbD 7 then 0x1D else 0 : Byte) = (if x.getLsbD 7 then 0x1D else 0) ^^^ (if y.getLsbD 7 then 0x1D else 0) := by
    rw [BitVec.getLsbD_xor]
    cases x.getLsbD 7 <;> cases y.getLsbD 7 <;> rfl
  rw [doubled, htop, BitVec.shiftLeft_xor_distrib, doubled, doubled]
  ac_rfl

theorem gfMul_bit_succ : ∀ (a : Byte), ∀ k < 7, gfMul a (BitVec.ofNat 8 (2 ^ (k + 1))) = doubled (gfMul a (BitVec.ofNat 8 (2 ^ k))) := by
  decide +kernel

theorem doubled_bit : ∀ k < 7, doubled (BitVec.ofNat 8 (2 ^ k)) = BitVec.ofNat 8 (2 ^ (k + 1)) := by decide

theorem gfMul_doubled_top : ∀ a : Byte, gfMul a (doubled (BitVec.ofNat 8 (2 ^ 7))) = doubled (gfMul a (BitVec.ofNat 8 (2 ^ 7))) := by
  decide +kernel

theorem gfMul_doubled_bit (a : Byte) (k : Nat) (hk : k < 8) :
    gfMul a (doubled (BitVec.ofNat 8 (2 ^ k))) = doubled (gfMul a (BitVec.ofNat 8 (2 ^ k))) := by
  rcases Nat.lt_or_ge k 7 with hlow | htop
  · rw [doubled_bit k hlow, gfMul_bit_succ a k hlow]
  · obtain rfl : k = 7 := by omega
    exact gfMul_doubled_top a

theorem gfMul_one_right : ∀ a : Byte, gfMul a 1 = a := by decide +kernel

theorem gfMul_one_left (x : Byte) : gfMul 1 x = x :=
  Additive.ext (f' := id) (gfMul_additive 1) (fun _ _ => rfl) (by decide) x

theorem gfMul_doubled (a x : Byte) : gfMul a (doubled x) = doubled (gfMul a x) :=
  Additive.ext ((gfMul_additive a).comp doubled_additive) (doubled_additive.comp (gfMul_additive a)) (gfMul_doubled_bit a) x

/-- What holds of one and of a double with its half holds of the bytes of one bit. -/
theorem bit_induction {P : Byte → Prop} (hone : P 1) (hdouble : ∀ k < 7, P (BitVec.ofNat 8 (2 ^ k)) → P (BitVec.ofNat 8 (2 ^ (k + 1)))) :
    ∀ k < 8, P (BitVec.ofNat 8 (2 ^ k)) := by
  intro k
  induction k with
  | zero => exact fun _ => hone
  | succ k ih => exact fun hk => hdouble k (by omega) (ih (by omega))

theorem gfMul_xor_left (a b x : Byte) : gfMul (a ^^^ b) x = gfMul a x ^^^ gfMul b x := by
  have hsum : Additive (fun x => gfMul a x ^^^ gfMul b x) := fun x y => by
    dsimp only
    rw [gfMul_xor_right, gfMul_xor_right]
    ac_rfl
  refine Additive.ext (gfMul_additive (a ^^^ b)) hsum
    (bit_induction (P := fun y => gfMul (a ^^^ b) y = gfMul a y ^^^ gfMul b y) ?_ fun k hk ih => ?_) x
  · simp only [gfMul_one_right]
  · rw [gfMul_bit_succ _ k hk, gfMul_bit_succ _ k hk, gfMul_bit_succ _ k hk, ih, doubled_additive]

theorem gfMul_assoc (a b x : Byte) : gfMul a (gfMul b x) = gfMul (gfMul a b) x := by
  refine Additive.ext ((gfMul_additive a).comp (gfMul_additive b)) (gfMul_additive _)
    (bit_induction (P := fun y => gfMul a (gfMul b y) = gfMul (gfMul a b) y) ?_ fun k hk ih => ?_) x
  · rw [gfMul_one_right, gfMul_one_right]
  · rw [gfMul_bit_succ _ k hk, gfMul_bit_succ _ k hk, gfMul_doubled, ih]

theorem gfPow_add (x : Byte) (m n : Nat) : gfPow x (m + n) = gfMul (gfPow x m) (gfPow x n) := by
  induction m with
  | zero => rw [Nat.zero_add, gfPow, gfMul_one_left]
  | succ m ih => rw [Nat.add_right_comm, gfPow, ih, gfPow, gfMul_assoc]

/-- The order of the group: the power 255, by powers of which each is a product of two earlier ones. -/
theorem gfMul_chain_eq_one : ∀ x : Byte, x ≠ 0 →
    let x2 := gfMul x x
    let x3 := gfMul x2 x
    let x6 := gfMul x3 x3
    let x12 := gfMul x6 x6
    let x15 := gfMul x12 x3
    let x30 := gfMul x15 x15
    let x60 := gfMul x30 x30
    let x120 := gfMul x60 x60
    let x240 := gfMul x120 x120
    gfMul x240 x15 = 1 := by decide +kernel

theorem gfPow_255 (x : Byte) (hx : x ≠ 0) : gfPow x 255 = 1 := by
  have h1 : gfPow x 1 = x := gfMul_one_right x
  rw [← gfMul_chain_eq_one x hx, gfPow_add x 240 15, gfPow_add x 120 120, gfPow_add x 60 60, gfPow_add x 30 30, gfPow_add x 15 15,
    gfPow_add x 12 3, gfPow_add x 6 6, gfPow_add x 3 3, gfPow_add x 2 1, gfPow_add x 1 1, h1]

theorem gfInv_mul (c : Byte) (hc : c ≠ 0) : gfMul (gfInv c) c = 1 := by
  have h1 : gfPow c 1 = c := gfMul_one_right c
  calc gfMul (gfInv c) c = gfMul (gfPow c 254) (gfPow c 1) := by rw [h1, gfInv]
    _ = 1 := by rw [← gfPow_add, gfPow_255 c hc]

/-- A product is undone by the inverse of its factor. -/
theorem gfMul_gfInv_cancel {c : Byte} (hc : c ≠ 0) (x : Byte) : gfMul (gfInv c) (gfMul c x) = x := by
  rw [gfMul_assoc, gfInv_mul c hc, gfMul_one_left]

theorem gfPow2_ne_zero : ∀ j < 16, gfPow2 j ≠ 0 := by decide

theorem gfPow2_xor_ne_zero : ∀ a < 16, ∀ b < 16, a ≠ b → gfPow2 a ^^^ gfPow2 b ≠ 0 := by decide +kernel

/-! ## Chunks byte by byte -/

def byteAt (c : List Byte) (t : Nat) : Byte := c.getD t 0

theorem chunk_ext {a b : List Byte} (ha : a.length = 64) (hb : b.length = 64) (h : ∀ t, byteAt a t = byteAt b t) : a = b := by
  refine List.ext_getElem (ha.trans hb.symm) fun t hta htb => ?_
  have ht := h t
  rwa [byteAt, byteAt, List.getD_eq_getElem _ _ hta, List.getD_eq_getElem _ _ htb] at ht

theorem length_xorChunk {a b : List Byte} (ha : a.length = 64) (hb : b.length = 64) : (xorChunk a b).length = 64 := by
  simp [xorChunk, ha, hb]

theorem byteAt_of_length_le {c : List Byte} (h : c.length ≤ t) : byteAt c t = 0 := by
  rw [byteAt, List.getD_eq_getElem?_getD, List.getElem?_eq_none h]
  rfl

theorem byteAt_xorChunk {a b : List Byte} (h : a.length = b.length) (t : Nat) : byteAt (xorChunk a b) t = byteAt a t ^^^ byteAt b t := by
  by_cases ht : t < a.length
  · have htb : t < b.length := h ▸ ht
    simp [byteAt, xorChunk, List.getD_eq_getElem?_getD, ht, htb]
  · have hlength : (xorChunk a b).length = a.length := by simp [xorChunk, h]
    rw [byteAt_of_length_le (by omega), byteAt_of_length_le (c := a) (by omega), byteAt_of_length_le (c := b) (by omega)]
    rfl

theorem length_scaleChunk (c : Byte) {a : List Byte} (ha : a.length = 64) : (scaleChunk c a).length = 64 := by simp [scaleChunk, ha]

theorem byteAt_scaleChunk (c : Byte) (a : List Byte) (t : Nat) : byteAt (scaleChunk c a) t = gfMul c (byteAt a t) := by
  have hzero : gfMul c 0 = 0 := (gfMul_additive c).map_zero
  rw [byteAt, byteAt, List.getD_eq_getElem?_getD, List.getD_eq_getElem?_getD, scaleChunk, List.getElem?_map]
  cases a[t]? with
  | none => exact hzero.symm
  | some b => rfl

theorem length_zeroChunk : zeroChunk.length = 64 := rfl

theorem byteAt_zeroChunk (t : Nat) : byteAt zeroChunk t = 0 := by
  rw [byteAt, zeroChunk, List.getD_eq_getElem?_getD, List.getElem?_replicate]
  split <;> rfl

/-- The sum of some bytes. -/
def xorSum (l : List Byte) : Byte := l.foldr (· ^^^ ·) 0

theorem xorSum_filter (w : Nat → Byte) (p : Nat → Bool) (l : List Nat) :
    xorSum (l.map w) = xorSum ((l.filter p).map w) ^^^ xorSum ((l.filter (fun j => !p j)).map w) := by
  induction l with
  | nil => exact (BitVec.xor_self).symm
  | cons j l ih =>
    have hstep : xorSum ((j :: l).map w) = w j ^^^ xorSum (l.map w) := rfl
    rw [hstep, ih]
    cases hp : p j
    · have hrest : xorSum (((j :: l).filter (fun j => !p j)).map w) = w j ^^^ xorSum ((l.filter (fun j => !p j)).map w) := by
        simp [hp, xorSum]
      rw [hrest, List.filter_cons_of_neg (by simp [hp])]
      ac_rfl
    · have hfirst : xorSum (((j :: l).filter p).map w) = w j ^^^ xorSum ((l.filter p).map w) := by simp [hp, xorSum]
      rw [hfirst, List.filter_cons_of_neg (p := fun j => !p j) (by simp [hp])]
      ac_rfl

/-- Chunks added up: their lengths, and their bytes. -/
theorem foldl_xorChunk (f : Nat → List Byte) (hf : ∀ j, (f j).length = 64) (l : List Nat) (z : List Byte) (hz : z.length = 64) :
    (l.foldl (fun a j => xorChunk a (f j)) z).length = 64 ∧
    ∀ t, byteAt (l.foldl (fun a j => xorChunk a (f j)) z) t = byteAt z t ^^^ xorSum (l.map (fun j => byteAt (f j) t)) := by
  induction l generalizing z with
  | nil => exact ⟨hz, fun t => (BitVec.xor_zero).symm⟩
  | cons j l ih =>
    obtain ⟨hlength, hbytes⟩ := ih (xorChunk z (f j)) (length_xorChunk hz (hf j))
    refine ⟨hlength, fun t => ?_⟩
    rw [List.foldl_cons, hbytes, byteAt_xorChunk (hz.trans (hf j).symm)]
    exact BitVec.xor_assoc _ _ _

/-! ## The members of a stripe -/

/-- The place of a member in its stripe. -/
def stripePlace (g : GroupSlot) (o j : Nat) : Nat := (o % g.n + j) % g.n

theorem slotKind_eq_none_iff (j : Nat) : slotKind g j o = none ↔ stripePlace g o j < g.k := by
  unfold slotKind
  dsimp only
  split <;> simp_all [stripePlace]

theorem stripePlace_inj {i j : Nat} (hi : i < g.n) (hj : j < g.n) (h : stripePlace g o i = stripePlace g o j) : i = j :=
  Nat.ModEq.eq_of_lt_of_lt (Nat.ModEq.add_left_cancel' (o % g.n) h) hi hj

theorem stripePlace_holderOf (hr : r < g.m) : stripePlace g o (holderOf g o r) = g.k + r := by
  have hn : g.k + r < g.n := Nat.add_lt_add_left hr g.k
  have hrot : o % g.n < g.n := Nat.mod_lt _ (by omega)
  rw [stripePlace, holderOf, Nat.add_mod_mod, show o % g.n + (g.k + r + (g.n - o % g.n)) = g.k + r + g.n by omega, Nat.add_mod_right,
    Nat.mod_eq_of_lt hn]

theorem holderOf_lt (hr : r < g.m) : holderOf g o r < g.n := Nat.mod_lt _ (by have : g.n = g.k + g.m := rfl; omega)

theorem slotKind_holderOf (hr : r < g.m) : slotKind g (holderOf g o r) o = some r := by
  have hplace := stripePlace_holderOf (g := g) (o := o) hr
  unfold stripePlace at hplace
  unfold slotKind
  rw [hplace]
  simp

/-- A member that holds no data holds the parity row of its place. -/
theorem holderOf_of_kind {j : Nat} (hj : j < g.n) (hkind : slotKind g j o ≠ none) : ∃ r < g.m, j = holderOf g o r := by
  have hplace : g.k ≤ stripePlace g o j := Nat.not_lt.1 fun h => hkind ((slotKind_eq_none_iff j).2 h)
  have hlt : stripePlace g o j < g.k + g.m := Nat.mod_lt _ (by have : g.n = g.k + g.m := rfl; omega)
  refine ⟨stripePlace g o j - g.k, by omega, stripePlace_inj (o := o) hj (holderOf_lt (by omega)) ?_⟩
  rw [stripePlace_holderOf (by omega)]
  omega

theorem mem_dataMembers {j : Nat} : j ∈ dataMembers g o ↔ j < g.n ∧ slotKind g j o = none := by
  simp [dataMembers, List.mem_filter]

theorem dataMembers_nodup : (dataMembers g o).Nodup := List.nodup_range.filter _

/-- The data members that are missing, and the others that are there. -/
def missingData (g : GroupSlot) (o : Nat) (have' : List Nat) : List Nat := (dataMembers g o).filter (fun j => !have'.contains j)

def presentParity (g : GroupSlot) (o : Nat) (have' : List Nat) : Finset Nat := have'.toFinset \ (dataMembers g o).toFinset

theorem card_dataMembers_le : (dataMembers g o).toFinset.card ≤ g.k := by
  rw [← Finset.card_range g.k]
  refine Finset.card_le_card_of_injOn (stripePlace g o) (fun j hj => ?_) (fun i hi j hj h => ?_)
  · obtain ⟨-, hkind⟩ := mem_dataMembers.1 (List.mem_toFinset.1 hj)
    simpa using (slotKind_eq_none_iff j).1 hkind
  · exact stripePlace_inj (mem_dataMembers.1 (List.mem_toFinset.1 hi)).1 (mem_dataMembers.1 (List.mem_toFinset.1 hj)).1 h

/-- Of at least k members that are there, as many hold parity as data members are missing. -/
theorem length_missingData_le (hnodup : have'.Nodup) (hcount : g.k ≤ have'.length) :
    (missingData g o have').length ≤ (presentParity g o have').card := by
  have hmissing : (missingData g o have').length = ((dataMembers g o).toFinset \ have'.toFinset).card := by
    rw [missingData, ← List.toFinset_card_of_nodup (dataMembers_nodup.filter _)]
    congr 1
    ext j
    simp
  have hhave : have'.toFinset.card = have'.length := List.toFinset_card_of_nodup hnodup
  have hdata := card_dataMembers_le (g := g) (o := o)
  have h1 := Finset.card_sdiff_add_card_inter (dataMembers g o).toFinset have'.toFinset
  have h2 := Finset.card_sdiff_add_card_inter have'.toFinset (dataMembers g o).toFinset
  rw [Finset.inter_comm] at h2
  rw [hmissing, presentParity]
  omega

theorem presentParity_subset (hmembers : ∀ j ∈ have', j < g.n) : presentParity g o have' ⊆ (Finset.range g.m).image (holderOf g o) := by
  intro j hj
  obtain ⟨hhave, hdata⟩ := Finset.mem_sdiff.1 hj
  have hlt := hmembers j (List.mem_toFinset.1 hhave)
  obtain ⟨r, hr, rfl⟩ := holderOf_of_kind hlt fun hkind => hdata (List.mem_toFinset.2 (mem_dataMembers.2 ⟨hlt, hkind⟩))
  exact Finset.mem_image_of_mem _ (Finset.mem_range.2 hr)

theorem card_presentParity_le (hmembers : ∀ j ∈ have', j < g.n) : (presentParity g o have').card ≤ g.m :=
  (Finset.card_le_card (presentParity_subset hmembers)).trans (Finset.card_image_le.trans (Finset.card_range _).le)

/-- When every parity row is there, each holder is. -/
theorem holderOf_mem_of_all (hmembers : ∀ j ∈ have', j < g.n) (hall : g.m ≤ (presentParity g o have').card) (hr : r < g.m) :
    holderOf g o r ∈ have' := by
  have hcard : ((Finset.range g.m).image (holderOf g o)).card ≤ (presentParity g o have').card :=
    (Finset.card_image_le.trans (Finset.card_range _).le).trans hall
  have heq := Finset.eq_of_subset_of_card_le (presentParity_subset hmembers) hcard
  have hmem : holderOf g o r ∈ presentParity g o have' := heq ▸ Finset.mem_image_of_mem _ (Finset.mem_range.2 hr)
  exact List.mem_toFinset.1 (Finset.mem_sdiff.1 hmem).1

/-! ## Decoding -/

/-- The chunk of a member. -/
def chunkOf (g : GroupSlot) (o : Nat) (d : Nat → List Byte) (j : Nat) : List Byte :=
  match slotKind g j o with
  | none => d j
  | some r => parityRow g o r d

/-- A data chunk as a parity row takes it. -/
def weighted (d : Nat → List Byte) (r j : Nat) : List Byte := if r = 0 then d j else scaleChunk (gfPow2 j) (d j)

/-- What a parity row is once the data chunks that are there have been taken out of it. -/
def residue (g : GroupSlot) (o : Nat) (d : Nat → List Byte) (have' : List Nat) (r : Nat) : List Byte :=
  ((dataMembers g o).filter (fun j => have'.contains j)).foldl (fun a j => xorChunk a (weighted d r j)) (parityRow g o r d)

section Decode

variable (hd : ∀ j, (d j).length = 64)

include hd

theorem length_weighted (r j : Nat) : (weighted d r j).length = 64 := by
  unfold weighted
  split
  · exact hd j
  · exact length_scaleChunk _ (hd j)

theorem length_parityRow (r : Nat) : (parityRow g o r d).length = 64 :=
  (foldl_xorChunk (weighted d r) (length_weighted hd r) _ _ length_zeroChunk).1

theorem byteAt_parityRow (r t : Nat) : byteAt (parityRow g o r d) t = xorSum ((dataMembers g o).map (fun j => byteAt (weighted d r j) t)) := by
  have h := (foldl_xorChunk (weighted d r) (length_weighted hd r) (dataMembers g o) _ length_zeroChunk).2 t
  rw [byteAt_zeroChunk] at h
  exact h.trans BitVec.zero_xor

theorem length_residue (r : Nat) : (residue g o d have' r).length = 64 :=
  (foldl_xorChunk (weighted d r) (length_weighted hd r) _ _ (length_parityRow hd r)).1

/-- What is left of a parity row is the sum of the missing chunks. -/
theorem byteAt_residue (r t : Nat) :
    byteAt (residue g o d have' r) t = xorSum ((missingData g o have').map (fun j => byteAt (weighted d r j) t)) := by
  have hsplit := xorSum_filter (fun j => byteAt (weighted d r j) t) (fun j => have'.contains j) (dataMembers g o)
  rw [residue, (foldl_xorChunk (weighted d r) (length_weighted hd r) _ _ (length_parityRow hd r)).2, byteAt_parityRow hd, hsplit, missingData,
    BitVec.xor_comm, ← BitVec.xor_assoc, BitVec.xor_self, BitVec.zero_xor]

/-- One missing chunk is what is left of the plain row. -/
theorem eq_residue_of_one {i : Nat} (hone : missingData g o have' = [i]) : residue g o d have' 0 = d i := by
  refine chunk_ext (length_residue hd 0) (hd i) fun t => ?_
  rw [byteAt_residue hd, hone]
  exact BitVec.xor_zero

/-- Or what is left of the weighted row, with its weight undone. -/
theorem eq_scaled_residue_of_one {i : Nat} (hi : i < 16) (hone : missingData g o have' = [i]) :
    scaleChunk (gfInv (gfPow2 i)) (residue g o d have' 1) = d i := by
  refine chunk_ext (length_scaleChunk _ (length_residue hd 1)) (hd i) fun t => ?_
  have hleft : byteAt (residue g o d have' 1) t = gfMul (gfPow2 i) (byteAt (d i) t) := by
    rw [byteAt_residue hd, hone, ← byteAt_scaleChunk]
    exact BitVec.xor_zero
  rw [byteAt_scaleChunk, hleft, gfMul_gfInv_cancel (gfPow2_ne_zero i hi)]

/-- The first of two missing chunks, from both rows. -/
def firstOfTwo (g : GroupSlot) (o : Nat) (d : Nat → List Byte) (have' : List Nat) (a b : Nat) : List Byte :=
  scaleChunk (gfInv (gfPow2 a ^^^ gfPow2 b)) (xorChunk (residue g o d have' 1) (scaleChunk (gfPow2 b) (residue g o d have' 0)))

theorem byteAt_residues_of_two {a b : Nat} (htwo : missingData g o have' = [a, b]) (t : Nat) :
    byteAt (residue g o d have' 0) t = byteAt (d a) t ^^^ byteAt (d b) t ∧
    byteAt (residue g o d have' 1) t = gfMul (gfPow2 a) (byteAt (d a) t) ^^^ gfMul (gfPow2 b) (byteAt (d b) t) := by
  rw [byteAt_residue hd, byteAt_residue hd, htwo, ← byteAt_scaleChunk, ← byteAt_scaleChunk]
  exact ⟨congrArg _ BitVec.xor_zero, congrArg _ BitVec.xor_zero⟩

theorem firstOfTwo_eq {a b : Nat} (ha : a < 16) (hb : b < 16) (hne : a ≠ b) (htwo : missingData g o have' = [a, b]) :
    firstOfTwo g o d have' a b = d a := by
  have hlength : (xorChunk (residue g o d have' 1) (scaleChunk (gfPow2 b) (residue g o d have' 0))).length = 64 :=
    length_xorChunk (length_residue hd 1) (length_scaleChunk _ (length_residue hd 0))
  refine chunk_ext (length_scaleChunk _ hlength) (hd a) fun t => ?_
  obtain ⟨hplain, hweighted⟩ := byteAt_residues_of_two hd htwo t
  have hsum : gfMul (gfPow2 a) (byteAt (d a) t) ^^^ gfMul (gfPow2 b) (byteAt (d b) t) ^^^
      gfMul (gfPow2 b) (byteAt (d a) t ^^^ byteAt (d b) t) = gfMul (gfPow2 a ^^^ gfPow2 b) (byteAt (d a) t) := by
    rw [gfMul_xor_right, gfMul_xor_left, BitVec.xor_comm (gfMul (gfPow2 b) (byteAt (d a) t)), ← BitVec.xor_assoc, BitVec.xor_assoc (gfMul (gfPow2 a) _),
      BitVec.xor_self, BitVec.xor_zero]
  rw [firstOfTwo, byteAt_scaleChunk, byteAt_xorChunk ((length_residue hd 1).trans (length_scaleChunk _ (length_residue hd 0)).symm),
    byteAt_scaleChunk, hplain, hweighted, hsum, gfMul_gfInv_cancel (gfPow2_xor_ne_zero a ha b hb hne)]

theorem secondOfTwo_eq {a b : Nat} (ha : a < 16) (hb : b < 16) (hne : a ≠ b) (htwo : missingData g o have' = [a, b]) :
    xorChunk (residue g o d have' 0) (firstOfTwo g o d have' a b) = d b := by
  rw [firstOfTwo_eq hd ha hb hne htwo]
  refine chunk_ext (length_xorChunk (length_residue hd 0) (hd a)) (hd b) fun t => ?_
  rw [byteAt_xorChunk ((length_residue hd 0).trans (hd a).symm), (byteAt_residues_of_two hd htwo t).1, BitVec.xor_comm, ← BitVec.xor_assoc,
    BitVec.xor_self, BitVec.zero_xor]

end Decode

/-- The share of a member that is there. -/
theorem find?_share (f : Nat → List Byte) (l : List Nat) (j : Nat) :
    ((l.map (fun q => (q, f q))).find? (fun x => x.1 == j)).map (·.2) = if l.contains j then some (f j) else none := by
  induction l with
  | nil => rfl
  | cons q l ih =>
    by_cases hq : q = j
    · subst hq
      simp
    · have hne : ¬ j = q := fun h => hq h.symm
      simpa [hq, hne] using ih

/-- Decoding (R270), from the missing data members and what is left of the two rows. -/
def solveStripe (missing : List Nat) (s0 s1 : Option (List Byte)) (i : Nat) : List Byte :=
  match missing, s0, s1 with
  | [_], some c, _ => c
  | [j], none, some c => scaleChunk (gfInv (gfPow2 j)) c
  | [a, b], some c0, some c1 =>
    let da := scaleChunk (gfInv (gfPow2 a ^^^ gfPow2 b)) (xorChunk c1 (scaleChunk (gfPow2 b) c0))
    if i = a then da else xorChunk c0 da
  | _, _, _ => zeroChunk

/-- What is left of a row that some member holds, if the member is there. -/
def leftOf (g : GroupSlot) (o : Nat) (d : Nat → List Byte) (have' : List Nat) (r : Nat) : Option (List Byte) :=
  if have'.contains (holderOf g o r) then some (((dataMembers g o).filter (fun j => have'.contains j)).foldl
    (fun a j => xorChunk a (weighted d r j)) (chunkOf g o d (holderOf g o r))) else none

theorem leftOf_of_mem (hr : r < g.m) (h : holderOf g o r ∈ have') : leftOf g o d have' r = some (residue g o d have' r) := by
  rw [leftOf, List.contains_iff_mem.2 h, chunkOf, slotKind_holderOf hr]
  rfl

theorem leftOf_of_not_mem (h : holderOf g o r ∉ have') : leftOf g o d have' r = none :=
  if_neg fun hin => h (List.contains_iff_mem.1 hin)

/-- The data chunks that are there, as the decoder lists them. -/
theorem present_eq (l : List Nat) (hl : ∀ j ∈ l, slotKind g j o = none) :
    l.filterMap (fun j => (if have'.contains j then some (chunkOf g o d j) else none).map (fun c => (j, c))) =
      (l.filter (fun j => have'.contains j)).map (fun j => (j, d j)) := by
  induction l with
  | nil => rfl
  | cons j l ih =>
    have hj : chunkOf g o d j = d j := by rw [chunkOf, hl j List.mem_cons_self]
    have hrest := ih fun q hq => hl q (List.mem_cons_of_mem _ hq)
    cases hin : have'.contains j
    · rw [List.filterMap_cons_none (by rw [hin]; rfl), List.filter_cons_of_neg (by rw [hin]; exact Bool.noConfusion), hrest]
    · rw [List.filterMap_cons_some (b := (j, d j)) (by rw [hin, hj]; rfl), List.filter_cons_of_pos hin, hrest, List.map_cons]

theorem decodeStripe_of_missing {i : Nat} (hi : have'.contains i = false) :
    decodeStripe g o (have'.map (fun q => (q, chunkOf g o d q))) i =
      solveStripe (missingData g o have') (leftOf g o d have' 0) (leftOf g o d have' 1) i := by
  have hpresent := present_eq (d := d) (have' := have') (dataMembers g o) fun j hj => (mem_dataMembers.1 hj).2
  have hmissing : (dataMembers g o).filter (fun j => (if have'.contains j then some (chunkOf g o d j) else none).isNone) =
      missingData g o have' := List.filter_congr fun j _ => by cases have'.contains j <;> rfl
  have hleft : ∀ r, (if have'.contains (holderOf g o r) then some (chunkOf g o d (holderOf g o r)) else none).map (fun p =>
      ((dataMembers g o).filter (fun j => have'.contains j)).foldl (fun a j => xorChunk a (weighted d r j)) p) = leftOf g o d have' r := fun r => by
    rw [leftOf]
    split <;> rfl
  unfold decodeStripe
  simp only [find?_share, hi, Bool.false_eq_true, if_false, hpresent, hmissing, List.foldl_map]
  rw [← hleft 0, ← hleft 1]
  rfl

/-- Settles O56: with k members there, no more data members are missing than parity rows are there, and these rows give them back. -/
theorem anyKChunksGiveBackTheStripe : Obligations.AnyKChunksGiveBackTheStripe := by
  intro g o d have' hk2 hk14 hm1 hm2 hd hnodup hmembers hcount chunk i hi
  show decodeStripe g o (have'.map (fun q => (q, chunkOf g o d q))) i = d i
  obtain ⟨hin, hkind⟩ := mem_dataMembers.1 hi
  have hlt : ∀ j ∈ dataMembers g o, j < 16 := fun j hj => by
    have := (mem_dataMembers.1 hj).1
    have : g.n = g.k + g.m := rfl
    omega
  cases hthere : have'.contains i
  case true =>
    have hshare := find?_share (chunkOf g o d) have' i
    rw [hthere, if_pos rfl, chunkOf, hkind] at hshare
    unfold decodeStripe
    dsimp only
    rw [hshare]
  case false =>
    have himiss : i ∈ missingData g o have' := List.mem_filter.2 ⟨hi, by rw [hthere]; rfl⟩
    have hle := length_missingData_le (g := g) (o := o) hnodup hcount
    have hcard := card_presentParity_le (o := o) hmembers
    have hmisslt : ∀ j ∈ missingData g o have', j < 16 := fun j hj => hlt j (List.mem_filter.1 hj).1
    have hmissnodup : (missingData g o have').Nodup := dataMembers_nodup.filter _
    rw [decodeStripe_of_missing hthere]
    match hmissing : missingData g o have' with
    | [] => rw [hmissing] at himiss; exact absurd himiss (by simp)
    | [a] =>
      obtain rfl : i = a := by simpa [hmissing] using himiss
      rw [hmissing] at hle
      by_cases hplain : holderOf g o 0 ∈ have'
      · rw [leftOf_of_mem (by omega) hplain]
        exact eq_residue_of_one hd hmissing
      · obtain ⟨j, hj⟩ := Finset.card_pos.1 (show 0 < (presentParity g o have').card from hle)
        obtain ⟨r, hr, rfl⟩ := Finset.mem_image.1 (presentParity_subset hmembers hj)
        have hrow : holderOf g o r ∈ have' := List.mem_toFinset.1 (Finset.mem_sdiff.1 hj).1
        have hrm : r < g.m := Finset.mem_range.1 hr
        obtain rfl : r = 1 := by
          rcases Nat.eq_zero_or_pos r with rfl | hpos
          · exact absurd hrow hplain
          · omega
        rw [leftOf_of_not_mem hplain, leftOf_of_mem hrm hrow]
        exact eq_scaled_residue_of_one hd (hlt i hi) hmissing
    | [a, b] =>
      rw [hmissing] at hle himiss hmisslt hmissnodup
      have hall : g.m ≤ (presentParity g o have').card := hm2.trans hle
      have hrows : 2 ≤ g.m := hle.trans hcard
      have hne : a ≠ b := by simpa using hmissnodup
      have ha : a < 16 := hmisslt a (by simp)
      have hb : b < 16 := hmisslt b (by simp)
      rw [leftOf_of_mem (by omega) (holderOf_mem_of_all hmembers hall (by omega)),
        leftOf_of_mem (by omega) (holderOf_mem_of_all hmembers hall (by omega))]
      rcases List.mem_pair.1 himiss with rfl | rfl
      · exact (if_pos rfl).trans (firstOfTwo_eq hd ha hb hne hmissing)
      · exact (if_neg hne.symm).trans (secondOfTwo_eq hd ha hb hne hmissing)
    | a :: b :: c :: l =>
      rw [hmissing, List.length_cons, List.length_cons, List.length_cons] at hle
      omega

end Sys2Proof.Proofs
end

section
/-! PROOFS. O54: group messages. The statement takes every state, also one whose slot has more members than a group can have (R252). -/

namespace Sys2Proof.Proofs

set_option Elab.async false

open Sys2Proof.Machine Sys2Proof.Claims Sys2Proof.Laws

/-- A forming slot with 17 entries, of which the registers number 16. -/
def crowdedSlot : GroupSlot := { GroupSlot.reset with state := .forming, k := 17 }

def crowdedState : State :=
  { State.reset with groups := vset State.reset.groups 0 crowdedSlot, power := { State.reset.power with gate := true, links := [(0, true)] } }

/-- The JOIN of another configuration. -/
def otherJoin : JoinInfo :=
  { k := 0, m := 0, rcnt := 0, members := [], round := 0, commit := none, ready := false, entering := false, answer := false, pkg := 0 }

/-- That JOIN, as the second message of the entry beyond the registers. -/
def lateJoin : GroupMsg :=
  { sender := 16, gid := 0, round := 0, seq := 1, stripe := 0, row := 0, payload := 0, member := 0, held := false, join := some otherJoin }

theorem lateJoin_heard : Heard crowdedState 0 lateJoin true := by
  refine ⟨rfl, by decide, by decide, by decide, by decide, by decide, by decide, .inr ⟨rfl, by decide⟩⟩

/-- The state of slot 0 in what a step answers. -/
def slotState (r : Result) : Option GrpState :=
  match r with
  | .next t => some (t.group 0).state
  | _ => none

/-- The message waits for a turn that no register counts, and the slot goes on forming. -/
theorem lateJoin_waits : slotState (exec (.join lateJoin) crowdedState) = some .forming := by decide +kernel

theorem lateJoin_would_end_forming :
    slotState (.next { joinForming (heard crowdedState 0 lateJoin) 0 lateJoin otherJoin with verdict := .issued }) = some .idle := by decide +kernel

/-- Refutes O54: a JOIN of an entry beyond the sixteen registers is not received in its turn, so a slot in FORMING does not act on it. -/
theorem not_groupMessagesAreHandled : ¬ Obligations.GroupMessagesAreHandled := by
  intro h
  obtain ⟨-, -, -, -, -, -, -, -, -, -, -, -, -, -, -, -, -, -, -, -, hjoin, -⟩ := h crowdedState 0 0 lateJoin otherJoin (.heartbeat lateJoin)
  have hexec : exec (.join lateJoin) crowdedState = _ := hjoin lateJoin_heard rfl (by decide)
  have hstates := lateJoin_waits
  rw [hexec, lateJoin_would_end_forming] at hstates
  exact absurd hstates (by decide)

end Sys2Proof.Proofs
end

section
/-! PROOFS. What every encoded instruction comes to: it goes through `issue`, whose ends settle O38 and O39. -/

namespace Sys2Proof.Proofs

set_option Elab.async false

open Sys2Proof.Machine Sys2Proof.Laws

variable {s t u : State} {i : Instr}

/-! ## Every encoded instruction goes through `issue` -/

/-- `run` is an attempt to issue `i`, with some meaning. -/
def Issues (i : Instr) (run : State → Result) : Prop := ∃ act, ∀ s, run s = issue i act s

theorem Issues.issue (i : Instr) (act : State → Cluster → Act) : Issues i (issue i act) := ⟨act, fun _ => rfl⟩

theorem scalarResult_issues (i : Instr) (lat : Nat) (dst : BitVec 5) (v : State → Cluster → W64) :
    Issues i (scalarResult i lat dst v) := Issues.issue ..

theorem lanes1_issues (i : Instr) (lat : Nat) (d a : BitVec 7) (m : Bool) (f : VReg → Nat → W32) :
    Issues i (lanes1 i lat d a m f) := Issues.issue ..

theorem lanes2_issues (i : Instr) (lat : Nat) (d a b : BitVec 7) (m : Bool) (f : W32 → W32 → W32) :
    Issues i (lanes2 i lat d a b m f) := Issues.issue ..

theorem lanes3_issues (i : Instr) (lat : Nat) (d a b : BitVec 7) (c : BitVec 4) (f : W32 → W32 → W32 → W32) :
    Issues i (lanes3 i lat d a b c f) := Issues.issue ..

theorem fp1_issues (i : Instr) (lat : Nat) (d a : BitVec 7) (m steps : Bool) (f : RoundEnv → W32 → W32 × BitVec 10) :
    Issues i (fp1 i lat d a m steps f) := Issues.issue ..

theorem fp2_issues (i : Instr) (lat : Nat) (d a b : BitVec 7) (m steps : Bool) (f : RoundEnv → W32 → W32 → W32 × BitVec 10) :
    Issues i (fp2 i lat d a b m steps f) := Issues.issue ..

theorem fp3_issues (i : Instr) (d a b : BitVec 7) (c : BitVec 4) (f : RoundEnv → W32 → W32 → W32 → W32 × BitVec 10) :
    Issues i (fp3 i d a b c f) := Issues.issue ..

theorem laneFill_issues (i : Instr) (d : BitVec 7) (v : State → W32) : Issues i (laneFill i d v) := Issues.issue ..

theorem Issues.of_eq {i : Instr} {run run' : State → Result} (heq : ∀ s, run s = run' s) (h : Issues i run') : Issues i run :=
  h.imp fun _ hact s => (heq s).trans (hact s)

/-- What is no event is an attempt to issue. -/
theorem exec_issues (i : Instr) (h : wordBytes i ≠ 0) : Issues i (exec i) := by
  cases i with
  | add => exact .of_eq (fun _ => exec_add) (scalarResult_issues ..)
  | add16 => exact .of_eq (fun _ => exec_add16) (scalarResult_issues ..)
  | addi => exact .of_eq (fun _ => exec_addi) (scalarResult_issues ..)
  | addi16 => exact .of_eq (fun _ => exec_addi16) (scalarResult_issues ..)
  | and => exact .of_eq (fun _ => exec_and) (scalarResult_issues ..)
  | andn => exact .of_eq (fun _ => exec_andn) (scalarResult_issues ..)
  | clz => exact .of_eq (fun _ => exec_clz) (scalarResult_issues ..)
  | cmp => exact .of_eq (fun _ => exec_cmp) (scalarResult_issues ..)
  | div => exact .of_eq (fun _ => exec_div) (scalarResult_issues ..)
  | li => exact .of_eq (fun _ => exec_li) (scalarResult_issues ..)
  | li16 => exact .of_eq (fun _ => exec_li16) (scalarResult_issues ..)
  | lih => exact .of_eq (fun _ => exec_lih) (scalarResult_issues ..)
  | max => exact .of_eq (fun _ => exec_max) (scalarResult_issues ..)
  | min => exact .of_eq (fun _ => exec_min) (scalarResult_issues ..)
  | mov => exact .of_eq (fun _ => exec_mov) (scalarResult_issues ..)
  | mov16 => exact .of_eq (fun _ => exec_mov16) (scalarResult_issues ..)
  | mul => exact .of_eq (fun _ => exec_mul) (scalarResult_issues ..)
  | mulh => exact .of_eq (fun _ => exec_mulh) (scalarResult_issues ..)
  | or => exact .of_eq (fun _ => exec_or) (scalarResult_issues ..)
  | popc => exact .of_eq (fun _ => exec_popc) (scalarResult_issues ..)
  | rem => exact .of_eq (fun _ => exec_rem) (scalarResult_issues ..)
  | sel => exact .of_eq (fun _ => exec_sel) (scalarResult_issues ..)
  | shl => exact .of_eq (fun _ => exec_shl) (scalarResult_issues ..)
  | shr => exact .of_eq (fun _ => exec_shr) (scalarResult_issues ..)
  | sra => exact .of_eq (fun _ => exec_sra) (scalarResult_issues ..)
  | sub => exact .of_eq (fun _ => exec_sub) (scalarResult_issues ..)
  | sub16 => exact .of_eq (fun _ => exec_sub16) (scalarResult_issues ..)
  | xor => exact .of_eq (fun _ => exec_xor) (scalarResult_issues ..)
  | vbcast => exact .of_eq (fun _ => exec_vbcast) (by unfold execVbcast; exact lanes1_issues ..)
  | vfclass => exact .of_eq (fun _ => exec_vfclass) (by unfold execVfclass; exact lanes1_issues ..)
  | vmov => exact .of_eq (fun _ => exec_vmov) (lanes1_issues ..)
  | vpopc => exact .of_eq (fun _ => exec_vpopc) (by unfold execVpopc; exact lanes1_issues ..)
  | vslideUp => exact .of_eq (fun _ => exec_vslideUp) (by unfold execVslideUp; exact lanes1_issues ..)
  | vslideDown => exact .of_eq (fun _ => exec_vslideDown) (by unfold execVslideDown; exact lanes1_issues ..)
  | vunpk => exact .of_eq (fun _ => exec_vunpk) (by unfold execVunpk; exact lanes1_issues ..)
  | vadd => exact .of_eq (fun _ => exec_vadd) (lanes2_issues ..)
  | vgfmul => exact .of_eq (fun _ => exec_vgfmul) (lanes2_issues ..)
  | vmaxS32 => exact .of_eq (fun _ => exec_vmaxS32) (lanes2_issues ..)
  | vmaxN32 => exact .of_eq (fun _ => exec_vmaxN32) (lanes2_issues ..)
  | vminS32 => exact .of_eq (fun _ => exec_vminS32) (lanes2_issues ..)
  | vminN32 => exact .of_eq (fun _ => exec_vminN32) (lanes2_issues ..)
  | vmul => exact .of_eq (fun _ => exec_vmul) (lanes2_issues ..)
  | vshl => exact .of_eq (fun _ => exec_vshl) (by unfold execVshl; exact lanes2_issues ..)
  | vshr => exact .of_eq (fun _ => exec_vshr) (by unfold execVshr; exact lanes2_issues ..)
  | vsra => exact .of_eq (fun _ => exec_vsra) (by unfold execVsra; exact lanes2_issues ..)
  | vsub => exact .of_eq (fun _ => exec_vsub) (lanes2_issues ..)
  | vfsh => exact .of_eq (fun _ => exec_vfsh) (by unfold execVfsh; exact lanes3_issues ..)
  | vgfma => exact .of_eq (fun _ => exec_vgfma) (by unfold execVgfma; exact lanes3_issues ..)
  | vfabs => exact .of_eq (fun _ => exec_vfabs) (fp1_issues ..)
  | vfexp2 => exact .of_eq (fun _ => exec_vfexp2) (by unfold execVfexp2; exact fp1_issues ..)
  | vflog2 => exact .of_eq (fun _ => exec_vflog2) (by unfold execVflog2; exact fp1_issues ..)
  | vfrcp => exact .of_eq (fun _ => exec_vfrcp) (by unfold execVfrcp; exact fp1_issues ..)
  | vfsqrt => exact .of_eq (fun _ => exec_vfsqrt) (by unfold execVfsqrt; exact fp1_issues ..)
  | vfadd => exact .of_eq (fun _ => exec_vfadd) (fp2_issues ..)
  | vfdiv => exact .of_eq (fun _ => exec_vfdiv) (fp2_issues ..)
  | vfmax => exact .of_eq (fun _ => exec_vfmax) (fp2_issues ..)
  | vfmin => exact .of_eq (fun _ => exec_vfmin) (fp2_issues ..)
  | vfmul => exact .of_eq (fun _ => exec_vfmul) (fp2_issues ..)
  | vfsub => exact .of_eq (fun _ => exec_vfsub) (fp2_issues ..)
  | vfma => exact .of_eq (fun _ => exec_vfma) (fp3_issues ..)
  | vfnma => exact .of_eq (fun _ => exec_vfnma) (fp3_issues ..)
  | pcnt => exact .of_eq (fun _ => exec_pcnt) (laneFill_issues ..)
  | pfirst => exact .of_eq (fun _ => exec_pfirst) (laneFill_issues ..)
  | accfill => exact .of_eq (fun _ => exec_accfill) (Issues.issue ..)
  | accspill => exact .of_eq (fun _ => exec_accspill) (Issues.issue ..)
  | accz => exact .of_eq (fun _ => exec_accz) (Issues.issue ..)
  | aclaim => exact .of_eq (fun _ => exec_aclaim) (Issues.issue ..)
  | adrain => exact .of_eq (fun _ => exec_adrain) (Issues.issue ..)
  | afree => exact .of_eq (fun _ => exec_afree) (Issues.issue ..)
  | amo => exact .of_eq (fun _ => exec_amo) (Issues.issue ..)
  | bgive => exact .of_eq (fun _ => exec_bgive) (Issues.issue ..)
  | bgive16 => exact .of_eq (fun _ => exec_bgive16) (Issues.issue ..)
  | blk => exact .of_eq (fun _ => exec_blk) (Issues.issue ..)
  | br => exact .of_eq (fun _ => exec_br) (Issues.issue ..)
  | brb => exact .of_eq (fun _ => exec_brb) (Issues.issue ..)
  | brc => exact .of_eq (fun _ => exec_brc) (Issues.issue ..)
  | brk => exact .of_eq (fun _ => exec_brk) (Issues.issue ..)
  | bstat => exact .of_eq (fun _ => exec_bstat) (Issues.issue ..)
  | btake => exact .of_eq (fun _ => exec_btake) (Issues.issue ..)
  | btake16 => exact .of_eq (fun _ => exec_btake16) (Issues.issue ..)
  | cas => exact .of_eq (fun _ => exec_cas) (Issues.issue ..)
  | chkerr => exact .of_eq (fun _ => exec_chkerr) (Issues.issue ..)
  | darn => exact .of_eq (fun _ => exec_darn) (Issues.issue ..)
  | enq => exact .of_eq (fun _ => exec_enq) (Issues.issue ..)
  | fence => exact .of_eq (fun _ => exec_fence) (Issues.issue ..)
  | flset => exact .of_eq (fun _ => exec_flset) (Issues.issue ..)
  | flsetSet16 => exact .of_eq (fun _ => exec_flsetSet16) (Issues.issue ..)
  | flsetClear16 => exact .of_eq (fun _ => exec_flsetClear16) (Issues.issue ..)
  | flwait => exact .of_eq (fun _ => exec_flwait) (Issues.issue ..)
  | flwait16 => exact .of_eq (fun _ => exec_flwait16) (Issues.issue ..)
  | flwaitClr16 => exact .of_eq (fun _ => exec_flwaitClr16) (Issues.issue ..)
  | fwq => exact .of_eq (fun _ => exec_fwq) (Issues.issue ..)
  | getsr => exact .of_eq (fun _ => exec_getsr) (Issues.issue ..)
  | halt => exact .of_eq (fun _ => exec_halt) (Issues.issue ..)
  | halt16 => exact .of_eq (fun _ => exec_halt16) (Issues.issue ..)
  | harrive => exact .of_eq (fun _ => exec_harrive) (Issues.issue ..)
  | hwait => exact .of_eq (fun _ => exec_hwait) (Issues.issue ..)
  | knot => exact .of_eq (fun _ => exec_knot) (Issues.issue ..)
  | ld => exact .of_eq (fun _ => exec_ld) (Issues.issue ..)
  | ldb => exact .of_eq (fun _ => exec_ldb) (Issues.issue ..)
  | ldbOrdered => exact .of_eq (fun _ => exec_ldbOrdered) (Issues.issue ..)
  | ldg => exact .of_eq (fun _ => exec_ldg) (Issues.issue ..)
  | ldlit => exact .of_eq (fun _ => exec_ldlit) (Issues.issue ..)
  | lease => exact .of_eq (fun _ => exec_lease) (Issues.issue ..)
  | lfree => exact .of_eq (fun _ => exec_lfree) (Issues.issue ..)
  | lhint => exact .of_eq (fun _ => exec_lhint) (Issues.issue ..)
  | lsflag => exact .of_eq (fun _ => exec_lsflag) (Issues.issue ..)
  | mma => exact .of_eq (fun _ => exec_mma) (Issues.issue ..)
  | nbenter => exact .of_eq (fun _ => exec_nbenter) (Issues.issue ..)
  | nbexit => exact .of_eq (fun _ => exec_nbexit) (Issues.issue ..)
  | nbload => exact .of_eq (fun _ => exec_nbload) (Issues.issue ..)
  | nbmac => exact .of_eq (fun _ => exec_nbmac) (Issues.issue ..)
  | nbread => exact .of_eq (fun _ => exec_nbread) (Issues.issue ..)
  | nop => exact .of_eq (fun _ => exec_nop) (Issues.issue ..)
  | nop16 => exact .of_eq (fun _ => exec_nop16) (Issues.issue ..)
  | plog => exact .of_eq (fun _ => exec_plog) (Issues.issue ..)
  | ppack => exact .of_eq (fun _ => exec_ppack) (Issues.issue ..)
  | probe => exact .of_eq (fun _ => exec_probe) (Issues.issue ..)
  | probeCfg => exact .of_eq (fun _ => exec_probeCfg) (Issues.issue ..)
  | prot => exact .of_eq (fun _ => exec_prot) (Issues.issue ..)
  | pset => exact .of_eq (fun _ => exec_pset) (Issues.issue ..)
  | punpk => exact .of_eq (fun _ => exec_punpk) (Issues.issue ..)
  | recfl => exact .of_eq (fun _ => exec_recfl) (Issues.issue ..)
  | rndend => exact .of_eq (fun _ => exec_rndend) (Issues.issue ..)
  | rowcp => exact .of_eq (fun _ => exec_rowcp) (Issues.issue ..)
  | rowfill => exact .of_eq (fun _ => exec_rowfill) (Issues.issue ..)
  | rowlog => exact .of_eq (fun _ => exec_rowlog) (Issues.issue ..)
  | sclaim => exact .of_eq (fun _ => exec_sclaim) (Issues.issue ..)
  | setsr => exact .of_eq (fun _ => exec_setsr) (Issues.issue ..)
  | sfree => exact .of_eq (fun _ => exec_sfree) (Issues.issue ..)
  | shgo => exact .of_eq (fun _ => exec_shgo) (Issues.issue ..)
  | shwm => exact .of_eq (fun _ => exec_shwm) (Issues.issue ..)
  | signal => exact .of_eq (fun _ => exec_signal) (Issues.issue ..)
  | st => exact .of_eq (fun _ => exec_st) (Issues.issue ..)
  | stOrdered => exact .of_eq (fun _ => exec_stOrdered) (Issues.issue ..)
  | stb => exact .of_eq (fun _ => exec_stb) (Issues.issue ..)
  | stbOrdered => exact .of_eq (fun _ => exec_stbOrdered) (Issues.issue ..)
  | stsc => exact .of_eq (fun _ => exec_stsc) (Issues.issue ..)
  | trap => exact .of_eq (fun _ => exec_trap) (Issues.issue ..)
  | tret => exact .of_eq (fun _ => exec_tret) (Issues.issue ..)
  | vcmp => exact .of_eq (fun _ => exec_vcmp) (Issues.issue ..)
  | vcvt => exact .of_eq (fun _ => exec_vcvt) (Issues.issue ..)
  | vfcmp => exact .of_eq (fun _ => exec_vfcmp) (Issues.issue ..)
  | vfill => exact .of_eq (fun _ => exec_vfill) (Issues.issue ..)
  | vlog3 => exact .of_eq (fun _ => exec_vlog3) (Issues.issue ..)
  | vpack => exact .of_eq (fun _ => exec_vpack) (Issues.issue ..)
  | vperm => exact .of_eq (fun _ => exec_vperm) (Issues.issue ..)
  | vred => exact .of_eq (fun _ => exec_vred) (Issues.issue ..)
  | vsel => exact .of_eq (fun _ => exec_vsel) (Issues.issue ..)
  | vsetl => exact .of_eq (fun _ => exec_vsetl) (Issues.issue ..)
  | vspill => exact .of_eq (fun _ => exec_vspill) (Issues.issue ..)
  | xcall => exact .of_eq (fun _ => exec_xcall) (Issues.issue ..)
  | xret => exact .of_eq (fun _ => exec_xret) (Issues.issue ..)
  | _ => exact absurd rfl h

/-! ## The verdict of a turn -/

theorem fetched_verdict (s : State) (va : W64) : (s.fetched va).verdict = s.verdict :=
  (congrArg State.verdict (fetched_walkedOnly s va) :)

theorem delegated_verdict (s : State) (cause tval ecmd : W64) (r : Except Nat (List W64)) :
    (delegated s cause tval ecmd r).verdict = s.verdict := by
  cases r with
  | ok streams => exact fetched_verdict _ _
  | error code => rfl

theorem enterTrap_verdict (s : State) (clu : Cluster) (code : Nat) (tval ecmd : W64) :
    (enterTrap s clu code tval ecmd).verdict = .trapped := by
  rw [enterTrap_eq]
  split
  · rfl
  · split
    · exact delegated_verdict _ _ _ _ _
    · rfl

theorem takeTrap_verdict (s : State) (clu : Cluster) (code : Nat) (tval ecmd : W64) :
    (takeTrap s clu code tval ecmd).verdict = .trapped := by
  rw [takeTrap_eq]
  split
  · exact enterTrap_verdict _ _ _ _ _
  · rfl

/-- Settles O38: every encoded instruction goes through `issue`, whose ends have these three verdicts. -/
theorem everyEncodedInstructionAnswers : Obligations.EveryEncodedInstructionAnswers := by
  intro s i hword
  obtain ⟨act, hact⟩ := exec_issues i hword
  refine ⟨fun e he => (hact s).trans (issue_invalid he), ?_⟩
  obtain ⟨t, ht⟩ := issue_next i act s
  refine ⟨t, (hact s).trans ht, ?_⟩
  rcases issue_cases ht with ⟨-, rfl⟩ | ⟨-, ⟨u, -, rfl⟩ | ⟨u, -, rfl⟩ | ⟨k, -, rfl⟩ | ⟨code, tval, -, rfl⟩⟩
  · exact .inr (.inr (takeTrap_verdict ..))
  · exact .inl rfl
  · exact .inl rfl
  · exact .inr (.inl rfl)
  · exact .inr (.inr (takeTrap_verdict ..))

/-! ## Waiting -/

/-- An encoded instruction whose verdict is that it waits has been held. -/
theorem held_of_waited (hword : wordBytes i ≠ 0) (hexec : exec i s = .next t) (hwaited : t.verdict = .waited) :
    ∃ k, t = hold s (turn s) (stitchBit i) k := by
  obtain ⟨act, hact⟩ := exec_issues i hword
  rcases issue_cases ((hact s).symm.trans hexec) with
    ⟨-, rfl⟩ | ⟨-, ⟨u, -, rfl⟩ | ⟨u, -, rfl⟩ | ⟨k, -, rfl⟩ | ⟨code, tval, -, rfl⟩⟩
  · exact absurd ((takeTrap_verdict ..).symm.trans hwaited) nofun
  · exact absurd hwaited nofun
  · exact absurd hwaited nofun
  · exact ⟨k, rfl⟩
  · exact absurd ((takeTrap_verdict ..).symm.trans hwaited) nofun

/-- A wait changes nothing of a cluster but what it waits for and since when. -/
theorem hold_get (s : State) (c d : Cluster) (stitched : Bool) (k : WaitKind) :
    ∃ w n, (hold s c stitched k).ctx.cl.get d = { s.ctx.cl.get d with wait := w, waitFrom := n } := by
  have hcl : (hold s c stitched k).ctx.cl = s.ctx.cl.set c ((s.ctx.cl.get c).waitsFor s.now k) := rfl
  rw [hcl]
  by_cases h : d = c
  · subst h
    rw [Clusters_get_set_same, ClusterState.waitsFor]
    split
    · exact ⟨_, _, rfl⟩
    · exact ⟨k, s.now, rfl⟩
  · exact ⟨(s.ctx.cl.get d).wait, (s.ctx.cl.get d).waitFrom, Clusters_get_set_of_ne _ _ h⟩

/-- Settles O39: what waits is held, and `hold` changes the wait, the life and the stitch of its context alone. -/
theorem aWaitingInstructionHasNoEffect : Obligations.AWaitingInstructionHasNoEffect := by
  intro s t i hword hexec hwaited
  obtain ⟨k, rfl⟩ := held_of_waited hword hexec hwaited
  refine ⟨⟨rfl, rfl, rfl, rfl, fun _ => rfl, fun _ => rfl, rfl, rfl, rfl, rfl, rfl, fun c => ?_⟩, rfl,
    ⟨fun _ => rfl, fun _ => rfl, rfl, rfl, rfl, rfl, rfl, rfl, rfl, rfl, rfl, rfl, rfl, rfl, rfl, rfl⟩, fun c => ?_⟩
  all_goals
    obtain ⟨w, n, h⟩ := hold_get s (turn s) c (stitchBit i) k
    rw [h]
    simp

end Sys2Proof.Proofs
end

section
/-! PROOFS. What the instructions that only compute leave behind: their writes in flight, and O40. -/

namespace Sys2Proof.Proofs

set_option Elab.async false

open Sys2Proof.Machine Sys2Proof.Claims Sys2Proof.Laws

variable {s t u : State} {i j : Instr} {e : Effect} {n : Nat} {a : Act}

/-! ## The writes that a computing instruction may schedule -/

/-- `u` is `s` with writes added that a computing instruction may leave. -/
def Computed (i : Instr) (s u : State) : Prop :=
  ∃ ws, u = s.modCtx (fun x => { x with flight := x.flight ++ ws }) ∧ ∀ w ∈ ws, s.now < w.lands ∧ MayLeave i s w.eff

/-- An act that only computes: it does not set the program counter, and what it completes with is computed. -/
def ActComputes (i : Instr) (s : State) : Act → Prop
  | .go u => Computed i s u
  | .jump _ => False
  | _ => True

theorem Computed.refl (i : Instr) (s : State) : Computed i s s :=
  ⟨[], by
    show s = { s with ctx := { s.ctx with flight := s.ctx.flight ++ [] } }
    rw [List.append_nil], fun _ hw => (List.not_mem_nil hw).elim⟩

theorem Computed.now_eq (h : Computed i s u) : u.now = s.now := by
  obtain ⟨ws, rfl, -⟩ := h
  rfl

theorem Computed.writeAt (h : Computed i s u) (hn : 0 < n) (he : MayLeave i s e) : Computed i s (u.writeAt n e) := by
  obtain ⟨ws, rfl, hws⟩ := h
  refine ⟨ws ++ [⟨s.now + n, e⟩], ?_, fun w hw => ?_⟩
  · simp [State.writeAt, State.modCtx]
  · rcases List.mem_append.1 hw with hw | hw
    · exact hws w hw
    · obtain rfl := List.mem_singleton.1 hw
      exact ⟨Nat.lt_add_of_pos_right hn, he⟩

theorem Computed.readsLost {b : Bool} (h : Computed i s u) (hb : b = true → s.ctx.bmBad ≠ []) : Computed i s (u.readsLost b) := by
  cases b with
  | false => exact h
  | true => exact h.writeAt Nat.one_pos (hb rfl)

theorem Computed.writeLanes {d : BitVec 7} {m : Bool} {f : Nat → W32} (hdest : destOf i = some (.vector d)) (hn : 0 < n) :
    Computed i s (writeLanes s n d m f) := (Computed.refl i s).writeAt hn ⟨d, hdest, rfl⟩

/-- Flags may land where the instruction accrues them, a stepped LFSR where it rounds stochastically. -/
theorem Computed.landFlags {g : BitVec 10} {l : W32} (h : Computed i s u) (hn : 0 < n) (hacc : accrues i = true)
    (hlfsr : l ≠ curLfsr u → (roundEnv s).rm = 4) : Computed i s (landFlags u n g l) := by
  have hflags : Computed i s (if g = 0 then u else u.writeAt n (.fcsrOr g)) := by
    split
    · exact h
    · exact h.writeAt hn hacc
  unfold Machine.landFlags
  dsimp only
  split
  · exact hflags
  case isFalse hne => exact hflags.writeAt Nat.one_pos ⟨hacc, hlfsr hne⟩

/-! ## The checks of V operands -/

theorem ActComputes.readsLost {b : Bool} (h : ActComputes i s a) (hb : b = true → s.ctx.bmBad ≠ []) :
    ActComputes i s (a.readsLost b) := by
  cases a with
  | go u => exact Computed.readsLost h hb
  | jump u => exact h
  | wait k => trivial
  | trap code tval => trivial

theorem bmBad_ne_nil_of_slotLost {x : Ctx} {slot : Nat} (h : x.slotLost n slot = true) : x.bmBad ≠ [] := by
  intro hnil
  rw [Ctx.slotLost, hnil] at h
  exact absurd h Bool.false_ne_true

theorem ActComputes.slotChecks {c : Cluster} {srcs dsts : List (BitVec 7)} (h : ActComputes i s a) :
    ActComputes i s (slotChecks j s c srcs dsts a) := by
  unfold Machine.slotChecks
  dsimp only
  split
  · trivial
  split
  · trivial
  split
  · trivial
  · refine h.readsLost fun hany => ?_
    obtain ⟨p, -, hp⟩ := List.any_eq_true.1 hany
    exact bmBad_ne_nil_of_slotLost hp

theorem ActComputes.vectorChecks {c : Cluster} {fs srcs dsts : List (BitVec 7)} (h : ActComputes i s a) :
    ActComputes i s (vectorChecks j s c fs srcs dsts a) := by
  unfold Machine.vectorChecks
  split
  · trivial
  · exact h.slotChecks

/-! ## The shapes of instruction -/

/-- `run` issues `i` with a meaning that only computes. -/
def ComputesOnly (i : Instr) (run : State → Result) : Prop :=
  ∃ act, (∀ s, run s = issue i act s) ∧ ∀ s, Valid i s → ActComputes i s (act s (turn s))

theorem ComputesOnly.of_eq {run run' : State → Result} (heq : ∀ s, run s = run' s) (h : ComputesOnly i run') : ComputesOnly i run :=
  h.imp fun _ hact => ⟨fun s => (heq s).trans (hact.1 s), hact.2⟩

theorem ComputesOnly.issue {act : State → Cluster → Act} (h : ∀ s, Valid i s → ActComputes i s (act s (turn s))) :
    ComputesOnly i (issue i act) := ⟨act, fun _ => rfl, h⟩

variable {lat : Nat} {d a b : BitVec 7} {c : BitVec 4} {m steps : Bool}

theorem scalarResult_computes {dst : BitVec 5} {v : State → Cluster → W64} (hdest : destOf i = some (.scalar dst)) (hlat : 0 < lat) :
    ComputesOnly i (scalarResult i lat dst v) :=
  .issue fun s _ => (Computed.refl i s).writeAt hlat ⟨dst, hdest, rfl, rfl⟩

theorem lanes1_computes {f : VReg → Nat → W32} (hdest : destOf i = some (.vector d)) (hlat : 0 < lat) :
    ComputesOnly i (lanes1 i lat d a m f) :=
  .issue fun _ _ => ActComputes.vectorChecks (a := .go _) (Computed.writeLanes hdest hlat)

theorem lanes2_computes {f : W32 → W32 → W32} (hdest : destOf i = some (.vector d)) (hlat : 0 < lat) :
    ComputesOnly i (lanes2 i lat d a b m f) :=
  .issue fun _ _ => ActComputes.vectorChecks (a := .go _) (Computed.writeLanes hdest hlat)

theorem lanes3_computes {f : W32 → W32 → W32 → W32} (hdest : destOf i = some (.vector d)) (hlat : 0 < lat) :
    ComputesOnly i (lanes3 i lat d a b c f) :=
  .issue fun _ _ => ActComputes.vectorChecks (a := .go _) (Computed.writeLanes hdest hlat)

theorem laneFill_computes {v : State → W32} (hdest : destOf i = some (.vector d)) : ComputesOnly i (laneFill i d v) :=
  .issue fun _ _ => ActComputes.vectorChecks (a := .go _) (Computed.writeLanes hdest Nat.one_pos)

theorem curLfsr_writeAt (s : State) (n : Nat) (he : ∀ l, e ≠ .lfsrStep l) : curLfsr (s.writeAt n e) = curLfsr s := by
  have hflight : (s.writeAt n e).ctx.flight = s.ctx.flight ++ [⟨s.now + n, e⟩] := rfl
  rw [curLfsr, curLfsr, hflight, List.foldl_append]
  cases e with
  | lfsrStep l => exact absurd rfl (he l)
  | _ => rfl

theorem lfsrAtLane_of_not_stochastic {k : Nat} (h : (roundEnv s).rm ≠ 4) : lfsrAtLane s m steps k = curLfsr s :=
  if_neg fun hand => h hand.2

/-- The flags and the LFSR that the lanes of a floating-point instruction leave may land behind its result. -/
theorem Computed.landLanes {f : RoundEnv → Nat → W32 × BitVec 10} (hn : 0 < n) (hacc : accrues i = true)
    (hmay : MayLeave i s e) (he : ∀ l, e ≠ .lfsrStep l) :
    Computed i s (Machine.landFlags (s.writeAt n e) n (fpLanes s m steps f).flags (fpLanes s m steps f).lfsr) := by
  refine ((Computed.refl i s).writeAt hn hmay).landFlags hn hacc fun hne => ?_
  rw [curLfsr_writeAt s n he, fpLanes_lfsr] at hne
  exact not_imp_comm.1 lfsrAtLane_of_not_stochastic hne

theorem Computed.writeFp {f : RoundEnv → Nat → W32 × BitVec 10} (hdest : destOf i = some (.vector d)) (hacc : accrues i = true)
    (hn : 0 < n) : Computed i s (writeFp s n d m steps f) := Computed.landLanes hn hacc ⟨d, hdest, rfl⟩ nofun

theorem fp1_computes {f : RoundEnv → W32 → W32 × BitVec 10} (hdest : destOf i = some (.vector d)) (hacc : accrues i = true)
    (hlat : 0 < lat) : ComputesOnly i (fp1 i lat d a m steps f) :=
  .issue fun _ _ => ActComputes.vectorChecks (a := .go _) (Computed.writeFp hdest hacc hlat)

theorem fp2_computes {f : RoundEnv → W32 → W32 → W32 × BitVec 10} (hdest : destOf i = some (.vector d)) (hacc : accrues i = true)
    (hlat : 0 < lat) : ComputesOnly i (fp2 i lat d a b m steps f) :=
  .issue fun _ _ => ActComputes.vectorChecks (a := .go _) (Computed.writeFp hdest hacc hlat)

theorem fp3_computes {f : RoundEnv → W32 → W32 → W32 → W32 × BitVec 10} (hdest : destOf i = some (.vector d))
    (hacc : accrues i = true) : ComputesOnly i (fp3 i d a b c f) :=
  .issue fun _ _ => ActComputes.vectorChecks (a := .go _) (Computed.writeFp hdest hacc (by decide))

/-! ## The instructions of no shape -/

variable {st g : Bool} {op cond : BitVec 3}

theorem vlog3_computes {r : BitVec 6} {tt : BitVec 8} : ComputesOnly (.vlog3 st r a c tt) (execVlog3 st r a c tt) :=
  .issue fun _ _ => ActComputes.vectorChecks (a := .go _) (Computed.writeLanes rfl Nat.one_pos)

theorem vsel_computes : ComputesOnly (.vsel st d a b c) (execVsel st d a b c) :=
  .issue fun _ _ => ActComputes.vectorChecks (a := .go _) (Computed.writeLanes rfl (by decide))

theorem vperm_computes : ComputesOnly (.vperm st d a b m) (execVperm st d a b m) :=
  .issue fun _ _ => ActComputes.vectorChecks (a := .go _) (Computed.writeLanes rfl (by decide))

theorem vpack_computes {w : BitVec 2} : ComputesOnly (.vpack st d a b w m) (execVpack st d a b w m) :=
  .issue fun _ _ => ActComputes.vectorChecks (a := .go _) ((Computed.refl _ _).writeAt (by decide) ⟨d, rfl, rfl⟩)

theorem ppack_computes : ComputesOnly (.ppack st d g) (execPpack st d g) :=
  .issue fun _ _ => ActComputes.vectorChecks (a := .go _) ((Computed.refl _ _).writeAt (by decide) ⟨d, rfl, rfl⟩)

theorem vcvt_computes {dty sty : BitVec 4} {part : BitVec 2} :
    ComputesOnly (.vcvt st d a dty sty part m) (execVcvt st d a dty sty part m) :=
  .issue fun _ _ => ActComputes.vectorChecks (a := .go _) (Computed.landLanes (by decide) rfl ⟨d, rfl, rfl⟩ nofun)

theorem plog_computes {pd pa pb : BitVec 4} : ComputesOnly (.plog st pd pa pb op) (execPlog st pd pa pb op) :=
  .issue fun _ _ => (Computed.refl _ _).writeAt Nat.one_pos ⟨pd, rfl, rfl⟩

theorem pset_computes {pd : BitVec 4} : ComputesOnly (.pset st pd d) (execPset st pd d) :=
  .issue fun _ _ => (Computed.refl _ _).writeAt Nat.one_pos ⟨pd, rfl, rfl⟩

/-- A predicate field below 16 is named by its low four bits. -/
theorem toNat_setWidth_of_lt (h : d.toNat < 16) : d.toNat = (d.setWidth 4).toNat := by
  rw [BitVec.toNat_setWidth, Nat.mod_eq_of_lt h]

theorem vcmp_pred_lt (h : Valid (.vcmp st d a b m cond) s) : d.toNat < 16 := by
  have hlimits := valid_iff.1 h
  simp only [limits, List.forall_mem_cons, decide_eq_true_eq] at hlimits
  exact hlimits.2.1

theorem vfcmp_pred_lt (h : Valid (.vfcmp st d a b m cond) s) : d.toNat < 16 := by
  have hlimits := valid_iff.1 h
  simp only [limits, List.forall_mem_cons, decide_eq_true_eq] at hlimits
  exact hlimits.2.1

theorem vcmp_computes : ComputesOnly (.vcmp st d a b m cond) (execVcmp st d a b m cond) :=
  .issue fun _ hvalid => ActComputes.vectorChecks (a := .go _)
    ((Computed.refl _ _).writeAt (by decide) ⟨_, rfl, toNat_setWidth_of_lt (vcmp_pred_lt hvalid)⟩)

theorem vfcmp_computes : ComputesOnly (.vfcmp st d a b m cond) (execVfcmp st d a b m cond) :=
  .issue fun _ hvalid => ActComputes.vectorChecks (a := .go _)
    (Computed.landLanes (by decide) rfl ⟨_, rfl, toNat_setWidth_of_lt (vfcmp_pred_lt hvalid)⟩ nofun)

theorem vredAct_computes (s : State) : ActComputes (.vred st d a m op) s (vredAct s d m op.toNat (reduction s a m op.toNat)) := by
  cases hroot : (reduction s a m op.toNat).1.headD none with
  | none =>
    rw [vredAct_of_none hroot]
    exact Computed.refl _ s
  | some v =>
    rw [vredAct_of_some hroot]
    refine (Computed.writeLanes rfl (by decide)).landFlags (by decide) rfl fun hne => ?_
    obtain ⟨k, -, hlfsr, -⟩ := tree_reduces (env := roundEnv s) (o := op.toNat) 6 ((List.range 64).map (activeLeaf s a m)) 0 (curLfsr s)
    by_contra hrm
    refine hne (hlfsr.trans ?_)
    rw [lfsrAfter, if_neg fun hand => hrm hand.2]
    exact (curLfsr_writeAt s 8 (by intro _ h; cases h)).symm

theorem vred_computes : ComputesOnly (.vred st d a m op) (execVred st d a m op) :=
  .issue fun s _ => by
    have hact := vredAct_computes (st := st) (d := d) (a := a) (m := m) (op := op) s
    generalize hr : reduction s a m op.toNat = r at hact
    have hr' : tree (roundEnv s) op.toNat 6
        ((List.range 64).map (fun k => if active s m k then some (lane (srcA s a) k) else none)) 0 (curLfsr s) = r := hr
    simp only [hr']
    exact ActComputes.vectorChecks hact

/-- The instructions with a destination only compute. -/
theorem exec_computes (i : Instr) (h : (destOf i).isSome = true) : ComputesOnly i (exec i) := by
  cases i with
  | add => exact .of_eq (fun _ => exec_add) (scalarResult_computes rfl (by decide))
  | add16 => exact .of_eq (fun _ => exec_add16) (scalarResult_computes rfl (by decide))
  | addi => exact .of_eq (fun _ => exec_addi) (scalarResult_computes rfl (by decide))
  | addi16 => exact .of_eq (fun _ => exec_addi16) (scalarResult_computes rfl (by decide))
  | sub => exact .of_eq (fun _ => exec_sub) (scalarResult_computes rfl (by decide))
  | sub16 => exact .of_eq (fun _ => exec_sub16) (scalarResult_computes rfl (by decide))
  | mul => exact .of_eq (fun _ => exec_mul) (scalarResult_computes rfl (by decide))
  | mulh => exact .of_eq (fun _ => exec_mulh) (scalarResult_computes rfl (by decide))
  | div => exact .of_eq (fun _ => exec_div) (scalarResult_computes rfl (by decide))
  | rem => exact .of_eq (fun _ => exec_rem) (scalarResult_computes rfl (by decide))
  | and => exact .of_eq (fun _ => exec_and) (scalarResult_computes rfl (by decide))
  | or => exact .of_eq (fun _ => exec_or) (scalarResult_computes rfl (by decide))
  | xor => exact .of_eq (fun _ => exec_xor) (scalarResult_computes rfl (by decide))
  | andn => exact .of_eq (fun _ => exec_andn) (scalarResult_computes rfl (by decide))
  | shl => exact .of_eq (fun _ => exec_shl) (scalarResult_computes rfl (by decide))
  | shr => exact .of_eq (fun _ => exec_shr) (scalarResult_computes rfl (by decide))
  | sra => exact .of_eq (fun _ => exec_sra) (scalarResult_computes rfl (by decide))
  | cmp => exact .of_eq (fun _ => exec_cmp) (scalarResult_computes rfl (by decide))
  | min => exact .of_eq (fun _ => exec_min) (scalarResult_computes rfl (by decide))
  | max => exact .of_eq (fun _ => exec_max) (scalarResult_computes rfl (by decide))
  | sel => exact .of_eq (fun _ => exec_sel) (scalarResult_computes rfl (by decide))
  | clz => exact .of_eq (fun _ => exec_clz) (scalarResult_computes rfl (by decide))
  | popc => exact .of_eq (fun _ => exec_popc) (scalarResult_computes rfl (by decide))
  | mov => exact .of_eq (fun _ => exec_mov) (scalarResult_computes rfl (by decide))
  | mov16 => exact .of_eq (fun _ => exec_mov16) (scalarResult_computes rfl (by decide))
  | li => exact .of_eq (fun _ => exec_li) (scalarResult_computes rfl (by decide))
  | li16 => exact .of_eq (fun _ => exec_li16) (scalarResult_computes rfl (by decide))
  | lih => exact .of_eq (fun _ => exec_lih) (scalarResult_computes rfl (by decide))
  | vadd => exact .of_eq (fun _ => exec_vadd) (by unfold execVadd; exact lanes2_computes rfl (by decide))
  | vsub => exact .of_eq (fun _ => exec_vsub) (by unfold execVsub; exact lanes2_computes rfl (by decide))
  | vmul => exact .of_eq (fun _ => exec_vmul) (by unfold execVmul; exact lanes2_computes rfl (by decide))
  | vminS32 => exact .of_eq (fun _ => exec_vminS32) (lanes2_computes rfl (by decide))
  | vminN32 => exact .of_eq (fun _ => exec_vminN32) (lanes2_computes rfl (by decide))
  | vmaxS32 => exact .of_eq (fun _ => exec_vmaxS32) (lanes2_computes rfl (by decide))
  | vmaxN32 => exact .of_eq (fun _ => exec_vmaxN32) (lanes2_computes rfl (by decide))
  | vshl => exact .of_eq (fun _ => exec_vshl) (by unfold execVshl; exact lanes2_computes rfl (by decide))
  | vshr => exact .of_eq (fun _ => exec_vshr) (by unfold execVshr; exact lanes2_computes rfl (by decide))
  | vsra => exact .of_eq (fun _ => exec_vsra) (by unfold execVsra; exact lanes2_computes rfl (by decide))
  | vgfmul => exact .of_eq (fun _ => exec_vgfmul) (by unfold execVgfmul; exact lanes2_computes rfl (by decide))
  | vgfma => exact .of_eq (fun _ => exec_vgfma) (by unfold execVgfma; exact lanes3_computes rfl (by decide))
  | vfsh => exact .of_eq (fun _ => exec_vfsh) (by unfold execVfsh; exact lanes3_computes rfl (by decide))
  | vlog3 => exact .of_eq (fun _ => exec_vlog3) vlog3_computes
  | vsel => exact .of_eq (fun _ => exec_vsel) vsel_computes
  | vmov => exact .of_eq (fun _ => exec_vmov) (by unfold execVmov; exact lanes1_computes rfl (by decide))
  | vpopc => exact .of_eq (fun _ => exec_vpopc) (by unfold execVpopc; exact lanes1_computes rfl (by decide))
  | vbcast => exact .of_eq (fun _ => exec_vbcast) (by unfold execVbcast; exact lanes1_computes rfl (by decide))
  | vslideUp => exact .of_eq (fun _ => exec_vslideUp) (by unfold execVslideUp; exact lanes1_computes rfl (by decide))
  | vslideDown => exact .of_eq (fun _ => exec_vslideDown) (by unfold execVslideDown; exact lanes1_computes rfl (by decide))
  | vperm => exact .of_eq (fun _ => exec_vperm) vperm_computes
  | vpack => exact .of_eq (fun _ => exec_vpack) vpack_computes
  | vunpk => exact .of_eq (fun _ => exec_vunpk) (by unfold execVunpk; exact lanes1_computes rfl (by decide))
  | vfclass => exact .of_eq (fun _ => exec_vfclass) (by unfold execVfclass; exact lanes1_computes rfl (by decide))
  | pcnt => exact .of_eq (fun _ => exec_pcnt) (laneFill_computes rfl)
  | pfirst => exact .of_eq (fun _ => exec_pfirst) (laneFill_computes rfl)
  | ppack => exact .of_eq (fun _ => exec_ppack) ppack_computes
  | vfadd => exact .of_eq (fun _ => exec_vfadd) (fp2_computes rfl rfl (by decide))
  | vfsub => exact .of_eq (fun _ => exec_vfsub) (fp2_computes rfl rfl (by decide))
  | vfmul => exact .of_eq (fun _ => exec_vfmul) (fp2_computes rfl rfl (by decide))
  | vfdiv => exact .of_eq (fun _ => exec_vfdiv) (fp2_computes rfl rfl (by decide))
  | vfmin => exact .of_eq (fun _ => exec_vfmin) (fp2_computes rfl rfl (by decide))
  | vfmax => exact .of_eq (fun _ => exec_vfmax) (fp2_computes rfl rfl (by decide))
  | vfma => exact .of_eq (fun _ => exec_vfma) (fp3_computes rfl rfl)
  | vfnma => exact .of_eq (fun _ => exec_vfnma) (fp3_computes rfl rfl)
  | vfabs => exact .of_eq (fun _ => exec_vfabs) (fp1_computes rfl rfl (by decide))
  | vfsqrt => exact .of_eq (fun _ => exec_vfsqrt) (by unfold execVfsqrt; exact fp1_computes rfl rfl (by decide))
  | vfrcp => exact .of_eq (fun _ => exec_vfrcp) (by unfold execVfrcp; exact fp1_computes rfl rfl (by decide))
  | vfexp2 => exact .of_eq (fun _ => exec_vfexp2) (by unfold execVfexp2; exact fp1_computes rfl rfl (by decide))
  | vflog2 => exact .of_eq (fun _ => exec_vflog2) (by unfold execVflog2; exact fp1_computes rfl rfl (by decide))
  | vcvt => exact .of_eq (fun _ => exec_vcvt) vcvt_computes
  | vred => exact .of_eq (fun _ => exec_vred) vred_computes
  | vcmp => exact .of_eq (fun _ => exec_vcmp) vcmp_computes
  | vfcmp => exact .of_eq (fun _ => exec_vfcmp) vfcmp_computes
  | plog => exact .of_eq (fun _ => exec_plog) plog_computes
  | pset => exact .of_eq (fun _ => exec_pset) pset_computes
  | _ => exact absurd h Bool.false_ne_true

/-! ## The frame of an instruction that has issued -/

/-- An instruction that only computes and has issued has completed. -/
theorem completed_of_computes (h : ComputesOnly i (exec i)) (hexec : exec i s = .next t) (hissued : t.verdict = .issued) :
    ∃ u, Computed i s u ∧ t = finish (u.flowTo (turn s) (nextPc i s)) (turn s) := by
  obtain ⟨act, hact, hcomputes⟩ := h
  rcases issue_cases ((hact s).symm.trans hexec) with
    ⟨-, rfl⟩ | ⟨hvalid, ⟨u, hgo, rfl⟩ | ⟨u, hjump, rfl⟩ | ⟨k, -, rfl⟩ | ⟨code, tval, -, rfl⟩⟩
  · exact absurd ((takeTrap_verdict ..).symm.trans hissued) nofun
  · have hcomputed := hcomputes s hvalid
    rw [hgo] at hcomputed
    exact ⟨u, hcomputed, rfl⟩
  · have hcomputed := hcomputes s hvalid
    rw [hjump] at hcomputed
    exact hcomputed.elim
  · exact absurd hissued nofun
  · exact absurd ((takeTrap_verdict ..).symm.trans hissued) nofun

/-- Sequential flow moves its cluster's program counter and blocks, and parks it; the end of the turn ends its wait. -/
theorem flowTo_get (u : State) (c k : Cluster) (next : W64) :
    ((u.flowTo c next).ctx.cl.get k).epc = (u.ctx.cl.get k).epc ∧ ((u.flowTo c next).ctx.cl.get k).estat = (u.ctx.cl.get k).estat ∧
      (k ≠ c → (u.flowTo c next).ctx.cl.get k = u.ctx.cl.get k) := by
  have hcl : (u.flowTo c next).ctx.cl = u.ctx.cl.set c ((u.ctx.cl.get c).flow (stopPending u.ctx) next) := rfl
  rw [hcl]
  by_cases h : k = c
  · subst h
    rw [Clusters_get_set_same]
    exact ⟨rfl, rfl, fun hne => absurd rfl hne⟩
  · rw [Clusters_get_set_of_ne _ _ h]
    exact ⟨rfl, rfl, fun _ => rfl⟩

/-- The end of a turn changes the clusters and the life of its context, and no other part of it. -/
theorem finish_frame (u : State) (c : Cluster) :
    ∃ cl life, finish u c = { u with ctx := { u.ctx with cl := cl, life := life }, plan := u.plan.tail, verdict := .issued } := by
  obtain ⟨cl, life, hctx⟩ : ∃ cl life, (finish u c).ctx = { u.ctx with cl := cl, life := life } := ⟨_, _, finish_ctx u c⟩
  refine ⟨cl, life, ?_⟩
  rw [← hctx]
  rfl

theorem completed_frame (u : State) (c : Cluster) (next : W64) :
    ∃ cl life, finish (u.flowTo c next) c =
      { u with ctx := { u.ctx with cl := cl, life := life }, plan := u.plan.tail, verdict := .issued } := finish_frame (u.flowTo c next) c

/-- Settles O40: such an instruction issues with a meaning that only computes (`exec_computes`), and its end moves its own cluster on. -/
theorem computingInstructionsWriteOnlyTheirDestination : Obligations.ComputingInstructionsWriteOnlyTheirDestination := by
  intro s t i hdest hexec hissued
  obtain ⟨u, ⟨ws, rfl, hws⟩, rfl⟩ := completed_of_computes (exec_computes i hdest) hexec hissued
  generalize hu : s.modCtx (fun x => { x with flight := x.flight ++ ws }) = u
  obtain ⟨cl, life, hend⟩ := completed_frame u (turn s) (nextPc i s)
  have hget : ∀ k, ∃ w, (finish (u.flowTo (turn s) (nextPc i s)) (turn s)).ctx.cl.get k =
      { (u.flowTo (turn s) (nextPc i s)).ctx.cl.get k with wait := w } := finish_get _ _
  have hflow := flowTo_get u (turn s) (next := nextPc i s)
  rw [show u.ctx.cl = s.ctx.cl by rw [← hu]; rfl] at hflow
  rw [hend] at hget ⊢
  subst hu
  refine ⟨⟨rfl, rfl, rfl, rfl, fun _ => rfl, fun _ => rfl, rfl, rfl, rfl, rfl, rfl, fun k => ?_⟩,
    ⟨fun _ => rfl, fun _ => rfl, rfl, rfl, rfl, rfl, rfl, rfl, rfl, rfl, rfl, rfl, rfl, rfl, rfl, rfl⟩, ⟨ws, rfl, hws⟩, fun k hk => ?_⟩
  · obtain ⟨w, hk⟩ := hget k
    rw [hk]
    exact ⟨(hflow k).1, (hflow k).2.1⟩
  · obtain ⟨w, hkw⟩ := hget k
    rw [hkw, (hflow k).2.2 hk]
    exact ⟨rfl, rfl⟩

end Sys2Proof.Proofs
end

section
/-! PROOFS. Resets, training, the memory gate, power and the lifetime records, and O58. -/

namespace Sys2Proof.Proofs

set_option Elab.async false

open Sys2Proof.Machine Sys2Proof.Claims Sys2Proof.Laws

variable {s t u : State} {i : Instr} {P : State → Prop} {hart port watts : Nat} {full : W16} {temps volts : List Nat}

/-! ## Resets -/

theorem occurs_of_happens (hexec : exec i s = happens u) (hP : P { u with verdict := .issued }) : Occurs i s P :=
  occurs_of_exec hexec hP

theorem occurs_of_leaderWrite {f : State → State} (hleader : Leader s hart) (hexec : exec i s = leaderWrite s hart f)
    (hP : P { f s with verdict := .issued }) : Occurs i s P :=
  occurs_of_exec (hexec.trans (leaderWrite_of_leader f hleader.1 hleader.2.1 hleader.2.2)) hP

theorem powerOnReset_occurs : Occurs .powerOnReset s (fun t => t.power.last = 0 ∧ t.power.on = true ∧ t.power.gate = false ∧
    t.power.ptok = false ∧ t.power.train = false ∧ t.power.keys = false ∧ t.mem = .empty ∧ t.cap = .empty ∧ t.dcache = [] ∧
    t.others = [] ∧ t.ctx = .reset ∧ t.tamb = .reset ∧ t.flash.life = s.flash.life ∧ t.flash.retired = s.flash.retired ∧
    vget t.hub.meas 0 0 = sha384 (digestBytes 0 ++ digestBytes s.flash.loader) ∧ vget t.hub.meas 4 0 = 0) :=
  occurs_of_exec (u := boot (clearedState s 0)) exec_powerOnReset
    ⟨rfl, rfl, rfl, rfl, rfl, rfl, rfl, rfl, rfl, rfl, rfl, rfl, rfl, rfl, rfl, rfl⟩

theorem transferOwner_keeps (f : Flash) : (transferOwner f).life = f.life ∧ (transferOwner f).retired = f.retired := by
  rw [transferOwner]
  split
  · exact ⟨rfl, rfl⟩
  · split <;> exact ⟨rfl, rfl⟩

/-- Flash as a cold reset leaves it before boot. -/
theorem coldFlash_keeps (s : State) : ((mergeLife s).modFlash transferOwner).flash.life = s.flash.life.add s.pending.life ∧
    ((mergeLife s).modFlash transferOwner).flash.retired = s.flash.retired := transferOwner_keeps (mergeLife s).flash

theorem coldReset_occurs (hleader : Leader s hart) : Occurs (.rstctlColdReset hart) s (fun t => t.power.last = 1 ∧ t.power.gate = false ∧
    t.power.ptok = false ∧ t.power.train = false ∧ t.power.keys = false ∧ t.mem = .empty ∧ t.cap = .empty ∧ t.dcache = [] ∧
    t.others = [] ∧ t.ctx = .reset ∧ t.flash.life = s.flash.life.add s.pending.life ∧ t.flash.retired = s.flash.retired) :=
  occurs_of_leaderWrite hleader exec_rstctlColdReset
    ⟨rfl, rfl, rfl, rfl, rfl, rfl, rfl, rfl, rfl, rfl, (coldFlash_keeps s).1, (coldFlash_keeps s).2⟩

theorem warmReset_of_moving (hleader : Leader s hart) (hmoving : s.pages.any isMoving = true) :
    exec (.rstctlWarmReset hart) s = .next { s with verdict := .waited } :=
  exec_rstctlWarmReset.trans (if_pos ⟨hmoving, hleader⟩)

theorem mergeLife_keeps (s : State) : (mergeLife s).mem = s.mem ∧ (mergeLife s).cap = s.cap := ⟨rfl, rfl⟩

theorem warmState_frame (s : State) :
    (warmState s).power.last = 2 ∧ (warmState s).power.gate = false ∧ (warmState s).power.ptok = false ∧
      (warmState s).power.train = false ∧ (warmState s).power.keys = false ∧ (warmState s).dcache = [] ∧
      (warmState s).others = [] ∧ (warmState s).ctx = .reset ∧ (warmState s).tamb = .reset ∧
      (warmState s).mem = (flushAll (finishEngines s)).mem ∧ (warmState s).cap = (flushAll (finishEngines s)).cap := by
  obtain ⟨hmem, hcap⟩ := mergeLife_keeps (flushAll (finishEngines s))
  rw [warmState]
  generalize mergeLife (flushAll (finishEngines s)) = u at hmem hcap ⊢
  exact ⟨rfl, rfl, rfl, rfl, rfl, rfl, rfl, rfl, rfl, hmem, hcap⟩

theorem warmReset_occurs (hleader : Leader s hart) (hstill : s.pages.any isMoving = false) :
    Occurs (.rstctlWarmReset hart) s (fun t => t.power.last = 2 ∧ t.power.gate = false ∧ t.power.ptok = false ∧
      t.power.train = false ∧ t.power.keys = false ∧ t.dcache = [] ∧ t.others = [] ∧ t.ctx = .reset ∧ t.tamb = .reset ∧
      t.mem = (flushAll (finishEngines s)).mem ∧ t.cap = (flushAll (finishEngines s)).cap) :=
  occurs_of_leaderWrite hleader (exec_rstctlWarmReset.trans (if_neg fun h => ne_true_of_eq_false hstill h.1)) (warmState_frame s)

/-! ## Training and the gate -/

/-- Where both temperatures are known they decide; else either answer stands. -/
theorem fullTraining_all_iff (p : Power) (k : Nat) (b : Bool) :
    (fullTraining p k).all (· == b) = true ↔ ∀ x y, vget p.trained k none = some x → vget p.temps (homeDie k) none = some y →
      b = decide (x + 10 < y ∨ y + 10 < x) := by
  rw [fullTraining]
  cases htrained : vget p.trained k none with
  | none => simp
  | some x =>
    cases htemp : vget p.temps (homeDie k) none with
    | none => simp
    | some y =>
      refine ⟨fun h x' y' hx hy => ?_, fun h => ?_⟩
      · obtain rfl := Option.some.inj hx
        obtain rfl := Option.some.inj hy
        exact (beq_iff_eq.1 h).symm.trans (Bool.decide_or _ _).symm
      · exact beq_iff_eq.2 ((h x y rfl rfl).trans (Bool.decide_or _ _)).symm

/-- After a warm reset a training is possible exactly when it is full for the stacks whose temperature has moved (R305). -/
theorem rightTraining_iff (p : Power) (full : W16) :
    (List.range 16).all (fun k => (fullTraining p k).all (· == full.getLsbD k)) = true ↔
      ∀ k < 16, ∀ x y, vget p.trained k none = some x → vget p.temps (homeDie k) none = some y →
        full.getLsbD k = decide (x + 10 < y ∨ y + 10 < x) := by
  simp only [List.all_eq_true, List.mem_range, fullTraining_all_iff]

theorem training_occurs (htrain : s.power.train = false)
    (hright : s.power.last ≠ 2 ∨ ∀ k < 16, ∀ x y, vget s.power.trained k none = some x →
      vget s.power.temps (homeDie k) none = some y → full.getLsbD k = decide (x + 10 < y ∨ y + 10 < x)) :
    Occurs (.phyTrainingComplete full) s (fun t => t.power.train = true ∧ t.power.keys = true ∧ t.power.full = full) := by
  refine occurs_of_exec (u := { s with power := _ }) (exec_phyTrainingComplete.trans (if_neg ?_)) ⟨rfl, rfl, rfl⟩
  rintro (h | ⟨hlast, hwrong⟩)
  · exact ne_true_of_eq_false htrain h
  · rcases hright with hne | hright
    · exact hne hlast
    · rw [(rightTraining_iff s.power full).2 hright] at hwrong
      exact absurd hwrong nofun

theorem training_of_wrong {k x y : Nat} (hlast : s.power.last = 2) (hk : k < 16)
    (htrained : vget s.power.trained k none = some x) (htemp : vget s.power.temps (homeDie k) none = some y)
    (hwrong : full.getLsbD k ≠ decide (x + 10 < y ∨ y + 10 < x)) :
    exec (.phyTrainingComplete full) s = .next { s with verdict := .waited } := by
  refine exec_phyTrainingComplete.trans (if_pos (.inr ⟨hlast, ?_⟩))
  rw [Bool.not_eq_true', ← Bool.not_eq_true]
  exact fun h => hwrong ((rightTraining_iff s.power full).1 h k hk x y htrained htemp)

theorem gate_opens (hgate : s.power.gate = false) (htrain : s.power.train = true) (hkeys : s.power.keys = true)
    (hptok : s.power.ptok = true) : Happens .memoryGateOpen s { s with power := { s.power with gate := true } } :=
  exec_memoryGateOpen.trans (if_neg (by rw [hgate, htrain, hkeys, hptok]; decide))

theorem gate_waits (h : s.power.train = false ∨ s.power.keys = false ∨ s.power.ptok = false) :
    exec .memoryGateOpen s = .next { s with verdict := .waited } := by
  refine exec_memoryGateOpen.trans (if_pos (.inr ?_))
  rcases h with h | h | h
  all_goals simp [h]

theorem link_occurs (hport : port < 30) :
    Occurs (.linkTrainingComplete port) s (fun t => tabGet port t.power.links = some false) :=
  occurs_of_exec (u := { s with power := { s.power with links := tabSet port false s.power.links } })
    (exec_linkTrainingComplete.trans (if_neg (Nat.not_le.2 hport))) ((tabGet_tabSet _ _ _ _).trans (if_pos rfl))

/-! ## Power and temperature -/

/-- A sample changes the swings of its die and the lifetime counts. -/
theorem sampleDie_frame (s : State) (d t v : Nat) :
    (sampleDie s d t v).power.clockSteps = s.power.clockSteps := by
  unfold sampleDie
  split
  rfl

theorem foldl_sampleDie_clockSteps (t v : Nat → Nat) (l : List Nat) (s : State) :
    (l.foldl (fun u d => sampleDie u d (t d) (v d)) s).power.clockSteps = s.power.clockSteps := by
  induction l generalizing s with
  | nil => rfl
  | cons d l ih => exact (ih _).trans (sampleDie_frame _ _ _ _)

/-- The state that a sample leaves, but for a loss of power. -/
def sampledState (s : State) (watts : Nat) (temps volts : List Nat) : State :=
  let u := (List.range 7).foldl (fun t d => sampleDie t d (temps.getD d 0) (volts.getD d 0)) s
  let hot := decide (4400 < watts) || temps.any (fun t => decide (95 < t))
  { u with power := { u.power with sampled := s.us, temps := Vector.ofFn (fun (d : Fin 7) => temps[d.val]?),
                                   clockSteps := if hot then min 6 (u.power.clockSteps + 1) else u.power.clockSteps - 1 } }

theorem exec_thermalSample_sampledState (hdue : s.power.sampled + 100 ≤ s.us) (htemps : temps.length = 7) (hvolts : volts.length = 6) :
    exec (.thermalSample watts temps volts) s =
      if temps.any (fun t => decide (105 ≤ t)) then happens (powerOff (sampledState s watts temps volts))
      else happens (sampledState s watts temps volts) := by
  rw [exec_thermalSample]
  refine if_neg ?_
  rintro (h | h | h)
  · omega
  · exact h htemps
  · exact h hvolts

theorem sampledState_samples (s : State) (watts : Nat) (temps volts : List Nat) :
    (sampledState s watts temps volts).power.sampled = s.us ∧ (sampledState s watts temps volts).power.clockSteps =
      if 4400 < watts ∨ (∃ x ∈ temps, 95 < x) then min 6 (s.power.clockSteps + 1) else s.power.clockSteps - 1 := by
  have hsteps := foldl_sampleDie_clockSteps (fun d => temps.getD d 0) (fun d => volts.getD d 0) (List.range 7) s
  unfold sampledState
  generalize (List.range 7).foldl (fun t d => sampleDie t d (temps.getD d 0) (volts.getD d 0)) s = u at hsteps ⊢
  refine ⟨rfl, ?_⟩
  simp only [hsteps, Bool.or_eq_true, List.any_eq_true, decide_eq_true_eq]

theorem sample_occurs (hdue : s.power.sampled + 100 ≤ s.us) (htemps : temps.length = 7) (hvolts : volts.length = 6)
    (hcool : ∀ x ∈ temps, x < 105) :
    Occurs (.thermalSample watts temps volts) s (fun t => t.power.sampled = s.us ∧ t.power.clockSteps =
      if 4400 < watts ∨ (∃ x ∈ temps, 95 < x) then min 6 (s.power.clockSteps + 1) else s.power.clockSteps - 1) := by
  have hcold : ¬temps.any (fun t => decide (105 ≤ t)) = true := by simpa using hcool
  have hexec := exec_thermalSample_sampledState (watts := watts) hdue htemps hvolts
  rw [if_neg hcold] at hexec
  exact occurs_of_happens hexec (sampledState_samples s watts temps volts)

theorem powerOff_on (s : State) : (powerOff s).power.on = false := rfl

theorem sample_off (hdue : s.power.sampled + 100 ≤ s.us) (htemps : temps.length = 7) (hvolts : volts.length = 6)
    (hhot : ∃ x ∈ temps, 105 ≤ x) : Occurs (.thermalSample watts temps volts) s (fun t => t.power.on = false) := by
  have hburnt : temps.any (fun t => decide (105 ≤ t)) = true := by simpa using hhot
  have hexec := exec_thermalSample_sampledState (watts := watts) hdue htemps hvolts
  rw [if_pos hburnt] at hexec
  exact occurs_of_happens hexec (powerOff_on (sampledState s watts temps volts))

/-- Without power only a power-on reset acts (R303). -/
theorem step_of_off {rest : List Choice} (hoff : s.power.on = false) (hplan : s.plan = []) (hrow : s.schedule = .row i :: rest)
    (hi : i ≠ .powerOnReset) : step s = .next { s with schedule := rest, verdict := .waited } := by
  rw [step, if_pos hplan, boundaryStep, if_pos (by rw [hoff]; rfl), hrow]
  cases i with
  | powerOnReset => exact absurd rfl hi
  | _ => rfl

/-! ## Lifetime records -/

theorem merge_occurs (hdue : s.pending.since + 900000000 ≤ s.us) : Occurs .lifetimeMerge s (fun t =>
    t.flash.life = s.flash.life.add s.pending.life ∧ t.pending = ⟨.zero, s.us⟩ ∧ t.mem = s.mem) :=
  occurs_of_exec (u := mergeLife s) (exec_lifetimeMerge.trans (if_neg (Nat.not_lt.2 hdue))) ⟨rfl, rfl, rfl⟩

theorem estimate_occurs {est : W64} (hdue : s.power.estimated + 3600000000 ≤ s.us) (hkind : bits64 est 0 4 ≤ 4) :
    Occurs (.lifeEstimate est) s (fun t => t.hub.lifeest = est &&& 0xFFFFFFFFFFFF000F ∧ t.power.estimated = s.us) := by
  refine occurs_of_exec (exec_lifeEstimate.trans (if_neg ?_)) ⟨rfl, rfl⟩
  omega

/-- Settles O58, one lemma for each row of its tables. -/
theorem resetsAndPowerActAsTheTablesSay : Obligations.ResetsAndPowerActAsTheTablesSay := by
  intro s hart port mv watts temps volts full est
  refine ⟨powerOnReset_occurs, coldReset_occurs, warmReset_of_moving, warmReset_occurs, fun hleader => ?_, training_occurs,
    fun k x y _ hlast hk => training_of_wrong hlast hk, gate_opens, gate_waits, link_occurs, fun hmv => ?_, ?_, sample_occurs, sample_off,
    fun rest i => step_of_off, merge_occurs, estimate_occurs⟩
  · exact exec_rstctlPtok.trans (leaderWrite_of_leader _ hleader.1 hleader.2.1 hleader.2.2)
  · exact occurs_of_exec (u := powerOff s) (exec_powerInputOutOfRange.trans (if_neg (by omega))) ⟨rfl, rfl, rfl⟩
  · exact occurs_of_exec (u := powerOff s) exec_powerLoss ⟨rfl, rfl, rfl⟩

end Sys2Proof.Proofs
end

section
/-! PROOFS. How tasks and gangs end, and contexts stop and resume (R48, R49, R245 to R248), and O32. -/

namespace Sys2Proof.Proofs

set_option Elab.async false

open Sys2Proof.Machine Sys2Proof.Claims Sys2Proof.Laws

variable {s : State} {cid gang : Nat} {g : Gang} {r : StopRecord}

theorem life_of_focused (hfocus : Focused s cid) : s.ctx.cid = cid := by
  rw [Focused, Ctx.isId, Bool.and_eq_true, beq_iff_eq] at hfocus
  exact hfocus.2

theorem holds_any_iff : s.holds.any (fun h => h.cid == cid) = true ↔ ∃ h ∈ s.holds, h.cid = cid := by
  simp only [List.any_eq_true, beq_iff_eq]

/-! ## Retirement and termination -/

theorem retires_of_retiring {x : Ctx} (h : x.life = .retiring) : x.retires = true := by
  rw [Ctx.retires, h]
  rfl

theorem retirement_of_quiet (hfocus : Focused s cid) (hlife : s.ctx.life = .retiring) (hholds : ∀ h ∈ s.holds, h.cid ≠ cid)
    (hquiet : taskQuiet s s.ctx = true) (hstatus : statusWaits s s.ctx = false) : Happens (.taskRetirement cid) s (finishTask s) := by
  have hfree : ¬s.holds.any (fun h => h.cid == cid) = true := by
    rw [holds_any_iff]
    exact fun ⟨h, hmem, heq⟩ => hholds h hmem heq
  rw [Happens, exec_taskRetirement]
  simp only [execTaskRetirement, ctxOf_of_focused hfocus, onCtx_of_focused hfocus, retires_of_retiring hlife, hfree, hquiet, hstatus]
  rfl

theorem retirement_of_holding (hfocus : Focused s cid) (hlife : s.ctx.life = .retiring) (hholds : ∃ h ∈ s.holds, h.cid = cid)
    (hcouch : s.ctx.eng.couch.cmds = []) : Happens (.taskRetirement cid) s (dropHold s) := by
  rw [Happens, exec_taskRetirement]
  simp only [execTaskRetirement, ctxOf_of_focused hfocus, onCtx_of_focused hfocus, retires_of_retiring hlife, holds_any_iff.2 hholds,
    hcouch]
  rfl

theorem termination_of_alive (hgang : s.gangOf gang = some g) (hdone : g.done = false) (hplaced : g.placed = true ∨ g.saved = true) :
    Happens (.gangTermination gang) s
      ((((allCtxs s).filter (fun x => x.gang == gang && x.life != .none)).map (·.cid)).foldl (fun t c => t.onCtx c terminate)
        (s.setGang { g with terminated := true, preempt := none, frozen := false })) := by
  have halive : (g.done || !(g.placed || g.saved)) = false := by
    rw [hdone]
    rcases hplaced with h | h
    all_goals simp [h]
  rw [Happens, exec_gangTermination, execGangTermination, hgang]
  simp only [halive]
  rfl

/-! ## Pre-emption -/

theorem preemption_of_placed (hgang : s.gangOf gang = some g) (hplaced : g.placed = true) (hdone : g.done = false)
    (hnew : g.preempt = none) : Happens (.preemptionRequest gang) s (requestPreemption s g) := by
  rw [Happens, exec_preemptionRequest, execPreemptionRequest, hgang]
  simp only [hplaced, hdone, hnew]
  rfl

theorem forcedStop_of_overdue {u : Nat} (hgang : s.gangOf gang = some g) (hpreempt : g.preempt = some u)
    (hdue : u + 20 * microsecondUnits ≤ s.time) (hruns : ∃ x ∈ allCtxs s, x.gang = gang ∧ x.runnable = true) :
    Happens (.forcedStop gang) s
      ((((allCtxs s).filter (fun x => x.gang == gang && x.runnable)).map (·.cid)).foldl
        (fun t c => t.onCtx c (fun v => beginStop v (fun k => !k.parked))) s) := by
  obtain ⟨x, hx, hxgang, hxruns⟩ := hruns
  have hmem : x.cid ∈ ((allCtxs s).filter (fun x => x.gang == gang && x.runnable)).map (·.cid) :=
    List.mem_map_of_mem (List.mem_filter.2 ⟨hx, by simp [hxgang, hxruns]⟩)
  have hwaits : ¬(s.time < u + 20 * microsecondUnits ∨
      (((allCtxs s).filter (fun x => x.gang == gang && x.runnable)).map (·.cid)).isEmpty = true) := by
    rintro (h | h)
    · exact Nat.not_lt.2 hdue h
    · rw [List.isEmpty_iff.1 h] at hmem
      exact List.not_mem_nil hmem
  have hrequest : (s.gangOf gang).bind (·.preempt) = some u := by rw [hgang]; exact hpreempt
  rw [Happens, exec_forcedStop, execForcedStop, hrequest]
  exact if_neg hwaits

/-- What a pre-emption request does to one context. -/
def preempted (now id : Nat) (x : Ctx) : Ctx :=
  if x.gang = id ∧ x.resident then
    { x with preempt := some now, life := if x.life = .stopped then .saved else x.life, running := x.running && x.life != .stopped }
  else x

theorem allCtxs_settleSaved (s : State) (n : Nat) : allCtxs (settleSaved s n) = allCtxs s := by
  unfold settleSaved
  split
  · rfl
  · dsimp only
    split <;> rfl

theorem foldl_freeSlots_ctxs (l : List Ctx) (s : State) : allCtxs (l.foldl State.freeSlots s) = allCtxs s := by
  induction l generalizing s with
  | nil => rfl
  | cons x l ih => exact ih _

theorem allCtxs_mapCtxs (s : State) (f : Ctx → Ctx) : allCtxs (s.mapCtxs f) = (allCtxs s).map f := rfl

theorem allCtxs_requestPreemption (s : State) (g : Gang) :
    allCtxs (requestPreemption s g) = (allCtxs s).map (preempted s.time g.id) := by
  refine (allCtxs_settleSaved _ _).trans ((allCtxs_mapCtxs _ _).trans ?_)
  rw [foldl_freeSlots_ctxs]
  rfl

theorem preemptionRequestReachesEveryTask : PreemptionRequestReachesEveryTask := by
  intro s g x hx hgang hresident
  rw [allCtxs_requestPreemption] at hx
  obtain ⟨y, -, rfl⟩ := List.mem_map.1 hx
  by_cases h : y.gang = g.id ∧ y.resident
  · rw [preempted, if_pos h]
  · rw [preempted, if_neg h] at hgang hresident
    exact absurd ⟨hgang, hresident⟩ h

/-! ## Stops and resumption -/

/-- What CONTEXT_STOP does to the context in focus. -/
def stopTurn (t : State) : State × Bool :=
  if t.ctx.life ≠ .stopping then (t, false)
  else if knotsPending t.ctx then (t.modCtx closeKnots, true)
  else if !stopReady t then (t, false)
  else if t.holds.any (fun h => h.cid == t.ctx.cid) then (t.release t.ctx.cid, true)
  else
    let t2 := drainForStop t t.ctx.gq.length
    match t2.ctx.stop with
    | some r => if t2.ctx.gq.isEmpty then (finishStop t2 r, true) else (t, false)
    | none => (t, false)

theorem exec_contextStop_stopTurn (cid : Nat) (s : State) : exec (.contextStop cid) s = eventOn s cid stopTurn := exec_contextStop

theorem stopTurn_of_knots (hlife : s.ctx.life = .stopping) (hknots : knotsPending s.ctx = true) :
    stopTurn s = (s.modCtx closeKnots, true) :=
  (if_neg (not_not.2 hlife)).trans (if_pos hknots)

theorem stopTurn_of_ready (hlife : s.ctx.life = .stopping) (hknots : knotsPending s.ctx = false) (hready : stopReady s = true) :
    stopTurn s =
      if s.holds.any (fun h => h.cid == s.ctx.cid) then (s.release s.ctx.cid, true)
      else
        match (drainForStop s s.ctx.gq.length).ctx.stop with
        | some r => if (drainForStop s s.ctx.gq.length).ctx.gq.isEmpty then (finishStop (drainForStop s s.ctx.gq.length) r, true) else (s, false)
        | none => (s, false) :=
  ((if_neg (not_not.2 hlife)).trans (if_neg (ne_true_of_eq_false hknots))).trans
    (if_neg (by rw [hready]; exact Bool.false_ne_true))

theorem stopTurn_of_holding (hlife : s.ctx.life = .stopping) (hknots : knotsPending s.ctx = false) (hready : stopReady s = true)
    (hholds : ∃ h ∈ s.holds, h.cid = s.ctx.cid) : stopTurn s = (s.release s.ctx.cid, true) :=
  (stopTurn_of_ready hlife hknots hready).trans (if_pos (holds_any_iff.2 hholds))

theorem stopTurn_of_done (hlife : s.ctx.life = .stopping) (hknots : knotsPending s.ctx = false) (hready : stopReady s = true)
    (hholds : ∀ h ∈ s.holds, h.cid ≠ s.ctx.cid) (hstop : (drainForStop s s.ctx.gq.length).ctx.stop = some r)
    (hdone : (drainForStop s s.ctx.gq.length).ctx.gq = []) :
    stopTurn s = (finishStop (drainForStop s s.ctx.gq.length) r, true) := by
  refine (stopTurn_of_ready hlife hknots hready).trans ((if_neg ?_).trans ?_)
  · rw [holds_any_iff]
    exact fun ⟨h, hmem, heq⟩ => hholds h hmem heq
  · rw [hstop, hdone]
    rfl

theorem resumption_of_stopped (hfocus : Focused s cid) (hlife : s.ctx.life = .stopped) (hwaits : resumeWaits s s.ctx = false)
    (hstop : s.ctx.stop = some r) (hok : stopRecordOk s.ctx (areaStop s s.ctx r) = true) :
    Happens (.contextResumption cid) s (resumeHere s (sameSlots s)) := by
  rw [Happens, exec_contextResumption]
  simp only [execContextResumption, ctxOf_of_focused hfocus, onCtx_of_focused hfocus, hlife, hwaits, hstop, hok]
  rfl

theorem tasksAndGangsEndAndStop : TasksAndGangsEndAndStop := by
  intro s cid gang g r u
  refine ⟨retirement_of_quiet, retirement_of_holding, termination_of_alive, preemption_of_placed, forcedStop_of_overdue,
    fun hfocus hlife hknots => ?_, fun hfocus hlife hknots hready => ⟨fun hholds => ?_, fun hholds hstop hdone => ?_⟩,
    resumption_of_stopped⟩
  · exact happens_of_focused hfocus (exec_contextStop_stopTurn cid s) (stopTurn_of_knots hlife hknots)
  · obtain rfl := life_of_focused hfocus
    exact happens_of_focused hfocus (exec_contextStop_stopTurn _ s) (stopTurn_of_holding hlife hknots hready hholds)
  · obtain rfl := life_of_focused hfocus
    exact happens_of_focused hfocus (exec_contextStop_stopTurn _ s) (stopTurn_of_done hlife hknots hready hholds hstop hdone)

/-- Settles O32: each event by the branch of its execution that its conditions choose, and the request by what it does to one context. -/
theorem tasksAndGangsEndStopAndResume : Obligations.TasksAndGangsEndStopAndResume :=
  ⟨tasksAndGangsEndAndStop, preemptionRequestReachesEveryTask⟩

end Sys2Proof.Proofs
end

section
/-! PROOFS. The heads of the engines' queues: the array, the shuttle channels and the queues of commands, and O43. -/

namespace Sys2Proof.Proofs

set_option Elab.async false

open Sys2Proof.Machine Sys2Proof.Claims Sys2Proof.Laws

variable {s u : State} {i : Instr} {cid quad eng k n : Nat} {ch : Bool} {sh : ShCmd} {c : EngCmd} {tc : TileCmd} {rest : List TileCmd}
  {clu : Cluster} {run : State → EngCmd → State × Bool}

/-! ## The array -/

theorem tile_begins (hevict : evictDue s quad = none) (hresume : resumable s quad = none) (hqueue : (s.quad quad).queue = tc :: rest)
    (hidle : (s.quad quad).started = none) (hslots : slotFilling (s.quad quad) tc = false)
    (hreleased : ∀ x, s.ctxOf tc.cid = some x → x.releasedTo tc.after = true) :
    Happens (.tileCommandExecution quad) s (s.onCtx tc.cid (beginTile · quad tc)) := by
  have hdone : ((s.ctxOf tc.cid).map (·.releasedTo tc.after)).getD true = true := by
    cases hctx : s.ctxOf tc.cid with
    | none => rfl
    | some x => exact hreleased x hctx
  rw [Happens, exec_tileCommandExecution, execTileCommandExecution, hevict, hresume]
  dsimp only
  rw [hqueue, hidle]
  exact if_neg (by rw [hslots, hdone]; decide)

theorem tile_ends (hevict : evictDue s quad = none) (hresume : resumable s quad = none) (hqueue : (s.quad quad).queue = tc :: rest)
    (hstarted : (s.quad quad).started = some k) (hdue : k + tc.op.cycles ≤ s.now) (hwaits : headWaits s tc = false) :
    Happens (.tileCommandExecution quad) s (s.onCtx tc.cid (runTile · quad tc)) := by
  rw [Happens, exec_tileCommandExecution, execTileCommandExecution, hevict, hresume]
  dsimp only
  rw [hqueue, hstarted]
  exact if_neg (by rw [hwaits]; exact fun h => h.elim (Nat.not_lt.2 hdue) Bool.false_ne_true)

/-! ## The shuttle channels -/

theorem cmds_of_shuttleHead (h : ShuttleHead s cid ch sh) : ∃ tl, (s.ctx.eng.channel ch).cmds = sh :: tl :=
  List.head?_eq_some_iff.1 h.2.2.2.2.2

theorem serves_of_shuttleHead (h : ShuttleHead s cid ch sh) : (s.ctx.eng.channel ch).serves = true := by
  obtain ⟨tl, hcmds⟩ := cmds_of_shuttleHead h
  obtain ⟨-, -, hrun, -, hupdates, -⟩ := h
  rw [ShQueue.serves, hrun, hupdates, hcmds]
  rfl

theorem shuttle_begins (hhead : ShuttleHead s cid ch sh) (hnew : sh.begun = false) (hreleased : s.ctx.releasedTo sh.after = true)
    (hfree : channelFree s ch = true) (hlink : sh.fill.isSome = true ∨ linkStops s sh = false) :
    Happens (.shuttleCommandBegin cid ch) s (beginShuttle s ch sh) := by
  obtain ⟨tl, hcmds⟩ := cmds_of_shuttleHead hhead
  have hserves := serves_of_shuttleHead hhead
  obtain ⟨hfocus, hruns, -, hgate, -, -⟩ := hhead
  have hgo : (channelFree s ch && !(sh.fill.isNone && linkStops s sh)) = true := by
    rw [hfree]
    rcases hlink with h | h
    · obtain ⟨f, hf⟩ := Option.isSome_iff_exists.1 h
      rw [hf]
      rfl
    · rw [h, Bool.and_false]
      rfl
  rw [Happens, exec_shuttleCommandBegin]
  simp only [execShuttleCommandBegin, ctxOf_of_focused hfocus, hcmds, hruns, hserves, hnew, hgate, hreleased]
  exact eventOn_of_focused hfocus (if_pos hgo)

theorem shuttle_moves (hhead : ShuttleHead s cid ch sh) (hbegun : sh.begun = true) (hgoing : sh.finished = false)
    (hfree : channelFree s ch = true)
    (hmoved : (moveRun { s with shLast := tabSet (channelKey s.ctx ch) s.ctx.slot s.shLast } ch
      (if sh.fill.isSome then 1 else max 1 (prickRun sh.pricking - sh.cur.e))).2 = true) :
    Happens (.shuttleElementMove cid ch) s (moveRun { s with shLast := tabSet (channelKey s.ctx ch) s.ctx.slot s.shLast } ch
      (if sh.fill.isSome then 1 else max 1 (prickRun sh.pricking - sh.cur.e))).1 := by
  obtain ⟨tl, hcmds⟩ := cmds_of_shuttleHead hhead
  have hserves := serves_of_shuttleHead hhead
  obtain ⟨hfocus, hruns, -, hgate, -, -⟩ := hhead
  rw [Happens, exec_shuttleElementMove]
  simp only [execShuttleElementMove, ctxOf_of_focused hfocus, hcmds, hruns, hserves, hbegun, hgoing, hgate]
  exact eventOn_of_focused hfocus ((if_pos hfree).trans (Prod.ext rfl hmoved))

theorem shuttle_completes (hhead : ShuttleHead s cid ch sh) (hfinished : sh.finished = true) :
    Happens (.shuttleCompletion cid ch) s (completeShuttle s ch sh) := by
  obtain ⟨tl, hcmds⟩ := cmds_of_shuttleHead hhead
  obtain ⟨hfocus, hruns, hrun, hgate, hupdates, -⟩ := hhead
  rw [Happens, exec_shuttleCompletion]
  simp only [execShuttleCompletion, ctxOf_of_focused hfocus, onCtx_of_focused hfocus, hcmds, hruns, hrun, hgate, hupdates, hfinished]
  rfl

/-! ## The queues of commands -/

/-- An engine's event runs the head of its queue. -/
theorem queueEvent_of_head (hhead : HeadOf s cid eng c) (hrun : (run s c).2 = true) :
    queueEvent cid eng clu s run = .next { (run s c).1 with verdict := .issued } := by
  obtain ⟨hfocus, hruns, hqueue, hgate, hupdates, hcmds⟩ := hhead
  obtain ⟨tl, hcmds⟩ := List.head?_eq_some_iff.1 hcmds
  simp only [queueEvent, ctxOf_of_focused hfocus, hruns, hqueue, hgate, hupdates, hcmds]
  exact eventOn_of_focused hfocus (Prod.ext rfl hrun)

/-- What an engine does with its head command, once its guard lets it. -/
theorem happens_of_head (hhead : HeadOf s cid eng c) (hexec : exec i s = queueEvent cid eng clu s run) (hgo : run s c = (u, true)) :
    Happens i s u := by
  have hevent := queueEvent_of_head (clu := clu) hhead (congrArg Prod.snd hgo)
  rw [hgo] at hevent
  exact hexec.trans hevent

theorem cutwork_runs (hhead : HeadOf s cid 2 c) (hreleased : s.ctx.releasedTo c.after = true)
    (hrows : ∀ e ∈ c.elems, rowHeld s (localPart e.pa) = false) : Happens (.cutworkExecution cid) s (runCutwork s c) := by
  have hfree : c.elems.any (fun e => rowHeld s (localPart e.pa)) = false :=
    List.any_eq_false.2 fun e he => ne_true_of_eq_false (hrows e he)
  refine happens_of_head hhead exec_cutworkExecution (if_neg ?_)
  rw [hreleased, hfree]
  exact Bool.false_ne_true

theorem couching_runs (hhead : HeadOf s cid 3 c) (hreleased : couchReleased s c = true) (hruns : (runCouching s c).2 = true) :
    Happens (.couchingExecution cid) s (runCouching s c).1 :=
  happens_of_head hhead exec_couchingExecution ((if_pos hreleased).trans (Prod.ext rfl hruns))

theorem enq_runs (hhead : HeadOf s cid 7 c) (hreleased : s.ctx.releasedTo c.after = true) (hruns : (runEnq s c).2 = true) :
    Happens (.queueEngineExecution cid) s (runEnq s c).1 :=
  happens_of_head hhead exec_queueEngineExecution ((if_pos hreleased).trans (Prod.ext rfl hruns))

theorem darn_runs (hhead : HeadOf s cid 4 c) (hreleased : s.ctx.releasedTo c.after = true) (hruns : (runDarn s c).2 = true) :
    Happens (.darningStripe cid) s (runDarn s c).1 :=
  happens_of_head hhead exec_darningStripe ((if_pos hreleased).trans (Prod.ext rfl hruns))

/-- What the Footside engine does with its head command. -/
def footTurn (t : State) (c : EngCmd) : State × Bool :=
  if !t.ctx.releasedTo c.after then (t, false)
  else if c.word.toNat / 2 ^ 20 % 32 = 0 then (runProt t c, true) else (runRndend t c, true)

theorem footTurn_of_released (h : s.ctx.releasedTo c.after = true) :
    footTurn s c = (if c.word.toNat / 2 ^ 20 % 32 = 0 then runProt s c else runRndend s c, true) := by
  rw [footTurn, if_neg (by rw [h]; exact Bool.false_ne_true)]
  split <;> rfl

theorem footside_runs (hhead : HeadOf s cid 6 c) (howed : owedBy s cid = none) (hreleased : s.ctx.releasedTo c.after = true) :
    Happens (.footsideExecution cid) s (if c.word.toNat / 2 ^ 20 % 32 = 0 then runProt s c else runRndend s c) := by
  refine happens_of_head (clu := .A) (run := footTurn) hhead ?_ (footTurn_of_released hreleased)
  rw [exec_footsideExecution, execFootsideExecution, ctxOf_of_focused hhead.1, howed]
  rfl

/-- Settles O43, one lemma for each engine. -/
theorem enginesCarryOutTheirCommands : Obligations.EnginesCarryOutTheirCommands := by
  intro s cid quad k ch sh c tc rest n
  exact ⟨tile_begins, tile_ends, shuttle_begins, shuttle_moves, shuttle_completes, cutwork_runs, couching_runs, enq_runs,
    footside_runs, darn_runs⟩

end Sys2Proof.Proofs
end

section
/-! PROOFS. A page entry that the device keeps twice, and the refutation of O46. -/

namespace Sys2Proof.Proofs

set_option Elab.async false

open Sys2Proof.Machine Sys2Proof.Claims Sys2Proof.Laws

/-! ## The counterexample -/

/-- An entry that the device keeps for the page whose leaf stands at 0x103000: its frame, and its accesses from die 2. -/
def keptEntry (pfn : Nat) (accesses : W16) : PageInfo :=
  { pteAddr := 0x103000, asid := 3, va := 0, size := 0x200000, pfn := pfn, prio := 0, next := none,
    counts := vset (.replicate 6 0) 2 accesses, move := .idle }

/-- Address space 3 with a page at 0, whose frame is 0x200000 of stack 0, and of which the device keeps two entries: one of an earlier
frame without accesses, and behind it that of its frame, with 128 accesses from die 2. A placement boundary is due. -/
def twiceKept : State :=
  { State.reset with
    roots := [(3, 0x100000)], us := 10000, pages := [keptEntry 0x201 0, keptEntry 0x200 128],
    mem := ((((Memory.empty.store 0x100000 8 0x404001).store 0x101000 8 0x408001).store 0x102000 8 0x40C001).store 0x103000 8 0x80025D) }

theorem twiceKept_pages : allPages (nextInterval twiceKept) =
    (leavesIn (nextInterval twiceKept) (List.range 1) 4 0x100000 0).map (fun l => (3, l, pageInfo (nextInterval twiceKept) 3 l)) := by
  have hleaves : leavesFrom (nextInterval twiceKept) 4 0x100000 0 = leavesIn (nextInterval twiceKept) (List.range 1) 4 0x100000 0 :=
    leavesFrom_eq_leavesIn (by decide) rfl rfl rfl rfl (by decide +kernel) 4 0x100000 0 (by decide)
  rw [allPages_of_root (asid := 3) (root := 0x100000) rfl, hleaves]
  rfl

/-- The entry with the accesses is the candidate of the boundary. -/
def movedCandidate : W16 × Leaf × PageInfo × Nat × Nat := (3, ⟨0x80025D, 0x103000, 0, 0x200000⟩, keptEntry 0x200 128, 2, 128)

theorem twiceKept_candidates :
    (allPages (nextInterval twiceKept)).filterMap (candidate (nextInterval twiceKept) true) = [movedCandidate] := by
  rw [twiceKept_pages]
  decide +kernel

/-- The moves of the boundary, with the candidates found. -/
theorem twiceKept_moves : movesStarted (nextInterval twiceKept) = startMoves (nextInterval twiceKept) (fun _ => 0) [movedCandidate] := by
  rw [movesStarted, if_neg (by decide), twiceKept_candidates]
  rfl

/-- After the boundary the entry found is that of the page that moves. -/
theorem twiceKept_after : ((countersShifted (startMoves (nextInterval twiceKept) (fun _ => 0) [movedCandidate])).pages.find?
    (fun x => x.pteAddr == 0x103000)).map (fun q => vget q.counts 2 0) = some 64 := by decide +kernel

/-- Refutes O46: where the device keeps two entries for one leaf, the boundary moves the page of the second, whose entry then stands for
both, so that the counters found at the leaf's address are not the halves of those of the first. -/
theorem not_pagesMoveBetweenTheirTiers : ¬Obligations.PagesMoveBetweenTheirTiers := by
  intro h
  obtain ⟨t, hexec, -, q', hfound, hcounts⟩ :=
    (h twiceKept 0 0 0 0 0 0x103000 true 0 ⟨0, 0, 0, 0⟩ (keptEntry 0 0) (keptEntry 0x201 0) 0).1 (by decide +kernel) (by decide +kernel)
      (by decide +kernel)
  rw [exec_placementBoundary_of_due (by decide +kernel), if_neg (by decide +kernel), twiceKept_moves] at hexec
  obtain rfl := Host.Outcome.next.inj hexec
  have hafter := twiceKept_after
  have hcount : vget q'.counts 2 0 = 0 := hcounts 2 (by decide)
  rw [show (countersShifted (startMoves (nextInterval twiceKept) (fun _ => 0) [movedCandidate])).pages.find?
    (fun x => x.pteAddr == 0x103000) = some q' from hfound, Option.map_some, hcount] at hafter
  exact absurd hafter (by decide)

end Sys2Proof.Proofs
end

section
/-! PROOFS. What records of errors leave as they were (R272, R273): they write the ring of a die as stores do, count, and interrupt a hart;
and what a read at a home leaves. -/

namespace Sys2Proof.Proofs

open Sys2Proof.Machine

variable {s t u : State}

/-- `t` is `s` but for what stores at a home, records of errors and their interrupts change. -/
def RecordedOnly (s t : State) : Prop :=
  t = { s with mem := t.mem, dcache := t.dcache, struck := t.struck, lost := t.lost, wounds := t.wounds, stamps := t.stamps, walks := t.walks,
               groups := t.groups, pending := t.pending, hub := { s.hub with resv := t.hub.resv, irqs := t.hub.irqs } } ∧
  (s.mem.wf = true → t.mem.wf = true)

theorem RecordedOnly.refl (s : State) : RecordedOnly s s := ⟨rfl, id⟩

theorem RecordedOnly.trans (hst : RecordedOnly s t) (htu : RecordedOnly t u) : RecordedOnly s u := by
  obtain ⟨hst, hwf⟩ := hst
  obtain ⟨htu, hwf'⟩ := htu
  refine ⟨?_, hwf' ∘ hwf⟩
  rw [htu, hst]

theorem StoredOnly.recordedOnly (h : StoredOnly s t) : RecordedOnly s t := by
  obtain ⟨h, hwf⟩ := h
  refine ⟨?_, hwf⟩
  rw [h]

theorem RecordedOnly.ctx_eq (h : RecordedOnly s t) : t.ctx = s.ctx := (congrArg State.ctx h.1 :)
theorem RecordedOnly.others_eq (h : RecordedOnly s t) : t.others = s.others := (congrArg State.others h.1 :)
theorem RecordedOnly.flash_eq (h : RecordedOnly s t) : t.flash = s.flash := (congrArg State.flash h.1 :)
theorem RecordedOnly.tamb_eq (h : RecordedOnly s t) : t.tamb = s.tamb := (congrArg State.tamb h.1 :)
theorem RecordedOnly.rowErrors_eq (h : RecordedOnly s t) : t.hub.rowErrors = s.hub.rowErrors :=
  (congrArg (fun u : State => u.hub.rowErrors) h.1 :)

/-! ## Records -/

theorem modLife_recordedOnly (s : State) (f : Lifetime → Lifetime) : RecordedOnly s (s.modLife f) := ⟨rfl, id⟩

theorem irq_recordedOnly (s : State) (die : Nat) (info : W64) : RecordedOnly s (s.irq die info) := ⟨rfl, id⟩

theorem irqLeader_recordedOnly (s : State) (info : W64) : RecordedOnly s (s.irqLeader info) := by
  rw [State.irqLeader]
  split
  · exact irq_recordedOnly _ _ _
  · exact RecordedOnly.refl s

theorem RecordedOnly.putLocal {a n v : Nat} (h : RecordedOnly s t) : RecordedOnly s (t.putLocal a n v) :=
  h.trans (putLocal_storedOnly t a n v).recordedOnly

theorem recordError_recordedOnly (s : State) (e : ErrorInfo) : RecordedOnly s (s.recordError e) := by
  have hcount := modLife_recordedOnly s (fun l => { l with errors := vset l.errors e.cls (vget l.errors e.cls 0 + 1) })
  simp only [State.recordError]
  split
  · exact hcount
  · split
    · exact hcount.putLocal.putLocal.putLocal.putLocal.putLocal
    · exact hcount.putLocal.putLocal.putLocal.putLocal.putLocal.trans (modLife_recordedOnly _ _)

/-- Without a ring a record is only counted. -/
theorem recordError_of_no_ring {e : ErrorInfo} (h : (vget s.dies (ringDie s e.die) .reset).errBase = 0) :
    s.recordError e = s.modLife (fun l => { l with errors := vset l.errors e.cls (vget l.errors e.cls 0 + 1) }) :=
  if_pos (.inr h)

theorem reportError_recordedOnly (s : State) (e : ErrorInfo) : RecordedOnly s (s.reportError e) := by
  have hrecord := recordError_recordedOnly s e
  unfold State.reportError
  dsimp only
  split
  · exact hrecord.trans (irqLeader_recordedOnly _ _)
  · exact hrecord.trans (irq_recordedOnly _ _ _)

/-- An interrupt leaves the lines of the die caches and the errors in memory. -/
theorem irqLeader_lines (s : State) (info : W64) : (s.irqLeader info).lost = s.lost ∧ (s.irqLeader info).dcache = s.dcache := by
  rw [State.irqLeader]
  split <;> exact ⟨rfl, rfl⟩

theorem reportError_lines_of_no_ring {e : ErrorInfo} (h : (vget s.dies (ringDie s e.die) .reset).errBase = 0) :
    (s.reportError e).lost = s.lost ∧ (s.reportError e).dcache = s.dcache := by
  unfold State.reportError
  rw [recordError_of_no_ring h]
  dsimp only
  split
  · exact irqLeader_lines _ _
  · exact ⟨rfl, rfl⟩

/-! ## Reads at a home -/

theorem meetLost_recordedOnly (s : State) (r : Requester) (e : Elem) (pa n : Nat) : RecordedOnly s (s.meetLost r e pa n) := by
  unfold State.meetLost
  dsimp only
  split
  · split
    · exact ((dropStruck_storedOnly _ _).trans (wound_storedOnly _ _ _)).recordedOnly.trans (reportError_recordedOnly _ _)
    · exact reportError_recordedOnly _ _
  · exact reportError_recordedOnly _ _

theorem homeRead_recordedOnly (s : State) (r : Requester) (e : Elem) (pa n : Nat) : RecordedOnly s (s.homeRead r e pa n).1 := by
  unfold State.homeRead
  split
  · exact RecordedOnly.refl s
  · split
    · exact meetLost_recordedOnly _ _ _ _ _
    · exact (foldl_storedOnly (fun _ _ => touchLine_storedOnly _ _ _) _ _).recordedOnly

end Sys2Proof.Proofs
end

section
/-! PROOFS. Uncorrectable and correctable errors, retired frames and the ends of audits (R272 to R275, R279, R280), and O57. -/

namespace Sys2Proof.Proofs

set_option Elab.async false

open Sys2Proof.Machine Sys2Proof.Claims Sys2Proof.Laws

variable {s t : State} {line cid a stack row core port n : Nat} {l : DieLine} {x : Ctx} {au : AuditRun} {sig : W64} {clean : Bool}

/-! ## Errors in lines -/

theorem hbmError_happens (hline : 64 * line < hbmEnd) (habsent : findLine line s.dcache = none) (hgate : s.power.gate = true) :
    Happens (.uncorrectableError (.hbm line)) s (hbmError s line) := by
  refine exec_uncorrectableError.trans (if_neg ?_)
  rw [habsent, hgate]
  rintro (h | h | h)
  · exact Nat.not_le.2 hline h
  · exact absurd h Bool.false_ne_true
  · exact absurd h Bool.false_ne_true

theorem cacheError_happens (hthere : findLine line s.dcache = some l) :
    Happens (.uncorrectableError (.dieCache line none)) s (cacheError s l .nobody none) := by
  rw [Happens, exec_uncorrectableError]
  simp only [execUncorrectableError, hthere, metBy]
  rfl

theorem findLine_dropStruck (h : l.line = line) : findLine line (s.dropStruck l).dcache = none := by
  refine List.find?_eq_none.2 fun m hm => ?_
  have hne := (List.mem_filter.1 hm).2
  simp only [bne_iff_ne, ne_eq, h] at hne
  simpa using hne

theorem line_of_findLine (h : findLine line s.dcache = some l) : l.line = line := by
  simpa using List.find?_some h

/-- A clean line that an error strikes is dropped, and nothing is lost by it. -/
theorem cacheError_of_clean (hthere : findLine line s.dcache = some l) (hclean : l.dirty = false)
    (hring : (vget s.dies (ringDie s (homeDie (stackOf (64 * line)))) .reset).errBase = 0) :
    (cacheError s l .nobody none).lost = s.lost ∧ findLine line (cacheError s l .nobody none).dcache = none := by
  have hline := line_of_findLine hthere
  obtain ⟨hlost, hdcache⟩ := reportError_lines_of_no_ring (s := s.dropStruck l)
    (e := { lineError s 2 l.line with ctx := Requester.nobody.ctx, asid := Requester.nobody.asid, stack := 0xFF, va := 0 })
    (by rw [← hline] at hring; exact hring)
  have herror : cacheError s l .nobody none = (s.dropStruck l).reportError
      { lineError s 2 l.line with ctx := Requester.nobody.ctx, asid := Requester.nobody.asid, stack := 0xFF, va := 0 } :=
    if_neg (ne_true_of_eq_false hclean)
  rw [herror, hlost, hdcache]
  refine ⟨if_neg ?_, findLine_dropStruck hline⟩
  rw [hclean]
  exact fun h => Bool.false_ne_true h.1

/-! ## Errors in a context -/

theorem ctxOf_congr (hctx : t.ctx = s.ctx) (hothers : t.others = s.others) : t.ctxOf cid = s.ctxOf cid := by
  rw [State.ctxOf, State.ctxOf, hctx, hothers]

/-- A change of a context that keeps its id and its life is found under the id. -/
theorem ctxOf_onCtx_modCtx {f : Ctx → Ctx} (hid : ∀ y, (f y).isId cid = y.isId cid) (hx : s.ctxOf cid = some x) :
    (s.onCtx cid (·.modCtx f)).ctxOf cid = some (f x) := by
  by_cases hfocus : s.ctx.isId cid = true
  · rw [onCtx_of_focused hfocus]
    rw [ctxOf_of_focused hfocus] at hx
    obtain rfl := Option.some.inj hx
    exact ctxOf_of_focused (s := s.modCtx f) ((hid _).trans hfocus)
  · have haside : s.ctx.isId cid = false := Bool.eq_false_iff.2 hfocus
    cases hplace : s.others.findIdx? (·.isId cid) with
    | none =>
      rw [State.ctxOf, if_neg hfocus, List.find?_eq_none.2 (by simpa using List.findIdx?_eq_none_iff.1 hplace)] at hx
      exact absurd hx nofun
    | some n =>
      have hlt := aside_lt hplace
      obtain ⟨_, hfound, hfirst⟩ := List.findIdx?_eq_some_iff_getElem.1 hplace
      have hxn : x = s.others[n] := by
        rw [ctxOf_of_aside haside hplace, swapAt_of_lt hlt] at hx
        exact (Option.some.inj hx).symm
      have hback : s.onCtx cid (·.modCtx f) = { s with others := s.others.set n (f s.others[n]) } := by
        rw [State.onCtx, if_neg hfocus, hplace]
        dsimp only
        rw [swapAt_of_lt hlt, State.modCtx, swapAt_of_lt (by simpa using hlt)]
        simp
      rw [hback, State.ctxOf, if_neg hfocus, hxn]
      refine List.find?_eq_some_iff_getElem.2 ⟨(hid _).trans hfound, n, by simpa using hlt, by simp, fun j hj => ?_⟩
      rw [List.getElem_set_of_ne (Nat.ne_of_gt hj)]
      simpa using hfirst j hj

/-- A record of the error leaves the contexts. -/
theorem reportError_ctxOf (s : State) (e : ErrorInfo) (cid : Nat) : (s.reportError e).ctxOf cid = s.ctxOf cid :=
  ctxOf_congr (reportError_recordedOnly s e).ctx_eq (reportError_recordedOnly s e).others_eq

/-- An error marks a word of a scratchpad. -/
def markScratchpad (w : Nat) (y : Ctx) : Ctx := { y with spBad := if y.spBad.contains w then y.spBad else w :: y.spBad }

/-- An error marks a word of bobbin memory, which reads as withheld. -/
def markBobbin (w : Nat) (y : Ctx) : Ctx :=
  { y with bmem := y.bmem.write (w * 4) (abortBytes 4), bmBad := if y.bmBad.contains w then y.bmBad else w :: y.bmBad }

theorem mem_ite_cons {w : Nat} {ws : List Nat} : w ∈ if ws.contains w then ws else w :: ws := by
  split
  case isTrue h => exact List.contains_iff_mem.1 h
  case isFalse => exact List.mem_cons_self

theorem scratchpadError_occurs (hx : s.ctxOf cid = some x) (ha : a < x.spSize) (hresident : x.resident = true) :
    Occurs (.uncorrectableError (.scratchpad cid a)) s (fun t => ∃ y, t.ctxOf cid = some y ∧ a / 4 ∈ y.spBad) := by
  refine occurs_of_happens (u := (s.onCtx cid (·.modCtx (markScratchpad (a / 4)))).reportError (ctxError x 3 0 0)) ?_
    ⟨markScratchpad (a / 4) x, ?_, mem_ite_cons⟩
  · rw [exec_uncorrectableError]
    simp only [execUncorrectableError, hx]
    exact if_neg (by rw [hresident]; exact fun h => h.elim (Nat.not_le.2 ha) Bool.false_ne_true)
  · exact (reportError_ctxOf _ _ cid).trans (ctxOf_onCtx_modCtx (fun _ => rfl) hx)

theorem bobbinError_occurs (hx : s.ctxOf cid = some x) (ha : a < 0x10000) (hresident : x.resident = true) :
    Occurs (.uncorrectableError (.bobbin cid a)) s (fun t => ∃ y, t.ctxOf cid = some y ∧ a / 4 ∈ y.bmBad ∧
      y.bmem = x.bmem.write (a / 4 * 4) (abortBytes 4)) := by
  refine occurs_of_happens (u := (s.onCtx cid (·.modCtx (markBobbin (a / 4)))).reportError (ctxError x 3 0 0)) ?_
    ⟨markBobbin (a / 4) x, ?_, mem_ite_cons, rfl⟩
  · rw [exec_uncorrectableError]
    simp only [execUncorrectableError, hx]
    exact if_neg (by rw [hresident]; exact fun h => h.elim (Nat.not_le.2 ha) Bool.false_ne_true)
  · exact (reportError_ctxOf _ _ cid).trans (ctxOf_onCtx_modCtx (fun _ => rfl) hx)

theorem linkError_happens (hport : port < 30) :
    Happens (.uncorrectableError (.link port none)) s (s.reportError ((plainError 5 hubDie 0).by .nobody)) :=
  exec_uncorrectableError.trans (if_neg (Nat.not_le.2 hport))

/-! ## Correctable errors -/

/-- The correctable errors of the hour, with a new one of the row. -/
def recentErrors (s : State) (stack row : Nat) : List (Nat × Nat × Nat) :=
  (stack, row, s.us) :: s.hub.rowErrors.filter (fun e => decide (s.us < e.2.2 + 3600000000))

def rowCount (s : State) (stack row : Nat) : Nat := ((recentErrors s stack row).filter (fun e => e.1 == stack && e.2.1 == row)).length

/-- The error has been counted for its stack. -/
def countedError (s : State) (stack : Nat) : State :=
  s.modLife (fun f => { f with corrected := vset f.corrected stack (vget f.corrected stack 0 + 1) })

/-- What a row that has reached its limit leaves before its frame is retired. -/
def spentRow (s : State) (stack row : Nat) : State :=
  (countedError s stack).modHub (fun h =>
    { h with rowErrors := (recentErrors s stack row).filter (fun e => !(e.1 == stack && e.2.1 == row)) })

theorem exec_correctableError_of_present (hstack : stack < 16) (hrow : row * 1024 < stackBytes) (hgate : s.power.gate = true) :
    exec (.correctableError stack row) s =
      if rowCount s stack row < bits64 s.hub.smpcfg 8 8 then
        happens ((countedError s stack).modHub (fun h => { h with rowErrors := recentErrors s stack row }))
      else
        happens (retireFrame ((spentRow s stack row).recordError
          { lineError (spentRow s stack row) 10 ((stack * stackBytes + row * 1024) / 64) with va := 0 })
          ((stack * stackBytes + row * 1024) / 4096)) := by
  refine exec_correctableError.trans (if_neg ?_)
  rw [hgate]
  rintro (h | h | h)
  · exact Nat.not_le.2 hstack h
  · exact Nat.not_le.2 hrow h
  · exact absurd h Bool.false_ne_true

theorem correctable_counts (hstack : stack < 16) (hrow : row * 1024 < stackBytes) (hgate : s.power.gate = true)
    (hcount : rowCount s stack row < bits64 s.hub.smpcfg 8 8) :
    Occurs (.correctableError stack row) s (fun t => t.hub.rowErrors = recentErrors s stack row ∧ t.flash = s.flash ∧
      vget t.pending.life.corrected stack 0 = vget s.pending.life.corrected stack 0 + 1) :=
  occurs_of_happens ((exec_correctableError_of_present hstack hrow hgate).trans (if_pos hcount))
    ⟨rfl, rfl, vget_vset_same _ _ _ hstack⟩

theorem correctable_retires (hstack : stack < 16) (hrow : row * 1024 < stackBytes) (hgate : s.power.gate = true)
    (hcount : bits64 s.hub.smpcfg 8 8 ≤ rowCount s stack row) :
    Happens (.correctableError stack row) s (retireFrame ((spentRow s stack row).recordError
      { lineError (spentRow s stack row) 10 ((stack * stackBytes + row * 1024) / 64) with va := 0 })
      ((stack * stackBytes + row * 1024) / 4096)) :=
  (exec_correctableError_of_present hstack hrow hgate).trans (if_neg (Nat.not_lt.2 hcount))

/-! ## Retired frames -/

theorem mem_recordRetired (s : State) (f : Nat) : f ∈ (s.recordRetired f).flash.retired := by
  rw [State.recordRetired]
  split
  case isTrue h => exact List.contains_iff_mem.1 h
  case isFalse => exact List.mem_cons_self

theorem startLeave_flash (s : State) (l : Leaf) (p : PageInfo) : (startLeave s l p).flash = s.flash := by
  unfold startLeave
  dsimp only
  split
  · rfl
  · split <;> rfl

theorem retireFrame_lists (h : ∀ q, frameLeaf s (a * 4096) = some q → ptePIN q.2.1.pte = false ∧ pteCC q.2.1.pte = false) :
    a ∈ (retireFrame s a).flash.retired := by
  unfold retireFrame
  split
  · split
    case isTrue hthere => exact List.contains_iff_mem.1 hthere
    case isFalse => exact mem_recordRetired s a
  case h_2 asid l p hleaf =>
    obtain ⟨hpin, hcc⟩ := h _ hleaf
    dsimp only at hpin hcc ⊢
    rw [hpin, hcc]
    exact (startLeave_flash _ l p).symm ▸ mem_recordRetired _ a

/-! ## Audits -/

/-- The state in which the outcome of a replay is judged. -/
def replayEnded (s : State) (task core : Nat) (sig : W64) (clean : Bool) : State :=
  (endReplay s task).modAudit task (fun c => { c with ended := none, runs := c.runs ++ [(core, sig, clean)] })

/-- What the end of a replay comes to, by the runs before it. -/
def judgeReplay (u : State) (au : AuditRun) (core : Nat) (sig : W64) (clean : Bool) : Result :=
  match au.runs with
  | [] => if clean && sig == au.sig then happens (closeAudit u au 0) else happens (mismatch u au.slots)
  | (core1, sig1, clean1) :: _ =>
    if clean && sig == au.sig then happens (suspect (closeAudit u au 1) core1 8)
    else if clean && clean1 && sig == sig1 then happens (suspect (closeAudit u au 2) au.core 8)
    else happens (([au.core, core1, core].foldl (fun t k => suspect t k 9) (closeAudit u au 3)).irqLeader irqAudit)

theorem exec_auditReplayEnd_of_ended (hfound : s.audits.find? (fun b => b.task == au.task) = some au)
    (houtcome : replayOutcome s au = some (core, sig, clean)) :
    exec (.auditReplayEnd au.task sig core clean) s = judgeReplay (replayEnded s au.task core sig clean) au core sig clean := by
  rw [exec_auditReplayEnd]
  simp only [execAuditReplayEnd, hfound]
  exact if_neg (not_not.2 houtcome)

theorem same_of {b : Bool} {v w : W64} (hclean : b = true) (hsig : v = w) : (b && v == w) = true := by
  rw [hclean, hsig, BEq.rfl]
  rfl

theorem not_same_of {b : Bool} {v w : W64} (h : b = false ∨ v ≠ w) : ¬(b && v == w) = true := by
  rw [Bool.and_eq_true, beq_iff_eq]
  rintro ⟨hb, hvw⟩
  exact h.elim (fun hb' => Bool.false_ne_true (hb'.symm.trans hb)) (fun hne => hne hvw)

/-- Settles O57, one lemma for each site and outcome. -/
theorem errorsWithholdRecordAndRetire : Obligations.ErrorsWithholdRecordAndRetire := by
  intro s line cid a stack row core l x sig clean au port ended recent count
  refine ⟨hbmError_happens, cacheError_happens, fun hthere hclean hring => ?_, scratchpadError_occurs, bobbinError_occurs,
    linkError_happens, correctable_counts, correctable_retires, retireFrame_lists, fun hfound houtcome hruns hclean hsig => ?_,
    fun hfound houtcome hruns hdiffers => ?_, fun first sig1 clean1 hfound houtcome hhead => ?_⟩
  · exact occurs_of_happens (cacheError_happens hthere) (cacheError_of_clean hthere hclean hring)
  · rw [Happens, exec_auditReplayEnd_of_ended hfound houtcome, judgeReplay, hruns]
    exact if_pos (same_of hclean hsig)
  · rw [Happens, exec_auditReplayEnd_of_ended hfound houtcome, judgeReplay, hruns]
    exact if_neg (not_same_of hdiffers)
  · obtain ⟨runs, hruns⟩ := List.head?_eq_some_iff.1 hhead
    have hexec := exec_auditReplayEnd_of_ended hfound houtcome
    rw [judgeReplay, hruns] at hexec
    refine ⟨fun hclean hsig => ?_, fun hclean hclean1 hne hsig1 => ?_, fun hdiffers => ?_⟩
    · exact hexec.trans (if_pos (same_of hclean hsig))
    · exact hexec.trans ((if_neg (not_same_of (.inr hne))).trans (if_pos (same_of (by rw [hclean, hclean1]; rfl) hsig1)))
    · have hne : clean = false ∨ sig ≠ au.sig := hdiffers.imp_right And.left
      have hne1 : (clean && clean1) = false ∨ sig ≠ sig1 := by
        rcases hdiffers with h | ⟨-, h | h⟩
        · exact .inl (by rw [h]; rfl)
        · exact .inl (by rw [h, Bool.and_false])
        · exact .inr h
      exact hexec.trans ((if_neg (not_same_of hne)).trans (if_neg (not_same_of hne1)))

end Sys2Proof.Proofs
end

section
/-! PROOFS. How groups form, beat and are repaired (R253, R258, R262 to R264, R267, R269), and O55. -/

namespace Sys2Proof.Proofs

open Sys2Proof.Machine Sys2Proof.Claims Sys2Proof.Laws

variable {s t : State} {hart gi j line type q : Nat} {v : W64} {m : GroupMsg}

/-! ## The leader's commands -/

theorem gated_leaderWrite {i : Instr} {f : State → State} (hexec : exec i s = if !s.power.gate then notNow s else leaderWrite s hart f)
    (hleader : Leader s hart) (hgate : s.power.gate = true) : Happens i s (f s) :=
  hexec.trans ((if_neg (by rw [hgate]; exact Bool.false_ne_true)).trans
    (leaderWrite_of_leader f hleader.1 hleader.2.1 hleader.2.2))

/-- What FORM makes of an idle slot. -/
def formed (s : State) (gi : Nat) (y : GroupSlot) : State :=
  if badConfig s y then (s.setGroup gi y).irqLeader irqGroup
  else ((s.setGroup gi y).enterState gi .forming).sendJoin gi false (everyOther y)

theorem form_happens (hleader : Leader s hart) (hgate : s.power.gate = true) (hidle : (s.group gi).state = .idle) :
    Happens (.grpcfgForm hart gi v) s (formed s gi ((s.group gi).configure v).fresh) := by
  have h := gated_leaderWrite (i := .grpcfgForm hart gi v) exec_grpcfgForm hleader hgate
  simp only [hidle] at h
  exact h

theorem standby_happens (hleader : Leader s hart) (hgate : s.power.gate = true) (hidle : (s.group gi).state = .idle)
    (hgood : badConfig s ((s.group gi).configure v).fresh = false) :
    Happens (.grpcfgStby hart gi v) s
      (((s.setGroup gi { ((s.group gi).configure v).fresh with
          live := vset ((s.group gi).configure v).fresh.live ((s.group gi).configure v).fresh.self true }).enterState gi .darning).sendJoin
        gi false (everyOther ((s.group gi).configure v).fresh)) := by
  have h := gated_leaderWrite (i := .grpcfgStby hart gi v) exec_grpcfgStby hleader hgate
  simp only [hidle, hgood] at h
  exact h

/-- What ABRT makes of a slot. -/
def abrtEffect (gi : Nat) (v : W64) (s : State) : State :=
  let x := s.group gi
  if x.state = .idle ∧ !v.getLsbD 58 ∧ !v.getLsbD 57 then s.setGroup gi (x.configure v)
  else if x.state ≠ .sealing ∧ x.state ≠ .prepared then s
  else if coordinator x = x.self then
    (if hasCommit s x (headerRound s x) then s else settleDecide (s.setGroup gi { x with abrt := true }) gi)
  else settleSeal (s.setGroup gi { x with abreq := true }) gi

theorem abrt_happens (hleader : Leader s hart) (hgate : s.power.gate = true) :
    Happens (.grpcfgAbrt hart gi v) s (abrtEffect gi v s) := gated_leaderWrite exec_grpcfgAbrt hleader hgate

theorem abrtEffect_of_deciding (h : (s.group gi).state = .sealing ∨ (s.group gi).state = .prepared) :
    abrtEffect gi v s =
      if coordinator (s.group gi) = (s.group gi).self then
        (if hasCommit s (s.group gi) (headerRound s (s.group gi)) then s
         else settleDecide (s.setGroup gi { s.group gi with abrt := true }) gi)
      else settleSeal (s.setGroup gi { s.group gi with abreq := true }) gi := by
  refine (if_neg fun hidle => ?_).trans (if_neg fun hneither => h.elim hneither.1 hneither.2)
  rcases h with h | h
  · exact absurd (h.symm.trans hidle.1) nofun
  · exact absurd (h.symm.trans hidle.1) nofun

theorem abrtEffect_of_idle (hidle : (s.group gi).state = .idle) (h58 : v.getLsbD 58 = false) (h57 : v.getLsbD 57 = false) :
    abrtEffect gi v s = s.setGroup gi ((s.group gi).configure v) := if_pos ⟨hidle, by rw [h58]; rfl, by rw [h57]; rfl⟩

theorem member_happens (hleader : Leader s hart) (hidle : (s.group gi).state = .idle) :
    Happens (.grpmemWrite hart gi j v) s
      (s.setGroup gi { s.group gi with mem := vset (s.group gi).mem j (v &&& 0x03FFFFFFFFFF0000) }) := by
  rw [Happens, exec_grpmemWrite, execGrpmemWrite, leaderWrite_of_leader _ hleader.1 hleader.2.1 hleader.2.2]
  dsimp only
  split
  case h_1 => rfl
  case h_2 h => exact absurd (h.symm.trans hidle) nofun
  case h_3 h => exact absurd (h.symm.trans hidle) nofun
  case h_4 h _ _ => exact absurd hidle h

/-! ## Heartbeats -/

/-- Higher fields leave the low byte. -/
theorem add_mul_two_pow_mod (a b k : Nat) (h : 8 ≤ k) : (a + b * 2 ^ k) % 256 = a % 256 := by
  obtain ⟨d, rfl⟩ := Nat.exists_eq_add_of_le h
  rw [pow_add, Nat.mul_left_comm]
  exact Nat.add_mul_mod_self_left a 256 _

/-- The low byte of a message is its TYPE. -/
theorem messageBits_type (htype : type < 256) (m : GroupMsg) : (messageBits type m).toNat % 256 = type := by
  have hdvd : (256 : Nat) ∣ 2 ^ 1024 := Nat.pow_dvd_pow 2 (show 8 ≤ 1024 by decide)
  unfold messageBits
  dsimp only
  rw [BitVec.toNat_ofNat, Nat.mod_mod_of_dvd _ hdvd]
  rw [add_mul_two_pow_mod _ _ _ (by decide), add_mul_two_pow_mod _ _ _ (by decide), add_mul_two_pow_mod _ _ _ (by decide),
    add_mul_two_pow_mod _ _ _ (by decide), add_mul_two_pow_mod _ _ _ (by decide), add_mul_two_pow_mod _ _ _ (by decide),
    add_mul_two_pow_mod _ _ _ (by decide), add_mul_two_pow_mod _ _ _ (by decide), Nat.mod_eq_of_lt htype]

theorem group_setGroup (hgi : gi < 4) (s : State) (g : GroupSlot) : (s.setGroup gi g).group gi = g := vget_vset_same _ _ _ hgi

/-- Receivers and TYPEs of messages. -/
def kindsOf (ms : List (Nat × BitVec 1024 × Option JoinInfo)) : List (Nat × Nat) := ms.map (fun x => (x.1, x.2.1.toNat % 256))

/-- The slot with a message waiting to leave. -/
def withUnsent (g : GroupSlot) (q type : Nat) (m : GroupMsg) : GroupSlot :=
  { g with unsent := g.unsent ++ [(q, messageBits type { m with seq := vget g.seqOut q 0 }, m.join)],
           seqOut := vset g.seqOut q (vget g.seqOut q 0 + 1) }

theorem send_group (hgi : gi < 4) (s : State) (m : GroupMsg) :
    (s.send gi q type m).group gi =
      if linkUp s then { withUnsent (s.group gi) q type m with
        out := (s.group gi).out ++ (withUnsent (s.group gi) q type m).unsent, unsent := [] }
      else withUnsent (s.group gi) q type m := by
  have hthere := group_setGroup hgi s (withUnsent (s.group gi) q type m)
  have hsend : s.send gi q type m = (s.setGroup gi (withUnsent (s.group gi) q type m)).flushGroup gi := rfl
  rw [hsend, State.flushGroup, hthere]
  split
  case isTrue hup => exact (group_setGroup hgi _ _).trans (if_pos hup).symm
  case isFalse hdown => exact hthere.trans (if_neg hdown).symm

theorem linkUp_send (s : State) (m : GroupMsg) : linkUp (s.send gi q type m) = linkUp s := by
  unfold State.send State.flushGroup
  dsimp only
  split <;> rfl

theorem sendAll_beat (hgi : gi < 4) (dests : List Nat) (s : State) :
    ((s.sendAll gi type m dests).group gi).beat = (s.group gi).beat := by
  induction dests generalizing s with
  | nil => rfl
  | cons q dests ih =>
    refine (ih (s.send gi q type m)).trans ?_
    rw [send_group hgi]
    split <;> rfl

/-- Messages to several members over a link leave at once, in order. -/
theorem sendAll_of_link (hgi : gi < 4) (htype : type < 256) (dests : List Nat) (s : State) (hup : linkUp s = true)
    (hnone : (s.group gi).unsent = []) :
    kindsOf ((s.sendAll gi type m dests).group gi).out = kindsOf (s.group gi).out ++ dests.map (fun q => (q, type)) := by
  induction dests generalizing s with
  | nil => simp [State.sendAll]
  | cons q dests ih =>
    have hsent := send_group (q := q) (type := type) hgi s m
    rw [if_pos hup] at hsent
    have hout := ih (s.send gi q type m) ((linkUp_send s m).trans hup) (by rw [hsent])
    rw [hsent] at hout
    refine hout.trans ?_
    simp [kindsOf, withUnsent, hnone, messageBits_type htype]

/-- Messages to several members without a link wait in order. -/
theorem sendAll_of_no_link (hgi : gi < 4) (htype : type < 256) (dests : List Nat) (s : State) (hdown : linkUp s = false) :
    ((s.sendAll gi type m dests).group gi).out = (s.group gi).out ∧
      kindsOf ((s.sendAll gi type m dests).group gi).unsent = kindsOf (s.group gi).unsent ++ dests.map (fun q => (q, type)) := by
  induction dests generalizing s with
  | nil => exact ⟨rfl, by simp [State.sendAll]⟩
  | cons q dests ih =>
    have hsent := send_group (q := q) (type := type) hgi s m
    rw [if_neg (ne_true_of_eq_false hdown)] at hsent
    obtain ⟨hout, hunsent⟩ := ih (s.send gi q type m) ((linkUp_send s m).trans hdown)
    rw [hsent] at hout hunsent
    refine ⟨hout, hunsent.trans ?_⟩
    simp [kindsOf, withUnsent, messageBits_type htype]

theorem heartbeat_happens (hidle : (s.group gi).state ≠ .idle) (hforming : (s.group gi).state ≠ .forming)
    (hbroken : (s.group gi).state ≠ .broken) (hdue : (s.group gi).beat + 100 ≤ s.us) :
    Happens (.heartbeatTimer gi) s
      ((s.setGroup gi { s.group gi with beat := s.us }).sendAll gi 1 (groupMsg s gi) (everyOther (s.group gi))) := by
  refine exec_heartbeatTimer.trans (if_neg ?_)
  simp [hidle, hforming, hbroken, hdue]

theorem heartbeat_occurs (hgi : gi < 4)
    (hon : (s.group gi).state ≠ .idle ∧ (s.group gi).state ≠ .forming ∧ (s.group gi).state ≠ .broken)
    (hdue : (s.group gi).beat + 100 ≤ s.us) :
    Occurs (.heartbeatTimer gi) s (fun t => (t.group gi).beat = s.us ∧
      (linkUp s = true → (s.group gi).unsent = [] →
        kindsOf (t.group gi).out = kindsOf (s.group gi).out ++ (everyOther (s.group gi)).map (fun q => (q, 1))) ∧
      (linkUp s = false → (t.group gi).out = (s.group gi).out ∧
        kindsOf (t.group gi).unsent = kindsOf (s.group gi).unsent ++ (everyOther (s.group gi)).map (fun q => (q, 1)))) := by
  have hthere := group_setGroup hgi s { s.group gi with beat := s.us }
  have hlink := sendAll_of_link (type := 1) (m := groupMsg s gi) hgi (by decide) (everyOther (s.group gi))
    (s.setGroup gi { s.group gi with beat := s.us })
  have hno := sendAll_of_no_link (type := 1) (m := groupMsg s gi) hgi (by decide) (everyOther (s.group gi))
    (s.setGroup gi { s.group gi with beat := s.us })
  rw [hthere] at hlink hno
  refine occurs_of_happens (heartbeat_happens hon.1 hon.2.1 hon.2.2 hdue) ⟨?_, hlink, hno⟩
  exact (sendAll_beat hgi _ _).trans (congrArg GroupSlot.beat hthere)

/-! ## Loss and repair -/

theorem loss_happens (hidle : (s.group gi).state ≠ .idle) (hbroken : (s.group gi).state ≠ .broken) (hother : j ≠ (s.group gi).self)
    (hlive : vget (s.group gi).live j false = true) (hsilent : (s.group gi).hbto ≤ vget (s.group gi).silent j 0) :
    Happens (.memberLoss gi j) s
      (loseMember (s.sendAll gi 11 { groupMsg s gi with member := j } (otherLive (s.group gi))) gi j) := by
  refine exec_memberLoss.trans (if_neg ?_)
  simp [hidle, hbroken, hother, hlive, hsilent]

/-- Settles O55: the leader's commands by the branch of their effect, the heartbeats by what each message adds to its queue. -/
theorem groupsFormBeatAndRepair : Obligations.GroupsFormBeatAndRepair := by
  intro s hart gi j line v shares g y got members on
  refine ⟨fun hleader hgate hidle hgood => ?_, fun hleader hgate hidle hbad => ?_, standby_happens,
    fun hleader hgate hdeciding hself hopen => ?_, fun hleader hgate hdeciding hother => ?_, fun hleader hgate hidle h58 h57 => ?_,
    member_happens, heartbeat_occurs, loss_happens, fun hline hlocked hmembers => ?_⟩
  · exact (form_happens hleader hgate hidle).trans (by rw [formed, if_neg (ne_true_of_eq_false hgood)])
  · exact (form_happens hleader hgate hidle).trans (by rw [formed, if_pos hbad])
  · refine (abrt_happens hleader hgate).trans ?_
    rw [abrtEffect_of_deciding hdeciding, if_pos hself, if_neg (ne_true_of_eq_false hopen)]
  · refine (abrt_happens hleader hgate).trans ?_
    rw [abrtEffect_of_deciding hdeciding, if_neg hother]
  · refine (abrt_happens hleader hgate).trans ?_
    rw [abrtEffect_of_idle hidle h58 h57]
  · refine exec_protectedLineRepair.trans ((if_neg (Nat.not_le.2 hline)).trans (if_neg ?_))
    exact fun h => h.elim (fun hne => hne hlocked) (Nat.not_lt.2 hmembers)

end Sys2Proof.Proofs
end

section
/-! PROOFS. The leader's commands on queues and translations (R162, R218, R225, R227, R230, R284, R285, R289, R290), and O50. -/

namespace Sys2Proof.Proofs

open Sys2Proof.Machine Sys2Proof.Claims Sys2Proof.Laws

variable {s t : State} {i : Instr} {hart k : Nat} {v : W64} {h : HwSlot} {f : State → State} {q peer : W16}

theorem leaderWrite_of_other (hother : ¬Leader s hart) : leaderWrite s hart f = happens s.countDropped := if_neg hother

theorem leaderWrite_of (hleader : Leader s hart) : leaderWrite s hart f = happens (f s) :=
  leaderWrite_of_leader f hleader.1 hleader.2.1 hleader.2.2

theorem gated_of_open {r : Result} (hgate : s.power.gate = true) : gated s r = r := if_pos hgate

/-! ## Notifies -/

theorem exec_qnotify_of_leader (hleader : Leader s hart) (hgate : s.power.gate = true) :
    exec (.qnotify hart v) s = happens (Machine.notify s (bits64 v 32 16) (v.setWidth 32)) :=
  exec_qnotify.trans ((gated_of_open hgate).trans (leaderWrite_of hleader))

theorem notify_of_unable {qid : Nat} {w : W32} (hdesc : (readDesc s qid).en = false ∨ (readDesc s qid).devenq = true) :
    Machine.notify s qid w = s.countQueueError qid := by
  have hunable : (!(readDesc s qid).en || (readDesc s qid).devenq) = true := by
    rcases hdesc with h | h
    · rw [h]
      rfl
    · rw [h, Bool.or_true]
  unfold Machine.notify
  dsimp only
  exact if_pos hunable

/-- A notify that moves the write index forward within the ring takes it. -/
theorem notify_of_forward {qid : Nat} {w : W32} (hslot : slotOfQueue s qid = some (k, h)) (hen : (readDesc s qid).en = true)
    (hdev : (readDesc s qid).devenq = false) (hforward : 0 < (w - h.widx).toInt)
    (hroom : (w - h.ridx).toNat ≤ 2 ^ (readDesc s qid).sizelg) : Machine.notify s qid w = s.setHwSlot k { h with widx := w } := by
  have hindices : queueIndices s qid = (h.widx, h.ridx) := by rw [queueIndices, hslot]
  have hwake : s.wakeQueue qid w = s.setHwSlot k { h with widx := w } := by rw [State.wakeQueue, hslot]
  unfold Machine.notify
  simp only [hindices, hen, hdev, hforward, hroom, hwake]
  rfl

theorem qnotify_occurs (hleader : Leader s hart) (hgate : s.power.gate = true) (hslot : slotOfQueue s (bits64 v 32 16) = some (k, h))
    (hen : (readDesc s (bits64 v 32 16)).en = true) (hdev : (readDesc s (bits64 v 32 16)).devenq = false)
    (hforward : 0 < ((v.setWidth 32 : W32) - h.widx).toInt)
    (hroom : ((v.setWidth 32 : W32) - h.ridx).toNat ≤ 2 ^ (readDesc s (bits64 v 32 16)).sizelg) :
    Occurs (.qnotify hart v) s (fun t => tabGet k t.tamb.slots = some { h with widx := v.setWidth 32 }) := by
  have hexec := exec_qnotify_of_leader (v := v) hleader hgate
  rw [notify_of_forward hslot hen hdev hforward hroom] at hexec
  exact occurs_of_happens hexec (tabGet_setHwSlot s k { h with widx := v.setWidth 32 })

/-- NQCLR clears the entries of a pair. -/
def clearedPair (q peer : W16) (x : W16 × W16 × Nat × Bool) : W16 × W16 × Nat × Bool :=
  if x.1 = q ∧ x.2.1 = peer then (x.1, x.2.1, 0, false) else x

theorem nqclr_occurs (hleader : Leader s hart) : Occurs (.nqclr hart q peer) s (fun t =>
    (∀ x ∈ t.tamb.pairs, x.1 = q → x.2.1 = peer → x.2.2 = (0, false)) ∧
    ∀ x ∈ s.tamb.pairs, x.1 ≠ q ∨ x.2.1 ≠ peer → x ∈ t.tamb.pairs) := by
  refine occurs_of_happens (u := { s with tamb := { s.tamb with pairs := s.tamb.pairs.map (clearedPair q peer) } })
    (exec_nqclr.trans (leaderWrite_of hleader)) ⟨fun x hx hq hpeer => ?_, fun x hx hne => ?_⟩
  · obtain ⟨y, -, rfl⟩ := List.mem_map.1 hx
    by_cases hy : y.1 = q ∧ y.2.1 = peer
    · rw [clearedPair, if_pos hy]
    · rw [clearedPair, if_neg hy] at hq hpeer
      exact absurd ⟨hq, hpeer⟩ hy
  · exact List.mem_map.2 ⟨x, hx, if_neg fun hboth => hne.elim (· hboth.1) (· hboth.2)⟩

/-! ## QMAPCMD -/

theorem qmapWrite_of_busy (hleader : Leader s hart) (hbusy : s.hub.qmapcmd.getLsbD 63 = true) : qmapWrite s hart f = happens s :=
  (leaderWrite_of hleader).trans (congrArg happens (if_pos hbusy))

theorem qmapWrite_of_idle (hleader : Leader s hart) (hidle : s.hub.qmapcmd.getLsbD 63 = false) : qmapWrite s hart f = happens (f s) :=
  (leaderWrite_of hleader).trans (congrArg happens (if_neg (ne_true_of_eq_false hidle)))

theorem exec_map_eq (hmode : bits64 v 58 2 ≠ 1) (hgate : s.power.gate = true) : ∃ f, exec (.qmapcmdMap hart v) s = qmapWrite s hart f :=
  ⟨_, exec_qmapcmdMap.trans (if_neg (by rw [hgate]; exact fun hor => hor.elim hmode (absurd · Bool.false_ne_true)))⟩

theorem exec_unmap_eq (hmode : bits64 v 58 2 ≠ 0) (hgate : s.power.gate = true) : ∃ f, exec (.qmapcmdUnmap hart v) s = qmapWrite s hart f :=
  ⟨_, exec_qmapcmdUnmap.trans (if_neg (by rw [hgate]; exact fun hor => hor.elim hmode (absurd · Bool.false_ne_true)))⟩

theorem map_happens (hleader : Leader s hart) (hgate : s.power.gate = true) (hmode : bits64 v 58 2 = 0)
    (hidle : s.hub.qmapcmd.getLsbD 63 = false) (hnew : slotOfQueue s (bits64 v 0 16) = none)
    (hfree : tabGet (bits64 v 32 9) s.tamb.slots = none) (hgood : (readDesc s (bits64 v 0 16)).bad = false)
    (hen : (readDesc s (bits64 v 0 16)).en = true) :
    Happens (.qmapcmdMap hart v) s
      (qmapResult (mapQueue s (bits64 v 32 9) (bits64 v 0 16) (readDesc s (bits64 v 0 16))) v 0) := by
  rw [Happens, exec_qmapcmdMap, execQmapcmdMap, if_neg (by rw [hmode, hgate]; decide), qmapWrite_of_idle hleader hidle]
  simp only [hmode, hnew, hfree, hgood, hen]
  rfl

/-- The slot that a map of a descriptor fills. -/
theorem mapQueue_slot (s : State) (n qid : Nat) (d : Desc) : ∃ x, tabGet n (mapQueue s n qid d).tamb.slots = some x ∧
    x.qid = qid ∧ x.asid = d.asid ∧ x.ring = d.ring ∧ x.prio = d.prio ∧ x.eff = d.prio :=
  ⟨_, tabGet_setHwSlot _ n _, rfl, rfl, rfl, rfl, rfl⟩

theorem qmapResult_busy (s : State) (v : W64) (sts : Nat) : (qmapResult s v sts).hub.qmapcmd.getLsbD 63 = true := by
  simp [qmapResult]

theorem settleQmap_code (s : State) (v : W64) : bits64 (settleQmap (qmapResult s v 0)).hub.qmapcmd 60 4 = 0 := by
  have hsettled : (settleQmap (qmapResult s v 0)).hub.qmapcmd =
      ((qmapResult s v 0).hub.qmapcmd &&& 0x0C0001FF0000FFFF) ||| BitVec.ofNat 64 (0 * 2 ^ 60) := rfl
  have hlow : ((qmapResult s v 0).hub.qmapcmd &&& 0x0C0001FF0000FFFF).toNat ≤ 0x0C0001FF0000FFFF := by
    rw [BitVec.toNat_and]
    exact Nat.and_le_right
  rw [hsettled, Nat.zero_mul, show BitVec.ofNat 64 0 = (0 : W64) from rfl, show ∀ x : W64, x ||| 0 = x from fun _ => BitVec.or_zero, bits64]
  omega

theorem map_occurs (hleader : Leader s hart) (hgate : s.power.gate = true) (hmode : bits64 v 58 2 = 0)
    (hidle : s.hub.qmapcmd.getLsbD 63 = false) (hnew : slotOfQueue s (bits64 v 0 16) = none)
    (hfree : tabGet (bits64 v 32 9) s.tamb.slots = none) (hgood : (readDesc s (bits64 v 0 16)).bad = false)
    (hen : (readDesc s (bits64 v 0 16)).en = true) :
    Occurs (.qmapcmdMap hart v) s (fun t => t.hub.qmapcmd.getLsbD 63 = true ∧ bits64 (settleQmap t).hub.qmapcmd 60 4 = 0 ∧
      ∃ x, tabGet (bits64 v 32 9) t.tamb.slots = some x ∧ x.qid = bits64 v 0 16 ∧ x.asid = (readDesc s (bits64 v 0 16)).asid ∧
        x.ring = (readDesc s (bits64 v 0 16)).ring ∧ x.prio = (readDesc s (bits64 v 0 16)).prio ∧
        x.eff = (readDesc s (bits64 v 0 16)).prio) := by
  have hmap := map_happens hleader hgate hmode hidle hnew hfree hgood hen
  have hslot := mapQueue_slot s (bits64 v 32 9) (bits64 v 0 16) (readDesc s (bits64 v 0 16))
  generalize mapQueue s (bits64 v 32 9) (bits64 v 0 16) (readDesc s (bits64 v 0 16)) = u at hmap hslot
  exact occurs_of_happens hmap ⟨qmapResult_busy u v 0, settleQmap_code u v, hslot⟩

theorem unmap_happens (hleader : Leader s hart) (hgate : s.power.gate = true) (hmode : bits64 v 58 2 = 1)
    (hidle : s.hub.qmapcmd.getLsbD 63 = false) (hslot : slotOfQueue s (bits64 v 0 16) = some (k, h)) :
    Happens (.qmapcmdUnmap hart v) s (qmapResult (unmapQueue s k h false) v 0) := by
  rw [Happens, exec_qmapcmdUnmap, execQmapcmdUnmap, if_neg (by rw [hmode, hgate]; decide), qmapWrite_of_idle hleader hidle]
  simp only [hmode, hslot]
  rfl

/-! ## XINV -/

theorem xinvWrite_of_mode {ms : List Nat} {drop : TlbEntry → Bool} {hit : W16 → W64 → Bool} (hmode : ms.contains (bits64 v 61 2) = true) :
    xinvWrite s hart v ms drop hit =
      leaderWrite s hart (fun t => if t.hub.xinv.getLsbD 63 ∨ bits64 v 61 2 = 3 then t else invalidate t v drop hit) :=
  if_neg (by rw [hmode]; exact Bool.false_ne_true)

theorem xinvWrite_of_leader {ms : List Nat} {drop : TlbEntry → Bool} {hit : W16 → W64 → Bool} (hleader : Leader s hart)
    (hmode : ms.contains (bits64 v 61 2) = true) (hthree : bits64 v 61 2 ≠ 3) (hidle : s.hub.xinv.getLsbD 63 = false) :
    xinvWrite s hart v ms drop hit = happens (invalidate s v drop hit) :=
  (xinvWrite_of_mode hmode).trans ((leaderWrite_of hleader).trans
    (congrArg happens (if_neg (by rw [hidle]; exact fun hor => hor.elim Bool.false_ne_true hthree))))

theorem invalidate_tlb (s : State) (v : W64) (drop : TlbEntry → Bool) (hit : W16 → W64 → Bool) :
    (invalidate s v drop hit).tlb = s.tlb.filter (fun e => !drop e) := rfl

theorem xinvPage_occurs (hleader : Leader s hart) (hmode : bits64 v 61 2 = 0) (hidle : s.hub.xinv.getLsbD 63 = false) :
    Occurs (.xinvPage hart v) s (fun t => ∀ x, x ∈ t.tlb ↔ x ∈ s.tlb ∧ ¬(x.asid = BitVec.ofNat 16 (bits64 v 45 16) ∧
      x.base ≤ bits64 v 0 45 * 4096 ∧ bits64 v 0 45 * 4096 < x.base + x.size)) := by
  refine occurs_of_happens (exec_xinvPage.trans (xinvWrite_of_leader hleader (by rw [hmode]; rfl) (by rw [hmode]; decide) hidle)) fun x => ?_
  rw [show ∀ u : State, ({ u with verdict := .issued } : State).tlb = u.tlb from fun _ => rfl, invalidate_tlb, List.mem_filter]
  rw [Bool.not_eq_true', ← Bool.not_eq_true]
  simp only [Bool.and_eq_true, beq_iff_eq, decide_eq_true_eq, and_assoc, xinvAsid]

theorem xinvAsid_occurs (hleader : Leader s hart) (hmode : bits64 v 61 2 = 1) (hidle : s.hub.xinv.getLsbD 63 = false) :
    Occurs (.xinvAsid hart v) s (fun t => ∀ x, x ∈ t.tlb ↔ x ∈ s.tlb ∧ x.asid ≠ BitVec.ofNat 16 (bits64 v 45 16)) := by
  refine occurs_of_happens (exec_xinvAsid.trans (xinvWrite_of_leader hleader (by rw [hmode]; rfl) (by rw [hmode]; decide) hidle)) fun x => ?_
  rw [show ∀ u : State, ({ u with verdict := .issued } : State).tlb = u.tlb from fun _ => rfl, invalidate_tlb, List.mem_filter]
  simp [xinvAsid]

theorem xinvAll_occurs (hleader : Leader s hart) (hmode : bits64 v 61 2 = 2) (hidle : s.hub.xinv.getLsbD 63 = false) :
    Occurs (.xinvAll hart v) s (fun t => t.tlb = []) :=
  occurs_of_happens (exec_xinvAll.trans (xinvWrite_of_leader hleader (by rw [hmode]; rfl) (by rw [hmode]; decide) hidle))
    (List.filter_eq_nil_iff.2 fun _ _ => Bool.false_ne_true)

/-! ## Other harts -/

theorem dropped_of_leaderWrite (hother : ¬Leader s hart) (hexec : exec i s = leaderWrite s hart f) : Happens i s s.countDropped :=
  hexec.trans (leaderWrite_of_other hother)

theorem warmReset_dropped (hother : ¬Leader s hart) : Happens (.rstctlWarmReset hart) s s.countDropped :=
  dropped_of_leaderWrite hother (exec_rstctlWarmReset.trans (if_neg fun h => hother h.2))

/-- Settles O50: each command as the leader's, and as another hart's. -/
theorem queueAndTranslationCommands : Obligations.QueueAndTranslationCommands := by
  intro s hart k v h src msg q peer i qid w d page m
  refine ⟨qnotify_occurs, fun hleader hgate hdesc => ?_, fun hport hgate => ?_, nqclr_occurs, map_occurs, unmap_happens,
    fun hleader hgate hbusy hi => ?_, xinvPage_occurs, xinvAsid_occurs, xinvAll_occurs, fun hother hgate hi => ?_⟩
  · exact (exec_qnotify_of_leader hleader hgate).trans (congrArg happens (notify_of_unable (w := w) hdesc))
  · exact exec_remoteNotify.trans ((if_pos hport).trans (gated_of_open hgate))
  · rcases hi with ⟨rfl, hmode⟩ | ⟨rfl, hmode⟩
    · obtain ⟨f, hexec⟩ := exec_map_eq (hart := hart) (v := v) (by rw [hmode]; decide) hgate
      exact hexec.trans (qmapWrite_of_busy hleader hbusy)
    · obtain ⟨f, hexec⟩ := exec_unmap_eq (hart := hart) (v := v) (by rw [hmode]; decide) hgate
      exact hexec.trans (qmapWrite_of_busy hleader hbusy)
  · rcases hi with rfl | rfl | ⟨rfl, hmode⟩ | ⟨rfl, hmode⟩ | ⟨rfl, hmode⟩ | rfl | rfl | rfl | rfl
    · exact exec_qnotify.trans ((gated_of_open hgate).trans (leaderWrite_of_other hother))
    · exact dropped_of_leaderWrite hother exec_nqclr
    · obtain ⟨f, hexec⟩ := exec_map_eq (hart := hart) hmode hgate
      exact hexec.trans (leaderWrite_of_other hother)
    · obtain ⟨f, hexec⟩ := exec_unmap_eq (hart := hart) hmode hgate
      exact hexec.trans (leaderWrite_of_other hother)
    · exact dropped_of_leaderWrite hother (exec_xinvPage.trans (xinvWrite_of_mode (by rw [hmode]; rfl)))
    · exact dropped_of_leaderWrite (f := (leaderReg · .plctl v)) hother exec_registerWrite
    · exact warmReset_dropped hother
    · exact dropped_of_leaderWrite hother exec_rstctlColdReset
    · exact dropped_of_leaderWrite hother exec_rstctlPtok

end Sys2Proof.Proofs
end

section
/-! PROOFS. Harts and peers at the home of a byte (R274, R283, R299 to R301, R305), and O53. -/

namespace Sys2Proof.Proofs

open Sys2Proof.Machine Sys2Proof.Claims Sys2Proof.Laws

variable {s : State} {die a n : Nat} {v : W64} {w : BitVec 2048} {op : BitVec 4} {r : FabricReq} {acc : HartAccess} {writes : Bool}

theorem heldAway_of_free {e : Elem} (h : writeWaits s e n = false) : heldAway s e n = false := by
  rw [writeWaits, Bool.or_eq_false_iff, Bool.or_eq_false_iff] at h
  exact h.1.2

/-! ## Harts -/

/-- An access of a hart once the gate is open. -/
theorem exec_hartAccess (hdie : die < 6) (hgate : s.power.gate = true) (hok : hartAtomicOk acc = true)
    (hrange : hartRange acc = some (a, n, writes)) :
    exec (.supervisorHartAccess die acc) s =
      if hbmEnd < a + n then .fault (.noSuchAddress a)
      else if heldAway s (physElem s a 0) n || (writes && writeWaits s (physElem s a 0) n) then notNow s
      else happens (hartAccess s die (physElem s a 0) acc) := by
  have hgo : ¬(6 ≤ die ∨ (!s.power.gate) = true ∨ (!hartAtomicOk acc) = true) := by
    rw [hgate, hok]
    simpa using hdie
  rw [exec_supervisorHartAccess, execSupervisorHartAccess, if_neg hgo, hrange]

/-- It is made at the home once nothing holds it. -/
theorem hartAccess_happens (hdie : die < 6) (hgate : s.power.gate = true) (hok : hartAtomicOk acc = true)
    (hrange : hartRange acc = some (a, n, writes)) (hin : a + n ≤ hbmEnd) (haway : heldAway s (physElem s a 0) n = false)
    (hfree : writes = true → writeWaits s (physElem s a 0) n = false) :
    Happens (.supervisorHartAccess die acc) s (hartAccess s die (physElem s a 0) acc) := by
  have hgo : (heldAway s (physElem s a 0) n || (writes && writeWaits s (physElem s a 0) n)) = false := by
    rw [haway, Bool.false_or, Bool.and_eq_false_imp]
    exact hfree
  rw [Happens, exec_hartAccess hdie hgate hok hrange, if_neg (Nat.not_lt.2 hin), hgo]
  rfl

theorem fence_happens (hdie : die < 6) (hgate : s.power.gate = true) : Happens (.supervisorHartAccess die .fence) s s := by
  refine exec_supervisorHartAccess.trans (if_neg ?_)
  rw [hgate]
  simpa [hartAtomicOk] using hdie

theorem hartLoad_get (s : State) (x : Option (List Byte)) (hdie : die < 6) : vget (s.hartLoad die x).hub.hartLoads die none = x :=
  vget_vset_same _ _ _ hdie

theorem load_occurs (hdie : die < 6) (hgate : s.power.gate = true) (hin : a + n ≤ hbmEnd)
    (haway : heldAway s (physElem s a 0) n = false) :
    Occurs (.supervisorHartAccess die (.load a n)) s
      (fun t => vget t.hub.hartLoads die none = (s.homeRead .nobody (physElem s a 0) a n).2) :=
  occurs_of_happens (hartAccess_happens hdie hgate rfl rfl hin haway nofun) (hartLoad_get _ _ hdie)

theorem atomic_happens (hdie : die < 6) (hgate : s.power.gate = true)
    (hacc : acc = .lr a n ∨ acc = .sc a n v ∨ (acc = .amo a n op v ∧ op.toNat < 9)) (hsize : n = 4 ∨ n = 8) (haligned : a % n = 0)
    (hin : a + n ≤ hbmEnd) (hfree : writeWaits s (physElem s a 0) n = false) :
    Happens (.supervisorHartAccess die acc) s (hartAccess s die (physElem s a 0) acc) := by
  have hword : ((n == 4 || n == 8) && a % n == 0) = true := by simpa [haligned] using hsize
  rcases hacc with rfl | rfl | ⟨rfl, hop⟩
  · exact hartAccess_happens hdie hgate hword rfl hin (heldAway_of_free hfree) nofun
  · exact hartAccess_happens hdie hgate hword rfl hin (heldAway_of_free hfree) fun _ => hfree
  · have hok : hartAtomicOk (.amo a n op v) = true := by
      rw [hartAtomicOk, hword]
      simpa using hop
    exact hartAccess_happens hdie hgate hok rfl hin (heldAway_of_free hfree) fun _ => hfree

/-- A store-conditional without its reservation stores nothing and gives 1. -/
theorem storeConditional_of_no_reservation (e : Elem) (hresv : vget s.hub.resv die none ≠ some (a, n)) :
    hartAccess s die e (.sc a n v) = (s.hartLoad die (some (natBytes 1 n))).setResv die none := by
  have hnot : (vget s.hub.resv die none == some (a, n)) = false := beq_eq_false_iff_ne.2 hresv
  unfold hartAccess
  dsimp only
  rw [hnot]
  rfl

/-! ## Peers -/

theorem exec_ualinkRequest_of_open (hport : portOpen s 0 18 = true) (hrecovery : s.power.recovery = false) :
    exec (.ualinkRequest r) s =
      if !reqSupported r then happens s.countDropped
      else if hbmEnd < (reqRange r).1 + (reqRange r).2 then .fault (.noSuchAddress (reqRange r).1)
      else if s.power.gate then servePeer r s
      else happens (s.modHub (fun h => { h with peerWaits := h.peerWaits ++ [(r, s.time)] })) :=
  exec_ualinkRequest.trans (if_neg (by rw [hport, hrecovery]; decide))

/-- A supported request in range is served once the gate is open. -/
theorem exec_ualinkRequest_of_served (hport : portOpen s 0 18 = true) (hgate : s.power.gate = true) (hrecovery : s.power.recovery = false)
    (hkind : reqSupported r = true) (hin : (reqRange r).1 + (reqRange r).2 ≤ hbmEnd) :
    exec (.ualinkRequest r) s = servePeer r s := by
  rw [exec_ualinkRequest_of_open hport hrecovery, hkind, if_neg (Nat.not_lt.2 hin), if_pos hgate]
  rfl

theorem peerAtomic_of_free {f : Nat → Option Nat} (hfree : writeWaits s (physElem s a 0x200) n = false) :
    peerAtomic s a n f id =
      happens ((s.atomic .nobody none (physElem s a 0x200) n f).1.reply
        ((s.atomic .nobody none (physElem s a 0x200) n f).2.map (fun o => natBytes o n))) := by
  unfold peerAtomic
  simp only [hfree, id, ite_self]
  rfl

/-- Settles O53: the accesses of harts by `hartAccess_happens`, those of peers by the request that is served. -/
theorem hartsAndPeersReachMemoryAtItsHome : Obligations.HartsAndPeersReachMemoryAtItsHome := by
  intro s die a n v w op r b c pl acc e f up
  refine ⟨fence_happens, load_occurs, fun hdie hgate hin hfree => ?_, fun hdie hgate hout => ?_, atomic_happens, fun hresv hdie => ?_,
    fun hup hsize hin haway => ?_, fun hup hsize hin hfree => ?_, fun hup hsize hop hin hfree => ?_, fun hport hrecovery hkind => ?_,
    fun hport hrecovery hgate hkind hin => ?_, fun hbad => ?_, fun src msg hport hgate hrecovery => ?_, fun hport hrecovery => ?_⟩
  · exact hartAccess_happens hdie hgate rfl rfl hin (heldAway_of_free hfree) fun _ => hfree
  · rw [exec_hartAccess hdie hgate rfl rfl]
    exact if_pos hout
  · rw [storeConditional_of_no_reservation e hresv]
    exact ⟨hartLoad_get s _ hdie, rfl, rfl⟩
  · obtain ⟨hport, hgate, hrecovery⟩ := hup
    exact (exec_ualinkRequest_of_served (r := .read a n) hport hgate hrecovery (decide_eq_true hsize) hin).trans
      (if_neg (ne_true_of_eq_false haway))
  · obtain ⟨hport, hgate, hrecovery⟩ := hup
    exact (exec_ualinkRequest_of_served (r := .write a n w) hport hgate hrecovery (decide_eq_true hsize) hin).trans
      (if_neg (ne_true_of_eq_false hfree))
  · obtain ⟨hport, hgate, hrecovery⟩ := hup
    have hkind : reqSupported (.atomic a n op v) = true := by
      rw [reqSupported, Bool.and_eq_true, decide_eq_true_eq]
      exact ⟨by simpa using hsize, hop⟩
    have hserved : servePeer (.atomic a n op v) s = peerAtomic s a n (fun o => some (amoValue op n o (v.toNat % 2 ^ (8 * n)))) id := rfl
    rw [Happens, exec_ualinkRequest_of_served hport hgate hrecovery hkind hin, hserved, peerAtomic_of_free hfree]
    rfl
  · exact (exec_ualinkRequest_of_open hport hrecovery).trans (if_pos (by rw [hkind]; rfl))
  · rw [Happens, exec_ualinkRequest_of_open hport hrecovery, hkind, if_neg (Nat.not_lt.2 hin), hgate]
    rfl
  · refine exec_uetPacket.trans (if_pos ?_)
    rcases hbad with rfl | rfl
    · rfl
    · rw [Bool.not_false, Bool.or_true]
  · exact exec_uetPacket.trans ((if_neg Bool.false_ne_true).trans
      ((if_neg (by rw [hport, hrecovery]; decide)).trans (gated_of_open hgate)))
  · exact exec_uetPacket.trans ((if_neg Bool.false_ne_true).trans (if_neg (by rw [hport, hrecovery]; decide)))

end Sys2Proof.Proofs
end

section
/-! PROOFS. The packets at the heads of ready queues (R28, R217 to R224, R228 to R231, R233), and O47. -/

namespace Sys2Proof.Proofs

open Sys2Proof.Machine Sys2Proof.Claims Sys2Proof.Laws

variable {s s1 : State} {k code type : Nat} {h : HwSlot} {p : BitVec 512} {i : Instr} {act : HwSlot → BitVec 512 → Result}
  {inputs : List (W64 × W64)} {g : Gang} {seats : List Seat} {streams : List W64} {ks : List W32} {e : TlbEntry} {el : Elem}
  {bs : List Byte}

/-- An event of a head packet is what its action on the packet comes to. -/
theorem exec_of_packet {r : Result} (hexec : exec i s = atHead s k type act) (hp : PacketAt s k type h p) (hact : act h p = r) :
    exec i s = r := hexec.trans ((atHead_of_packet hp).trans hact)

theorem not_not_wins (hwins : wins s k h = true) : ¬(!wins s k h) = true := by
  rw [hwins]
  exact Bool.false_ne_true

/-! ## Consumption -/

/-- A slot whose head packet has been consumed. -/
def consumedSlot (h : HwSlot) : HwSlot :=
  { h with ridx := h.ridx + 1, eff := h.prio, aging := 0, headWait := 0, reserving := false, valid := none, waitsig := none, fault := none }

theorem consume_slot (s : State) (k : Nat) (h : HwSlot) : tabGet k (s.consume k h).tamb.slots = some (consumedSlot h) :=
  tabGet_setHwSlot (noteHead s h) k (consumedSlot h)

/-- What a read of the Tambour leaves of the Tambour. -/
theorem hubRead_tamb {asid : W16} {va : W64} {n : Nat} (hread : hubRead s asid va n = some (s1, bs)) : s1.tamb = s.tamb := by
  obtain ⟨q, -, hq⟩ := Option.map_eq_some_iff.1 hread
  obtain rfl : ((s.remember q.2).homeRead { Requester.nobody with asid := asid.toNat } q.1 q.1.pa n).1 = s1 := congrArg Prod.fst hq
  exact (homeRead_recordedOnly _ _ _ _ _).tamb_eq.trans (congrArg State.tamb (remember_walkedOnly s q.2) :)

theorem noteHead_tamb (s : State) (h : HwSlot) : (noteHead s h).tamb = s.tamb := by
  rw [noteHead]
  cases hread : hubRead s h.asid (headVa h) 64 with
  | none => rfl
  | some r => exact hubRead_tamb hread

theorem consume_nextGang (s : State) (k : Nat) (h : HwSlot) : (s.consume k h).tamb.nextGang = s.tamb.nextGang := by
  have hnote : (s.consume k h).tamb.nextGang = (noteHead s h).tamb.nextGang := rfl
  rw [hnote, noteHead_tamb]

theorem nop_happens (hp : PacketAt s k 0 h p) (hwins : wins s k h = true) : Happens (.nopPacket k) s (s.consume k h) :=
  exec_of_packet exec_nopPacket hp (if_pos hwins)

/-! ## LAUNCH -/

/-- The state of a launch that has been validated. -/
def launched (s : State) (k : Nat) (h : HwSlot) (p : BitVec 512) (inputs : List (W64 × W64)) : State :=
  let g := launchGang s k h p inputs
  let s1 := s.setHwSlot k { h with valid := some g.id, fault := none }
  { s1 with tamb := { s1.tamb with gangs := s1.tamb.gangs ++ [g], nextGang := g.id + 1 } }

theorem launch_happens (hp : PacketAt s k 1 h p) (hnew : h.valid = none) (hwaits : launchWaits s h.asid p = false)
    (hcheck : checkLaunch s h.asid p = .ok inputs) : Happens (.launch k) s (launched s k h p inputs) := by
  refine exec_of_packet (exec_launch.trans (by rw [execLaunch])) hp ?_
  simp only [hnew, hwaits, hcheck, Option.isSome_none, Bool.or_self, Bool.false_eq_true, if_false]
  rfl

theorem launch_rejected (hp : PacketAt s k 1 h p) (hnew : h.valid = none) (hwaits : launchWaits s h.asid p = false)
    (hcheck : checkLaunch s h.asid p = .error code) (hwins : wins s k h = true) :
    Happens (.launch k) s (reject (if code = 6 then reportLaunch s h.asid p else s) k h p code) := by
  refine exec_of_packet (exec_launch.trans (by rw [execLaunch])) hp ?_
  simp only [hnew, hwaits, hcheck, Option.isSome_none, Bool.or_self, Bool.false_eq_true, if_false, eventIf, hwins, if_true]
  rfl

theorem launched_slot : tabGet k (launched s k h p inputs).tamb.slots = some { h with valid := some s.tamb.nextGang, fault := none } :=
  tabGet_setHwSlot s k _

theorem launchGang_mem : launchGang s k h p inputs ∈ (launched s k h p inputs).tamb.gangs :=
  List.mem_append_right _ (List.mem_singleton_self _)

theorem placement_happens (hp : PacketAt s k 1 h p) (hwins : wins s k h = true) (hplace : placementOf s k h = some (g, seats))
    (hentry : readEntry s g.id g.asid (pkEntry p) = some (streams, ks)) (hstream : ∃ a ∈ streams, a ≠ 0) :
    Happens (.gangPlacement k) s (startGang ((settleLate s (seatQuadIds seats)).consume k h) g streams ks seats) := by
  have hall : streams.all (· == 0) = false := by
    obtain ⟨a, ha, hne⟩ := hstream
    exact List.all_eq_false.2 ⟨a, ha, by simpa using hne⟩
  refine exec_of_packet (exec_gangPlacement.trans (by rw [execGangPlacement])) hp ?_
  simp only [hwins, hplace, hentry, hall, Bool.not_true, Bool.false_eq_true, if_false]
  rfl

theorem placement_dropped (hp : PacketAt s k 1 h p) (hwins : wins s k h = true) (hplace : placementOf s k h = some (g, seats))
    (hheld : statusHeld s h.asid (pkStatus p) = false)
    (hentry : readEntry s g.id g.asid (pkEntry p) = none ∨
      readEntry s g.id g.asid (pkEntry p) = some (streams, ks) ∧ ∀ a ∈ streams, a = 0) :
    Happens (.gangPlacement k) s (dropLaunch s k h p g) := by
  refine exec_of_packet (exec_gangPlacement.trans (by rw [execGangPlacement])) hp ?_
  obtain hentry | ⟨hentry, hzero⟩ := hentry
  · simp only [hwins, hplace, hentry, hheld, eventIf, Bool.not_true, Bool.not_false, Bool.false_eq_true, if_false, if_true]
    rfl
  · have hall : streams.all (· == 0) = true := List.all_eq_true.2 fun a ha => by simp [hzero a ha]
    simp only [hwins, hplace, hentry, hheld, hall, eventIf, Bool.not_true, Bool.not_false, Bool.false_eq_true, if_false, if_true]
    rfl

/-! ## WAITSIG and SETSIG -/

theorem waitsig_passes (hp : PacketAt s k 2 h p) (hread : hubRead s h.asid (pkWord p 1) 8 = some (s1, bs))
    (htest : signalTest p (leNat bs) = true) (hwins : wins s k h = true) : Happens (.waitsig k) s (s1.consume k h) := by
  refine exec_of_packet (exec_waitsig.trans (by rw [execWaitsig])) hp ?_
  simp only [hread, htest, hwins, eventIf, Bool.not_true, Bool.false_eq_true, if_false, if_true]
  rfl

theorem waitsig_sleeps (hp : PacketAt s k 2 h p) (hread : hubRead s h.asid (pkWord p 1) 8 = some (s1, bs))
    (htest : signalTest p (leNat bs) = false) :
    Happens (.waitsig k) s (s1.setHwSlot k { h with waitsig := some (pkWord p 1), fault := none }) := by
  refine exec_of_packet (exec_waitsig.trans (by rw [execWaitsig])) hp ?_
  simp only [hread, htest, Bool.not_false, if_true]
  rfl

theorem setsig_happens (hp : PacketAt s k 3 h p) (helem : hubElem s h.asid .write (pkWord p 1) 8 = some (el, e)) (hwins : wins s k h = true) :
    let r := ((s.consume k h).remember e).atomic { Requester.nobody with asid := h.asid.toNat } none el 8
      (fun o => some (if (pkWord p 0).getLsbD 9 then (pkWord p 2).toNat else (o + (pkWord p 2).toNat) % 2 ^ 64))
    Happens (.setsig k) s (if r.2.isSome ∧ pteRMT e.pte = false then r.1.wakePage h.asid (pkWord p 1) else r.1) := by
  refine exec_of_packet (exec_setsig.trans (by rw [execSetsig])) hp ?_
  simp only [helem, hwins, Bool.not_true, Bool.false_eq_true, if_false, Bool.not_eq_true']
  rfl

/-! ## MARK -/

/-- The gangs of a queue that have been placed, saved or done. -/
def queueGangs (s : State) (qid : Nat) : List Gang := s.tamb.gangs.filter (fun g => g.qid == qid && (g.placed || g.saved || g.done))

/-- The gangs that a MARK of this queue counts in its job record. -/
def cutGangs (s : State) (qid : Nat) : List Nat :=
  ((queueGangs s qid).filter (fun g => decide ((tabGet qid s.tamb.cuts).getD 0 ≤ g.id))).map (·.id)

/-- The gangs at whose end a MARK of this queue and chain marks the chain's lines. -/
def chainEnds (s : State) (qid chain : Nat) : List Nat :=
  ((queueGangs s qid).filter (fun g => pkChain g.packet == chain && !g.done)).map (·.id)

theorem mem_chainEnds {qid chain x : Nat} : x ∈ chainEnds s qid chain ↔
    ∃ y ∈ s.tamb.gangs, y.id = x ∧ y.qid = qid ∧ (y.placed = true ∨ y.saved = true) ∧ pkChain y.packet = chain ∧ y.done = false := by
  simp only [chainEnds, queueGangs, List.mem_map, List.mem_filter, Bool.and_eq_true, Bool.or_eq_true, beq_iff_eq, Bool.not_eq_true']
  constructor
  · rintro ⟨y, ⟨⟨hy, hq, hpl⟩, hc, hd⟩, hx⟩
    refine ⟨y, hy, hx, hq, hpl.resolve_right (by simp [hd]), hc, hd⟩
  · rintro ⟨y, hy, hx, hq, hpl, hc, hd⟩
    exact ⟨y, ⟨⟨hy, hq, .inl hpl⟩, hc, hd⟩, hx⟩

/-- A MARK's entry for the end of its chain. -/
def withMark (w : W64) (chain : Nat) (ends : List Nat) (t : Tambour) : Tambour :=
  if w.getLsbD 9 && chain != 0 then { t with marks := t.marks ++ [(chain, ends)] } else t

/-- A MARK's cut of the job record. -/
def withCut (w dst : W64) (qid : Nat) (cut : List Nat) (t : Tambour) : Tambour :=
  if w.getLsbD 10 then { t with jobs := t.jobs ++ [(qid, dst, cut)], cuts := tabSet qid t.nextGang t.cuts } else t

theorem irqLeader_tamb (s : State) (info : W64) : (s.irqLeader info).tamb = s.tamb := (irqLeader_recordedOnly s info).tamb_eq

theorem foldl_irqLeader_tamb {α : Type} (l : List α) (info : W64) (s : State) :
    (l.foldl (fun t _ => t.irqLeader info) s).tamb = s.tamb := by
  induction l generalizing s with
  | nil => rfl
  | cons x l ih => exact (ih _).trans (irqLeader_tamb s info)

theorem settleJobs_tamb (s : State) : ∃ jobs, (settleJobs s).tamb = { s.tamb with jobs := jobs } :=
  ⟨_, foldl_irqLeader_tamb _ _ _⟩

/-- The state of a MARK before the job records that are ready are settled. -/
def marked (s : State) (k : Nat) (h : HwSlot) (p : BitVec 512) : State :=
  { s.consume k h with
    tamb := withCut (pkWord p 0) (pkWord p 1) h.qid (cutGangs s h.qid)
      (withMark (pkWord p 0) (pkChain p) (chainEnds s h.qid (pkChain p)) (s.consume k h).tamb) }

theorem mark_happens (hp : PacketAt s k 4 h p) (hwins : wins s k h = true) : Happens (.mark k) s (settleJobs (marked s k h p)) :=
  exec_of_packet (act := fun h p => if !wins s k h then notNow s else happens (settleJobs (marked s k h p))) (exec_mark.trans rfl) hp
    (if_neg (not_not_wins hwins))

theorem withCut_marks (w dst : W64) (qid : Nat) (cut : List Nat) (t : Tambour) : (withCut w dst qid cut t).marks = t.marks := by
  unfold withCut
  split <;> rfl

theorem withMark_nextGang (w : W64) (chain : Nat) (ends : List Nat) (t : Tambour) : (withMark w chain ends t).nextGang = t.nextGang := by
  unfold withMark
  split <;> rfl

theorem mem_withMark {w : W64} {chain : Nat} (ends : List Nat) (t : Tambour) (hbit : w.getLsbD 9 = true) (hchain : chain ≠ 0) :
    (chain, ends) ∈ (withMark w chain ends t).marks := by
  rw [withMark, if_pos (by simp [hbit, hchain])]
  exact List.mem_append_right _ (List.mem_singleton_self _)

theorem withCut_cut {w : W64} (dst : W64) (qid : Nat) (cut : List Nat) (t : Tambour) (hbit : w.getLsbD 10 = true) :
    tabGet qid (withCut w dst qid cut t).cuts = some t.nextGang := by
  rw [withCut, if_pos hbit]
  exact (tabGet_tabSet _ _ _ _).trans (if_pos rfl)

theorem mark_occurs (hp : PacketAt s k 4 h p) (hwins : wins s k h = true) : Occurs (.mark k) s (fun t =>
    ((pkWord p 0).getLsbD 9 = true → pkChain p ≠ 0 → ∃ gs, (pkChain p, gs) ∈ t.tamb.marks ∧ ∀ x, x ∈ gs ↔
      ∃ y ∈ s.tamb.gangs, y.id = x ∧ y.qid = h.qid ∧ (y.placed = true ∨ y.saved = true) ∧ pkChain y.packet = pkChain p ∧ y.done = false) ∧
    ((pkWord p 0).getLsbD 10 = true → tabGet h.qid t.tamb.cuts = some s.tamb.nextGang)) := by
  refine occurs_of_happens (mark_happens hp hwins) ?_
  obtain ⟨jobs, hjobs⟩ := settleJobs_tamb (marked s k h p)
  have hmarks : (settleJobs (marked s k h p)).tamb.marks = (marked s k h p).tamb.marks := (congrArg Tambour.marks hjobs :)
  have hcuts : (settleJobs (marked s k h p)).tamb.cuts = (marked s k h p).tamb.cuts := (congrArg Tambour.cuts hjobs :)
  rw [hmarks, hcuts, marked, withCut_marks]
  refine ⟨fun hbit hchain => ⟨_, mem_withMark _ _ hbit hchain, fun x => mem_chainEnds⟩, fun hbit => ?_⟩
  rw [withCut_cut _ _ _ _ hbit, withMark_nextGang, consume_nextGang]

theorem packetReject_happens (hslot : tabGet k s.tamb.slots = some h) (hready : headReady s h = some p) (hbad : badPacket p = some code)
    (hwins : wins s k h = true) : Happens (.packetReject k) s (reject s k h p code) := by
  refine exec_packetReject.trans ?_
  simp only [execPacketReject, hslot, hready, hbad, hwins, if_true]
  rfl

/-- Settles O47: each packet's action on the slot that holds it, by the branch that its premises choose. -/
theorem headPacketsAreCarriedOut : Obligations.HeadPacketsAreCarriedOut := by
  unfold Obligations.HeadPacketsAreCarriedOut
  intro s k code h p inputs g seats streams ks e el s1 bs
  refine ⟨consume_slot s k h, nop_happens, fun hp hnew hwaits hcheck => ?_, launch_rejected, placement_happens, placement_dropped,
    waitsig_passes, waitsig_sleeps, setsig_happens, mark_occurs, packetReject_happens⟩
  exact occurs_of_happens (launch_happens hp hnew hwaits hcheck) ⟨launched_slot, _, launchGang_mem, rfl, rfl, rfl, rfl, rfl⟩

end Sys2Proof.Proofs
end

section
/-! PROOFS. Stores and the lines that they push out (R146, R182), and O42. -/

namespace Sys2Proof.Proofs

set_option Elab.async false

open Sys2Proof.Machine Sys2Proof.Claims Sys2Proof.Laws

variable {s t : State} {cid idx : Nat}

theorem mem_of_performed (hfocus : Focused s cid) (hperformable : performable s idx = true)
    (hexec : exec (.globalAccessPerformed cid idx) s = .next t) : t.mem = (s.performAt idx).mem := by
  have hperformed := happens_of_focused hfocus exec_globalAccessPerformed (if_pos hperformable)
  obtain rfl := Host.Outcome.next.inj (hperformed.symm.trans hexec)
  rfl

/-! ## The counterexample -/

/-- A store of two bytes, of which the second lies behind the last byte of the package's address space. -/
def lastByteStore : Access :=
  { num := 0, loadQ := false, issuer := .A, kind := .store, elems := [⟨0x803E, 2 ^ 46 - 1, 0x80035D, 0x200000⟩], size := 2, data := 0x1234,
    cls := some 0, ord := 0, scope := 0, seen := false }

/-- A modified line. -/
def modifiedLine (line : Nat) : DieLine := { line := line, data := 7, dirty := true, chain := 0, demoted := false, key := 0, channel := 0 }

/-- The store stands at the head of the queue of context 1, while the set of the line behind the address space, number 2^40, is full of
modified lines. -/
def fullSet : State :=
  { State.reset with
    power := { State.reset.power with gate := true },
    ctx := { State.reset.ctx with cid := 1, life := .ready, gq := [lastByteStore], nextAcc := 1 },
    dcache := (List.range 16).map fun k => modifiedLine (2 ^ 40 - (k + 1) * cacheSets) }

theorem fullSet_focused : Focused fullSet 1 := by
  rw [Focused]
  decide +kernel

theorem fullSet_performable : performable fullSet 0 = true := by decide +kernel

/-- The statement asks for room for the lines of the store with their numbers cut to the address space: line 2^40 counts as line 0. -/
theorem fullSet_room : ∀ ln ∈ linesOf (2 ^ 46 - 1) 2, protLine fullSet (64 * ln) = none ∧
    ((findLine (localPart (64 * ln) / 64) fullSet.dcache).isSome = true ∨ victimOf fullSet (localPart (64 * ln) / 64) = none) := by
  decide +kernel

/-- The store pushes the modified line used longest ago out of the set of line 2^40, to HBM. -/
theorem fullSet_performed : (fullSet.performAt 0).mem.get (64 * (2 ^ 40 - 16 * cacheSets)) = 7 ∧
    fullSet.mem.get (64 * (2 ^ 40 - 16 * cacheSets)) = 0 := by decide +kernel

/-- Refutes O42: a store that runs over the end of the package's address space takes a line of a full set, whose own number the statement's
premise on room does not ask about, and a modified line goes to HBM. -/
theorem not_aGlobalStoreWritesOnlyItsBytes : ¬Obligations.AGlobalStoreWritesOnlyItsBytes := by
  rintro ⟨-, hstore⟩
  obtain ⟨t, hexec, -, -, -, hmem, -⟩ := hstore fullSet 1 0 lastByteStore _ fullSet_focused rfl fullSet_performable rfl rfl rfl rfl fullSet_room
    List.Pairwise.nil
  obtain ⟨hafter, hbefore⟩ := fullSet_performed
  rw [← mem_of_performed fullSet_focused fullSet_performable hexec, hmem, hbefore] at hafter
  exact absurd hafter (by decide)

end Sys2Proof.Proofs
end

section
/-! PROOFS. What the operations of a task's instructions can change (R284): of the hub die only registered pod hoops, interrupts and
reservations, and of HBM and the capacity tier nothing that takes them out of their canonical form. -/

namespace Sys2Proof.Proofs

set_option Elab.async false

open Sys2Proof.Machine Sys2Proof.Laws

variable {s t u : State}

/-- What belongs to the supervisor: the registers of the hub die but for registered pod hoops, interrupts and reservations, flash, reset and
power, the roots of the page tables, and the clocks. -/
def supervised (s : State) : Hub × Flash × Power × List (Nat × Nat) × Nat × Nat :=
  ({ s.hub with podHoops := [], irqs := [], resv := .replicate 6 none }, s.flash, s.power, s.roots, s.now, s.us)

/-- `t` is a state that a task's operations may make of `s`. -/
def TaskOnly (s t : State) : Prop := supervised t = supervised s ∧ t.cap = s.cap ∧ (s.mem.wf = true → t.mem.wf = true)

theorem TaskOnly.refl (s : State) : TaskOnly s s := ⟨rfl, rfl, id⟩

theorem TaskOnly.trans (hst : TaskOnly s t) (htu : TaskOnly t u) : TaskOnly s u := by
  obtain ⟨hsup, hcap, hwf⟩ := hst
  obtain ⟨hsup', hcap', hwf'⟩ := htu
  exact ⟨hsup'.trans hsup, hcap'.trans hcap, hwf' ∘ hwf⟩

theorem RecordedOnly.taskOnly (h : RecordedOnly s t) : TaskOnly s t := by
  obtain ⟨h, hwf⟩ := h
  exact ⟨(congrArg supervised h :), (congrArg State.cap h :), hwf⟩

theorem StoredOnly.taskOnly (h : StoredOnly s t) : TaskOnly s t := h.recordedOnly.taskOnly

theorem WalkedOnly.taskOnly (h : WalkedOnly s t) : TaskOnly s t := by
  have hmem : t.mem = s.mem := (congrArg State.mem h :)
  exact ⟨(congrArg supervised h :), (congrArg State.cap h :), fun hwf => hmem ▸ hwf⟩

theorem TaskOnly.foldl {α : Type} {f : State → α → State} (hf : ∀ u a, TaskOnly s u → TaskOnly s (f u a)) (h : TaskOnly s t) (l : List α) :
    TaskOnly s (l.foldl f t) := by
  induction l generalizing t with
  | nil => exact h
  | cons a l ih => exact ih (hf t a h)

/-! ## Contexts -/

theorem TaskOnly.withCtx {x : Ctx} (h : TaskOnly s t) : TaskOnly s { t with ctx := x } := h.trans ⟨rfl, rfl, id⟩

theorem TaskOnly.withTamb {x : Tambour} (h : TaskOnly s t) : TaskOnly s { t with tamb := x } := h.trans ⟨rfl, rfl, id⟩

theorem TaskOnly.withOwners {l : List (Nat × Nat)} (h : TaskOnly s t) : TaskOnly s { t with owners := l } := h.trans ⟨rfl, rfl, id⟩

theorem TaskOnly.modCtx {f : Ctx → Ctx} (h : TaskOnly s t) : TaskOnly s (t.modCtx f) := h.withCtx

theorem TaskOnly.writeAt {n : Nat} {e : Effect} (h : TaskOnly s t) : TaskOnly s (t.writeAt n e) := h.modCtx

theorem TaskOnly.abortAt {n : Nat} {b : Bool} (h : TaskOnly s t) : TaskOnly s (t.abortAt n b) := by
  rw [State.abortAt]
  split
  · exact h.writeAt
  · exact h

theorem TaskOnly.readsNext {b : Nat} (h : TaskOnly s t) : TaskOnly s (t.readsNext b) := by
  rw [State.readsNext, State.readsLost]
  exact h.abortAt

theorem TaskOnly.swapAt {i : Nat} (h : TaskOnly s t) : TaskOnly s (t.swapAt i) := by
  rw [State.swapAt]
  split
  · exact h.trans ⟨rfl, rfl, id⟩
  · exact h

theorem TaskOnly.onCtx {cid : Nat} {f : State → State} (hf : ∀ u, TaskOnly s u → TaskOnly s (f u)) (h : TaskOnly s t) :
    TaskOnly s (t.onCtx cid f) := by
  rw [State.onCtx]
  split
  · exact hf t h
  · split
    · exact (hf _ h.swapAt).swapAt
    · exact h

theorem TaskOnly.logResult {c : Cluster} {v : W64} (h : TaskOnly s t) : TaskOnly s (t.logResult c v).1 := by
  unfold State.logResult
  split
  · exact h.withCtx
  · split
    · exact h.modCtx
    · exact h

/-! ## Translation, errors and lines -/

theorem TaskOnly.fetched {va : W64} (h : TaskOnly s t) : TaskOnly s (t.fetched va) := h.trans (fetched_walkedOnly _ _).taskOnly

theorem TaskOnly.remember {e : TlbEntry} (h : TaskOnly s t) : TaskOnly s (t.remember e) := h.trans (remember_walkedOnly _ _).taskOnly

theorem TaskOnly.rememberAll {l : List TlbEntry} (h : TaskOnly s t) : TaskOnly s (t.rememberAll l) :=
  h.trans (rememberAll_walkedOnly _ _).taskOnly

theorem TaskOnly.meetLost {r : Requester} {e : Elem} {pa n : Nat} (h : TaskOnly s t) : TaskOnly s (t.meetLost r e pa n) :=
  h.trans (meetLost_recordedOnly _ _ _ _ _).taskOnly

theorem TaskOnly.homeRead {r : Requester} {e : Elem} {pa n : Nat} (h : TaskOnly s t) : TaskOnly s (t.homeRead r e pa n).1 :=
  h.trans (homeRead_recordedOnly _ _ _ _ _).taskOnly

theorem TaskOnly.keyedWrite {e : W64} {page a : Nat} {bs : List Byte} (h : TaskOnly s t) : TaskOnly s (t.keyedWrite e page a bs) :=
  h.trans (keyedWrite_storedOnly _ _ _ _ _).taskOnly

theorem TaskOnly.putLocal {a n v : Nat} (h : TaskOnly s t) : TaskOnly s (t.putLocal a n v) := h.trans (putLocal_storedOnly _ _ _ _).taskOnly

theorem TaskOnly.fetchError {va : W64} (h : TaskOnly s t) : TaskOnly s (t.fetchError va) := by
  rw [State.fetchError]
  split
  · exact h
  · split
    · exact h.meetLost
    · exact h

theorem TaskOnly.logLines {pa n : Nat} (h : TaskOnly s t) : TaskOnly s (t.logLines pa n) := by
  rw [State.logLines]
  refine TaskOnly.foldl (fun v ln hv => ?_) h _
  split
  · split
    · exact hv.trans (logLine_storedOnly _ _ _ _).taskOnly
    · exact hv
  · exact hv

/-! ## Hoops, pages and signals -/

theorem TaskOnly.putHoop {gang h : Nat} {r : HoopRec} {i : HoopInst} (hst : TaskOnly s t) : TaskOnly s (t.putHoop gang h r i) := by
  rw [State.putHoop]
  split
  · exact hst.trans ⟨rfl, rfl, id⟩
  · split
    · exact hst.trans ⟨rfl, rfl, id⟩
    · exact hst

theorem TaskOnly.countLeave {h : Nat} {r : HoopRec} (hst : TaskOnly s t) : TaskOnly s (countLeave t h r) := by
  unfold Machine.countLeave
  split
  · exact hst.putHoop
  · exact hst

theorem TaskOnly.countArrival {h : Nat} (hst : TaskOnly s t) : TaskOnly s (countArrival t h) := by
  unfold Machine.countArrival
  dsimp only
  split
  · exact hst.putHoop
  · exact hst

theorem TaskOnly.putPage {p : PageInfo} (h : TaskOnly s t) : TaskOnly s (t.putPage p) := h.trans ⟨rfl, rfl, id⟩

theorem TaskOnly.countAccess {die n : Nat} {asid : W16} {va : W64} (h : TaskOnly s t) : TaskOnly s (t.countAccess die asid va n) := by
  rw [State.countAccess]
  split
  · exact h
  · split
    · exact h
    · exact h.putPage

theorem TaskOnly.cancelEviction {pa : Nat} (h : TaskOnly s t) : TaskOnly s (t.cancelEviction pa) := h.trans ⟨rfl, rfl, id⟩

theorem TaskOnly.postWake {q : Nat} (h : TaskOnly s t) : TaskOnly s (t.postWake q) := h.putLocal.withTamb

theorem TaskOnly.wakePage {asid : W16} {va : W64} (h : TaskOnly s t) : TaskOnly s (t.wakePage asid va) := by
  rw [State.wakePage]
  exact TaskOnly.foldl (fun v q hv => hv.postWake (q := q.1)) h.withTamb _

theorem TaskOnly.dropRecords {asid : W16} {a : W64} (h : TaskOnly s t) : TaskOnly s (t.dropRecords asid a) := h.trans ⟨rfl, rfl, id⟩

/-! ## L1 -/

theorem TaskOnly.setL1 {core : Nat} {l : L1} (h : TaskOnly s t) : TaskOnly s (t.setL1 core l) := h.trans ⟨rfl, rfl, id⟩

theorem TaskOnly.dropWord {core word : Nat} (h : TaskOnly s t) : TaskOnly s (dropWord t core word) := h.setL1

theorem TaskOnly.selfInvalidate (h : TaskOnly s t) : TaskOnly s t.selfInvalidate := by
  rw [State.selfInvalidate]
  split
  · exact h
  · exact h.setL1

theorem TaskOnly.evictL1Line {core line : Nat} (h : TaskOnly s t) : TaskOnly s (evictL1Line t core line) := h.setL1

theorem TaskOnly.makeRoomL1 {core : Nat} (h : TaskOnly s t) : TaskOnly s (makeRoomL1 t core) := by
  unfold Machine.makeRoomL1
  dsimp only
  split
  · exact h
  · exact TaskOnly.evictL1Line (h.trans ⟨rfl, rfl, id⟩)

theorem TaskOnly.ownWord {core word : Nat} {e : Elem} (h : TaskOnly s t) : TaskOnly s (ownWord core e t word) := by
  unfold Machine.ownWord
  dsimp only
  split
  · split
    · split
      · exact h.withOwners.setL1
      · exact h.withOwners
    · split
      · exact h.dropWord.withOwners.setL1
      · exact h.dropWord.withOwners
  · split
    · exact h.withOwners.setL1
    · exact h.withOwners

theorem TaskOnly.disownWord {word : Nat} (h : TaskOnly s t) : TaskOnly s (disownWord t word) := by
  unfold Machine.disownWord
  split
  · exact h.dropWord.withOwners
  · exact h

theorem TaskOnly.fillL1 {e : Elem} {line : Nat} (h : TaskOnly s t) : TaskOnly s (t.fillL1 e line).1 := by
  have hread : TaskOnly s ((t.countAccess t.ctx.die t.ctx.asid e.va 1).homeRead t.ctx.requester e (64 * line) 64).1 := h.countAccess.homeRead
  unfold State.fillL1
  dsimp only
  split
  next s1 heq =>
    rw [heq] at hread
    exact hread
  next s1 bs heq =>
    rw [heq] at hread
    refine TaskOnly.setL1 ?_
    split
    · split
      · exact hread.evictL1Line
      · exact hread.evictL1Line.makeRoomL1
    · split
      · exact hread
      · exact hread.makeRoomL1

theorem TaskOnly.fillLines {e : Elem} {pa n : Nat} {lines : List Nat} (h : TaskOnly s t) : TaskOnly s (t.fillLines e pa n lines).1 := by
  induction lines generalizing t with
  | nil => exact h
  | cons line lines ih =>
    rw [State.fillLines]
    dsimp only
    split
    · exact ih h.fillL1
    · exact ih h

theorem TaskOnly.l1Read {e : Elem} {n : Nat} (h : TaskOnly s t) : TaskOnly s (t.l1Read e n).1 := by
  have hfill := h.fillLines (e := e) (pa := e.pa) (n := n)
    (lines := (List.range ((e.pa + n + 63) / 64 - e.pa / 64)).map (fun i => e.pa / 64 + i))
  unfold State.l1Read
  dsimp only
  split
  next s1 heq =>
    rw [heq] at hfill
    exact hfill
  next s1 heq =>
    rw [heq] at hfill
    exact hfill

/-! ## Accesses -/

theorem TaskOnly.remoteSet {a : Nat} {bs : List Byte} (h : TaskOnly s t) : TaskOnly s (t.remoteSet a bs) := by
  induction bs generalizing t a with
  | nil => exact h
  | cons b bs ih => exact ih (h.trans ⟨rfl, rfl, id⟩)

theorem TaskOnly.homeWrite {e : Elem} {bs : List Byte} (h : TaskOnly s t) : TaskOnly s (t.homeWrite e bs) := by
  rw [State.homeWrite]
  split
  · split
    · exact h.remoteSet
    · exact h
  · exact h.cancelEviction.logLines.keyedWrite

theorem TaskOnly.agentWrite {e : Elem} {bs : List Byte} (h : TaskOnly s t) : TaskOnly s (t.agentWrite e bs) :=
  TaskOnly.foldl (fun _ _ hv => hv.disownWord) h.homeWrite _

theorem TaskOnly.coreWrite {e : Elem} {bs : List Byte} (h : TaskOnly s t) : TaskOnly s (t.coreWrite e bs) := by
  rw [State.coreWrite]
  split
  · exact h
  · refine TaskOnly.foldl (fun _ _ hv => hv.ownWord) (TaskOnly.foldl (fun v l hv => ?_) h.homeWrite.countAccess _) _
    split
    · exact hv.evictL1Line
    · exact hv

theorem TaskOnly.atomic {r : Requester} {core : Option Nat} {e : Elem} {n : Nat} {f : Nat → Option Nat} (h : TaskOnly s t) :
    TaskOnly s (t.atomic r core e n f).1 := by
  have hread := h.homeRead (r := r) (e := e) (pa := e.pa) (n := n)
  unfold State.atomic
  split
  next s1 heq =>
    rw [heq] at hread
    exact hread
  next s1 bs heq =>
    rw [heq] at hread
    have hdrop : TaskOnly s (match core with
      | some c => (wordsOf e.pa n).foldl (fun t w => Machine.dropWord t c w) s1
      | none => s1) := by
      split
      · exact TaskOnly.foldl (fun _ _ hv => hv.dropWord) hread _
      · exact hread
    dsimp only
    split
    · exact hdrop.agentWrite
    · exact hdrop

theorem TaskOnly.ctxRead {e : Elem} {n : Nat} (h : TaskOnly s t) : TaskOnly s (t.ctxRead e n).1 := by
  rw [State.ctxRead]
  split
  · exact h.homeRead
  · exact h.l1Read

theorem TaskOnly.readElem {y : Access} {e : Elem} (h : TaskOnly s t) : TaskOnly s (t.readElem y e).1 := by
  have hread := h.ctxRead (e := e) (n := y.size)
  unfold State.readElem
  split
  · exact h.withCtx
  · dsimp only
    split
    next s1 heq =>
      rw [heq] at hread
      exact hread
    next s1 bs heq =>
      rw [heq] at hread
      exact hread.modCtx

theorem TaskOnly.gatherRead {y : Access} {es : List Elem} (h : TaskOnly s t) : TaskOnly s (gatherRead t y es).1 := by
  induction es generalizing t with
  | nil => exact h
  | cons e es ih =>
    rw [Machine.gatherRead]
    dsimp only
    split
    · exact ih h.readElem
    · exact ih h.readElem

theorem TaskOnly.scatterWrite {y : Access} {i : Nat} {es : List Elem} (h : TaskOnly s t) : TaskOnly s (scatterWrite t y i es) := by
  induction es generalizing t i with
  | nil => exact h
  | cons e es ih =>
    rw [Machine.scatterWrite]
    exact ih h.coreWrite.modCtx

theorem TaskOnly.atomicAccess {y : Access} {e : Elem} {f : Nat → Option Nat} (h : TaskOnly s t) : TaskOnly s (atomicAccess t y e f).1 := by
  unfold Machine.atomicAccess
  dsimp only
  have hdone : TaskOnly s (if t.ctx.replays then
      (({ t with ctx := (if y.logs then t.ctx.takeClaim y.num e.va y.size else (t.ctx, [])).1 } : State),
        some (leNat (if y.logs then t.ctx.takeClaim y.num e.va y.size else (t.ctx, [])).2))
    else (t.countAccess t.ctx.die t.ctx.asid e.va 1).atomic t.ctx.requester (some t.ctx.coreId) e y.size f).1 := by
    split
    · exact h.withCtx
    · exact h.countAccess.atomic
  split
  next s1 heq =>
    rw [heq] at hdone
    exact hdone.modCtx
  next s1 old heq =>
    rw [heq] at hdone
    dsimp only
    split
    · exact hdone.modCtx.modCtx
    · exact hdone.modCtx

theorem TaskOnly.deliverOld {b id : Nat} {old : Option Nat} (h : TaskOnly s t) : TaskOnly s (deliverOld t b id old) := h.modCtx

theorem TaskOnly.performAccess {y : Access} (h : TaskOnly s t) : TaskOnly s (performAccess t y) := by
  unfold Machine.performAccess
  split
  · split
    · exact h.readElem.modCtx
    · exact h
  · exact h.gatherRead.modCtx
  · split
    · exact h.coreWrite.modCtx
    · exact h
  · exact h.scatterWrite
  · split
    · dsimp only
      split
      · exact h.atomicAccess.deliverOld
      · exact h.atomicAccess
    · exact h
  · split
    · exact h.atomicAccess.deliverOld
    · exact h
  · split
    · dsimp only
      split
      · exact h.atomicAccess.wakePage
      · exact h.atomicAccess
    · exact h
  · exact h
  · exact h
  · exact h.countArrival
  · exact h.dropRecords
  · exact h.countLeave

theorem TaskOnly.performAt {i : Nat} (h : TaskOnly s t) : TaskOnly s (t.performAt i) := by
  rw [State.performAt]
  split
  · exact h
  · dsimp only
    split
    · exact h.performAccess.modCtx.selfInvalidate
    · exact h.performAccess.modCtx

theorem TaskOnly.enqueue {a : Access} (h : TaskOnly s t) : TaskOnly s (t.enqueue a) := h.modCtx

end Sys2Proof.Proofs
end

section
/-! PROOFS. What an encoded instruction can change (R284), and O60. -/

namespace Sys2Proof.Proofs

set_option Elab.async false

open Sys2Proof.Machine Sys2Proof.Claims Sys2Proof.Laws

variable {s t u : State} {i : Instr} {a : Act} {c : Cluster}

/-- An act completes, if it does, with what a task's operations may make of the state. -/
def ActWithin (s : State) : Act → Prop
  | .go u => TaskOnly s u
  | .jump u => TaskOnly s u
  | _ => True

/-! ## Flow and traps -/

theorem TaskOnly.flowTo {next : W64} (h : TaskOnly s t) : TaskOnly s (t.flowTo c next) := h.modCtx

theorem TaskOnly.branchTo {target : W64} (h : TaskOnly s t) : TaskOnly s (t.branchTo c target) := h.modCtx

theorem TaskOnly.finish (h : TaskOnly s t) : TaskOnly s (finish t c) := h.trans ⟨rfl, rfl, id⟩

theorem TaskOnly.hold {stitched : Bool} {w : WaitKind} (h : TaskOnly s t) : TaskOnly s (hold t c stitched w) := h.trans ⟨rfl, rfl, id⟩

theorem TaskOnly.landed (h : TaskOnly s t) : TaskOnly s (landed t) := h.trans ⟨rfl, rfl, id⟩

theorem TaskOnly.stopForSupervisor {cause tval ecmd : W64} {b : Bool} (h : TaskOnly s t) :
    TaskOnly s (stopForSupervisor t cause tval ecmd b) := h.modCtx

theorem TaskOnly.recordTrap {cause tval ecmd : W64} (h : TaskOnly s t) : TaskOnly s (recordTrap t cause tval ecmd) := h.modCtx

theorem TaskOnly.delegated {cause tval ecmd : W64} {r : Except Nat (List W64)} (h : TaskOnly s t) :
    TaskOnly s (delegated t cause tval ecmd r) := by
  cases r with
  | ok streams => exact h.recordTrap.modCtx.fetched
  | error code => exact h.recordTrap.stopForSupervisor

theorem TaskOnly.enterTrap {code : Nat} {tval ecmd : W64} (h : TaskOnly s t) : TaskOnly s (enterTrap t c code tval ecmd) := by
  rw [enterTrap_eq]
  split
  · exact h.landed.stopForSupervisor
  · split
    · exact h.landed.delegated
    · exact h.landed.recordTrap.stopForSupervisor

theorem TaskOnly.raised {code : Nat} {tval : W64} (h : TaskOnly s t) : TaskOnly s (raised t code tval) := by
  rw [Proofs.raised]
  split
  · exact h.fetched
  · exact h

theorem TaskOnly.takeTrap {code : Nat} {tval ecmd : W64} (h : TaskOnly s t) : TaskOnly s (takeTrap t c code tval ecmd) := by
  rw [takeTrap_eq]
  split
  · exact h.raised.enterTrap
  · exact h.raised.trans ⟨rfl, rfl, id⟩

theorem taskOnly_of_issue {act : State → Cluster → Act} (hact : Valid i s → ActWithin s (act s (turn s))) (h : issue i act s = .next t) :
    TaskOnly s t := by
  have hself := TaskOnly.refl s
  obtain ⟨-, rfl⟩ | ⟨hvalid, hends⟩ := issue_cases h
  · exact hself.takeTrap
  · have hwithin := hact hvalid
    obtain ⟨u, ha, rfl⟩ | ⟨u, ha, rfl⟩ | ⟨k, -, rfl⟩ | ⟨code, tval, -, rfl⟩ := hends
    · rw [ha] at hwithin
      exact (TaskOnly.flowTo hwithin).finish
    · rw [ha] at hwithin
      exact TaskOnly.finish hwithin
    · exact hself.hold
    · exact hself.takeTrap

/-- `run` is an attempt to issue `i` with a meaning that stays within a task's reach. -/
def IssuesWithin (i : Instr) (run : State → Result) : Prop :=
  ∃ act, (∀ s, run s = issue i act s) ∧ ∀ s, Valid i s → ActWithin s (act s (turn s))

theorem IssuesWithin.of_eq {run run' : State → Result} (heq : ∀ s, run s = run' s) (h : IssuesWithin i run') : IssuesWithin i run :=
  h.imp fun _ hact => ⟨fun s => (heq s).trans (hact.1 s), hact.2⟩

theorem IssuesWithin.issue {act : State → Cluster → Act} (h : ∀ s c, ActWithin s (act s c)) : IssuesWithin i (issue i act) :=
  ⟨act, fun _ => rfl, fun _ _ => h _ _⟩

theorem ComputesOnly.issuesWithin {run : State → Result} (h : ComputesOnly i run) : IssuesWithin i run := by
  obtain ⟨act, heq, hact⟩ := h
  refine ⟨act, heq, fun s hvalid => ?_⟩
  have hcomputes := hact s hvalid
  cases ha : act s (turn s) with
  | go u =>
    rw [ha] at hcomputes
    obtain ⟨ws, rfl, -⟩ := hcomputes
    exact (TaskOnly.refl s).modCtx
  | jump u =>
    rw [ha] at hcomputes
    exact hcomputes.elim
  | wait k => trivial
  | trap code tval => trivial

/-! ## What acts share -/

theorem ActWithin.ite {p : Prop} [Decidable p] {b : Act} (ha : ActWithin s a) (hb : ActWithin s b) : ActWithin s (if p then a else b) := by
  split
  · exact ha
  · exact hb

theorem ActWithin.faultsThen {fs : List (Bool × Nat × W64)} (h : ActWithin s a) : ActWithin s (faultsThen fs a) := by
  unfold Machine.faultsThen
  split
  · trivial
  · exact h

theorem ActWithin.readsLost {b : Bool} (h : ActWithin s a) : ActWithin s (a.readsLost b) := by
  cases a with
  | go u => exact TaskOnly.abortAt h
  | jump u => exact h
  | wait k => trivial
  | trap code tval => trivial

theorem ActWithin.vectorChecks {fs srcs dsts : List (BitVec 7)} (h : ActWithin s a) : ActWithin s (vectorChecks i s c fs srcs dsts a) := by
  unfold Machine.vectorChecks
  split
  · trivial
  · unfold slotChecks
    refine .ite trivial ?_
    split
    · trivial
    · exact .ite trivial h.readsLost

theorem ActWithin.whenRoom {eng : Nat} (h : ActWithin s a) : ActWithin s (whenRoom s eng a) := ActWithin.ite trivial h

theorem ActWithin.unlessReplay (h : ActWithin s a) : ActWithin s (unlessReplay s a) := ActWithin.ite (TaskOnly.refl s) h

theorem ActWithin.spReadChecks {va : W64} {n : Nat} (h : ActWithin s a) : ActWithin s (spReadChecks s va n a) :=
  ActWithin.ite trivial h.faultsThen

theorem ActWithin.withElems {need : Need} {vas : List W64} {act : State → List Elem → Act} (h : ∀ v es, TaskOnly s v → ActWithin s (act v es)) :
    ActWithin s (withElems s need vas act) := by
  unfold Machine.withElems
  split
  · exact .ite trivial trivial
  · exact .ite trivial (h _ _ (TaskOnly.refl s).rememberAll)

theorem ActWithin.withRows {rows : List (W64 × List Need)} {act : List (W64 × TlbEntry) → Act} (h : ∀ ts, ActWithin s (act ts)) :
    ActWithin s (withRows s rows act) := by
  unfold Machine.withRows
  dsimp only
  split
  · exact .ite trivial trivial
  · exact .ite trivial (h _)

/-! ## Commands and queues -/

theorem TaskOnly.modEng {f : Engines → Engines} (h : TaskOnly s t) : TaskOnly s (t.modEng f) := h.modCtx

theorem TaskOnly.signCommand {w : Nat} {regs : List W64} (h : TaskOnly s t) : TaskOnly s (signCommand t c w regs) := h.modCtx

theorem TaskOnly.enterQueue {eng w : Nat} {regs : List W64} {cmd : EngCmd} (h : TaskOnly s t) :
    TaskOnly s (enterQueue t c eng w regs cmd) := by
  unfold Machine.enterQueue
  dsimp only
  split
  · exact h.signCommand
  · exact h.signCommand.modEng

theorem TaskOnly.setMyQuad {q : QuadState} (h : TaskOnly s t) : TaskOnly s (t.setMyQuad q) := h.trans ⟨rfl, rfl, id⟩

theorem TaskOnly.setQuad {k : Nat} {q : QuadState} (h : TaskOnly s t) : TaskOnly s (t.setQuad k q) := h.trans ⟨rfl, rfl, id⟩

theorem TaskOnly.giveUpLease {k cid : Nat} (h : TaskOnly s t) : TaskOnly s (t.giveUpLease k cid) := by
  rw [State.giveUpLease]
  split
  · exact h.setQuad
  · exact h

theorem TaskOnly.settleSlots {k : Nat} (h : TaskOnly s t) : TaskOnly s (t.settleSlots k) := h.setQuad

theorem TaskOnly.tagTile {n : Nat} {tag : Option Nat} (h : TaskOnly s t) : TaskOnly s (t.tagTile n tag) := h.setMyQuad

theorem TaskOnly.queueTile {cmd : TileCmd} (h : TaskOnly s t) : TaskOnly s (t.queueTile cmd) := by
  rw [State.queueTile]
  split
  · exact h.modEng
  · exact h.setMyQuad

theorem TaskOnly.accept {l : Lease} {counted : Bool} {tile : Nat} {op : TileOp} (h : TaskOnly s t) : TaskOnly s (t.accept l counted tile op) :=
  h.setMyQuad.modCtx.queueTile

theorem TaskOnly.signTile {regs : List W64} (h : TaskOnly s t) : TaskOnly s (signTile t c i regs) := h.modCtx

theorem TaskOnly.markSaved {cid n : Nat} (h : TaskOnly s t) : TaskOnly s (markSaved t cid n) := by
  unfold Machine.markSaved
  dsimp only
  refine TaskOnly.onCtx (fun _ hv => hv.modEng) ?_
  split
  · split
    · exact h.putLocal
    · exact h
  · exact h

theorem TaskOnly.pushShuttle {ch : Bool} {cmd : ShCmd} (h : TaskOnly s t) : TaskOnly s (t.pushShuttle ch cmd) := h.modCtx

theorem TaskOnly.markFill {p issued : Nat} {on : Bool} (h : TaskOnly s t) : TaskOnly s (t.markFill p issued on) := h.setMyQuad

theorem TaskOnly.setProbe {n : Nat} {p : ProbeTable} (h : TaskOnly s t) : TaskOnly s (t.setProbe n p) := h.modCtx

theorem TaskOnly.releaseHoop {n : Nat} {r : HoopRec} {k : AccKind} (h : TaskOnly s t) : TaskOnly s (releaseHoop t c n r k) := by
  unfold Machine.releaseHoop
  dsimp only
  split
  · exact h.modCtx.enqueue.performAt
  · exact h.modCtx.enqueue

theorem TaskOnly.hintPage {asid : W16} {l : Leaf} {w : W64} (h : TaskOnly s t) : TaskOnly s (hintPage t asid l w) :=
  (TaskOnly.foldl (fun _ _ hv => hv.putLocal) h _).putPage

theorem TaskOnly.write6 {lat : Nat} {r : BitVec 6} {v : W64} (h : TaskOnly s t) : TaskOnly s (write6 t c lat r v) := by
  unfold Machine.write6
  split
  · exact h.writeAt
  · exact h.writeAt

/-! ## The acts of the instructions -/

section
variable {b : BitVec 4}

theorem takeBranch_within {va : W64} {pre : State → State} (hpre : TaskOnly s (pre s)) : ActWithin s (takeBranch s c va pre) := by
  unfold takeBranch
  split
  · trivial
  · exact hpre.branchTo

theorem enterBlock_within {skip : Bool} {stop : W64} {e : BlockEntry} : ActWithin s (enterBlock s c skip stop e) :=
  .ite (TaskOnly.refl s).flowTo (TaskOnly.refl s).modCtx

theorem haltAct_within : ActWithin s (haltAct i s c) := .ite trivial (TaskOnly.refl s).writeAt

theorem flagSetAct_within {f : BitVec 3} {v : Bool} : ActWithin s (flagSetAct f v s c) := (TaskOnly.refl s).writeAt

theorem flagWaitAct_within {f : BitVec 3} {clr : Bool} : ActWithin s (flagWaitAct f clr s c) :=
  .ite trivial (.ite (TaskOnly.refl s).writeAt (TaskOnly.refl s))

theorem groupAct_within {effect : State → State} (h : TaskOnly s (effect s)) : ActWithin s (groupAct s effect) := .ite h (TaskOnly.refl s)

theorem groupFaults_within {fs : List (Option Cluster × Nat × W64)} (h : ActWithin s a) : ActWithin s (groupFaults s c fs a) := by
  unfold groupFaults
  split
  · exact .ite trivial (TaskOnly.refl s)
  · exact h

theorem takeAct_within {n : Nat} {reg : Option (BitVec 6)} : ActWithin s (takeAct i b n reg s c) := by
  unfold takeAct
  refine .ite trivial (.ite trivial ?_)
  dsimp only
  split
  · exact (TaskOnly.refl s).writeAt.readsNext.writeAt
  · exact (TaskOnly.refl s).writeAt

theorem giveAct_within {n : Nat} : ActWithin s (giveAct i b n s c) := .ite trivial (.ite trivial (TaskOnly.refl s).writeAt)

theorem ldbAct_within {va : W64} {sp : Bool} {sz : BitVec 3} {cls ord : BitVec 2} {scope : BitVec 3} :
    ActWithin s (ldbAct i b va sp sz cls ord scope s c) := by
  unfold ldbAct
  refine .ite trivial (.ite trivial (.ite ?_ (.ite trivial ?_)))
  · exact .spReadChecks (TaskOnly.refl s).modCtx.writeAt.abortAt
  · exact .withElems fun _ _ hv => TaskOnly.enqueue hv.modCtx

theorem storeAct_within {va : W64} {n : Nat} {data : VReg} {sp : Bool} {cls ord : BitVec 2} {scope : BitVec 3} {pre : State → State}
    (hpre : ∀ v, TaskOnly s v → TaskOnly s (pre v)) : ActWithin s (storeAct s c va n data sp cls ord scope pre) :=
  ActWithin.faultsThen (.ite (hpre _ (TaskOnly.refl s)).writeAt (.withElems fun _ _ hv => TaskOnly.enqueue (hpre _ hv)))

theorem stbAct_within {va : W64} {sp : Bool} {cls ord : BitVec 2} {scope : BitVec 3} : ActWithin s (stbAct i b va sp cls ord scope s c) :=
  .ite trivial (.ite trivial (storeAct_within fun _ hv => hv.readsNext.writeAt))

theorem tileCommand_within {act : Lease → Act} (h : ∀ l, ActWithin s (act l)) : ActWithin s (tileCommand i s act) := by
  unfold tileCommand
  split
  · trivial
  · exact h _

theorem cutCommand_within {regs : W64 × W64 × W64} {n : Nat} {source log : Bool} : ActWithin s (cutCommand i s c regs n source log) :=
  ActWithin.whenRoom (.faultsThen (.withRows fun _ => .faultsThen (TaskOnly.enterQueue (TaskOnly.refl s).rememberAll)))

theorem enterNbread_taskOnly {w : Nat} {regs : List W64} {cmd : EngCmd} (h : TaskOnly s t) : TaskOnly s (enterNbread t c w regs cmd) := by
  unfold enterNbread
  split
  · exact h.enterQueue.modCtx
  · exact h.enterQueue

theorem couchCommand_within {va aw : W64} {vec : Option W64} {align : Nat} {regs : List W64}
    {enter : State → Cluster → Nat → List W64 → EngCmd → State} (henter : ∀ v w cmd, TaskOnly s v → TaskOnly s (enter v c w regs cmd)) :
    ActWithin s (couchCommand i s c va aw vec align regs enter) := by
  refine ActWithin.whenRoom (.faultsThen (.withRows fun ts => ?_))
  split
  · trivial
  · exact .ite trivial (henter _ _ _ (TaskOnly.refl s).rememberAll)

end

/-! ## The instructions that do more than compute -/

section
variable {st : Bool}

theorem accfill_within {n : BitVec 4} : IssuesWithin (.accfill st n) (execAccfill st n) :=
  .issue fun s _ => tileCommand_within fun _ => .ite trivial (by
    dsimp only
    split
    · exact (TaskOnly.modEng (TaskOnly.refl s).signTile.tagTile).accept
    · exact (TaskOnly.refl s).signTile.accept)

theorem accspill_within {n : BitVec 4} : IssuesWithin (.accspill st n) (execAccspill st n) :=
  .issue fun s _ => tileCommand_within fun _ => by
    dsimp only
    split
    · exact (TaskOnly.refl s).markSaved.signTile.tagTile.accept
    · exact (TaskOnly.refl s).signTile.tagTile.accept

theorem accz_within {n : BitVec 4} : IssuesWithin (.accz st n) (execAccz st n) :=
  .issue fun s _ => tileCommand_within fun _ => by
    split
    · trivial
    · exact (TaskOnly.refl s).signTile.tagTile.accept

theorem aclaim_within {n : BitVec 4} : IssuesWithin (.aclaim st n) (execAclaim st n) :=
  .issue fun s _ => by
    split
    · trivial
    · exact (TaskOnly.refl s).tagTile

theorem adrain_within {n : BitVec 4} {ma mb mc : BitVec 5} {sc ty : BitVec 3} :
    IssuesWithin (.adrain st n ma mb mc sc ty) (execAdrain st n ma mb mc sc ty) :=
  .issue fun s _ => .ite trivial (tileCommand_within fun _ => by
    split
    · trivial
    · refine ActWithin.faultsThen ?_
      dsimp only
      split
      · exact (TaskOnly.refl s).signTile.writeAt.accept
      · exact (TaskOnly.refl s).signTile.accept)

theorem afree_within {n : BitVec 4} : IssuesWithin (.afree st n) (execAfree st n) :=
  .issue fun s _ => .ite (TaskOnly.modEng (TaskOnly.refl s)).tagTile.queueTile (TaskOnly.refl s).modEng

theorem lsflag_within {ma : BitVec 5} {clr sum : Bool} {n : BitVec 4} : IssuesWithin (.lsflag st ma clr sum n) (execLsflag st ma clr sum n) :=
  .issue fun s _ => tileCommand_within fun _ => by
    split
    · trivial
    · exact ActWithin.faultsThen (TaskOnly.refl s).signTile.accept

theorem mma_within {n : BitVec 4} {xa xb : BitVec 6} {z : Bool} : IssuesWithin (.mma st n xa xb z) (execMma st n xa xb z) :=
  .issue fun s _ => tileCommand_within fun _ => by
    split
    · trivial
    · trivial
    · split
      · trivial
      · exact (TaskOnly.refl s).signTile.modEng.tagTile.accept

theorem amo_within {b op : BitVec 4} {ret w : Bool} {base rs : BitVec 5} {ord : BitVec 2} {scope : BitVec 3} :
    IssuesWithin (.amo st b ret base rs op w ord scope) (execAmo st b ret base rs op w ord scope) :=
  .issue fun _ _ => .ite trivial (.ite trivial (.ite trivial (.withElems fun _ _ hv => by
    split
    · exact TaskOnly.enqueue hv.modCtx
    · exact TaskOnly.enqueue hv)))

theorem cas_within {b : BitVec 4} {base new expect : BitVec 5} {w : Bool} {ord : BitVec 2} {scope : BitVec 3} :
    IssuesWithin (.cas st b base new expect w ord scope) (execCas st b base new expect w ord scope) :=
  .issue fun _ _ => .ite trivial (.ite trivial (.ite trivial (.withElems fun _ _ hv => TaskOnly.enqueue hv.modCtx)))

theorem signal_within {ra rb : BitVec 5} : IssuesWithin (.signal st ra rb) (execSignal st ra rb) :=
  .issue fun _ _ => .ite trivial (.withElems fun _ _ hv => .ite trivial (TaskOnly.enqueue hv))

theorem recfl_within {ra : BitVec 5} : IssuesWithin (.recfl st ra) (execRecfl st ra) :=
  .issue fun s _ => .ite trivial (TaskOnly.refl s).dropRecords.enqueue

theorem blk_within {len : BitVec 11} {rep : BitVec 8} {rsrc pre : Bool} {stg : BitVec 3} :
    IssuesWithin (.blk st len rep rsrc stg pre) (execBlk st len rep rsrc stg pre) :=
  .issue fun _ _ => .ite trivial (.ite trivial (.ite trivial (by
    split
    · trivial
    · exact .ite trivial enterBlock_within)))

theorem brb_within {b : BitVec 4} {off : BitVec 21} : IssuesWithin (.brb st b off) (execBrb st b off) :=
  .issue fun s _ => .ite trivial (.ite trivial
    (.ite (TaskOnly.refl s).readsNext.writeAt (takeBranch_within (TaskOnly.refl s).readsNext.writeAt)))

theorem bstat_within {b : BitVec 4} {reg : BitVec 6} : IssuesWithin (.bstat st b reg) (execBstat st b reg) :=
  .issue fun s _ => by
    split
    · trivial
    · exact (TaskOnly.refl s).logResult.write6

theorem chkerr_within {reg : BitVec 6} : IssuesWithin (.chkerr st reg) (execChkerr st reg) :=
  .issue fun s _ => by
    split
    · trivial
    · exact (TaskOnly.refl s).write6.writeAt

theorem getsr_within {reg : BitVec 6} {n : BitVec 8} : IssuesWithin (.getsr st reg n) (execGetsr st reg n) :=
  .issue fun s _ => by
    split
    · trivial
    · refine .ite trivial ?_
      split
      · trivial
      · by_cases hlogged : n = 0x06 ∨ n = 0x18
        · rw [if_pos hlogged]
          exact (TaskOnly.refl s).logResult.write6
        · rw [if_neg hlogged]
          exact (TaskOnly.refl s).write6

theorem setsr_within {reg : BitVec 6} {n : BitVec 8} : IssuesWithin (.setsr st reg n) (execSetsr st reg n) :=
  .issue fun s _ => .ite trivial (.ite trivial (by
    split
    · trivial
    · split
      · trivial
      · exact (TaskOnly.refl s).writeAt))

theorem shwm_within {ch : Bool} {dst : BitVec 5} : IssuesWithin (.shwm st ch dst) (execShwm st ch dst) :=
  .issue fun s _ => (TaskOnly.refl s).logResult.writeAt

theorem sclaim_within {n : BitVec 6} : IssuesWithin (.sclaim st n) (execSclaim st n) :=
  .issue fun s _ => by
    dsimp only
    split
    · trivial
    · exact .ite trivial (TaskOnly.refl s).setMyQuad.modEng

theorem sfree_within {n : BitVec 6} : IssuesWithin (.sfree st n) (execSfree st n) :=
  .issue fun s _ => by
    split
    · trivial
    · exact (TaskOnly.modEng (TaskOnly.refl s).setMyQuad).settleSlots

theorem harrive_within {h : BitVec 3} {leave : Bool} : IssuesWithin (.harrive st h leave) (execHarrive st h leave) :=
  .issue fun s _ => .unlessReplay (by
    dsimp only
    split
    · trivial
    · refine .ite trivial (.ite trivial (.ite (TaskOnly.refl s).releaseHoop (.ite trivial ?_)))
      split
      · exact (TaskOnly.refl s).releaseHoop.selfInvalidate
      · exact (TaskOnly.refl s).releaseHoop)

theorem hwait_within {h : BitVec 3} : IssuesWithin (.hwait st h) (execHwait st h) :=
  .issue fun s _ => .unlessReplay (by
    dsimp only
    split
    · trivial
    · exact .ite trivial (.ite trivial (TaskOnly.refl s).modCtx.selfInvalidate))

theorem lhint_within {ra rb rc : BitVec 5} : IssuesWithin (.lhint st ra rb rc) (execLhint st ra rb rc) :=
  .issue fun s _ => .ite trivial (.ite trivial (TaskOnly.foldl (fun _ _ hv => hv.hintPage) (TaskOnly.refl s) _))

theorem ldlit_within {dst : BitVec 5} {off : BitVec 20} : IssuesWithin (.ldlit st dst off) (execLdlit st dst off) :=
  .issue fun s _ => .ite trivial (by
    split
    · trivial
    · refine (TaskOnly.writeAt ?_).abortAt
      split
      · exact (TaskOnly.refl s).fetched.fetchError
      · exact (TaskOnly.refl s).fetched)

theorem ldg_within {bd bi : BitVec 4} {base : BitVec 5} {cls esz : BitVec 2} {sh : BitVec 3} {sp : Bool} :
    IssuesWithin (.ldg st bd bi base cls esz sh sp) (execLdg st bd bi base cls esz sh sp) :=
  .issue fun s _ => .ite trivial (.ite trivial (.ite trivial (.ite trivial (.faultsThen (.ite
    (TaskOnly.refl s).readsNext.modCtx.writeAt.writeAt.abortAt
    (.withElems fun _ _ hv => TaskOnly.enqueue hv.readsNext.modCtx.writeAt))))))

theorem stsc_within {bd bi : BitVec 4} {base : BitVec 5} {cls esz : BitVec 2} {sh : BitVec 3} {sp : Bool} :
    IssuesWithin (.stsc st bd bi base cls esz sh sp) (execStsc st bd bi base cls esz sh sp) :=
  .issue fun s _ => .ite trivial (.ite trivial (.ite trivial (.faultsThen (.ite
    (TaskOnly.foldl (fun _ _ hv => hv.writeAt) (TaskOnly.refl s).readsNext.readsNext.writeAt.writeAt _)
    (.withElems fun _ _ hv => TaskOnly.enqueue hv.readsNext.readsNext.writeAt.writeAt)))))

theorem prot_within {ra rb rc : BitVec 5} {set : Bool} : IssuesWithin (.prot st ra rb rc set) (execProt st ra rb rc set) :=
  .issue fun s _ => .whenRoom (.ite trivial (.ite trivial (by
    split
    · exact .ite trivial trivial
    · exact .ite trivial (.ite trivial (.ite trivial (TaskOnly.refl s).remember.enterQueue)))))

theorem punpk_within {a : BitVec 7} {g : Bool} : IssuesWithin (.punpk st a g) (execPunpk st a g) :=
  .issue fun s _ => .vectorChecks (TaskOnly.foldl (fun _ _ hv => hv.writeAt) (TaskOnly.refl s) _)

theorem vfill_within {r : BitVec 7} {slot : BitVec 11} {p : Bool} : IssuesWithin (.vfill st r slot p) (execVfill st r slot p) :=
  .issue fun s _ => by
    dsimp only
    split
    · trivial
    · refine .ite trivial (.faultsThen (TaskOnly.abortAt (TaskOnly.writeAt ?_)))
      split
      · exact (TaskOnly.refl s).writeAt
      · exact TaskOnly.refl s

theorem vspill_within {r : BitVec 7} {slot : BitVec 11} {p : Bool} : IssuesWithin (.vspill st r slot p) (execVspill st r slot p) :=
  .issue fun s _ => by
    dsimp only
    split
    · trivial
    · refine .faultsThen (TaskOnly.writeAt ?_)
      split
      · exact (TaskOnly.refl s).writeAt
      · exact TaskOnly.refl s

theorem xcall_within {off : BitVec 25} : IssuesWithin (.xcall st off) (execXcall st off) :=
  .issue fun s _ => .ite trivial (groupFaults_within (groupAct_within (TaskOnly.refl s).writeAt.writeAt.writeAt.modCtx))

theorem xret_within : IssuesWithin (.xret st) (execXret st) :=
  .issue fun s _ => .ite trivial (.ite trivial (groupFaults_within (groupAct_within (TaskOnly.refl s).writeAt.writeAt.modCtx)))

theorem tret_within : IssuesWithin (.tret st) (execTret st) :=
  .issue fun s _ => .ite trivial (.ite trivial (groupAct_within (TaskOnly.refl s).modCtx))

theorem shgo_within {ra rb rc : BitVec 5} {ch : Bool} : IssuesWithin (.shgo st ra rb rc ch) (execShgo st ra rb rc ch) :=
  .issue fun s _ => .ite trivial (.ite trivial (.faultsThen (.ite (TaskOnly.refl s).signCommand.pushShuttle (by
    refine TaskOnly.pushShuttle ?_
    split
    · refine TaskOnly.markFill ?_
      split
      · exact (TaskOnly.refl s).modCtx
      · exact (TaskOnly.refl s).signCommand
    · split
      · exact (TaskOnly.refl s).modCtx
      · exact (TaskOnly.refl s).signCommand))))

theorem probeCfg_within {ra : BitVec 5} {n : BitVec 4} : IssuesWithin (.probeCfg st ra n) (execProbeCfg st ra n) :=
  .issue fun s _ => .ite trivial (.faultsThen (.ite (TaskOnly.refl s).abortAt (TaskOnly.refl s).setProbe))

theorem lookupEffect_taskOnly {s0 : State} {dst : BitVec 5} {n : BitVec 4} {a : W64} {r : Lookup} (h : TaskOnly s t) :
    TaskOnly s (lookupEffect s0 t i dst n a c r) := by
  cases hfill : r.fill with
  | none =>
    rw [lookupEffect_of_no_fill hfill]
    exact h.writeAt
  | some f =>
    rw [lookupEffect_of_fill hfill]
    exact h.writeAt.signCommand.setProbe.pushShuttle

theorem lookupAct_within {dst : BitVec 5} {n : BitVec 4} {a va : W64} {r : Lookup} : ActWithin s (lookupAct i dst n a va r s c) := by
  refine .ite trivial (.ite trivial ?_)
  dsimp only
  split
  · trivial
  · split
    · exact lookupEffect_taskOnly (TaskOnly.refl s).logResult
    · exact (lookupEffect_taskOnly (TaskOnly.refl s).logResult).branchTo

end

/-- Every encoded instruction stays within a task's reach. -/
theorem exec_within (i : Instr) (h : wordBytes i ≠ 0) (hnot : destOf i = none) : IssuesWithin i (exec i) := by
  cases i with
  | accfill => exact .of_eq (fun _ => exec_accfill) accfill_within
  | accspill => exact .of_eq (fun _ => exec_accspill) accspill_within
  | accz => exact .of_eq (fun _ => exec_accz) accz_within
  | aclaim => exact .of_eq (fun _ => exec_aclaim) aclaim_within
  | adrain => exact .of_eq (fun _ => exec_adrain) adrain_within
  | afree => exact .of_eq (fun _ => exec_afree) afree_within
  | amo => exact .of_eq (fun _ => exec_amo) amo_within
  | bgive => exact .of_eq (fun _ => exec_bgive) (.issue fun _ _ => giveAct_within)
  | bgive16 => exact .of_eq (fun _ => exec_bgive16) (.issue fun _ _ => giveAct_within)
  | blk => exact .of_eq (fun _ => exec_blk) blk_within
  | br => exact .of_eq (fun _ => exec_br) (.issue fun _ _ => takeBranch_within (.refl _))
  | brb => exact .of_eq (fun _ => exec_brb) brb_within
  | brc => exact .of_eq (fun _ => exec_brc) (.issue fun _ _ => .ite (takeBranch_within (.refl _)) (TaskOnly.refl _))
  | brk => exact .of_eq (fun _ => exec_brk) (.issue fun _ _ => trivial)
  | bstat => exact .of_eq (fun _ => exec_bstat) bstat_within
  | btake => exact .of_eq (fun _ => exec_btake) (.issue fun _ _ => takeAct_within)
  | btake16 => exact .of_eq (fun _ => exec_btake16) (.issue fun _ _ => takeAct_within)
  | cas => exact .of_eq (fun _ => exec_cas) cas_within
  | chkerr => exact .of_eq (fun _ => exec_chkerr) chkerr_within
  | darn => exact .of_eq (fun _ => exec_darn) (.issue fun _ _ => .whenRoom (.ite trivial (.ite trivial (.ite trivial (.ite trivial (TaskOnly.refl _).enterQueue)))))
  | enq => exact .of_eq (fun _ => exec_enq) (.issue fun _ _ => .whenRoom (.ite trivial (.faultsThen (TaskOnly.refl _).enterQueue)))
  | fence => exact .of_eq (fun _ => exec_fence) (.issue fun _ _ => (TaskOnly.refl _).enqueue)
  | flset => exact .of_eq (fun _ => exec_flset) (.issue fun _ _ => flagSetAct_within)
  | flsetClear16 => exact .of_eq (fun _ => exec_flsetClear16) (.issue fun _ _ => flagSetAct_within)
  | flsetSet16 => exact .of_eq (fun _ => exec_flsetSet16) (.issue fun _ _ => flagSetAct_within)
  | flwait => exact .of_eq (fun _ => exec_flwait) (.issue fun _ _ => flagWaitAct_within)
  | flwait16 => exact .of_eq (fun _ => exec_flwait16) (.issue fun _ _ => flagWaitAct_within)
  | flwaitClr16 => exact .of_eq (fun _ => exec_flwaitClr16) (.issue fun _ _ => flagWaitAct_within)
  | fwq => exact .of_eq (fun _ => exec_fwq) (.issue fun _ _ => .ite trivial (TaskOnly.refl _).modEng)
  | getsr => exact .of_eq (fun _ => exec_getsr) getsr_within
  | halt => exact .of_eq (fun _ => exec_halt) (.issue fun _ _ => haltAct_within)
  | halt16 => exact .of_eq (fun _ => exec_halt16) (.issue fun _ _ => haltAct_within)
  | harrive => exact .of_eq (fun _ => exec_harrive) harrive_within
  | hwait => exact .of_eq (fun _ => exec_hwait) hwait_within
  | knot => exact .of_eq (fun _ => exec_knot) (.issue fun _ _ => (TaskOnly.refl _).enqueue.modCtx)
  | ld => exact .of_eq (fun _ => exec_ld) (.issue fun _ _ => .spReadChecks (TaskOnly.refl _).writeAt.abortAt)
  | ldb => exact .of_eq (fun _ => exec_ldb) (.issue fun _ _ => ldbAct_within)
  | ldbOrdered => exact .of_eq (fun _ => exec_ldbOrdered) (.issue fun _ _ => ldbAct_within)
  | ldg => exact .of_eq (fun _ => exec_ldg) ldg_within
  | ldlit => exact .of_eq (fun _ => exec_ldlit) ldlit_within
  | lease => exact .of_eq (fun _ => exec_lease) (.issue fun _ _ => .ite trivial (.ite trivial (TaskOnly.refl _).setMyQuad))
  | lfree => exact .of_eq (fun _ => exec_lfree) (.issue fun _ _ => (TaskOnly.refl _).giveUpLease)
  | lhint => exact .of_eq (fun _ => exec_lhint) lhint_within
  | lsflag => exact .of_eq (fun _ => exec_lsflag) lsflag_within
  | mma => exact .of_eq (fun _ => exec_mma) mma_within
  | nbenter => exact .of_eq (fun _ => exec_nbenter) (.issue fun _ _ => couchCommand_within fun _ _ _ hv => hv.enterQueue)
  | nbexit => exact .of_eq (fun _ => exec_nbexit) (.issue fun _ _ => couchCommand_within fun _ _ _ hv => hv.enterQueue)
  | nbload => exact .of_eq (fun _ => exec_nbload) (.issue fun _ _ => couchCommand_within fun _ _ _ hv => hv.enterQueue)
  | nbmac => exact .of_eq (fun _ => exec_nbmac) (.issue fun _ _ => couchCommand_within fun _ _ _ hv => hv.enterQueue)
  | nbread => exact .of_eq (fun _ => exec_nbread) (.issue fun _ _ => couchCommand_within fun _ _ _ hv => enterNbread_taskOnly hv)
  | nop => exact .of_eq (fun _ => exec_nop) (.issue fun _ _ => TaskOnly.refl _)
  | nop16 => exact .of_eq (fun _ => exec_nop16) (.issue fun _ _ => TaskOnly.refl _)
  | probe => exact .of_eq (fun _ => exec_probe_lookupAct) (.issue fun _ _ => lookupAct_within)
  | probeCfg => exact .of_eq (fun _ => exec_probeCfg) probeCfg_within
  | prot => exact .of_eq (fun _ => exec_prot) prot_within
  | punpk => exact .of_eq (fun _ => exec_punpk) punpk_within
  | recfl => exact .of_eq (fun _ => exec_recfl) recfl_within
  | rndend => exact .of_eq (fun _ => exec_rndend) (.issue fun _ _ => .whenRoom (.ite trivial (.ite trivial (.ite trivial (TaskOnly.refl _).enterQueue))))
  | rowcp => exact .of_eq (fun _ => exec_rowcp) (.issue fun _ _ => cutCommand_within)
  | rowfill => exact .of_eq (fun _ => exec_rowfill) (.issue fun _ _ => cutCommand_within)
  | rowlog => exact .of_eq (fun _ => exec_rowlog) (.issue fun _ _ => cutCommand_within)
  | sclaim => exact .of_eq (fun _ => exec_sclaim) sclaim_within
  | setsr => exact .of_eq (fun _ => exec_setsr) setsr_within
  | sfree => exact .of_eq (fun _ => exec_sfree) sfree_within
  | shgo => exact .of_eq (fun _ => exec_shgo) shgo_within
  | shwm => exact .of_eq (fun _ => exec_shwm) shwm_within
  | signal => exact .of_eq (fun _ => exec_signal) signal_within
  | st => exact .of_eq (fun _ => exec_st) (.issue fun _ _ => storeAct_within fun _ hv => hv)
  | stOrdered => exact .of_eq (fun _ => exec_stOrdered) (.issue fun _ _ => storeAct_within fun _ hv => hv)
  | stb => exact .of_eq (fun _ => exec_stb) (.issue fun _ _ => stbAct_within)
  | stbOrdered => exact .of_eq (fun _ => exec_stbOrdered) (.issue fun _ _ => stbAct_within)
  | stsc => exact .of_eq (fun _ => exec_stsc) stsc_within
  | trap => exact .of_eq (fun _ => exec_trap) (.issue fun _ _ => trivial)
  | tret => exact .of_eq (fun _ => exec_tret) tret_within
  | vfill => exact .of_eq (fun _ => exec_vfill) vfill_within
  | vsetl => exact .of_eq (fun _ => exec_vsetl) (.issue fun _ _ => (TaskOnly.refl _).writeAt)
  | vspill => exact .of_eq (fun _ => exec_vspill) vspill_within
  | xcall => exact .of_eq (fun _ => exec_xcall) xcall_within
  | xret => exact .of_eq (fun _ => exec_xret) xret_within
  | _ => simp [wordBytes, destOf] at h hnot

theorem exec_taskOnly (h : wordBytes i ≠ 0) (hexec : exec i s = .next t) : TaskOnly s t := by
  obtain ⟨act, heq, hact⟩ : IssuesWithin i (exec i) := by
    cases hdest : destOf i with
    | none => exact exec_within i h hdest
    | some d => exact (exec_computes i (by rw [hdest]; rfl)).issuesWithin
  exact taskOnly_of_issue (hact s) ((heq s).symm.trans hexec)

theorem hub_of_supervised (h : supervised t = supervised s) :
    ({ t.hub with podHoops := s.hub.podHoops, irqs := s.hub.irqs, resv := s.hub.resv } : Hub) = s.hub :=
  (congrArg (fun r => { r.1 with podHoops := s.hub.podHoops, irqs := s.hub.irqs, resv := s.hub.resv }) h :)

/-- Settles O60: every encoded instruction goes through an attempt to issue, and none of its ends reaches what is the supervisor's. -/
theorem noTaskInstructionReachesTheSupervisor : Obligations.NoTaskInstructionReachesTheSupervisor := by
  unfold Obligations.NoTaskInstructionReachesTheSupervisor
  intro s t i hword hexec
  obtain ⟨hsup, -, -⟩ := exec_taskOnly hword hexec
  obtain ⟨hflash, hpower, hroots, hnow, hus⟩ : t.flash = s.flash ∧ t.power = s.power ∧ t.roots = s.roots ∧ t.now = s.now ∧ t.us = s.us := by
    simpa only [supervised, Prod.mk.injEq] using (congrArg Prod.snd hsup)
  exact ⟨hub_of_supervised hsup, hflash, hpower, hroots, hnow, hus⟩

end Sys2Proof.Proofs
end

section
/-! PROOFS. What keeps the canonical form of HBM and of the capacity tier: the shared operations, and the results of events. -/

namespace Sys2Proof.Proofs

open Sys2Proof.Machine Sys2Proof.Laws

variable {s t u : State}

/-- HBM and the capacity tier are in canonical form. -/
def Canonical (s : State) : Prop := s.canonical

/-- What changes neither store keeps the form. -/
theorem Canonical.same (h : Canonical s) (hmem : t.mem = s.mem) (hcap : t.cap = s.cap) : Canonical t := by
  obtain ⟨hm, hc⟩ := h
  exact ⟨hmem ▸ hm, hcap ▸ hc⟩

theorem Canonical.task (h : Canonical s) (hst : TaskOnly s t) : Canonical t := by
  obtain ⟨hm, hc⟩ := h
  obtain ⟨-, hcap, hwf⟩ := hst
  exact ⟨hwf hm, hcap ▸ hc⟩

theorem Canonical.foldl {α : Type} {f : State → α → State} (hf : ∀ u x, Canonical u → Canonical (f u x)) (h : Canonical s) (l : List α) :
    Canonical (l.foldl f s) := by
  induction l generalizing s with
  | nil => exact h
  | cons x l ih => exact ih (hf s x h)

/-! ## What tasks' operations keep -/

section
variable {f : Ctx → Ctx} {n m pa a cid k : Nat} {bs : List Byte} {r : Requester} {e : Elem} {asid : W16} {va : W64} {info : W64}

theorem Canonical.modCtx (h : Canonical s) : Canonical (s.modCtx f) := h.same rfl rfl

theorem Canonical.modEng {f : Engines → Engines} (h : Canonical s) : Canonical (s.modEng f) := h.modCtx

theorem Canonical.mapCtxs (h : Canonical s) : Canonical (s.mapCtxs f) := h.same rfl rfl

theorem Canonical.writeAt {e : Effect} (h : Canonical s) : Canonical (s.writeAt n e) := h.modCtx

theorem Canonical.swapAt (h : Canonical s) : Canonical (s.swapAt n) := h.task (TaskOnly.refl s).swapAt

theorem Canonical.onCtx {f : State → State} (hf : ∀ u, Canonical u → Canonical (f u)) (h : Canonical s) : Canonical (s.onCtx cid f) := by
  rw [State.onCtx]
  split
  · exact hf s h
  · split
    · exact (hf _ h.swapAt).swapAt
    · exact h

theorem Canonical.fetched (h : Canonical s) : Canonical (s.fetched va) := h.task (TaskOnly.refl s).fetched

theorem Canonical.remember {t : TlbEntry} (h : Canonical s) : Canonical (s.remember t) := h.task (TaskOnly.refl s).remember

theorem Canonical.noteWalk (h : Canonical s) : Canonical (s.noteWalk n asid va) := h.task (noteWalk_walkedOnly _ _ _ _).taskOnly

theorem Canonical.meetLost (h : Canonical s) : Canonical (s.meetLost r e pa n) := h.task (TaskOnly.refl s).meetLost

theorem Canonical.homeRead (h : Canonical s) : Canonical (s.homeRead r e pa n).1 := h.task (TaskOnly.refl s).homeRead

theorem Canonical.atomic {core : Option Nat} {f : Nat → Option Nat} (h : Canonical s) : Canonical (s.atomic r core e n f).1 :=
  h.task (TaskOnly.refl s).atomic

theorem Canonical.agentWrite (h : Canonical s) : Canonical (s.agentWrite e bs) := h.task (TaskOnly.refl s).agentWrite

theorem Canonical.keyedWrite {w : W64} (h : Canonical s) : Canonical (s.keyedWrite w n a bs) := h.task (TaskOnly.refl s).keyedWrite

theorem Canonical.supWrite (h : Canonical s) : Canonical (s.supWrite a bs) := h.keyedWrite

theorem Canonical.putLocal (h : Canonical s) : Canonical (s.putLocal a n m) := h.supWrite

theorem Canonical.disownWord (h : Canonical s) : Canonical (disownWord s a) := h.task (TaskOnly.refl s).disownWord

theorem Canonical.countAccess (h : Canonical s) : Canonical (s.countAccess n asid va m) := h.task (TaskOnly.refl s).countAccess

theorem Canonical.performAt (h : Canonical s) : Canonical (s.performAt n) := h.task (TaskOnly.refl s).performAt

theorem Canonical.putPage {p : PageInfo} (h : Canonical s) : Canonical (s.putPage p) := h.same rfl rfl

theorem Canonical.wakePage (h : Canonical s) : Canonical (s.wakePage asid va) := h.task (TaskOnly.refl s).wakePage

theorem Canonical.countLeave {r : HoopRec} (h : Canonical s) : Canonical (countLeave s n r) := h.task (TaskOnly.refl s).countLeave

theorem Canonical.markSaved (h : Canonical s) : Canonical (markSaved s cid n) := h.task (TaskOnly.refl s).markSaved

theorem Canonical.modLife {f : Lifetime → Lifetime} (h : Canonical s) : Canonical (s.modLife f) := h.same rfl rfl

theorem Canonical.irq (h : Canonical s) : Canonical (s.irq n info) := h.same rfl rfl

theorem Canonical.irqLeader (h : Canonical s) : Canonical (s.irqLeader info) := h.task (irqLeader_recordedOnly _ _).taskOnly

theorem Canonical.recordError {i : ErrorInfo} (h : Canonical s) : Canonical (s.recordError i) := h.task (recordError_recordedOnly _ _).taskOnly

theorem Canonical.reportError {i : ErrorInfo} (h : Canonical s) : Canonical (s.reportError i) := h.task (reportError_recordedOnly _ _).taskOnly

theorem Canonical.dropResv (h : Canonical s) : Canonical (s.dropResv a n) := h.same rfl rfl

theorem Canonical.setQuad {q : QuadState} (h : Canonical s) : Canonical (s.setQuad k q) := h.same rfl rfl

theorem Canonical.setMyQuad {q : QuadState} (h : Canonical s) : Canonical (s.setMyQuad q) := h.same rfl rfl

theorem Canonical.giveUpLease (h : Canonical s) : Canonical (s.giveUpLease k cid) := h.task (TaskOnly.refl s).giveUpLease

theorem Canonical.settleSlots (h : Canonical s) : Canonical (s.settleSlots k) := h.setQuad

theorem Canonical.markFill {on : Bool} (h : Canonical s) : Canonical (s.markFill n m on) := h.setMyQuad

theorem Canonical.modChannel {ch : Bool} {f : ShQueue → ShQueue} (h : Canonical s) : Canonical (s.modChannel ch f) := h.modCtx

theorem Canonical.setGang {g : Gang} (h : Canonical s) : Canonical (s.setGang g) := h.same rfl rfl

/-! ## Lines -/

theorem Canonical.setGroup {g : GroupSlot} (h : Canonical s) : Canonical (s.setGroup k g) := h.same rfl rfl

theorem Canonical.send {mode : Nat} {msg : GroupMsg} (h : Canonical s) : Canonical (s.send k n mode msg) :=
  h.task (send_storedOnly _ _ _ _ _).taskOnly

theorem Canonical.sendAll {msg : GroupMsg} {l : List Nat} (h : Canonical s) : Canonical (s.sendAll k n msg l) :=
  Canonical.foldl (fun _ _ hv => hv.send) h l

theorem Canonical.cleanLine (h : Canonical s) : Canonical (s.cleanLine a) := h.task (cleanLine_storedOnly _ _).taskOnly

theorem Canonical.evictLine (h : Canonical s) : Canonical (s.evictLine a) := h.task (evictLine_storedOnly _ _).taskOnly

theorem Canonical.cleanRange (h : Canonical s) : Canonical (s.cleanRange a n) := h.task (cleanRange_storedOnly _ _ _).taskOnly

theorem Canonical.evictRange (h : Canonical s) : Canonical (s.evictRange a n) := h.task (evictRange_storedOnly _ _ _).taskOnly

theorem Canonical.touchWalked (h : Canonical s) : Canonical s.touchWalked := h.task (touchWalked_storedOnly _).taskOnly

theorem Canonical.prunePages (h : Canonical s) : Canonical s.prunePages := h.same rfl rfl

theorem Canonical.meetSup (h : Canonical s) : Canonical (s.meetSup r a n) := by
  rw [State.meetSup]
  refine Canonical.foldl (fun v l hv => ?_) h _
  split
  · exact hv.meetLost
  · exact hv

theorem Canonical.drain (h : Canonical s) : Canonical (s.drain n) := by
  induction n generalizing s with
  | zero => exact h
  | succ n ih =>
    rw [State.drain]
    split
    · exact ih h.performAt
    · exact h

theorem Canonical.drainAll (h : Canonical s) : Canonical s.drainAll := h.drain

theorem Canonical.leaveHoop (h : Canonical s) : Canonical (leaveHoop s n) := h.countLeave.modCtx

end

/-! ## Completion words -/

section
variable {w : Update} {ups : List Update} {eng : Nat} {c : Cluster}

theorem Canonical.updateOnce (h : Canonical s) (hup : updateOnce s w = .ok t) : Canonical t := by
  unfold Machine.updateOnce at hup
  split at hup
  · obtain rfl := Except.ok.inj hup
    exact h
  · split at hup
    · split at hup
      · obtain rfl := Except.ok.inj hup
        exact h
      · cases hup
    · dsimp only at hup
      split at hup
      · cases hup
      · obtain rfl := Except.ok.inj hup
        exact h.remember.atomic

theorem Canonical.applyUpdates (h : Canonical s) : Canonical (applyUpdates s ups).1 := by
  induction ups generalizing s with
  | nil => exact h
  | cons w ups ih =>
    rw [Machine.applyUpdates]
    split
    · dsimp only
      split
      · exact h
      · exact h.noteWalk
    next s1 hup => exact ih (h.updateOnce hup)

theorem Canonical.popQueue (h : Canonical s) : Canonical (popQueue s eng) := h.modCtx

theorem Canonical.stopQueue {f : EngFault} (h : Canonical s) : Canonical (stopQueue s eng f) := h.modEng.modCtx

theorem Canonical.queueUpdates (h : Canonical s) : Canonical (queueUpdates s eng c ups) := by
  unfold Machine.queueUpdates
  dsimp only
  split
  · exact h.applyUpdates.modEng
  · split
    · exact h.applyUpdates.modEng
    · exact h.applyUpdates.modEng.stopQueue

theorem Canonical.completeHead (h : Canonical s) : Canonical (completeHead s eng c ups) := h.popQueue.queueUpdates

theorem Canonical.retryUpdates (h : Canonical s) : Canonical (retryUpdates s eng c) := h.queueUpdates

end

/-! ## Results -/

/-- A result leaves canonical stores, if it is a next state. -/
def Keeps (r : Result) : Prop := ∀ t, r = .next t → Canonical t

section
variable {b : Bool} {cid k : Nat} {r : Result}

theorem Keeps.next (h : Canonical s) : Keeps (.next s) := fun _ ht => Host.Outcome.next.inj ht ▸ h

theorem keeps_happens (h : Canonical s) : Keeps (happens s) := .next (h.same rfl rfl)

theorem keeps_notNow (h : Canonical s) : Keeps (notNow s) := .next (h.same rfl rfl)

theorem Keeps.ite {p : Prop} [Decidable p] {r' : Result} (h : Keeps r) (h' : Keeps r') : Keeps (if p then r else r') := by
  split
  · exact h
  · exact h'

theorem keeps_eventIf (hs : Canonical s) (ht : Canonical t) : Keeps (eventIf b s t) := .ite (keeps_happens ht) (keeps_notNow hs)

theorem keeps_gated (hs : Canonical s) (h : Keeps r) : Keeps (gated s r) := .ite h (keeps_notNow hs)

theorem keeps_eventOn {f : State → State × Bool} (hf : ∀ u, Canonical u → Canonical (f u).1) (h : Canonical s) : Keeps (eventOn s cid f) :=
  .ite (keeps_notNow h) (.next (Canonical.onCtx (fun u hu => (hf u hu).same rfl rfl) h))

theorem Canonical.countDropped (h : Canonical s) : Canonical s.countDropped := h.modLife

theorem keeps_leaderWrite {f : State → State} (hf : ∀ u, Canonical u → Canonical (f u)) (h : Canonical s) : Keeps (leaderWrite s k f) :=
  .ite (keeps_happens (hf s h)) (keeps_happens h.countDropped)

theorem keeps_dieWrite {f : State → State} (hf : ∀ u, Canonical u → Canonical (f u)) (h : Canonical s) : Keeps (dieWrite s k cid f) :=
  .ite (keeps_happens (hf s h)) (keeps_happens h.countDropped)

theorem ite_fst {α : Type} {p : Prop} [Decidable p] {x y : State × α} (hx : Canonical x.1) (hy : Canonical y.1) :
    Canonical (if p then x else y).1 := by
  split
  · exact hx
  · exact hy

theorem Canonical.ite {p : Prop} [Decidable p] (hs : Canonical s) (ht : Canonical t) : Canonical (if p then s else t) := by
  split
  · exact hs
  · exact ht

theorem keeps_queueEvent {eng : Nat} {c : Cluster} {run : State → EngCmd → State × Bool} (hrun : ∀ u d, Canonical u → Canonical (run u d).1)
    (h : Canonical s) : Keeps (queueEvent cid eng c s run) := by
  unfold queueEvent
  split
  · exact keeps_notNow h
  · refine .ite (keeps_notNow h) (.ite (keeps_eventOn (fun u hu => ite_fst hu.retryUpdates hu) h) ?_)
    split
    · exact keeps_notNow h
    · exact keeps_eventOn (fun u hu => hrun u _ hu) h

end

end Sys2Proof.Proofs
end

section
/-! PROOFS. The arrays and the shuttle keep the canonical form of HBM and of the capacity tier. -/

namespace Sys2Proof.Proofs

set_option Elab.async false

open Sys2Proof.Machine Sys2Proof.Laws

variable {s t u : State}

/-! ## Leases and tiles -/

section
variable {k n cid : Nat} {c : TileCmd} {ups : List Update} {b : Bool}

theorem Canonical.grant {r : LeaseReq} (h : Canonical s) : Canonical (s.grant k r) := Canonical.onCtx (fun _ hu => hu.writeAt) h.setQuad

theorem Canonical.settleLease (h : Canonical s) : Canonical (settleLease k n s) := by
  induction n generalizing s with
  | zero => exact h
  | succ n ih =>
    rw [Machine.settleLease]
    split
    · split
      · exact ih h.setQuad
      · exact h
    · split
      · exact ih h.grant
      · exact h

theorem Canonical.settleQuad (h : Canonical s) : Canonical (s.settleQuad k) := .ite h h.settleLease.setQuad

theorem Canonical.setTile {x : Tile} (h : Canonical s) : Canonical (s.setTile k n x) := h.setQuad

theorem Canonical.holdCommands (h : Canonical s) : Canonical (s.holdCommands k) := h.setQuad.modEng

theorem Canonical.withFree (h : Canonical s) : Canonical { s with free := n } := h.same rfl rfl

theorem Canonical.arrayFault {cause num : Nat} {tval : W64} {status : W32} (h : Canonical s) :
    Canonical (arrayFault s cause num tval status) := h.modCtx

theorem Canonical.arrayUpdates (h : Canonical s) : Canonical (arrayUpdates s k ups) := by
  unfold Machine.arrayUpdates
  dsimp only
  split
  · exact h.applyUpdates.modEng
  · exact .ite h.applyUpdates.holdCommands.modEng.modEng h.applyUpdates.holdCommands.modEng.modCtx

theorem Canonical.popTile (h : Canonical s) : Canonical (s.popTile k) := h.setQuad

theorem Canonical.tileDone (h : Canonical s) : Canonical (tileDone s k c b) :=
  Canonical.arrayUpdates (.ite h.popTile.settleSlots.modCtx h.popTile.settleSlots)

theorem Canonical.drainAtomic {mb : W64} {m : Nat} {op : TileOp} (h : Canonical s) : Canonical (drainAtomic s k c mb m b op) := by
  unfold Machine.drainAtomic
  split
  · exact (Canonical.holdCommands h.noteWalk.setQuad).arrayFault
  next e _ =>
    have hmade := ite_fst (p := s.ctx.replays = true) (x := (s, some 0))
      (y := (s.remember e).atomic s.ctx.requester none (elemOf s mb e) 4 (fun o => some (max o m))) h h.remember.atomic
    exact Canonical.tileDone (.ite (Canonical.modCtx hmade) hmade)

theorem Canonical.forgetTile (h : Canonical s) : Canonical (s.forgetTile k n) := h.withFree.setTile

theorem Canonical.settleForgets (h : Canonical s) : Canonical (s.settleForgets k c) := .ite h.mapCtxs.forgetTile h

theorem Canonical.runTile (h : Canonical s) : Canonical (runTile s k c) := by
  unfold Machine.runTile
  dsimp only
  split
  · exact h.setTile.modEng.tileDone
  · exact h.setTile.tileDone
  · split
    · exact h.drainAtomic
    · exact .ite h.modCtx.drainAtomic h.modCtx.tileDone
  · exact Canonical.tileDone (.ite h.modCtx.setTile h.modCtx)
  · split
    · exact h.supWrite.withFree.setTile.tileDone
    · exact h.tileDone
  · exact .ite h.meetSup.setTile.tileDone h.tileDone
  · exact h.forgetTile.popTile

theorem Canonical.beginTile (h : Canonical s) : Canonical (beginTile s k c) := by
  unfold Machine.beginTile
  refine .ite h.holdCommands.modEng ?_
  split
  · dsimp only
    split
    · exact h.setQuad.applyUpdates.holdCommands.arrayFault
    · exact .ite h.setQuad.applyUpdates.holdCommands.arrayFault.modEng h.setQuad.applyUpdates.holdCommands.arrayFault.modEng.modCtx
  · exact h.settleForgets.setQuad

theorem Canonical.resumeArray (h : Canonical s) : Canonical (resumeArray s k) := .ite h.arrayUpdates.setQuad.modEng h.arrayUpdates

theorem Canonical.evictTile (h : Canonical s) : Canonical (evictTile s k cid n) :=
  .ite h h.supWrite.markSaved.setTile.withFree

theorem Canonical.evictTiles (h : Canonical s) : Canonical (evictTiles s k cid) := (Canonical.foldl (fun _ _ hv => hv.evictTile) h _).setQuad

theorem Canonical.accevictWrite (h : Canonical s) : Canonical (accevictWrite s k cid) := .ite h (.ite h.setQuad h.evictTiles)

theorem tileCommandExecution_keeps (h : Canonical s) : Keeps (execTileCommandExecution k s) := by
  unfold execTileCommandExecution
  split
  · exact keeps_happens h.evictTiles
  · exact keeps_eventOn (fun _ hv => ite_fst hv.resumeArray hv) h
  · dsimp only
    split
    · exact keeps_notNow h
    · exact .ite (keeps_notNow h) (keeps_happens (Canonical.onCtx (fun _ hv => hv.beginTile) h))
    · exact .ite (keeps_notNow h) (keeps_happens (Canonical.onCtx (fun _ hv => hv.runTile) h))

end

/-! ## Shuttle -/

section
variable {ch dead : Bool} {c : ShCmd} {n idx cause sub cid : Nat} {tval va : W64} {ps : List (Elem × Nat)} {bs : List Byte} {ups : List Update}

theorem Canonical.setHead (h : Canonical s) : Canonical (s.setHead ch c) := h.modChannel

theorem Canonical.stopChannel (h : Canonical s) : Canonical (stopChannel s ch idx cause sub tval) := h.modChannel.modCtx

theorem Canonical.notePieces (h : Canonical s) : Canonical (s.notePieces ps) := Canonical.foldl (fun _ _ hv => hv.fetched) h _

theorem Canonical.readPieces (h : Canonical s) : Canonical (readPieces s ps).1 := by
  induction ps generalizing s with
  | nil => exact h
  | cons p ps ih => exact ih h.countAccess.homeRead

theorem Canonical.writePieces (h : Canonical s) : Canonical (writePieces s bs ps) := by
  induction ps generalizing s bs with
  | nil => exact h
  | cons p ps ih => exact ih h.countAccess.agentWrite

theorem Canonical.takeRecord {r : BitVec 1536} (h : Canonical s) (htake : takeRecord s va = .ok (t, r)) : Canonical t := by
  unfold Machine.takeRecord at htake
  dsimp only at htake
  split at htake
  · obtain rfl := congrArg Prod.fst (Except.ok.inj htake)
    exact h
  · split at htake
    · cases htake
    · obtain rfl := congrArg Prod.fst (Except.ok.inj htake)
      exact h.notePieces.readPieces.same rfl rfl

theorem Canonical.beginLocal {r : BitVec 1536} (h : Canonical s) (hbegin : beginLocal s ch c r = .ok t) : Canonical t := by
  unfold Machine.beginLocal at hbegin
  dsimp only at hbegin
  split at hbegin
  · obtain rfl := Except.ok.inj hbegin
    exact h.setHead.modChannel
  · split at hbegin
    · obtain rfl := Except.ok.inj hbegin
      exact h.setHead
    · split at hbegin
      · cases hbegin
      · obtain rfl := Except.ok.inj hbegin
        exact h.markFill.setHead
  · split at hbegin
    · cases hbegin
    · split at hbegin
      · cases hbegin
      · obtain rfl := Except.ok.inj hbegin
        exact h.setHead
  · obtain rfl := Except.ok.inj hbegin
    exact h.setHead

theorem Canonical.beginShuttle (h : Canonical s) : Canonical (beginShuttle s ch c) := by
  have hlast : Canonical { s with shLast := tabSet (channelKey s.ctx ch) s.ctx.slot s.shLast } := h.same rfl rfl
  unfold Machine.beginShuttle
  dsimp only
  split
  · exact hlast.setHead
  · split
    · exact hlast.fetched.stopChannel
    next s1 r htake =>
      split
      · exact Canonical.stopChannel (hlast.same rfl rfl)
      · split
        · exact (hlast.takeRecord htake).stopChannel
        next s2 hbegin => exact (hlast.takeRecord htake).beginLocal hbegin

theorem shuttleCommandBegin_keeps (h : Canonical s) : Keeps (execShuttleCommandBegin cid ch s) := by
  unfold execShuttleCommandBegin
  split
  · exact keeps_notNow h
  · dsimp only
    split
    · exact keeps_notNow h
    · exact .ite (keeps_notNow h) (keeps_eventOn (fun _ hv => ite_fst hv.beginShuttle hv) h)

theorem Canonical.advance (h : Canonical s) : Canonical (advance s ch c) := by
  unfold Machine.advance
  split
  · exact h.setHead
  · dsimp only
    split
    · exact h.setHead.markFill.settleSlots
    · exact h.setHead

theorem Canonical.readLogged (h : Canonical s) : Canonical (readLogged s ch dead va n ps).1 := by
  unfold Machine.readLogged
  exact ite_fst (h.same rfl rfl) (ite_fst h h.notePieces.readPieces)

theorem Canonical.fetchPosition {c' : ShCmd} (h : Canonical s) (hfetch : fetchPosition s ch c dead = .ok (t, c', bs)) : Canonical t := by
  unfold Machine.fetchPosition at hfetch
  dsimp only at hfetch
  split at hfetch
  · obtain rfl := congrArg Prod.fst (Except.ok.inj hfetch)
    exact h
  · split at hfetch
    · cases hfetch
    · split at hfetch
      · cases hfetch
      · split at hfetch
        · obtain rfl := congrArg Prod.fst (Except.ok.inj hfetch)
          exact h.readLogged.modCtx
        · obtain rfl := congrArg Prod.fst (Except.ok.inj hfetch)
          exact h.readLogged.modCtx

theorem Canonical.publish {b f : Nat} (h : Canonical s) : Canonical (publish s b bs f).1 := by
  induction f generalizing s bs with
  | zero => exact h
  | succ f ih =>
    rw [Machine.publish]
    exact ite_fst h (ih h.modCtx)

/-- A move of a position leaves canonical stores. -/
def MoveKeeps : Moved → Prop
  | .on t => Canonical t
  | .stopped t => Canonical t
  | .stays => True

theorem MoveKeeps.ite {p : Prop} [Decidable p] {x y : Moved} (hx : MoveKeeps x) (hy : MoveKeeps y) : MoveKeeps (if p then x else y) := by
  split
  · exact hx
  · exact hy

theorem moveBobbin_keeps (h : Canonical s) : MoveKeeps (moveBobbin s ch c dead) := by
  unfold moveBobbin
  refine .ite h.stopChannel (.ite ?_ ?_)
  · exact .ite trivial h.publish.setHead
  · split
    · exact h.fetched.stopChannel
    next s1 c1 bs hfetch => exact (h.fetchPosition hfetch).publish.advance

theorem moveGlobal_keeps {ps : List (Elem × Nat)} (h : Canonical s) {f : Ctx → Ctx} {c1 : ShCmd} :
    Canonical (advance (if dead = true then s else (if s.ctx.replays then s else writePieces (s.notePieces ps) bs ps).modCtx f) ch c1) :=
  Canonical.advance (.ite h (Canonical.modCtx (.ite h h.notePieces.writePieces)))

theorem moveOne_keeps (h : Canonical s) : MoveKeeps (moveOne s ch c dead) := by
  unfold moveOne
  refine .ite trivial ?_
  split
  · refine .ite h.stopChannel ?_
    split
    · exact h.fetched.stopChannel
    next s1 c1 bs hfetch => exact (h.fetchPosition hfetch).modCtx.modChannel.advance
  · split
    · trivial
    · refine .ite trivial (.ite h.stopChannel ?_)
      split
      · exact h.fetched.stopChannel
      next s1 c1 bs hfetch => exact (h.fetchPosition hfetch).setMyQuad.advance
  · exact moveBobbin_keeps h
  · refine .ite h.advance (.ite h.stopChannel ?_)
    dsimp only
    split
    · exact .ite trivial h.fetched.stopChannel
    · exact .ite trivial (moveGlobal_keeps h)

theorem moveFill_keeps {f : Fill} (h : Canonical s) : MoveKeeps (moveFill s ch c f dead) := by
  unfold moveFill
  refine .ite trivial (.ite h.stopChannel ?_)
  split
  · exact h.fetched.stopChannel
  · exact h.readLogged.modCtx.setHead

/-- The move of a command's next position or line. -/
def nextMove (s : State) (ch : Bool) (c : ShCmd) (dead : Bool) : Moved :=
  match c.fill with
  | some f => moveFill s ch c f dead
  | none => moveOne s ch c dead

theorem nextMove_keeps (h : Canonical s) : MoveKeeps (nextMove s ch c dead) := by
  unfold nextMove
  split
  · exact moveFill_keeps h
  · exact moveOne_keeps h

theorem Canonical.moveRun (h : Canonical s) : Canonical (moveRun s ch n).1 := by
  induction n generalizing s with
  | zero => exact h
  | succ n ih =>
    rw [Machine.moveRun]
    split
    · exact h
    next c _ _ =>
      refine ite_fst h ?_
      have hmove : MoveKeeps (nextMove s ch c (linkDead s c)) := nextMove_keeps h
      split
      · exact h
      next t heq =>
        rw [show nextMove s ch c (linkDead s c) = .stopped t from heq] at hmove
        exact hmove
      next t heq =>
        rw [show nextMove s ch c (linkDead s c) = .on t from heq] at hmove
        exact ih hmove

theorem Canonical.abortPosition (h : Canonical s) : Canonical (abortPosition s ch).1 := by
  unfold Machine.abortPosition
  dsimp only
  split
  · exact h
  next c _ _ =>
    refine ite_fst h ?_
    have hmove : MoveKeeps (nextMove s ch c true) := nextMove_keeps h
    split
    · exact h
    next t heq =>
      rw [show nextMove s ch c true = .stopped t from heq] at hmove
      exact hmove
    next t heq =>
      rw [show nextMove s ch c true = .on t from heq] at hmove
      exact hmove

theorem shuttleElementMove_keeps (h : Canonical s) : Keeps (execShuttleElementMove cid ch s) := by
  unfold execShuttleElementMove
  split
  · exact keeps_notNow h
  · dsimp only
    split
    · exact keeps_notNow h
    · exact .ite (keeps_notNow h) (keeps_eventOn (fun _ hv => ite_fst (Canonical.moveRun (hv.same rfl rfl)) hv) h)

theorem Canonical.channelUpdates (h : Canonical s) : Canonical (channelUpdates s ch ups) := by
  unfold Machine.channelUpdates
  dsimp only
  split
  · exact h.applyUpdates.modChannel
  · exact .ite h.applyUpdates.modChannel h.applyUpdates.modChannel.modChannel.modCtx

theorem Canonical.completeShuttle (h : Canonical s) : Canonical (completeShuttle s ch c) :=
  Canonical.channelUpdates (.ite (Canonical.modChannel h.modCtx).modCtx (Canonical.modChannel h.modCtx))

theorem shuttleCompletion_keeps (h : Canonical s) : Keeps (execShuttleCompletion cid ch s) := by
  unfold execShuttleCompletion
  split
  · exact keeps_notNow h
  · refine .ite (keeps_notNow h) (.ite (keeps_eventOn (fun _ hv => ite_fst hv.channelUpdates hv) h) ?_)
    split
    · exact keeps_notNow h
    · exact .ite (keeps_happens (Canonical.onCtx (fun _ hv => hv.completeShuttle) h)) (keeps_notNow h)

end

end Sys2Proof.Proofs
end

section
/-! PROOFS. Rows, near-bank commands and page moves keep the canonical form of HBM and of the capacity tier. -/

namespace Sys2Proof.Proofs

open Sys2Proof.Machine Sys2Proof.Laws

variable {s t u : State}

/-! ## Rows -/

section
variable {bank row n cid : Nat} {c : EngCmd} {e : Elem} {dst src : List Elem} {m : Memory} {b : Bool}

theorem Canonical.precharge (h : Canonical s) : Canonical (s.precharge bank) := by
  unfold State.precharge
  dsimp only
  split
  · exact h.same rfl rfl
  · refine Canonical.foldl (fun _ _ hv => hv.recordError) ?_ _
    exact h.same rfl rfl

theorem Canonical.activateRows {rows : List Nat} (h : Canonical s) : Canonical (s.activateRows bank rows) := h.precharge.same rfl rfl

theorem Canonical.activate {f : Nat → List Nat} (h : Canonical s) : Canonical (s.activate row f) := h.activateRows

theorem Canonical.markRow {bad : List Nat} (h : Canonical s) : Canonical (s.markRow row bad) := h.same rfl rfl

theorem Canonical.writeMem {bs : List Byte} (h : Canonical s) : Canonical { s with mem := s.mem.write n bs } := by
  obtain ⟨hm, hc⟩ := h
  exact ⟨Memory.write_wf hm _ _, hc⟩

theorem Canonical.putRow {r : DramRow} (h : Canonical s) : Canonical (s.putRow row r) := by
  unfold State.putRow
  refine Canonical.foldl (fun _ _ hv => hv.disownWord) (Canonical.markRow ?_) _
  exact (h.dropResv.writeMem (n := row) (bs := r.bytes)).same rfl rfl

theorem Canonical.meetRow (h : Canonical s) : Canonical (s.meetRow e) := Canonical.foldl (fun _ _ hv => hv.meetLost) h _

theorem Canonical.runRowcp (h : Canonical s) : Canonical (runRowcp s dst src) := by
  unfold Machine.runRowcp
  exact Canonical.foldl (fun _ _ hv => .ite hv.activateRows hv.activateRows.activateRows) (Canonical.foldl (fun _ _ hv => hv.putRow) h _) _

theorem Canonical.runRowfill {w : W64} (h : Canonical s) : Canonical (runRowfill s dst w) :=
  Canonical.foldl (fun _ _ hv => hv.putRow.activate) h _

theorem Canonical.runRowlog (h : Canonical s) : Canonical (runRowlog s n dst src).1 :=
  Canonical.foldl (fun _ _ hv => hv.activate)
    (Canonical.foldl (fun _ _ hv => .ite hv.evictRange hv.putRow) (Canonical.foldl (fun _ _ hv => hv.meetRow) h _) _) _

theorem Canonical.cleanElems {l : List Elem} (h : Canonical s) : Canonical (l.foldl (fun u e => u.cleanRange (localPart e.pa) 1024) s) :=
  Canonical.foldl (fun _ _ hv => hv.cleanRange) h l

theorem Canonical.runCutwork (h : Canonical s) : Canonical (runCutwork s c) := by
  unfold Machine.runCutwork
  dsimp only
  split
  · exact Canonical.completeHead (.ite h.cleanElems.runRowcp.modCtx h.cleanElems.runRowcp)
  · exact Canonical.completeHead (.ite h.cleanElems.runRowfill.modCtx h.cleanElems.runRowfill)
  · exact Canonical.completeHead (.ite h.cleanElems.cleanElems.runRowlog.modCtx h.cleanElems.cleanElems.runRowlog)

theorem cutworkExecution_keeps (h : Canonical s) : Keeps (execCutworkExecution cid s) :=
  keeps_queueEvent (fun _ _ hv => ite_fst hv hv.runCutwork) h

theorem activationSaturation_keeps (h : Canonical s) : Keeps (execActivationSaturation bank row s) := keeps_eventIf h h.precharge

theorem periodicRefresh_keeps (h : Canonical s) : Keeps (execPeriodicRefresh bank row s) := keeps_happens (h.same rfl rfl)

/-! ## Near-bank commands -/

theorem Canonical.dropHold (h : Canonical s) : Canonical (dropHold s) := Canonical.modEng (h.same rfl rfl)

theorem Canonical.couchFault {tval : W64} (h : Canonical s) : Canonical (couchFault s c n tval) := h.stopQueue

theorem Canonical.couchDone (h : Canonical s) : Canonical (couchDone s c b) := Canonical.completeHead (.ite h.modCtx h)

theorem Canonical.runNbenter (h : Canonical s) : Canonical (runNbenter s c).1 :=
  ite_fst h.couchFault (ite_fst h (Canonical.couchDone (Canonical.modEng (h.cleanRange.same rfl rfl))))

theorem Canonical.loadVector {es : List Elem} (h : Canonical s) : Canonical (loadVector s n m b es).1 := by
  induction es generalizing s n m b with
  | nil => exact h
  | cons e es ih => exact ih h.countAccess.homeRead

theorem Canonical.runNbload (h : Canonical s) : Canonical (runNbload s c) := h.loadVector.modEng.couchDone

theorem Canonical.runNbmac (h : Canonical s) : Canonical (runNbmac s c) :=
  (Canonical.foldl (fun _ _ hv => hv.meetRow.activate) h.cleanRange _).modEng.couchDone

theorem Canonical.nbreadSlot (h : Canonical s) : Canonical (nbreadSlot s c n).1 := ite_fst (h.same rfl rfl) h.modCtx

theorem Canonical.runNbread (h : Canonical s) : Canonical (runNbread s c).1 :=
  ite_fst h.couchFault (ite_fst h (Canonical.couchDone (Canonical.foldl (fun _ _ hv => hv.nbreadSlot.modCtx) h _)))

theorem Canonical.runCouching (h : Canonical s) : Canonical (runCouching s c).1 := by
  unfold Machine.runCouching
  refine ite_fst h.runNbenter (ite_fst h.runNbread (ite_fst h.couchFault ?_))
  split
  · exact ite_fst h h.runNbload
  · exact h.runNbmac
  · exact h.runNbread
  · exact h.dropHold.couchDone

theorem couchingExecution_keeps (h : Canonical s) : Keeps (execCouchingExecution cid s) :=
  keeps_queueEvent (fun _ _ hv => ite_fst hv.runCouching hv) h

end

/-! ## Pages -/

section
variable {asid : W16} {l : Leaf} {p : PageInfo} {k n a b frame stack : Nat}

theorem Canonical.editLeaf {f : W64 → W64} (h : Canonical s) : Canonical (s.editLeaf asid l f) :=
  (Canonical.foldl (f := fun t a => t.putLocal a 8 (f (BitVec.ofNat 64 (t.getLocal a 8))).toNat) (fun _ _ hv => hv.putLocal) h
    (entriesOf l)).same rfl rfl

theorem Canonical.addFree (h : Canonical s) : Canonical (s.addFree k n) := h.same rfl rfl

theorem Canonical.takeFree (h : Canonical s) : Canonical (s.takeFree k n) := h.same rfl rfl

theorem Canonical.forgetFrame (h : Canonical s) : Canonical (s.forgetFrame a n) := h.same rfl rfl

theorem Canonical.moveCode (h : Canonical s) : Canonical (s.moveCode a b n) := h.mapCtxs

theorem Canonical.redirect (h : Canonical s) : Canonical (s.redirect a b n) := h.same rfl rfl

theorem Canonical.setFrame {on : Bool} (h : Canonical s) : Canonical (s.setFrame asid l frame on) :=
  (Canonical.foldl (fun _ _ hv => hv.putLocal) h _).editLeaf

theorem Canonical.moveRegion (h : Canonical s) : Canonical (s.moveRegion a b) := by
  unfold State.moveRegion
  exact Canonical.foldl (fun _ _ hv => .ite hv (Canonical.foldl (fun _ _ hw => .ite hw.putLocal hw) hv _)) h _

theorem Canonical.startMoves {moves : Nat → Nat} {cs : List (W16 × Leaf × PageInfo × Nat × Nat)} (h : Canonical s) :
    Canonical (startMoves s moves cs) := by
  induction cs generalizing s moves with
  | nil => exact h
  | cons c cs ih =>
    rw [Machine.startMoves]
    split
    · exact ih h
    · exact .ite (ih h) (ih h.takeFree.putPage)

theorem Canonical.takeTrigger (h : Canonical s) : Canonical s.takeTrigger := h.same rfl rfl

theorem Canonical.settleTrigger (h : Canonical s) : Canonical (settleTrigger s) := .ite h (h.same rfl rfl)

theorem placementBoundary_keeps {interval : Bool} (h : Canonical s) : Keeps (execPlacementBoundary interval s) := by
  have hnext : Canonical { s.takeTrigger with
      boundary := if interval then (s.us, s.boundary.2) else (s.boundary.1, s.boundary.2 - 1) } := h.same rfl rfl
  refine .ite (keeps_notNow h) (.ite (keeps_happens hnext) (keeps_happens ?_))
  exact (Canonical.ite hnext hnext.startMoves).same rfl rfl

/-- HBM after a page has moved within it. -/
theorem Canonical.moveMem (h : Canonical s) : Canonical { s with mem := s.mem.moveRange a b n } := by
  obtain ⟨hm, hc⟩ := h
  exact ⟨Memory.moveRange_wf hm _ _ _, hc⟩

/-- The stores after a page has come back from the capacity tier, or gone there. -/
theorem Canonical.copied {src src' : Memory} {a' b' n' : Nat} (h : Canonical s) (hmem : t.mem = copyBetween src s.mem a b n)
    (hcap : t.cap = copyBetween src' s.cap a' b' n') : Canonical t := by
  obtain ⟨hm, hc⟩ := h
  rw [Canonical, State.canonical, hmem, hcap]
  exact ⟨copyBetween_wf hm _ _ _ _, copyBetween_wf hc _ _ _ _⟩

theorem Canonical.finishMigration (h : Canonical s) : Canonical (finishMigration s asid l p stack frame) := by
  unfold Machine.finishMigration
  refine .ite h.evictRange.evictRange.addFree.putPage ?_
  have hmoved := (h.evictRange (a := frameOf l) (n := l.size)).evictRange (a := frame) (n := l.size) |>.moveMem (a := frameOf l) (b := frame) (n := l.size)
  refine Canonical.putPage (Canonical.addFree (Canonical.redirect (Canonical.setFrame (Canonical.forgetFrame (Canonical.forgetFrame
    (Canonical.moveCode ?_))))))
  exact .ite (Canonical.moveRegion (hmoved.same rfl rfl)) (hmoved.same rfl rfl)

theorem Canonical.finishReturn (h : Canonical s) : Canonical (finishReturn s asid l p stack frame) := by
  unfold Machine.finishReturn
  refine .ite h.addFree.putPage.reportError ?_
  refine Canonical.putPage (Canonical.setFrame (Canonical.forgetFrame (Canonical.moveCode ?_)))
  exact Canonical.copied (h.evictRange (a := frame) (n := l.size)) rfl rfl

theorem pageMigration_keeps {page : Nat} (h : Canonical s) : Keeps (execPageMigration page frame s) := by
  unfold execPageMigration
  split
  · exact keeps_notNow h
  · split
    · exact .ite (keeps_happens h.finishMigration) (keeps_notNow h)
    · exact .ite (keeps_happens h.finishReturn) (keeps_notNow h)
    · exact keeps_notNow h

theorem evictionStart_keeps (h : Canonical s) : Keeps (execEvictionStart stack s) := by
  unfold execEvictionStart
  refine .ite (keeps_notNow h) (.ite (keeps_happens (h.same rfl rfl)) ?_)
  split
  · exact keeps_notNow h
  · refine keeps_happens (Canonical.putPage ?_)
    split
    · exact Canonical.addFree (h.same rfl rfl)
    · exact h.same rfl rfl

theorem pageEviction_keeps {page capPage : Nat} (h : Canonical s) : Keeps (execPageEviction page capPage s) := by
  unfold execPageEviction
  split
  · exact keeps_notNow h
  next asid l p _ =>
    refine .ite (keeps_notNow h) (.ite (keeps_happens h.putPage) (.ite (keeps_notNow h) (.ite (keeps_happens h.evictRange.putPage) ?_)))
    refine keeps_happens (Canonical.putPage (Canonical.addFree (Canonical.setFrame (Canonical.forgetFrame (Canonical.moveCode ?_)))))
    exact Canonical.copied (h.evictRange (a := frameOf l) (n := l.size)) rfl rfl

theorem Canonical.startReturn {die : Option Nat} (h : Canonical s) : Canonical (startReturn s die l p) := by
  unfold Machine.startReturn
  dsimp only
  split
  · exact h
  · exact .ite (h.same rfl rfl) (Canonical.putPage (Canonical.takeFree (h.same rfl rfl)))

theorem Canonical.retryReturns (h : Canonical s) : Canonical s.retryReturns := by
  unfold State.retryReturns
  refine Canonical.foldl (fun v r hv => ?_) h _
  split
  · exact .ite hv.startReturn (hv.same rfl rfl)
  · exact hv.same rfl rfl

theorem Canonical.prefetch (h : Canonical s) : Canonical (prefetch s) := by
  unfold Machine.prefetch
  exact .ite h (Canonical.foldl (fun _ _ hv => hv.startReturn) h _)

theorem Canonical.returnOnDemand {page die : Nat} (h : Canonical s) : Canonical (returnOnDemand s page die) := by
  unfold Machine.returnOnDemand
  split
  · exact .ite h.startReturn h
  · exact h

theorem chainDemotion_keeps {chain : BitVec 8} (h : Canonical s) : Keeps (execChainDemotion chain s) :=
  .ite (keeps_happens (h.same rfl rfl)) (keeps_notNow h)

end

end Sys2Proof.Proofs
end

section
/-! PROOFS. Groups keep the canonical form of HBM and of the capacity tier. -/

namespace Sys2Proof.Proofs

open Sys2Proof.Machine Sys2Proof.Laws

variable {s t u : State}

section
variable {i j k n r a cid : Nat} {g : GroupSlot} {w : W32} {e : Update} {m : GroupMsg} {b : Bool} {err : Option (BitVec 6)}

/-! ## Rounds -/

theorem Canonical.setRound (h : Canonical s) : Canonical (s.setRound g w) := h.putLocal

theorem Canonical.recordCommit (h : Canonical s) : Canonical (s.recordCommit g w) := h.putLocal.putLocal

theorem Canonical.enterState {st : GrpState} (h : Canonical s) : Canonical (s.enterState i st) := h.setGroup.putLocal

theorem Canonical.modGroup {f : GroupSlot → GroupSlot} (h : Canonical s) : Canonical (s.modGroup i f) := h.setGroup

theorem Canonical.sendJoin {l : List Nat} (h : Canonical s) : Canonical (s.sendJoin i b l) := h.sendAll

theorem Canonical.answerJoin (h : Canonical s) : Canonical (s.answerJoin i j) := h.send

theorem Canonical.footUpdateFault (h : Canonical s) : Canonical (footUpdateFault s e n) := h.stopQueue

theorem Canonical.settleHeld (h : Canonical s) : Canonical (settleHeld s e).1 := by
  unfold Machine.settleHeld
  dsimp only
  split
  · exact h.applyUpdates
  · exact ite_fst h.applyUpdates h.applyUpdates.footUpdateFault

theorem Canonical.releaseHeld {x : HeldEnd} (h : Canonical s) : Canonical (releaseHeld s i x err) := .ite h.settleHeld h.settleHeld.modGroup

theorem Canonical.completeHeld (h : Canonical s) : Canonical (completeHeld s i err) := by
  unfold Machine.completeHeld
  exact Canonical.foldl (fun _ _ hv => .ite hv (Canonical.onCtx (fun _ hw => hw.releaseHeld) hv)) h.modGroup _

theorem Canonical.withTlb {l : List TlbEntry} (h : Canonical s) : Canonical { s with tlb := l } := h.same rfl rfl

theorem Canonical.setProt {asid : W16} (h : Canonical s) : Canonical (s.setProt a asid n b) := by
  unfold State.setProt
  exact h.putLocal.withTlb

theorem Canonical.unprotect (h : Canonical s) : Canonical (s.unprotect i r) := by
  unfold State.unprotect
  dsimp only
  split
  · exact h.setProt.putLocal.modGroup
  · exact h.putLocal.modGroup

theorem Canonical.clearRange (h : Canonical s) : Canonical (s.clearRange a n) := by
  obtain ⟨hm, hc⟩ := h.evictRange (a := a) (n := n)
  exact ⟨Memory.filter_wf hm _, hc⟩

theorem Canonical.foldStaging (h : Canonical s) : Canonical (foldStaging s g) := by
  unfold Machine.foldStaging
  refine Canonical.foldl (fun _ _ hv => ?_) h _
  exact .ite (hv.same rfl rfl) (.ite hv hv.supWrite)

theorem Canonical.restoreLine (h : Canonical s) : Canonical (restoreLine s g n) := by
  unfold Machine.restoreLine
  refine Canonical.foldl (fun _ _ hv => hv.disownWord) ?_ _
  obtain ⟨hm, hc⟩ := h
  refine ⟨?_, hc⟩
  dsimp only
  split
  · exact hm
  · exact Memory.write_wf hm _ _

theorem Canonical.passWrite {y : Access} (h : Canonical s) : Canonical (passWrite s cid y) := by
  unfold Machine.passWrite
  refine Canonical.foldl (fun v p hv => .ite hv.agentWrite ?_) h _
  dsimp only
  split
  · exact .ite hv.atomic.wakePage hv.atomic
  · exact hv.atomic

theorem Canonical.performPassed (h : Canonical s) : Canonical (performPassed s i n) := by
  induction n generalizing s with
  | zero => exact h
  | succ n ih =>
    rw [Machine.performPassed]
    split
    · exact .ite (ih h.modGroup.passWrite) h
    · exact h

theorem Canonical.settlePassed (h : Canonical s) : Canonical (settlePassed s i) := h.performPassed

theorem Canonical.afterDecision (h : Canonical s) : Canonical (afterDecision s i) := .ite h.setGroup.enterState h.setGroup.enterState

theorem Canonical.applyCommit (h : Canonical s) : Canonical (applyCommit s i) := by
  unfold Machine.applyCommit
  dsimp only
  have hcleared := (h.foldStaging (g := s.group i)).clearRange (a := stagingBase (s.group i)) (n := (s.group i).storeSize)
    |>.clearRange (a := (s.group i).base + 0x2000) (n := 0x40000)
  have hclosed : ∀ {v : State} {l : List Nat}, Canonical v → Canonical (l.foldl (fun t r => t.unprotect i r) v) := fun hv =>
    Canonical.foldl (fun _ _ hu => hu.unprotect) hv _
  have hdone : ∀ {v : State} {p : Nat × Nat}, Canonical v →
      Canonical (if v.hub.trigNow = 1 then v else { v with boundary := p }) := fun hv => .ite hv (hv.same rfl rfl)
  exact .ite (Canonical.completeHeld (Canonical.afterDecision (hdone (hclosed hcleared.setRound)))).prefetch
    (Canonical.completeHeld (Canonical.afterDecision (hdone (hclosed hcleared.setRound))))

theorem Canonical.restoreRound (h : Canonical s) : Canonical (restoreRound s i) := by
  unfold Machine.restoreRound
  refine Canonical.completeHeld (Canonical.afterDecision (Canonical.foldl (fun _ _ hv => hv.putLocal)
    (Canonical.foldl (fun _ _ hv => hv.unprotect) (Canonical.clearRange (Canonical.clearRange ?_)) _) _))
  exact Canonical.foldl (fun _ _ hv => hv.restoreLine) h _

theorem Canonical.applyAbort (h : Canonical s) : Canonical (applyAbort s i) := .ite h.modGroup h.restoreRound

theorem Canonical.settleAbort (h : Canonical s) : Canonical (settleAbort s i) := .ite h.restoreRound h

theorem Canonical.decide' (h : Canonical s) : Canonical (decide' s i b) := .ite h.sendAll.applyCommit h.sendAll.applyAbort

theorem Canonical.settleDecide (h : Canonical s) : Canonical (settleDecide s i) :=
  .ite h (.ite h (.ite h.decide' (.ite h.recordCommit.sendAll.decide' h.recordCommit.sendAll.modGroup)))

theorem Canonical.settleSeal (h : Canonical s) : Canonical (settleSeal s i) :=
  .ite h (.ite (.ite h.enterState.modGroup.settleDecide h.enterState.send) h)

theorem Canonical.sendDelta {old new : BitVec 512} (h : Canonical s) : Canonical (s.sendDelta i n old new) :=
  h.task (sendDelta_storedOnly _ _ _ _ _).taskOnly

theorem Canonical.sendSet (h : Canonical s) : Canonical (sendSet s i) := Canonical.foldl (fun _ _ hv => .ite hv hv.sendDelta) h _

theorem Canonical.cleanLines {l : List Nat} (h : Canonical s) : Canonical (l.foldl State.cleanLine s) :=
  Canonical.foldl (fun _ _ hv => hv.cleanLine) h l

theorem Canonical.enterSealing (h : Canonical s) : Canonical (enterSealing s i) :=
  Canonical.settleSeal (Canonical.foldl (fun _ _ hv => hv.sendDelta) h.enterState.cleanLines.sendSet _)

theorem Canonical.afterRepair (h : Canonical s) : Canonical (afterRepair s i) := .ite h.cleanLines.sendSet.settleSeal h

theorem Canonical.breakSlot (h : Canonical s) : Canonical (breakSlot s i) := h.enterState.modGroup.irqLeader.completeHeld

theorem Canonical.replaceRecorder (h : Canonical s) : Canonical (replaceRecorder s i j) := by
  unfold Machine.replaceRecorder
  dsimp only
  split
  · exact h.send.modGroup
  · exact .ite h.modGroup.decide' h.modGroup

theorem Canonical.loseMember (h : Canonical s) : Canonical (loseMember s i j) := by
  unfold Machine.loseMember
  have hlost : ∀ g, Canonical (s.setGroup i g) := fun g => h.setGroup
  refine .ite h (.ite (hlost _).breakSlot (.ite (hlost _) (.ite (.ite (hlost _).applyAbort (hlost _).settleSeal) (.ite ?_ ?_))))
  · exact .ite (hlost _).putLocal.modGroup.decide' (.ite (hlost _).putLocal.modGroup.decide' (hlost _).putLocal.modGroup.sendAll.modGroup)
  · exact .ite (.ite (hlost _).decide' (hlost _)) (.ite (.ite (hlost _).replaceRecorder (hlost _)) (hlost _).settleDecide)

/-! ## Messages -/

theorem Canonical.onSeal (h : Canonical s) : Canonical (onSeal s i m) := .ite h.enterSealing h

theorem Canonical.onDelta (h : Canonical s) : Canonical (onDelta s i m) := h.supWrite.send

theorem Canonical.onDack (h : Canonical s) : Canonical (onDack s i m) := h.modGroup.settleSeal

theorem Canonical.onPrepared (h : Canonical s) : Canonical (onPrepared s i m) := .ite h.modGroup.settleDecide h

theorem Canonical.onAbortreq (h : Canonical s) : Canonical (onAbortreq s i m) := .ite h.modGroup.settleDecide h

theorem Canonical.onCrec (h : Canonical s) : Canonical (onCrec s i m) := by
  unfold Machine.onCrec
  exact h.recordCommit.send

theorem Canonical.onCrecack (h : Canonical s) : Canonical (onCrecack s i m) := by
  unfold Machine.onCrecack
  split
  · exact .ite (.ite h.modGroup.decide' h.modGroup) h
  · exact h

theorem Canonical.onCommit (h : Canonical s) : Canonical (onCommit s i m) := .ite h.applyCommit h

theorem Canonical.onAbort (h : Canonical s) : Canonical (onAbort s i m) := .ite h.applyAbort h

theorem Canonical.onLoss (h : Canonical s) : Canonical (onLoss s i m) := .ite h.breakSlot h.loseMember

theorem Canonical.onQuery (h : Canonical s) : Canonical (onQuery s i m) := h.send

theorem Canonical.onQreply (h : Canonical s) : Canonical (onQreply s i m) :=
  .ite h (.ite h.decide' (.ite h.setGroup.decide' h.setGroup))

theorem Canonical.onShreq (h : Canonical s) : Canonical (onShreq s i m) := .ite h.send h

theorem Canonical.onShare (h : Canonical s) : Canonical (onShare s i m) := h.modGroup

theorem Canonical.openFormed (h : Canonical s) : Canonical (openFormed s i) := .ite h.setGroup.applyCommit h.setGroup.applyAbort

theorem Canonical.openRecovered (h : Canonical s) : Canonical (openRecovered s i) := .ite h.setGroup.enterState h

theorem Canonical.joinForming {x : JoinInfo} (h : Canonical s) : Canonical (joinForming s i m x) :=
  .ite h.enterState (.ite h.setGroup.openFormed h.setGroup)

theorem Canonical.joinRecovering {x : JoinInfo} (h : Canonical s) : Canonical (joinRecovering s i m x) := by
  unfold Machine.joinRecovering
  have hknown : ∀ g, Canonical (s.setGroup i g) := fun g => h.setGroup
  refine .ite h (Canonical.openRecovered ?_)
  exact .ite (.ite (hknown _).setRound (hknown _)) (Canonical.answerJoin (.ite (hknown _).setRound (hknown _)))

theorem Canonical.onJoin (h : Canonical s) : Canonical (onJoin s i m) := by
  unfold Machine.onJoin
  split
  · exact h
  · split
    · exact h.joinForming
    · exact h.joinRecovering
    · exact h.joinRecovering
    · exact h

theorem Canonical.handleMessage (h : Canonical s) : Canonical (handleMessage s i n m) := by
  unfold Machine.handleMessage
  split
  · exact h.onSeal
  · exact h.onDelta
  · exact h.onDack
  · exact h.onPrepared
  · exact h.onAbortreq
  · exact h.onCrec
  · exact h.onCrecack
  · exact h.onCommit
  · exact h.onAbort
  · exact h.onLoss
  · exact h.onQuery
  · exact h.onQreply
  · exact h.onShreq
  · exact h.onShare
  · exact h.onJoin
  · exact h

theorem Canonical.drainEarly (h : Canonical s) : Canonical (drainEarly i n s) := by
  induction n generalizing s with
  | zero => exact h
  | succ n ih =>
    rw [Machine.drainEarly]
    split
    · exact h
    · exact ih h.modGroup.handleMessage

theorem Canonical.drainGroups (h : Canonical s) : Canonical s.drainGroups := Canonical.foldl (fun _ _ hv => hv.drainEarly) h _

theorem receive_keeps (h : Canonical s) : Keeps (receive s n m) := by
  unfold receive
  refine .ite (keeps_notNow h) ?_
  split
  · exact keeps_happens h.countDropped
  · exact .ite (keeps_happens h) (.ite (keeps_happens h.setGroup) (.ite (keeps_happens h) (keeps_happens h.setGroup.drainEarly)))

theorem groupWindow_keeps {x : BitVec 1024} {join : Option JoinInfo} (h : Canonical s) : Keeps (groupWindow s x join) := by
  unfold groupWindow
  split
  · exact receive_keeps h
  · exact keeps_happens h.countDropped

/-! ## Registers and timers -/

variable {hart : Nat} {v : W64}

theorem grpcfgForm_keeps (h : Canonical s) : Keeps (execGrpcfgForm hart i v s) := by
  refine .ite (keeps_notNow h) (keeps_leaderWrite (fun u hu => ?_) h)
  dsimp only
  split
  · exact .ite hu.setGroup.irqLeader hu.setGroup.enterState.sendJoin
  · exact .ite hu.setGroup.sendJoin.openRecovered hu
  · exact hu

theorem grpcfgStby_keeps (h : Canonical s) : Keeps (execGrpcfgStby hart i v s) :=
  .ite (keeps_notNow h) (keeps_leaderWrite (fun _ hu => .ite hu (.ite hu.setGroup.irqLeader hu.setGroup.enterState.sendJoin)) h)

theorem grpcfgAbrt_keeps (h : Canonical s) : Keeps (execGrpcfgAbrt hart i v s) :=
  .ite (keeps_notNow h) (keeps_leaderWrite
    (fun _ hu => .ite hu.setGroup (.ite hu (.ite (.ite hu hu.setGroup.settleDecide) hu.setGroup.settleSeal))) h)

theorem grpmemWrite_keeps (h : Canonical s) : Keeps (execGrpmemWrite hart i j v s) := by
  refine keeps_leaderWrite (fun u hu => ?_) h
  dsimp only
  split
  · exact hu.setGroup
  · exact .ite hu (.ite hu.irqLeader hu.setGroup)
  · exact .ite hu (.ite hu.irqLeader hu.setGroup)
  · exact hu

theorem heartbeatTimer_keeps (h : Canonical s) : Keeps (execHeartbeatTimer i s) := .ite (keeps_notNow h) (keeps_happens h.setGroup.sendAll)

theorem memberLoss_keeps (h : Canonical s) : Keeps (execMemberLoss i j s) := .ite (keeps_notNow h) (keeps_happens h.sendAll.loseMember)

/-! ## Commands -/

variable {c : EngCmd}

theorem Canonical.protFault (h : Canonical s) : Canonical (protFault s c n v) := h.popQueue.stopQueue

theorem Canonical.runProt (h : Canonical s) : Canonical (runProt s c) := by
  unfold Machine.runProt
  refine .ite h.protFault ?_
  split
  · exact h.protFault
  · refine .ite h.protFault ?_
    dsimp only
    split
    · exact h.popQueue.modGroup.setProt.putLocal.putLocal.modGroup
    · exact h.popQueue.modGroup.putLocal

theorem Canonical.runRndend (h : Canonical s) : Canonical (runRndend s c) := by
  unfold Machine.runRndend
  refine .ite (Canonical.completeHead (Canonical.prefetch (h.same rfl rfl))) ?_
  split
  · exact h.popQueue.modGroup.sendAll.enterSealing
  · exact h.popQueue.modGroup
  · exact h.popQueue.modGroup
  · exact h.completeHead

theorem footsideExecution_keeps (h : Canonical s) : Keeps (execFootsideExecution cid s) := by
  unfold execFootsideExecution
  split
  · refine .ite (keeps_notNow h) ?_
    split
    · exact keeps_notNow h
    · exact keeps_eventOn (fun _ hv => ite_fst (.ite hv.settleHeld.modGroup hv.settleHeld) hv) h
  · exact keeps_queueEvent (fun _ _ hv => ite_fst hv (ite_fst hv.runProt hv.runRndend)) h

theorem Canonical.physWrite {x : LineTag} {bs : List Byte} (h : Canonical s) : Canonical (s.physWrite x a bs) :=
  h.task (physWrite_storedOnly _ _ _ _).taskOnly

theorem Canonical.plainWrite {bs : List Byte} (h : Canonical s) : Canonical (s.plainWrite a bs) := by
  unfold State.plainWrite
  refine Canonical.foldl (fun _ _ hv => hv.disownWord) ?_ _
  exact (h.dropResv (a := a) (n := bs.length)).physWrite (x := tagOf 0 (2 ^ 21) a) (a := a) (bs := bs) |>.same rfl rfl

theorem Canonical.darnStripe {shares : List (Nat × List Byte)} (h : Canonical s) : Canonical (darnStripe s g n shares) := by
  unfold Machine.darnStripe
  dsimp only
  split
  · exact h.plainWrite
  · exact h.supWrite

theorem Canonical.askShares (h : Canonical s) : Canonical (askShares s i n).1 := ite_fst h.sendAll.modGroup (ite_fst h.breakSlot h)

theorem Canonical.standbyDarned (h : Canonical s) : Canonical (standbyDarned s i j r).1 := ite_fst h.modGroup h

theorem Canonical.runDarn (h : Canonical s) : Canonical (runDarn s c).1 := by
  unfold Machine.runDarn
  refine ite_fst h.completeHead (ite_fst h.stopQueue ?_)
  split
  · exact h.modGroup.completeHead
  · split
    · exact h.askShares
    · exact ite_fst h.askShares (ite_fst h.darnStripe.modGroup.modEng h)

theorem darningStripe_keeps (h : Canonical s) : Keeps (execDarningStripe cid s) := keeps_queueEvent (fun _ _ hv => ite_fst hv.runDarn hv) h

/-! ## Repair -/

variable {got : List (Nat × List Byte)} {ms : List Nat} {gid : W16}

theorem repairChunk_keeps (h : Canonical s) : Keeps (repairChunk s g n ms got) := by
  unfold repairChunk
  dsimp only
  split
  · exact keeps_notNow h
  · exact .ite (keeps_notNow h) (keeps_happens (Canonical.supWrite (h.same rfl rfl)))

theorem protectedLineRepair_keeps {shares : List GroupShare} (h : Canonical s) : Keeps (execProtectedLineRepair i n shares s) := by
  refine .ite (.ite (keeps_notNow h) (repairChunk_keeps h)) (.ite (keeps_notNow h) (keeps_happens (Canonical.afterRepair (Canonical.modGroup ?_))))
  obtain ⟨hm, hc⟩ := h
  exact ⟨Memory.write_wf hm _ _, hc⟩

theorem Canonical.repairRead (h : Canonical s) : Canonical (repairRead s gid n).1 := by
  unfold Machine.repairRead
  split
  · exact h
  · exact h.setGroup

theorem Canonical.repairDone (h : Canonical s) : Canonical (repairDone s gid n) := by
  unfold Machine.repairDone
  split
  · exact h
  · exact h.modGroup.afterRepair

end

end Sys2Proof.Proofs
end

section
/-! PROOFS. Tasks, gangs and contexts keep the canonical form of HBM and of the capacity tier. -/

namespace Sys2Proof.Proofs

open Sys2Proof.Machine Sys2Proof.Laws

variable {s t u : State}

section
variable {i j k n r a cid : Nat} {g : Gang} {x : Ctx} {b : Bool} {asid : W16} {va : W64} {slots : List (Nat × Nat)} {ups : List Update}

theorem Canonical.withTamb {y : Tambour} (h : Canonical s) : Canonical { s with tamb := y } := h.same rfl rfl

theorem Canonical.withCtx (h : Canonical s) : Canonical { s with ctx := x } := h.same rfl rfl

theorem Canonical.withAudits {l : List AuditRun} (h : Canonical s) : Canonical { s with audits := l } := h.same rfl rfl

theorem Canonical.selfInvalidate (h : Canonical s) : Canonical s.selfInvalidate := h.task (TaskOnly.refl s).selfInvalidate

/-! ## Ends of gangs, audits and pre-emption -/

theorem Canonical.writeStatus (h : Canonical s) : Canonical (writeStatus s asid va n) := by
  unfold Machine.writeStatus
  split
  · exact h
  · split
    · exact h.noteWalk
    · exact h.remember.agentWrite

theorem Canonical.settleJobs (h : Canonical s) : Canonical (settleJobs s) :=
  Canonical.foldl (f := fun t _ => t.irqLeader irqQueue) (fun _ _ hv => hv.irqLeader) h.withTamb _

theorem Canonical.retireGang (h : Canonical s) : Canonical (retireGang s g) := .ite h.setGang h.setGang.writeStatus.settleJobs

theorem Canonical.countAudit (h : Canonical s) : Canonical (s.countAudit n) := h.modLife

theorem Canonical.passAudit (h : Canonical s) : Canonical (passAudit s slots) :=
  Canonical.foldl (fun _ _ hv => .ite hv.modGroup.settleSeal hv) h _

theorem Canonical.mismatch (h : Canonical s) : Canonical (mismatch s slots) :=
  Canonical.foldl (fun _ _ hv => .ite hv.modGroup.settleSeal hv) h _

theorem Canonical.modAudit {f : AuditRun → AuditRun} (h : Canonical s) : Canonical (s.modAudit n f) := h.same rfl rfl

theorem Canonical.openAudit (h : Canonical s) : Canonical (openAudit s x g) := by
  unfold Machine.openAudit
  split
  · exact h.modAudit
  · refine .ite h (.ite h.countAudit.mismatch (.ite h.countAudit ?_))
    exact (Canonical.foldl (f := fun t (p : Nat × Nat) => t.modGroup p.1 (fun g => { g with audits := g.audits + 1 })) (fun _ _ hv => hv.modGroup) h
      (auditSlots s)).same rfl rfl

theorem Canonical.freeSlots (h : Canonical s) : Canonical (s.freeSlots x) := h.setQuad

theorem Canonical.settleSaved (h : Canonical s) : Canonical (settleSaved s n) := by
  unfold Machine.settleSaved
  split
  · exact h
  · exact .ite h.setGang h

theorem Canonical.requestPreemption (h : Canonical s) : Canonical (requestPreemption s g) :=
  (Canonical.mapCtxs (Canonical.foldl (fun _ _ hv => hv.freeSlots) h.setGang _)).settleSaved

theorem preemptionRequest_keeps (h : Canonical s) : Keeps (execPreemptionRequest n s) := by
  unfold execPreemptionRequest
  split
  · exact keeps_notNow h
  · exact keeps_eventIf h h.requestPreemption

theorem Canonical.withdrawCore (h : Canonical s) : Canonical (withdrawCore s n) := by
  unfold Machine.withdrawCore
  refine Canonical.foldl (fun v i hv => ?_) ?_ _
  · split
    · exact .ite hv.requestPreemption hv
    · exact hv
  · exact h.same rfl rfl

theorem Canonical.suspect (h : Canonical s) : Canonical (suspect s n k) := h.recordError.withdrawCore

theorem Canonical.closeAudit {y : AuditRun} (h : Canonical s) : Canonical (closeAudit s y n) := h.withAudits.countAudit.passAudit

/-! ## Ends of tasks -/

theorem Canonical.leaveHoops (h : Canonical s) : Canonical (leaveHoops s) := Canonical.foldl (fun _ _ hv => .ite hv.leaveHoop hv) h _

theorem Canonical.dropArray (h : Canonical s) : Canonical (dropArray s b) := by
  unfold Machine.dropArray
  exact .ite h.giveUpLease (Canonical.foldl (fun _ _ hv => .ite hv.setTile.withFree hv) h.giveUpLease _)

theorem Canonical.keepEnded (h : Canonical s) : Canonical (s.keepEnded x) := .ite h (h.same rfl rfl)

theorem Canonical.dropCtx (h : Canonical s) : Canonical (s.dropCtx cid) := .ite (h.same rfl rfl) (h.same rfl rfl)

theorem Canonical.finishTask (h : Canonical s) : Canonical (finishTask s) := by
  have hleft := h.dropHold.leaveHoops.dropArray (b := true)
  unfold Machine.finishTask
  dsimp only
  split
  · exact hleft.freeSlots.keepEnded.dropCtx
  · exact .ite hleft.freeSlots.keepEnded.setGang.openAudit.dropCtx.retireGang hleft.freeSlots.keepEnded.setGang.openAudit.dropCtx.settleSaved

theorem taskRetirement_keeps (h : Canonical s) : Keeps (execTaskRetirement cid s) := by
  unfold execTaskRetirement
  split
  · exact keeps_notNow h
  · exact .ite (keeps_happens (Canonical.onCtx (fun _ hv => hv.dropHold) h))
      (.ite (keeps_notNow h) (keeps_happens (Canonical.onCtx (fun _ hv => hv.finishTask) h)))

theorem Canonical.cancelUpdates (h : Canonical s) : Canonical (cancelUpdates s ups).1 := by
  induction ups generalizing s with
  | nil => exact h
  | cons w ups ih =>
    rw [Machine.cancelUpdates]
    split
    next s1 hup => exact ih (h.updateOnce hup)
    · exact ih h
    · exact ih h

theorem Canonical.cancelChannel (h : Canonical s) : Canonical (cancelChannel s b) := h.cancelUpdates.modChannel

theorem Canonical.cancelQueue (h : Canonical s) : Canonical (cancelQueue s n) := h.cancelUpdates.modEng

theorem Canonical.cancelTiles (h : Canonical s) : Canonical (cancelTiles s) := h.setQuad.cancelUpdates.modEng

theorem Canonical.cancelHeld (h : Canonical s) : Canonical (cancelHeld s) :=
  Canonical.foldl (fun _ _ hv => hv.modGroup.cancelUpdates.modEng) h _

theorem Canonical.cancelQueues {l : List Nat} (h : Canonical s) : Canonical (l.foldl Machine.cancelQueue s) :=
  Canonical.foldl (fun _ _ hv => hv.cancelQueue) h l

theorem Canonical.terminate (h : Canonical s) : Canonical (terminate s) := by
  unfold Machine.terminate
  have hqueues := (h.modCtx (f := Ctx.landAll)).cancelChannel (b := false) |>.cancelChannel (b := true) |>.cancelQueues (l := [2, 3, 4, 6, 7])
  exact Canonical.modCtx hqueues.cancelTiles.cancelHeld.modEng

theorem gangTermination_keeps (h : Canonical s) : Keeps (execGangTermination n s) := by
  unfold execGangTermination
  split
  · exact keeps_notNow h
  · exact .ite (keeps_notNow h)
      (keeps_happens (Canonical.foldl (fun _ _ hv => Canonical.onCtx (fun _ hw => hw.terminate) hv) h.setGang _))

theorem Canonical.endReplay (h : Canonical s) : Canonical (endReplay s n) :=
  Canonical.foldl (fun _ _ hv => Canonical.onCtx (fun _ hw => hw.terminate.finishTask) hv) h _

theorem auditReplayEnd_keeps {sig : BitVec 64} (h : Canonical s) : Keeps (execAuditReplayEnd n sig k b s) := by
  unfold execAuditReplayEnd
  split
  · exact keeps_notNow h
  · refine .ite (keeps_notNow h) ?_
    dsimp only
    split
    · exact .ite (keeps_happens h.endReplay.modAudit.closeAudit) (keeps_happens h.endReplay.modAudit.mismatch)
    · exact .ite (keeps_happens h.endReplay.modAudit.closeAudit.suspect) (.ite (keeps_happens h.endReplay.modAudit.closeAudit.suspect)
        (keeps_happens (Canonical.foldl (fun _ _ hv => hv.suspect) h.endReplay.modAudit.closeAudit _).irqLeader))

/-! ## Starts -/

theorem Canonical.drawTask (h : Canonical s) : Canonical (drawTask s g).1 := ite_fst h h.withFree

theorem Canonical.settleLate {qs : List Nat} (h : Canonical s) : Canonical (settleLate s qs) :=
  Canonical.foldl (fun _ _ hv => Canonical.onCtx (fun _ hw => hw.drainAll) hv) h _

theorem Canonical.startTask (h : Canonical s) : Canonical (s.startTask x) := (h.withCtx (x := x)).selfInvalidate.same rfl rfl

theorem Canonical.startGang {streams : List W64} {ks : List W32} {seats : List Seat} (h : Canonical s) :
    Canonical (startGang s g streams ks seats) := Canonical.foldl (fun _ _ hv => hv.drawTask.startTask) h.setGang _

theorem Canonical.startReplay {y : AuditRun} (h : Canonical s) : Canonical (startReplay s y) := by
  unfold Machine.startReplay
  refine .ite h ?_
  split
  · split
    · exact .ite h.settleLate h.settleLate.withTamb.startTask
    · exact h
  · exact h

/-! ## Waits and switches -/

theorem engineWait_keeps (h : Canonical s) : Keeps (execEngineWait cid s) := keeps_eventOn (fun _ hv => ite_fst hv.modCtx hv) h

theorem contextSwitch_keeps (h : Canonical s) : Keeps (execContextSwitch n s) := by
  unfold execContextSwitch
  dsimp only
  split
  · refine .ite (keeps_happens (Canonical.onCtx (fun _ hv => hv.modCtx) h)) ?_
    split
    · exact keeps_happens h.mapCtxs
    · exact keeps_notNow h
  · split
    · exact keeps_happens h.mapCtxs
    · exact keeps_notNow h

theorem hoopNotification_keeps (h : Canonical s) : Keeps (execHoopNotification cid n s) := by
  unfold execHoopNotification
  refine keeps_eventOn (fun v hv => ?_) h
  dsimp only
  split
  · exact hv
  · exact ite_fst hv (ite_fst (.ite hv.modCtx.modCtx hv.modCtx) (ite_fst (.ite hv.modCtx hv) hv))

theorem podHoopArrival_keeps {leave armed : Bool} (h : Canonical s) : Keeps (execPodHoopArrival n leave armed s) := by
  unfold execPodHoopArrival
  split
  · exact keeps_notNow h
  · exact .ite (keeps_notNow h) (keeps_happens (h.same rfl rfl))

theorem writeLands_keeps (h : Canonical s) : Keeps (execWriteLands cid s) := by
  unfold execWriteLands
  refine keeps_eventOn (fun v hv => ?_) h
  split
  · exact hv
  · exact hv.modCtx

theorem globalAccessPerformed_keeps (h : Canonical s) : Keeps (execGlobalAccessPerformed cid n s) :=
  keeps_eventOn (fun _ hv => ite_fst hv.performAt hv) h

theorem Canonical.deliverOld {o : Option Nat} (h : Canonical s) : Canonical (deliverOld s i n o) := h.modCtx

theorem Canonical.abortEffect {y : Access} (h : Canonical s) : Canonical (abortEffect s y) := by
  unfold Machine.abortEffect
  dsimp only
  split
  · exact h.modCtx
  · exact h.modCtx
  · exact h.modCtx.deliverOld
  · exact h.modCtx
  · exact h.modCtx.deliverOld
  · exact h.modCtx
  · exact h

theorem Canonical.abortAccess {y : Access} (h : Canonical s) : Canonical (abortAccess s y) :=
  .ite h.modCtx.abortEffect.selfInvalidate h.modCtx.abortEffect

theorem remoteTimeout_keeps (h : Canonical s) : Keeps (execRemoteTimeout cid n s) := by
  unfold execRemoteTimeout
  refine keeps_eventOn (fun v hv => ?_) h
  dsimp only
  split
  · exact ite_fst hv.abortAccess hv
  · exact ite_fst hv.abortPosition hv

theorem Canonical.enterTrap {c : Cluster} {tval ecmd : W64} (h : Canonical s) : Canonical (enterTrap s c n tval ecmd) :=
  h.task (TaskOnly.refl s).enterTrap

theorem engineFaultDelivery_keeps (h : Canonical s) : Keeps (execEngineFaultDelivery cid s) := by
  unfold execEngineFaultDelivery
  refine keeps_eventOn (fun v hv => ?_) h
  dsimp only
  split
  · exact hv
  · exact ite_fst hv (Canonical.enterTrap (Canonical.modCtx hv.modEng))

/-! ## Stops -/

variable {f : ClusterState → Bool} {y : StopRecord}

theorem Canonical.parkWaits (h : Canonical s) : Canonical (parkWaits s) := .ite h h.modCtx

theorem Canonical.beginStop (h : Canonical s) : Canonical (beginStop s f) := h.modCtx.modCtx

theorem Canonical.stopIfParked (h : Canonical s) : Canonical (stopIfParked s) := .ite h.beginStop h

theorem forcedStop_keeps (h : Canonical s) : Keeps (execForcedStop n s) := by
  unfold execForcedStop
  split
  · exact keeps_notNow h
  · exact .ite (keeps_notNow h) (keeps_happens (Canonical.foldl (fun _ _ hv => Canonical.onCtx (fun _ hw => hw.beginStop) hv) h _))

theorem Canonical.stampRange (h : Canonical s) : Canonical (s.stampRange a n k) := h.same rfl rfl

theorem foldl_copyBetween_wf {α : Type} {m : Memory} (h : m.wf = true) (l : List α) (src : α → Memory) (a b : α → Nat) (n : Nat) :
    (l.foldl (fun (m : Memory) p => copyBetween (src p) m (a p) (b p) n) m).wf = true := by
  induction l generalizing m with
  | nil => exact h
  | cons p l ih => exact ih (copyBetween_wf h _ _ _ _)

theorem Canonical.writeArea (h : Canonical s) : Canonical (writeArea s y) := by
  unfold Machine.writeArea
  obtain ⟨hm, hc⟩ := h.evictRange (a := areaOf s s.ctx.cid) (n := 2 ^ 21)
  refine Canonical.stampRange ⟨?_, hc⟩
  refine foldl_copyBetween_wf ?_ (mappedSlots s.ctx) (fun p => (vget (s.quad s.ctx.quadId).slots p.2 .reset).bytes) (fun _ => 0)
    (fun p => areaOf s s.ctx.cid + slotOffset p.1) 6208
  have hrows := Memory.foldl_write_wf hm (areaRows s s.ctx y) (fun w => areaOf s s.ctx.cid + w.1) (·.2)
  split
  · exact copyBetween_wf (copyBetween_wf (copyBetween_wf hrows _ _ _ _) _ _ _ _) _ _ _ _
  · exact copyBetween_wf (copyBetween_wf hrows _ _ _ _) _ _ _ _

theorem Canonical.passedEffect {w : Access} {e : Elem} (h : Canonical s) : Canonical (passedEffect s w e j) := by
  have hlogged : Canonical (if w.logs then s.modCtx (·.logRead (cnum w.issuer) w.num e.va (natBytes (leNat (s.passedBytes e w.size)) w.size)) else s) :=
    .ite h.modCtx h
  unfold Machine.passedEffect
  dsimp only
  cases w.makes j (leNat (s.passedBytes e w.size)) with
  | none =>
    dsimp only
    split
    · exact hlogged.deliverOld
    · exact hlogged.deliverOld
    · exact hlogged
  | some v =>
    dsimp only
    split
    · exact hlogged.modCtx.deliverOld
    · exact hlogged.modCtx.deliverOld
    · exact hlogged.modCtx

theorem Canonical.passOne (h : Canonical s) (hpass : passOne s = some t) : Canonical t := by
  unfold Machine.passOne at hpass
  split at hpass
  · cases hpass
  next w p _ =>
    have hmade := Canonical.foldl (f := fun t p => Machine.passedEffect t w p.1 p.2) (fun _ _ hv => hv.passedEffect) h w.elems.zipIdx
    split at hpass
    · obtain rfl := Option.some.inj hpass
      exact h.abortAccess
    · obtain rfl := Option.some.inj hpass
      exact .ite (Canonical.modCtx hmade.modGroup).selfInvalidate (Canonical.modCtx hmade.modGroup)

theorem Canonical.drainForStop (h : Canonical s) : Canonical (drainForStop s n) := by
  induction n generalizing s with
  | zero => exact h.drainAll
  | succ n ih =>
    rw [Machine.drainForStop]
    split
    next s2 hpass => exact ih (h.drainAll.passOne hpass)
    · exact h.drainAll

theorem Canonical.cutFills (h : Canonical s) : Canonical (cutFills s) := h.setMyQuad.modEng

theorem Canonical.finishStop (h : Canonical s) : Canonical (finishStop s y) :=
  have hwritten := (Canonical.modEng h.dropArray.cutFills).writeArea
  .ite (Canonical.modCtx hwritten.modCtx.freeSlots).settleSaved (Canonical.modCtx hwritten.modCtx).irq

theorem Canonical.release (h : Canonical s) : Canonical (s.release cid) := h.same rfl rfl

theorem contextStop_keeps (h : Canonical s) : Keeps (execContextStop cid s) := by
  unfold execContextStop
  refine keeps_eventOn (fun v hv => ?_) h
  refine ite_fst hv (ite_fst hv.modCtx (ite_fst hv (ite_fst hv.release ?_)))
  dsimp only
  split
  · exact ite_fst hv.drainForStop.finishStop hv
  · exact hv

/-! ## Resumptions -/

theorem Canonical.readArea (h : Canonical s) : Canonical (readArea s y) := h.modCtx

theorem Canonical.restoreSlots (h : Canonical s) : Canonical (restoreSlots s slots) := h.setQuad.modEng

theorem Canonical.retakeHold (h : Canonical s) : Canonical (retakeHold s) := by
  unfold Machine.retakeHold
  split
  · exact h
  · exact h.same rfl rfl

theorem Canonical.resumeHere (h : Canonical s) : Canonical (resumeHere s slots) := by
  unfold Machine.resumeHere
  split
  · exact h
  · exact (Canonical.modCtx h.restoreSlots.readArea.retakeHold.modEng).selfInvalidate

theorem Canonical.resumeSeated (h : Canonical s) : Canonical (resumeSeated s) := .ite h.restoreSlots.modCtx h.resumeHere

theorem Canonical.resumeGang {xs : List Ctx} {p : Seating} (h : Canonical s) : Canonical (resumeGang s g xs p) := by
  unfold Machine.resumeGang
  refine Canonical.foldl (fun _ _ hv => Canonical.onCtx (fun _ hw => hw.resumeSeated) hv) ?_ _
  exact h.same rfl rfl

theorem contextResumption_keeps (h : Canonical s) : Keeps (execContextResumption cid s) := by
  unfold execContextResumption
  split
  · exact keeps_notNow h
  · refine .ite (.ite (keeps_notNow h) (.ite (keeps_happens h.irqLeader) (keeps_happens (Canonical.onCtx (fun _ hv => hv.resumeHere) h)))) ?_
    split
    · exact keeps_notNow h
    · refine .ite (keeps_notNow h) (.ite (keeps_happens h.irqLeader) ?_)
      split
      · exact keeps_notNow h
      · exact .ite (keeps_notNow h) (keeps_happens h.settleLate.resumeGang)

theorem accevict_keeps {hart : Nat} {v : W64} (h : Canonical s) : Keeps (execAccevict hart n v s) :=
  keeps_dieWrite (fun _ hu => hu.accevictWrite) h

end

end Sys2Proof.Proofs
end

section
/-! PROOFS. Queues and the Tambour keep the canonical form of HBM and of the capacity tier. -/

namespace Sys2Proof.Proofs

open Sys2Proof.Machine Sys2Proof.Laws

variable {s t u : State}

section
variable {k n qid hart slot : Nat} {x : HwSlot} {v w : W32} {q p asid : W16} {va cmd : W64} {b : Bool} {d : Desc} {packet : BitVec 512} {c : EngCmd}

/-! ## Notifies -/

theorem Canonical.setHwSlot (h : Canonical s) : Canonical (s.setHwSlot k x) := h.withTamb

theorem Canonical.countQueueError (h : Canonical s) : Canonical (s.countQueueError qid) := h.putLocal

theorem Canonical.postWake (h : Canonical s) : Canonical (s.postWake qid) := h.task (TaskOnly.refl s).postWake

theorem Canonical.wakeQueue (h : Canonical s) : Canonical (s.wakeQueue qid w) := by
  unfold State.wakeQueue
  split
  · exact h.setHwSlot
  · exact h.putLocal.postWake

theorem Canonical.notify (h : Canonical s) : Canonical (Machine.notify s qid w) :=
  .ite h.countQueueError (.ite h.wakeQueue h.countQueueError)

theorem Canonical.setPair (h : Canonical s) : Canonical (s.setPair q p n b) := h.same rfl rfl

theorem Canonical.badNotify (h : Canonical s) : Canonical (badNotify s q p) :=
  .ite h.countQueueError.setPair.irqLeader h.countQueueError.setPair

theorem Canonical.setQueueSeq (h : Canonical s) : Canonical (s.setQueueSeq qid v) := by
  unfold State.setQueueSeq
  split
  · exact h.setHwSlot
  · exact h.putLocal

theorem Canonical.remoteNotify {msg : BitVec 192} (h : Canonical s) : Canonical (remoteNotify s q msg) := by
  unfold Machine.remoteNotify
  dsimp only
  have hchecked : ∀ {v}, Canonical v → ∀ {n m w}, Canonical (Machine.notify (v.setQueueSeq n w) n m) := fun hv => hv.setQueueSeq.notify
  refine .ite h.countQueueError (.ite h.countQueueError.setPair.irqLeader (.ite h.countQueueError (.ite h.badNotify
    (.ite h.badNotify (.ite h.badNotify (hchecked ?_))))))
  exact .ite h.setPair h

theorem qnotify_keeps {v : BitVec 64} (h : Canonical s) : Keeps (execQnotify hart v s) :=
  keeps_gated h (keeps_leaderWrite (fun _ hu => hu.notify) h)

theorem remoteNotify_keeps {msg : BitVec 192} (h : Canonical s) : Keeps (execRemoteNotify q msg s) :=
  .ite (keeps_gated h (keeps_happens h.remoteNotify)) (keeps_notNow h)

theorem nqclr_keeps (h : Canonical s) : Keeps (execNqclr hart q p s) := keeps_leaderWrite (fun _ hu => hu.withTamb) h

/-! ## Maps -/

theorem Canonical.withHub {y : Hub} (h : Canonical s) : Canonical { s with hub := y } := h.same rfl rfl

theorem Canonical.qmapResult (h : Canonical s) : Canonical (qmapResult s cmd n) := h.withHub

theorem Canonical.settleQmap (h : Canonical s) : Canonical (settleQmap s) := by
  unfold Machine.settleQmap
  split
  · exact h.withHub
  · exact h

theorem Canonical.mapQueue (h : Canonical s) : Canonical (mapQueue s k qid d) := h.putLocal.setHwSlot.withTamb

theorem Canonical.unmapQueue (h : Canonical s) : Canonical (unmapQueue s k x b) := h.putLocal.putLocal.putLocal.putLocal.withTamb

theorem keeps_qmapWrite {f : State → State} (hf : ∀ u, Canonical u → Canonical (f u)) (h : Canonical s) : Keeps (qmapWrite s hart f) :=
  keeps_leaderWrite (fun u hu => .ite hu (hf u hu)) h

theorem qmapcmdMap_keeps {v : BitVec 64} (h : Canonical s) : Keeps (execQmapcmdMap hart v s) :=
  .ite (keeps_notNow h) (keeps_qmapWrite (fun _ hu => .ite hu (.ite hu.qmapResult (.ite hu.qmapResult (.ite hu.qmapResult hu.mapQueue.qmapResult)))) h)

theorem qmapcmdUnmap_keeps {v : BitVec 64} (h : Canonical s) : Keeps (execQmapcmdUnmap hart v s) := by
  refine .ite (keeps_notNow h) (keeps_qmapWrite (fun u hu => .ite hu ?_) h)
  split
  · exact hu.unmapQueue.qmapResult
  · exact hu.qmapResult

/-! ## Packets -/

theorem Canonical.runEnq (h : Canonical s) : Canonical (runEnq s c).1 := by
  unfold Machine.runEnq
  dsimp only
  refine ite_fst h.completeHead (ite_fst h (ite_fst h ?_))
  split
  · exact h.noteWalk.stopQueue
  · exact ite_fst h h.remember.agentWrite.wakeQueue.completeHead

theorem queueEngineExecution_keeps (h : Canonical s) : Keeps (execQueueEngineExecution n s) :=
  keeps_queueEvent (fun _ _ hu => ite_fst hu.runEnq hu) h

theorem Canonical.hubRead {y : State × List Byte} (h : Canonical s) (hread : hubRead s asid va n = some y) : Canonical y.1 := by
  unfold Machine.hubRead at hread
  obtain ⟨e, -, rfl⟩ := Option.map_eq_some_iff.1 hread
  exact h.remember.homeRead

theorem Canonical.noteHead (h : Canonical s) : Canonical (noteHead s x) := by
  unfold Machine.noteHead
  cases hread : Machine.hubRead s x.asid (headVa x) 64 with
  | none => exact h
  | some y => exact h.hubRead hread

theorem Canonical.reportLaunch (h : Canonical s) : Canonical (reportLaunch s asid packet) := by
  unfold Machine.reportLaunch
  split
  · exact h
  · split
    · exact h
    · exact .ite h h.meetLost

theorem Canonical.consume (h : Canonical s) : Canonical (s.consume k x) := h.noteHead.setHwSlot.withTamb

theorem Canonical.reject (h : Canonical s) : Canonical (reject s k x packet n) := by
  unfold Machine.reject
  have hcounted := (h.putLocal (a := descAddr s x.qid + 27) (n := 1) (m := n)).countQueueError (qid := x.qid)
  exact (Canonical.ite hcounted.writeStatus hcounted).consume.irqLeader

theorem tambourFault_keeps (h : Canonical s) : Keeps (tambourFault s k x b) := .ite (keeps_notNow h) (keeps_happens h.setHwSlot.irqLeader)

theorem keeps_atHead {f : HwSlot → BitVec 512 → Result} (hf : ∀ x packet, Keeps (f x packet)) (h : Canonical s) :
    Keeps (atHead s k n f) := by
  unfold atHead
  split
  · exact keeps_notNow h
  · split
    · exact .ite (hf _ _) (keeps_notNow h)
    · exact .ite (tambourFault_keeps h) (keeps_notNow h)

theorem launch_keeps (h : Canonical s) : Keeps (execLaunch slot s) := by
  refine keeps_atHead (fun x packet => .ite (keeps_notNow h) ?_) h
  split
  · exact keeps_eventIf h (Canonical.ite h.reportLaunch h).reject
  · exact keeps_happens h.setHwSlot.withTamb

theorem Canonical.dropLaunch {g : Gang} (h : Canonical s) : Canonical (dropLaunch s slot x packet g) := h.withTamb.reject

theorem gangPlacement_keeps (h : Canonical s) : Keeps (execGangPlacement slot s) := by
  refine keeps_atHead (fun x packet => .ite (keeps_notNow h) ?_) h
  split
  · exact keeps_notNow h
  · dsimp only
    have hgone : ∀ {g b}, Keeps (eventIf b s (Machine.dropLaunch s slot x packet g)) := keeps_eventIf h h.dropLaunch
    split
    · exact hgone
    · exact .ite hgone (keeps_happens h.settleLate.consume.startGang)

theorem gangReserving_keeps (h : Canonical s) : Keeps (execGangReserving slot s) :=
  keeps_atHead (fun _ _ => .ite (keeps_notNow h) (keeps_happens h.setHwSlot)) h

theorem waitsig_keeps (h : Canonical s) : Keeps (execWaitsig slot s) := by
  refine keeps_atHead (fun x packet => ?_) h
  split
  · exact .ite (tambourFault_keeps h) (keeps_notNow h)
  next s1 v hread => exact .ite (keeps_happens (h.hubRead hread).setHwSlot) (keeps_eventIf h (h.hubRead hread).consume)

theorem setsig_keeps (h : Canonical s) : Keeps (execSetsig slot s) := by
  refine keeps_atHead (fun x packet => ?_) h
  dsimp only
  split
  · exact .ite (tambourFault_keeps h) (keeps_notNow h)
  · exact .ite (keeps_notNow h) (keeps_happens (.ite h.consume.remember.atomic.wakePage h.consume.remember.atomic))

theorem mark_keeps (h : Canonical s) : Keeps (execMark slot s) :=
  keeps_atHead (fun _ _ => .ite (keeps_notNow h) (keeps_happens h.consume.withTamb.settleJobs)) h

theorem nopPacket_keeps (h : Canonical s) : Keeps (execNopPacket slot s) :=
  keeps_atHead (fun _ _ => .ite (keeps_happens h.consume) (keeps_notNow h)) h

theorem packetReject_keeps (h : Canonical s) : Keeps (execPacketReject slot s) := by
  unfold execPacketReject
  split
  · exact keeps_notNow h
  · split
    · exact keeps_notNow h
    · split
      · exact .ite (keeps_happens h.reject) (keeps_notNow h)
      · exact keeps_notNow h

/-! ## Waiting -/

theorem Canonical.settleReserving (h : Canonical s) : Canonical (settleReserving s) := h.withTamb

theorem Canonical.ageQueues (h : Canonical s) : Canonical (ageQueues s) := h.withTamb

theorem priorityAging_keeps (h : Canonical s) : Keeps (execPriorityAging slot s) := by
  unfold execPriorityAging
  split
  · exact keeps_notNow h
  · exact .ite (keeps_notNow h) (keeps_happens h.setHwSlot.settleReserving)

theorem faultHoldExpiry_keeps (h : Canonical s) : Keeps (execFaultHoldExpiry slot s) := by
  unfold execFaultHoldExpiry
  split
  · exact keeps_notNow h
  · split
    · exact keeps_notNow h
    · exact .ite (keeps_notNow h) (.ite (keeps_happens h.setHwSlot) (keeps_happens h.unmapQueue))

end

end Sys2Proof.Proofs
end

section
/-! PROOFS. The supervisor, harts and peers keep the canonical form of HBM and of the capacity tier. -/

namespace Sys2Proof.Proofs

open Sys2Proof.Machine Sys2Proof.Laws

variable {s t u : State}

section
variable {k n i a line die hart stack row : Nat} {v : W64} {b ok : Bool} {e : Elem} {bs : List Byte}

/-! ## Registers -/

theorem Canonical.modHub {f : Hub → Hub} (h : Canonical s) : Canonical (s.modHub f) := h.withHub

theorem Canonical.modDie {f : DieState → DieState} (h : Canonical s) : Canonical (s.modDie k f) := h.same rfl rfl

theorem Canonical.signalPageWrite (h : Canonical s) : Canonical (signalPageWrite s v) := h.withTamb

theorem Canonical.podHoopWrite (h : Canonical s) : Canonical (podHoopWrite s n v) := h.modHub

theorem Canonical.leaderReg {reg : MmioReg} (h : Canonical s) : Canonical (leaderReg s reg v) := by
  unfold Machine.leaderReg
  split
  case h_1 => exact h.modHub.settleTrigger
  case h_2 => exact h.modHub.settleTrigger
  case h_3 => exact h.modHub
  case h_4 => exact h.modHub
  case h_5 => exact h.modHub
  case h_6 => exact h.modHub
  case h_7 => exact h.modHub
  case h_8 => exact h.modHub
  case h_9 => exact h.modHub
  case h_10 => exact .ite h.setGroup h
  case h_11 => exact .ite h.setGroup h
  case h_12 => exact h.signalPageWrite
  case h_13 => exact h.podHoopWrite
  case h_14 => exact h.withTamb
  case h_15 => exact h.modDie
  case h_16 => exact h

theorem registerWrite_keeps {reg : MmioReg} {v : BitVec 64} (h : Canonical s) : Keeps (execRegisterWrite hart reg v s) := by
  have hleader : ∀ {reg}, Keeps (leaderWrite s hart (Machine.leaderReg · reg v)) := keeps_leaderWrite (fun _ hu => hu.leaderReg) h
  unfold execRegisterWrite
  split
  case h_1 => exact keeps_dieWrite (fun _ hu => hu.setQuad) h
  case h_2 => exact keeps_dieWrite (fun _ hu => hu.modDie) h
  case h_3 => exact keeps_dieWrite (fun _ hu => hu.modDie) h
  case h_20 => exact .ite (keeps_notNow h) hleader
  case h_21 => exact hleader
  any_goals exact keeps_happens h
  all_goals exact keeps_notNow h

theorem Canonical.hartRead {reg : MmioReg} (h : Canonical s) : Canonical (hartRead s die reg) := .ite h.modHub.withTamb h.modHub

/-! ## The lease -/

theorem leadWrite_keeps {f : Hub → Hub} (h : Canonical s) : Keeps (leadWrite s die ok f) := .ite (keeps_notNow h) (keeps_happens h.modHub)

theorem leadcmdRenew_keeps {v : BitVec 64} (h : Canonical s) : Keeps (execLeadcmdRenew die v s) := .ite (keeps_notNow h) (leadWrite_keeps h)

theorem leadcmdTake_keeps {v : BitVec 64} (h : Canonical s) : Keeps (execLeadcmdTake die v s) := .ite (keeps_notNow h) (leadWrite_keeps h)

theorem leadcmdResign_keeps {v : BitVec 64} (h : Canonical s) : Keeps (execLeadcmdResign die v s) := .ite (keeps_notNow h) (leadWrite_keeps h)

theorem leaseLapse_keeps (h : Canonical s) : Keeps (execLeaseLapse s) :=
  .ite (keeps_notNow h) (keeps_happens (Canonical.foldl (fun _ _ hv => hv.irq) h.modHub _))

/-! ## Keys -/

theorem Canonical.keyResult (h : Canonical s) : Canonical (keyResult s v n) := h.modHub

theorem Canonical.settleKey (h : Canonical s) : Canonical (settleKey s) := by
  unfold Machine.settleKey
  split
  · exact h.modHub
  · exact h

theorem keeps_keyWrite {f : State → State} (hf : ∀ u, Canonical u → Canonical (f u)) (h : Canonical s) : Keeps (keyWrite s hart f) :=
  keeps_leaderWrite (fun u hu => .ite hu (hf u hu)) h

theorem Canonical.cleanAll (h : Canonical s) : Canonical s.cleanAll := h.cleanLines

theorem Canonical.keyNumber (h : Canonical s) : Canonical (keyNumber s bs).1 := by
  unfold Machine.keyNumber
  split
  · exact h
  · exact h.modHub

theorem Canonical.discardKey (h : Canonical s) : Canonical (discardKey s n) := h.same rfl rfl

theorem Canonical.zeroiseKey (h : Canonical s) : Canonical (zeroiseKey s n) := h.discardKey.modHub

theorem keycmdLoadMemoryKey_keeps {v : BitVec 64} (h : Canonical s) : Keeps (execKeycmdLoadMemoryKey hart v s) := by
  refine .ite (keeps_notNow h) (keeps_keyWrite (fun u hu => .ite hu.keyResult ?_) h)
  split
  · exact hu.keyResult
  · exact hu.cleanAll.keyNumber.modHub.keyResult

theorem keycmdZeroiseMemoryKey_keeps {v : BitVec 64} (h : Canonical s) : Keeps (execKeycmdZeroiseMemoryKey hart v s) :=
  .ite (keeps_notNow h) (keeps_keyWrite (fun _ hu => .ite hu.keyResult hu.zeroiseKey.keyResult) h)

theorem keycmdLoadNotifyKey_keeps {v : BitVec 64} (h : Canonical s) : Keeps (execKeycmdLoadNotifyKey hart v s) := by
  refine .ite (keeps_notNow h) (keeps_keyWrite (fun u hu => ?_) h)
  split
  · exact hu.keyResult
  · exact hu.keyNumber.modHub.keyResult

theorem keycmdZeroiseNotifyKey_keeps {v : BitVec 64} (h : Canonical s) : Keeps (execKeycmdZeroiseNotifyKey hart v s) :=
  .ite (keeps_notNow h) (keeps_keyWrite (fun _ hu => hu.modHub.keyResult) h)

/-! ## Measurements, signatures and invalidations -/

theorem Canonical.withFlash {f : Flash} (h : Canonical s) : Canonical { s with flash := f } := h.same rfl rfl

theorem Canonical.modFlash {f : Flash → Flash} (h : Canonical s) : Canonical (s.modFlash f) := h.same rfl rfl

theorem Canonical.extendMeas {x : BitVec 384} (h : Canonical s) : Canonical (extendMeas s i x) := h.modHub

theorem measext_keeps {x : BitVec 384} (h : Canonical s) : Keeps (execMeasext hart i x s) :=
  .ite (keeps_notNow h) (.ite (keeps_happens h.extendMeas) (keeps_happens h))

theorem signcmd_keeps {pa : BitVec 64} (h : Canonical s) : Keeps (execSigncmd hart pa s) :=
  .ite (keeps_notNow h) (.ite (keeps_happens h) (keeps_happens h.putLocal.supWrite.withFlash))

theorem flashMailboxRead_keeps (h : Canonical s) : Keeps (execFlashMailboxRead hart s) := .ite (keeps_notNow h) (keeps_happens h.modHub)

theorem Canonical.settleXinv (h : Canonical s) : Canonical (settleXinv s) := h.modHub

theorem Canonical.invalidate {drop : TlbEntry → Bool} {hit : W16 → W64 → Bool} (h : Canonical s) : Canonical (invalidate s v drop hit) :=
  h.withTlb.modHub.settleXinv

theorem xinvWrite_keeps {m : List Nat} {drop : TlbEntry → Bool} {hit : W16 → W64 → Bool} (h : Canonical s) :
    Keeps (xinvWrite s hart v m drop hit) :=
  .ite (keeps_notNow h) (keeps_leaderWrite (fun _ hu => .ite hu hu.invalidate) h)

theorem xinvAll_keeps {v : BitVec 64} (h : Canonical s) : Keeps (execXinvAll hart v s) := xinvWrite_keeps h

theorem xinvAsid_keeps {v : BitVec 64} (h : Canonical s) : Keeps (execXinvAsid hart v s) := xinvWrite_keeps h

theorem xinvPage_keeps {v : BitVec 64} (h : Canonical s) : Keeps (execXinvPage hart v s) := xinvWrite_keeps h

/-! ## Harts and peers -/

theorem Canonical.hartLoad {r : Option (List Byte)} (h : Canonical s) : Canonical (s.hartLoad die r) := h.modHub

theorem Canonical.setResv {r : Option (Nat × Nat)} (h : Canonical s) : Canonical (s.setResv die r) := h.modHub

theorem Canonical.hartStore (h : Canonical s) : Canonical (hartStore s e bs) := h.agentWrite.prunePages

theorem Canonical.hartAccess {acc : HartAccess} (h : Canonical s) : Canonical (hartAccess s die e acc) := by
  cases acc with
  | fence => exact h
  | load => exact h.homeRead.hartLoad
  | store => exact h.hartStore
  | lr => exact h.homeRead.hartLoad.setResv
  | sc => exact (Canonical.ite h.hartStore h).hartLoad.setResv
  | amo =>
    unfold Machine.hartAccess
    dsimp only
    exact h.atomic.prunePages.hartLoad

theorem Keeps.fault {x : Fault} : Keeps (.fault x) := by
  intro t ht
  simp at ht

theorem supervisorHartAccess_keeps {acc : HartAccess} (h : Canonical s) : Keeps (execSupervisorHartAccess die acc s) := by
  refine .ite (keeps_notNow h) ?_
  split
  · exact keeps_happens h
  · exact .ite .fault (.ite (keeps_notNow h) (keeps_happens h.hartAccess))

theorem Canonical.reply {r : Option (List Byte)} (h : Canonical s) : Canonical (s.reply r) := h.modHub

theorem Canonical.wakeFrame (h : Canonical s) : Canonical (wakeFrame s a) := Canonical.foldl (fun _ _ hv => hv.wakePage) h _

theorem keeps_peerAtomic {f : Nat → Option Nat} {then' : State → State} (hthen : ∀ u, Canonical u → Canonical (then' u)) (h : Canonical s) :
    Keeps (peerAtomic s a n f then') := by
  unfold peerAtomic
  dsimp only
  refine .ite (keeps_notNow h) (keeps_happens (Canonical.reply ?_))
  exact .ite (hthen _ h.atomic) h.atomic

theorem servePeer_keeps {req : FabricReq} (h : Canonical s) : Keeps (servePeer req s) := by
  unfold servePeer
  cases req with
  | read => exact .ite (keeps_notNow h) (keeps_happens h.homeRead.reply)
  | write => exact .ite (keeps_notNow h) (keeps_happens h.agentWrite.reply)
  | atomic => exact keeps_peerAtomic (fun _ hu => hu) h
  | cas => exact keeps_peerAtomic (fun _ hu => hu) h
  | signal => exact keeps_peerAtomic (fun _ hu => hu.wakeFrame) h
  | groupWindow => exact groupWindow_keeps h
  | repairRead => exact keeps_happens h.repairRead.reply
  | repairDone => exact keeps_happens h.repairDone

theorem ualinkRequest_keeps {req : FabricReq} (h : Canonical s) : Keeps (execUalinkRequest req s) :=
  .ite (keeps_notNow h) (.ite (keeps_happens h.countDropped) (.ite .fault (.ite (servePeer_keeps h) (keeps_happens h.modHub))))

theorem Canonical.settlePeer {w : FabricReq × Nat} (h : Canonical s) : Canonical (settlePeer s w) := by
  refine .ite h.modHub.reply (.ite h ?_)
  split
  next t hserve =>
    have ht := servePeer_keeps h t hserve
    exact .ite ht.modHub h
  · exact h

theorem Canonical.settlePeers (h : Canonical s) : Canonical (settlePeers s) := Canonical.foldl (fun _ _ hv => hv.settlePeer) h _

theorem uetPacket_keeps {secured reliable : Bool} {payload : UetPayload} (h : Canonical s) : Keeps (execUetPacket secured reliable payload s) := by
  refine .ite (keeps_happens h.countDropped) (.ite (keeps_notNow h) ?_)
  cases payload with
  | notify src msg => exact keeps_gated h (keeps_happens h.remoteNotify)
  | other => exact keeps_happens h

end

end Sys2Proof.Proofs
end

section
/-! PROOFS. Errors, resets and power keep the canonical form of HBM and of the capacity tier. -/

namespace Sys2Proof.Proofs

set_option Elab.async false

open Sys2Proof.Machine Sys2Proof.Laws

variable {s t u : State}

section
variable {k n i f line cid hart stack row : Nat} {l : Leaf} {p : PageInfo} {r : Requester} {b : Bool}

/-! ## Frames that wear out -/

theorem Canonical.withPower {y : Power} (h : Canonical s) : Canonical { s with power := y } := h.same rfl rfl

theorem Canonical.startLeave (h : Canonical s) : Canonical (startLeave s l p) := by
  unfold Machine.startLeave
  dsimp only
  split
  · exact h
  · exact .ite h h.takeFree.putPage

theorem Canonical.recordRetired (h : Canonical s) : Canonical (s.recordRetired f) := .ite h h.modFlash

theorem Canonical.withWorn {ws : List Nat} (h : Canonical s) : Canonical { s with worn := ws } := h.same rfl rfl

theorem Canonical.retireFrame (h : Canonical s) : Canonical (retireFrame s f) := by
  unfold Machine.retireFrame
  split
  · exact .ite h h.recordRetired.takeFree
  · exact .ite h.withWorn h.withWorn.recordRetired.startLeave

theorem Canonical.retryWorn (h : Canonical s) : Canonical (retryWorn s) := Canonical.foldl (fun _ _ hv => hv.retireFrame) h.withWorn _

/-! ## Errors -/

theorem Canonical.abortRound (h : Canonical s) : Canonical (abortRound s i) :=
  .ite h.modGroup.settleSeal (.ite h (.ite h.modGroup.modGroup.settleDecide h.modGroup.send))

theorem Canonical.groupError (h : Canonical s) : Canonical (groupError s line) := by
  unfold Machine.groupError
  split
  · exact h.modGroup
  · split
    · exact h.abortRound
    · exact h

theorem Canonical.loseLine (h : Canonical s) : Canonical (loseLine s line) := h.same rfl rfl

theorem Canonical.cancelMove (h : Canonical s) : Canonical (cancelMove s line) := by
  unfold Machine.cancelMove
  split
  · split
    · exact h.addFree.putPage
    · exact h
  · exact h

theorem Canonical.hbmError (h : Canonical s) : Canonical (hbmError s line) := h.loseLine.cancelMove.reportError.groupError.retireFrame

theorem Canonical.abortFor (h : Canonical s) : Canonical (abortFor s line) := by
  unfold Machine.abortFor
  split
  · exact h.abortRound
  · exact h

theorem Canonical.dropStruck {d : DieLine} (h : Canonical s) : Canonical (s.dropStruck d) := h.same rfl rfl

theorem Canonical.cacheError {d : DieLine} {e : Option Elem} (h : Canonical s) : Canonical (cacheError s d r e) :=
  .ite h.dropStruck.reportError.abortFor h.dropStruck.reportError

theorem Canonical.withWounds {ws : List (Nat × Bool)} (h : Canonical s) : Canonical { s with wounds := ws } := h.same rfl rfl

theorem Canonical.settleWounds (h : Canonical s) : Canonical (settleWounds s) := by
  unfold Machine.settleWounds
  refine Canonical.foldl (fun v w hv => ?_) h.withWounds _
  have hreported : ∀ {e}, Canonical (if w.2 then v else v.reportError e) := .ite hv hv.reportError
  exact .ite hreported.abortFor hreported

theorem Canonical.abortNow (h : Canonical s) : Canonical (abortNow s i).1 := by
  unfold Machine.abortNow
  split
  · exact ite_fst h.abortAccess h
  · exact ite_fst h.abortPosition h

theorem keeps_metBy {met : Option (Nat × Nat)} {chan : Bool} {hit : Ctx → Access → Elem → Bool} {f : Requester → Option Elem → State → State}
    (hf : ∀ r e u, Canonical u → Canonical (f r e u)) (h : Canonical s) : Keeps (metBy s met chan hit f) := by
  unfold metBy
  split
  · exact keeps_happens (hf _ _ _ h)
  next m =>
    split
    · exact keeps_notNow h
    · split
      next t habort =>
        have ht : Canonical t := keeps_eventOn (fun _ hv => hv.abortNow) h t habort
        exact .ite (keeps_happens (hf _ _ _ ht)) (keeps_notNow h)
      · exact keeps_notNow h

theorem uncorrectableError_keeps {site : ErrorSite} (h : Canonical s) : Keeps (execUncorrectableError site s) := by
  unfold execUncorrectableError
  dsimp only
  split
  case h_1 => exact .ite (keeps_notNow h) (keeps_happens h.hbmError)
  case h_2 =>
    split
    · exact keeps_metBy (fun _ _ _ hu => hu.cacheError) h
    · exact keeps_notNow h
  case h_3 => exact .ite (keeps_notNow h) (keeps_happens (h.same rfl rfl))
  case h_4 =>
    split
    · exact .ite (keeps_notNow h) (keeps_happens (Canonical.onCtx (fun _ hu => hu.modCtx) h).reportError)
    · exact keeps_notNow h
  case h_5 => exact .ite (keeps_notNow h) (keeps_happens h.setQuad.reportError)
  case h_6 => exact .ite (keeps_notNow h) (keeps_happens h.setQuad.reportError)
  case h_7 => exact .ite (keeps_notNow h) (keeps_metBy (fun _ _ _ hu => hu.reportError) h)
  case h_8 => exact .ite (keeps_notNow h) (keeps_happens h.loseLine.reportError)
  case h_9 =>
    split
    · refine keeps_metBy (fun _ _ u hu => Canonical.reportError ?_) h
      exact Canonical.foldl (fun _ _ hv => hv.task (TaskOnly.refl _).dropWord) hu _
    · exact keeps_notNow h
  case h_10 =>
    split
    · exact .ite (keeps_notNow h) (keeps_happens (Canonical.onCtx (fun _ hu => hu.modCtx) h).reportError)
    · exact keeps_notNow h
  case h_11 => exact .ite (keeps_notNow h) (keeps_happens (h.same rfl rfl))

theorem correctableError_keeps (h : Canonical s) : Keeps (execCorrectableError stack row s) :=
  .ite (keeps_notNow h) (.ite (keeps_happens h.modLife.modHub) (keeps_happens h.modLife.modHub.recordError.retireFrame))

/-! ## Resets -/

theorem Canonical.mergeLife (h : Canonical s) : Canonical (mergeLife s) := h.same rfl rfl

theorem lifetimeMerge_keeps (h : Canonical s) : Keeps (execLifetimeMerge s) := .ite (keeps_notNow h) (keeps_happens h.mergeLife)

theorem lifeEstimate_keeps {est : BitVec 64} (h : Canonical s) : Keeps (execLifeEstimate est s) :=
  .ite (keeps_notNow h) (keeps_happens h.modHub.withPower)

theorem Canonical.boot (h : Canonical s) : Canonical (boot s) := h.same rfl rfl

/-- A reset that clears memory leaves it empty. -/
theorem canonical_clearedState (s : State) (last : BitVec 2) : Canonical (clearedState s last) := ⟨rfl, rfl⟩

theorem powerOnReset_keeps : Keeps (execPowerOnReset s) := keeps_happens (canonical_clearedState s 0).boot

theorem rstctlColdReset_keeps (h : Canonical s) : Keeps (execRstctlColdReset hart s) :=
  keeps_leaderWrite (fun _ _ => (canonical_clearedState _ _).boot) h

theorem rstctlPtok_keeps (h : Canonical s) : Keeps (execRstctlPtok hart s) := keeps_leaderWrite (fun _ hu => hu.withPower) h

theorem Keeps.state {x : Result} (hx : Keeps x) (h : Canonical s) : Canonical (x.state s) := by
  unfold Result.state
  split
  · exact hx _ rfl
  · exact h

theorem Canonical.finishShuttle (h : Canonical s) : Canonical (finishShuttle cid b n s) := by
  induction n generalizing s with
  | zero => exact h
  | succ n ih =>
    rw [Machine.finishShuttle]
    split
    next t hmove => exact .ite (ih (shuttleElementMove_keeps h t hmove)) h
    · exact h

theorem Canonical.finishEngines (h : Canonical s) : Canonical (finishEngines s) := by
  unfold Machine.finishEngines
  refine Canonical.foldl (fun v p hv => ?_) (Canonical.foldl (fun v x hv => ?_) h _) _
  · split
    · exact Canonical.onCtx (fun _ hw => hw.runTile) hv
    · exact hv
  · have hmoved : Canonical ([false, true].foldl (fun u ch =>
        Result.state (execShuttleCompletion x.cid ch (Machine.finishShuttle x.cid ch (movesLeft x ch) u)) u) v) :=
      Canonical.foldl (fun _ _ hw => (shuttleCompletion_keeps hw.finishShuttle).state hw) hv _
    exact (darningStripe_keeps hmoved).state hmoved

theorem Canonical.writeBacks {ls : List Nat} (h : Canonical s) : Canonical (ls.foldl State.writeBack s) :=
  Canonical.foldl (fun _ _ hv => hv.task (writeBack_storedOnly _ _).taskOnly) h ls

theorem Canonical.flushAll (h : Canonical s) : Canonical (flushAll s) := h.writeBacks.settleWounds.writeBacks

theorem Canonical.warmState (h : Canonical s) : Canonical (warmState s) := by
  unfold Machine.warmState
  exact Canonical.boot (h.finishEngines.flushAll.mergeLife.same rfl rfl)

theorem rstctlWarmReset_keeps (h : Canonical s) : Keeps (execRstctlWarmReset hart s) :=
  .ite (keeps_notNow h) (keeps_leaderWrite (fun _ hu => hu.warmState) h)

/-! ## Power -/

theorem phyTrainingComplete_keeps {full : BitVec 16} (h : Canonical s) : Keeps (execPhyTrainingComplete full s) :=
  .ite (keeps_notNow h) (keeps_happens h.withPower)

theorem memoryGateOpen_keeps (h : Canonical s) : Keeps (execMemoryGateOpen s) := .ite (keeps_notNow h) (keeps_happens h.withPower)

theorem linkTrainingComplete_keeps (h : Canonical s) : Keeps (execLinkTrainingComplete n s) := .ite (keeps_notNow h) (keeps_happens h.withPower)

theorem canonical_powerOff (s : State) : Canonical (powerOff s) := (canonical_clearedState s 0).withPower

theorem powerInputOutOfRange_keeps (h : Canonical s) : Keeps (execPowerInputOutOfRange n s) :=
  .ite (keeps_notNow h) (keeps_happens (canonical_powerOff s))

theorem powerLoss_keeps : Keeps (execPowerLoss s) := keeps_happens (canonical_powerOff s)

theorem Canonical.sampleDie {d c v : Nat} (h : Canonical s) : Canonical (sampleDie s d c v) := h.withPower.modLife

theorem thermalSample_keeps {temps volts : List Nat} (h : Canonical s) : Keeps (execThermalSample n temps volts s) := by
  have hsampled := Canonical.foldl (f := fun t d => Machine.sampleDie t d (temps.getD d 0) (volts.getD d 0)) (fun _ _ hv => hv.sampleDie) h (List.range 7)
  exact .ite (keeps_notNow h) (.ite (keeps_happens (canonical_powerOff _)) (keeps_happens hsampled.withPower))

end

end Sys2Proof.Proofs
end

section
/-! PROOFS. Every instruction and every event keeps the canonical form of HBM and of the capacity tier. -/

namespace Sys2Proof.Proofs

set_option Elab.async false

open Sys2Proof.Machine Sys2Proof.Laws

variable {s t : State} {i : Instr}

theorem seal_keeps {m : GroupMsg} (h : Canonical s) : Keeps (exec (.seal m) s) := receive_keeps h

/-- The message SEAL comes before the other events: its name is a word of Lean, which names no case of a split. -/
theorem event_keeps (hword : wordBytes i = 0) (h : Canonical s) : Keeps (exec i s) := by
  by_cases hseal : ∃ m, i = .seal m
  · obtain ⟨m, rfl⟩ := hseal
    exact seal_keeps h
  cases i with
  | engineWait => exact engineWait_keeps h
  | contextSwitch => exact contextSwitch_keeps h
  | hoopNotification => exact hoopNotification_keeps h
  | taskRetirement => exact taskRetirement_keeps h
  | gangTermination => exact gangTermination_keeps h
  | preemptionRequest => exact preemptionRequest_keeps h
  | forcedStop => exact forcedStop_keeps h
  | contextStop => exact contextStop_keeps h
  | contextResumption => exact contextResumption_keeps h
  | engineFaultDelivery => exact engineFaultDelivery_keeps h
  | tileCommandExecution => exact tileCommandExecution_keeps h
  | shuttleCommandBegin => exact shuttleCommandBegin_keeps h
  | shuttleCompletion => exact shuttleCompletion_keeps h
  | cutworkExecution => exact cutworkExecution_keeps h
  | couchingExecution => exact couchingExecution_keeps h
  | queueEngineExecution => exact queueEngineExecution_keeps h
  | footsideExecution => exact footsideExecution_keeps h
  | darningStripe => exact darningStripe_keeps h
  | placementBoundary => exact placementBoundary_keeps h
  | pageMigration => exact pageMigration_keeps h
  | evictionStart => exact evictionStart_keeps h
  | pageEviction => exact pageEviction_keeps h
  | chainDemotion => exact chainDemotion_keeps h
  | launch => exact launch_keeps h
  | gangPlacement => exact gangPlacement_keeps h
  | gangReserving => exact gangReserving_keeps h
  | waitsig => exact waitsig_keeps h
  | setsig => exact setsig_keeps h
  | mark => exact mark_keeps h
  | nopPacket => exact nopPacket_keeps h
  | packetReject => exact packetReject_keeps h
  | priorityAging => exact priorityAging_keeps h
  | faultHoldExpiry => exact faultHoldExpiry_keeps h
  | qnotify => exact qnotify_keeps h
  | remoteNotify => exact remoteNotify_keeps h
  | nqclr => exact nqclr_keeps h
  | qmapcmdMap => exact qmapcmdMap_keeps h
  | qmapcmdUnmap => exact qmapcmdUnmap_keeps h
  | accevict => exact accevict_keeps h
  | xinvPage => exact xinvPage_keeps h
  | xinvAsid => exact xinvAsid_keeps h
  | xinvAll => exact xinvAll_keeps h
  | grpcfgForm => exact grpcfgForm_keeps h
  | grpcfgStby => exact grpcfgStby_keeps h
  | grpcfgAbrt => exact grpcfgAbrt_keeps h
  | grpmemWrite => exact grpmemWrite_keeps h
  | heartbeatTimer => exact heartbeatTimer_keeps h
  | memberLoss => exact memberLoss_keeps h
  | heartbeat => exact receive_keeps h
  | delta => exact receive_keeps h
  | dack => exact receive_keeps h
  | prepared => exact receive_keeps h
  | abortreq => exact receive_keeps h
  | crec => exact receive_keeps h
  | crecack => exact receive_keeps h
  | commit => exact receive_keeps h
  | abort => exact receive_keeps h
  | loss => exact receive_keeps h
  | query => exact receive_keeps h
  | qreply => exact receive_keeps h
  | shreq => exact receive_keeps h
  | share => exact receive_keeps h
  | join => exact receive_keeps h
  | protectedLineRepair => exact protectedLineRepair_keeps h
  | uncorrectableError => exact uncorrectableError_keeps h
  | correctableError => exact correctableError_keeps h
  | activationSaturation => exact activationSaturation_keeps h
  | auditReplayEnd => exact auditReplayEnd_keeps h
  | remoteTimeout => exact remoteTimeout_keeps h
  | ualinkRequest => exact ualinkRequest_keeps h
  | uetPacket => exact uetPacket_keeps h
  | leadcmdRenew => exact leadcmdRenew_keeps h
  | leadcmdTake => exact leadcmdTake_keeps h
  | leadcmdResign => exact leadcmdResign_keeps h
  | leaseLapse => exact leaseLapse_keeps h
  | keycmdLoadMemoryKey => exact keycmdLoadMemoryKey_keeps h
  | keycmdZeroiseMemoryKey => exact keycmdZeroiseMemoryKey_keeps h
  | keycmdLoadNotifyKey => exact keycmdLoadNotifyKey_keeps h
  | keycmdZeroiseNotifyKey => exact keycmdZeroiseNotifyKey_keeps h
  | measext => exact measext_keeps h
  | signcmd => exact signcmd_keeps h
  | flashMailboxRead => exact flashMailboxRead_keeps h
  | rstctlWarmReset => exact rstctlWarmReset_keeps h
  | rstctlColdReset => exact rstctlColdReset_keeps h
  | rstctlPtok => exact rstctlPtok_keeps h
  | powerOnReset => exact powerOnReset_keeps
  | powerInputOutOfRange => exact powerInputOutOfRange_keeps h
  | powerLoss => exact powerLoss_keeps
  | memoryGateOpen => exact memoryGateOpen_keeps h
  | thermalSample => exact thermalSample_keeps h
  | lifetimeMerge => exact lifetimeMerge_keeps h
  | lifeEstimate => exact lifeEstimate_keeps h
  | registerWrite => exact registerWrite_keeps h
  | writeLands => exact writeLands_keeps h
  | globalAccessPerformed => exact globalAccessPerformed_keeps h
  | shuttleElementMove => exact shuttleElementMove_keeps h
  | podHoopArrival => exact podHoopArrival_keeps h
  | periodicRefresh => exact periodicRefresh_keeps h
  | phyTrainingComplete => exact phyTrainingComplete_keeps h
  | linkTrainingComplete => exact linkTrainingComplete_keeps h
  | supervisorHartAccess => exact supervisorHartAccess_keeps h
  | _ => simp [wordBytes] at hword hseal

theorem exec_keeps (h : Canonical s) : Keeps (exec i s) := by
  by_cases hword : wordBytes i = 0
  · exact event_keeps hword h
  · exact fun t hexec => h.task (exec_taskOnly hword hexec)

end Sys2Proof.Proofs
end

section
/-! PROOFS. The supervisor harts' instructions keep the canonical form of HBM and of the capacity tier. -/

namespace Sys2Proof.Proofs

open Sys2Proof.Machine Sys2Proof.Laws

variable {s t u : State}

section
variable {d len w k n mode : Nat} {f : Hart → Hart} {va pc : W64} {b : Bool}

theorem Canonical.modHart (h : Canonical s) : Canonical (s.modHart d f) := h.same rfl rfl

theorem Canonical.setPriv (h : Canonical s) : Canonical (s.setPriv d n) := h.withHub

theorem Canonical.handOver (h : Canonical s) : Canonical (handOver s d mode pc) := h.modHart.setPriv

/-- What an instruction of a hart comes to leaves canonical stores. -/
def HartKeeps : HartEnd → Prop
  | .done t => Canonical t
  | .trap t _ _ => Canonical t
  | .wait => True

theorem HartKeeps.ite {p : Prop} [Decidable p] {x y : HartEnd} (hx : HartKeeps x) (hy : HartKeeps y) : HartKeeps (if p then x else y) := by
  split
  · exact hx
  · exact hy

theorem hartIllegal_keeps (h : Canonical s) : HartKeeps (hartIllegal s w) := h

theorem hartNext_keeps (h : Canonical s) : HartKeeps (hartNext s d len f) := h.modHart

theorem hartNextIf_keeps {v : Option W64} (h : Canonical s) : HartKeeps (hartNextIf s d len w n v) := by
  unfold hartNextIf
  split
  · exact hartNext_keeps h
  · exact hartIllegal_keeps h

theorem hartMemory_keeps {use : HartUse} {acc : Nat → HartAccess} {f : List Byte → Hart → Hart} (h : Canonical s) :
    HartKeeps (hartMemory s d len use va n acc f) := by
  unfold hartMemory
  refine .ite h ?_
  split
  · exact h
  · split
    · exact h
    · refine .ite trivial ?_
      dsimp only
      split
      · exact hartNext_keeps h.hartAccess
      · exact h.hartAccess

theorem hartAtomic_keeps (h : Canonical s) : HartKeeps (hartAtomic s d len w) := by
  unfold hartAtomic
  refine .ite (hartIllegal_keeps h) ?_
  split
  · exact .ite (hartIllegal_keeps h) (hartMemory_keeps h)
  · exact hartMemory_keeps h
  · split
    · exact hartMemory_keeps h
    · exact hartIllegal_keeps h

theorem hartCsr_keeps (h : Canonical s) : HartKeeps (hartCsr s d len w) := by
  unfold hartCsr
  dsimp only
  split
  · exact hartIllegal_keeps h
  · exact .ite (hartIllegal_keeps h) (hartNext_keeps h)

theorem Canonical.hartReturn (h : Canonical s) : Canonical (hartReturn s d b) := h.modHart.setPriv

theorem Canonical.hartTrap (h : Canonical s) : Canonical (hartTrap s d b n va) := h.modHart.setPriv

theorem hartSystem_keeps (h : Canonical s) : HartKeeps (hartSystem s d len w) :=
  .ite (hartIllegal_keeps h) (.ite (hartCsr_keeps h) (.ite h (.ite h (.ite h.hartReturn (.ite h.hartReturn
    (.ite (hartNext_keeps h) (.ite (hartNext_keeps h) (hartIllegal_keeps h))))))))

theorem hartFma_keeps (h : Canonical s) : HartKeeps (hartFma s d len w) := by
  unfold hartFma
  dsimp only
  split
  · exact .ite (hartIllegal_keeps h) (hartNext_keeps h)
  · exact hartIllegal_keeps h

theorem hartFp_keeps (h : Canonical s) : HartKeeps (hartFp s d len w) := by
  unfold hartFp
  dsimp only
  have hill : HartKeeps (hartIllegal s w) := hartIllegal_keeps h
  have hput : ∀ {f}, HartKeeps (hartNext s d len f) := hartNext_keeps h
  refine .ite hill ?_
  split
  · split
    · exact hput
    · exact hill
  · exact .ite hill hput
  · split
    · exact hput
    · exact hill
  · exact .ite hill hput
  · exact .ite hill hput
  · exact .ite hill hput
  · exact .ite hill hput
  · exact .ite hill hput
  · split
    · exact .ite hill hput
    · exact hill
  · exact hill

theorem hartExec_keeps (h : Canonical s) : HartKeeps (hartExec s d len w) := by
  unfold hartExec
  dsimp only
  have hill : HartKeeps (hartIllegal s w) := hartIllegal_keeps h
  have hnext : ∀ {f}, HartKeeps (hartNext s d len f) := hartNext_keeps h
  have hdone : ∀ {f}, HartKeeps (.done (s.modHart d f)) := h.modHart
  split
  case h_1 => exact hnext
  case h_2 => exact hnext
  case h_3 => exact hdone
  case h_4 => exact .ite hdone hill
  case h_5 =>
    split
    · exact hdone
    · exact hill
  case h_6 => exact .ite hill (hartMemory_keeps h)
  case h_7 => exact .ite hill (hartMemory_keeps h)
  case h_8 => exact hartNextIf_keeps h
  case h_9 => exact hartNextIf_keeps h
  case h_10 => exact hartNextIf_keeps h
  case h_11 => exact hartNextIf_keeps h
  case h_12 => exact .ite hnext hill
  case h_13 => exact hartSystem_keeps h
  case h_14 => exact hartAtomic_keeps h
  case h_15 => exact .ite hill (hartMemory_keeps h)
  case h_16 => exact .ite hill (hartMemory_keeps h)
  case h_21 => exact .ite hill (hartFp_keeps h)
  case h_22 => exact hill
  all_goals exact .ite hill (hartFma_keeps h)

theorem hartParcel_keeps {p : State × Except Nat Nat} (h : Canonical s) (hfetch : hartParcel s d va = some p) : Canonical p.1 := by
  unfold hartParcel at hfetch
  split at hfetch
  · obtain rfl := Option.some.inj hfetch
    exact h
  · split at hfetch
    · obtain rfl := Option.some.inj hfetch
      exact h
    · dsimp only at hfetch
      split at hfetch
      · cases hfetch
      · obtain rfl := Option.some.inj hfetch
        exact h.homeRead

theorem hartFetchExec_keeps (h : Canonical s) : HartKeeps (hartFetchExec s d) := by
  unfold hartFetchExec
  dsimp only
  split
  · trivial
  next t c hfetch => exact hartParcel_keeps h hfetch
  next t low hfetch =>
    have ht : Canonical t := hartParcel_keeps h hfetch
    split
    · split
      · exact hartExec_keeps ht
      · exact hartIllegal_keeps ht
    · split
      · trivial
      next u c hfetch => exact hartParcel_keeps ht hfetch
      next u high hfetch => exact hartExec_keeps (hartParcel_keeps ht hfetch)

theorem Canonical.hartStep (h : Canonical s) : Canonical (hartStep s d).1 := by
  unfold Machine.hartStep
  refine ite_fst h ?_
  split
  · exact h.hartTrap
  · have hkeeps := hartFetchExec_keeps (d := d) h
    split
    · exact h
    next t c v hend =>
      rw [hend] at hkeeps
      exact Canonical.hartTrap hkeeps
    next t hend =>
      rw [hend] at hkeeps
      exact Canonical.modHart hkeeps

end

end Sys2Proof.Proofs
end

section
/-! PROOFS. O37: cycles, choices and every step keep the canonical form of HBM and of the capacity tier. -/

namespace Sys2Proof.Proofs

set_option Elab.async false

open Sys2Proof.Machine Sys2Proof.Laws

variable {s t u : State}

section
variable {c : Cluster} {ps : List (Cluster × State)} {act : List Cluster} {va : W64}

/-! ## Turns -/

theorem Canonical.noteFetch (h : Canonical s) : Canonical (noteFetch s va) := h.task (TaskOnly.refl s).fetched.fetchError

theorem Canonical.takeTrap {code : Nat} {tval ecmd : W64} (h : Canonical s) : Canonical (takeTrap s c code tval ecmd) :=
  h.task (TaskOnly.refl s).takeTrap

theorem runCluster_keeps (h : Canonical s) : Keeps (runCluster s) := by
  unfold runCluster
  refine .ite (.next (h.task (TaskOnly.refl s).hold)) ?_
  split
  · exact .next h.takeTrap
  · refine .ite (.next (h.noteFetch.task (TaskOnly.refl _).flowTo.finish)) ?_
    split
    · exact exec_keeps h.noteFetch
    · exact .next h.noteFetch.takeTrap

theorem Canonical.holdGroup (h : Canonical s) : Canonical (holdGroup act ps s) := h.modCtx

theorem Canonical.enterCycle (h : Canonical s) : Canonical (enterCycle s) := h.same rfl rfl

theorem Canonical.enter {x : TrapInfo} (h : Canonical s) : Canonical (x.enter s) := h.enterTrap

theorem Canonical.withPlan {cs : List Cluster} (h : Canonical s) : Canonical { s with plan := cs } := h.same rfl rfl

theorem Canonical.planCycle (h : Canonical s) : Canonical (planCycle s) := by
  unfold Machine.planCycle
  refine .ite (.ite h.enterCycle.holdGroup ?_) h.enterCycle.modCtx.withPlan
  split
  · exact h.enterCycle.enter
  · exact h.enterCycle.withPlan

theorem Canonical.judgeGroup (h : Canonical s) : Canonical (judgeGroup s) := h.modCtx

theorem Canonical.afterTurn (h : Canonical s) : Canonical (afterTurn s) := by
  refine .ite h ?_
  split
  · exact h.enter
  · exact (Canonical.ite h.parkWaits.judgeGroup h).stopIfParked

theorem beginCycle_keeps (h : Canonical s) : Keeps (beginCycle s) :=
  .ite (exec_keeps h.enterCycle) (.ite (exec_keeps h.modCtx.planCycle.withPlan) (.next h.modCtx.planCycle.afterTurn))

theorem Canonical.focusNext (h : Canonical s) (hfocus : focusNext s = some t) : Canonical t := by
  unfold Machine.focusNext at hfocus
  split at hfocus
  · cases hfocus
  · split at hfocus
    · exact Option.some.inj hfocus ▸ h
    · obtain ⟨n, -, rfl⟩ := Option.map_eq_some_iff.1 hfocus
      exact h.swapAt

/-! ## The passing of time -/

theorem Canonical.passMicrosecond (h : Canonical s) : Canonical (passMicrosecond s) := by
  unfold Machine.passMicrosecond
  dsimp only
  exact Canonical.retryWorn (Canonical.retryReturns (h.same rfl rfl))

theorem Canonical.endStalls (h : Canonical s) : Canonical (endStalls s) := h.modCtx

theorem Canonical.rejoin (h : Canonical s) : Canonical (rejoin s) := by
  unfold Machine.rejoin
  dsimp only
  have hready : ∀ {v}, Canonical v → Canonical (if stopsGracefully v.ctx && !v.ctx.running then
      Machine.stopIfParked (Machine.judgeGroup (Machine.parkWaits v)) else v) := fun hv => .ite hv.parkWaits.judgeGroup.stopIfParked hv
  exact hready (.ite h.modCtx (.ite h.endStalls (.ite h.modCtx h)))

theorem Canonical.refreshSent (h : Canonical s) : Canonical (refreshSent s) := .ite (h.same rfl rfl) (h.same rfl rfl)

theorem Canonical.settleGroups (h : Canonical s) : Canonical (settleGroups s) :=
  Canonical.drainGroups (Canonical.foldl (fun _ _ hv => (hv.task (flushGroup_storedOnly _ _).taskOnly).settleAbort.settlePassed) h _)

theorem Canonical.startReplays {ys : List AuditRun} (h : Canonical s) : Canonical (ys.foldl Machine.startReplay s) :=
  Canonical.foldl (fun _ _ hv => hv.startReplay) h ys

theorem Canonical.settleCycle (h : Canonical s) : Canonical (settleCycle s) := by
  unfold Machine.settleCycle
  dsimp only
  have hpeers := (Canonical.foldl (f := State.settleQuad) (fun _ _ hv => hv.settleQuad) h (s.quads.map (·.1))).settleGroups.touchWalked.settleWounds.settlePeers
  refine Canonical.refreshSent (.ite (Canonical.settleXinv ?_) ?_)
  · exact hpeers.startReplays.settleQmap.settleKey
  · exact hpeers.startReplays.settleQmap.settleKey

theorem Canonical.withOthers {xs : List Ctx} (h : Canonical s) : Canonical { s with others := xs } := h.same rfl rfl

theorem Canonical.rejoinAll {xs : List Ctx} (h : Canonical s) : Canonical (xs.foldl (fun t x => t.onCtx x.cid Machine.rejoin) s) :=
  Canonical.foldl (fun _ _ hv => Canonical.onCtx (fun _ hw => hw.rejoin) hv) h xs

theorem Canonical.tick (h : Canonical s) : Canonical (tick s) := by
  unfold Machine.tick
  dsimp only
  have hsettled : ∀ {xs : List Ctx} {l : List Ctx},
      Canonical (Machine.settleCycle (xs.foldl (fun t x => t.onCtx x.cid Machine.rejoin) { s with others := l })) :=
    h.withOthers.rejoinAll.settleCycle
  refine .ite (Canonical.passMicrosecond ?_) ?_
  · exact hsettled.same rfl rfl
  · exact hsettled.same rfl rfl

theorem skipMicrosecond_keeps (h : Canonical s) : Keeps (skipMicrosecond s) :=
  .ite (keeps_notNow h) (keeps_happens (Canonical.passMicrosecond (h.settleCycle.same rfl rfl)))

/-! ## Choices -/

theorem Canonical.remoteStore {pa : Nat} {bs : List Byte} (h : Canonical s) : Canonical (remoteStore s pa bs) :=
  Canonical.foldl (fun _ _ hv => hv.disownWord) (h.task (TaskOnly.refl s).remoteSet) _

theorem Canonical.touchLine {line : Nat} {g : LineTag} (h : Canonical s) : Canonical (s.touchLine line g).1 :=
  h.task (touchLine_storedOnly _ _ _).taskOnly

theorem Canonical.fetchFill (h : Canonical s) : Canonical (fetchFill s va).1 := by
  unfold Machine.fetchFill
  split
  · exact h
  · exact ite_fst h h.noteFetch.countAccess.touchLine

theorem performRow_keeps {i : Instr} (h : Canonical s) : Keeps (performRow i s) := by
  refine .ite (keeps_notNow h) ?_
  split
  · split
    · refine .ite (exec_keeps h) (.ite (keeps_notNow h) ?_)
      split
      next t hfocus => exact beginCycle_keeps (h.focusNext hfocus)
      · exact keeps_notNow h
    · exact keeps_notNow h
  · exact exec_keeps (Canonical.foldl (fun _ _ hv => Canonical.onCtx (fun _ hw => hw.judgeGroup) hv) h _)
  · exact exec_keeps h

theorem choose_keeps {x : Choice} (h : Canonical s) : Keeps (choose x s) := by
  cases x with
  | row i => exact performRow_keeps h
  | tick => exact keeps_happens h.tick
  | microsecond => exact skipMicrosecond_keeps h
  | evictL1 core line => exact keeps_happens (h.task (TaskOnly.refl s).setL1)
  | dropTlb n => exact keeps_happens h.withTlb
  | setRoot asid root => exact .ite (keeps_notNow h) (keeps_happens (Canonical.prunePages (h.same rfl rfl)))
  | setFree stack pages => exact .ite (keeps_notNow h) (keeps_happens (h.same rfl rfl))
  | returnPage page die => exact keeps_happens h.returnOnDemand
  | linkKeys port => exact .ite (keeps_notNow h) (keeps_happens h.withPower)
  | standbyDarned i j r => exact keeps_eventIf h h.standbyDarned
  | remoteStore pa bytes => exact keeps_eventIf h h.remoteStore
  | fetchFill cid va => exact keeps_eventOn (fun _ hv => ite_fst hv.fetchFill hv) h
  | activation bank row => exact keeps_eventIf h h.activateRows
  | hartRead die reg => exact keeps_eventIf h h.hartRead
  | hartMode die mode pc => exact keeps_eventIf h h.handOver
  | hartStep die => exact keeps_eventIf h h.hartStep
  | recoveryMail bytes => exact keeps_eventIf h h.modHub
  | flashWrite item => exact keeps_happens h.modFlash

/-! ## Steps -/

theorem Canonical.firstEnabled {is : List Instr} (h : Canonical s) (hfirst : firstEnabled s is = some t) : Canonical t := by
  induction is with
  | nil => cases hfirst
  | cons i is ih =>
    rw [Machine.firstEnabled] at hfirst
    split at hfirst
    next u hrow =>
      split at hfirst
      · exact Option.some.inj hfirst ▸ performRow_keeps h u hrow
      · exact ih hfirst
    · exact ih hfirst

theorem idle_keeps (h : Canonical s) : Keeps (idle s) := by
  unfold idle
  split
  next t hfirst => exact .next (h.firstEnabled hfirst)
  · split
    next t hfocus => exact beginCycle_keeps (h.focusNext hfocus)
    · exact keeps_happens h.tick

theorem Canonical.overdue (h : Canonical s) (hdue : overdue s = some t) : Canonical t := by
  unfold Machine.overdue at hdue
  split at hdue
  · cases hdue
  · exact h.firstEnabled hdue

theorem Canonical.withSchedule {cs : List Choice} (h : Canonical s) : Canonical { s with schedule := cs } := h.same rfl rfl

theorem boundaryStep_keeps (h : Canonical s) : Keeps (boundaryStep s) := by
  unfold boundaryStep
  refine .ite ?_ (.ite (exec_keeps h) ?_)
  · split
    · exact exec_keeps h.withSchedule
    · exact keeps_notNow h.withSchedule
    · exact keeps_notNow (h.same rfl rfl)
  · split
    next t hdue => exact .next (h.overdue hdue)
    · split
      · exact exec_keeps h
      · split
        · exact idle_keeps h
        · split
          next t hfocus => exact beginCycle_keeps (h.focusNext hfocus)
          · exact choose_keeps h.withSchedule
        · exact choose_keeps h.withSchedule

theorem step_keeps (h : Canonical s) : Keeps (step s) := by
  refine .ite (boundaryStep_keeps h) ?_
  split
  next t hrun => exact .next (runCluster_keeps h t hrun).afterTurn
  · exact runCluster_keeps h

end

/-- Settles O37: each operation that a step is made of keeps the form, since it changes HBM by writes and copies only and the capacity tier by
removal and by whole pages. -/
theorem everyStepKeepsMemoryCanonical : Obligations.EveryStepKeepsMemoryCanonical := by
  unfold Obligations.EveryStepKeepsMemoryCanonical
  intro s t hs hstep
  exact step_keeps hs t hstep

end Sys2Proof.Proofs
end
